-- ==== Sys2Proof/Word.lean ====
section
/-! DEFINITION. Bytes, words, and the sorted sparse table in which the model keeps every memory, register file and
family of like blocks. -/

namespace Sys2Proof

abbrev Byte := BitVec 8
abbrev Word := BitVec 32
abbrev Bytes := List (BitVec 8)

/-- A table from keys to values: keys strictly rising, and no entry equal to what an unlisted key reads as. -/
abbrev Tab (α : Type) := List (Nat × α)

/-- What key k reads as, d where it is not listed. -/
def Tab.get {α : Type} (d : α) : Tab α → Nat → α
  | [], _ => d
  | (j, v) :: m, k => if j = k then v else if k < j then d else Tab.get d m k

/-- Removes key k. -/
def Tab.erase {α : Type} : Tab α → Nat → Tab α
  | [], _ => []
  | (j, v) :: m, k => if j = k then m else if k < j then (j, v) :: m else (j, v) :: Tab.erase m k

/-- Lists value v at key k, whatever an unlisted key reads as. -/
def Tab.insert {α : Type} : Tab α → Nat → α → Tab α
  | [], k, w => [(k, w)]
  | (j, v) :: m, k, w =>
    if j = k then (k, w) :: m else if k < j then (k, w) :: (j, v) :: m else (j, v) :: Tab.insert m k w

/-- Writes v at key k, keeping the canonical form. -/
def Tab.set {α : Type} [DecidableEq α] (d : α) (m : Tab α) (k : Nat) (v : α) : Tab α :=
  if v = d then Tab.erase m k else Tab.insert m k v

/-- Every key of m lies above lo, and keys rise strictly. -/
def Tab.rising {α : Type} : Option Nat → Tab α → Bool
  | _, [] => true
  | none, (j, _) :: m => Tab.rising (some j) m
  | some lo, (j, _) :: m => decide (lo < j) && Tab.rising (some j) m

/-- The canonical form. -/
def Tab.wf {α : Type} [DecidableEq α] (d : α) (m : Tab α) : Bool :=
  Tab.rising none m && m.all (fun e => decide (e.2 ≠ d))

end Sys2Proof
end

