-- ==== Sys2Proof/Syntax.lean ====
section
/-! DEFINITION. The commands of the block: one constructor of Instr per row of spec/opcode_table.json, with the row's
operands, and the types of those operands. `t` is the raw counter's value (TCLK, 1 ns) at which the command happens. -/

namespace Sys2Proof

/-- The four register parties (R405), in their order of service. -/
inductive Party where
  | pcie | mgmt | usb | bridge
  deriving DecidableEq, Repr

/-- The index of a party. -/
def Party.ix : Party → Nat
  | .pcie => 0 | .mgmt => 1 | .usb => 2 | .bridge => 3

/-- The tick reference TLV of a Sync (Table TIM-5). -/
structure TickRef where
  length : Nat
  base : BitVec 64
  period : BitVec 3
  hyper : BitVec 4
  tick : BitVec 64
  inaug : BitVec 32
  deriving DecidableEq, Repr

/-- A Sync as a time-aware port receives it (R85, R90): domain, the clock identity of the master that it names, its
origin in ns, its correctionField in units of 2^-16 ns, and the TLVs after its body. Of a two-step Sync, origin and
correctionField are those of the Sync with its Follow_Up. -/
structure SyncMsg where
  domain : BitVec 8
  master : BitVec 64
  origin : BitVec 64
  corr : Int
  twoStep : Bool := false
  suffix : Bytes := []
  deriving DecidableEq, Repr

/-- Pdelay messages of a port (R84): a request with its receipt, its sender's port identity and its sequence number; a
response with its follow-up. Times are in units of 0.125 ns, those of this node as its MAC takes them; `ratio` is the
neighbour rate ratio less 1 in units of 2^-41, as IEEE 802.1AS scales it. -/
inductive PdelayMsg where
  | request (rx : Nat) (source : BitVec 80) (seq : BitVec 16)
  | response (tx peerRx peerTx rx : Nat) (ratio : Int)
  deriving DecidableEq, Repr

/-- Message type of the PTP frame that carries it. -/
def PdelayMsg.type : PdelayMsg → Nat
  | .request _ _ _ => 2
  | .response _ _ _ _ _ => 3

/-- What SECDED finds on a read of Larder words (R182): nothing, a single-bit error, or a double-bit error in word
`word` of the item that is read, two words to a cell (R158). -/
inductive Ecc where
  | good | single | double (word : Nat)
  deriving DecidableEq, Repr

/-- A time in TCLK with what is found at it: what SECDED finds on a read, or whether a self-test passes. -/
structure At (α : Type) where
  t : Nat
  found : α
  deriving DecidableEq, Repr

/-- A transfer of a control link (R24): its check fails, or it is good, and may carry the start (true) or the end of a
burst of group `0` of port group FLD (R113). -/
inductive LinkCheck where
  | bad | good (burst : Option Bool)
  deriving DecidableEq, Repr

/-- What a poll reads of an optical or cable module (R119): the state of the module and of the data path of each of its
slots. -/
structure ModuleStates where
  module : BitVec 3
  paths : List (BitVec 4)
  deriving DecidableEq, Repr

/-- The transport of a PTP message (R85). An IPv6 datagram has a checksum trailer after the message, or it has none. -/
inductive PtpTransport where
  | ethernet | udp4 | udp6 (trailer : Bool)
  deriving DecidableEq, Repr

/-- A port by its first lane, or a Gable lane: 256 for G0 and 257 for G1 (R115). -/
abbrev PortRef := Fin 258

/-- An application that an optical or cable module advertises: its code, and the group mode and FEC choice that it serves
(R119). -/
structure ModuleApp where
  code : BitVec 8
  mode : Nat
  fec : Nat
  deriving DecidableEq, Repr

/-- How a side-bus transaction ends on the wires (R311, R312). -/
inductive BusEnd where
  | ok (rdata : Bytes) | nackAddr | nackData | arbLost
  deriving DecidableEq, Repr

/-- A CAN or CAN FD frame on the bus; a base identifier stands in bits [28:18] of id (Table FBS-4). -/
structure CanFrame where
  id : BitVec 29
  ide : Bool
  rtr : Bool
  fdf : Bool
  brs : Bool
  esi : Bool
  dlc : BitVec 4
  data : Bytes
  deriving DecidableEq, Repr

/-- An error as ISO 11898-1 weighs it for TEC and REC: seen as transmitter, as transmitter with one of its two
exceptions, as receiver, as receiver that sees a dominant bit right after its error flag, or eight further dominant bits
after a flag, as transmitter or receiver. -/
inductive CanErr where
  | transmitter | transmitterExempt | receiver | receiverDominant | dominantRun (tx : Bool)
  deriving DecidableEq, Repr

/-- A resource under a lease (Table ASD-8): far-bus lock of a side bus, bridge semaphore, started copy of a queue,
ownership of a service queue, and host DMA ring. -/
inductive LeaseRes where
  | lock (bus : Fin 12) | sema (k : Fin 256) | copy (queue : Fin 6144) | service (queue : Fin 4096) | ring (s : Fin 2048)
  deriving DecidableEq, Repr

/-- A descriptor of a host ring as the host posts it: buffer address and size, FLAGS.LAST, and the bytes that the buffer
holds, for a queue from the host (Table HST-3). -/
structure HostDesc where
  addr : BitVec 64
  len : Nat
  last : Bool
  data : Bytes := []
  deriving DecidableEq, Repr

/-- What a module hears of its partner at READY: EUI-64 at the far end of the Gable link, side, role, EPOCH, and whether
the images agree under R42 (R209, R210). -/
structure PartnerSeen where
  eui : BitVec 64
  side : Bool
  role : Nat
  epoch : BitVec 32
  imageOk : Bool
  deriving DecidableEq, Repr

/-- The commands, one constructor per row of spec/opcode_table.json. -/
inductive Instr where
  /-- R15. First supply or VKA at the reset level resets all state, RWS fields included, except the Attic and
    the retained Porch RAM. -/
  | powerOnReset (t : Nat)
  /-- R15. RST_N driven low starts a warm reset of all state except RWS fields, the Attic and the Porch
    retention RAM. -/
  | rstNLow (t : Nat)
  /-- R15. HST_RST CMD 5Ah requests a warm reset. -/
  | hostWarmReset (t : Nat) (party : Party) (bootMode : BitVec 2) (pairSide : Bool)
  /-- R441. HST_RST CMD A5h or a management request resets the status, counters and inactive copies of one
    block and keeps its active configuration. -/
  | perBlockReset (t : Nat) (party : Party) (block : BitVec 8)
  /-- R207. At instant RESET_TICK each target node performs a consist-commanded reset. -/
  | consistCommandedReset (t : Nat) (bootMode : BitVec 2) (pairSide : Bool)
  /-- R361. The Cellar's own reset recalibrates its modulators and sends START and the KEY records within 400
    ms. -/
  | cellarReset (t : Nat) (cal : Bool)
  /-- R106. Calibration of a port group ends, and its ports move from CAL to WAIT_SIGNAL or to FAULT. -/
  | portGroupCalibrationDone (t : Nat) (group : Fin 33) (lat : Option (List (Nat × Nat)))
  /-- R368. With all calibrations reported, the RWL fields are sealed, READY rises and inauguration and
    pairing start. -/
  | readyRise (t : Nat) (partner : Option PartnerSeen)
  /-- R13. A write to a register without a row of its own acts by the access type of each field. -/
  | registerWrite (t : Nat) (party : Party) (addr : BitVec 26) (value : BitVec 32) (enables : BitVec 4)
  /-- R13. A read of an RC field by PCIe or the management cluster returns the field and clears it. -/
  | rcRead (t : Nat) (party : Party) (addr : BitVec 26)
  /-- R12. A read of the lower word of a 64-bit pair captures the upper word for the reading party. -/
  | lowWordCapture (t : Nat) (party : Party) (addr : BitVec 26)
  /-- R24. A transfer on the fabric-control link or the field link is checked by CRC, retried on failure and
    delivered in order. -/
  | linkTransferReceived (t : Nat) (field : Bool) (seq : Nat) (data : LinkCheck)
  /-- R25. With a tick longer than 500 µs, CTL sends a refresh frame that repeats the last commands every 500
    µs. -/
  | refreshFrameSend (t : Nat)
  /-- R339. A power die takes a load command frame and restarts its watchdog where the CRC and sequence count
    are valid. -/
  | commandFrameReceived (t : Nat) (die : Fin 2) (crcOk : Bool)
  /-- R325. A power die latches the commands of the tick frame at the latch symbol sent at the instant. -/
  | latchSymbol (t : Nat) (die : Fin 2)
  /-- R338. The power-die watchdog expires without a valid frame. -/
  | watchdogExpiry (t : Nat) (die : Fin 2)
  /-- R442. A power die reports power-up and CTL writes its copy of the channel settings. -/
  | powerDiePowerUp (t : Nat) (die : Fin 2)
  /-- R44. At the common instant inputs are frozen, staged outputs take effect and the tick number advances.
    -/
  | tickInstant (t : Nat)
  /-- R47. The image assembler stops collecting at instant + 1.0 µs and the image completes in all three voter
    channels. -/
  | imageAssemblyClose (t : Nat)
  /-- R45. Tasks start in every voter channel at instant + 2.0 µs in task-table order. -/
  | taskStart (t : Nat)
  /-- R66. Moves operand B into W[RD]. -/
  | mov (vc : Fin 3)
  /-- R66. Adds B to W[RA] modulo 2^32. -/
  | add (vc : Fin 3)
  /-- R66. Subtracts B from W[RA] modulo 2^32. -/
  | sub (vc : Fin 3)
  /-- R66. Bitwise AND of W[RA] and B. -/
  | andOp (vc : Fin 3)
  /-- R66. Bitwise OR of W[RA] and B. -/
  | orOp (vc : Fin 3)
  /-- R66. Bitwise XOR of W[RA] and B. -/
  | xorOp (vc : Fin 3)
  /-- R66. Shifts W[RA] left by B mod 32. -/
  | shl (vc : Fin 3)
  /-- R66. Shifts W[RA] right logically by B mod 32. -/
  | shr (vc : Fin 3)
  /-- R66. Sets W[RD] to 1 where W[RA] COND B holds and to 0 otherwise. -/
  | cmp (vc : Fin 3)
  /-- R66. Selects W[RA] where W[RC] is non-zero, and otherwise B. -/
  | sel (vc : Fin 3)
  /-- R66. Signed saturating add of W[RA] and B. -/
  | satadd (vc : Fin 3)
  /-- R66. Low 32 bits of W[RA] times B. -/
  | mul (vc : Fin 3)
  /-- R66. Signed division truncated toward 0, giving 0 for a divisor of 0. -/
  | div (vc : Fin 3)
  /-- R66. Remainder of the signed division, with the sign of W[RA]. -/
  | rem (vc : Fin 3)
  /-- R66. Loads an image word from the input or committed state section. -/
  | ld (vc : Fin 3)
  /-- R66. Stores W[RB] to the output section or the pending state. -/
  | st (vc : Fin 3)
  /-- R66. Loads a 64-bit image value into a time register. -/
  | tld (vc : Fin 3)
  /-- R66. Saturating signed difference of two time registers, in ns. -/
  | tsub (vc : Fin 3)
  /-- R66. Compares two time registers over 64 bits. -/
  | tcmp (vc : Fin 3)
  /-- R66. Forward branch where IMM is 1 or W[RA] is non-zero. -/
  | brf (vc : Fin 3)
  /-- R66. Runs a body of instructions a counted number of times. -/
  | loopOp (vc : Fin 3)
  /-- R66. Writes LEN and TALKER into an output-sentence slot. -/
  | emitOp (vc : Fin 3)
  /-- R66. Ends the task. -/
  | endOp (vc : Fin 3)
  /-- R66. An invalid instruction ends the task as END does and sets BAD_OP. -/
  | invalidInstruction (vc : Fin 3)
  /-- R64. A task that runs beyond its WCET raises TASK_WCET and is not stopped. -/
  | taskWcet (t : Nat) (vc : Fin 3)
  /-- R67. At the task deadline, channels that have not ended are stopped and the vote proceeds or the tick
    overruns. -/
  | taskDeadline (t : Nat)
  /-- R68. After OVR_LIMIT consecutive overruns the Tick Engine halts and load command frames stop. -/
  | tickEngineHalt (t : Nat)
  /-- R38. The voter forwards, word by word, the value on which at least two channels agree and commits
    pending state. -/
  | vote (t : Nat)
  /-- R243. A resynchronised channel rejoins at the first instant by which its state and code equal the
    majority's. -/
  | vcRejoin (t : Nat) (vc : Fin 3)
  /-- R245. In each tick with N mod TEST_TICKS = 0 the next channel sits out one tick for its logic self-test.
    -/
  | vcSelfTest (test : At Bool)
  /-- R51. With no strobe within 2 × P, the supervisor raises TICK_LOST and stops the Tick Engine. -/
  | tickLost (t : Nat)
  /-- R45. Staging closes at instant + P − 2 µs, and later imports count as late. -/
  | stagingClose (t : Nat)
  /-- R73. Voted export entries are packed into image frames by the export map and leave in their windows. -/
  | exportSend (t : Nat) (frame : Nat)
  /-- R73. A received image frame writes its entries into the import region for the next instant. -/
  | imageFrameReceived (t : Nat) (queue : Fin 504) (ecc : Ecc)
  /-- R55. A Gingham window opens at its START in a selected tick. -/
  | windowStart (t : Nat) (seg : Fin 288) (entry : Fin 65536)
  /-- R55. A Gingham window closes at its STOP. -/
  | windowStop (t : Nat) (seg : Fin 288) (entry : Fin 65536)
  /-- R59. A write of GNG_TBL_DATA2 commits the three entry words to the inactive copy while OPEN is 1. -/
  | gngTblData2Write (t : Nat) (party : Party) (value : BitVec 32)
  /-- R59. Setting GNG_TBL_ADDR.OPEN stops the self-test of the inactive copy within 2 µs. -/
  | gngOpenWrite (t : Nat) (party : Party) (entry : BitVec 16) (open_ : Bool)
  /-- R59. A self-test pass of the inactive Gingham copy completes. -/
  | ginghamSelfTestDone (t : Nat) (ok : Bool)
  /-- R85. A Sync from the master is measured, compared and regenerated on time-aware ports. -/
  | syncReceived (t : Nat) (port : Fin 257) (ingress : Nat) (msg : SyncMsg)
  /-- R84. The master sends Sync carrying the tick reference TLV every Sync interval. -/
  | syncSend (t : Nat)
  /-- R85. A transparent clock adds the residence time, and any link delay, to a forwarded PTP event message.
    -/
  | ptpEventForward (t : Nat) (inPort outPort : Fin 256) (ingress egress : Nat) (p2p : Bool) (transport :
    PtpTransport) (corr : BitVec 64)
  /-- R84. A time-aware port starts a peer delay exchange every Pdelay interval. -/
  | pdelayRequest (t : Nat) (port : Fin 257)
  /-- R84. A received Pdelay message updates the measured mean link delay. -/
  | pdelayMessageReceived (t : Nat) (port : Fin 257) (msg : PdelayMsg)
  /-- R76. The servo replaces RATE and OFFSET as a pair at the effective raw value E. -/
  | servoPairChange (t : Nat) (est : Int) (eff : Nat)
  /-- R77. TU_TOD_CMD.SET steps OFFSET so the reading equals TOD, accepted only while FREE. -/
  | todSet (t : Nat) (party : Party)
  /-- R78. A read of TU_NOW_FRAC captures the raw counter and the whole reading for the party. -/
  | tuNowCapture (t : Nat) (party : Party)
  /-- R78. A read of TU_OFS_FRAC captures the whole OFFSET for the party. -/
  | tuOfsCapture (t : Nat) (party : Party)
  /-- R78. A read of TU_RATE_LO captures TU_RATE_HI for the party. -/
  | tuRateCapture (t : Nat) (party : Party)
  /-- R92. After two Sync intervals without Sync the node enters HOLDOVER at its last rate and offset. -/
  | holdover (t : Nat)
  /-- R93. A backup of rank r that hears no better source for 2 + r Sync intervals becomes master. -/
  | masterChg (t : Nat)
  /-- R88. On loss of the recovered clock the PLL holds frequency and the next source is selected. -/
  | syntonLoss (t : Nat)
  /-- R95. A PPS_IN edge is stamped and steers or steps the master, or is only recorded by others. -/
  | ppsInEdge (t : Nat) (falling : Bool) (est : Int)
  /-- R95. With no PPS_IN edge within 1.1 s, PPS_MISS is set. -/
  | ppsMiss (t : Nat)
  /-- R96. PPS_OUT rises ADJ ns before every whole second of consist time. -/
  | ppsOutEdge (t : Nat)
  /-- R97. TICK_OUT rises ADJ ns before each instant N with N mod 2^DIV = 0. -/
  | tickOutEdge (t : Nat)
  /-- R106. Signal on every lane of a port in WAIT_SIGNAL starts training or lock. -/
  | signalDetected (t : Nat) (port : PortRef)
  /-- R106. Link training succeeds and the port enters LOCK. -/
  | trainingDone (t : Nat) (port : PortRef)
  /-- R106. Training not finished in 500 ms returns the port to WAIT_SIGNAL. -/
  | trainTimeout (t : Nat) (port : PortRef)
  /-- R106. All locks are achieved and the port enters HOLD. -/
  | lockAchieved (t : Nat) (port : PortRef)
  /-- R106. Locks not achieved in 10 ms return the port to WAIT_SIGNAL. -/
  | lockTimeout (t : Nat) (port : PortRef)
  /-- R106. Locks held for UP_HOLD ms take the port to UP. -/
  | holdExpiry (t : Nat) (port : PortRef)
  /-- R107. A loss condition takes an UP or DEGRADED port to WAIT_SIGNAL within 1 µs. -/
  | portDown (t : Nat) (port : PortRef) (localFault : Bool)
  /-- R109. Receiving remote-fault ordered sets makes the port send idle only and count as down. -/
  | remoteFaultStart (t : Nat) (port : PortRef)
  /-- R109. When remote faults stop, the port counts as up again after UP_HOLD ms. -/
  | remoteFaultEnd (t : Nat) (port : PortRef)
  /-- R110. At the end of each 1 ms window the port enters or leaves DEGRADED against SD_THR. -/
  | sdWindowEnd (t : Nat) (port : Fin 256)
  /-- R112. A received FEC codeword is corrected or found uncorrectable and counted. -/
  | codewordReceived (t : Nat) (lane : PortRef) (corrected : Nat) (uncorrectable : Bool)
  /-- R113. QUIET µs without a heavy codeword end the burst and log it. -/
  | burstEnd (t : Nat) (group : Fin 32)
  /-- R114. A non-zero LOOP or PRBS takes the port down, and clearing every TEST register restarts it at
    WAIT_SIGNAL. -/
  | laneTestWrite (t : Nat) (party : Party) (group : Fin 32) (lane : Fin 8) (value : BitVec 32)
  /-- R119. A found optical module gets its matching application selected and is powered up. -/
  | moduleFound (t : Nat) (group : Fin 32) (slot : Fin 8) (apps : List ModuleApp)
  /-- R119. Every 50 ms the module flags are polled, and OPT_FLAG is raised on alarms. -/
  | modulePoll (t : Nat) (group : Fin 32) (slot : Fin 8) (alarm : Bool) (states : ModuleStates) (temp : BitVec
    8)
  /-- R119. Removal of a module takes its ports down. -/
  | moduleRemoved (t : Nat) (group : Fin 32) (slot : Fin 8)
  /-- R125. An ingress pipeline runs parse, VLAN, stream identification, metering, sequence and lookup stages
    on a frame header. -/
  | frameHeaderReceived (t : Nat) (port : PortRef) (vc : Fin 2) (stamp : Nat) (frame : Bytes)
  /-- R165. After the last byte the descriptor's LEN, FAULT and POISON are written with LEN_VALID 1. -/
  | frameEndReceived (t : Nat) (port : PortRef) (codewordsOk : Bool) (reassembled : Bool)
  /-- R142. A learned entry unseen for its ageing time is removed. -/
  | ageExpiry (t : Nat) (entry : Fin 262144)
  /-- R149. At each point where a port can start a frame, the scheduler picks the next item under gates and
    shapers. -/
  | egressDecision (t : Nat) (port : PortRef) (ecc : Ecc)
  /-- R161. A copy whose last byte has left is released and REFS decremented. -/
  | frameTxComplete (t : Nat) (port : PortRef)
  /-- R151. The 802.3br verify exchange enables preemption or sets VERIFY_FAIL. -/
  | preemptVerify (t : Nat) (port : Fin 256) (ok : Bool)
  /-- R139. An item held for RESET_TICKS ticks skips the gap, adds to LOST and raises SEQ_GAP. -/
  | recoveryHeldTimeout (t : Nat) (fn : Fin 16384)
  /-- R139. With no item passed for RESET_TICKS ticks the function sets TAKE_ANY. -/
  | recoveryIdleTimeout (t : Nat) (fn : Fin 16384)
  /-- R171. LDR_QCMD CMD 1h releases every unstarted copy in the queue, refused for assured queues. -/
  | dropRemainder (t : Nat) (queue : Fin 8192)
  /-- R170. A queue whose head has not changed for STALE_TICKS ticks becomes stale and is drained by class. -/
  | queueStale (t : Nat) (queue : Fin 6144)
  /-- R246. A lease not renewed in LEASE ticks is revoked as its resource requires. -/
  | leaseExpiry (t : Nat) (res : LeaseRes)
  /-- R183. The scrub engine reads a serving word in an idle slot and writes back a correction. -/
  | scrubWord (t : Nat) (ecc : Ecc)
  /-- R184. Every ROT_MS the next logical bank starts being copied into the spare. -/
  | spareRotation (t : Nat)
  /-- R184. After the copy the bank maps to the former spare and the old bank becomes the spare under test. -/
  | spareCopyDone (t : Nat)
  /-- R185. The march test of the new spare completes, and a failure raises ROT_FAIL and stops rotation. -/
  | spareTestDone (t : Nat) (ok : Bool)
  /-- R185. A bank reaching DED_RETIRE uncorrectable errors is copied out and retired. -/
  | bankRetired (t : Nat) (bank : Fin 32)
  /-- R178. A GRANT frame updates hop credit and carries HOP_ACK and missing ranges. -/
  | grantReceived (t : Nat) (port : Fin 257) (windowAt : Nat) (payload : Bytes)
  /-- R192. A HELLO keeps a port up for the consist and can trigger an inauguration. -/
  | helloReceived (t : Nat) (port : Fin 257) (payload : Bytes)
  /-- R192. HELLO_MISS ticks without a HELLO take a port down for the consist. -/
  | helloLost (t : Nat) (side : Fin 8)
  /-- R195. A CALL with REQ 0 is adopted, covered or dropped by candidate comparison. -/
  | callReceived (t : Nat) (port : Fin 257) (payload : Bytes)
  /-- R193. A REQ is relayed once, starts a head wait, and makes the head start a round. -/
  | reqReceived (t : Nat) (port : Fin 257) (payload : Bytes)
  /-- R196. An ECHO resolves a port as a child, and the node echoes or completes the census. -/
  | echoReceived (t : Nat) (port : Fin 257) (payload : Bytes)
  /-- R198. A node computes its position, relays the COMMIT and goes to PENDING. -/
  | commitReceived (t : Nat) (port : Fin 257) (payload : Bytes)
  /-- R200. At COMMIT_TICK every PENDING node applies position, head, dateline, tick base and master. -/
  | commitInstant (t : Nat)
  /-- R204. An IDENT is relayed once and checked for a shared EUI-64. -/
  | identReceived (t : Nat) (port : Fin 257) (payload : Bytes)
  /-- R207. A RESET frame is relayed once and schedules the reset at RESET_TICK. -/
  | resetFrameReceived (t : Nat) (port : Fin 257) (payload : Bytes)
  /-- R193. An expired head wait makes the node originate a round. -/
  | headWaitExpiry (t : Nat)
  /-- R201. A node without COMMIT within 3 × P + 2 µs returns to RUN or originates a round. -/
  | roundFail (t : Nat)
  /-- R201. A head whose census is incomplete after 2 × P + 2 µs starts a new round. -/
  | censusTimeout (t : Nat)
  /-- R193. CST_CMD.INAUG triggers an inauguration. -/
  | cstInaug (t : Nat) (party : Party)
  /-- R207. CST_CMD.RESET floods a RESET frame for the current tick + 2. -/
  | cstReset (t : Nat) (party : Party)
  /-- R210. A non-preferred module hearing no partner for 16 ticks after READY becomes duty. -/
  | dutyTimeout (t : Nat)
  /-- R215. The partner writes a mirror to pool 4 and answers ACK or NACK. -/
  | mirrorReceived (t : Nat) (payload : Bytes)
  /-- R216. An ACK lets the duty issue the sequence number and accept the item. -/
  | ackReceived (t : Nat) (payload : Bytes)
  /-- R217. A NACK refuses the item and later unacknowledged items of its stream. -/
  | nackReceived (t : Nat) (payload : Bytes)
  /-- R217. The standby discards withdrawn mirrors and steps its SEQ_NEXT back. -/
  | withdrawReceived (t : Nat) (payload : Bytes)
  /-- R217. At the instant ending a write tick, items without an ACK are refused and withdrawn. -/
  | acceptanceDeadline (t : Nat)
  /-- R225. The standby buffers STATE records of the tick. -/
  | stateReceived (t : Nat) (payload : Bytes)
  /-- R226. The standby applies the tick's records together where the CRC matches. -/
  | tickEndReceived (t : Nat) (payload : Bytes)
  /-- R227. A partner HEALTH report updates partner status. -/
  | healthReceived (t : Nat) (side : Bool) (payload : Bytes)
  /-- R237. The standby takes over at the next or following instant. -/
  | relinquishReceived (t : Nat) (payload : Bytes)
  /-- R236. At staging close with no TICK_END or HELLO for two ticks, the standby declares the partner lost or
    ISOLATED. -/
  | partnerLost (t : Nat)
  /-- R238. The new duty increments EPOCH, applies the last output image and activates its interfaces. -/
  | takeover (t : Nat)
  /-- R240. A duty without HEALTH, HELLO or other consist ports for two ticks fences itself. -/
  | fenceTimeout (t : Nat)
  /-- R240. With the fabric-control link down for P, FAB stops edge egress and acceptance. -/
  | fabricLinkDownFence (t : Nat)
  /-- R241. RESYNC records carry bulk state and mirrors to a new standby. -/
  | resyncReceived (t : Nat) (payload : Bytes)
  /-- R242. After REVERT_HOLD redundant ticks the non-preferred duty starts a handover. -/
  | revertHoldExpiry (t : Nat)
  /-- R242. ASD_CMD.HANDOVER starts a handover, refused where not redundant or not duty. -/
  | asdHandover (t : Nat) (party : Party)
  /-- R242. The partner records the handover tick T. -/
  | handoverReceived (t : Nat) (payload : Bytes)
  /-- R242. At instant T the roles swap, or the handover is abandoned. -/
  | handoverInstant (t : Nat)
  /-- R220. A FETCH for a poisoned item is answered with FETCH_DATA within 2 µs. -/
  | fetchReceived (t : Nat) (payload : Bytes)
  /-- R220. The partner's copy replaces the poisoned item, or the item is lost. -/
  | fetchDataReceived (t : Nat) (payload : Bytes)
  /-- R377. The partner keeps received volatile log entries in EVT_PLOG. -/
  | logReceived (t : Nat) (payload : Bytes)
  /-- R303. A received character is flagged and stored or passed to the sentence engine. -/
  | uartCharacterReceived (t : Nat) (channel : Fin 32) (start idle : Nat) (samples : List (BitVec 3))
  /-- R269. No byte for TMO ms inside a sentence discards it as FRAME_ERR. -/
  | sentenceTimeout (t : Nat) (talker : Fin 512)
  /-- R254. A UDP frame in the talker queue is parsed into up to 16 sentences. -/
  | udpSentenceFrame (rd : At Ecc)
  /-- R272. The engine checks, filters and routes a sentence in assignment-time order. -/
  | sentenceProcess (t : Nat)
  /-- R262. A free UART transmitter takes the next sentence whole from its queue. -/
  | uartListenerSend (rd : At Ecc) (listener : Fin 1023)
  /-- R262. A UDP listener builds a datagram per sentence and sends it into FAB. -/
  | udpListenerSend (rd : At Ecc) (listener : Fin 1023)
  /-- R273. A write of DATA7 commits the row to the inactive copy. -/
  | senTblData7Write (t : Nat) (party : Party) (value : BitVec 32)
  /-- R281. A valid received message is stored in the lowest matching buffer. -/
  | canMessageReceived (t : Nat) (channel : Fin 32) (sof : Nat) (frame : CanFrame)
  /-- R286. At bus idle the controller offers HP or the winning pending buffer. -/
  | canTxOffer (t : Nat) (channel : Fin 32)
  /-- R288. A transmitted message is valid after EOF and its buffer ends DONE. -/
  | canTxDone (t : Nat) (channel : Fin 32) (sof : Nat) (tdcv : BitVec 7)
  /-- R286. A lost arbitration is counted and the choice repeats at the next idle. -/
  | arbLost (t : Nat) (channel : Fin 32) (sof : Nat)
  /-- R289. A bus error updates TEC and REC and may change the error state. -/
  | canBusError (t : Nat) (channel : Fin 32) (error : CanErr) (sof : Nat) (delay : Option Nat)
  /-- R275. 11 consecutive recessive bits end integration. -/
  | integrationDone (t : Nat) (channel : Fin 32)
  /-- R289. 128 occurrences of 11 recessive bits end recovery in ERROR_ACTIVE. -/
  | busOn (t : Nat) (channel : Fin 32)
  /-- R289. FBn_CMD.RECOVER starts recovery from BUS_OFF. -/
  | fbRecover (t : Nat) (party : Party) (channel : Fin 32)
  /-- R285. FBn_CMD.HP_REQ requests HP. -/
  | fbHpReq (t : Nat) (party : Party) (channel : Fin 32)
  /-- R287. FBn_CMD.HP_CANCEL cancels HP before SOF. -/
  | fbHpCancel (t : Nat) (party : Party) (channel : Fin 32)
  /-- R285. FBn_TXCMD CMD 1h requests a host-owned buffer. -/
  | fbTxRequest (t : Nat) (party : Party) (channel : Fin 32) (buf : Fin 128)
  /-- R287. FBn_TXCMD CMD 2h cancels a pending transmission. -/
  | fbTxCancel (t : Nat) (party : Party) (channel : Fin 32) (buf : Fin 128)
  /-- R283. Writing FBn_MBSEL with LOCK copies the buffer into the shadow and locks it. -/
  | fbMbselWrite (t : Nat) (party : Party) (channel : Fin 32) (value : BitVec 32)
  /-- R283. A lock held for 10 µs ends and raises LOCK_TMO. -/
  | lockTmo (t : Nat) (channel : Fin 32)
  /-- R284. A window write reaches only a host transmit buffer or HP not pending. -/
  | fbMbwinWrite (t : Nat) (party : Party) (channel : Fin 32) (word : Fin 32) (value : BitVec 32)
  /-- R279. After DWELL ms the next timing pair is tried. -/
  | ardDwellExpiry (t : Nat) (channel : Fin 32)
  /-- R291. TXD dominant for 2.5 ms releases the driver. -/
  | txdTmo (t : Nat) (channel : Fin 32) (recessive : Bool) (since : Nat)
  /-- R297. An ISO 11898-2 wake-up pattern wakes or arms selective wake. -/
  | wakePattern (t : Nat) (channel : Fin 8)
  /-- R298. A matching frame or the decoder error count wakes the IXKAR. -/
  | selectiveWakeFrame (t : Nat) (channel : Fin 8) (good : Bool) (frame : CanFrame)
  /-- R306. A read of UAn_DATA by PCIe or the management cluster pops the receive FIFO. -/
  | uaDataRead (t : Nat) (party : Party) (channel : Fin 32)
  /-- R304. A write of UAn_DATA queues a byte or is ignored with TXOVR. -/
  | uaDataWrite (t : Nat) (party : Party) (channel : Fin 32) (value : BitVec 8)
  /-- R305. A read of UAn_STAT records the flags for the party's clearing sequence. -/
  | uaStatRead (t : Nat) (party : Party) (channel : Fin 32)
  /-- R305. Writing 1s to UAn_FLAGCLR clears sticky flags. -/
  | uaFlagclrWrite (t : Nat) (party : Party) (channel : Fin 32) (value : BitVec 32)
  /-- R309. UAn_TXCTL.BREAK sends a break once the transmitter is idle. -/
  | uaBreak (t : Nat) (party : Party) (channel : Fin 32) (value : BitVec 32)
  /-- R308. A character finishes sending and the RS-485 driver is released after the last one. -/
  | uartCharacterSent (t : Nat) (channel : Fin 32)
  /-- R314. The engine takes a request in rotating queue order and allocates a tag. -/
  | bridgeRequestTake (rd : At Ecc)
  /-- R311. OP READ reads bytes from a side-bus device. -/
  | bridgeRead (t : Nat) (bus : Fin 12)
  /-- R311. OP WRITE writes bytes to a side-bus device. -/
  | bridgeWrite (t : Nat) (bus : Fin 12)
  /-- R311. OP WRITE_READ writes, then reads after a repeated START. -/
  | writeRead (t : Nat) (bus : Fin 12)
  /-- R319. OP LOCK grants the bus to the queue under a lease. -/
  | bridgeLock (t : Nat) (bus : Fin 12)
  /-- R319. OP UNLOCK sends STOP or releases CS and frees the bus. -/
  | bridgeUnlock (t : Nat) (bus : Fin 12)
  /-- R321. Grants a free semaphore or queues the request. -/
  | semAcq (t : Nat)
  /-- R321. Frees a semaphore and grants it to the first waiter. -/
  | semRel (t : Nat)
  /-- R321. Restarts the owner's semaphore lease. -/
  | semRenew (t : Nat)
  /-- R316. A bridge snapshot read of BAR0 registers. -/
  | regRead (t : Nat)
  /-- R316. A bridge write of one BAR0 register, REG_LOCKED where sealed. -/
  | regWrite (t : Nat)
  /-- R316. A side-bus transaction completes and its completion is written. -/
  | bridgeTransactionDone (t : Nat) (bus : Fin 12) (result : BusEnd)
  /-- R317. A transaction not done within TMO ms ends with TIMEOUT. -/
  | bridgeTimeout (t : Nat) (bus : Fin 12)
  /-- R311. Clock stretching beyond STRETCH_MAX ends the transaction. -/
  | stretchTimeout (t : Nat) (bus : Fin 8) (held : Nat)
  /-- R319. A transaction waiting LOCK_WAIT ticks completes with LOCKED. -/
  | lockWaitExpiry (t : Nat) (bus : Fin 12)
  /-- R311. A line low for STUCK_MS starts bus recovery and ends pending transactions. -/
  | busStuck (t : Nat) (bus : Fin 8) (sda : Bool) (since : Nat)
  /-- R311. Recovery frees both lines and the bus takes new transactions. -/
  | busRecovered (t : Nat) (bus : Fin 8)
  /-- R323. A poll entry runs every INTERVAL ticks. -/
  | pollInterval (t : Nat) (poll : Fin 64)
  /-- R323. A side-band input going low runs the poll entries with LINE set. -/
  | sideBandLine (t : Nat) (bus : Fin 12) (low : Bool) (since : Nat)
  /-- R326. A pulse turns its channel on at START and off at STOP. -/
  | pulseEdge (t : Nat) (ls : Fin 24) (on : Bool)
  /-- R327. A PWM period starts, with a new DUTY taking effect. -/
  | pwmPeriodStart (t : Nat) (ls : Fin 24)
  /-- R331. At the end of blanking a low output declares SHORT. -/
  | blankingEnd (t : Nat) (ls : Fin 24) (low : Bool)
  /-- R331. An output below 20 % of VLS for 20 µs declares SHORT and switches off. -/
  | short (t : Nat) (ls : Fin 24) (since : Nat)
  /-- R331. A channel still commanded on retries through its full profile. -/
  | retryIntervalExpiry (t : Nat) (ls : Fin 24) (temp : Int)
  /-- R333. At 170 °C the channel switches off. -/
  | thermal (t : Nat) (ls : Fin 24) (low : Bool)
  /-- R333. At 150 °C a non-latching channel turns on again through its profile. -/
  | thermalRestart (t : Nat) (ls : Fin 24)
  /-- R329. A group or die average over its limit switches off the highest-index on channel. -/
  | groupOc (t : Nat) (die : Fin 2) (which : Fin 3)
  /-- R334. A group supply below 7.0 V switches its channels off. -/
  | vlsUv (t : Nat) (group : Fin 4) (lost : Bool)
  /-- R334. VLS above 7.5 V lets the channels follow their commands again. -/
  | vlsRestore (t : Nat) (group : Fin 4)
  /-- R335. The converter acquires one channel's current, voltage, state and temperature. -/
  | loadReading (t : Nat) (ls : Fin 24) (acq : Nat) (current vout : BitVec 12) (temp : BitVec 9)
  /-- R331. FIO_LSn_CLR re-arms a latched channel at the next latch. -/
  | lsClear (t : Nat) (party : Party) (ls : Fin 24)
  /-- R341. An input transition is stamped and restarts the filter. -/
  | einTransition (t : Nat) (ein : Fin 16) (level : Bool)
  /-- R341. A level held for FILT µs is confirmed as an edge. -/
  | einConfirm (t : Nat) (ein : Fin 16)
  /-- R347. Gross load reaching MIN_LOAD starts WEIGHING. -/
  | weighingStart (t : Nat) (lc : Fin 4) (sample : BitVec 24)
  /-- R347. After SETTLE_MS the averaging window opens. -/
  | settleEnd (t : Nat) (lc : Fin 4)
  /-- R347. At window end the channel issues a WEIGHT or NO_RESULT record. -/
  | weighWindowEnd (t : Nat) (lc : Fin 4) (sum : Int) (lo hi least most : BitVec 24) (causes : BitVec 12) (cal
    : Bool)
  /-- R347. Load below MIN_LOAD / 2 returns the channel to IDLE. -/
  | loadClear (t : Nat) (lc : Fin 4) (sample : BitVec 24)
  /-- R349. A stable idle channel moves its zero toward the mean. -/
  | zeroTracking (t : Nat) (lc : Fin 4) (sum : Int) (lo hi : BitVec 24) (cal : Bool)
  /-- R350. Every 600 s the modulator is checked, and a failure issues FAULT with REF_FAIL. -/
  | referenceCheck (t : Nat) (lc : Fin 4) (result : Option Bool) (cal : Bool)
  /-- R353. CEL signs and sends the next queued record. -/
  | recordSend (t : Nat)
  /-- R355. After 1 ms without a frame, CEL sends a beacon. -/
  | beacon (t : Nat)
  /-- R353. Each LIVE period queues a LIVE record. -/
  | livePeriod (t : Nat) (lc : Fin 4) (sample : BitVec 24) (centre : Nat) (cal : Bool)
  /-- R356. CTL checks and verifies a record and passes it to the image and host. -/
  | cellarRecordReceived (t : Nat) (start : Nat) (crcOk : Bool)
  /-- R349. Moves the zero when idle and stable. -/
  | celZero (t : Nat) (crcOk : Bool) (sum : Int) (lo hi : BitVec 24) (cal : Bool)
  /-- R357. Sets the LIVE record period. -/
  | celLive (t : Nat) (crcOk : Bool) (cal : Bool)
  /-- R354. Resends stored records from a BOOT and RSEQ. -/
  | celReplay (t : Nat) (crcOk : Bool) (cal : Bool)
  /-- R352. Sends the two KEY records. -/
  | celKeyReq (t : Nat) (crcOk : Bool) (cal : Bool)
  /-- R350. Runs a reference check of the channel. -/
  | celRefCheck (t : Nat) (crcOk : Bool) (cal : Bool)
  /-- R359. Stages a calibration zero under CAL_EN. -/
  | calZero (t : Nat) (crcOk : Bool) (sum : Int) (lo hi : BitVec 24) (cal : Bool)
  /-- R359. Stages a span with a reference mass under CAL_EN. -/
  | calSpan (t : Nat) (crcOk : Bool) (sum : Int) (lo hi : BitVec 24) (cal : Bool)
  /-- R359. Stages a sealed parameter value. -/
  | setParam (t : Nat) (crcOk : Bool) (cal : Bool)
  /-- R359. Requests that staged changes be applied. -/
  | celCommit (t : Nat) (crcOk : Bool) (cal : Bool)
  /-- R359. Discards staged changes. -/
  | celDiscard (t : Nat) (crcOk : Bool) (cal : Bool)
  /-- R359. With every affected channel IDLE, staged changes apply, AUDIT increments and CAL_CHANGE is issued.
    -/
  | calChange (t : Nat) (cal : Bool)
  /-- R359. A fall of CAL_EN discards staged changes. -/
  | calEnFall (t : Nat)
  /-- R357. A command without an answer within 10 ms sets CMD_FAIL. -/
  | celCmdTimeout (t : Nat)
  /-- R367. Begins an upload and erases the target header. -/
  | cfgUpdStart (t : Nat) (party : Party) (package : Bool) (stageS : BitVec 8)
  /-- R367. Writes the next four upload bytes. -/
  | cfgUpdData (t : Nat) (party : Party) (value : BitVec 32)
  /-- R367. Writes the header if the CRC matches, otherwise refuses with BAD_CRC. -/
  | cfgUpdCommit (t : Nat) (party : Party) (package : Bool) (stageS : BitVec 8)
  /-- R367. Abandons the upload and leaves the target without a header. -/
  | cfgUpdAbort (t : Nat) (party : Party) (package : Bool) (stageS : BitVec 8)
  /-- R380. CFG_SWAP CMD 1h requests a live swap, which is checked within 4 ms. -/
  | swap (t : Nat) (party : Party) (at_ : Bool)
  /-- R385. CMD 2h requests a staged swap of quiesce items group by group. -/
  | stagedSwap (t : Nat) (party : Party) (at_ : Bool)
  /-- R382. CMD 3h reverts to the former active set. -/
  | swapRevert (t : Nat) (party : Party) (at_ : Bool)
  /-- R382. CMD 4h cancels a pending swap. -/
  | swapCancel (t : Nat) (party : Party)
  /-- R380. The checks end and the swap is refused or scheduled. -/
  | swapCheckDone (t : Nat)
  /-- R380. At the swap instant every inactive copy becomes active. -/
  | swapDone (t : Nat)
  /-- R385. A staged group's ports are UP and a commit has followed, so the next group starts. -/
  | stageGroupDone (t : Nat)
  /-- R385. A staged swap not finished within STAGE_S is rolled back. -/
  | stageTmo (t : Nat)
  /-- R381. Writes the shadow copy of a register field while OPEN is 1. -/
  | cfgShrDataWrite (t : Nat) (party : Party) (value : BitVec 32)
  /-- R373. ATC_CMD STORE writes a settings slot from ATC_BUF. -/
  | atcStore (t : Nat) (party : Party) (slot : Fin 256)
  /-- R373. ATC_CMD READ loads a settings slot into ATC_BUF. -/
  | atcRead (t : Nat) (party : Party) (slot : Fin 256)
  /-- R373. An Attic STORE completes or fails with WORN or FAIL. -/
  | storeDone (t : Nat) (verified : Bool)
  /-- R373. A wear-levelling block move runs to its end. -/
  | wearMove (t : Nat)
  /-- R376. The log writer stores a page once 8 entries wait or 1 s passes. -/
  | logPageStore (t : Nat)
  /-- R377. Writing LOG_FAIL to 0 retries the Attic. -/
  | logFailClear (t : Nat) (party : Party)
  /-- R375. A read of EVT_RD_DATA0 captures the selected entry. -/
  | evtReadCapture (t : Nat) (party : Party)
  /-- R414. A read of TRC_RD_DATA0 captures the selected record. -/
  | trcReadCapture (t : Nat) (party : Party)
  /-- R388. POR_CMD 1h requests Listen. -/
  | porListen (t : Nat) (party : Party)
  /-- R388. POR_CMD 2h requests Standby. -/
  | porStandby (t : Nat) (party : Party)
  /-- R388. POR_CMD 3h requests Sleep. -/
  | porSleep (t : Nat) (party : Party)
  /-- R395. POR_CMD 4h confirms a provisional wake. -/
  | porStay (t : Nat) (party : Party)
  /-- R388. At the next instant the IXKAR leaves Operate for the commanded state. -/
  | stateEntry (t : Nat)
  /-- R392. WAKE_IN held at its level for 50 µs wakes the IXKAR. -/
  | wakeInLevel (t : Nat) (level : Bool)
  /-- R392. LWAKE high for 1 ms wakes the IXKAR. -/
  | lwakeHigh (t : Nat)
  /-- R392. POR_TIMER seconds after entry wake the IXKAR. -/
  | wakeTimer (t : Nat)
  /-- R395. No qualifying traffic within FALSE_T returns a provisional IXKAR. -/
  | falseWake (t : Nat)
  /-- R396. MAX_AWAKE expiry returns a provisional IXKAR and masks its sources. -/
  | awakeLimit (t : Nat)
  /-- R396. A full Sleep cycle of CYCLE_S unmasks sources. -/
  | maskCycleEnd (t : Nat)
  /-- R398. VKA below 2.45 V enters hold-up. -/
  | holdupStart (t : Nat)
  /-- R399. VKA above 2.50 V for 2 ms ends hold-up. -/
  | holdupEnd (t : Nat)
  /-- R401. VKA below 2.25 V causes an orderly reset within 20 µs. -/
  | vkaResetLevel (t : Nat)
  /-- R402. VMON below THR raises VMON_LOW. -/
  | vmonLow (t : Nat)
  /-- R402. VMON low for DLY ms with ACT moves the IXKAR to Standby. -/
  | vmonAction (t : Nat)
  /-- R402. VMON above THR raises VMON_UP and is wake source 11. -/
  | vmonUp (t : Nat)
  /-- R403. Every 10 ms a VDD_CORE target is set, and clipped where out of range. -/
  | avsUpdate (t : Nat) (target : BitVec 10) (waits : Bool)
  /-- R404. Good status at the target lets a waiting clock domain start. -/
  | avsGood (t : Nat) (vout : BitVec 10)
  /-- R404. No good status within 5 ms raises AVS_FAULT and commands VMAX. -/
  | avsFault (t : Nat) (pmbus : Bool)
  /-- R427. INH lines are asserted or released one by one, 2 ms apart. -/
  | inhStep (t : Nat)
  /-- R428. Rails not in range 200 ms after the last INH release every INH line. -/
  | railTimeout (t : Nat) (mask : BitVec 7)
  /-- R428. The INH sequence retries 1 s later. -/
  | railRetry (t : Nat)
  /-- R429. A rail out of range for 2 µs causes an orderly reset. -/
  | railFault (t : Nat) (mask : BitVec 7)
  /-- R425. Tj above 105 °C asserts ERR_N. -/
  | thermalWarning (t : Nat)
  /-- R425. Tj at 125 °C causes an orderly reset held until every die is below 95 °C. -/
  | thermalReset (t : Nat)
  /-- R409. A TAIL doorbell posts descriptors and renews the ring lease. -/
  | tailWrite (t : Nat) (queue : Fin 2048) (tail : BitVec 15) (descs : List HostDesc)
  /-- R409. A HEAD read renews the ring lease. -/
  | headRead (t : Nat) (queue : Fin 2048)
  /-- R409. Writing EN restarts the ring from HEAD. -/
  | ringEnable (t : Nat) (queue : Fin 2048) (lo hi cfg : BitVec 32)
  /-- R408. The IXKAR writes back a descriptor with DONE after the item bytes. -/
  | descriptorComplete (rd : At Ecc) (queue : Fin 2048)
  /-- R412. Vendor REG_READ snapshot-reads up to 64 bytes. -/
  | usbRegRead (t : Nat) (addr : BitVec 32) (len : BitVec 16)
  /-- R412. Vendor REG_WRITE writes words at the status stage. -/
  | usbRegWrite (t : Nat) (addr : BitVec 32) (data : Bytes)
  /-- R411. Starts an image upload over USB. -/
  | imgStart (t : Nat) (target len : BitVec 16)
  /-- R411. Commits the USB upload. -/
  | imgCommit (t : Nat) (len : BitVec 16)
  /-- R411. Aborts the USB upload. -/
  | imgAbort (t : Nat) (len : BitVec 16)
  /-- R411. Returns CFG_UPD_STAT and HST_STAT. -/
  | usbStatus (t : Nat) (len : BitVec 16)
  /-- R411. Bulk OUT data on EP1 carries image bytes to the update engine. -/
  | ep1Data (t : Nat) (data : Bytes)
  /-- R412. A USB bus reset abandons the control transfer and any upload. -/
  | usbBusReset (t : Nat)
  /-- R413. The management cluster answers ARP on the MGT port. -/
  | arpRequest (t : Nat) (mac : BitVec 48) (sender target : BitVec 32)
  /-- R413. The management cluster answers ICMPv4 echo. -/
  | icmpEcho (t : Nat) (src dst : BitVec 32) (ident seq : BitVec 16) (data : Bytes)
  /-- R413. A UDP 5840 datagram from a permitted source performs a register request. -/
  | mgtRegisterRequest (t : Nat) (src dst : BitVec 32) (payload : Bytes)
  /-- R416. JTAG BYPASS instruction. -/
  | bypass (t : Nat) (tdi : List Bool)
  /-- R416. JTAG IDCODE instruction returns 1A56_04D3h. -/
  | idcode (t : Nat)
  /-- R416. JTAG SAMPLE/PRELOAD instruction. -/
  | samplePreload (t : Nat) (levels tdi : List Bool)
  /-- R416. JTAG EXTEST, active only while BOOT_MODE is 1h. -/
  | extest (t : Nat) (levels tdi : List Bool)
  /-- R416. JTAG EXTEST_PULSE on AC-coupled lanes. -/
  | extestPulse (t : Nat) (levels tdi : List Bool)
  /-- R416. JTAG EXTEST_TRAIN on AC-coupled lanes. -/
  | extestTrain (t : Nat) (levels tdi : List Bool)
  /-- R416. JTAG CLAMP instruction. -/
  | clamp (t : Nat) (tdi : List Bool)
  /-- R416. JTAG HIGHZ instruction. -/
  | highz (t : Nat) (tdi : List Bool)
  /-- R368. A held reset ends (RST_N rises, every rail has been in range for 1 ms, VKA rises above 2.50 V, or
    every die is below 95 °C), and start-up with image load begins. -/
  | resetRelease (t : Nat) (bootMode : BitVec 2) (pairSide : Bool)
  /-- R106. A lock breaks while a port is in HOLD, and the port returns to WAIT_SIGNAL. -/
  | holdBreak (t : Nat) (port : PortRef)
  /-- R393. A power-state transition completes, TRANS falls, and a wake held during the transition is acted
    on. -/
  | stateReached (t : Nat)
  /-- R355. With no record frame or beacon for 2 ms, CEL_STAT.PRESENT falls to 0 and ABSENT is raised. -/
  | absent (t : Nat)
  /-- R350. 1 s after the channel returns to IDLE, an interrupted reference check resumes from the same
    segment. -/
  | referenceCheckResume (t : Nat) (lc : Fin 4)
  /-- R221. The Gable MAC retries an unacknowledged pairing frame, and after 16 failed retries takes its lane
    down and raises GABLE_LANE_DOWN. -/
  | gableMacRetry (t : Nat) (lane : Fin 2) (ok : Bool)
  /-- R424. VKA falls below the 1.60 V retention limit, and the Porch retention RAM loses its contents. -/
  | belowRetentionLimit (t : Nat)
  deriving DecidableEq, Repr

end Sys2Proof
end

