-- ==== Sys2Proof/Config.lean ====
section
/-! DEFINITION. What an implementation fixes and the free values: constants with no body, so that no proof can see
what they are. -/

namespace Sys2Proof.Config

/-- GEN_EUI: the factory EUI-64 (spec/17_address_map.md, GEN_EUI_LO and GEN_EUI_HI: reset factory value). -/
opaque eui64 : BitVec 64

/-- The k-th random 32-bit draw (Table CST-4: "Draw a 32-bit random NONCE"). -/
opaque nonce : Nat → BitVec 32

/-- CEL_ID: factory identity of the Cellar (Table CEL-3). -/
opaque celId : BitVec 64

/-- The Cellar's private key, before its reduction to 1 to n - 1 (R345, R352). -/
opaque celKey : BitVec 256

/-- The i-th nonce that CEL draws for its k-th signature (R352: FIPS 186-5). -/
opaque celNonce : Nat → Nat → BitVec 256

/-- priority1, clockClass, clockAccuracy, offsetScaledLogVariance and priority2 of this node's clock (Table CST-3). -/
opaque clockIdentity : BitVec 48

/-- A value that the spec leaves open: the k-th one drawn. -/
opaque freeValue : Nat → BitVec 64

/-- Resets since manufacture (Table CFG-4, BOOT) before the model's reset state. -/
opaque bootsBefore : BitVec 16

/-- The 32-bit value of a span that PARAM_CRC covers, for a reference mass in mg over modulator counts: the manual gives
it no format (R345, R346). -/
opaque celSpanWord : Nat → Nat → BitVec 32

/-- The 32-bit value of a calibrated zero that PARAM_CRC covers, for counts as a numerator over a denominator: the manual
gives it no format (R345). -/
opaque celZeroWord : Int → Nat → BitVec 32

/-- Reset count of the Cellar in its NVM before the model's reset state (Table CEL-3, BOOT). -/
opaque celBootsBefore : BitVec 16

/-- Table and first row that the TARGET of a table section of a block names, where the manual gives no offset (R364). -/
opaque sectionTable : Nat → Nat → Nat × Nat

/-- Rows of a Tick Engine map section as numbers: the manual gives them no layout (R69, R73, R364). -/
opaque mapRows : Nat → List (BitVec 8) → List (List Nat)

/-- The skip of SEQ_NEXT that the compiler stores for a stream of a configuration set (R238). -/
opaque seqSkip : BitVec 64 → Nat → BitVec 16

/-- IPv4 address of the MGT port and the permitted source prefixes, as address and length, that the image with a set
identifier sets (R413). -/
opaque mgtAddress : BitVec 64 → BitVec 32
opaque mgtSources : BitVec 64 → List (BitVec 32 × Nat)

/-- The MAC address of a port, by first lane, or of a Gable lane: the manual gives no address (R73, R189). -/
opaque portMac : Nat → BitVec 48

/-- IP address of a port as the source of its own PTP messages over UDP, version 6 or 4 (Table TIM-2). The manual gives the
ports no IP address. -/
opaque portIp : Bool → Nat → BitVec 128

/-- PRIO that the compiler sets for the items of a flow of CTL: the completions of bridge queue q, the event items of poll
512 + p, the requests of host queue 576 + k and those of the management cluster on side bus 2624 + b (R163). -/
opaque bridgePrio : Nat → BitVec 4

/-- The regulators on the side buses and what the management cluster reads of each: bus, address, PMBus command. The manual names
none of them (R313, R404, Table CFG-7). -/
opaque pmbus : List (BitVec 3 × BitVec 7 × BitVec 8)

/-- What names the event of the start (true) or the end of a burst on the field wiring: the manual gives it no code (R14,
R113). -/
opaque fieldBurst : Bool → BitVec 64

/-- Some task of a set, by its code and with tick period P, commands a pulse of constant window that is empty or shorter than
1 µs. The manual gives task code no layout (R326). -/
opaque constPulse : List (Nat × BitVec 64) → Nat → Bool

/-- The pipeline that the Larder's allocator serves first in FCLK cycle 0: the manual does not say which (R181). -/
opaque pipelineStart : Nat

/-- Fixed delays in ns by which stamps are corrected (R80, Table TIM-1): field wire and transceiver of an FB channel and of a
UA channel, the front end of an event input, and the buffer of PPS_IN. The manual gives no values. -/
opaque fbDelay : Nat → Nat
opaque uaDelay : Nat → Nat
opaque einDelay : Nat → Nat
opaque ppsDelay : Nat

/-- Mode of the MGT lane that the image with a set identifier sets (R117). -/
opaque mgtMode : BitVec 64 → BitVec 2

end Sys2Proof.Config
end

