-- ==== Sys2Proof/Machine/RegMap.lean ====
section
/-! DEFINITION. The register map: every register of spec/01 to spec/17 as its chapter heads it (name, offset, reset,
access) at the block bases of Table MAP-1 (R417), with the bit ranges and access types of its field table (R13). -/

namespace Sys2Proof.Machine

/-- Access types of Table SCP-2 (R13). `live` is an RO field that shows the block's runtime state, which a per-block
reset leaves as it is (R441, log entry 9). -/
inductive Acc where
  | ro | live | rw | w1c | rc | wo | rws | rwl
  deriving DecidableEq, Repr

/-- One field of a register's field table. -/
structure FieldRow where
  hi : Nat
  lo : Nat
  acc : Acc
  deriving DecidableEq, Repr

/-- A register, or a family of registers: the instance with indices i, j, ... lies at base + i * stride_i + ... (R10). -/
structure RegDesc where
  block : Nat
  base : Nat
  dims : List (Nat × Nat)
  reset : BitVec 32
  fields : List FieldRow
  deriving DecidableEq, Repr

/-- A named field of a register family. -/
structure Fld where
  reg : RegDesc
  hi : Nat
  lo : Nat
  deriving DecidableEq, Repr

def Reg.TKE_CFG : RegDesc := ⟨7, 0x00070000, [], 0x00040002,
  [⟨2, 0, .rwl⟩, ⟨11, 8, .rwl⟩, ⟨23, 16, .rwl⟩]⟩
def Reg.TKE_STAT : RegDesc := ⟨7, 0x00070004, [], 0x00000000,
  [⟨0, 0, .live⟩, ⟨1, 1, .live⟩, ⟨4, 2, .live⟩, ⟨15, 8, .live⟩]⟩
def Reg.TKE_TICK_LO : RegDesc := ⟨7, 0x00070008, [], 0x00000000,
  [⟨31, 0, .live⟩]⟩
def Reg.TKE_TICK_HI : RegDesc := ⟨7, 0x0007000C, [], 0x00000000,
  [⟨31, 0, .live⟩]⟩
def Reg.TKE_CYCLES : RegDesc := ⟨7, 0x00070010, [], 0x00000000,
  [⟨20, 0, .ro⟩]⟩
def Reg.TKE_PEAK : RegDesc := ⟨7, 0x00070014, [], 0x00000000,
  [⟨20, 0, .rc⟩]⟩
def Reg.TKE_OVR_CNT : RegDesc := ⟨7, 0x00070018, [], 0x00000000,
  [⟨15, 0, .rc⟩]⟩
def Reg.TKE_LATE_CNT : RegDesc := ⟨7, 0x0007001C, [], 0x00000000,
  [⟨31, 0, .rc⟩]⟩
def Reg.TKE_FAULT : RegDesc := ⟨7, 0x00070020, [], 0x00000000,
  [⟨0, 0, .w1c⟩, ⟨3, 1, .w1c⟩, ⟨4, 4, .w1c⟩, ⟨5, 5, .w1c⟩, ⟨6, 6, .w1c⟩, ⟨7, 7, .w1c⟩, ⟨8, 8, .w1c⟩, ⟨9, 9, .w1c⟩, ⟨10, 10, .w1c⟩, ⟨11, 11, .w1c⟩]⟩
def Reg.TKE_BAD_FRAME : RegDesc := ⟨7, 0x00070024, [], 0x00000000,
  [⟨31, 0, .rc⟩]⟩
def Reg.TKE_IMG_ADDR : RegDesc := ⟨7, 0x00070030, [], 0x00000000,
  [⟨17, 2, .rw⟩, ⟨21, 20, .rw⟩]⟩
def Reg.TKE_IMG_DATA : RegDesc := ⟨7, 0x00070034, [], 0x00000000,
  [⟨31, 0, .ro⟩]⟩
def Reg.TKE_TASKn_W0 : RegDesc := ⟨7, 0x00078000, [(4096, 0x8)], 0x00000000,
  [⟨31, 0, .live⟩]⟩
def Reg.TKE_TASKn_W1 : RegDesc := ⟨7, 0x00078004, [(4096, 0x8)], 0x00000000,
  [⟨31, 0, .live⟩]⟩
def Reg.GNG_STAT : RegDesc := ⟨6, 0x00060000, [], 0x00000000,
  [⟨0, 0, .live⟩, ⟨1, 1, .live⟩, ⟨3, 2, .live⟩, ⟨31, 16, .ro⟩]⟩
def Reg.GNG_ERR : RegDesc := ⟨6, 0x00060004, [], 0x00000000,
  [⟨0, 0, .w1c⟩, ⟨1, 1, .w1c⟩]⟩
def Reg.GNG_TBL_ADDR : RegDesc := ⟨6, 0x00060010, [], 0x00000000,
  [⟨15, 0, .rw⟩, ⟨31, 31, .rw⟩]⟩
def Reg.GNG_TBL_DATA0 : RegDesc := ⟨6, 0x00060014, [], 0x00000000,
  [⟨31, 0, .rw⟩]⟩
def Reg.GNG_TBL_DATA1 : RegDesc := ⟨6, 0x00060018, [], 0x00000000,
  [⟨31, 0, .rw⟩]⟩
def Reg.GNG_TBL_DATA2 : RegDesc := ⟨6, 0x0006001C, [], 0x00000000,
  [⟨31, 0, .rw⟩]⟩
def Reg.GNG_SEGn : RegDesc := ⟨6, 0x00061000, [(288, 0x4)], 0x00000000,
  [⟨15, 0, .rw⟩, ⟨26, 16, .rw⟩]⟩
def Reg.GNG_AOPENn : RegDesc := ⟨6, 0x00062000, [(256, 0x4)], 0x00000000,
  [⟨7, 0, .rw⟩]⟩
def Reg.TU_CFG : RegDesc := ⟨5, 0x00050000, [], 0x000805FF,
  [⟨7, 0, .rwl⟩, ⟨11, 8, .rwl⟩, ⟨14, 12, .rwl⟩, ⟨16, 16, .rwl⟩, ⟨17, 17, .rwl⟩, ⟨18, 18, .rwl⟩, ⟨19, 19, .rwl⟩, ⟨20, 20, .rwl⟩, ⟨31, 24, .rwl⟩]⟩
def Reg.TU_STAT : RegDesc := ⟨5, 0x00050004, [], 0x01FF0000,
  [⟨2, 0, .live⟩, ⟨4, 3, .live⟩, ⟨5, 5, .live⟩, ⟨6, 6, .live⟩, ⟨24, 16, .live⟩]⟩
def Reg.TU_RAW_LO : RegDesc := ⟨5, 0x00050008, [], 0x00000000,
  [⟨31, 0, .live⟩]⟩
def Reg.TU_RAW_HI : RegDesc := ⟨5, 0x0005000C, [], 0x00000000,
  [⟨31, 0, .live⟩]⟩
def Reg.TU_NOW_FRAC : RegDesc := ⟨5, 0x00050010, [], 0x00000000,
  [⟨31, 0, .live⟩]⟩
def Reg.TU_NOW_LO : RegDesc := ⟨5, 0x00050014, [], 0x00000000,
  [⟨31, 0, .live⟩]⟩
def Reg.TU_NOW_HI : RegDesc := ⟨5, 0x00050018, [], 0x00000000,
  [⟨31, 0, .live⟩]⟩
def Reg.TU_RATE_LO : RegDesc := ⟨5, 0x00050020, [], 0x00000000,
  [⟨31, 0, .live⟩]⟩
def Reg.TU_RATE_HI : RegDesc := ⟨5, 0x00050024, [], 0x00000000,
  [⟨31, 0, .live⟩]⟩
def Reg.TU_OFS_FRAC : RegDesc := ⟨5, 0x00050028, [], 0x00000000,
  [⟨31, 0, .live⟩]⟩
def Reg.TU_OFS_LO : RegDesc := ⟨5, 0x0005002C, [], 0x00000000,
  [⟨31, 0, .live⟩]⟩
def Reg.TU_OFS_HI : RegDesc := ⟨5, 0x00050030, [], 0x00000000,
  [⟨31, 0, .live⟩]⟩
def Reg.TU_TBASE_LO : RegDesc := ⟨5, 0x00050038, [], 0x00000000,
  [⟨31, 0, .live⟩]⟩
def Reg.TU_TBASE_HI : RegDesc := ⟨5, 0x0005003C, [], 0x00000000,
  [⟨31, 0, .live⟩]⟩
def Reg.TU_MASTER_LO : RegDesc := ⟨5, 0x00050040, [], 0x00000000,
  [⟨31, 0, .live⟩]⟩
def Reg.TU_MASTER_HI : RegDesc := ⟨5, 0x00050044, [], 0x00000000,
  [⟨31, 0, .live⟩]⟩
def Reg.TU_OFM : RegDesc := ⟨5, 0x00050048, [], 0x00000000,
  [⟨31, 0, .ro⟩]⟩
def Reg.TU_STEP_CNT : RegDesc := ⟨5, 0x0005004C, [], 0x00000000,
  [⟨15, 0, .ro⟩]⟩
def Reg.TU_TOD_LO : RegDesc := ⟨5, 0x00050050, [], 0x00000000,
  [⟨31, 0, .rw⟩]⟩
def Reg.TU_TOD_HI : RegDesc := ⟨5, 0x00050054, [], 0x00000000,
  [⟨31, 0, .rw⟩]⟩
def Reg.TU_TOD_CMD : RegDesc := ⟨5, 0x00050058, [], 0x00000000,
  [⟨0, 0, .wo⟩]⟩
def Reg.TU_PPS_IN_LO : RegDesc := ⟨5, 0x00050060, [], 0x00000000,
  [⟨31, 0, .ro⟩]⟩
def Reg.TU_PPS_IN_HI : RegDesc := ⟨5, 0x00050064, [], 0x00000000,
  [⟨31, 0, .ro⟩]⟩
def Reg.TU_PPS_OUT : RegDesc := ⟨5, 0x00050068, [], 0x00000264,
  [⟨8, 0, .rw⟩, ⟨9, 9, .rw⟩, ⟨31, 16, .rw⟩]⟩
def Reg.TU_TICK_OUT : RegDesc := ⟨5, 0x0005006C, [], 0x00000008,
  [⟨2, 0, .rw⟩, ⟨3, 3, .rw⟩, ⟨15, 4, .rw⟩, ⟨31, 16, .rw⟩]⟩
def Reg.TU_EVT : RegDesc := ⟨5, 0x00050070, [], 0x00000000,
  [⟨0, 0, .w1c⟩, ⟨1, 1, .w1c⟩, ⟨2, 2, .w1c⟩, ⟨3, 3, .w1c⟩, ⟨4, 4, .w1c⟩, ⟨5, 5, .w1c⟩, ⟨6, 6, .w1c⟩, ⟨7, 7, .w1c⟩]⟩
def Reg.TU_HOLD_CNT : RegDesc := ⟨5, 0x00050074, [], 0x00000000,
  [⟨31, 0, .rc⟩]⟩
def Reg.TU_TC_UNCORR : RegDesc := ⟨5, 0x00050078, [], 0x00000000,
  [⟨31, 0, .rc⟩]⟩
def Reg.TU_PORTn_CFG : RegDesc := ⟨5, 0x00051000, [(257, 0x10)], 0x00000000,
  [⟨1, 0, .rwl⟩, ⟨2, 2, .rwl⟩]⟩
def Reg.TU_PORTn_ASYM : RegDesc := ⟨5, 0x00051004, [(257, 0x10)], 0x00000000,
  [⟨23, 0, .rw⟩]⟩
def Reg.TU_PORTn_DELAY : RegDesc := ⟨5, 0x00051008, [(257, 0x10)], 0x00000000,
  [⟨23, 0, .live⟩]⟩
def Reg.TU_PORTn_STAT : RegDesc := ⟨5, 0x0005100C, [(257, 0x10)], 0x00000000,
  [⟨0, 0, .live⟩, ⟨1, 1, .live⟩, ⟨2, 2, .live⟩, ⟨3, 3, .live⟩]⟩
def Reg.PGn_MODE : RegDesc := ⟨18, 0x00200000, [(32, 0x10000)], 0x00000007,
  [⟨2, 0, .rwl⟩, ⟨3, 3, .rwl⟩]⟩
def Reg.PGn_STAT : RegDesc := ⟨18, 0x00200004, [(32, 0x10000)], 0x00000000,
  [⟨7, 0, .live⟩, ⟨8, 8, .live⟩, ⟨9, 9, .live⟩]⟩
def Reg.PGn_EVT : RegDesc := ⟨18, 0x00200008, [(32, 0x10000)], 0x00000000,
  [⟨0, 0, .w1c⟩, ⟨1, 1, .w1c⟩, ⟨2, 2, .w1c⟩, ⟨3, 3, .w1c⟩, ⟨4, 4, .w1c⟩, ⟨5, 5, .w1c⟩, ⟨6, 6, .w1c⟩, ⟨7, 7, .w1c⟩, ⟨8, 8, .w1c⟩, ⟨9, 9, .w1c⟩]⟩
def Reg.PGn_BURST_CFG : RegDesc := ⟨18, 0x00200010, [(32, 0x10000)], 0x000A0408,
  [⟨7, 0, .rwl⟩, ⟨15, 8, .rwl⟩, ⟨27, 16, .rwl⟩]⟩
def Reg.PGn_BURST_START_LO : RegDesc := ⟨18, 0x00200018, [(32, 0x10000)], 0x00000000,
  [⟨31, 0, .ro⟩]⟩
def Reg.PGn_BURST_START_HI : RegDesc := ⟨18, 0x0020001C, [(32, 0x10000)], 0x00000000,
  [⟨31, 0, .ro⟩]⟩
def Reg.PGn_BURST_END_LO : RegDesc := ⟨18, 0x00200020, [(32, 0x10000)], 0x00000000,
  [⟨31, 0, .ro⟩]⟩
def Reg.PGn_BURST_END_HI : RegDesc := ⟨18, 0x00200024, [(32, 0x10000)], 0x00000000,
  [⟨31, 0, .ro⟩]⟩
def Reg.PGn_BURST_CNT : RegDesc := ⟨18, 0x00200028, [(32, 0x10000)], 0x00000000,
  [⟨31, 0, .rc⟩]⟩
def Reg.PGn_OPTm_CFG : RegDesc := ⟨18, 0x00200100, [(32, 0x10000), (8, 0x4)], 0x00000000,
  [⟨0, 0, .rwl⟩, ⟨3, 1, .rwl⟩, ⟨10, 4, .rwl⟩, ⟨13, 11, .rwl⟩]⟩
def Reg.PGn_OPTm_STAT : RegDesc := ⟨18, 0x00200120, [(32, 0x10000), (8, 0x4)], 0x00000000,
  [⟨0, 0, .live⟩, ⟨3, 1, .live⟩, ⟨7, 4, .live⟩, ⟨15, 8, .live⟩, ⟨23, 16, .live⟩]⟩
def Reg.PGn_Pp_CFG : RegDesc := ⟨18, 0x00201000, [(32, 0x10000), (8, 0x400)], 0x240000A2,
  [⟨1, 0, .rwl⟩, ⟨2, 2, .rwl⟩, ⟨3, 3, .rwl⟩, ⟨11, 4, .rwl⟩, ⟨29, 16, .rwl⟩]⟩
def Reg.PGn_Pp_SD : RegDesc := ⟨18, 0x00201004, [(32, 0x10000), (8, 0x400)], 0x00000000,
  [⟨15, 0, .rw⟩]⟩
def Reg.PGn_Pp_STAT : RegDesc := ⟨18, 0x00201008, [(32, 0x10000), (8, 0x400)], 0x00000000,
  [⟨3, 0, .live⟩, ⟨4, 4, .live⟩, ⟨5, 5, .live⟩, ⟨6, 6, .live⟩, ⟨7, 7, .live⟩]⟩
def Reg.PGn_Pp_FEC_PEAK : RegDesc := ⟨18, 0x00201010, [(32, 0x10000), (8, 0x400)], 0x00000000,
  [⟨7, 0, .rc⟩]⟩
def Reg.PGn_Pp_CNTc_LO : RegDesc := ⟨18, 0x00201100, [(32, 0x10000), (8, 0x400), (16, 0x8)], 0x00000000,
  [⟨31, 0, .ro⟩]⟩
def Reg.PGn_Pp_CNTc_HI : RegDesc := ⟨18, 0x00201104, [(32, 0x10000), (8, 0x400), (16, 0x8)], 0x00000000,
  [⟨31, 0, .ro⟩]⟩
def Reg.PGn_Ll_CFG : RegDesc := ⟨18, 0x00204000, [(32, 0x10000), (8, 0x100)], 0x00000000,
  [⟨0, 0, .rwl⟩, ⟨1, 1, .rwl⟩, ⟨5, 2, .rwl⟩]⟩
def Reg.PGn_Ll_STAT : RegDesc := ⟨18, 0x00204004, [(32, 0x10000), (8, 0x100)], 0x00000000,
  [⟨0, 0, .live⟩, ⟨1, 1, .live⟩, ⟨2, 2, .live⟩, ⟨3, 3, .live⟩, ⟨15, 8, .live⟩]⟩
def Reg.PGn_Ll_SYMERR : RegDesc := ⟨18, 0x00204008, [(32, 0x10000), (8, 0x100)], 0x00000000,
  [⟨31, 0, .rc⟩]⟩
def Reg.PGn_Ll_TEST : RegDesc := ⟨18, 0x0020400C, [(32, 0x10000), (8, 0x100)], 0x00000000,
  [⟨1, 0, .rw⟩, ⟨4, 2, .rw⟩, ⟨5, 5, .rw⟩]⟩
def Reg.PGn_Ll_PRBS_ERR : RegDesc := ⟨18, 0x00204010, [(32, 0x10000), (8, 0x100)], 0x00000000,
  [⟨31, 0, .rc⟩]⟩
def Reg.FP_CFG : RegDesc := ⟨19, 0x00400000, [], 0x0000012C,
  [⟨15, 0, .rwl⟩]⟩
def Reg.FP_STAT : RegDesc := ⟨19, 0x00400004, [], 0x00000000,
  [⟨0, 0, .live⟩, ⟨1, 1, .live⟩, ⟨20, 2, .live⟩]⟩
def Reg.FP_EVT : RegDesc := ⟨19, 0x00400008, [], 0x00000000,
  [⟨0, 0, .w1c⟩, ⟨1, 1, .w1c⟩, ⟨2, 2, .w1c⟩, ⟨3, 3, .w1c⟩, ⟨4, 4, .w1c⟩, ⟨5, 5, .w1c⟩, ⟨6, 6, .w1c⟩]⟩
def Reg.FP_TBL_CTL : RegDesc := ⟨19, 0x00400010, [], 0x00000000,
  [⟨31, 31, .rw⟩]⟩
def Reg.FP_LEARN_DROP : RegDesc := ⟨19, 0x00400014, [], 0x00000000,
  [⟨31, 0, .rc⟩]⟩
def Reg.FP_PORTn_CFG : RegDesc := ⟨19, 0x00410000, [(256, 0x100)], 0x00001001,
  [⟨11, 0, .rwl⟩, ⟨12, 12, .rwl⟩, ⟨13, 13, .rwl⟩, ⟨14, 14, .rwl⟩, ⟨15, 15, .rwl⟩, ⟨18, 16, .rwl⟩, ⟨19, 19, .rwl⟩]⟩
def Reg.FP_PORTn_PCPCLS : RegDesc := ⟨19, 0x00410004, [(256, 0x100)], 0x00000000,
  [⟨15, 0, .rwl⟩]⟩
def Reg.FP_PORTn_PCPTC : RegDesc := ⟨19, 0x00410008, [(256, 0x100)], 0x76543210,
  [⟨30, 28, .rwl⟩, ⟨26, 24, .rwl⟩, ⟨22, 20, .rwl⟩, ⟨18, 16, .rwl⟩, ⟨14, 12, .rwl⟩, ⟨10, 8, .rwl⟩, ⟨6, 4, .rwl⟩, ⟨2, 0, .rwl⟩]⟩
def Reg.FP_PORTn_TC : RegDesc := ⟨19, 0x0041000C, [(256, 0x100)], 0x00000000,
  [⟨7, 0, .rwl⟩, ⟨15, 8, .rwl⟩, ⟨23, 16, .rwl⟩]⟩
def Reg.FP_PORTn_CBSt : RegDesc := ⟨19, 0x00410010, [(256, 0x100), (8, 0x4)], 0x00000000,
  [⟨23, 0, .rwl⟩]⟩
def Reg.FP_PORTn_PREEMPT : RegDesc := ⟨19, 0x00410030, [(256, 0x100)], 0x00000000,
  [⟨0, 0, .rwl⟩, ⟨2, 1, .rwl⟩, ⟨3, 3, .live⟩, ⟨4, 4, .live⟩]⟩
def Reg.FP_PORTn_CNTc_LO : RegDesc := ⟨19, 0x00410080, [(256, 0x100), (16, 0x8)], 0x00000000,
  [⟨31, 0, .ro⟩]⟩
def Reg.FP_PORTn_CNTc_HI : RegDesc := ⟨19, 0x00410084, [(256, 0x100), (16, 0x8)], 0x00000000,
  [⟨31, 0, .ro⟩]⟩
def Reg.LDR_CFG : RegDesc := ⟨20, 0x01400000, [], 0x04010064,
  [⟨15, 0, .rwl⟩, ⟨23, 16, .rwl⟩, ⟨31, 24, .rwl⟩]⟩
def Reg.LDR_STAT : RegDesc := ⟨20, 0x01400004, [], 0x00000020,
  [⟨5, 0, .live⟩, ⟨7, 6, .live⟩, ⟨8, 8, .live⟩, ⟨13, 9, .live⟩, ⟨21, 16, .live⟩]⟩
def Reg.LDR_EVT : RegDesc := ⟨20, 0x01400008, [], 0x00000000,
  [⟨0, 0, .w1c⟩, ⟨1, 1, .w1c⟩, ⟨2, 2, .w1c⟩, ⟨3, 3, .w1c⟩, ⟨4, 4, .w1c⟩, ⟨5, 5, .w1c⟩, ⟨6, 6, .w1c⟩, ⟨7, 7, .w1c⟩, ⟨8, 8, .w1c⟩, ⟨9, 9, .w1c⟩, ⟨10, 10, .w1c⟩]⟩
def Reg.LDR_POOL_CFG : RegDesc := ⟨20, 0x01400010, [], 0x00010000,
  [⟨19, 0, .rwl⟩]⟩
def Reg.LDR_STD_THR0 : RegDesc := ⟨20, 0x01400014, [], 0xDFD7CFC7,
  [⟨31, 0, .rwl⟩]⟩
def Reg.LDR_STD_THR1 : RegDesc := ⟨20, 0x01400018, [], 0xFFF7EFE7,
  [⟨31, 0, .rwl⟩]⟩
def Reg.LDR_STD_DE : RegDesc := ⟨20, 0x0140001C, [], 0x00000020,
  [⟨7, 0, .rwl⟩]⟩
def Reg.LDR_POOLp_USED : RegDesc := ⟨20, 0x01400020, [(6, 0x8)], 0x00000000,
  [⟨19, 0, .live⟩]⟩
def Reg.LDR_POOLp_PEAK : RegDesc := ⟨20, 0x01400024, [(6, 0x8)], 0x00000000,
  [⟨19, 0, .rc⟩]⟩
def Reg.LDR_DESC_USED : RegDesc := ⟨20, 0x01400050, [], 0x00000000,
  [⟨18, 0, .live⟩]⟩
def Reg.LDR_QE_USED : RegDesc := ⟨20, 0x01400054, [], 0x00000000,
  [⟨19, 0, .live⟩]⟩
def Reg.LDR_SEC_CNT : RegDesc := ⟨20, 0x01400058, [], 0x00000000,
  [⟨31, 0, .rc⟩]⟩
def Reg.LDR_DED_CNT : RegDesc := ⟨20, 0x0140005C, [], 0x00000000,
  [⟨31, 0, .rc⟩]⟩
def Reg.LDR_DED_ADDR : RegDesc := ⟨20, 0x01400060, [], 0x00000000,
  [⟨18, 0, .ro⟩, ⟨19, 19, .ro⟩, ⟨25, 20, .ro⟩]⟩
def Reg.LDR_STD_DROP_CNT : RegDesc := ⟨20, 0x01400064, [], 0x00000000,
  [⟨31, 0, .rc⟩]⟩
def Reg.LDR_ROT_CNT : RegDesc := ⟨20, 0x01400068, [], 0x00000000,
  [⟨31, 0, .ro⟩]⟩
def Reg.LDR_SCRUB_CNT : RegDesc := ⟨20, 0x0140006C, [], 0x00000000,
  [⟨31, 0, .ro⟩]⟩
def Reg.LDR_EXP_DROP_CNT : RegDesc := ⟨20, 0x01400070, [], 0x00000000,
  [⟨31, 0, .rc⟩]⟩
def Reg.LDR_QCMD : RegDesc := ⟨20, 0x01400080, [], 0x00000000,
  [⟨12, 0, .wo⟩, ⟨18, 16, .wo⟩]⟩
def Reg.LDR_QCMD_STAT : RegDesc := ⟨20, 0x01400084, [], 0x00000000,
  [⟨1, 0, .ro⟩, ⟨3, 2, .ro⟩, ⟨31, 16, .ro⟩]⟩
def Reg.LDR_PORTn_CFG : RegDesc := ⟨20, 0x01410000, [(257, 0x10)], 0x00000000,
  [⟨15, 0, .rwl⟩, ⟨31, 16, .rwl⟩]⟩
def Reg.LDR_PORTn_HOP : RegDesc := ⟨20, 0x01410004, [(257, 0x10)], 0x00000000,
  [⟨15, 0, .rwl⟩, ⟨16, 16, .rwl⟩]⟩
def Reg.LDR_PORTn_ASR : RegDesc := ⟨20, 0x01410008, [(257, 0x10)], 0x00000000,
  [⟨19, 0, .rwl⟩]⟩
def Reg.LDR_PORTn_CRED : RegDesc := ⟨20, 0x0141000C, [(257, 0x10)], 0x00000000,
  [⟨15, 0, .live⟩, ⟨31, 16, .live⟩]⟩
def Reg.LDR_Qq_CFG : RegDesc := ⟨20, 0x01420000, [(6144, 0x10)], 0x00000400,
  [⟨0, 0, .rwl⟩, ⟨3, 2, .live⟩, ⟨19, 4, .rwl⟩]⟩
def Reg.LDR_Qq_MAX : RegDesc := ⟨20, 0x01420004, [(6144, 0x10)], 0x00000000,
  [⟨19, 0, .rw⟩]⟩
def Reg.LDR_Qq_STAT : RegDesc := ⟨20, 0x01420008, [(6144, 0x10)], 0x00000000,
  [⟨19, 0, .live⟩, ⟨20, 20, .live⟩, ⟨21, 21, .w1c⟩, ⟨22, 22, .live⟩, ⟨23, 23, .live⟩]⟩
def Reg.LDR_Qq_CELLS : RegDesc := ⟨20, 0x0142000C, [(6144, 0x10)], 0x00000000,
  [⟨19, 0, .live⟩]⟩
def Reg.CST_CFG : RegDesc := ⟨8, 0x00080000, [], 0x00000380,
  [⟨7, 0, .rwl⟩, ⟨11, 8, .rwl⟩]⟩
def Reg.CST_RING : RegDesc := ⟨8, 0x00080004, [], 0x01FF01FF,
  [⟨8, 0, .rwl⟩, ⟨24, 16, .rwl⟩]⟩
def Reg.CST_BRj : RegDesc := ⟨8, 0x00080008, [(6, 0x4)], 0x000001FF,
  [⟨8, 0, .rwl⟩]⟩
def Reg.CST_STAT : RegDesc := ⟨8, 0x00080020, [], 0x00000000,
  [⟨2, 0, .live⟩, ⟨3, 3, .live⟩, ⟨4, 4, .live⟩, ⟨5, 5, .live⟩, ⟨15, 8, .live⟩, ⟨31, 16, .live⟩]⟩
def Reg.CST_HEAD_LO : RegDesc := ⟨8, 0x00080024, [], 0x00000000,
  [⟨31, 0, .live⟩]⟩
def Reg.CST_HEAD_HI : RegDesc := ⟨8, 0x00080028, [], 0x00000000,
  [⟨31, 0, .live⟩]⟩
def Reg.CST_INAUG : RegDesc := ⟨8, 0x0008002C, [], 0x00000000,
  [⟨31, 0, .live⟩]⟩
def Reg.CST_RENUM : RegDesc := ⟨8, 0x00080030, [], 0x00000000,
  [⟨31, 0, .live⟩]⟩
def Reg.CST_NODES : RegDesc := ⟨8, 0x00080034, [], 0x00000000,
  [⟨15, 0, .live⟩, ⟨31, 16, .live⟩]⟩
def Reg.CST_COMMIT_LO : RegDesc := ⟨8, 0x00080038, [], 0x00000000,
  [⟨31, 0, .live⟩]⟩
def Reg.CST_COMMIT_HI : RegDesc := ⟨8, 0x0008003C, [], 0x00000000,
  [⟨31, 0, .live⟩]⟩
def Reg.CST_SPAN : RegDesc := ⟨8, 0x00080040, [], 0x00000000,
  [⟨23, 0, .live⟩]⟩
def Reg.CST_EVT : RegDesc := ⟨8, 0x00080044, [], 0x00000000,
  [⟨0, 0, .w1c⟩, ⟨1, 1, .w1c⟩, ⟨2, 2, .w1c⟩, ⟨3, 3, .w1c⟩, ⟨4, 4, .w1c⟩, ⟨5, 5, .w1c⟩, ⟨6, 6, .w1c⟩, ⟨7, 7, .w1c⟩, ⟨8, 8, .w1c⟩]⟩
def Reg.CST_FAIL_CNT : RegDesc := ⟨8, 0x00080048, [], 0x00000000,
  [⟨15, 0, .rc⟩]⟩
def Reg.CST_BAD_FRAME : RegDesc := ⟨8, 0x0008004C, [], 0x00000000,
  [⟨31, 0, .rc⟩]⟩
def Reg.CST_ROUNDS : RegDesc := ⟨8, 0x00080054, [], 0x00000000,
  [⟨31, 0, .rc⟩]⟩
def Reg.CST_CMD : RegDesc := ⟨8, 0x00080050, [], 0x00000000,
  [⟨0, 0, .wo⟩, ⟨1, 1, .wo⟩]⟩
def Reg.CST_RST_LO : RegDesc := ⟨8, 0x00080058, [], 0xFFFFFFFF,
  [⟨31, 0, .rw⟩]⟩
def Reg.CST_RST_HI : RegDesc := ⟨8, 0x0008005C, [], 0xFFFFFFFF,
  [⟨31, 0, .rw⟩]⟩
def Reg.ASD_CFG : RegDesc := ⟨9, 0x00090000, [], 0x10000084,
  [⟨0, 0, .rwl⟩, ⟨1, 1, .rwl⟩, ⟨2, 2, .rwl⟩, ⟨11, 4, .rwl⟩, ⟨31, 16, .rwl⟩]⟩
def Reg.ASD_STAT : RegDesc := ⟨9, 0x00090004, [], 0x00000000,
  [⟨0, 0, .live⟩, ⟨2, 1, .live⟩, ⟨3, 3, .live⟩, ⟨4, 4, .live⟩, ⟨5, 5, .live⟩, ⟨7, 6, .live⟩, ⟨9, 8, .live⟩, ⟨10, 10, .live⟩, ⟨11, 11, .live⟩, ⟨23, 16, .live⟩]⟩
def Reg.ASD_EVT : RegDesc := ⟨9, 0x00090008, [], 0x00000000,
  [⟨0, 0, .w1c⟩, ⟨1, 1, .w1c⟩, ⟨2, 2, .w1c⟩, ⟨3, 3, .w1c⟩, ⟨4, 4, .w1c⟩, ⟨5, 5, .w1c⟩, ⟨6, 6, .w1c⟩, ⟨7, 7, .w1c⟩, ⟨8, 8, .w1c⟩, ⟨9, 9, .w1c⟩, ⟨10, 10, .w1c⟩, ⟨11, 11, .w1c⟩, ⟨12, 12, .w1c⟩, ⟨13, 13, .w1c⟩, ⟨14, 14, .w1c⟩]⟩
def Reg.ASD_CMD : RegDesc := ⟨9, 0x0009000C, [], 0x00000000,
  [⟨0, 0, .wo⟩]⟩
def Reg.ASD_CMD_STAT : RegDesc := ⟨9, 0x00090010, [], 0x00000000,
  [⟨1, 0, .ro⟩, ⟨3, 2, .ro⟩]⟩
def Reg.ASD_EPOCH : RegDesc := ⟨9, 0x00090014, [], 0x00000000,
  [⟨31, 0, .live⟩]⟩
def Reg.ASD_TAKEOVER_LO : RegDesc := ⟨9, 0x00090018, [], 0x00000000,
  [⟨31, 0, .ro⟩]⟩
def Reg.ASD_TAKEOVER_HI : RegDesc := ⟨9, 0x0009001C, [], 0x00000000,
  [⟨31, 0, .ro⟩]⟩
def Reg.ASD_GAP : RegDesc := ⟨9, 0x00090020, [], 0x00000000,
  [⟨31, 0, .ro⟩]⟩
def Reg.ASD_VC_CFG : RegDesc := ⟨9, 0x00090024, [], 0x00010000,
  [⟨23, 0, .rwl⟩]⟩
def Reg.ASD_VC_STAT : RegDesc := ⟨9, 0x00090028, [], 0x00000000,
  [⟨5, 0, .live⟩]⟩
def Reg.ASD_VC_RESYNC : RegDesc := ⟨9, 0x0009002C, [], 0x00000000,
  [⟨31, 0, .rc⟩]⟩
def Reg.ASD_LEASE_CNT : RegDesc := ⟨9, 0x00090030, [], 0x00000000,
  [⟨31, 0, .rc⟩]⟩
def Reg.ASD_PARTNER_LO : RegDesc := ⟨9, 0x00090038, [], 0x00000000,
  [⟨31, 0, .rwl⟩]⟩
def Reg.ASD_PARTNER_HI : RegDesc := ⟨9, 0x0009003C, [], 0x00000000,
  [⟨31, 0, .rwl⟩]⟩
def Reg.ASD_CNTc_LO : RegDesc := ⟨9, 0x00090100, [(16, 0x8)], 0x00000000,
  [⟨31, 0, .ro⟩]⟩
def Reg.ASD_CNTc_HI : RegDesc := ⟨9, 0x00090104, [(16, 0x8)], 0x00000000,
  [⟨31, 0, .ro⟩]⟩
def Reg.ASD_Gg_CFG : RegDesc := ⟨9, 0x00090400, [(2, 0x100)], 0x00000A00,
  [⟨0, 0, .rwl⟩, ⟨1, 1, .rwl⟩, ⟨5, 2, .rwl⟩, ⟨6, 6, .rwl⟩, ⟨7, 7, .rwl⟩, ⟨15, 8, .rwl⟩]⟩
def Reg.ASD_Gg_PSTAT : RegDesc := ⟨9, 0x00090404, [(2, 0x100)], 0x00000000,
  [⟨3, 0, .live⟩, ⟨4, 4, .live⟩, ⟨5, 5, .live⟩, ⟨6, 6, .live⟩, ⟨7, 7, .live⟩]⟩
def Reg.ASD_Gg_LSTAT : RegDesc := ⟨9, 0x00090408, [(2, 0x100)], 0x00000000,
  [⟨0, 0, .live⟩, ⟨1, 1, .live⟩, ⟨2, 2, .live⟩, ⟨3, 3, .live⟩, ⟨15, 8, .live⟩]⟩
def Reg.ASD_Gg_SYMERR : RegDesc := ⟨9, 0x0009040C, [(2, 0x100)], 0x00000000,
  [⟨31, 0, .rc⟩]⟩
def Reg.ASD_Gg_CNTc_LO : RegDesc := ⟨9, 0x00090480, [(2, 0x100), (16, 0x8)], 0x00000000,
  [⟨31, 0, .ro⟩]⟩
def Reg.ASD_Gg_CNTc_HI : RegDesc := ⟨9, 0x00090484, [(2, 0x100), (16, 0x8)], 0x00000000,
  [⟨31, 0, .ro⟩]⟩
def Reg.SEN_CFG : RegDesc := ⟨10, 0x000A0000, [], 0x00000025,
  [⟨7, 0, .rw⟩]⟩
def Reg.SEN_STAT : RegDesc := ⟨10, 0x000A0004, [], 0x00000000,
  [⟨8, 0, .live⟩, ⟨9, 9, .live⟩, ⟨10, 10, .live⟩]⟩
def Reg.SEN_EVT : RegDesc := ⟨10, 0x000A0008, [], 0x00000000,
  [⟨0, 0, .w1c⟩, ⟨1, 1, .w1c⟩, ⟨2, 2, .w1c⟩, ⟨3, 3, .w1c⟩, ⟨4, 4, .w1c⟩, ⟨5, 5, .w1c⟩, ⟨6, 6, .w1c⟩]⟩
def Reg.SEN_TBL_ADDR : RegDesc := ⟨10, 0x000A0010, [], 0x00000000,
  [⟨10, 0, .rw⟩, ⟨14, 12, .rw⟩, ⟨31, 31, .rw⟩]⟩
def Reg.SEN_TBL_DATAi : RegDesc := ⟨10, 0x000A0014, [(8, 0x4)], 0x00000000,
  [⟨31, 0, .rw⟩]⟩
def Reg.SEN_BACKLOG_DROP : RegDesc := ⟨10, 0x000A0040, [], 0x00000000,
  [⟨31, 0, .rc⟩]⟩
def Reg.SEN_NO_TALKER : RegDesc := ⟨10, 0x000A0044, [], 0x00000000,
  [⟨31, 0, .rc⟩]⟩
def Reg.SEN_LSNl_TX : RegDesc := ⟨10, 0x000A2000, [(1023, 0x8)], 0x00000000,
  [⟨31, 0, .rc⟩]⟩
def Reg.SEN_LSNl_COAL : RegDesc := ⟨10, 0x000A2004, [(1023, 0x8)], 0x00000000,
  [⟨31, 0, .rc⟩]⟩
def Reg.SEN_TALKt_CFG : RegDesc := ⟨10, 0x000A8000, [(512, 0x40)], 0x00000000,
  [⟨5, 0, .rwl⟩, ⟨11, 6, .rwl⟩, ⟨12, 12, .rwl⟩, ⟨13, 13, .rwl⟩, ⟨17, 14, .rwl⟩, ⟨23, 18, .rwl⟩, ⟨24, 24, .rwl⟩, ⟨31, 31, .rwl⟩]⟩
def Reg.SEN_TALKt_LINK : RegDesc := ⟨10, 0x000A8004, [(512, 0x40)], 0x00000000,
  [⟨10, 0, .rwl⟩, ⟨31, 16, .rwl⟩]⟩
def Reg.SEN_TALKt_RATE : RegDesc := ⟨10, 0x000A8008, [(512, 0x40)], 0x00000000,
  [⟨15, 0, .rwl⟩, ⟨23, 16, .rwl⟩, ⟨31, 24, .rwl⟩]⟩
def Reg.SEN_TALKt_STAMP_LO : RegDesc := ⟨10, 0x000A800C, [(512, 0x40)], 0x00000000,
  [⟨31, 0, .ro⟩]⟩
def Reg.SEN_TALKt_STAMP_HI : RegDesc := ⟨10, 0x000A8010, [(512, 0x40)], 0x00000000,
  [⟨31, 0, .ro⟩]⟩
def Reg.SEN_TALKt_CNTc : RegDesc := ⟨10, 0x000A8014, [(512, 0x40), (8, 0x4)], 0x00000000,
  [⟨31, 0, .rc⟩]⟩
def Reg.FBn_CFG : RegDesc := ⟨14, 0x00100000, [(32, 0x1000)], 0x00000000,
  [⟨1, 0, .rwl⟩, ⟨2, 2, .rwl⟩, ⟨3, 3, .rwl⟩, ⟨4, 4, .rwl⟩, ⟨5, 5, .rwl⟩, ⟨6, 6, .rwl⟩, ⟨9, 7, .rwl⟩]⟩
def Reg.FBn_NBT : RegDesc := ⟨14, 0x00100004, [(32, 0x1000)], 0x0F9F7E01,
  [⟨7, 0, .rwl⟩, ⟨15, 8, .rwl⟩, ⟨22, 16, .rwl⟩, ⟨29, 23, .rwl⟩]⟩
def Reg.FBn_DBT : RegDesc := ⟨14, 0x00100008, [(32, 0x1000)], 0x21330E00,
  [⟨4, 0, .rwl⟩, ⟨12, 8, .rwl⟩, ⟨19, 16, .rwl⟩, ⟨23, 20, .rwl⟩, ⟨24, 24, .rwl⟩, ⟨31, 25, .rwl⟩]⟩
def Reg.FBn_STAT : RegDesc := ⟨14, 0x0010000C, [(32, 0x1000)], 0x00000000,
  [⟨2, 0, .live⟩, ⟨3, 3, .live⟩, ⟨4, 4, .live⟩, ⟨5, 5, .live⟩, ⟨6, 6, .live⟩, ⟨15, 8, .live⟩, ⟨23, 16, .live⟩, ⟨30, 24, .ro⟩]⟩
def Reg.FBn_EVT : RegDesc := ⟨14, 0x00100010, [(32, 0x1000)], 0x00000000,
  [⟨0, 0, .w1c⟩, ⟨1, 1, .w1c⟩, ⟨2, 2, .w1c⟩, ⟨3, 3, .w1c⟩, ⟨4, 4, .w1c⟩, ⟨5, 5, .w1c⟩, ⟨6, 6, .w1c⟩, ⟨7, 7, .w1c⟩, ⟨8, 8, .w1c⟩, ⟨9, 9, .w1c⟩, ⟨10, 10, .w1c⟩, ⟨11, 11, .w1c⟩, ⟨12, 12, .w1c⟩, ⟨13, 13, .w1c⟩]⟩
def Reg.FBn_CMD : RegDesc := ⟨14, 0x00100014, [(32, 0x1000)], 0x00000000,
  [⟨0, 0, .wo⟩, ⟨1, 1, .wo⟩, ⟨2, 2, .wo⟩]⟩
def Reg.FBn_TXCMD : RegDesc := ⟨14, 0x00100018, [(32, 0x1000)], 0x00000000,
  [⟨6, 0, .wo⟩, ⟨9, 8, .wo⟩]⟩
def Reg.FBn_TXCMD_STAT : RegDesc := ⟨14, 0x0010001C, [(32, 0x1000)], 0x00000000,
  [⟨1, 0, .ro⟩, ⟨3, 2, .ro⟩, ⟨5, 4, .ro⟩]⟩
def Reg.FBn_MBSEL : RegDesc := ⟨14, 0x00100020, [(32, 0x1000)], 0x00000000,
  [⟨7, 0, .rw⟩, ⟨31, 31, .rw⟩]⟩
def Reg.FBn_ARD_CFG : RegDesc := ⟨14, 0x00100024, [(32, 0x1000)], 0x00006400,
  [⟨2, 0, .rwl⟩, ⟨15, 8, .rwl⟩, ⟨16, 16, .rwl⟩]⟩
def Reg.FBn_ARD_STAT : RegDesc := ⟨14, 0x00100028, [(32, 0x1000)], 0x00000000,
  [⟨2, 0, .ro⟩, ⟨3, 3, .ro⟩]⟩
def Reg.FBn_REF_CFG : RegDesc := ⟨14, 0x0010002C, [(32, 0x1000)], 0x00000000,
  [⟨28, 0, .rwl⟩, ⟨29, 29, .rwl⟩]⟩
def Reg.FBn_SOF_LO : RegDesc := ⟨14, 0x00100030, [(32, 0x1000)], 0x00000000,
  [⟨31, 0, .ro⟩]⟩
def Reg.FBn_SOF_HI : RegDesc := ⟨14, 0x00100034, [(32, 0x1000)], 0x00000000,
  [⟨31, 0, .ro⟩]⟩
def Reg.FBn_HP_CFG : RegDesc := ⟨14, 0x00100038, [(32, 0x1000)], 0x00000000,
  [⟨0, 0, .rwl⟩, ⟨1, 1, .rwl⟩, ⟨14, 8, .rwl⟩]⟩
def Reg.FBn_HP_STAT : RegDesc := ⟨14, 0x0010003C, [(32, 0x1000)], 0x00000000,
  [⟨0, 0, .live⟩, ⟨1, 1, .w1c⟩, ⟨2, 2, .w1c⟩, ⟨3, 3, .w1c⟩]⟩
def Reg.FBn_ARDk_NBT : RegDesc := ⟨14, 0x00100040, [(32, 0x1000), (8, 0x8)], 0x00000000,
  [⟨31, 0, .rwl⟩]⟩
def Reg.FBn_ARDk_DBT : RegDesc := ⟨14, 0x00100044, [(32, 0x1000), (8, 0x8)], 0x00000000,
  [⟨31, 0, .rwl⟩]⟩
def Reg.FBn_CNTc : RegDesc := ⟨14, 0x00100080, [(32, 0x1000), (8, 0x4)], 0x00000000,
  [⟨31, 0, .rc⟩]⟩
def Reg.FBn_REF_MISS : RegDesc := ⟨14, 0x001000A0, [(32, 0x1000)], 0x00000000,
  [⟨31, 0, .rc⟩]⟩
def Reg.FBn_XCVR : RegDesc := ⟨14, 0x001000C0, [(32, 0x1000)], 0x00000000,
  [⟨1, 0, .rwl⟩, ⟨2, 2, .rwl⟩, ⟨3, 3, .rwl⟩, ⟨4, 4, .rwl⟩, ⟨6, 5, .rwl⟩, ⟨7, 7, .rwl⟩, ⟨11, 8, .rwl⟩, ⟨12, 12, .rwl⟩]⟩
def Reg.FBn_SWK_ID : RegDesc := ⟨14, 0x001000C4, [(32, 0x1000)], 0x00000000,
  [⟨28, 0, .rwl⟩]⟩
def Reg.FBn_SWK_IDM : RegDesc := ⟨14, 0x001000C8, [(32, 0x1000)], 0x00000000,
  [⟨28, 0, .rwl⟩]⟩
def Reg.FBn_SWK_DATA_LO : RegDesc := ⟨14, 0x001000CC, [(32, 0x1000)], 0x00000000,
  [⟨31, 0, .rwl⟩]⟩
def Reg.FBn_SWK_DATA_HI : RegDesc := ⟨14, 0x001000D0, [(32, 0x1000)], 0x00000000,
  [⟨31, 0, .rwl⟩]⟩
def Reg.FBn_XCVR_STAT : RegDesc := ⟨14, 0x001000D4, [(32, 0x1000)], 0x00000000,
  [⟨2, 0, .live⟩, ⟨3, 3, .ro⟩, ⟨5, 4, .ro⟩, ⟨6, 6, .ro⟩]⟩
def Reg.FBn_MBWIN : RegDesc := ⟨14, 0x00100400, [(32, 0x1000), (32, 0x4)], 0x00000000,
  [⟨31, 0, .rw⟩]⟩
def Reg.FBn_MBm_CFG : RegDesc := ⟨14, 0x00100800, [(32, 0x1000), (128, 0x10)], 0x00000000,
  [⟨1, 0, .rwl⟩, ⟨2, 2, .rwl⟩, ⟨3, 3, .rwl⟩, ⟨16, 8, .rwl⟩]⟩
def Reg.FBn_MBm_ID : RegDesc := ⟨14, 0x00100804, [(32, 0x1000), (128, 0x10)], 0x00000000,
  [⟨28, 0, .rwl⟩, ⟨29, 29, .rwl⟩]⟩
def Reg.FBn_MBm_MASK : RegDesc := ⟨14, 0x00100808, [(32, 0x1000), (128, 0x10)], 0x00000000,
  [⟨28, 0, .rwl⟩, ⟨29, 29, .rwl⟩]⟩
def Reg.FBn_MBm_STAT : RegDesc := ⟨14, 0x0010080C, [(32, 0x1000), (128, 0x10)], 0x00000000,
  [⟨0, 0, .w1c⟩, ⟨1, 1, .w1c⟩, ⟨2, 2, .live⟩, ⟨3, 3, .w1c⟩, ⟨4, 4, .w1c⟩, ⟨5, 5, .w1c⟩]⟩
def Reg.UAn_CFG : RegDesc := ⟨15, 0x00120000, [(32, 0x400)], 0x00030057,
  [⟨15, 0, .rwl⟩, ⟨17, 16, .rwl⟩, ⟨19, 18, .rwl⟩, ⟨20, 20, .rwl⟩, ⟨21, 21, .rwl⟩, ⟨23, 22, .rwl⟩, ⟨24, 24, .rwl⟩, ⟨25, 25, .rwl⟩]⟩
def Reg.UAn_STAT : RegDesc := ⟨15, 0x00120004, [(32, 0x400)], 0x00200000,
  [⟨6, 0, .ro⟩, ⟨14, 8, .ro⟩, ⟨16, 16, .ro⟩, ⟨17, 17, .ro⟩, ⟨18, 18, .ro⟩, ⟨19, 19, .ro⟩, ⟨20, 20, .ro⟩, ⟨21, 21, .ro⟩]⟩
def Reg.UAn_DATA : RegDesc := ⟨15, 0x00120008, [(32, 0x400)], 0x00000000,
  [⟨7, 0, .rw⟩, ⟨8, 8, .ro⟩, ⟨9, 9, .ro⟩, ⟨10, 10, .ro⟩, ⟨11, 11, .ro⟩, ⟨12, 12, .ro⟩]⟩
def Reg.UAn_TXCTL : RegDesc := ⟨15, 0x0012000C, [(32, 0x400)], 0x00000000,
  [⟨7, 0, .rw⟩, ⟨15, 8, .rw⟩, ⟨23, 16, .rw⟩, ⟨24, 24, .wo⟩]⟩
def Reg.UAn_CNTc : RegDesc := ⟨15, 0x00120010, [(32, 0x400), (4, 0x4)], 0x00000000,
  [⟨31, 0, .rc⟩]⟩
def Reg.UAn_FLAGCLR : RegDesc := ⟨15, 0x00120020, [(32, 0x400)], 0x00000000,
  [⟨0, 0, .wo⟩, ⟨1, 1, .wo⟩, ⟨2, 2, .wo⟩, ⟨3, 3, .wo⟩, ⟨4, 4, .wo⟩]⟩
def Reg.SBb_CFG : RegDesc := ⟨12, 0x000C0000, [(8, 0x100)], 0x00196401,
  [⟨1, 0, .rwl⟩, ⟨15, 8, .rwl⟩, ⟨23, 16, .rwl⟩]⟩
def Reg.SBb_STAT : RegDesc := ⟨12, 0x000C0004, [(8, 0x100)], 0x00000000,
  [⟨0, 0, .live⟩, ⟨1, 1, .live⟩, ⟨2, 2, .live⟩, ⟨3, 3, .live⟩, ⟨24, 16, .live⟩]⟩
def Reg.SPs_STAT : RegDesc := ⟨12, 0x000C0804, [(4, 0x100)], 0x00000000,
  [⟨0, 0, .live⟩, ⟨1, 1, .live⟩, ⟨2, 2, .live⟩, ⟨3, 3, .live⟩, ⟨24, 16, .live⟩]⟩
def Reg.SBb_CNTc : RegDesc := ⟨12, 0x000C0010, [(8, 0x100), (4, 0x4)], 0x00000000,
  [⟨31, 0, .rc⟩]⟩
def Reg.SPs_CFG : RegDesc := ⟨12, 0x000C0800, [(4, 0x100)], 0x00010001,
  [⟨7, 0, .rwl⟩, ⟨9, 8, .rwl⟩, ⟨10, 10, .rwl⟩, ⟨23, 16, .rwl⟩]⟩
def Reg.SPs_CNTc : RegDesc := ⟨12, 0x000C0810, [(4, 0x100), (2, 0x4)], 0x00000000,
  [⟨31, 0, .rc⟩]⟩
def Reg.BRG_CFG : RegDesc := ⟨11, 0x000B0000, [], 0x00000A10,
  [⟨7, 0, .rwl⟩, ⟨15, 8, .rwl⟩]⟩
def Reg.BRG_STAT : RegDesc := ⟨11, 0x000B0004, [], 0x00000000,
  [⟨12, 0, .live⟩]⟩
def Reg.BRG_EVT : RegDesc := ⟨11, 0x000B0008, [], 0x00000000,
  [⟨0, 0, .w1c⟩, ⟨1, 1, .w1c⟩, ⟨2, 2, .w1c⟩, ⟨3, 3, .w1c⟩, ⟨4, 4, .w1c⟩, ⟨5, 5, .w1c⟩, ⟨6, 6, .w1c⟩]⟩
def Reg.BRG_RSP_DROP : RegDesc := ⟨11, 0x000B000C, [], 0x00000000,
  [⟨31, 0, .rc⟩]⟩
def Reg.BRG_Qq_CFG : RegDesc := ⟨11, 0x000B1000, [(512, 0x4)], 0x00000000,
  [⟨11, 0, .rwl⟩, ⟨12, 12, .rwl⟩, ⟨20, 13, .rwl⟩]⟩
def Reg.BRG_SEMs : RegDesc := ⟨11, 0x000B2000, [(256, 0x4)], 0x00000000,
  [⟨8, 0, .live⟩, ⟨9, 9, .live⟩, ⟨14, 10, .live⟩]⟩
def Reg.BRG_POLLp_Wi : RegDesc := ⟨11, 0x000B3000, [(64, 0x10), (4, 0x4)], 0x00000000,
  [⟨31, 0, .rwl⟩]⟩
def Reg.FIO_CFG : RegDesc := ⟨16, 0x00130000, [], 0x00000008,
  [⟨6, 0, .rwl⟩]⟩
def Reg.FIO_STAT : RegDesc := ⟨16, 0x00130004, [], 0x00000000,
  [⟨0, 0, .live⟩, ⟨1, 1, .live⟩, ⟨2, 2, .live⟩, ⟨3, 3, .live⟩, ⟨7, 4, .live⟩, ⟨11, 8, .live⟩, ⟨13, 12, .live⟩]⟩
def Reg.FIO_EVT : RegDesc := ⟨16, 0x00130008, [], 0x00000000,
  [⟨0, 0, .w1c⟩, ⟨1, 1, .w1c⟩, ⟨2, 2, .w1c⟩, ⟨3, 3, .w1c⟩, ⟨4, 4, .w1c⟩, ⟨5, 5, .w1c⟩, ⟨6, 6, .w1c⟩, ⟨7, 7, .w1c⟩, ⟨8, 8, .w1c⟩, ⟨9, 9, .w1c⟩, ⟨10, 10, .w1c⟩]⟩
def Reg.FIO_PROFu_CFG : RegDesc := ⟨16, 0x00130080, [(2, 0x8)], 0x00000000,
  [⟨1, 0, .rwl⟩, ⟨11, 2, .rwl⟩, ⟨15, 12, .rwl⟩, ⟨25, 16, .rwl⟩]⟩
def Reg.FIO_LSn_CFG : RegDesc := ⟨16, 0x00130100, [(24, 0x20)], 0x00000000,
  [⟨1, 0, .rwl⟩, ⟨4, 2, .rwl⟩, ⟨5, 5, .rwl⟩, ⟨7, 6, .rwl⟩, ⟨8, 8, .rwl⟩, ⟨9, 9, .rwl⟩]⟩
def Reg.FIO_LSn_PWM : RegDesc := ⟨16, 0x00130104, [(24, 0x20)], 0x00002710,
  [⟨23, 0, .rwl⟩]⟩
def Reg.FIO_LSn_PHASE : RegDesc := ⟨16, 0x00130108, [(24, 0x20)], 0x00000000,
  [⟨23, 0, .rwl⟩]⟩
def Reg.FIO_LSn_STAT : RegDesc := ⟨16, 0x0013010C, [(24, 0x20)], 0x00000000,
  [⟨3, 0, .live⟩, ⟨4, 4, .live⟩, ⟨5, 5, .w1c⟩, ⟨6, 6, .w1c⟩, ⟨11, 8, .live⟩, ⟨24, 16, .live⟩]⟩
def Reg.FIO_LSn_CUR : RegDesc := ⟨16, 0x00130110, [(24, 0x20)], 0x00000000,
  [⟨11, 0, .live⟩, ⟨27, 16, .live⟩]⟩
def Reg.FIO_LSn_CLR : RegDesc := ⟨16, 0x00130114, [(24, 0x20)], 0x00000000,
  [⟨0, 0, .wo⟩]⟩
def Reg.FIO_LSn_CNT : RegDesc := ⟨16, 0x00130118, [(24, 0x20)], 0x00000000,
  [⟨15, 0, .rc⟩, ⟨31, 16, .rc⟩]⟩
def Reg.FIO_EINn_CFG : RegDesc := ⟨16, 0x00130400, [(16, 0x10)], 0x00030000,
  [⟨13, 0, .rwl⟩, ⟨17, 16, .rwl⟩, ⟨18, 18, .rwl⟩]⟩
def Reg.FIO_EINn_STAT : RegDesc := ⟨16, 0x00130404, [(16, 0x10)], 0x00000000,
  [⟨0, 0, .ro⟩, ⟨1, 1, .w1c⟩, ⟨31, 16, .ro⟩]⟩
def Reg.FIO_EINn_LAST_LO : RegDesc := ⟨16, 0x00130408, [(16, 0x10)], 0x00000000,
  [⟨31, 0, .ro⟩]⟩
def Reg.FIO_EINn_LAST_HI : RegDesc := ⟨16, 0x0013040C, [(16, 0x10)], 0x00000000,
  [⟨31, 0, .ro⟩]⟩
def Reg.CEL_CFG : RegDesc := ⟨17, 0x00140000, [], 0x00000000,
  [⟨11, 0, .rwl⟩, ⟨12, 12, .rwl⟩]⟩
def Reg.CEL_STAT : RegDesc := ⟨17, 0x00140004, [], 0x00000000,
  [⟨0, 0, .ro⟩, ⟨1, 1, .ro⟩, ⟨2, 2, .ro⟩, ⟨15, 8, .ro⟩, ⟨31, 16, .ro⟩]⟩
def Reg.CEL_EVT : RegDesc := ⟨17, 0x00140008, [], 0x00000000,
  [⟨0, 0, .w1c⟩, ⟨1, 1, .w1c⟩, ⟨2, 2, .w1c⟩, ⟨3, 3, .w1c⟩, ⟨4, 4, .w1c⟩, ⟨5, 5, .w1c⟩, ⟨6, 6, .w1c⟩, ⟨7, 7, .w1c⟩]⟩
def Reg.CEL_CMD0 : RegDesc := ⟨17, 0x00140010, [], 0x00000000,
  [⟨31, 0, .wo⟩]⟩
def Reg.CEL_CMD1 : RegDesc := ⟨17, 0x00140014, [], 0x00000000,
  [⟨31, 0, .wo⟩]⟩
def Reg.CEL_CMD2 : RegDesc := ⟨17, 0x00140018, [], 0x00000000,
  [⟨31, 0, .wo⟩]⟩
def Reg.CEL_CMD_STAT : RegDesc := ⟨17, 0x0014001C, [], 0x00000000,
  [⟨1, 0, .ro⟩, ⟨7, 4, .ro⟩, ⟨31, 16, .ro⟩]⟩
def Reg.CEL_AUDIT : RegDesc := ⟨17, 0x00140020, [], 0x00000000,
  [⟨31, 0, .ro⟩]⟩
def Reg.CEL_RSEQ : RegDesc := ⟨17, 0x00140024, [], 0x00000000,
  [⟨31, 0, .ro⟩]⟩
def Reg.CEL_PCRC : RegDesc := ⟨17, 0x00140028, [], 0x00000000,
  [⟨31, 0, .ro⟩]⟩
def Reg.CEL_PUBKEYi : RegDesc := ⟨17, 0x00140040, [(16, 0x4)], 0x00000000,
  [⟨31, 0, .ro⟩]⟩
def Reg.CEL_CNTc : RegDesc := ⟨17, 0x00140080, [(8, 0x4)], 0x00000000,
  [⟨31, 0, .rc⟩]⟩
def Reg.CFG_STAT : RegDesc := ⟨1, 0x00010000, [], 0x00000000,
  [⟨1, 0, .live⟩, ⟨2, 2, .live⟩, ⟨3, 3, .live⟩, ⟨5, 4, .live⟩, ⟨6, 6, .live⟩]⟩
def Reg.CFG_SEQ : RegDesc := ⟨1, 0x00010004, [], 0x00000000,
  [⟨31, 0, .live⟩]⟩
def Reg.CFG_SETID_LO : RegDesc := ⟨1, 0x00010008, [], 0x00000000,
  [⟨31, 0, .live⟩]⟩
def Reg.CFG_SETID_HI : RegDesc := ⟨1, 0x0001000C, [], 0x00000000,
  [⟨31, 0, .live⟩]⟩
def Reg.CFG_SWAP : RegDesc := ⟨1, 0x00010010, [], 0x00000000,
  [⟨2, 0, .wo⟩, ⟨3, 3, .wo⟩]⟩
def Reg.CFG_SWAP_TICK_LO : RegDesc := ⟨1, 0x00010014, [], 0x00000000,
  [⟨31, 0, .rw⟩]⟩
def Reg.CFG_SWAP_TICK_HI : RegDesc := ⟨1, 0x00010018, [], 0x00000000,
  [⟨31, 0, .rw⟩]⟩
def Reg.CFG_SWAP_STAT : RegDesc := ⟨1, 0x0001001C, [], 0x00000000,
  [⟨2, 0, .ro⟩, ⟨7, 4, .ro⟩, ⟨12, 8, .ro⟩]⟩
def Reg.CFG_UPD_CTL : RegDesc := ⟨1, 0x00010020, [], 0x00000000,
  [⟨0, 0, .rw⟩, ⟨1, 1, .wo⟩, ⟨2, 2, .wo⟩, ⟨3, 3, .wo⟩, ⟨23, 16, .rw⟩]⟩
def Reg.CFG_UPD_DATA : RegDesc := ⟨1, 0x00010024, [], 0x00000000,
  [⟨31, 0, .wo⟩]⟩
def Reg.CFG_UPD_STAT : RegDesc := ⟨1, 0x00010028, [], 0x00000000,
  [⟨1, 0, .ro⟩, ⟨3, 2, .ro⟩]⟩
def Reg.CFG_BIST : RegDesc := ⟨1, 0x0001002C, [], 0x00000000,
  [⟨15, 0, .rc⟩, ⟨31, 16, .rc⟩]⟩
def Reg.CFG_SHR_ADDR : RegDesc := ⟨1, 0x00010030, [], 0x00000000,
  [⟨25, 2, .rw⟩, ⟨31, 31, .rw⟩]⟩
def Reg.CFG_SHR_DATA : RegDesc := ⟨1, 0x00010034, [], 0x00000000,
  [⟨31, 0, .rw⟩]⟩
def Reg.ATC_CMD : RegDesc := ⟨2, 0x00020000, [], 0x00000000,
  [⟨1, 0, .wo⟩, ⟨9, 2, .wo⟩]⟩
def Reg.ATC_STAT : RegDesc := ⟨2, 0x00020004, [], 0x00000000,
  [⟨1, 0, .ro⟩, ⟨3, 2, .ro⟩, ⟨4, 4, .live⟩]⟩
def Reg.ATC_WEAR : RegDesc := ⟨2, 0x00020008, [], 0x00000000,
  [⟨16, 0, .live⟩, ⟨27, 17, .live⟩]⟩
def Reg.ATC_BUFi : RegDesc := ⟨2, 0x00020100, [(64, 0x4)], 0x00000000,
  [⟨31, 0, .rw⟩]⟩
def Reg.EVT_STAT : RegDesc := ⟨4, 0x00040000, [], 0x00000000,
  [⟨0, 0, .rws⟩, ⟨9, 1, .ro⟩]⟩
def Reg.EVT_LOST : RegDesc := ⟨4, 0x00040004, [], 0x00000000,
  [⟨31, 0, .rc⟩]⟩
def Reg.EVT_RD_IDX : RegDesc := ⟨4, 0x00040008, [], 0x00000000,
  [⟨13, 0, .rw⟩, ⟨15, 14, .rw⟩]⟩
def Reg.EVT_RD_DATAi : RegDesc := ⟨4, 0x00040010, [(8, 0x4)], 0x00000000,
  [⟨31, 0, .ro⟩]⟩
def Reg.POR_STAT : RegDesc := ⟨3, 0x00030000, [], 0x00000004,
  [⟨2, 0, .live⟩, ⟨3, 3, .live⟩, ⟨4, 4, .live⟩, ⟨5, 5, .live⟩, ⟨6, 6, .live⟩, ⟨20, 8, .live⟩]⟩
def Reg.POR_CMD : RegDesc := ⟨3, 0x00030004, [], 0x00000000,
  [⟨2, 0, .wo⟩]⟩
def Reg.POR_CMD_STAT : RegDesc := ⟨3, 0x00030008, [], 0x00000000,
  [⟨1, 0, .live⟩, ⟨3, 2, .live⟩]⟩
def Reg.POR_CFG : RegDesc := ⟨3, 0x0003000C, [], 0x003C3200,
  [⟨0, 0, .rwl⟩, ⟨15, 8, .rwl⟩, ⟨31, 16, .rwl⟩]⟩
def Reg.POR_INH : RegDesc := ⟨3, 0x00030010, [], 0x00000FFF,
  [⟨3, 0, .rwl⟩, ⟨7, 4, .rwl⟩, ⟨11, 8, .rwl⟩, ⟨15, 12, .rwl⟩]⟩
def Reg.POR_EVT : RegDesc := ⟨3, 0x00030014, [], 0x00000000,
  [⟨0, 0, .w1c⟩, ⟨1, 1, .w1c⟩, ⟨2, 2, .w1c⟩, ⟨3, 3, .w1c⟩, ⟨4, 4, .w1c⟩, ⟨5, 5, .w1c⟩, ⟨6, 6, .w1c⟩, ⟨7, 7, .w1c⟩, ⟨8, 8, .w1c⟩]⟩
def Reg.POR_VMON : RegDesc := ⟨3, 0x00030018, [], 0x00000258,
  [⟨10, 0, .rwl⟩, ⟨23, 16, .rwl⟩, ⟨24, 24, .rwl⟩]⟩
def Reg.POR_HOLD_LAST : RegDesc := ⟨3, 0x0003001C, [], 0x00000000,
  [⟨31, 0, .live⟩]⟩
def Reg.POR_HOLD_CNT : RegDesc := ⟨3, 0x00030020, [], 0x00000000,
  [⟨31, 0, .rc⟩]⟩
def Reg.POR_FALSE_CNT : RegDesc := ⟨3, 0x00030024, [], 0x00000000,
  [⟨31, 0, .rc⟩]⟩
def Reg.POR_TIMER : RegDesc := ⟨3, 0x00030028, [], 0x00000000,
  [⟨23, 0, .rw⟩]⟩
def Reg.POR_LWAKE : RegDesc := ⟨3, 0x0003002C, [], 0x00000000,
  [⟨31, 0, .rwl⟩]⟩
def Reg.POR_AVS_CFG : RegDesc := ⟨3, 0x00030030, [], 0x033402BC,
  [⟨9, 0, .rwl⟩, ⟨25, 16, .rwl⟩]⟩
def Reg.POR_AVS_STAT : RegDesc := ⟨3, 0x00030034, [], 0x00000000,
  [⟨9, 0, .live⟩, ⟨25, 16, .live⟩, ⟨26, 26, .live⟩, ⟨27, 27, .live⟩]⟩
def Reg.POR_SRCs_CFG : RegDesc := ⟨3, 0x00030100, [(13, 0x4)], 0x00000000,
  [⟨0, 0, .rwl⟩, ⟨1, 1, .rwl⟩, ⟨3, 2, .rwl⟩, ⟨4, 4, .rwl⟩, ⟨5, 5, .live⟩, ⟨31, 16, .rwl⟩]⟩
def Reg.HST_CFG : RegDesc := ⟨13, 0x000D0000, [], 0x00000000,
  [⟨0, 0, .rw⟩]⟩
def Reg.HST_STAT : RegDesc := ⟨13, 0x000D0004, [], 0x00000000,
  [⟨2, 0, .live⟩, ⟨6, 3, .live⟩, ⟨7, 7, .live⟩, ⟨8, 8, .live⟩]⟩
def Reg.HST_EVT_SUM : RegDesc := ⟨13, 0x000D0008, [], 0x00000000,
  [⟨31, 0, .ro⟩]⟩
def Reg.HST_RST : RegDesc := ⟨13, 0x000D000C, [], 0x00000000,
  [⟨7, 0, .wo⟩, ⟨23, 16, .wo⟩]⟩
def Reg.TRC_CFG : RegDesc := ⟨13, 0x000D0200, [], 0x00000F01,
  [⟨0, 0, .rw⟩, ⟨1, 1, .rw⟩, ⟨2, 2, .rw⟩, ⟨11, 8, .rw⟩]⟩
def Reg.TRC_STAT : RegDesc := ⟨13, 0x000D0204, [], 0x00000000,
  [⟨14, 0, .ro⟩, ⟨15, 15, .ro⟩, ⟨16, 16, .ro⟩]⟩
def Reg.TRC_RD_IDX : RegDesc := ⟨13, 0x000D0208, [], 0x00000000,
  [⟨13, 0, .rw⟩]⟩
def Reg.TRC_RD_DATAi : RegDesc := ⟨13, 0x000D0210, [(4, 0x4)], 0x00000000,
  [⟨31, 0, .ro⟩]⟩
def Reg.HST_Qs_CFG : RegDesc := ⟨13, 0x000D1000, [(2048, 0x10)], 0x00000000,
  [⟨0, 0, .rwl⟩, ⟨2, 1, .rwl⟩, ⟨11, 3, .rwl⟩, ⟨22, 12, .rwl⟩, ⟨31, 23, .rwl⟩]⟩
def Reg.GEN_ID : RegDesc := ⟨0, 0x00000000, [], 0x256000B0,
  [⟨7, 0, .live⟩, ⟨31, 16, .live⟩]⟩
def Reg.GEN_EUI_LO : RegDesc := ⟨0, 0x00000004, [], 0,
  [⟨31, 0, .live⟩]⟩
def Reg.GEN_EUI_HI : RegDesc := ⟨0, 0x00000008, [], 0,
  [⟨31, 0, .live⟩]⟩
def Reg.GEN_LOCKED_CNT : RegDesc := ⟨0, 0x0000000C, [], 0x00000000,
  [⟨31, 0, .rc⟩]⟩

namespace Fd
def TKE_CFG_PERIOD_K : Fld := ⟨Reg.TKE_CFG, 2, 0⟩
def TKE_CFG_HC_LOG : Fld := ⟨Reg.TKE_CFG, 11, 8⟩
def TKE_CFG_OVR_LIMIT : Fld := ⟨Reg.TKE_CFG, 23, 16⟩
def TKE_STAT_RUN : Fld := ⟨Reg.TKE_STAT, 0, 0⟩
def TKE_STAT_HALT : Fld := ⟨Reg.TKE_STAT, 1, 1⟩
def TKE_STAT_VC_OK : Fld := ⟨Reg.TKE_STAT, 4, 2⟩
def TKE_STAT_HC_INDEX : Fld := ⟨Reg.TKE_STAT, 15, 8⟩
def TKE_CYCLES_LAST : Fld := ⟨Reg.TKE_CYCLES, 20, 0⟩
def TKE_PEAK_PEAK : Fld := ⟨Reg.TKE_PEAK, 20, 0⟩
def TKE_OVR_CNT_OVR : Fld := ⟨Reg.TKE_OVR_CNT, 15, 0⟩
def TKE_FAULT_OVERRUN : Fld := ⟨Reg.TKE_FAULT, 0, 0⟩
def TKE_FAULT_VC_OVERRUN : Fld := ⟨Reg.TKE_FAULT, 3, 1⟩
def TKE_FAULT_VOTE_NONE : Fld := ⟨Reg.TKE_FAULT, 4, 4⟩
def TKE_FAULT_HALT_EVT : Fld := ⟨Reg.TKE_FAULT, 5, 5⟩
def TKE_FAULT_TASK_WCET : Fld := ⟨Reg.TKE_FAULT, 6, 6⟩
def TKE_FAULT_CAPLOST : Fld := ⟨Reg.TKE_FAULT, 7, 7⟩
def TKE_FAULT_BAD_STORE : Fld := ⟨Reg.TKE_FAULT, 8, 8⟩
def TKE_FAULT_TICK_LOST : Fld := ⟨Reg.TKE_FAULT, 9, 9⟩
def TKE_FAULT_BAD_OP : Fld := ⟨Reg.TKE_FAULT, 10, 10⟩
def TKE_FAULT_BAD_FRAME : Fld := ⟨Reg.TKE_FAULT, 11, 11⟩
def TKE_IMG_ADDR_WORD : Fld := ⟨Reg.TKE_IMG_ADDR, 17, 2⟩
def TKE_IMG_ADDR_VC : Fld := ⟨Reg.TKE_IMG_ADDR, 21, 20⟩
def GNG_STAT_ACTIVE : Fld := ⟨Reg.GNG_STAT, 0, 0⟩
def GNG_STAT_SHADOW_OPEN : Fld := ⟨Reg.GNG_STAT, 1, 1⟩
def GNG_STAT_TEST : Fld := ⟨Reg.GNG_STAT, 3, 2⟩
def GNG_STAT_TEST_PASSES : Fld := ⟨Reg.GNG_STAT, 31, 16⟩
def GNG_ERR_TT_LATE : Fld := ⟨Reg.GNG_ERR, 0, 0⟩
def GNG_ERR_TEST_FAIL : Fld := ⟨Reg.GNG_ERR, 1, 1⟩
def GNG_TBL_ADDR_ENTRY : Fld := ⟨Reg.GNG_TBL_ADDR, 15, 0⟩
def GNG_TBL_ADDR_OPEN : Fld := ⟨Reg.GNG_TBL_ADDR, 31, 31⟩
def GNG_SEGn_BASE : Fld := ⟨Reg.GNG_SEGn, 15, 0⟩
def GNG_SEGn_COUNT : Fld := ⟨Reg.GNG_SEGn, 26, 16⟩
def GNG_AOPENn_MASK : Fld := ⟨Reg.GNG_AOPENn, 7, 0⟩
def TU_CFG_TIME_PREC : Fld := ⟨Reg.TU_CFG, 7, 0⟩
def TU_CFG_SYNC_IV : Fld := ⟨Reg.TU_CFG, 11, 8⟩
def TU_CFG_PDELAY_IV : Fld := ⟨Reg.TU_CFG, 14, 12⟩
def TU_CFG_GM_CAP : Fld := ⟨Reg.TU_CFG, 16, 16⟩
def TU_CFG_PPS_IN_EN : Fld := ⟨Reg.TU_CFG, 17, 17⟩
def TU_CFG_PPS_IN_FALL : Fld := ⟨Reg.TU_CFG, 18, 18⟩
def TU_CFG_SYNTON_EN : Fld := ⟨Reg.TU_CFG, 19, 19⟩
def TU_CFG_ARB : Fld := ⟨Reg.TU_CFG, 20, 20⟩
def TU_CFG_DOMAIN : Fld := ⟨Reg.TU_CFG, 31, 24⟩
def TU_STAT_STATE : Fld := ⟨Reg.TU_STAT, 2, 0⟩
def TU_STAT_RANK : Fld := ⟨Reg.TU_STAT, 4, 3⟩
def TU_STAT_SYNTONISED : Fld := ⟨Reg.TU_STAT, 5, 5⟩
def TU_STAT_PPS_LOCK : Fld := ⟨Reg.TU_STAT, 6, 6⟩
def TU_STAT_SRC_PORT : Fld := ⟨Reg.TU_STAT, 24, 16⟩
def TU_STEP_CNT_STEPS : Fld := ⟨Reg.TU_STEP_CNT, 15, 0⟩
def TU_TOD_CMD_SET : Fld := ⟨Reg.TU_TOD_CMD, 0, 0⟩
def TU_PPS_OUT_WIDTH : Fld := ⟨Reg.TU_PPS_OUT, 8, 0⟩
def TU_PPS_OUT_EN : Fld := ⟨Reg.TU_PPS_OUT, 9, 9⟩
def TU_PPS_OUT_ADJ : Fld := ⟨Reg.TU_PPS_OUT, 31, 16⟩
def TU_TICK_OUT_DIV : Fld := ⟨Reg.TU_TICK_OUT, 2, 0⟩
def TU_TICK_OUT_EN : Fld := ⟨Reg.TU_TICK_OUT, 3, 3⟩
def TU_TICK_OUT_WIDTH : Fld := ⟨Reg.TU_TICK_OUT, 15, 4⟩
def TU_TICK_OUT_ADJ : Fld := ⟨Reg.TU_TICK_OUT, 31, 16⟩
def TU_EVT_HOLDOVER : Fld := ⟨Reg.TU_EVT, 0, 0⟩
def TU_EVT_MASTER_CHG : Fld := ⟨Reg.TU_EVT, 1, 1⟩
def TU_EVT_STEP : Fld := ⟨Reg.TU_EVT, 2, 2⟩
def TU_EVT_TICK_SLIP : Fld := ⟨Reg.TU_EVT, 3, 3⟩
def TU_EVT_PPS_MISS : Fld := ⟨Reg.TU_EVT, 4, 4⟩
def TU_EVT_SYNTON_LOSS : Fld := ⟨Reg.TU_EVT, 5, 5⟩
def TU_EVT_SERVO_LIMIT : Fld := ⟨Reg.TU_EVT, 6, 6⟩
def TU_EVT_TC_UNCORR : Fld := ⟨Reg.TU_EVT, 7, 7⟩
def TU_PORTn_CFG_ROLE : Fld := ⟨Reg.TU_PORTn_CFG, 1, 0⟩
def TU_PORTn_CFG_SYNTON_SRC : Fld := ⟨Reg.TU_PORTn_CFG, 2, 2⟩
def TU_PORTn_ASYM_ASYM : Fld := ⟨Reg.TU_PORTn_ASYM, 23, 0⟩
def TU_PORTn_DELAY_DELAY : Fld := ⟨Reg.TU_PORTn_DELAY, 23, 0⟩
def TU_PORTn_STAT_ASCAPABLE : Fld := ⟨Reg.TU_PORTn_STAT, 0, 0⟩
def TU_PORTn_STAT_RCLK_OK : Fld := ⟨Reg.TU_PORTn_STAT, 1, 1⟩
def TU_PORTn_STAT_TIME_SRC : Fld := ⟨Reg.TU_PORTn_STAT, 2, 2⟩
def TU_PORTn_STAT_YSRC : Fld := ⟨Reg.TU_PORTn_STAT, 3, 3⟩
def PGn_MODE_MODE : Fld := ⟨Reg.PGn_MODE, 2, 0⟩
def PGn_MODE_LISTEN : Fld := ⟨Reg.PGn_MODE, 3, 3⟩
def PGn_STAT_UP : Fld := ⟨Reg.PGn_STAT, 7, 0⟩
def PGn_STAT_CAL_OK : Fld := ⟨Reg.PGn_STAT, 8, 8⟩
def PGn_STAT_BURST : Fld := ⟨Reg.PGn_STAT, 9, 9⟩
def PGn_EVT_PORT_DOWN : Fld := ⟨Reg.PGn_EVT, 0, 0⟩
def PGn_EVT_PORT_UP : Fld := ⟨Reg.PGn_EVT, 1, 1⟩
def PGn_EVT_DEGRADE : Fld := ⟨Reg.PGn_EVT, 2, 2⟩
def PGn_EVT_BURST_START : Fld := ⟨Reg.PGn_EVT, 3, 3⟩
def PGn_EVT_BURST_END : Fld := ⟨Reg.PGn_EVT, 4, 4⟩
def PGn_EVT_CAL_FAIL : Fld := ⟨Reg.PGn_EVT, 5, 5⟩
def PGn_EVT_OPT_FLAG : Fld := ⟨Reg.PGn_EVT, 6, 6⟩
def PGn_EVT_OPT_NO_APP : Fld := ⟨Reg.PGn_EVT, 7, 7⟩
def PGn_EVT_PORT_CFG_BAD : Fld := ⟨Reg.PGn_EVT, 8, 8⟩
def PGn_EVT_LANE_TEST : Fld := ⟨Reg.PGn_EVT, 9, 9⟩
def PGn_BURST_CFG_SYM_THR : Fld := ⟨Reg.PGn_BURST_CFG, 7, 0⟩
def PGn_BURST_CFG_CW_THR : Fld := ⟨Reg.PGn_BURST_CFG, 15, 8⟩
def PGn_BURST_CFG_QUIET : Fld := ⟨Reg.PGn_BURST_CFG, 27, 16⟩
def PGn_OPTm_CFG_EN : Fld := ⟨Reg.PGn_OPTm_CFG, 0, 0⟩
def PGn_OPTm_CFG_SB : Fld := ⟨Reg.PGn_OPTm_CFG, 3, 1⟩
def PGn_OPTm_CFG_MUX_ADDR : Fld := ⟨Reg.PGn_OPTm_CFG, 10, 4⟩
def PGn_OPTm_CFG_MUX_CH : Fld := ⟨Reg.PGn_OPTm_CFG, 13, 11⟩
def PGn_OPTm_STAT_PRESENT : Fld := ⟨Reg.PGn_OPTm_STAT, 0, 0⟩
def PGn_OPTm_STAT_MODSTATE : Fld := ⟨Reg.PGn_OPTm_STAT, 3, 1⟩
def PGn_OPTm_STAT_DPSTATE : Fld := ⟨Reg.PGn_OPTm_STAT, 7, 4⟩
def PGn_OPTm_STAT_APPSEL : Fld := ⟨Reg.PGn_OPTm_STAT, 15, 8⟩
def PGn_OPTm_STAT_TEMP : Fld := ⟨Reg.PGn_OPTm_STAT, 23, 16⟩
def PGn_Pp_CFG_FEC : Fld := ⟨Reg.PGn_Pp_CFG, 1, 0⟩
def PGn_Pp_CFG_TRAIN_EN : Fld := ⟨Reg.PGn_Pp_CFG, 2, 2⟩
def PGn_Pp_CFG_C2M : Fld := ⟨Reg.PGn_Pp_CFG, 3, 3⟩
def PGn_Pp_CFG_UP_HOLD : Fld := ⟨Reg.PGn_Pp_CFG, 11, 4⟩
def PGn_Pp_CFG_MAXLEN : Fld := ⟨Reg.PGn_Pp_CFG, 29, 16⟩
def PGn_Pp_SD_SD_THR : Fld := ⟨Reg.PGn_Pp_SD, 15, 0⟩
def PGn_Pp_STAT_STATE : Fld := ⟨Reg.PGn_Pp_STAT, 3, 0⟩
def PGn_Pp_STAT_LF : Fld := ⟨Reg.PGn_Pp_STAT, 4, 4⟩
def PGn_Pp_STAT_RF : Fld := ⟨Reg.PGn_Pp_STAT, 5, 5⟩
def PGn_Pp_STAT_ALIGN : Fld := ⟨Reg.PGn_Pp_STAT, 6, 6⟩
def PGn_Pp_STAT_FEC_LOCK : Fld := ⟨Reg.PGn_Pp_STAT, 7, 7⟩
def PGn_Pp_FEC_PEAK_PEAK : Fld := ⟨Reg.PGn_Pp_FEC_PEAK, 7, 0⟩
def PGn_Ll_CFG_POL_TX : Fld := ⟨Reg.PGn_Ll_CFG, 0, 0⟩
def PGn_Ll_CFG_POL_RX : Fld := ⟨Reg.PGn_Ll_CFG, 1, 1⟩
def PGn_Ll_CFG_TX_PRESET : Fld := ⟨Reg.PGn_Ll_CFG, 5, 2⟩
def PGn_Ll_STAT_SIGNAL : Fld := ⟨Reg.PGn_Ll_STAT, 0, 0⟩
def PGn_Ll_STAT_CDR_LOCK : Fld := ⟨Reg.PGn_Ll_STAT, 1, 1⟩
def PGn_Ll_STAT_CAL_OK : Fld := ⟨Reg.PGn_Ll_STAT, 2, 2⟩
def PGn_Ll_STAT_ADAPT : Fld := ⟨Reg.PGn_Ll_STAT, 3, 3⟩
def PGn_Ll_STAT_SNR : Fld := ⟨Reg.PGn_Ll_STAT, 15, 8⟩
def PGn_Ll_TEST_LOOP : Fld := ⟨Reg.PGn_Ll_TEST, 1, 0⟩
def PGn_Ll_TEST_PRBS : Fld := ⟨Reg.PGn_Ll_TEST, 4, 2⟩
def PGn_Ll_TEST_CHK_EN : Fld := ⟨Reg.PGn_Ll_TEST, 5, 5⟩
def FP_CFG_AGE_TIME : Fld := ⟨Reg.FP_CFG, 15, 0⟩
def FP_STAT_ACTIVE : Fld := ⟨Reg.FP_STAT, 0, 0⟩
def FP_STAT_SHADOW_OPEN : Fld := ⟨Reg.FP_STAT, 1, 1⟩
def FP_STAT_FDB_USED : Fld := ⟨Reg.FP_STAT, 20, 2⟩
def FP_EVT_LEARN_FULL : Fld := ⟨Reg.FP_EVT, 0, 0⟩
def FP_EVT_SA_VIOLATION : Fld := ⟨Reg.FP_EVT, 1, 1⟩
def FP_EVT_SEQ_GAP : Fld := ⟨Reg.FP_EVT, 2, 2⟩
def FP_EVT_ROGUE : Fld := ⟨Reg.FP_EVT, 3, 3⟩
def FP_EVT_ASSURED_REFUSED : Fld := ⟨Reg.FP_EVT, 4, 4⟩
def FP_EVT_VERIFY_FAIL : Fld := ⟨Reg.FP_EVT, 5, 5⟩
def FP_EVT_PARSE_DEEP : Fld := ⟨Reg.FP_EVT, 6, 6⟩
def FP_TBL_CTL_OPEN : Fld := ⟨Reg.FP_TBL_CTL, 31, 31⟩
def FP_PORTn_CFG_PVID : Fld := ⟨Reg.FP_PORTn_CFG, 11, 0⟩
def FP_PORTn_CFG_UNTAG_PVID : Fld := ⟨Reg.FP_PORTn_CFG, 12, 12⟩
def FP_PORTn_CFG_LEARN : Fld := ⟨Reg.FP_PORTn_CFG, 13, 13⟩
def FP_PORTn_CFG_SA_LOCK : Fld := ⟨Reg.FP_PORTn_CFG, 14, 14⟩
def FP_PORTn_CFG_RTAG_KEEP : Fld := ⟨Reg.FP_PORTn_CFG, 15, 15⟩
def FP_PORTn_CFG_DEF_PCP : Fld := ⟨Reg.FP_PORTn_CFG, 18, 16⟩
def FP_PORTn_CFG_PFC_EN : Fld := ⟨Reg.FP_PORTn_CFG, 19, 19⟩
def FP_PORTn_PCPCLS_CLASS : Fld := ⟨Reg.FP_PORTn_PCPCLS, 15, 0⟩
def FP_PORTn_PCPTC_TC7 : Fld := ⟨Reg.FP_PORTn_PCPTC, 30, 28⟩
def FP_PORTn_PCPTC_TC6 : Fld := ⟨Reg.FP_PORTn_PCPTC, 26, 24⟩
def FP_PORTn_PCPTC_TC5 : Fld := ⟨Reg.FP_PORTn_PCPTC, 22, 20⟩
def FP_PORTn_PCPTC_TC4 : Fld := ⟨Reg.FP_PORTn_PCPTC, 18, 16⟩
def FP_PORTn_PCPTC_TC3 : Fld := ⟨Reg.FP_PORTn_PCPTC, 14, 12⟩
def FP_PORTn_PCPTC_TC2 : Fld := ⟨Reg.FP_PORTn_PCPTC, 10, 8⟩
def FP_PORTn_PCPTC_TC1 : Fld := ⟨Reg.FP_PORTn_PCPTC, 6, 4⟩
def FP_PORTn_PCPTC_TC0 : Fld := ⟨Reg.FP_PORTn_PCPTC, 2, 0⟩
def FP_PORTn_TC_EXP_TC : Fld := ⟨Reg.FP_PORTn_TC, 7, 0⟩
def FP_PORTn_TC_PREEMPT_TC : Fld := ⟨Reg.FP_PORTn_TC, 15, 8⟩
def FP_PORTn_TC_CBS_EN : Fld := ⟨Reg.FP_PORTn_TC, 23, 16⟩
def FP_PORTn_CBSt_IDLE_SLOPE : Fld := ⟨Reg.FP_PORTn_CBSt, 23, 0⟩
def FP_PORTn_PREEMPT_VERIFY_EN : Fld := ⟨Reg.FP_PORTn_PREEMPT, 0, 0⟩
def FP_PORTn_PREEMPT_ADD_FRAG : Fld := ⟨Reg.FP_PORTn_PREEMPT, 2, 1⟩
def FP_PORTn_PREEMPT_ACTIVE : Fld := ⟨Reg.FP_PORTn_PREEMPT, 3, 3⟩
def FP_PORTn_PREEMPT_VERIFY_FAIL : Fld := ⟨Reg.FP_PORTn_PREEMPT, 4, 4⟩
def LDR_CFG_ROT_MS : Fld := ⟨Reg.LDR_CFG, 15, 0⟩
def LDR_CFG_SCRUB_S : Fld := ⟨Reg.LDR_CFG, 23, 16⟩
def LDR_CFG_DED_RETIRE : Fld := ⟨Reg.LDR_CFG, 31, 24⟩
def LDR_STAT_SPARE : Fld := ⟨Reg.LDR_STAT, 5, 0⟩
def LDR_STAT_ROT : Fld := ⟨Reg.LDR_STAT, 7, 6⟩
def LDR_STAT_SPARE_LOST : Fld := ⟨Reg.LDR_STAT, 8, 8⟩
def LDR_STAT_ROT_BANK : Fld := ⟨Reg.LDR_STAT, 13, 9⟩
def LDR_STAT_FULL : Fld := ⟨Reg.LDR_STAT, 21, 16⟩
def LDR_EVT_SEC : Fld := ⟨Reg.LDR_EVT, 0, 0⟩
def LDR_EVT_DED : Fld := ⟨Reg.LDR_EVT, 1, 1⟩
def LDR_EVT_STD_FULL : Fld := ⟨Reg.LDR_EVT, 2, 2⟩
def LDR_EVT_ASR_FULL : Fld := ⟨Reg.LDR_EVT, 3, 3⟩
def LDR_EVT_EXP_OVR : Fld := ⟨Reg.LDR_EVT, 4, 4⟩
def LDR_EVT_QOVR : Fld := ⟨Reg.LDR_EVT, 5, 5⟩
def LDR_EVT_STALE : Fld := ⟨Reg.LDR_EVT, 6, 6⟩
def LDR_EVT_ROT_FAIL : Fld := ⟨Reg.LDR_EVT, 7, 7⟩
def LDR_EVT_BANK_RETIRED : Fld := ⟨Reg.LDR_EVT, 8, 8⟩
def LDR_EVT_ASSURED_POISON : Fld := ⟨Reg.LDR_EVT, 9, 9⟩
def LDR_EVT_DESC_FULL : Fld := ⟨Reg.LDR_EVT, 10, 10⟩
def LDR_POOL_CFG_ASR_CELLS : Fld := ⟨Reg.LDR_POOL_CFG, 19, 0⟩
def LDR_STD_DE_DE_MARGIN : Fld := ⟨Reg.LDR_STD_DE, 7, 0⟩
def LDR_POOLp_USED_CELLS : Fld := ⟨Reg.LDR_POOLp_USED, 19, 0⟩
def LDR_POOLp_PEAK_PEAK : Fld := ⟨Reg.LDR_POOLp_PEAK, 19, 0⟩
def LDR_DESC_USED_COUNT : Fld := ⟨Reg.LDR_DESC_USED, 18, 0⟩
def LDR_QE_USED_COUNT : Fld := ⟨Reg.LDR_QE_USED, 19, 0⟩
def LDR_DED_ADDR_CA : Fld := ⟨Reg.LDR_DED_ADDR, 18, 0⟩
def LDR_DED_ADDR_HALF : Fld := ⟨Reg.LDR_DED_ADDR, 19, 19⟩
def LDR_DED_ADDR_PBANK : Fld := ⟨Reg.LDR_DED_ADDR, 25, 20⟩
def LDR_QCMD_QUEUE : Fld := ⟨Reg.LDR_QCMD, 12, 0⟩
def LDR_QCMD_CMD : Fld := ⟨Reg.LDR_QCMD, 18, 16⟩
def LDR_QCMD_STAT_STATE : Fld := ⟨Reg.LDR_QCMD_STAT, 1, 0⟩
def LDR_QCMD_STAT_CODE : Fld := ⟨Reg.LDR_QCMD_STAT, 3, 2⟩
def LDR_QCMD_STAT_DROPPED : Fld := ⟨Reg.LDR_QCMD_STAT, 31, 16⟩
def LDR_PORTn_CFG_EXP_CELLS : Fld := ⟨Reg.LDR_PORTn_CFG, 15, 0⟩
def LDR_PORTn_CFG_PFC_HEADROOM : Fld := ⟨Reg.LDR_PORTn_CFG, 31, 16⟩
def LDR_PORTn_HOP_HOP_WIN : Fld := ⟨Reg.LDR_PORTn_HOP, 15, 0⟩
def LDR_PORTn_HOP_RING : Fld := ⟨Reg.LDR_PORTn_HOP, 16, 16⟩
def LDR_PORTn_ASR_ASR_CREDIT : Fld := ⟨Reg.LDR_PORTn_ASR, 19, 0⟩
def LDR_PORTn_CRED_CRED_VC0 : Fld := ⟨Reg.LDR_PORTn_CRED, 15, 0⟩
def LDR_PORTn_CRED_CRED_VC1 : Fld := ⟨Reg.LDR_PORTn_CRED, 31, 16⟩
def LDR_Qq_CFG_MODE : Fld := ⟨Reg.LDR_Qq_CFG, 0, 0⟩
def LDR_Qq_CFG_CLASS : Fld := ⟨Reg.LDR_Qq_CFG, 3, 2⟩
def LDR_Qq_CFG_STALE_TICKS : Fld := ⟨Reg.LDR_Qq_CFG, 19, 4⟩
def LDR_Qq_MAX_QMAX : Fld := ⟨Reg.LDR_Qq_MAX, 19, 0⟩
def LDR_Qq_STAT_DEPTH : Fld := ⟨Reg.LDR_Qq_STAT, 19, 0⟩
def LDR_Qq_STAT_FULL : Fld := ⟨Reg.LDR_Qq_STAT, 20, 20⟩
def LDR_Qq_STAT_OVR : Fld := ⟨Reg.LDR_Qq_STAT, 21, 21⟩
def LDR_Qq_STAT_STALE : Fld := ⟨Reg.LDR_Qq_STAT, 22, 22⟩
def LDR_Qq_STAT_STARTED : Fld := ⟨Reg.LDR_Qq_STAT, 23, 23⟩
def LDR_Qq_CELLS_CELLS : Fld := ⟨Reg.LDR_Qq_CELLS, 19, 0⟩
def CST_CFG_HEAD_PRIO : Fld := ⟨Reg.CST_CFG, 7, 0⟩
def CST_CFG_HELLO_MISS : Fld := ⟨Reg.CST_CFG, 11, 8⟩
def CST_RING_EAST : Fld := ⟨Reg.CST_RING, 8, 0⟩
def CST_RING_WEST : Fld := ⟨Reg.CST_RING, 24, 16⟩
def CST_BRj_PORT : Fld := ⟨Reg.CST_BRj, 8, 0⟩
def CST_STAT_STATE : Fld := ⟨Reg.CST_STAT, 2, 0⟩
def CST_STAT_HEAD : Fld := ⟨Reg.CST_STAT, 3, 3⟩
def CST_STAT_DIR : Fld := ⟨Reg.CST_STAT, 4, 4⟩
def CST_STAT_DATELINE : Fld := ⟨Reg.CST_STAT, 5, 5⟩
def CST_STAT_LEVEL : Fld := ⟨Reg.CST_STAT, 15, 8⟩
def CST_STAT_POSITION : Fld := ⟨Reg.CST_STAT, 31, 16⟩
def CST_NODES_TOTAL : Fld := ⟨Reg.CST_NODES, 15, 0⟩
def CST_NODES_RING : Fld := ⟨Reg.CST_NODES, 31, 16⟩
def CST_SPAN_SPAN : Fld := ⟨Reg.CST_SPAN, 23, 0⟩
def CST_EVT_COMMIT : Fld := ⟨Reg.CST_EVT, 0, 0⟩
def CST_EVT_RENUMBERED : Fld := ⟨Reg.CST_EVT, 1, 1⟩
def CST_EVT_HEAD_CHG : Fld := ⟨Reg.CST_EVT, 2, 2⟩
def CST_EVT_ROUND_FAIL : Fld := ⟨Reg.CST_EVT, 3, 3⟩
def CST_EVT_SPAN_LONG : Fld := ⟨Reg.CST_EVT, 4, 4⟩
def CST_EVT_TOO_MANY : Fld := ⟨Reg.CST_EVT, 5, 5⟩
def CST_EVT_MISMATCH : Fld := ⟨Reg.CST_EVT, 6, 6⟩
def CST_EVT_IDENTITY_CONFLICT : Fld := ⟨Reg.CST_EVT, 7, 7⟩
def CST_EVT_HELLO_LOST : Fld := ⟨Reg.CST_EVT, 8, 8⟩
def CST_FAIL_CNT_FAILS : Fld := ⟨Reg.CST_FAIL_CNT, 15, 0⟩
def CST_CMD_INAUG : Fld := ⟨Reg.CST_CMD, 0, 0⟩
def CST_CMD_RESET : Fld := ⟨Reg.CST_CMD, 1, 1⟩
def ASD_CFG_PAIRED : Fld := ⟨Reg.ASD_CFG, 0, 0⟩
def ASD_CFG_PREF : Fld := ⟨Reg.ASD_CFG, 1, 1⟩
def ASD_CFG_REVERT_EN : Fld := ⟨Reg.ASD_CFG, 2, 2⟩
def ASD_CFG_LEASE : Fld := ⟨Reg.ASD_CFG, 11, 4⟩
def ASD_CFG_REVERT_HOLD : Fld := ⟨Reg.ASD_CFG, 31, 16⟩
def ASD_STAT_SIDE : Fld := ⟨Reg.ASD_STAT, 0, 0⟩
def ASD_STAT_ROLE : Fld := ⟨Reg.ASD_STAT, 2, 1⟩
def ASD_STAT_REDUNDANT : Fld := ⟨Reg.ASD_STAT, 3, 3⟩
def ASD_STAT_PARTNER : Fld := ⟨Reg.ASD_STAT, 4, 4⟩
def ASD_STAT_ISOLATED : Fld := ⟨Reg.ASD_STAT, 5, 5⟩
def ASD_STAT_GABLE : Fld := ⟨Reg.ASD_STAT, 7, 6⟩
def ASD_STAT_RESYNC : Fld := ⟨Reg.ASD_STAT, 9, 8⟩
def ASD_STAT_HOLDUP_PARTNER : Fld := ⟨Reg.ASD_STAT, 10, 10⟩
def ASD_STAT_HANDOVER_PENDING : Fld := ⟨Reg.ASD_STAT, 11, 11⟩
def ASD_STAT_MISS : Fld := ⟨Reg.ASD_STAT, 23, 16⟩
def ASD_EVT_TAKEOVER : Fld := ⟨Reg.ASD_EVT, 0, 0⟩
def ASD_EVT_PARTNER_LOST : Fld := ⟨Reg.ASD_EVT, 1, 1⟩
def ASD_EVT_FENCED : Fld := ⟨Reg.ASD_EVT, 2, 2⟩
def ASD_EVT_HANDOVER : Fld := ⟨Reg.ASD_EVT, 3, 3⟩
def ASD_EVT_REDUNDANT_UP : Fld := ⟨Reg.ASD_EVT, 4, 4⟩
def ASD_EVT_REDUNDANT_DOWN : Fld := ⟨Reg.ASD_EVT, 5, 5⟩
def ASD_EVT_SEQ_DIVERGE : Fld := ⟨Reg.ASD_EVT, 6, 6⟩
def ASD_EVT_STATE_CRC : Fld := ⟨Reg.ASD_EVT, 7, 7⟩
def ASD_EVT_GABLE_LANE_DOWN : Fld := ⟨Reg.ASD_EVT, 8, 8⟩
def ASD_EVT_LEASE_REVOKED : Fld := ⟨Reg.ASD_EVT, 9, 9⟩
def ASD_EVT_VC_RESYNC : Fld := ⟨Reg.ASD_EVT, 10, 10⟩
def ASD_EVT_VC_FAILED : Fld := ⟨Reg.ASD_EVT, 11, 11⟩
def ASD_EVT_SIDE_CONFLICT : Fld := ⟨Reg.ASD_EVT, 12, 12⟩
def ASD_EVT_PAIR_REFUSED : Fld := ⟨Reg.ASD_EVT, 13, 13⟩
def ASD_EVT_ISOLATED : Fld := ⟨Reg.ASD_EVT, 14, 14⟩
def ASD_CMD_HANDOVER : Fld := ⟨Reg.ASD_CMD, 0, 0⟩
def ASD_CMD_STAT_STATE : Fld := ⟨Reg.ASD_CMD_STAT, 1, 0⟩
def ASD_CMD_STAT_CODE : Fld := ⟨Reg.ASD_CMD_STAT, 3, 2⟩
def ASD_VC_CFG_TEST_TICKS : Fld := ⟨Reg.ASD_VC_CFG, 23, 0⟩
def ASD_VC_STAT_VC : Fld := ⟨Reg.ASD_VC_STAT, 5, 0⟩
def ASD_Gg_CFG_POL_TX : Fld := ⟨Reg.ASD_Gg_CFG, 0, 0⟩
def ASD_Gg_CFG_POL_RX : Fld := ⟨Reg.ASD_Gg_CFG, 1, 1⟩
def ASD_Gg_CFG_TX_PRESET : Fld := ⟨Reg.ASD_Gg_CFG, 5, 2⟩
def ASD_Gg_CFG_TRAIN_EN : Fld := ⟨Reg.ASD_Gg_CFG, 6, 6⟩
def ASD_Gg_CFG_C2M : Fld := ⟨Reg.ASD_Gg_CFG, 7, 7⟩
def ASD_Gg_CFG_UP_HOLD : Fld := ⟨Reg.ASD_Gg_CFG, 15, 8⟩
def ASD_Gg_PSTAT_STATE : Fld := ⟨Reg.ASD_Gg_PSTAT, 3, 0⟩
def ASD_Gg_PSTAT_LF : Fld := ⟨Reg.ASD_Gg_PSTAT, 4, 4⟩
def ASD_Gg_PSTAT_RF : Fld := ⟨Reg.ASD_Gg_PSTAT, 5, 5⟩
def ASD_Gg_PSTAT_ALIGN : Fld := ⟨Reg.ASD_Gg_PSTAT, 6, 6⟩
def ASD_Gg_PSTAT_FEC_LOCK : Fld := ⟨Reg.ASD_Gg_PSTAT, 7, 7⟩
def ASD_Gg_LSTAT_SIGNAL : Fld := ⟨Reg.ASD_Gg_LSTAT, 0, 0⟩
def ASD_Gg_LSTAT_CDR_LOCK : Fld := ⟨Reg.ASD_Gg_LSTAT, 1, 1⟩
def ASD_Gg_LSTAT_CAL_OK : Fld := ⟨Reg.ASD_Gg_LSTAT, 2, 2⟩
def ASD_Gg_LSTAT_ADAPT : Fld := ⟨Reg.ASD_Gg_LSTAT, 3, 3⟩
def ASD_Gg_LSTAT_SNR : Fld := ⟨Reg.ASD_Gg_LSTAT, 15, 8⟩
def SEN_CFG_UTC_OFS : Fld := ⟨Reg.SEN_CFG, 7, 0⟩
def SEN_STAT_BACKLOG : Fld := ⟨Reg.SEN_STAT, 8, 0⟩
def SEN_STAT_SHADOW_OPEN : Fld := ⟨Reg.SEN_STAT, 9, 9⟩
def SEN_STAT_ACTIVE : Fld := ⟨Reg.SEN_STAT, 10, 10⟩
def SEN_EVT_CK_ERR : Fld := ⟨Reg.SEN_EVT, 0, 0⟩
def SEN_EVT_FRAME_ERR : Fld := ⟨Reg.SEN_EVT, 1, 1⟩
def SEN_EVT_REFUSED : Fld := ⟨Reg.SEN_EVT, 2, 2⟩
def SEN_EVT_BACKLOG_DROP : Fld := ⟨Reg.SEN_EVT, 3, 3⟩
def SEN_EVT_RATE_DROP : Fld := ⟨Reg.SEN_EVT, 4, 4⟩
def SEN_EVT_NO_TALKER : Fld := ⟨Reg.SEN_EVT, 5, 5⟩
def SEN_EVT_CONV_ERR : Fld := ⟨Reg.SEN_EVT, 6, 6⟩
def SEN_TBL_ADDR_INDEX : Fld := ⟨Reg.SEN_TBL_ADDR, 10, 0⟩
def SEN_TBL_ADDR_TABLE : Fld := ⟨Reg.SEN_TBL_ADDR, 14, 12⟩
def SEN_TBL_ADDR_OPEN : Fld := ⟨Reg.SEN_TBL_ADDR, 31, 31⟩
def SEN_TALKt_CFG_SRC : Fld := ⟨Reg.SEN_TALKt_CFG, 5, 0⟩
def SEN_TALKt_CFG_GRAMMAR : Fld := ⟨Reg.SEN_TALKt_CFG, 11, 6⟩
def SEN_TALKt_CFG_CLASS : Fld := ⟨Reg.SEN_TALKt_CFG, 12, 12⟩
def SEN_TALKt_CFG_UDP_RAW : Fld := ⟨Reg.SEN_TALKt_CFG, 13, 13⟩
def SEN_TALKt_CFG_PRIO : Fld := ⟨Reg.SEN_TALKt_CFG, 17, 14⟩
def SEN_TALKt_CFG_FILT_NUM : Fld := ⟨Reg.SEN_TALKt_CFG, 23, 18⟩
def SEN_TALKt_CFG_REFUSE_EN : Fld := ⟨Reg.SEN_TALKt_CFG, 24, 24⟩
def SEN_TALKt_CFG_VALID : Fld := ⟨Reg.SEN_TALKt_CFG, 31, 31⟩
def SEN_TALKt_LINK_FILT_BASE : Fld := ⟨Reg.SEN_TALKt_LINK, 10, 0⟩
def SEN_TALKt_LINK_STREAM : Fld := ⟨Reg.SEN_TALKt_LINK, 31, 16⟩
def SEN_TALKt_RATE_RATE : Fld := ⟨Reg.SEN_TALKt_RATE, 15, 0⟩
def SEN_TALKt_RATE_BURST : Fld := ⟨Reg.SEN_TALKt_RATE, 23, 16⟩
def SEN_TALKt_RATE_REFUSE_BYTE : Fld := ⟨Reg.SEN_TALKt_RATE, 31, 24⟩
def FBn_CFG_MODE : Fld := ⟨Reg.FBn_CFG, 1, 0⟩
def FBn_CFG_TT : Fld := ⟨Reg.FBn_CFG, 2, 2⟩
def FBn_CFG_FD_EN : Fld := ⟨Reg.FBn_CFG, 3, 3⟩
def FBn_CFG_BO_AUTO : Fld := ⟨Reg.FBn_CFG, 4, 4⟩
def FBn_CFG_DAR : Fld := ⟨Reg.FBn_CFG, 5, 5⟩
def FBn_CFG_REF_EN : Fld := ⟨Reg.FBn_CFG, 6, 6⟩
def FBn_CFG_REF_PRIO : Fld := ⟨Reg.FBn_CFG, 9, 7⟩
def FBn_NBT_NBRP : Fld := ⟨Reg.FBn_NBT, 7, 0⟩
def FBn_NBT_NTSEG1 : Fld := ⟨Reg.FBn_NBT, 15, 8⟩
def FBn_NBT_NTSEG2 : Fld := ⟨Reg.FBn_NBT, 22, 16⟩
def FBn_NBT_NSJW : Fld := ⟨Reg.FBn_NBT, 29, 23⟩
def FBn_DBT_DBRP : Fld := ⟨Reg.FBn_DBT, 4, 0⟩
def FBn_DBT_DTSEG1 : Fld := ⟨Reg.FBn_DBT, 12, 8⟩
def FBn_DBT_DTSEG2 : Fld := ⟨Reg.FBn_DBT, 19, 16⟩
def FBn_DBT_DSJW : Fld := ⟨Reg.FBn_DBT, 23, 20⟩
def FBn_DBT_TDC_EN : Fld := ⟨Reg.FBn_DBT, 24, 24⟩
def FBn_DBT_TDCO : Fld := ⟨Reg.FBn_DBT, 31, 25⟩
def FBn_STAT_STATE : Fld := ⟨Reg.FBn_STAT, 2, 0⟩
def FBn_STAT_WARN : Fld := ⟨Reg.FBn_STAT, 3, 3⟩
def FBn_STAT_TX_BUSY : Fld := ⟨Reg.FBn_STAT, 4, 4⟩
def FBn_STAT_LOCKED : Fld := ⟨Reg.FBn_STAT, 5, 5⟩
def FBn_STAT_REF_MASTER : Fld := ⟨Reg.FBn_STAT, 6, 6⟩
def FBn_STAT_TEC : Fld := ⟨Reg.FBn_STAT, 15, 8⟩
def FBn_STAT_REC : Fld := ⟨Reg.FBn_STAT, 23, 16⟩
def FBn_STAT_TDCV : Fld := ⟨Reg.FBn_STAT, 30, 24⟩
def FBn_EVT_ERR_PASSIVE : Fld := ⟨Reg.FBn_EVT, 0, 0⟩
def FBn_EVT_BUS_OFF : Fld := ⟨Reg.FBn_EVT, 1, 1⟩
def FBn_EVT_BUS_ON : Fld := ⟨Reg.FBn_EVT, 2, 2⟩
def FBn_EVT_WARN : Fld := ⟨Reg.FBn_EVT, 3, 3⟩
def FBn_EVT_HP_DONE : Fld := ⟨Reg.FBn_EVT, 4, 4⟩
def FBn_EVT_HP_FAIL : Fld := ⟨Reg.FBn_EVT, 5, 5⟩
def FBn_EVT_MSG_LOST : Fld := ⟨Reg.FBn_EVT, 6, 6⟩
def FBn_EVT_LOCK_TMO : Fld := ⟨Reg.FBn_EVT, 7, 7⟩
def FBn_EVT_ARD_DONE : Fld := ⟨Reg.FBn_EVT, 8, 8⟩
def FBn_EVT_ARD_FAIL : Fld := ⟨Reg.FBn_EVT, 9, 9⟩
def FBn_EVT_REF_MISS : Fld := ⟨Reg.FBn_EVT, 10, 10⟩
def FBn_EVT_TX_REFUSED : Fld := ⟨Reg.FBn_EVT, 11, 11⟩
def FBn_EVT_CFG_BAD : Fld := ⟨Reg.FBn_EVT, 12, 12⟩
def FBn_EVT_TXD_TMO : Fld := ⟨Reg.FBn_EVT, 13, 13⟩
def FBn_CMD_RECOVER : Fld := ⟨Reg.FBn_CMD, 0, 0⟩
def FBn_CMD_HP_REQ : Fld := ⟨Reg.FBn_CMD, 1, 1⟩
def FBn_CMD_HP_CANCEL : Fld := ⟨Reg.FBn_CMD, 2, 2⟩
def FBn_TXCMD_BUF : Fld := ⟨Reg.FBn_TXCMD, 6, 0⟩
def FBn_TXCMD_CMD : Fld := ⟨Reg.FBn_TXCMD, 9, 8⟩
def FBn_TXCMD_STAT_STATE : Fld := ⟨Reg.FBn_TXCMD_STAT, 1, 0⟩
def FBn_TXCMD_STAT_CODE : Fld := ⟨Reg.FBn_TXCMD_STAT, 3, 2⟩
def FBn_TXCMD_STAT_RESULT : Fld := ⟨Reg.FBn_TXCMD_STAT, 5, 4⟩
def FBn_MBSEL_BUF : Fld := ⟨Reg.FBn_MBSEL, 7, 0⟩
def FBn_MBSEL_LOCK : Fld := ⟨Reg.FBn_MBSEL, 31, 31⟩
def FBn_ARD_CFG_LAST : Fld := ⟨Reg.FBn_ARD_CFG, 2, 0⟩
def FBn_ARD_CFG_DWELL : Fld := ⟨Reg.FBn_ARD_CFG, 15, 8⟩
def FBn_ARD_CFG_GO : Fld := ⟨Reg.FBn_ARD_CFG, 16, 16⟩
def FBn_ARD_STAT_RESULT : Fld := ⟨Reg.FBn_ARD_STAT, 2, 0⟩
def FBn_ARD_STAT_FOUND : Fld := ⟨Reg.FBn_ARD_STAT, 3, 3⟩
def FBn_REF_CFG_REF_ID : Fld := ⟨Reg.FBn_REF_CFG, 28, 0⟩
def FBn_REF_CFG_IDE : Fld := ⟨Reg.FBn_REF_CFG, 29, 29⟩
def FBn_HP_CFG_OWNER : Fld := ⟨Reg.FBn_HP_CFG, 0, 0⟩
def FBn_HP_CFG_DAR : Fld := ⟨Reg.FBn_HP_CFG, 1, 1⟩
def FBn_HP_CFG_SLOT : Fld := ⟨Reg.FBn_HP_CFG, 14, 8⟩
def FBn_HP_STAT_PEND : Fld := ⟨Reg.FBn_HP_STAT, 0, 0⟩
def FBn_HP_STAT_DONE : Fld := ⟨Reg.FBn_HP_STAT, 1, 1⟩
def FBn_HP_STAT_ABORTED : Fld := ⟨Reg.FBn_HP_STAT, 2, 2⟩
def FBn_HP_STAT_CANCELLED : Fld := ⟨Reg.FBn_HP_STAT, 3, 3⟩
def FBn_XCVR_INH_SEL : Fld := ⟨Reg.FBn_XCVR, 1, 0⟩
def FBn_XCVR_INH_EN : Fld := ⟨Reg.FBn_XCVR, 2, 2⟩
def FBn_XCVR_WUP_EN : Fld := ⟨Reg.FBn_XCVR, 3, 3⟩
def FBn_XCVR_SWK_EN : Fld := ⟨Reg.FBn_XCVR, 4, 4⟩
def FBn_XCVR_SWK_RATE : Fld := ⟨Reg.FBn_XCVR, 6, 5⟩
def FBn_XCVR_SWK_IDE : Fld := ⟨Reg.FBn_XCVR, 7, 7⟩
def FBn_XCVR_SWK_DLC : Fld := ⟨Reg.FBn_XCVR, 11, 8⟩
def FBn_XCVR_SWK_DCHK : Fld := ⟨Reg.FBn_XCVR, 12, 12⟩
def FBn_SWK_ID_ID : Fld := ⟨Reg.FBn_SWK_ID, 28, 0⟩
def FBn_SWK_IDM_ID : Fld := ⟨Reg.FBn_SWK_IDM, 28, 0⟩
def FBn_XCVR_STAT_XSTATE : Fld := ⟨Reg.FBn_XCVR_STAT, 2, 0⟩
def FBn_XCVR_STAT_WAKE : Fld := ⟨Reg.FBn_XCVR_STAT, 3, 3⟩
def FBn_XCVR_STAT_WAKE_SRC : Fld := ⟨Reg.FBn_XCVR_STAT, 5, 4⟩
def FBn_XCVR_STAT_TXD_TMO : Fld := ⟨Reg.FBn_XCVR_STAT, 6, 6⟩
def FBn_MBm_CFG_MODE : Fld := ⟨Reg.FBn_MBm_CFG, 1, 0⟩
def FBn_MBm_CFG_OWNER : Fld := ⟨Reg.FBn_MBm_CFG, 2, 2⟩
def FBn_MBm_CFG_DAR : Fld := ⟨Reg.FBn_MBm_CFG, 3, 3⟩
def FBn_MBm_CFG_SLOT : Fld := ⟨Reg.FBn_MBm_CFG, 16, 8⟩
def FBn_MBm_ID_ID : Fld := ⟨Reg.FBn_MBm_ID, 28, 0⟩
def FBn_MBm_ID_IDE : Fld := ⟨Reg.FBn_MBm_ID, 29, 29⟩
def FBn_MBm_MASK_MASK : Fld := ⟨Reg.FBn_MBm_MASK, 28, 0⟩
def FBn_MBm_MASK_IDE_CMP : Fld := ⟨Reg.FBn_MBm_MASK, 29, 29⟩
def FBn_MBm_STAT_NEW : Fld := ⟨Reg.FBn_MBm_STAT, 0, 0⟩
def FBn_MBm_STAT_MSGLOST : Fld := ⟨Reg.FBn_MBm_STAT, 1, 1⟩
def FBn_MBm_STAT_PEND : Fld := ⟨Reg.FBn_MBm_STAT, 2, 2⟩
def FBn_MBm_STAT_DONE : Fld := ⟨Reg.FBn_MBm_STAT, 3, 3⟩
def FBn_MBm_STAT_ABORTED : Fld := ⟨Reg.FBn_MBm_STAT, 4, 4⟩
def FBn_MBm_STAT_CANCELLED : Fld := ⟨Reg.FBn_MBm_STAT, 5, 5⟩
def UAn_CFG_DIV : Fld := ⟨Reg.UAn_CFG, 15, 0⟩
def UAn_CFG_BITS : Fld := ⟨Reg.UAn_CFG, 17, 16⟩
def UAn_CFG_PARITY : Fld := ⟨Reg.UAn_CFG, 19, 18⟩
def UAn_CFG_STOP2 : Fld := ⟨Reg.UAn_CFG, 20, 20⟩
def UAn_CFG_OWNER : Fld := ⟨Reg.UAn_CFG, 21, 21⟩
def UAn_CFG_PHY : Fld := ⟨Reg.UAn_CFG, 23, 22⟩
def UAn_CFG_TERM : Fld := ⟨Reg.UAn_CFG, 24, 24⟩
def UAn_CFG_ECHO : Fld := ⟨Reg.UAn_CFG, 25, 25⟩
def UAn_STAT_RXCNT : Fld := ⟨Reg.UAn_STAT, 6, 0⟩
def UAn_STAT_TXCNT : Fld := ⟨Reg.UAn_STAT, 14, 8⟩
def UAn_STAT_FE : Fld := ⟨Reg.UAn_STAT, 16, 16⟩
def UAn_STAT_PE : Fld := ⟨Reg.UAn_STAT, 17, 17⟩
def UAn_STAT_BRK : Fld := ⟨Reg.UAn_STAT, 18, 18⟩
def UAn_STAT_OVR : Fld := ⟨Reg.UAn_STAT, 19, 19⟩
def UAn_STAT_TXOVR : Fld := ⟨Reg.UAn_STAT, 20, 20⟩
def UAn_STAT_TX_IDLE : Fld := ⟨Reg.UAn_STAT, 21, 21⟩
def UAn_DATA_BYTE : Fld := ⟨Reg.UAn_DATA, 7, 0⟩
def UAn_DATA_VALID : Fld := ⟨Reg.UAn_DATA, 8, 8⟩
def UAn_DATA_FE : Fld := ⟨Reg.UAn_DATA, 9, 9⟩
def UAn_DATA_PE : Fld := ⟨Reg.UAn_DATA, 10, 10⟩
def UAn_DATA_BRK : Fld := ⟨Reg.UAn_DATA, 11, 11⟩
def UAn_DATA_OVR : Fld := ⟨Reg.UAn_DATA, 12, 12⟩
def UAn_TXCTL_DE_LEAD : Fld := ⟨Reg.UAn_TXCTL, 7, 0⟩
def UAn_TXCTL_DE_LAG : Fld := ⟨Reg.UAn_TXCTL, 15, 8⟩
def UAn_TXCTL_BRK_LEN : Fld := ⟨Reg.UAn_TXCTL, 23, 16⟩
def UAn_TXCTL_BREAK : Fld := ⟨Reg.UAn_TXCTL, 24, 24⟩
def UAn_FLAGCLR_FE : Fld := ⟨Reg.UAn_FLAGCLR, 0, 0⟩
def UAn_FLAGCLR_PE : Fld := ⟨Reg.UAn_FLAGCLR, 1, 1⟩
def UAn_FLAGCLR_BRK : Fld := ⟨Reg.UAn_FLAGCLR, 2, 2⟩
def UAn_FLAGCLR_OVR : Fld := ⟨Reg.UAn_FLAGCLR, 3, 3⟩
def UAn_FLAGCLR_TXOVR : Fld := ⟨Reg.UAn_FLAGCLR, 4, 4⟩
def SBb_CFG_SPEED : Fld := ⟨Reg.SBb_CFG, 1, 0⟩
def SBb_CFG_STRETCH_MAX : Fld := ⟨Reg.SBb_CFG, 15, 8⟩
def SBb_CFG_STUCK_MS : Fld := ⟨Reg.SBb_CFG, 23, 16⟩
def SBb_STAT_BUSY : Fld := ⟨Reg.SBb_STAT, 0, 0⟩
def SBb_STAT_LOCKED : Fld := ⟨Reg.SBb_STAT, 1, 1⟩
def SBb_STAT_STUCK : Fld := ⟨Reg.SBb_STAT, 2, 2⟩
def SBb_STAT_LINE : Fld := ⟨Reg.SBb_STAT, 3, 3⟩
def SBb_STAT_OWNER : Fld := ⟨Reg.SBb_STAT, 24, 16⟩
def SPs_STAT_BUSY : Fld := ⟨Reg.SPs_STAT, 0, 0⟩
def SPs_STAT_LOCKED : Fld := ⟨Reg.SPs_STAT, 1, 1⟩
def SPs_STAT_STUCK : Fld := ⟨Reg.SPs_STAT, 2, 2⟩
def SPs_STAT_LINE : Fld := ⟨Reg.SPs_STAT, 3, 3⟩
def SPs_STAT_OWNER : Fld := ⟨Reg.SPs_STAT, 24, 16⟩
def SPs_CFG_DIV : Fld := ⟨Reg.SPs_CFG, 7, 0⟩
def SPs_CFG_MODE : Fld := ⟨Reg.SPs_CFG, 9, 8⟩
def SPs_CFG_LSB_FIRST : Fld := ⟨Reg.SPs_CFG, 10, 10⟩
def SPs_CFG_CS_GAP : Fld := ⟨Reg.SPs_CFG, 23, 16⟩
def BRG_CFG_LOCK_WAIT : Fld := ⟨Reg.BRG_CFG, 7, 0⟩
def BRG_CFG_TMO : Fld := ⟨Reg.BRG_CFG, 15, 8⟩
def BRG_STAT_TAGS_USED : Fld := ⟨Reg.BRG_STAT, 12, 0⟩
def BRG_EVT_LEASE_REVOKED : Fld := ⟨Reg.BRG_EVT, 0, 0⟩
def BRG_EVT_BUS_STUCK : Fld := ⟨Reg.BRG_EVT, 1, 1⟩
def BRG_EVT_BUS_RECOVERED : Fld := ⟨Reg.BRG_EVT, 2, 2⟩
def BRG_EVT_TAGS_OUT : Fld := ⟨Reg.BRG_EVT, 3, 3⟩
def BRG_EVT_BAD_REQ : Fld := ⟨Reg.BRG_EVT, 4, 4⟩
def BRG_EVT_RSP_DROP : Fld := ⟨Reg.BRG_EVT, 5, 5⟩
def BRG_EVT_POLL_CHANGE : Fld := ⟨Reg.BRG_EVT, 6, 6⟩
def BRG_Qq_CFG_RSPQ : Fld := ⟨Reg.BRG_Qq_CFG, 11, 0⟩
def BRG_Qq_CFG_REPLY : Fld := ⟨Reg.BRG_Qq_CFG, 12, 12⟩
def BRG_Qq_CFG_OFS : Fld := ⟨Reg.BRG_Qq_CFG, 20, 13⟩
def BRG_SEMs_OWNER : Fld := ⟨Reg.BRG_SEMs, 8, 0⟩
def BRG_SEMs_HELD : Fld := ⟨Reg.BRG_SEMs, 9, 9⟩
def BRG_SEMs_WAITERS : Fld := ⟨Reg.BRG_SEMs, 14, 10⟩
def FIO_CFG_WDT_MS : Fld := ⟨Reg.FIO_CFG, 6, 0⟩
def FIO_STAT_FS_A : Fld := ⟨Reg.FIO_STAT, 0, 0⟩
def FIO_STAT_FS_B : Fld := ⟨Reg.FIO_STAT, 1, 1⟩
def FIO_STAT_LINK_A : Fld := ⟨Reg.FIO_STAT, 2, 2⟩
def FIO_STAT_LINK_B : Fld := ⟨Reg.FIO_STAT, 3, 3⟩
def FIO_STAT_VLS : Fld := ⟨Reg.FIO_STAT, 7, 4⟩
def FIO_STAT_GROUP_OC : Fld := ⟨Reg.FIO_STAT, 11, 8⟩
def FIO_STAT_DIE_OC : Fld := ⟨Reg.FIO_STAT, 13, 12⟩
def FIO_EVT_SHORT : Fld := ⟨Reg.FIO_EVT, 0, 0⟩
def FIO_EVT_LATCHED : Fld := ⟨Reg.FIO_EVT, 1, 1⟩
def FIO_EVT_OPEN : Fld := ⟨Reg.FIO_EVT, 2, 2⟩
def FIO_EVT_THERMAL : Fld := ⟨Reg.FIO_EVT, 3, 3⟩
def FIO_EVT_DEGENERATE : Fld := ⟨Reg.FIO_EVT, 4, 4⟩
def FIO_EVT_GROUP_OC : Fld := ⟨Reg.FIO_EVT, 5, 5⟩
def FIO_EVT_VLS_UV : Fld := ⟨Reg.FIO_EVT, 6, 6⟩
def FIO_EVT_FS_ENTER : Fld := ⟨Reg.FIO_EVT, 7, 7⟩
def FIO_EVT_FS_EXIT : Fld := ⟨Reg.FIO_EVT, 8, 8⟩
def FIO_EVT_BAD_CMD : Fld := ⟨Reg.FIO_EVT, 9, 9⟩
def FIO_EVT_EIN_OVR : Fld := ⟨Reg.FIO_EVT, 10, 10⟩
def FIO_PROFu_CFG_MULT : Fld := ⟨Reg.FIO_PROFu_CFG, 1, 0⟩
def FIO_PROFu_CFG_BLANK : Fld := ⟨Reg.FIO_PROFu_CFG, 11, 2⟩
def FIO_PROFu_CFG_RETRIES : Fld := ⟨Reg.FIO_PROFu_CFG, 15, 12⟩
def FIO_PROFu_CFG_RETRY_MS : Fld := ⟨Reg.FIO_PROFu_CFG, 25, 16⟩
def FIO_LSn_CFG_ILIM : Fld := ⟨Reg.FIO_LSn_CFG, 1, 0⟩
def FIO_LSn_CFG_PROFILE : Fld := ⟨Reg.FIO_LSn_CFG, 4, 2⟩
def FIO_LSn_CFG_LED : Fld := ⟨Reg.FIO_LSn_CFG, 5, 5⟩
def FIO_LSn_CFG_FS : Fld := ⟨Reg.FIO_LSn_CFG, 7, 6⟩
def FIO_LSn_CFG_PAR : Fld := ⟨Reg.FIO_LSn_CFG, 8, 8⟩
def FIO_LSn_CFG_TLATCH : Fld := ⟨Reg.FIO_LSn_CFG, 9, 9⟩
def FIO_LSn_PWM_PER : Fld := ⟨Reg.FIO_LSn_PWM, 23, 0⟩
def FIO_LSn_PHASE_PHASE : Fld := ⟨Reg.FIO_LSn_PHASE, 23, 0⟩
def FIO_LSn_STAT_STATE : Fld := ⟨Reg.FIO_LSn_STAT, 3, 0⟩
def FIO_LSn_STAT_OPEN : Fld := ⟨Reg.FIO_LSn_STAT, 4, 4⟩
def FIO_LSn_STAT_SHORT : Fld := ⟨Reg.FIO_LSn_STAT, 5, 5⟩
def FIO_LSn_STAT_DEGENERATE : Fld := ⟨Reg.FIO_LSn_STAT, 6, 6⟩
def FIO_LSn_STAT_RETRIES : Fld := ⟨Reg.FIO_LSn_STAT, 11, 8⟩
def FIO_LSn_STAT_TEMP : Fld := ⟨Reg.FIO_LSn_STAT, 24, 16⟩
def FIO_LSn_CUR_CURRENT : Fld := ⟨Reg.FIO_LSn_CUR, 11, 0⟩
def FIO_LSn_CUR_VOUT : Fld := ⟨Reg.FIO_LSn_CUR, 27, 16⟩
def FIO_LSn_CLR_CLEAR : Fld := ⟨Reg.FIO_LSn_CLR, 0, 0⟩
def FIO_LSn_CNT_SHORTS : Fld := ⟨Reg.FIO_LSn_CNT, 15, 0⟩
def FIO_LSn_CNT_THERMALS : Fld := ⟨Reg.FIO_LSn_CNT, 31, 16⟩
def FIO_EINn_CFG_FILT : Fld := ⟨Reg.FIO_EINn_CFG, 13, 0⟩
def FIO_EINn_CFG_EDGE : Fld := ⟨Reg.FIO_EINn_CFG, 17, 16⟩
def FIO_EINn_CFG_TYPE : Fld := ⟨Reg.FIO_EINn_CFG, 18, 18⟩
def FIO_EINn_STAT_LEVEL : Fld := ⟨Reg.FIO_EINn_STAT, 0, 0⟩
def FIO_EINn_STAT_OVR : Fld := ⟨Reg.FIO_EINn_STAT, 1, 1⟩
def FIO_EINn_STAT_SEQ : Fld := ⟨Reg.FIO_EINn_STAT, 31, 16⟩
def CEL_CFG_RECQ : Fld := ⟨Reg.CEL_CFG, 11, 0⟩
def CEL_CFG_REC_EN : Fld := ⟨Reg.CEL_CFG, 12, 12⟩
def CEL_STAT_PRESENT : Fld := ⟨Reg.CEL_STAT, 0, 0⟩
def CEL_STAT_SEAL : Fld := ⟨Reg.CEL_STAT, 1, 1⟩
def CEL_STAT_KEY_OK : Fld := ⟨Reg.CEL_STAT, 2, 2⟩
def CEL_STAT_CH : Fld := ⟨Reg.CEL_STAT, 15, 8⟩
def CEL_STAT_BOOT : Fld := ⟨Reg.CEL_STAT, 31, 16⟩
def CEL_EVT_NO_RESULT : Fld := ⟨Reg.CEL_EVT, 0, 0⟩
def CEL_EVT_CRC_ERR : Fld := ⟨Reg.CEL_EVT, 1, 1⟩
def CEL_EVT_SIG_ERR : Fld := ⟨Reg.CEL_EVT, 2, 2⟩
def CEL_EVT_GAP : Fld := ⟨Reg.CEL_EVT, 3, 3⟩
def CEL_EVT_AUDIT_CHG : Fld := ⟨Reg.CEL_EVT, 4, 4⟩
def CEL_EVT_ABSENT : Fld := ⟨Reg.CEL_EVT, 5, 5⟩
def CEL_EVT_CMD_FAIL : Fld := ⟨Reg.CEL_EVT, 6, 6⟩
def CEL_EVT_QUEUE_DROP : Fld := ⟨Reg.CEL_EVT, 7, 7⟩
def CEL_CMD_STAT_STATE : Fld := ⟨Reg.CEL_CMD_STAT, 1, 0⟩
def CEL_CMD_STAT_RESULT : Fld := ⟨Reg.CEL_CMD_STAT, 7, 4⟩
def CEL_CMD_STAT_TAG : Fld := ⟨Reg.CEL_CMD_STAT, 31, 16⟩
def CFG_STAT_BOOT : Fld := ⟨Reg.CFG_STAT, 1, 0⟩
def CFG_STAT_COPY : Fld := ⟨Reg.CFG_STAT, 2, 2⟩
def CFG_STAT_SEALED : Fld := ⟨Reg.CFG_STAT, 3, 3⟩
def CFG_STAT_REASON : Fld := ⟨Reg.CFG_STAT, 5, 4⟩
def CFG_STAT_FALLBACK : Fld := ⟨Reg.CFG_STAT, 6, 6⟩
def CFG_SWAP_CMD : Fld := ⟨Reg.CFG_SWAP, 2, 0⟩
def CFG_SWAP_AT : Fld := ⟨Reg.CFG_SWAP, 3, 3⟩
def CFG_SWAP_STAT_STATE : Fld := ⟨Reg.CFG_SWAP_STAT, 2, 0⟩
def CFG_SWAP_STAT_CODE : Fld := ⟨Reg.CFG_SWAP_STAT, 7, 4⟩
def CFG_SWAP_STAT_GROUP : Fld := ⟨Reg.CFG_SWAP_STAT, 12, 8⟩
def CFG_UPD_CTL_TARGET : Fld := ⟨Reg.CFG_UPD_CTL, 0, 0⟩
def CFG_UPD_CTL_START : Fld := ⟨Reg.CFG_UPD_CTL, 1, 1⟩
def CFG_UPD_CTL_COMMIT : Fld := ⟨Reg.CFG_UPD_CTL, 2, 2⟩
def CFG_UPD_CTL_ABORT : Fld := ⟨Reg.CFG_UPD_CTL, 3, 3⟩
def CFG_UPD_CTL_STAGE_S : Fld := ⟨Reg.CFG_UPD_CTL, 23, 16⟩
def CFG_UPD_STAT_STATE : Fld := ⟨Reg.CFG_UPD_STAT, 1, 0⟩
def CFG_UPD_STAT_CODE : Fld := ⟨Reg.CFG_UPD_STAT, 3, 2⟩
def CFG_BIST_ABORTS : Fld := ⟨Reg.CFG_BIST, 15, 0⟩
def CFG_BIST_PASSES : Fld := ⟨Reg.CFG_BIST, 31, 16⟩
def CFG_SHR_ADDR_ADDR : Fld := ⟨Reg.CFG_SHR_ADDR, 25, 2⟩
def CFG_SHR_ADDR_OPEN : Fld := ⟨Reg.CFG_SHR_ADDR, 31, 31⟩
def ATC_CMD_CMD : Fld := ⟨Reg.ATC_CMD, 1, 0⟩
def ATC_CMD_SLOT : Fld := ⟨Reg.ATC_CMD, 9, 2⟩
def ATC_STAT_STATE : Fld := ⟨Reg.ATC_STAT, 1, 0⟩
def ATC_STAT_CODE : Fld := ⟨Reg.ATC_STAT, 3, 2⟩
def ATC_STAT_MOUNTED : Fld := ⟨Reg.ATC_STAT, 4, 4⟩
def ATC_WEAR_MAX_CYCLES : Fld := ⟨Reg.ATC_WEAR, 16, 0⟩
def ATC_WEAR_WORN : Fld := ⟨Reg.ATC_WEAR, 27, 17⟩
def EVT_STAT_LOG_FAIL : Fld := ⟨Reg.EVT_STAT, 0, 0⟩
def EVT_STAT_PENDING : Fld := ⟨Reg.EVT_STAT, 9, 1⟩
def EVT_RD_IDX_INDEX : Fld := ⟨Reg.EVT_RD_IDX, 13, 0⟩
def EVT_RD_IDX_SRC : Fld := ⟨Reg.EVT_RD_IDX, 15, 14⟩
def POR_STAT_STATE : Fld := ⟨Reg.POR_STAT, 2, 0⟩
def POR_STAT_TRANS : Fld := ⟨Reg.POR_STAT, 3, 3⟩
def POR_STAT_HOLDUP : Fld := ⟨Reg.POR_STAT, 4, 4⟩
def POR_STAT_PROVISIONAL : Fld := ⟨Reg.POR_STAT, 5, 5⟩
def POR_STAT_VMON_LOW : Fld := ⟨Reg.POR_STAT, 6, 6⟩
def POR_STAT_WAKE_SRC : Fld := ⟨Reg.POR_STAT, 20, 8⟩
def POR_CMD_CMD : Fld := ⟨Reg.POR_CMD, 2, 0⟩
def POR_CMD_STAT_STATE : Fld := ⟨Reg.POR_CMD_STAT, 1, 0⟩
def POR_CMD_STAT_CODE : Fld := ⟨Reg.POR_CMD_STAT, 3, 2⟩
def POR_CFG_CONF_COMMIT : Fld := ⟨Reg.POR_CFG, 0, 0⟩
def POR_CFG_FALSE_T : Fld := ⟨Reg.POR_CFG, 15, 8⟩
def POR_CFG_CYCLE_S : Fld := ⟨Reg.POR_CFG, 31, 16⟩
def POR_INH_OPERATE : Fld := ⟨Reg.POR_INH, 3, 0⟩
def POR_INH_LISTEN : Fld := ⟨Reg.POR_INH, 7, 4⟩
def POR_INH_STANDBY : Fld := ⟨Reg.POR_INH, 11, 8⟩
def POR_INH_SLEEP : Fld := ⟨Reg.POR_INH, 15, 12⟩
def POR_EVT_HOLDUP_START : Fld := ⟨Reg.POR_EVT, 0, 0⟩
def POR_EVT_HOLDUP_END : Fld := ⟨Reg.POR_EVT, 1, 1⟩
def POR_EVT_VMON_LOW : Fld := ⟨Reg.POR_EVT, 2, 2⟩
def POR_EVT_VMON_UP : Fld := ⟨Reg.POR_EVT, 3, 3⟩
def POR_EVT_WAKE : Fld := ⟨Reg.POR_EVT, 4, 4⟩
def POR_EVT_FALSE_WAKE : Fld := ⟨Reg.POR_EVT, 5, 5⟩
def POR_EVT_AWAKE_LIMIT : Fld := ⟨Reg.POR_EVT, 6, 6⟩
def POR_EVT_AVS_CLIP : Fld := ⟨Reg.POR_EVT, 7, 7⟩
def POR_EVT_AVS_FAULT : Fld := ⟨Reg.POR_EVT, 8, 8⟩
def POR_VMON_THR : Fld := ⟨Reg.POR_VMON, 10, 0⟩
def POR_VMON_DLY : Fld := ⟨Reg.POR_VMON, 23, 16⟩
def POR_VMON_ACT : Fld := ⟨Reg.POR_VMON, 24, 24⟩
def POR_TIMER_SECONDS : Fld := ⟨Reg.POR_TIMER, 23, 0⟩
def POR_AVS_CFG_VMIN : Fld := ⟨Reg.POR_AVS_CFG, 9, 0⟩
def POR_AVS_CFG_VMAX : Fld := ⟨Reg.POR_AVS_CFG, 25, 16⟩
def POR_AVS_STAT_TARGET : Fld := ⟨Reg.POR_AVS_STAT, 9, 0⟩
def POR_AVS_STAT_VOUT : Fld := ⟨Reg.POR_AVS_STAT, 25, 16⟩
def POR_AVS_STAT_GOOD : Fld := ⟨Reg.POR_AVS_STAT, 26, 26⟩
def POR_AVS_STAT_FREQ_WAIT : Fld := ⟨Reg.POR_AVS_STAT, 27, 27⟩
def POR_SRCs_CFG_EN : Fld := ⟨Reg.POR_SRCs_CFG, 0, 0⟩
def POR_SRCs_CFG_POL : Fld := ⟨Reg.POR_SRCs_CFG, 1, 1⟩
def POR_SRCs_CFG_INH_SEL : Fld := ⟨Reg.POR_SRCs_CFG, 3, 2⟩
def POR_SRCs_CFG_INH_EN : Fld := ⟨Reg.POR_SRCs_CFG, 4, 4⟩
def POR_SRCs_CFG_MASKED : Fld := ⟨Reg.POR_SRCs_CFG, 5, 5⟩
def POR_SRCs_CFG_MAX_AWAKE : Fld := ⟨Reg.POR_SRCs_CFG, 31, 16⟩
def HST_CFG_IRQ_EN : Fld := ⟨Reg.HST_CFG, 0, 0⟩
def HST_STAT_SPEED : Fld := ⟨Reg.HST_STAT, 2, 0⟩
def HST_STAT_WIDTH : Fld := ⟨Reg.HST_STAT, 6, 3⟩
def HST_STAT_USB_CONF : Fld := ⟨Reg.HST_STAT, 7, 7⟩
def HST_STAT_USB_UPLOAD : Fld := ⟨Reg.HST_STAT, 8, 8⟩
def HST_RST_CMD : Fld := ⟨Reg.HST_RST, 7, 0⟩
def HST_RST_BLOCK : Fld := ⟨Reg.HST_RST, 23, 16⟩
def TRC_CFG_EN : Fld := ⟨Reg.TRC_CFG, 0, 0⟩
def TRC_CFG_STOP : Fld := ⟨Reg.TRC_CFG, 1, 1⟩
def TRC_CFG_SAVE_ON_SLEEP : Fld := ⟨Reg.TRC_CFG, 2, 2⟩
def TRC_CFG_TYPES : Fld := ⟨Reg.TRC_CFG, 11, 8⟩
def TRC_STAT_FILL : Fld := ⟨Reg.TRC_STAT, 14, 0⟩
def TRC_STAT_WRAPPED : Fld := ⟨Reg.TRC_STAT, 15, 15⟩
def TRC_STAT_STOPPED : Fld := ⟨Reg.TRC_STAT, 16, 16⟩
def TRC_RD_IDX_INDEX : Fld := ⟨Reg.TRC_RD_IDX, 13, 0⟩
def HST_Qs_CFG_DIR : Fld := ⟨Reg.HST_Qs_CFG, 0, 0⟩
def HST_Qs_CFG_DEST : Fld := ⟨Reg.HST_Qs_CFG, 2, 1⟩
def HST_Qs_CFG_BQ : Fld := ⟨Reg.HST_Qs_CFG, 11, 3⟩
def HST_Qs_CFG_VEC : Fld := ⟨Reg.HST_Qs_CFG, 22, 12⟩
def HST_Qs_CFG_INT_US : Fld := ⟨Reg.HST_Qs_CFG, 31, 23⟩
def GEN_ID_STEP : Fld := ⟨Reg.GEN_ID, 7, 0⟩
def GEN_ID_PART : Fld := ⟨Reg.GEN_ID, 31, 16⟩
end Fd

def regTable0 : List RegDesc := [
  Reg.TKE_CFG, Reg.TKE_STAT, Reg.TKE_TICK_LO, Reg.TKE_TICK_HI,
  Reg.TKE_CYCLES, Reg.TKE_PEAK, Reg.TKE_OVR_CNT, Reg.TKE_LATE_CNT,
  Reg.TKE_FAULT, Reg.TKE_BAD_FRAME, Reg.TKE_IMG_ADDR, Reg.TKE_IMG_DATA,
  Reg.TKE_TASKn_W0, Reg.TKE_TASKn_W1, Reg.GNG_STAT, Reg.GNG_ERR,
  Reg.GNG_TBL_ADDR, Reg.GNG_TBL_DATA0, Reg.GNG_TBL_DATA1, Reg.GNG_TBL_DATA2,
  Reg.GNG_SEGn, Reg.GNG_AOPENn, Reg.TU_CFG, Reg.TU_STAT,
  Reg.TU_RAW_LO, Reg.TU_RAW_HI, Reg.TU_NOW_FRAC, Reg.TU_NOW_LO,
  Reg.TU_NOW_HI, Reg.TU_RATE_LO, Reg.TU_RATE_HI, Reg.TU_OFS_FRAC]
def regTable1 : List RegDesc := [
  Reg.TU_OFS_LO, Reg.TU_OFS_HI, Reg.TU_TBASE_LO, Reg.TU_TBASE_HI,
  Reg.TU_MASTER_LO, Reg.TU_MASTER_HI, Reg.TU_OFM, Reg.TU_STEP_CNT,
  Reg.TU_TOD_LO, Reg.TU_TOD_HI, Reg.TU_TOD_CMD, Reg.TU_PPS_IN_LO,
  Reg.TU_PPS_IN_HI, Reg.TU_PPS_OUT, Reg.TU_TICK_OUT, Reg.TU_EVT,
  Reg.TU_HOLD_CNT, Reg.TU_TC_UNCORR, Reg.TU_PORTn_CFG, Reg.TU_PORTn_ASYM,
  Reg.TU_PORTn_DELAY, Reg.TU_PORTn_STAT, Reg.PGn_MODE, Reg.PGn_STAT,
  Reg.PGn_EVT, Reg.PGn_BURST_CFG, Reg.PGn_BURST_START_LO, Reg.PGn_BURST_START_HI,
  Reg.PGn_BURST_END_LO, Reg.PGn_BURST_END_HI, Reg.PGn_BURST_CNT, Reg.PGn_OPTm_CFG]
def regTable2 : List RegDesc := [
  Reg.PGn_OPTm_STAT, Reg.PGn_Pp_CFG, Reg.PGn_Pp_SD, Reg.PGn_Pp_STAT,
  Reg.PGn_Pp_FEC_PEAK, Reg.PGn_Pp_CNTc_LO, Reg.PGn_Pp_CNTc_HI, Reg.PGn_Ll_CFG,
  Reg.PGn_Ll_STAT, Reg.PGn_Ll_SYMERR, Reg.PGn_Ll_TEST, Reg.PGn_Ll_PRBS_ERR,
  Reg.FP_CFG, Reg.FP_STAT, Reg.FP_EVT, Reg.FP_TBL_CTL,
  Reg.FP_LEARN_DROP, Reg.FP_PORTn_CFG, Reg.FP_PORTn_PCPCLS, Reg.FP_PORTn_PCPTC,
  Reg.FP_PORTn_TC, Reg.FP_PORTn_CBSt, Reg.FP_PORTn_PREEMPT, Reg.FP_PORTn_CNTc_LO,
  Reg.FP_PORTn_CNTc_HI, Reg.LDR_CFG, Reg.LDR_STAT, Reg.LDR_EVT,
  Reg.LDR_POOL_CFG, Reg.LDR_STD_THR0, Reg.LDR_STD_THR1, Reg.LDR_STD_DE]
def regTable3 : List RegDesc := [
  Reg.LDR_POOLp_USED, Reg.LDR_POOLp_PEAK, Reg.LDR_DESC_USED, Reg.LDR_QE_USED,
  Reg.LDR_SEC_CNT, Reg.LDR_DED_CNT, Reg.LDR_DED_ADDR, Reg.LDR_STD_DROP_CNT,
  Reg.LDR_ROT_CNT, Reg.LDR_SCRUB_CNT, Reg.LDR_EXP_DROP_CNT, Reg.LDR_QCMD,
  Reg.LDR_QCMD_STAT, Reg.LDR_PORTn_CFG, Reg.LDR_PORTn_HOP, Reg.LDR_PORTn_ASR,
  Reg.LDR_PORTn_CRED, Reg.LDR_Qq_CFG, Reg.LDR_Qq_MAX, Reg.LDR_Qq_STAT,
  Reg.LDR_Qq_CELLS, Reg.CST_CFG, Reg.CST_RING, Reg.CST_BRj,
  Reg.CST_STAT, Reg.CST_HEAD_LO, Reg.CST_HEAD_HI, Reg.CST_INAUG,
  Reg.CST_RENUM, Reg.CST_NODES, Reg.CST_COMMIT_LO, Reg.CST_COMMIT_HI]
def regTable4 : List RegDesc := [
  Reg.CST_SPAN, Reg.CST_EVT, Reg.CST_FAIL_CNT, Reg.CST_BAD_FRAME,
  Reg.CST_ROUNDS, Reg.CST_CMD, Reg.CST_RST_LO, Reg.CST_RST_HI,
  Reg.ASD_CFG, Reg.ASD_STAT, Reg.ASD_EVT, Reg.ASD_CMD,
  Reg.ASD_CMD_STAT, Reg.ASD_EPOCH, Reg.ASD_TAKEOVER_LO, Reg.ASD_TAKEOVER_HI,
  Reg.ASD_GAP, Reg.ASD_VC_CFG, Reg.ASD_VC_STAT, Reg.ASD_VC_RESYNC,
  Reg.ASD_LEASE_CNT, Reg.ASD_PARTNER_LO, Reg.ASD_PARTNER_HI, Reg.ASD_CNTc_LO,
  Reg.ASD_CNTc_HI, Reg.ASD_Gg_CFG, Reg.ASD_Gg_PSTAT, Reg.ASD_Gg_LSTAT,
  Reg.ASD_Gg_SYMERR, Reg.ASD_Gg_CNTc_LO, Reg.ASD_Gg_CNTc_HI, Reg.SEN_CFG]
def regTable5 : List RegDesc := [
  Reg.SEN_STAT, Reg.SEN_EVT, Reg.SEN_TBL_ADDR, Reg.SEN_TBL_DATAi,
  Reg.SEN_BACKLOG_DROP, Reg.SEN_NO_TALKER, Reg.SEN_LSNl_TX, Reg.SEN_LSNl_COAL,
  Reg.SEN_TALKt_CFG, Reg.SEN_TALKt_LINK, Reg.SEN_TALKt_RATE, Reg.SEN_TALKt_STAMP_LO,
  Reg.SEN_TALKt_STAMP_HI, Reg.SEN_TALKt_CNTc, Reg.FBn_CFG, Reg.FBn_NBT,
  Reg.FBn_DBT, Reg.FBn_STAT, Reg.FBn_EVT, Reg.FBn_CMD,
  Reg.FBn_TXCMD, Reg.FBn_TXCMD_STAT, Reg.FBn_MBSEL, Reg.FBn_ARD_CFG,
  Reg.FBn_ARD_STAT, Reg.FBn_REF_CFG, Reg.FBn_SOF_LO, Reg.FBn_SOF_HI,
  Reg.FBn_HP_CFG, Reg.FBn_HP_STAT, Reg.FBn_ARDk_NBT, Reg.FBn_ARDk_DBT]
def regTable6 : List RegDesc := [
  Reg.FBn_CNTc, Reg.FBn_REF_MISS, Reg.FBn_XCVR, Reg.FBn_SWK_ID,
  Reg.FBn_SWK_IDM, Reg.FBn_SWK_DATA_LO, Reg.FBn_SWK_DATA_HI, Reg.FBn_XCVR_STAT,
  Reg.FBn_MBWIN, Reg.FBn_MBm_CFG, Reg.FBn_MBm_ID, Reg.FBn_MBm_MASK,
  Reg.FBn_MBm_STAT, Reg.UAn_CFG, Reg.UAn_STAT, Reg.UAn_DATA,
  Reg.UAn_TXCTL, Reg.UAn_CNTc, Reg.UAn_FLAGCLR, Reg.SBb_CFG,
  Reg.SBb_STAT, Reg.SPs_STAT, Reg.SBb_CNTc, Reg.SPs_CFG,
  Reg.SPs_CNTc, Reg.BRG_CFG, Reg.BRG_STAT, Reg.BRG_EVT,
  Reg.BRG_RSP_DROP, Reg.BRG_Qq_CFG, Reg.BRG_SEMs, Reg.BRG_POLLp_Wi]
def regTable7 : List RegDesc := [
  Reg.FIO_CFG, Reg.FIO_STAT, Reg.FIO_EVT, Reg.FIO_PROFu_CFG,
  Reg.FIO_LSn_CFG, Reg.FIO_LSn_PWM, Reg.FIO_LSn_PHASE, Reg.FIO_LSn_STAT,
  Reg.FIO_LSn_CUR, Reg.FIO_LSn_CLR, Reg.FIO_LSn_CNT, Reg.FIO_EINn_CFG,
  Reg.FIO_EINn_STAT, Reg.FIO_EINn_LAST_LO, Reg.FIO_EINn_LAST_HI, Reg.CEL_CFG,
  Reg.CEL_STAT, Reg.CEL_EVT, Reg.CEL_CMD0, Reg.CEL_CMD1,
  Reg.CEL_CMD2, Reg.CEL_CMD_STAT, Reg.CEL_AUDIT, Reg.CEL_RSEQ,
  Reg.CEL_PCRC, Reg.CEL_PUBKEYi, Reg.CEL_CNTc, Reg.CFG_STAT,
  Reg.CFG_SEQ, Reg.CFG_SETID_LO, Reg.CFG_SETID_HI, Reg.CFG_SWAP]
def regTable8 : List RegDesc := [
  Reg.CFG_SWAP_TICK_LO, Reg.CFG_SWAP_TICK_HI, Reg.CFG_SWAP_STAT, Reg.CFG_UPD_CTL,
  Reg.CFG_UPD_DATA, Reg.CFG_UPD_STAT, Reg.CFG_BIST, Reg.CFG_SHR_ADDR,
  Reg.CFG_SHR_DATA, Reg.ATC_CMD, Reg.ATC_STAT, Reg.ATC_WEAR,
  Reg.ATC_BUFi, Reg.EVT_STAT, Reg.EVT_LOST, Reg.EVT_RD_IDX,
  Reg.EVT_RD_DATAi, Reg.POR_STAT, Reg.POR_CMD, Reg.POR_CMD_STAT,
  Reg.POR_CFG, Reg.POR_INH, Reg.POR_EVT, Reg.POR_VMON,
  Reg.POR_HOLD_LAST, Reg.POR_HOLD_CNT, Reg.POR_FALSE_CNT, Reg.POR_TIMER,
  Reg.POR_LWAKE, Reg.POR_AVS_CFG, Reg.POR_AVS_STAT, Reg.POR_SRCs_CFG]
def regTable9 : List RegDesc := [
  Reg.HST_CFG, Reg.HST_STAT, Reg.HST_EVT_SUM, Reg.HST_RST,
  Reg.TRC_CFG, Reg.TRC_STAT, Reg.TRC_RD_IDX, Reg.TRC_RD_DATAi,
  Reg.HST_Qs_CFG, Reg.GEN_ID, Reg.GEN_EUI_LO, Reg.GEN_EUI_HI,
  Reg.GEN_LOCKED_CNT]

/-- Every register of the map. -/
def regTable : List RegDesc := regTable0 ++ regTable1 ++ regTable2 ++ regTable3 ++ regTable4 ++ regTable5 ++ regTable6 ++ regTable7 ++ regTable8 ++ regTable9

/-- The address of the instance with the given indices. -/
def regAddr : Nat → List (Nat × Nat) → List Nat → Nat
  | b, (_, st) :: ds, i :: is => regAddr (b + i * st) ds is
  | b, _, _ => b

def RegDesc.addr (r : RegDesc) (ix : List Nat) : Nat := regAddr r.base r.dims ix

/-- The indices of the instance at distance d from a base, if there is one. -/
def regIndices : List (Nat × Nat) → Nat → Option (List Nat)
  | [], d => if d = 0 then some [] else none
  | (n, st) :: ds, d =>
    if d / st < n then (regIndices ds (d % st)).map (fun is => d / st :: is) else none

def RegDesc.indices (r : RegDesc) (a : Nat) : Option (List Nat) :=
  if r.base ≤ a then regIndices r.dims (a - r.base) else none

def findReg : List RegDesc → Nat → Option (RegDesc × List Nat)
  | [], _ => none
  | r :: rs, a => match r.indices a with
    | some is => some (r, is)
    | none => findReg rs a

/-- The register at a BAR0 address (R419). -/
def regAt (a : Nat) : Option (RegDesc × List Nat) := findReg regTable a

end Sys2Proof.Machine
end

