-- ==== Sys2Proof/Machine/State.lean ====
section
/-! DEFINITION. The state of the block as plain data: the queue of waiting commands, the register store, and for each
block the state that spec/00 to spec/18 give it beyond its registers. -/

namespace Sys2Proof.Machine

open Sys2Proof

/-- The block raises no fault: every command that the spec names has an effect or is ignored as the spec says. -/
inductive Fault where
  /-- Raised by nobody; the model stops on no state. Safe. -/
  | unused
  deriving DecidableEq, Repr

/-- Reasons for which a command has no meaning. -/
inductive Refusal where
  /-- The command has no meaning yet. Raised only by an arm of exec. Safe. -/
  | notModelled (mnemonic : String)
  deriving DecidableEq, Repr

/-! Event log and trace (spec/14, spec/16) -/

/-- An entry of the event log (Table CFG-4, R375). -/
structure LogEntry where
  time : BitVec 64 := 0
  seq : BitVec 32 := 0
  code : BitVec 16 := 0
  sev : BitVec 8 := 0
  flags : BitVec 8 := 0
  repeats : BitVec 16 := 0
  boot : BitVec 16 := 0
  step : BitVec 16 := 0
  position : BitVec 16 := 0
  arg0 : BitVec 32 := 0
  arg1 : BitVec 32 := 0
  deriving DecidableEq, Repr

/-- A trace record (Table HST-6). -/
structure TraceRec where
  time : BitVec 64 := 0
  type : BitVec 8 := 0
  flags : BitVec 8 := 0
  src : BitVec 16 := 0
  arg : BitVec 32 := 0
  deriving DecidableEq, Repr

/-- The event log of CTL (R375 to R378). -/
structure Evt where
  seq : BitVec 32 := 0
  /-- The volatile log, newest first, at most 1,024 (R377), each with the raw count of its recording. -/
  vol : List (Nat × LogEntry) := []
  /-- Unstored entries, newest first, at most 256, each with the raw count of its recording (R376). -/
  unst : List (Nat × LogEntry) := []
  /-- Entries were lost, so the next stored entry carries LOST (R376). -/
  lostFlag : Bool := false
  /-- Pages that the store bucket allows, in ms of credit, and the raw time of its last count (R376). -/
  bucket : Nat := 32000
  bucketAt : Nat := 0
  /-- The partner's entries, newest first, at most 1,024 (R377). -/
  plog : List LogEntry := []
  /-- Entries that are to be sent to the partner, oldest first (R377). -/
  unsent : List LogEntry := []
  /-- A page of the log that is being stored, oldest first, with the raw time at which the STORE began. -/
  storing : Option (List (Nat × LogEntry) × Nat) := none
  /-- EVT_RD_DATA captured per party (R12, EVT_RD_DATA). -/
  cap : Tab (List (BitVec 32)) := []
  deriving DecidableEq, Repr

/-- The trace unit (R414, R415). -/
structure Trc where
  /-- Newest first, at most 16,384. -/
  buf : List TraceRec := []
  wrapped : Bool := false
  running : Bool := true
  cap : Tab (List (BitVec 32)) := []
  deriving DecidableEq, Repr

/-! Time unit (spec/03) -/

/-- A pair RATE, OFFSET with its effective raw value E (R76). -/
structure TimePair where
  rate : BitVec 48 := 0
  ofs : BitVec 96 := 0
  eff : Nat := 0
  deriving DecidableEq, Repr

/-- Values in force before a change of TICK_BASE or HC_LOG, and the tick at which the change took effect (R90). -/
structure TickChange where
  tick : Nat
  base : BitVec 64
  hcLog : Nat
  deriving DecidableEq, Repr

/-- Peer delay state of one time-aware port (R84). -/
structure PdelayPort where
  lastSent : Option Nat := none
  answered : Bool := true
  deriving DecidableEq, Repr

structure Tu where
  /-- The last four pairs and the pair before them, newest first (R76). -/
  pairs : List TimePair := [{}]
  lastChange : Option Nat := none
  /-- Consist time exists: a time step or a commit has set it (Table CFG-4, RAW). -/
  hasTime : Bool := false
  /-- TICK_BASE, where one is in force (R77). -/
  base : Option (BitVec 64) := none
  /-- Tick number of the latest instant (R43). -/
  tick : Nat := 0
  /-- A commit has just set the tick number, and its instant is still to be acted on (R200). -/
  atInstant : Bool := false
  /-- Raw count of the latest strobe (R51). -/
  strobe : Option Nat := none
  /-- Tick strobes since the reset, with periods of P for strobes that were missing (R246). -/
  strobes : Nat := 0
  changes : List TickChange := []
  master : BitVec 64 := 0
  /-- The ranked backups, rank 1 first (R89). -/
  backups : List (BitVec 64) := []
  /-- Raw count from which Sync intervals are counted (R92). -/
  syncRef : Nat := 0
  /-- Raw count of the last Sync sent (R84). -/
  syncSent : Option Nat := none
  /-- The node has locked to its present master (R92). -/
  everLocked : Bool := false
  /-- Difference still to be removed, master less own reading, in units of 2^-32 ns, from the last Sync (R94). -/
  diff : Option Int := none
  /-- A Sync arrived since the last change of the pair (R76). -/
  syncFresh : Bool := false
  /-- An inauguration commit has happened (R95). -/
  committed : Bool := false
  ppsInAt : Option Nat := none
  ppsUsed : Bool := true
  /-- The second and the tick of the last rising edges of PPS_OUT and TICK_OUT, and the raw counts at which the pins, while
  high, fall. -/
  ppsOut : Option Int := none
  ppsFall : Option Nat := none
  tickOut : Option Int := none
  tickFall : Option Nat := none
  /-- The port whose recovered clock is to drive YCLK from the next instant (R87, R88). -/
  ySource : Option Nat := none
  yPort : Option Nat := none
  pdelay : Tab PdelayPort := []
  /-- Sequence numbers of PTP messages, by 16 * port + message type (log entry 126). -/
  ptpSeqs : Tab Nat := []
  deriving DecidableEq, Repr

/-! Tick Engine and Gingham (spec/02) -/

/-- A running LOOP: first and last word of the body, count, present index, counter register (R66). -/
structure LoopFrame where
  first : Nat
  last : Nat
  count : Nat
  index : Nat
  reg : Nat
  deriving DecidableEq, Repr

/-- What a voter channel is doing in the tick (R45, R67). -/
inductive VPhase where
  | idle | running | ended | stopped
  deriving DecidableEq, Repr

/-- Why a voter channel takes no part (R243 to R245). -/
inductive VOut where
  | none | resync (since : Nat) | test (since : Nat) | failed
  deriving DecidableEq, Repr

/-- One voter channel (R62). -/
structure VChan where
  w : Tab (BitVec 32) := []
  t : Tab (BitVec 64) := []
  pc : Nat := 0
  loops : List LoopFrame := []
  /-- Indices of the tasks still to run in the tick, the running one first (R64). -/
  tasks : List Nat := []
  phase : VPhase := .idle
  cycles : Nat := 0
  taskCycles : Nat := 0
  wcetRaised : Bool := false
  /-- Task code memory, 65,536 words of 64 bits (R66). -/
  code : Tab (BitVec 64) := []
  /-- Input section of the latest complete image, by word (R47, R72). -/
  image : Tab (BitVec 32) := []
  /-- Words of the output section and of pending state written in the tick (R243). -/
  outw : Tab (Option (BitVec 32)) := []
  pend : Tab (Option (BitVec 32)) := []
  /-- Committed state section, by word (R63). -/
  state : Tab (BitVec 32) := []
  out : VOut := .none
  /-- Task code differs from the majority's, so the rejoin waits for the copy (R243). -/
  codeCopy : Bool := false
  /-- Ticks of the last dissents (R244). -/
  dissents : List Nat := []
  deriving DecidableEq, Repr

/-- A source of a task input (R69). -/
inductive TaskSource where
  | ein (n : Nat) | canRx (fb buf : Nat) | field (sel : Nat) | importEntry (word : Nat) | loadDiag (ls flag : Nat)
  | cellar (lc : Nat)
  deriving DecidableEq, Repr

/-- A row of the task input source lists (R69). -/
structure TaskInput where
  input : Nat
  index : Nat
  source : TaskSource
  deriving DecidableEq, Repr

/-- A capture record (Table TCK-13). -/
structure Capture where
  time : BitVec 64
  frac : BitVec 16
  source : Nat
  input : Nat
  kind : Nat
  rising : Bool
  /-- Raw count at which it was counted. -/
  at_ : Nat
  deriving DecidableEq, Repr

/-- One export entry of the export map (R73): words of the output section, from a byte offset of the image. -/
structure ExportEntry where
  frame : Nat
  offset : Nat
  imp : Nat
  len : Nat
  deriving DecidableEq, Repr

/-- Address and C-tag of an image frame (R73). -/
structure ExportFrame where
  dest : BitVec 48
  vid : BitVec 12
  pcp : BitVec 3
  port : Nat
  deriving DecidableEq, Repr

/-- A drive import (R48, R49): import words that act as output section words of this IXKAR. -/
structure DriveImport where
  imp : Nat
  out : Nat
  len : Nat
  deriving DecidableEq, Repr

/-- The compiler's maps of the Tick Engine whose row layouts the spec does not give (log entry 12). -/
structure TkeMaps where
  inputs : List TaskInput := []
  exports : List ExportEntry := []
  frames : Tab ExportFrame := []
  drives : List DriveImport := []
  deriving DecidableEq, Repr

/-- An image under collection (R46, R47): its words, counters, captures in counting order and event-input records. -/
structure ImageBuf where
  words : Tab (BitVec 32) := []
  counts : Tab (Nat × Bool) := []
  caps : List Capture := []
  edges : Tab Nat := []
  /-- Readings of a load channel that the image has taken, by channel (R337). -/
  reads : Tab Nat := []
  /-- Assignment time and talker of the sentence that last updated a field slot in this tick (R265). -/
  fieldAt : Tab (Option (Nat × Nat)) := []
  deriving DecidableEq, Repr

/-- A task-table entry, words 0 and 1 (Table TCK-7). -/
abbrev TaskRow := BitVec 32 × BitVec 32

structure Tke where
  vc : Tab VChan := []
  /-- Images: collected for the next instant, frozen and still assembling, and whether assembly is open (R46, R47). -/
  next : ImageBuf := {}
  asm : ImageBuf := {}
  asmOpen : Bool := false
  /-- Output words voted in the tick and words in force, and import words that wait for the next instant (R48). -/
  voted : Tab (Option (BitVec 32)) := []
  force : Tab (BitVec 32) := []
  imports : Tab (Option (BitVec 32)) := []
  voteDone : Bool := false
  started : Bool := false
  deadline : Bool := false
  staging : Bool := false
  /-- The tick in progress is handled as an overrun (R67), and it is so for a per-block reset (R441). -/
  overrun : Bool := false
  resetTick : Bool := false
  prevOverrun : Bool := false
  consec : Nat := 0
  lateTick : Nat := 0
  lateLast : Nat := 0
  /-- The command frames of the tick have been sent. -/
  framesOut : Bool := false
  /-- Frames of the export map already sent in the tick. -/
  sent : List Nat := []
  /-- The channel whose self-test turn is next (R245). -/
  testNext : Nat := 0
  /-- Stopped by TICK_LOST (R51). -/
  lost : Bool := false
  deriving DecidableEq, Repr

/-- A Gingham entry as stored, words 0 to 2 (Table TCK-5). -/
abbrev GngRow := BitVec 32 × BitVec 32 × BitVec 32

/-- One copy of Gingham: entries, segments and AOPEN masks (R53, R56). -/
structure GngCopy where
  rows : Tab GngRow := []
  segs : Tab (BitVec 32) := []
  aopen : Tab (BitVec 32) := []
  deriving DecidableEq, Repr

structure Gng where
  /-- Staged words of GNG_TBL_DATA0 and DATA1. -/
  data0 : BitVec 32 := 0
  data1 : BitVec 32 := 0
  /-- The tick, or local P-period, whose windows `opened` lists by entry: 1 open, 2 over. -/
  tick : Nat := 0
  opened : Tab Nat := []
  deriving DecidableEq, Repr

/-! The Larder (spec/06) and the frame path (spec/05) -/

/-- Service classes; `control` marks control frames, which have the express class (R28, Table FRM-5). -/
inductive Cls where
  | standard | assured | express | control
  deriving DecidableEq, Repr

/-- A charge of cells to a pool (Table LDR-5), under a port and virtual channel. -/
structure Charge where
  pool : Nat
  port : Nat
  vc : Nat
  cells : Nat
  deriving DecidableEq, Repr

/-- A listener of a sentence as the tables of its end delimiter have it: its queue, its number, its row, and the header and IPv6
mark of its UDP template (R260, R272, Table SEN-4). -/
structure LsnCopy where
  queue : Nat
  lsn : Nat
  row : Nat
  head : Bytes := []
  v6 : Bool := false
  deriving DecidableEq, Repr

/-- A stored item: its descriptor (Table LDR-2) with its chain of cells, its bytes and the marks that the consumers
need. `stamp` is the ingress stamp as consist time, in units of 2^-32 ns (R81). -/
structure Item where
  cells : List Nat := []
  poison : List Nat := []
  charges : List Charge := []
  bytes : Bytes := []
  lenValid : Bool := false
  fault : Bool := false
  de : Bool := false
  cls : Cls := .standard
  tc : Nat := 0
  prio : Nat := 0
  refs : Nat := 0
  inPort : Nat := 256
  seq : Nat := 0
  seqValid : Bool := false
  stream : Nat := 0
  hasStream : Bool := false
  stamp : Nat := 0
  enqTick : Option Nat := none
  vid : Nat := 0
  pcp : Nat := 0
  vc : Nat := 0
  /-- Maximum length that an open item counts for (R167). -/
  maxLen : Nat := 0
  /-- Length of the tag block in front of a sentence (R250). -/
  tagLen : Nat := 0
  /-- Queue entries that the item draws with its descriptor (R174). -/
  copies : Nat := 0
  /-- Raw count at which its first 64 bytes were written (R167). -/
  begun : Nat := 0
  /-- The stream generates numbers, and its recovery function, as the tables stood at stage 2 (R136, R145). -/
  seqGen : Bool := false
  recov : Option Nat := none
  /-- A control frame that leaves outside control windows too (R190). -/
  relay : Bool := false
  /-- Ingress stamp of a PTP event message whose correctionField takes its residence time at egress (R85), as consist time
  in units of 2^-32 ns. -/
  ptpFrom : Option Nat := none
  /-- Queues in which a standby keeps a zone-bound item for its duty (R211). -/
  zone : List Nat := []
  /-- Filter of a sentence, and the listener of each of its queues (R257, R260, R263). -/
  filt : Option Nat := none
  lsns : List LsnCopy := []
  deriving DecidableEq, Repr

/-- A queue entry (Table LDR-3); `lease` is the tick from which a started copy's lease counts (R172). -/
structure QEntry where
  desc : Nat
  prio : Nat := 0
  started : Bool := false
  lease : Nat := 0
  /-- Egress recovery has passed the copy (R137). -/
  passed : Bool := false
  deriving DecidableEq, Repr

structure Queue where
  entries : List QEntry := []
  /-- The tick in which the head last changed (R170). -/
  headTick : Nat := 0
  deriving DecidableEq, Repr

/-- A control frame that waits on CTL for cells of the control reserve of its port; 256 is the Gable link (R29, R173). -/
structure CtlFrame where
  port : Nat
  tc : Nat
  relay : Bool
  bytes : Bytes
  ptpFrom : Option Nat := none
  deriving DecidableEq, Repr

/-- A frame in the replay store: descriptor, HOP_SEQ and raw count of its last sending (R231). -/
structure Replay where
  desc : Nat
  seq : Nat
  sentAt : Nat
  deriving DecidableEq, Repr

/-- Hop state of one port and virtual channel, both directions (R178, R229 to R232). -/
structure Hop where
  txSeq : Nat := 0
  ack : Option Nat := none
  sentCells : Nat := 0
  grant : Nat := 0
  replay : List Replay := []
  /-- HOP_SEQ values to resend, oldest first. -/
  resend : List Nat := []
  rxNext : Nat := 0
  /-- A frame has been received in order. -/
  rxSeen : Bool := false
  /-- Held frames behind a gap: HOP_SEQ, descriptor and the queues that the item goes to. -/
  held : List (Nat × Nat × List Nat) := []
  released : Nat := 0
  deriving DecidableEq, Repr

/-- What the spare rotation is doing (R184). -/
inductive Rot where
  | idle | copying (bank : Nat) (since : Nat) (retire : Bool) | testing (pbank : Nat)
  deriving DecidableEq, Repr

structure Ldr where
  items : Tab Item := []
  queues : Tab Queue := []
  /-- Allocated cells, by cell address, with the descriptor plus 1. -/
  alloc : Tab Nat := []
  /-- The bank that last received a cell. The spec names none at reset: 31 makes bank 0 the first (log entry 121). -/
  lastBank : Nat := 31
  /-- Cells in use by pool, port and virtual channel: key pool * 1024 + port * 2 + vc. -/
  use : Tab Nat := []
  /-- Ports that have sent XOFF (R176). -/
  xoff : List Nat := []
  /-- Control frames that wait for their reserve, oldest first. -/
  ctlWait : List CtlFrame := []
  /-- Received control frames that wait for their protocol on CTL: 0 consist, 1 PTP, 2 pairing (R127). -/
  ctlIn : Tab (List Nat) := []
  hop : Tab Hop := []
  /-- Physical bank of each logical bank, where it is not the bank of the same number (R158). -/
  bankMap : Tab (Option Nat) := []
  failed : List Nat := []
  ded : Tab Nat := []
  /-- Service queues that a consumer owns, with the tick of its last read plus 1 (Table ASD-8). -/
  owners : Tab Nat := []
  rot : Rot := .idle
  lastRot : Nat := 0
  nextBank : Nat := 0
  /-- Next word of the scrub pass, as cell and half (R183). -/
  scrub : Nat := 0
  /-- Raw count at which the scrub pass began. -/
  scrubAt : Nat := 0
  deriving DecidableEq, Repr

/-- What stages 2 to 4 decide for a frame (Table FRM-1). -/
structure Route where
  cls : Cls
  tc : Nat
  stream : Option Nat
  vid : Nat
  pcp : Nat
  maxLen : Nat
  de : Bool
  seq : Option Nat
  seqGen : Bool
  recov : Option Nat
  ports : List Nat
  svc : List Nat
  deriving DecidableEq, Repr

/-- A frame on its way into stage 5: its virtual channel, the queues in which a standby keeps it for its duty, an express frame
over MAX_FRAME, one that ordered recovery holds, and the function whose held run follows it. -/
structure Stage5 where
  route : Route
  vc : Nat
  zone : List Nat := []
  long : Bool := false
  hold : Bool := false
  run : Option Nat := none
  deriving DecidableEq, Repr

/-- A frame being received on a port: what the ingress stages decided for it (Table FRM-1). -/
structure RxFrame where
  bytes : Bytes
  /-- Corrected ingress stamp as a raw value in 0.125 ns (R80, R105). -/
  stamp : Nat
  cls : Cls
  /-- The stored item, and the queues of its copies. -/
  desc : Option Nat := none
  queues : List Nat := []
  /-- Egress ports to which an express frame cuts through, and its buffered copies by queue and descriptor. -/
  cut : List Nat := []
  buffered : List (Nat × Nat) := []
  stream : Option Nat := none
  /-- Protocol of CTL for a diverted control frame (R127). -/
  control : Option Nat := none
  /-- Refused assured frame; frame that goes nowhere. -/
  refuse : Bool := false
  discard : Bool := false
  /-- Virtual channel and HOP_SEQ of a hop frame (R229). -/
  hop : Option (Nat × Nat) := none
  /-- It is on its way into stage 5. -/
  next : Option Stage5 := none
  /-- It overlaps an uncorrectable codeword; it is longer than its stream's MAX_FRAME. -/
  bad : Bool := false
  long : Bool := false
  deriving DecidableEq, Repr

/-- A frame being sent on a port. -/
structure TxFrame where
  /-- Queue and descriptor of a stored copy; none for a cut-through copy. -/
  item : Option (Nat × Nat) := none
  /-- Ingress port of a cut-through copy. -/
  from_ : Nat := 0
  bytes : Bytes := []
  tc : Nat := 0
  express : Bool := false
  preemptable : Bool := false
  /-- The last byte is known: false while a cut-through frame is still arriving. -/
  ended : Bool := true
  bad : Bool := false
  /-- Raw count at which it starts: the end of the hold of a cut-through frame (R147). -/
  start : Nat := 0
  /-- Ingress stamp as consist time in units of 2^-32 ns, and its correctionField has been written (R85). -/
  stamp : Nat := 0
  corrected : Bool := false
  /-- It has been preempted, so what is still to be sent is one more fragment. -/
  split : Bool := false
  /-- Bytes sent in the fragments before the present one (R151). -/
  cut : Nat := 0
  /-- Virtual channel and HOP_SEQ of an assured hop frame. -/
  hop : Option (Nat × Nat) := none
  /-- It is sent from the replay store. -/
  resent : Bool := false
  deriving DecidableEq, Repr

/-- Egress state of one port (R149 to R151). -/
structure Egress where
  tx : Option TxFrame := none
  preempted : Option TxFrame := none
  /-- Shaper credits in 10^-6 bit, with the raw count and the tick phase of their last update (R150). -/
  credit : Tab Int := []
  creditAt : Nat := 0
  creditPh : Nat × Nat := (0, 0)
  verifyOk : Bool := false
  deriving DecidableEq, Repr

/-- Runtime state of a sequence recovery function (R138 to R140). Held: number, descriptor, queues and tick. The spec
gives TAKE_ANY no reset value: 1 takes the first number that comes (log entry 121). -/
structure Recov where
  seq : Nat := 0
  takeAny : Bool := true
  history : BitVec 64 := 0
  held : List (Nat × Nat × List Nat × Nat) := []
  resets : Nat := 0
  passed : Nat := 0
  discarded : Nat := 0
  rogue : Nat := 0
  lost : Nat := 0
  passTick : Nat := 0
  deriving DecidableEq, Repr

/-- Runtime state of a meter: bucket levels in 10^-6 bit, the ingress stamp of their last update in 0.125 ns, and the
latch (R134). -/
structure MeterState where
  committed : Nat := 0
  excess : Nat := 0
  at_ : Option Nat := none
  red : Bool := false
  deriving DecidableEq, Repr

structure Fp where
  rx : Tab (Option RxFrame) := []
  /-- Headers of the present FCLK cycle that the pipelines took ahead of their commands (R123, log entry 140). -/
  ahead : Nat := 0
  egress : Tab Egress := []
  recov : Tab Recov := []
  meters : Tab MeterState := []
  seqNext : Tab Nat := []
  refused : Tab Nat := []
  /-- Age of learned entries: raw count at which the address was last seen. -/
  seen : Tab (Option Nat) := []
  /-- Learns done in the present second, and that second (R142). -/
  learns : Nat := 0
  learnSec : Nat := 0
  /-- Raw count of the last host write to the inactive forwarding database, and the entries written then (R142). -/
  fdbHost : Nat × List Nat := (0, [])
  deriving DecidableEq, Repr

/-! Consist (spec/07) -/

/-- What an ECHO carries of a subtree (Table CST-3). Time keys are the 16 bytes of a TCAND as one number. -/
structure EchoSum where
  ringNodes : Nat := 0
  treeNodes : Nat := 0
  maxSpan : Nat := 0
  renumMax : Nat := 0
  prev : Nat := 0
  changed : Bool := false
  tcand : List Nat := []
  deriving DecidableEq, Repr

/-- How an onward port of a round is resolved (R196). -/
inductive PortRes where
  | waiting | covered | empty | child (e : EchoSum)
  deriving DecidableEq, Repr

inductive RoundPhase where
  | roll | echoed | pending
  deriving DecidableEq, Repr

/-- The round that a node has adopted or originated (R194 to R196). Sides: 0 East, 1 West, 2 + j BRj. -/
structure CstRound where
  cand : BitVec 64
  prio : Nat
  tick : Nat
  round : Nat
  nonce : BitVec 32
  base : Nat
  parent : Option Nat
  hop : Nat
  side : Nat
  level : Nat
  span : Nat
  subroot : BitVec 64
  phase : RoundPhase := .roll
  /-- Raw count at which the round was adopted or originated. -/
  since : Nat
  ports : Tab PortRes := []
  /-- The REQ answer to a worse candidate has gone out in this round (R195). -/
  answered : Bool := false
  deriving DecidableEq, Repr

/-- What a pending commit brings (R198, R200). -/
structure CommitPlan where
  pos : Nat
  dir : Bool
  level : Nat
  dateline : Bool
  head : BitVec 64
  subroot : BitVec 64
  inaug : Nat
  renum : Nat
  tick : Nat
  base : BitVec 64
  masters : List (BitVec 64)
  total : Nat
  ring : Nat
  sizes : List (Nat × Nat)
  tooMany : Bool
  /-- The node is outside the numbering: MISMATCH or IDENTITY_CONFLICT (R202). -/
  out : Bool
  /-- HEAD_PRIO, TICK and ROUND of the head (Table CST-2). -/
  prio : Nat := 0
  headTick : Nat := 0
  round : Nat := 0
  /-- Head's time less own reading at the receipt, in ns (R200). -/
  diff : Int
  deriving DecidableEq, Repr

structure Cst where
  nonce : BitVec 32 := 0
  /-- Nonces drawn so far. -/
  draws : Nat := 0
  /-- Sides that are up for the consist (R192), and the tick count of the last HELLO on a side, plus 1. -/
  up : List Nat := []
  hello : Tab Nat := []
  round : Option CstRound := none
  /-- Last round number originated (R194). -/
  last : Nat := 0
  /-- The last 16 REQ nonces, the last 256 IDENT pairs, and the RESET frames already relayed. -/
  reqs : List (BitVec 32) := []
  idents : List (BitVec 64 × BitVec 32) := []
  resets : List (BitVec 64 × Nat) := []
  /-- Raw count at which the head wait started. -/
  headWait : Option Nat := none
  plan : Option CommitPlan := none
  /-- A trigger, and the CALLs recorded while PENDING, oldest first, by side and payload, with whether a REQ was relayed
  (Table CST-4). -/
  trig : Bool := false
  calls : List (Nat × Bytes × Bool) := []
  fails : Nat := 0
  /-- A new round starts at the next instant (R201). -/
  restart : Bool := false
  /-- A commit has given this node a numbering; its head, sub-root, hosted sizes, TOTAL and n0 then (R199). -/
  numbered : Bool := false
  head : BitVec 64 := 0
  /-- HEAD_PRIO, TICK and ROUND of that head (Table CST-2). -/
  headPrio : Nat := 0
  headTick : Nat := 0
  headRound : Nat := 0
  subroot : BitVec 64 := 0
  sizes : List (Nat × Nat) := []
  n0 : Nat := 0
  /-- TOTAL of the last commit, of which CST_NODES shows 16 bits (R199). -/
  total : Nat := 0
  /-- The ring through which the committed round reached this node; none at the head (R179). -/
  entry : Option Nat := none
  /-- The committed master and ranks 1 to 3, in this order. -/
  masters : List (BitVec 64) := []
  /-- IDENT frames that wait for a control window, oldest first, by side; number sent per side in the tick (R204). -/
  identQ : List (Nat × Bytes) := []
  identSent : Tab Nat := []
  /-- Sides on which the HELLO of the tick has left. -/
  helloSent : List Nat := []
  /-- The first tick at which a consist-commanded reset of this node is due (R207). -/
  resetAt : Option Nat := none
  /-- Sides whose traffic is wrapped until the next commit (R233). -/
  wrapped : List Nat := []
  deriving DecidableEq, Repr

/-! Port groups and lanes (spec/04). Ports are keyed by first lane; 256 and 257 are the Gable lanes G0 and G1. -/

/-- The burst detector of one port group (R113): the present 1 us window with its heavy codewords and the stamp of the
first of them, and stamp and raw count of the last heavy codeword. -/
structure Burst where
  window : Nat := 0
  heavy : Nat := 0
  first : Nat := 0
  last : Nat := 0
  lastRaw : Nat := 0
  deriving DecidableEq, Repr

structure Prt where
  /-- Receive and transmit latency of each lane as measured at calibration, in 0.125 ns (R105). -/
  lat : Tab (Nat × Nat) := []
  /-- Raw count at which a port entered its present state. -/
  since : Tab Nat := []
  /-- Raw count from which a port counts as up after remote faults (R109). -/
  rfEnd : Tab Nat := []
  /-- Groups that keep valid calibration since their last power-up or mode change (R106). -/
  cal : List Nat := []
  /-- Ports in FAULT: a per-block reset of their group or a mode change takes them to CAL (Table PRT-3). -/
  faulted : List Nat := []
  /-- Applications that the module of a slot advertises, by group * 8 + slot (R119, R120). -/
  apps : Tab (List ModuleApp) := []
  /-- Corrected symbols in the present 1 ms window, and windows in a row below SD_THR / 2 (R110). -/
  winSym : Tab Nat := []
  good : Tab Nat := []
  /-- The last 1 ms window, in ms of consist time, that was closed for a port. -/
  winEnd : Tab Nat := []
  /-- Uncorrectable codewords in a row, by FEC lane (R107). -/
  unc : Tab Nat := []
  burst : Tab Burst := []
  /-- Raw count of the last poll of a module, by group * 8 + slot of its first slot (R118, R119). -/
  polled : Tab Nat := []
  deriving DecidableEq, Repr

/-! Pairing (spec/08) -/

/-- Where an assured item came from, for its acceptance and refusal (R6): a frame with its port and stream, a talker
with the stamp of its sentence in ns, a host queue, a UDP listener queue with the sentence that stays at its head until
its frame is accepted, a reply frame of a bridge queue, or another engine of CTL. -/
inductive AsrSrc where
  | frame (port : Nat) (stream : Option Nat) | talker (n stamp : Nat) | host (q : Nat) | listener (q desc : Nat)
  | reply (q : Nat) | engine | injected (stream : Option Nat) (src : AsrSrc)
  deriving DecidableEq, Repr

/-- An item of the duty that waits for its ACK (R215, R216); `sent` is false while the mirroring cap holds it (R218). -/
structure MirrorOut where
  mref : Nat
  key : Nat
  desc : Nat
  queues : List Nat
  wtick : Nat
  src : AsrSrc
  sent : Bool := true
  deriving DecidableEq, Repr

/-- A mirror, or a zone-bound item, that this module holds as standby (R211, R215, R220). -/
structure Held where
  mref : Nat
  key : Nat
  queue : Nat
  len : Nat
  prio : Nat
  inPort : Nat
  bytes : Bytes := []
  desc : Option Nat := none
  /-- The last cell is written. -/
  done : Bool := false
  seq : Option Nat := none
  /-- Every queue of a zone-bound item. -/
  queues : List Nat := []
  deriving DecidableEq, Repr

/-- The Gable MAC's sender on one lane: the number of its next frame, the frames that are not acknowledged, with number,
queue and descriptor, oldest first, and the retries of the first of them, which `again` sends once more (R221). -/
structure GableLane where
  next : Nat := 0
  unacked : List (Nat × Nat × Nat) := []
  again : Bool := false
  tries : Nat := 0
  deriving DecidableEq, Repr

structure Asd where
  /-- A paired module still waits for its role, from a tick on (R210). -/
  waiting : Option Nat := none
  mrefNext : Nat := 0
  out : List MirrorOut := []
  /-- MREF + 1 of accepted and zone-bound items by descriptor, and MREFs released in the tick (Table ASD-5). -/
  mrefOf : Tab Nat := []
  releases : List Nat := []
  held : List Held := []
  heads : Tab Nat := []
  /-- STATE records buffered, in the order of their arrival, with the tick of their frame (R226). -/
  recs : List (Nat × Bytes) := []
  /-- Output section of the last applied TICK_END, the words of the blocks that it brought (R238), and the partner's
  swap tick. -/
  image : Tab (BitVec 32) := []
  written : List Nat := []
  swapTick : Nat := 0
  lastEnd : Option Nat := none
  applied : Option Nat := none
  /-- Tick and raw count of the last pairing frame, and tick of the last HEALTH. -/
  heard : Option Nat := none
  heardRaw : Nat := 0
  health : Option Nat := none
  partnerRole : Nat := 0
  /-- The side of the direct link (R209). -/
  direct : Option Nat := none
  redTicks : Nat := 0
  /-- A handover at a tick, automatic or by command (R242). -/
  handover : Option (Nat × Bool) := none
  /-- A takeover is due at the instant of a tick (R236, R237). -/
  takeover : Option Nat := none
  /-- Raw count up to which the bytes mirrored so far take the mirroring rate (R218). -/
  mirrorFree : Nat := 0
  /-- Streams that generated numbers and recovery functions that changed in the tick (Table ASD-5). -/
  seqSent : List Nat := []
  recovSent : List Nat := []
  /-- Raw count since which the fabric-control link is down (R240). -/
  linkDown : Option Nat := none
  /-- A failed background test (R213). -/
  testFail : Bool := false
  /-- Resynchronisation of the standby is wanted (R216, R226, R241). -/
  resync : Bool := false
  /-- Tick in which RESYNC was last sent, and tick since which the present role holds (R240, R241). -/
  resyncAt : Option Nat := none
  /-- At a standby: the last record of the resynchronisation in progress has come (log entry 139). -/
  resyncEnd : Bool := false
  roleTick : Nat := 0
  /-- LAST_END [31:0] of the partner's last HEALTH, where it reports its resynchronisation done (R242). -/
  partnerEnd : Option Nat := none
  /-- Tick in which a ring or branch port other than the direct link was last up for the consist (R240). -/
  otherTick : Nat := 0
  /-- The standby has swapped and compares the set identifier of the next TICK_END with its own (R383). -/
  setCheck : Bool := false
  /-- MREF + 1 of poisoned items that are being fetched (R220). -/
  fetching : List Nat := []
  /-- The senders of the Gable lanes (R221). -/
  lanes : Tab GableLane := []
  deriving DecidableEq, Repr

/-! Sentence engine and serial channels (spec/09, spec/11) -/

/-- An entry of a receive FIFO (R303, R304). -/
structure UaEntry where
  byte : BitVec 8
  fe : Bool := false
  pe : Bool := false
  brk : Bool := false
  ovr : Bool := false
  deriving DecidableEq, Repr

/-- What a transmitter is sending: a character or a break, with the raw count at which it ends (R303, R309). -/
inductive UaTx where
  | char (b : BitVec 8) (due : Nat)
  | brk (due : Nat)
  deriving DecidableEq, Repr

/-- One serial channel (R304 to R309). -/
structure Ua where
  rx : List UaEntry := []
  tx : List (BitVec 8) := []
  sending : Option UaTx := none
  /-- Bytes were lost since the last stored entry (R304). -/
  lost : Bool := false
  /-- A break is requested (R309). -/
  brk : Bool := false
  /-- Raw count until which the half-duplex driver stays enabled after the last stop bit (R308). -/
  lag : Nat := 0
  /-- Rest of the sentence that the engine is putting into the FIFO, and REFUSE_BYTEs behind it (R262, R267). -/
  fill : Bytes := []
  refuse : Bytes := []
  /-- Flags plus 1 that each party saw set at its last read of UAn_STAT (R305). -/
  seen : Tab Nat := []
  /-- Number plus 1 of the PCLK cycle in which the transmitter last took a byte out of a full FIFO (R304). -/
  fullAt : Nat := 0
  /-- A break was received, and the receiver does not hunt before the line has been high for one bit (R303). -/
  inBreak : Bool := false
  deriving DecidableEq, Repr

/-- What the framing of a talker is gathering (R249, R250). -/
inductive FMode where
  | hunt | tag | longTag | afterTag | body
  deriving DecidableEq, Repr

structure Framer where
  mode : FMode := .hunt
  tag : Bytes := []
  body : Bytes := []
  /-- Stamp of the first byte, in units of 2^-32 ns of consist time (R255). -/
  stamp : Nat := 0
  /-- Raw count of the last byte. -/
  last : Option Nat := none
  /-- A faulty tag block stands before what is gathered, and spoils it (Table SEN-2). -/
  bad : Bool := false
  deriving DecidableEq, Repr

/-- A completed sentence: assignment time in ns, and the tables in force at its end delimiter (R255, R272). -/
structure Sentence where
  talker : Nat
  tag : Bytes
  body : Bytes
  stamp : Nat
  assign : Nat
  rows : Tab Nat
  deriving DecidableEq, Repr

structure Sen where
  ua : Tab Ua := []
  /-- Framing state by talker. -/
  framers : Tab Framer := []
  /-- The backlog, first to process first (R271, R272). -/
  backlog : List Sentence := []
  /-- Match counts by filter, modulo DECIM (R258). -/
  decim : Tab Nat := []
  /-- Token buckets by talker: level in 10^-9 tokens and assignment time of the last count (R259). -/
  buckets : Tab (Option (Nat × Nat)) := []
  /-- Counts n of standard sentences by listener (R264). -/
  count : Tab Nat := []
  deriving DecidableEq, Repr

/-! CAN FD channels (spec/10). Buffers 0 to 127 are MB0 to MB127, 128 is HP. -/

/-- A transmission on the bus: its buffer (129: the reference message), its words, and whether it makes one attempt or
was cancelled after SOF (R285, R287, R288). -/
structure CanTx where
  buf : Nat
  words : Tab (BitVec 32)
  once : Bool := false
  cancelled : Bool := false
  deriving DecidableEq, Repr

structure Fb where
  bufs : Tab (Tab (BitVec 32)) := []
  /-- The shadow buffer, the locked buffer with the raw count of its lock, and whether the shadow took a store (R283). -/
  shadow : Tab (BitVec 32) := []
  lock : Option (Nat × Nat) := none
  stored : Bool := false
  tx : Option CanTx := none
  /-- Slot content that waits for the end of its buffer's transmission (R285). -/
  next : Tab (Option (Tab (BitVec 32))) := []
  /-- Raw count, plus 1, of the instant at which the Tick Engine last requested a buffer (R48). -/
  slotAt : Tab Nat := []
  /-- Error counters as ISO 11898-1 counts them (R289). -/
  tec : Nat := 0
  recv : Nat := 0
  /-- 11 recessive bits have been seen since LISTEN began (R299). -/
  synced : Bool := false
  /-- Rate detection: present pair, its start, good frames in a row, full cycles done (R279). -/
  ardK : Nat := 0
  ardSince : Nat := 0
  ardGood : Nat := 0
  ardCycles : Nat := 0
  /-- The reference message is requested; one was seen in the present slot; nothing is sent before the next reference
  slot (R289, R293). -/
  refReq : Bool := false
  refSeen : Bool := false
  refWait : Bool := false
  /-- A timing pair has been found since the channel started (R275, R279); the transceiver has released its driver (R291). -/
  found : Bool := false
  released : Bool := false
  /-- Tick and buffers held back in it by the window rule (R61). -/
  lateTick : Nat := 0
  late : List Nat := []
  deriving DecidableEq, Repr

/-! Load channels, event inputs and the links between dies (spec/01, spec/12) -/

/-- A command frame of the load command link: 12 command words, a tick frame or a refresh frame (R25), and the copy of
the channel settings that it carries, by BAR0 address (R442). -/
structure LoadFrame where
  seq : Nat
  tick : Bool
  words : List (BitVec 32)
  copy : Option (Tab (BitVec 32)) := none
  deriving DecidableEq, Repr

/-- Current limits in mA: at turn-on, rising to `full` at the end of the blanking, and after it (R329, R330). -/
structure LoadLimit where
  first : Nat := 0
  full : Nat := 0
  after : Nat := 0
  blank : Nat := 0
  deriving DecidableEq, Repr

/-- A power die (R338, R339, R442). Times here are of the model's clock `wall`: the die runs on its own supply (R21). -/
structure Die where
  powered : Bool := false
  failsafe : Bool := false
  /-- Next sequence count, valid frames in a row, time of the last valid frame. -/
  next : Option Nat := none
  streak : Nat := 0
  wdt : Option Nat := none
  /-- The tick frame that the next latch symbol closes, and the valid frames in a row at its receipt. -/
  got : Option (LoadFrame × Nat) := none
  /-- The die's NVM: fail-safe states by channel, and the watchdog time in ms. -/
  nvmFs : Tab Nat := []
  nvmWdt : Nat := 8
  copy : Option (Tab (BitVec 32)) := none
  /-- Start of the converter's present round and of the one that it replaced (R335). -/
  round : Option Nat := none
  prevRound : Option Nat := none
  /-- Time of the last step of R329 plus 1, by group, 2 for the die. -/
  ocAt : Tab Nat := []
  deriving DecidableEq, Repr

/-- A load channel in its power die. -/
structure LoadCh where
  /-- The command word in force. -/
  word : BitVec 32 := 0
  /-- Time of the latch or of the PWM train that the edges count from, and the next PWM period start (R325, R327). -/
  base : Nat := 0
  pwmNext : Option Nat := none
  /-- The level that the command asks for, and the end of the on-phase in progress. -/
  want : Bool := false
  phaseEnd : Option Nat := none
  /-- The switch is on, the times of its last changes, and the end of its blanking while that runs (R330). -/
  on : Bool := false
  onAt : Nat := 0
  offAt : Option Nat := none
  blank : Option Nat := none
  prof : Bool := false
  /-- Time at which the last blanking ended. -/
  outAt : Nat := 0
  /-- RETRY_WAIT with the time at which the retry is due; the other protection states (R338). -/
  retry : Option Nat := none
  latched : Bool := false
  thermal : Bool := false
  tlatched : Bool := false
  groupOff : Bool := false
  /-- Retry count (R331). -/
  tries : Nat := 0
  /-- The last on-phase that outlasted its blanking: the end of that blanking, and its own end (R336). -/
  outPhase : Option (Nat × Nat) := none
  /-- The next turn-on runs the whole profile; CLEAR was written and waits for the latch. -/
  force : Bool := false
  clear : Bool := false
  /-- Qualifying readings in a row below and above the OPEN threshold (R336). -/
  low : Nat := 0
  high : Nat := 0
  /-- The last 64 readings in units of 31.25 µA, newest first (R329). -/
  hist : List Nat := []
  /-- Diagnostic flags that the next reading sets (R440). -/
  diags : List Nat := []
  deriving DecidableEq, Repr

/-- An event input: the level at the ball, the raw count of its last transition or of the end of reset, and whether a
level has been confirmed since the reset (R341). -/
structure EinCh where
  ball : Bool := false
  edgeAt : Nat := 0
  /-- Consist time of that transition in units of 2^-32 ns (R81). -/
  edgeRd : Nat := 0
  seen : Bool := false
  deriving DecidableEq, Repr

structure Fio where
  dies : Tab Die := []
  ls : Tab LoadCh := []
  ein : Tab EinCh := []
  /-- Groups whose supply fell below 7.0 V and has not come back above 7.5 V (R334). -/
  uv : List Nat := []
  /-- Sequence count of the next frame to a die, and the frame on its way. -/
  seq : Tab Nat := []
  flight : Tab (Option LoadFrame) := []
  /-- Command words of the last tick frame, refresh frames sent in the tick, dies to which FLD owes a latch symbol. -/
  words : List (BitVec 32) := []
  refreshed : Nat := 0
  latchDue : List Nat := []
  /-- A swap changed the channel settings, so the next tick frame carries them (R442). -/
  copyDue : Bool := false
  /-- Fabric-control link 0 and field link 1: retries of the transfer in progress, transfers delivered, down (R24). -/
  linkRetries : Tab Nat := []
  linkSeq : Tab Nat := []
  linkDown : List Nat := []
  deriving DecidableEq, Repr

/-! The Cellar (spec/13). Its times are of the model's clock `wall`, which no reset of the rest clears (R16). -/

/-- What a channel of the Cellar is doing (R347). -/
inductive CelPhase where
  | idle | settle (since : Nat) | window (since : Nat) | clearWait
  deriving DecidableEq, Repr

/-- An exact fraction. -/
structure Frac where
  num : Int := 0
  den : Nat := 1
  deriving DecidableEq, Repr

structure CelCh where
  /-- Sealed parameters 0 to 7 (Table CEL-1), calibrated zero in counts, span as reference mass in mg over counts. -/
  par : Tab Nat := []
  zero : Frac := {}
  mass : Nat := 1
  den : Nat := 1
  /-- Zero offset from the calibrated zero, in µg (R349). -/
  zofs : Frac := {}
  phase : CelPhase := .idle
  idleAt : Nat := 0
  /-- Last step of zero tracking; tracking has stopped at the limit. -/
  tracked : Nat := 0
  atLimit : Bool := false
  /-- The last reference check failed; its segment in progress with the time at which that segment starts, whether a
  weighing interrupted it, the start of the last periodic check (R350). -/
  refFail : Bool := false
  seg : Option Nat := none
  segAt : Nat := 0
  held : Bool := false
  checked : Nat := 0
  /-- LIVE period in ms, 0 for off, and time of the last LIVE record. -/
  live : Nat := 0
  liveAt : Nat := 0
  deriving DecidableEq, Repr

/-- A staged change of a sealed value (R359). -/
inductive CelChange where
  | zero (ch : Nat) (x : Frac) | span (ch mass den : Nat) | param (ch id value : Nat)
  deriving DecidableEq, Repr

/-- A record that waits for its signature, with bytes 32 to 63 of its body (Table CEL-3). -/
structure CelRec where
  kind : Nat
  ch : Nat := 0
  cal : Bool := false
  ref : Nat := 0
  /-- CCLK count at which the record arose (R353). -/
  arose : Nat := 0
  audit : Nat := 0
  data : Bytes := []
  deriving DecidableEq, Repr

/-- A command on its way to CEL (Tables CEL-4, CEL-6). -/
structure CelCmd where
  code : Nat
  ch : Nat
  tag : Nat
  a1 : Nat
  a2 : Nat
  deriving DecidableEq, Repr

structure Cel where
  ch : Tab CelCh := []
  audit : Nat := 0
  boots : Nat := 0
  /-- Time of the last Cellar reset, next RSEQ, signatures made. -/
  resetAt : Nat := 0
  rseq : Nat := 0
  signs : Nat := 0
  /-- Records to sign, in the order in which they arose: the first 32 are the outgoing queue, the others wait (R353).
  Then the stored records that REPLAY sends again. -/
  queue : List CelRec := []
  replay : List Bytes := []
  /-- Time of the last signature and of the last frame or beacon. -/
  signedAt : Option Nat := none
  frameAt : Nat := 0
  /-- The alibi log, newest first, at most 4,096 records, each with BOOT and RSEQ (R354). -/
  alibi : List (Nat × Nat × Bytes) := []
  staged : List CelChange := []
  commit : Bool := false
  /-- Commands on the command path, oldest first. -/
  inbox : List CelCmd := []
  /-- The record frame on the record path: the count at its start symbol and the record (R355). -/
  flight : Option (Nat × Bytes) := none
  /-- On CTL: raw count of the last frame or beacon, last start symbol as count and raw count with the one before it
  (R82), the command that waits for its answer with the raw count of its sending, its TAG. -/
  heard : Option Nat := none
  sym : Option (Nat × Nat) := none
  sym0 : Option (Nat × Nat) := none
  waiting : Option (Nat × Nat) := none
  /-- KEY records received (bit 0 X, bit 1 Y), expected BOOT and RSEQ, a frame failed its CRC since the last record. -/
  keys : Nat := 0
  expect : Option (Nat × Nat) := none
  crcGap : Bool := false
  deriving DecidableEq, Repr

/-! Bridge engine (spec/11) -/

/-- A bridge request (Table SER-3). -/
structure Request where
  rid : Nat
  op : Nat
  bus : Nat
  addr : Nat
  wlen : Nat
  rlen : Nat
  wdata : Bytes
  deriving DecidableEq, Repr

/-- A tagged transaction: of a bridge queue with the first OFS bytes of its item, or of a poll entry with its reason
(R314, R318, R323). -/
structure Txn where
  tag : Nat
  req : Request
  queue : Option Nat
  header : Bytes := []
  poll : Nat := 0
  reason : Nat := 0
  /-- The tick in which the tag was allocated. -/
  tick : Nat
  /-- Raw count at which the engine took it (R321). -/
  at_ : Nat := 0
  /-- It waits in the list of a semaphore (R321). -/
  listed : Bool := false
  deriving DecidableEq, Repr

/-- One side bus: the tag on it with its start and its lost arbitrations, and the far-bus lock with the tick from which
its lease counts (R311, R319, R320). -/
structure SideBus where
  active : Option Nat := none
  since : Nat := 0
  losses : Nat := 0
  lock : Option Nat := none
  lease : Nat := 0
  /-- I²C: SCL is held low between the owner's transactions; SPI: the chip select that is still asserted. -/
  held : Option Nat := none
  stuck : Bool := false
  deriving DecidableEq, Repr

/-- A semaphore: owner queue, the tick from which its lease counts, waiting tags (R321). -/
structure Sema where
  owner : Option Nat := none
  lease : Nat := 0
  waiters : List Nat := []
  deriving DecidableEq, Repr

/-- A poll entry: the last value read, and the tick of its last run (R323). -/
structure Poll where
  value : Option Nat := none
  ran : Option Nat := none
  deriving DecidableEq, Repr

structure Brg where
  /-- Transactions in the order of their tags' allocation. -/
  txns : List Txn := []
  /-- The bridge queue served last (R315). -/
  served : Nat := 511
  buses : Tab SideBus := []
  sems : Tab Sema := []
  polls : Tab Poll := []
  deriving DecidableEq, Repr

/-- What a side bus puts on its wires: a transaction, with the speed of an I²C bus or the clock mode of an SPI bus and its bit order
as bit 2; STOP or release of the chip select, nine recovery clocks. -/
inductive BusWire where
  | transfer (op addr mode : Nat) (wdata : Bytes) (rlen : Nat)
  | stop
  | recover
  deriving DecidableEq, Repr

/-! Host interface and test access port (spec/16) -/

/-- A descriptor as the host posts it, with the bytes of its buffer for a queue from the host (Table HST-3). -/
abbrev Desc := HostDesc

/-- The window of one host queue and its ring (Table HST-2, R408, R409). -/
structure Ring where
  lo : BitVec 32 := 0
  hi : BitVec 32 := 0
  size : Nat := 0
  en : Bool := false
  tail : Nat := 0
  head : Nat := 0
  stopped : Bool := false
  /-- Posted descriptors that are not completed, oldest first. -/
  posted : List Desc := []
  /-- Tick of the last doorbell or HEAD read. -/
  lease : Nat := 0
  /-- To the host: the item that is partly written, its bytes written so far and the rest of them. From the host: bytes of the
  item so far. -/
  cur : Option Nat := none
  off : Nat := 0
  acc : Bytes := []
  /-- The item of the last descriptor waits for its acceptance (R408). -/
  waiting : Bool := false
  /-- Raw count of the last interrupt (R410). -/
  intAt : Option Nat := none
  deriving DecidableEq, Repr

/-- The instruction in the test access port (R416). -/
inductive Jtag where
  | bypass | idcode | sample | extest | pulse | train | clamp | highz
  deriving DecidableEq, Repr

structure Hst where
  rings : Tab Ring := []
  /-- Host queues whose last item was refused (R408). -/
  refused : List Nat := []
  /-- Addresses written in the latest cycle of register arbitration, with that cycle and the party (R405). -/
  served : List (Nat × Nat × Nat) := []
  /-- The MSI-X table, by word (Table HST-1). -/
  msix : Tab (BitVec 32) := []
  /-- Register requests that the MGT port has taken in the present second, and that second (R413). -/
  mgtCount : Nat := 0
  mgtSec : Nat := 0
  /-- Current instruction, preloaded boundary cells, and the level that the cells drive on the balls (R416). -/
  jtag : Jtag := .idcode
  cells : List Bool := []
  driven : Option (List Bool) := none
  floating : Bool := false
  deriving DecidableEq, Repr

/-! Configuration, Attic and uploads (spec/14) -/

/-- An upload in progress: its target, whether it comes over USB, and the bytes received (R367, R379, R411). -/
structure Upload where
  package : Bool
  usb : Bool := false
  bytes : Bytes := []
  deriving DecidableEq, Repr

inductive SwapKind where
  | live | staged | revert
  deriving DecidableEq, Repr

/-- A swap request that is being checked (R380, R382, R385). -/
structure SwapReq where
  kind : SwapKind
  at_ : Bool
  tick : Nat
  since : Nat
  deriving DecidableEq, Repr

/-- A staged swap: groups to do and done, the group in progress with the INAUG at its start, and the code with which it
is being rolled back (R385). Group 32 is the Gable lanes. -/
structure Stage where
  req : SwapReq
  since : Nat
  todo : List Nat
  done : List Nat := []
  group : Option (Nat × BitVec 32) := none
  undo : Option Nat := none
  deriving DecidableEq, Repr

structure Cfg where
  /-- The xSPI memory by byte address; an erased byte reads FFh (R362). -/
  xspi : Tab (BitVec 8) := []
  upd : Option Upload := none
  check : Option SwapReq := none
  /-- Tick number of the swap instant (R380). -/
  pending : Option Nat := none
  /-- The previous set is intact (R382). -/
  intact : Bool := false
  stage : Option Stage := none
  /-- The settings allow-list: address and bits (Table CFG-8). -/
  allow : List (Nat × Nat) := []
  /-- Settings slots of the Attic, 256 bytes each, and its event log, newest first, at most 16,384 (R371). -/
  slots : Tab Bytes := []
  log : List LogEntry := []
  /-- A host STORE in progress: slot, page and raw count of its start (R373). -/
  store : Option (Nat × Bytes × Nat) := none
  /-- Store count of each Attic block (R371). -/
  cycles : Tab Nat := []
  deriving DecidableEq, Repr

/-! Porch (spec/15). Times here are of the model's clock `wall`, which counts the Porch's own time in ns. -/

structure Por where
  /-- Qualifying traffic has come since READY (R395). -/
  qual : Bool := false
  /-- The state that a command asked for, with the tick of the command (R388). -/
  target : Option (Nat × Nat) := none
  /-- Wake sources that came while a state is being entered (R393). -/
  held : Nat := 0
  /-- A wake is accepted and READY has not risen; the state that it left, its time and its sources (R394 to R396). -/
  waking : Bool := false
  from_ : Nat := 4
  wokeAt : Nat := 0
  srcs : Nat := 0
  /-- Time at which READY rose after the wake, and at which the present state was entered. -/
  readyAt : Nat := 0
  entered : Nat := 0
  /-- Time at which MAX_AWAKE ended the wake (R396). -/
  backAt : Option Nat := none
  /-- Start of a stay in Sleep or Standby without a wake (R396). -/
  stay : Option Nat := none
  /-- INH lines that are asserted, lines that the present state asks for, and time of the last step (R427). -/
  inh : Nat := 0
  want : Nat := 15
  stepAt : Option Nat := none
  /-- Time of the last INH release after RAIL_TIMEOUT (R428). -/
  released : Option Nat := none
  /-- Stamp of the last warning crossing (R397, R398). -/
  warnAt : Option Nat := none
  /-- Time since which VMON is low (R402). -/
  vmonLow : Option Nat := none
  /-- Wake seeds: number and SEQ of the running copy, and the calibrated groups (R388). -/
  seeds : Option (Nat × Nat × List Nat) := none
  /-- Channels whose selective-wake decoder is armed, and its error counters (R297, R298). -/
  armed : List Nat := []
  swkErr : Tab Nat := []
  /-- Clock domains wait for a voltage target, since a time (R404). -/
  avsAt : Option Nat := none
  /-- The reset of everything outside the Porch is held (R401, R426, R433). -/
  inReset : Bool := true
  /-- Rails out of range: bit 0 VFLD, then the order of Table ELP-2 (R428). -/
  railsOut : Nat := 0
  /-- Time of the last INH assertion (R428). -/
  railsAt : Option Nat := none
  /-- Trace records saved in the retention RAM, newest first, and time of the last POWER_DOWN (R415). -/
  saved : List TraceRec := []
  downAt : Option Nat := none
  /-- BOOT_MODE as sampled at the last reset (R365). -/
  boot : Nat := 0
  deriving DecidableEq, Repr

/-- The content of one set of copies (R379): every table that a swap exchanges, and the shadow register fields. -/
structure CfgSet where
  gng : GngCopy := {}
  /-- The frame path tables of Table FRM-4, by word of the FP window. -/
  fp : Tab (BitVec 32) := []
  tasks : Tab TaskRow := []
  code : Tab (BitVec 64) := []
  maps : TkeMaps := {}
  /-- Tables of the sentence engine (Table SEN-4): row of 256 bits by 4,096 * table + index. -/
  sen : Tab Nat := []
  /-- Register fields that tick-swappable, quiesce and start-only sections set, by BAR0 address (R381, Table CFG-2); of
  the active set, their keys only, as its values stand in the register store. -/
  regs : Tab (Option (BitVec 32)) := []
  quiesce : Tab (Option (BitVec 32)) := []
  start : Tab (Option (BitVec 32)) := []
  setId : BitVec 64 := 0
  /-- Address of the MGT port, and the permitted source prefixes as address and length (R413). -/
  mgtIp : BitVec 32 := 0
  mgtFrom : List (BitVec 32 × Nat) := []
  /-- Mode of the MGT port: 0 1000BASE-X, 1 1000BASE-KX, 2 2.5GBASE-KX, 3 10GBASE-R (R117). -/
  mgtMode : BitVec 2 := 0
  deriving DecidableEq, Repr

/-- What the block sends out: frames, records, characters and pin edges. The model's own record of outputs. -/
inductive Output where
  | msix (vector : Nat)
  | pin (name : String) (level : Bool) (at_ : Nat)
  | frame (port : Nat) (bytes : Bytes)
  | pfc (port : Nat) (priorities : Nat) (xoff : Bool)
  | aborted (port : Nat)
  | can (channel : Nat) (buf : Nat) (words : List (BitVec 32))
  | canAck (channel : Nat)
  | canFlag (channel : Nat) (passive : Bool)
  | loadFrame (die : Nat) (f : LoadFrame)
  | loadSwitch (ls : Nat) (on : Bool) (at_ : Nat) (limit : LoadLimit)
  | celFrame (count : Nat) (record : Bytes)
  | celBeacon (count : Nat)
  | sideBus (bus : Nat) (what : BusWire)
  | uart (channel : Nat) (char : Option (BitVec 8))
  | read (party : Party) (addr : Nat) (value : BitVec 32)
  | hostDesc (queue index : Nat) (status flags : Nat) (len : Nat) (seq stream : Nat) (stamp : Nat) (bytes : Bytes)
  | window (queue offset : Nat) (value : BitVec 32)
  | usb (words : List (BitVec 32))
  | usbStall
  | arpReply (mac : BitVec 48) (ip : BitVec 32)
  | icmpReply (ip : BitVec 32) (id_ seq : Nat) (data : Bytes)
  | mgtReply (ip : BitVec 32) (bytes : Bytes)
  | tdo (bits : List Bool)
  | balls (what : Jtag) (cells : List Bool)
  | avs (mv : Nat)
  deriving DecidableEq, Repr

/-- The whole block. -/
structure State where
  /-- Commands that wait, first in first out. -/
  pending : List Instr := []
  /-- The raw counter, in TCLK (R74). -/
  raw : Nat := 0
  /-- Time in ns since the model's start, which no reset clears: the clock of the parts that a reset does not reach. -/
  wall : Nat := 0
  /-- The register store, by BAR0 address (R10). -/
  regs : Tab (BitVec 32) := []
  /-- Upper words captured by reads of lower words, and lower words that wait for the upper, by party (R12). -/
  pairCap : Tab (Option (BitVec 32)) := []
  pairLow : Tab (Option (BitVec 32)) := []
  /-- What was sent out, newest first. -/
  out : List Output := []
  /-- ERR_N is asserted. -/
  errN : Bool := false
  ready : Bool := false
  /-- Resets since the model's start (Table CFG-4, BOOT). -/
  boots : Nat := 0
  /-- The last-gasp log of the Porch retention RAM, newest first, each with its read mark (R378). -/
  gasp : List (LogEntry × Bool) := []
  /-- Free values drawn so far (log entry 3). -/
  free : Nat := 0
  act : CfgSet := {}
  shd : CfgSet := {}
  evt : Evt := {}
  trc : Trc := {}
  tu : Tu := {}
  tke : Tke := {}
  gng : Gng := {}
  ldr : Ldr := {}
  fp : Fp := {}
  cst : Cst := {}
  prt : Prt := {}
  asd : Asd := {}
  sen : Sen := {}
  brg : Brg := {}
  fbs : Tab Fb := []
  fio : Fio := {}
  cel : Cel := {}
  cfg : Cfg := {}
  hst : Hst := {}
  por : Por := {}
  deriving DecidableEq, Repr

/-- The block right after power-on reset, before the image is read. -/
def State.reset : State := {}

abbrev Out := Host.Outcome State Fault Refusal

end Sys2Proof.Machine
end

