-- ==== Sys2Proof/Machine/Operands.lean ====
section
/-! DEFINITION. Operand forms: bit fields, byte order, saturation, serial-number comparison and the CRCs that the
spec names. -/

namespace Sys2Proof.Machine

open Sys2Proof

/-- Bits hi to lo of a number. -/
def bits (n hi lo : Nat) : Nat := n / 2 ^ lo % 2 ^ (hi + 1 - lo)

/-- n with bits hi to lo replaced by v. -/
def setBits (n hi lo v : Nat) : Nat :=
  n - bits n hi lo * 2 ^ lo + v % 2 ^ (hi + 1 - lo) * 2 ^ lo

/-- Bit k of a number. -/
def bitAt (n k : Nat) : Bool := bits n k k == 1

def b2n (b : Bool) : Nat := if b then 1 else 0

/-- A w-bit field read as a two's-complement number. -/
def sext (w n : Nat) : Int := if n % 2 ^ w < 2 ^ (w - 1) then (n % 2 ^ w : Nat) else (n % 2 ^ w : Nat) - (2 : Int) ^ w

/-- A whole number held in w bits, modulo 2^w. -/
def wrapInt (w : Nat) (i : Int) : Nat := (i % (2 : Int) ^ w).toNat

/-- i clipped to lo to hi. -/
def clipInt (lo hi i : Int) : Int := if i < lo then lo else if hi < i then hi else i

/-- n + 1, saturating at top. -/
def satSucc (top n : Nat) : Nat := if n < top then n + 1 else top

/-- Serial-number arithmetic over w bits: a lies after b (R365, R195). -/
def serialAfter (w a b : Nat) : Bool :=
  let d := (a + 2 ^ w - b % 2 ^ w) % 2 ^ w
  decide (d ≠ 0 ∧ d < 2 ^ (w - 1))

/-- Little-endian value of a byte list (R72). -/
def leNat : Bytes → Nat
  | [] => 0
  | b :: bs => b.toNat + 256 * leNat bs

/-- Network-order value of a byte list. -/
def beNat (bs : Bytes) : Nat := bs.foldl (fun n b => n * 256 + b.toNat) 0

/-- The k low bytes of n, least significant first. -/
def leBytes : Nat → Nat → Bytes
  | 0, _ => []
  | k + 1, n => BitVec.ofNat 8 n :: leBytes k (n / 256)

/-- The k low bytes of n in network order. -/
def beBytes (k n : Nat) : Bytes := (leBytes k n).reverse

/-- k bytes from offset o, 0 beyond the end. -/
def slice (bs : Bytes) (o k : Nat) : Bytes :=
  let r := (bs.drop o).take k
  r ++ List.replicate (k - r.length) 0

def leAt (bs : Bytes) (o k : Nat) : Nat := leNat (slice bs o k)
def beAt (bs : Bytes) (o k : Nat) : Nat := beNat (slice bs o k)

def byteAt (bs : Bytes) (o : Nat) : Nat := (bs.getD o 0).toNat

/-- The words of a byte list, each least significant byte first; a short last word is filled with 0 (R72). -/
def wordsOf (bs : Bytes) : List (BitVec 32) :=
  (List.range ((bs.length + 3) / 4)).map (fun i => BitVec.ofNat 32 (leAt bs (4 * i) 4))

def bytesOfWords (ws : List (BitVec 32)) : Bytes := ws.flatMap (fun w => leBytes 4 w.toNat)

/-- One bit of a reflected CRC. -/
def crcBit (poly c : Nat) : Nat := if c % 2 = 1 then (c / 2) ^^^ poly else c / 2

def crcByte (poly : Nat) : Nat → Nat → Nat
  | 0, c => c
  | k + 1, c => crcByte poly k (crcBit poly c)

/-- IEEE 802.3 CRC-32 of a byte list (Table CFG-1). -/
def crc32 (bs : Bytes) : Nat :=
  bs.foldl (fun c b => crcByte 0xEDB88320 8 (c ^^^ b.toNat)) 0xFFFFFFFF ^^^ 0xFFFFFFFF

def sumNat (l : List Nat) : Nat := l.foldl (· + ·) 0

/-- Changes the first element of a list that meets a test. -/
def mapFirst {α : Type} (p : α → Bool) (f : α → α) : List α → List α
  | [] => []
  | x :: xs => if p x then f x :: xs else x :: mapFirst p f xs

/-- Places a number in an ascending list without repeats. -/
def insKey (k : Nat) : List Nat → List Nat
  | [] => [k]
  | j :: js => if k < j then k :: j :: js else if k = j then j :: js else j :: insKey k js

/-- Every number of two lists, ascending and without repeats. -/
def mergeKeys (a b : List Nat) : List Nat := (a ++ b).foldr insKey []

/-- The keys of a table. -/
def keys {α : Type} (m : Tab α) : List Nat := m.map (·.1)

/-- The first of a range of numbers that meets a test. -/
def findNat (n : Nat) (p : Nat → Bool) : Option Nat := (List.range n).find? p

/-- Writes a list of values at consecutive keys. -/
def Tab.setList {α : Type} [DecidableEq α] (d : α) : Tab α → Nat → List α → Tab α
  | m, _, [] => m
  | m, k, v :: vs => Tab.setList d (Tab.set d m k v) (k + 1) vs

end Sys2Proof.Machine
end

