-- ==== Sys2Proof/Machine/Ops.lean ====
section
/-! DEFINITION. The named operations over the state: the register store and its fields (R10, R13), time (R74, R75,
R79), the tick period (R40) and outputs. -/

namespace Sys2Proof.Machine

open Sys2Proof

/-! Time passes -/

/-- Moves the raw counter and the model's clock on to raw count t; time never goes back (R74). -/
def State.clock (s : State) (t : Nat) : State :=
  { s with raw := max s.raw t, wall := s.wall + (t - s.raw) }

/-! Register store -/

/-- The stored word of a register instance. -/
def State.rd (s : State) (r : RegDesc) (ix : List Nat := []) : BitVec 32 := Tab.get r.reset s.regs (r.addr ix)

/-- Stores a word in a register instance. -/
def State.wr (s : State) (r : RegDesc) (ix : List Nat) (v : BitVec 32) : State :=
  { s with regs := Tab.set r.reset s.regs (r.addr ix) v }

/-- A field as a number. -/
def State.f (s : State) (x : Fld) (ix : List Nat := []) : Nat := bits (s.rd x.reg ix).toNat x.hi x.lo

/-- A field as a flag: it is not 0. -/
def State.fb (s : State) (x : Fld) (ix : List Nat := []) : Bool := s.f x ix != 0

/-- Sets a field. -/
def State.sf (s : State) (x : Fld) (ix : List Nat) (v : Nat) : State :=
  s.wr x.reg ix (BitVec.ofNat 32 (setBits (s.rd x.reg ix).toNat x.hi x.lo v))

/-- Sets a field of a register without indices. -/
def State.set0 (s : State) (x : Fld) (v : Nat) : State := s.sf x [] v

/-- The greatest value of a field. -/
def Fld.top (x : Fld) : Nat := 2 ^ (x.hi + 1 - x.lo) - 1

/-- The 64-bit value of a pair of registers. -/
def State.rd64 (s : State) (lo hi : RegDesc) (ix : List Nat := []) : BitVec 64 :=
  BitVec.ofNat 64 ((s.rd hi ix).toNat * 2 ^ 32 + (s.rd lo ix).toNat)

def State.wr64 (s : State) (lo hi : RegDesc) (ix : List Nat) (v : BitVec 64) : State :=
  (s.wr lo ix (BitVec.ofNat 32 v.toNat)).wr hi ix (BitVec.ofNat 32 (v.toNat / 2 ^ 32))

/-! Counters -/

/-- Counts once in a 32-bit counter that saturates at FFFF_FFFFh. -/
def State.bump (s : State) (r : RegDesc) (ix : List Nat := []) : State :=
  s.wr r ix (BitVec.ofNat 32 (satSucc 0xFFFFFFFF (s.rd r ix).toNat))

/-- Adds n to a 32-bit counter that saturates at FFFF_FFFFh. -/
def State.bumpBy (s : State) (r : RegDesc) (ix : List Nat) (n : Nat) : State :=
  s.wr r ix (BitVec.ofNat 32 (min 0xFFFFFFFF ((s.rd r ix).toNat + n)))

/-- Counts once in a field that saturates. -/
def State.bumpF (s : State) (x : Fld) (ix : List Nat := []) : State := s.sf x ix (satSucc x.top (s.f x ix))

/-- Counts once in a field that wraps. -/
def State.wrapF (s : State) (x : Fld) (ix : List Nat := []) : State := s.sf x ix (s.f x ix + 1)

/-- Counts once in a 32-bit counter that wraps. -/
def State.wrapW (s : State) (r : RegDesc) (ix : List Nat := []) : State := s.wr r ix (s.rd r ix + 1)

/-- Adds n to a 64-bit counter that wraps. -/
def State.bump64 (s : State) (lo hi : RegDesc) (ix : List Nat) (n : Nat := 1) : State :=
  s.wr64 lo hi ix (s.rd64 lo hi ix + BitVec.ofNat 64 n)

/-- Keeps the greatest value seen in a field. -/
def State.peakF (s : State) (x : Fld) (ix : List Nat) (v : Nat) : State := s.sf x ix (max (s.f x ix) (min v x.top))

/-! Outputs -/

/-- Adds an output to the record of what was sent. -/
def State.emit (s : State) (o : Output) : State := { s with out := o :: s.out }

def State.emitAll (s : State) (os : List Output) : State := os.foldl State.emit s

/-- Draws a free value (log entry 3). -/
def State.drawFree (s : State) : BitVec 64 × State := (Config.freeValue s.free, { s with free := s.free + 1 })

/-- Qualifying traffic of a provisional wake (R395). -/
def State.qualify (s : State) : State := { s with por := { s.por with qual := true } }

/-- A register write by the host, which is the PCIe party, is qualifying traffic (R395). -/
def State.hostWrite (s : State) (p : Party) : State := if p = .pcie then s.qualify else s

/-! Captures by party (R12, R78) -/

/-- The key of an address in the tables of one party. -/
def partyKey (p : Party) (a : Nat) : Nat := 4 * a + p.ix

/-- The next read of the word at address a by party p will return v. -/
def State.capture (s : State) (p : Party) (a : Nat) (v : BitVec 32) : State :=
  { s with pairCap := Tab.set none s.pairCap (partyKey p a) (some v) }

/-- What the next read of the word at address a by party p returns, where it was captured. -/
def State.captured (s : State) (p : Party) (a : Nat) : Option (BitVec 32) := Tab.get none s.pairCap (partyKey p a)

/-- The captured word has been read. -/
def State.dropCapture (s : State) (p : Party) (a : Nat) : State :=
  { s with pairCap := Tab.set none s.pairCap (partyKey p a) none }

/-! Roles and power states (Table ASD-1, Table PWR-1) -/

def State.role (s : State) : Nat := s.f Fd.ASD_STAT_ROLE

/-- The module works: unpaired or duty (Table ASD-1). -/
def State.acting (s : State) : Bool := decide (s.role ≤ 1) && s.asd.waiting.isNone

def State.operating (s : State) : Bool := s.f Fd.POR_STAT_STATE == 4

/-! Consist time -/

/-- The pair whose E is the latest at or before a raw count (R76, R81). -/
def pairAt : List TimePair → Nat → TimePair
  | [], _ => {}
  | p :: ps, r => if p.eff ≤ r || ps.isEmpty then p else pairAt ps r

/-- The reading under a pair, in units of 2^-32 ns modulo 2^96 (R75). -/
def readingOf (p : TimePair) (raw : Nat) : Nat :=
  wrapInt 96 ((raw : Int) * 2 ^ 32 + ((raw : Int) * p.rate.toInt) / 2 ^ 16 + p.ofs.toNat)

/-- The consist time reading at a raw count, in units of 2^-32 ns (R75). -/
def State.readingAt (s : State) (raw : Nat) : Nat := readingOf (pairAt s.tu.pairs raw) raw

/-- The reading now, in whole ns. -/
def State.nowNs (s : State) : Nat := s.readingAt s.raw / 2 ^ 32

/-- The reading of a stamp captured as a raw value with 3 fraction bits, in units of 2^-32 ns (R81). -/
def State.stampAt (s : State) (r8 : Nat) : Nat :=
  let p := pairAt s.tu.pairs (r8 / 8)
  wrapInt 96 (((r8 : Int) * 2 ^ 32) / 8 + ((r8 : Int) * p.rate.toInt) / 2 ^ 19 + p.ofs.toNat)

/-! Ticks -/

/-- The tick period P in ns (R40). -/
def State.period (s : State) : Nat := 31250 * 2 ^ s.f Fd.TKE_CFG_PERIOD_K

/-- The hyper-cycle H in ticks, at most 256 (R54). -/
def State.hyper (s : State) : Nat := 2 ^ min 8 (s.f Fd.TKE_CFG_HC_LOG)

/-- The time in ns that has passed since the latest instant at or below the reading, where TICK_BASE is in force
(R44, R79); negative before the instant of the present tick number. -/
def State.sinceInstant (s : State) : Option Int :=
  s.tu.base.map (fun b => (s.nowNs : Int) - ((b.toNat : Int) + s.tu.tick * s.period))

/-- Tick strobes so far, with whole periods of P counted while strobes are missing (R246). -/
def State.strobes (s : State) : Nat := s.tu.strobes + (s.raw - s.tu.strobe.getD 0) / s.period

/-- A strobe now. -/
def State.strobeNow (s : State) : State :=
  { s with tu := { s.tu with strobes := max (s.tu.strobes + 1) s.strobes, strobe := some s.raw } }

/-- At least d ns of the present tick have passed. -/
def State.tickPast (s : State) (d : Nat) : Bool :=
  match s.sinceInstant with
  | some x => decide ((d : Int) ≤ x)
  | none => false

/-- At least d ns have passed since raw count r. -/
def State.elapsed (s : State) (r d : Nat) : Bool := decide (r + d ≤ s.raw)

/-- At least d ns have passed since the model's clock read w. -/
def State.elapsedW (s : State) (w d : Nat) : Bool := decide (w + d ≤ s.wall)

/-- Task deadline, vote and staging close in ns after the instant (Table TCK-1, R45). -/
def State.deadlineNs (s : State) : Nat := 2000 + s.period * 4 / 5
def State.voteNs (s : State) : Nat := s.deadlineNs + 500
def State.stagingNs (s : State) : Nat := s.period - 2000

/-- A tick selector applies (R52): (N mod 2^REP) = TICK. -/
def tickSelected (n tick rep : Nat) : Bool := n % 2 ^ rep == tick

end Sys2Proof.Machine
end

