-- ==== Sys2Proof/Machine/Flags.lean ====
section
/-! DEFINITION. Flags: event bits and their severities (R418, R439), the event log (R375 to R377), the trace (R414)
and the MSI-X vectors that events fire (R410). -/

namespace Sys2Proof.Machine

open Sys2Proof

/-- Event codes of SEV 3h, fatal (Table MAP-4). -/
def sevFatal : List Nat := [
  0x0182, 0x0706, 0x070A]

/-- Event codes of SEV 2h, error (Table MAP-4). -/
def sevError : List Nat := [
  0x0480, 0x0309, 0x0504, 0x0602, 0x0701, 0x0705, 0x0806, 0x0807, 0x0808, 0x0902, 0x0903, 0x090C, 0x0E0D,
  0x1002, 0x1008, 0x1103, 0x1206, 0x1209, 0x140A, 0x1409]

/-- Event codes of SEV 1h, warning (Table MAP-4). -/
def sevWarning : List Nat := [
  0x0080, 0x0181, 0x0280, 0x0580, 0x0301, 0x0303, 0x0306, 0x0307, 0x0308, 0x0501, 0x0502, 0x0503, 0x0505,
  0x0506, 0x0507, 0x0508, 0x0601, 0x0702, 0x0703, 0x0704, 0x0707, 0x0708, 0x0709, 0x070B, 0x070C, 0x0804,
  0x0805, 0x0809, 0x0901, 0x0906, 0x0907, 0x0908, 0x0909, 0x090A, 0x090B, 0x090D, 0x090E, 0x090F, 0x0A01,
  0x0A02, 0x0A03, 0x0A04, 0x0A05, 0x0A06, 0x0A07, 0x0B01, 0x0B02, 0x0B04, 0x0B05, 0x0B06, 0x0E01, 0x0E02,
  0x0E04, 0x0E06, 0x0E07, 0x0E08, 0x0E0A, 0x0E0B, 0x0E0C, 0x0E0E, 0x1001, 0x1003, 0x1004, 0x1005, 0x1006,
  0x1007, 0x100A, 0x100B, 0x1102, 0x1104, 0x1105, 0x1106, 0x1107, 0x1108, 0x1201, 0x1203, 0x1204, 0x1207,
  0x1208, 0x120A, 0x1301, 0x1302, 0x1303, 0x1304, 0x1305, 0x1306, 0x1307, 0x1402, 0x1403, 0x1404, 0x1405,
  0x1406, 0x1407, 0x1408, 0x140B]

/-- Registers that hold W1C fields (R418). -/
def w1cRegs : List RegDesc := [Reg.TKE_FAULT, Reg.GNG_ERR, Reg.TU_EVT, Reg.PGn_EVT, Reg.FP_EVT, Reg.LDR_EVT, Reg.LDR_Qq_STAT,
  Reg.CST_EVT, Reg.ASD_EVT, Reg.SEN_EVT, Reg.FBn_EVT, Reg.FBn_HP_STAT, Reg.FBn_MBm_STAT, Reg.BRG_EVT,
  Reg.FIO_EVT, Reg.FIO_LSn_STAT, Reg.FIO_EINn_STAT, Reg.CEL_EVT, Reg.POR_EVT]

/-- The severity of an event code (R439). -/
def sevOf (code : Nat) : Nat :=
  if sevFatal.contains code then 3 else if sevError.contains code then 2 else if sevWarning.contains code then 1 else 0

/-- The mask of a register's W1C fields. -/
def w1cMask (r : RegDesc) : Nat :=
  r.fields.foldl (fun m f => if f.acc = .w1c then setBits m f.hi f.lo (2 ^ (f.hi + 1 - f.lo) - 1) else m) 0

/-- Bit b of HST_EVT_SUM: a W1C field of block b is 1 (R418). -/
def State.blockPending (s : State) (b : Nat) : Bool :=
  (w1cRegs.any fun r => r.block == b && s.regs.any fun e => (r.indices e.1).isSome && (e.2.toNat &&& w1cMask r) != 0)
    || (b == 19 && s.fp.meters.any (fun e => e.2.red))

/-- Vector 2 fires where a bit of HST_EVT_SUM became 1 (R410). -/
def State.sumFire (old new : State) (b : Nat) : State :=
  if !old.blockPending b && new.blockPending b then new.emit (.msix 2) else new

/-! Trace -/

/-- Places a record in a newest-first list: records of equal TIME in ascending TYPE order (R414). -/
def traceInsert (r : TraceRec) : List TraceRec → List TraceRec
  | [] => [r]
  | e :: es => if e.time = r.time ∧ r.type.toNat < e.type.toNat then e :: traceInsert r es else r :: e :: es

/-- The TYPES bit of a record type (TRC_CFG), none for a power marker. -/
def traceBit (type : Nat) : Option Nat :=
  if type ≤ 2 then some 0 else if type = 3 then some 1 else if type = 4 then some 2 else if type ≤ 6 then some 3 else none

/-- Time for a log entry or a trace record: consist time in ns, or the raw counter where there is none yet (RAW). -/
def State.logTime (s : State) : Bool × BitVec 64 :=
  if s.tu.hasTime then (false, BitVec.ofNat 64 s.nowNs) else (true, BitVec.ofNat 64 s.raw)

/-- Writes a trace record where its type is traced (R414). -/
def State.trace (s : State) (type src arg : Nat) : State :=
  let on := s.fb Fd.TRC_CFG_EN && s.trc.running &&
    (match traceBit type with | some k => bitAt (s.f Fd.TRC_CFG_TYPES) k | none => true)
  if !on then s
  else if s.trc.buf.length ≥ 16384 && s.fb Fd.TRC_CFG_STOP then s
  else
    let r : TraceRec := { time := s.logTime.2, type := BitVec.ofNat 8 type, flags := BitVec.ofNat 8 (b2n s.logTime.1)
                          src := BitVec.ofNat 16 src, arg := BitVec.ofNat 32 arg }
    let full := decide (s.trc.buf.length ≥ 16384)
    { s with trc := { s.trc with buf := (traceInsert r s.trc.buf).take 16384, wrapped := s.trc.wrapped || full } }

/-! Event log -/

/-- Resets since manufacture, low 16 bits (Table CFG-4). -/
def State.bootCount (s : State) : BitVec 16 := Config.bootsBefore + BitVec.ofNat 16 s.boots

/-- Places an entry in a newest-first log: entries of one MCLK cycle (800 MHz) in ascending order of their codes,
block first, numbered in that order (R375). -/
def logInsert (raw : Nat) (e : LogEntry) : List (Nat × LogEntry) → List (Nat × LogEntry)
  | [] => [(raw, e)]
  | (d, x) :: xs =>
    if d * 4 / 5 = raw * 4 / 5 ∧ e.code.toNat < x.code.toNat then
      (d, { x with seq := e.seq }) :: logInsert raw { e with seq := x.seq } xs
    else (raw, e) :: (d, x) :: xs

/-- Drops the last entry of SEV 0h of a newest-first log, where there is one (R376). -/
def dropInfo : List (Nat × LogEntry) → Option (List (Nat × LogEntry))
  | [] => none
  | u :: us => match dropInfo us with
    | some r => some (u :: r)
    | none => if u.2.sev = 0 then some us else none

/-- The newest unstored entry takes a repeat (R376). -/
def coalesce (code : Nat) (a0 a1 : BitVec 32) (raw : Nat) : List (Nat × LogEntry) → Option (List (Nat × LogEntry))
  | [] => none
  | (d, e) :: us =>
    if e.code.toNat = code ∧ e.arg0 = a0 ∧ e.arg1 = a1 ∧ raw ≤ d + 1000000000 then
      some ((d, { e with repeats := BitVec.ofNat 16 (satSucc 0xFFFF e.repeats.toNat) }) :: us)
    else none

/-- The volatile log shows an entry as it is after its repeat (R376, R377). -/
def repeatIn (u : Option (Nat × LogEntry)) (vol : List (Nat × LogEntry)) : List (Nat × LogEntry) :=
  match u with
  | some (_, x) => vol.map (fun e => if e.2.seq = x.seq ∧ e.2.code = x.code then (e.1, x) else e)
  | none => vol

/-- The number of unstored entries, with those of a page that is being stored. -/
def Evt.unstored (e : Evt) : Nat := e.unst.length + ((e.storing.map (·.1.length)).getD 0)
def State.unstored (s : State) : Nat := s.evt.unstored

/-- Adds an entry to the unstored ones; a full buffer loses an entry (R376). -/
def State.keepUnstored (s : State) (e : LogEntry) : State :=
  if s.unstored < 256 then { s with evt := { s.evt with unst := logInsert s.raw e s.evt.unst } }
  else
    let lost := ({ s with evt := { s.evt with lostFlag := true } }).bump Reg.EVT_LOST
    if e.sev.toNat ≥ 2 then
      match dropInfo s.evt.unst with
      | some us => { lost with evt := { lost.evt with unst := logInsert s.raw e us } }
      | none => lost
    else lost

/-- A code of an event to which the manual gives none: any block of Table MAP-1, and any event but 00h (R14, log entry 3). -/
def freeCode (free : BitVec 64) : Nat := 256 * (free.toNat % 21) + 1 + free.toNat / 32 % 255

/-- The 32 bytes of an entry (Table CFG-4). -/
def LogEntry.bytes (e : LogEntry) : Bytes :=
  leBytes 8 e.time.toNat ++ leBytes 4 e.seq.toNat ++ leBytes 2 e.code.toNat ++ leBytes 1 e.sev.toNat
    ++ leBytes 1 e.flags.toNat ++ leBytes 2 e.repeats.toNat ++ leBytes 2 e.boot.toNat ++ leBytes 2 e.step.toNat
    ++ leBytes 2 e.position.toNat ++ leBytes 4 e.arg0.toNat ++ leBytes 4 e.arg1.toNat

/-- Records an event as a log entry, in the trace and by MSI-X; after a failure of the Attic the entry waits for the
partner that is heard (R375 to R377, R410, R414). -/
def State.logEvent (s : State) (code : Nat) (a0 a1 : BitVec 32 := 0) : State :=
  let sev := sevOf code
  let s := s.trace 4 code (s.tu.tick % 2 ^ 32)
  let s := if sev ≥ 2 then s.emit (.msix 0) else s
  match coalesce code a0 a1 s.raw s.evt.unst with
  | some us => { s with evt := { s.evt with unst := us, vol := repeatIn us.head? s.evt.vol } }
  | none =>
    let volatile_ := s.fb Fd.EVT_STAT_LOG_FAIL
    let e : LogEntry := {
      time := s.logTime.2, seq := s.evt.seq, code := BitVec.ofNat 16 code, sev := BitVec.ofNat 8 sev
      flags := BitVec.ofNat 8 (b2n s.logTime.1 + 2 * b2n volatile_)
      boot := s.bootCount, step := BitVec.ofNat 16 (s.f Fd.TU_STEP_CNT_STEPS)
      position := BitVec.ofNat 16 (s.f Fd.CST_STAT_POSITION), arg0 := a0, arg1 := a1 }
    let s := { s with evt := { s.evt with seq := s.evt.seq + 1
                                          vol := (logInsert s.raw e s.evt.vol).take 1024 } }
    if volatile_ then
      if s.fb Fd.ASD_STAT_PARTNER then { s with evt := { s.evt with unsent := s.evt.unsent ++ [e] } } else s
    else s.keepUnstored e

/-- Sets bit k of a W1C field. -/
def State.setFlag (s : State) (x : Fld) (ix : List Nat := []) (k : Nat := 0) : State :=
  s.sumFire (s.sf x ix (setBits (s.f x ix) k k 1)) x.reg.block

/-- Raises an event: bit k of its field is set and the event is logged, with bits [15:0] of ARG word 0 naming the
channel or the group for FB and PG (R418). -/
def State.raise (s : State) (x : Fld) (ix : List Nat := []) (a0 a1 : Nat := 0) (k : Nat := 0) : State :=
  let arg0 := if x.reg.block = 14 ∨ x.reg.block = 18 then ix.headD 0 + 65536 * a0 else a0
  (s.setFlag x ix k).logEvent (x.reg.block * 256 + x.lo + k + 1) (BitVec.ofNat 32 arg0) (BitVec.ofNat 32 a1)

/-- ERR_N is asserted. -/
def State.assertErr (s : State) : State := { s with errN := true }

/-- Writes an entry to the last-gasp log: 64 entries, overwriting the oldest (R378). -/
def State.gaspEntry (s : State) (code a0 a1 : Nat) : State :=
  let e : LogEntry := {
    time := s.logTime.2, seq := s.evt.seq, code := BitVec.ofNat 16 code, sev := BitVec.ofNat 8 (sevOf code)
    flags := BitVec.ofNat 8 (b2n s.logTime.1), boot := s.bootCount
    step := BitVec.ofNat 16 (s.f Fd.TU_STEP_CNT_STEPS), position := BitVec.ofNat 16 (s.f Fd.CST_STAT_POSITION)
    arg0 := BitVec.ofNat 32 a0, arg1 := BitVec.ofNat 32 a1 }
  { s with gasp := (((e, false) :: s.gasp).take 64) }

end Sys2Proof.Machine
end

