-- ==== Sys2Proof/Machine/Gates.lean ====
section
/-! DEFINITION. Ports by first lane (R100, R101), and the gates of Gingham: entries, windows, and the open periods of a
port (R52 to R57, R149). -/

namespace Sys2Proof.Machine

open Sys2Proof

/-! Ports (R100) -/

/-- Lanes per port of a group mode; none for mode 7h (Table PRT-1). -/
def lanesPerPort (mode : Nat) : Option Nat :=
  match mode with
  | 7 => none
  | 4 => some 2
  | 5 => some 4
  | 6 => some 8
  | _ => some 1

/-- Lane n is the first lane of a port under R100 in the mode of its group. -/
def State.isPort (s : State) (n : Nat) : Bool :=
  n < 256 && (match lanesPerPort (s.f Fd.PGn_MODE_MODE [n / 8]) with | some l => n % 8 % l == 0 | none => false)

/-- Nominal MAC rate in Gbit/s (R101). -/
def rateOf (mode : Nat) : Nat :=
  match mode with
  | 0 => 10
  | 1 => 25
  | 2 => 50
  | 3 => 100
  | 4 => 200
  | 5 => 400
  | 6 => 800
  | _ => 0

def State.portRate (s : State) (n : Nat) : Nat := if 256 ≤ n then 100 else rateOf (s.f Fd.PGn_MODE_MODE [n / 8])

/-- A ring or branch port of the image: East, West or BR0 to BR5, by first lane (CST_RING, CST_BRj). -/
def State.ringPorts (s : State) : List Nat :=
  ([s.f Fd.CST_RING_EAST, s.f Fd.CST_RING_WEST] ++ (List.range 6).map (fun j => s.f Fd.CST_BRj_PORT [j])).filter
    (· < 256)

def State.isRingPort (s : State) (n : Nat) : Bool := s.ringPorts.contains n

/-- A port that is not a ring, branch or Gable port (R210). -/
def State.isEdge (s : State) (n : Nat) : Bool := n < 256 && !s.isRingPort n

/-- First lane of the port of a side, where it is a port under R100. -/
def State.sidePort (s : State) (k : Nat) : Option Nat :=
  let n := match k with
    | 0 => s.f Fd.CST_RING_EAST
    | 1 => s.f Fd.CST_RING_WEST
    | j + 2 => s.f Fd.CST_BRj_PORT [j]
  if s.isPort n then some n else none

/-- The side of a port. -/
def State.sideOf (s : State) (n : Nat) : Option Nat := findNat 8 (fun k => s.sidePort k == some n)

/-- The other port of the ring of a port. -/
def State.ringOther (s : State) (n : Nat) : Option Nat :=
  (s.sideOf n).bind (fun k => s.sidePort (if k % 2 = 0 then k + 1 else k - 1))

/-! Words of the frame path tables (Table FRM-4) -/

/-- A word of the active FP tables by byte offset in the FP window (Table FRM-4). -/
def State.fpw (s : State) (off : Nat) : Nat := (Tab.get 0 s.act.fp (off / 4)).toNat

/-- Word w of stream entry i of the active copy. -/
def State.streamWord (s : State) (i w : Nat) : Nat := s.fpw (0x200000 + 32 * i + 4 * w)

/-- Valid stream entries. -/
def State.validStreams (s : State) : List Nat :=
  (mergeKeys ((s.act.fp.filter (fun e => 0x200000 ≤ 4 * e.1 && 4 * e.1 < 0x400000)).map
    (fun e => (4 * e.1 - 0x200000) / 32)) []).filter (fun i => bitAt (s.streamWord i 4) 31)

/-! Windows -/

/-- A window of an entry that applies in a tick (Table TCK-5). -/
structure Win where
  kind : Nat
  start : Nat
  stop : Nat
  arg : Nat
  deriving DecidableEq, Repr

def rowValid (r : GngRow) : Bool := bitAt r.1.toNat 31
def rowKind (r : GngRow) : Nat := bits r.1.toNat 30 28
def rowStart (r : GngRow) : Nat := bits r.1.toNat 21 0
def rowStop (r : GngRow) : Nat := bits r.2.1.toNat 21 0
def rowTick (r : GngRow) : Nat := bits r.2.2.toNat 7 0
def rowRep (r : GngRow) : Nat := bits r.2.2.toNat 11 8
def rowArg (r : GngRow) : Nat := bits r.2.2.toNat 23 16

/-- The valid entries of a segment with their indices, in table order (R53). -/
def GngCopy.entries (c : GngCopy) (seg : Nat) : List (Nat × GngRow) :=
  let w := (Tab.get 0 c.segs seg).toNat
  let base := bits w 15 0
  let n := bits w 26 16
  c.rows.filter (fun e => base ≤ e.1 && e.1 < base + n && rowValid e.2)

/-- The windows of a segment that apply in a tick (R52). -/
def GngCopy.wins (c : GngCopy) (seg tick : Nat) : List Win :=
  ((c.entries seg).filter (fun e => tickSelected tick (rowTick e.2) (rowRep e.2))).map
    (fun e => ⟨rowKind e.2, rowStart e.2, rowStop e.2, rowArg e.2⟩)

def Win.holds (w : Win) (x : Nat) : Bool := decide (w.start ≤ x) && decide (x < w.stop)

/-- Tick number and ns after its instant; local P-periods before there is a TICK_BASE. -/
def State.phase (s : State) : Nat × Nat :=
  match s.tu.base with
  | some b => (s.tu.tick, (s.nowNs - (b.toNat + s.tu.tick * s.period)))
  | none => (s.raw / s.period, s.raw % s.period)

/-- A control window (class 8), an express window (class 9) or the class gate of a traffic class is open (R56). -/
def State.openAt (s : State) (seg cls tick x : Nat) : Bool :=
  let ws := (s.act.gng.wins seg tick).filter (·.holds x)
  let ctl := ws.any (·.kind == 2)
  let exp_ := ws.any (·.kind == 1)
  match cls with
  | 8 => ctl
  | 9 => !ctl && exp_
  | c =>
    let gates := ws.filter (·.kind == 0)
    !ctl && !exp_ && (if gates.isEmpty then bitAt (Tab.get 0 s.act.gng.aopen seg).toNat c
      else gates.any (fun w => bitAt w.arg c))

/-- The points of a tick after x at which a gate can change, in order. -/
def State.edges (s : State) (seg tick x : Nat) : List Nat :=
  (mergeKeys ((s.act.gng.wins seg tick).flatMap (fun w => [w.start, w.stop])) []).filter (fun b => x < b && b < s.period)

/-- The first later point of the tick at which the class is closed; none where it stays open to the next instant. -/
def State.closeIn (s : State) (seg cls tick x : Nat) : Option Nat :=
  (s.edges seg tick x).find? (fun b => !s.openAt seg cls tick b)

/-- The end of the open period that holds x, in ns after the instant. A period always ends at the next instant (R57). -/
def State.periodEnd (s : State) (seg cls tick x : Nat) : Nat := (s.closeIn seg cls tick x).getD s.period

/-- The ns of [a, b) of a tick in which the class is open. -/
def State.openNs (s : State) (seg cls tick a b : Nat) : Nat :=
  let cuts := a :: ((s.edges seg tick a).filter (· < b)) ++ [b]
  sumNat ((cuts.zip (cuts.drop 1)).map (fun c => if s.openAt seg cls tick c.1 then c.2 - c.1 else 0))

/-- The ns from one tick phase to a later one in which the class is open: whole hyper-cycles between them are alike
(R54). -/
def State.openBetween (s : State) (seg cls : Nat) (p q : Nat × Nat) : Nat :=
  if p.1 = q.1 then s.openNs seg cls p.1 p.2 q.2
  else if q.1 < p.1 then 0
  else
    let whole (l : List Nat) : Nat := sumNat (l.map (fun k => s.openNs seg cls k 0 s.period))
    let n := q.1 - p.1 - 1
    s.openNs seg cls p.1 p.2 s.period + n / s.hyper * whole (List.range s.hyper)
      + whole ((List.range (n % s.hyper)).map (p.1 + 1 + ·)) + s.openNs seg cls q.1 0 q.2

/-- The START of the next control or express window after x, in ns after the instant, within a hyper-cycle. -/
def State.nextReserved (s : State) (seg tick x : Nat) : Option Nat :=
  (List.range (s.hyper + 1)).findSome? (fun k =>
    (mergeKeys (((s.act.gng.wins seg (tick + k)).filter (fun w => (w.kind == 1 || w.kind == 2) && decide (w.start < w.stop)
      && (k != 0 || x < w.start))).map (·.start)) []).head?.map (· + k * s.period))

/-- A frame of len bytes, with preamble and gap, ends by a point that lies d ns ahead at the port rate (R57). -/
def fitsIn (rate len d : Nat) : Bool := decide ((len + 20) * 8 ≤ d * rate)

/-- The hold of a cut-through frame of at most len bytes from rate ri to rate re, in units of 1/(ri * re) ns (R147). -/
def holdOf (ri re len : Nat) : Nat := if re ≤ ri then 0 else 8 * (len - 64) * re - 8 * (len - 1) * ri

/-- A frame that starts h ns / d from now lies inside the open period of its class then, and ends within it (R57). -/
def State.fitsAfter (s : State) (n cls len h d : Nat) : Bool :=
  let p := s.phase
  let x := p.2 + h / d
  s.openAt n cls p.1 x && decide (x < s.period) &&
    decide ((len + 20) * 8 * d + h * s.portRate n ≤ (s.periodEnd n cls p.1 x - p.2) * d * s.portRate n)

/-- The frame fits in the open period of its class now. -/
def State.fits (s : State) (n cls len : Nat) : Bool := s.fitsAfter n cls len 0 1

/-! Staged words and segments (R53, R59) -/

/-- GNG_TBL_DATA2 commits the three entry words to the inactive copy while OPEN is 1 (R59). -/
def State.gngCommit (s : State) (w : BitVec 32) : State :=
  if s.fb Fd.GNG_TBL_ADDR_OPEN then
    let row : GngRow := (s.gng.data0, s.gng.data1, w)
    { s with shd := { s.shd with gng := { s.shd.gng with
      rows := Tab.set (0, 0, 0) s.shd.gng.rows (s.f Fd.GNG_TBL_ADDR_ENTRY) row } } }
  else s

def execGngTblData2Write (t : Nat) (party : Party) (value : BitVec 32) (s : State) : Out :=
  .next (((s.clock t).hostWrite party).gngCommit value)

/-- A write of GNG_TBL_ADDR: setting OPEN stops the self-test of the inactive copy; when OPEN returns to 0 the test
starts from the beginning (R59). -/
def State.gngAddr (s : State) (w : BitVec 32) : State :=
  let was := s.fb Fd.GNG_TBL_ADDR_OPEN
  let s1 := s.wr Reg.GNG_TBL_ADDR [] (w &&& 0x8000FFFF#32)
  if bitAt w.toNat 31 then s1.set0 Fd.GNG_STAT_TEST (if s.f Fd.GNG_STAT_TEST = 1 then 0 else s.f Fd.GNG_STAT_TEST)
  else if was then s1.set0 Fd.GNG_STAT_TEST 1 else s1

/-- A self-test pass of the inactive copy ends: counted, or TEST_FAIL (R59). While OPEN is 1 no test runs. -/
def execGinghamSelfTestDone (t : Nat) (ok : Bool) (s : State) : Out :=
  let s := s.clock t
  if s.fb Fd.GNG_TBL_ADDR_OPEN then .next s
  else if ok then .next ((s.set0 Fd.GNG_STAT_TEST 2).wrapF Fd.GNG_STAT_TEST_PASSES)
  else .next ((s.set0 Fd.GNG_STAT_TEST 3).raise Fd.GNG_ERR_TEST_FAIL)

end Sys2Proof.Machine
end

