-- ==== Sys2Proof/Machine/Larder.lean ====
section
/-! DEFINITION. The Larder (spec/06): cells, descriptors, queues, pools, drop-remainder, stale queues, the scrub
engine and the rotating spare. -/

namespace Sys2Proof.Machine

open Sys2Proof

/-- An FP port counter (Table FRM-6); frames from CTL have no port. -/
def State.fpCount (s : State) (n c : Nat) : State :=
  if n < 256 then s.bump64 Reg.FP_PORTn_CNTc_LO Reg.FP_PORTn_CNTc_HI [n, c] else s

/-! Pools (Table LDR-5) -/

def useKey (pool port vc : Nat) : Nat := pool * 1024 + port * 2 + vc

def State.used (s : State) (pool port vc : Nat) : Nat := Tab.get 0 s.ldr.use (useKey pool port vc)

def State.poolUsed (s : State) (p : Nat) : Nat := s.f Fd.LDR_POOLp_USED_CELLS [p]

/-- Virtual channels of a hop port (R178, R179). -/
def State.hopVcs (s : State) (n : Nat) : Nat :=
  if s.f Fd.LDR_PORTn_HOP_HOP_WIN [n] = 0 then 0 else if s.fb Fd.LDR_PORTn_HOP_RING [n] then 2 else 1

/-- Private cells of a port and virtual channel. -/
def State.privCells (s : State) (n : Nat) : Nat := if s.fb Fd.LDR_PORTn_HOP_RING [n] then 8 else 16

/-- Hop cells of a port and virtual channel: HOP_WIN minus the private cells. -/
def State.hopCells (s : State) (n : Nat) : Nat := s.f Fd.LDR_PORTn_HOP_HOP_WIN [n] - s.privCells n

def State.ports (s : State) : List Nat := (List.range 256).filter s.isPort

/-- The size of pool p. -/
def State.poolSize (s : State) (p : Nat) : Nat :=
  let exp_ := sumNat ((List.range 257).map (fun n => s.f Fd.LDR_PORTn_CFG_EXP_CELLS [n]))
  let ctl := 64 * (s.ringPorts.length + b2n (s.fb Fd.ASD_CFG_PAIRED))
  let priv := 16 * s.ports.length
  let hop := sumNat (s.ringPorts.map (fun n => s.hopVcs n * s.hopCells n))
  let asr_ := s.f Fd.LDR_POOL_CFG_ASR_CELLS - hop
  match p with
  | 0 => exp_
  | 1 => ctl
  | 2 => priv
  | 3 => hop
  | 4 => asr_
  | 5 => 524288 - (exp_ + ctl + priv + hop + asr_)
  | _ => 0

/-- Charges cells to a pool, under a port and virtual channel, and keeps USED, PEAK and FULL. -/
def State.charge (s : State) (c : Charge) : State :=
  let u := s.used c.pool c.port c.vc + c.cells
  let s1 := { s with ldr := { s.ldr with use := Tab.set 0 s.ldr.use (useKey c.pool c.port c.vc) u } }
  let t := s.poolUsed c.pool + c.cells
  let s2 := (s1.sf Fd.LDR_POOLp_USED_CELLS [c.pool] t).peakF Fd.LDR_POOLp_PEAK_PEAK [c.pool] t
  s2.set0 Fd.LDR_STAT_FULL (setBits (s2.f Fd.LDR_STAT_FULL) c.pool c.pool (b2n (decide (s2.poolSize c.pool ≤ t))))

/-- Gives charged cells back. -/
def State.uncharge (s : State) (c : Charge) : State :=
  let u := s.used c.pool c.port c.vc - c.cells
  let s1 := { s with ldr := { s.ldr with use := Tab.set 0 s.ldr.use (useKey c.pool c.port c.vc) u } }
  let t := s.poolUsed c.pool - c.cells
  let s2 := s1.sf Fd.LDR_POOLp_USED_CELLS [c.pool] t
  s2.set0 Fd.LDR_STAT_FULL (setBits (s2.f Fd.LDR_STAT_FULL) c.pool c.pool (b2n (decide (s2.poolSize c.pool ≤ t))))

/-- Free cells of a pool for a port and virtual channel. Port 256 of pool 0 is the fabric-control link, that of pool 1
the Gable link; an edge port has no control reserve (Table LDR-5). -/
def State.freeIn (s : State) (pool n vc : Nat) : Nat :=
  match pool with
  | 0 => s.f Fd.LDR_PORTn_CFG_EXP_CELLS [n] - s.used 0 n 0
  | 1 => (if 256 ≤ n || s.isRingPort n then 64 else 0) - s.used 1 n 0
  | 2 => s.privCells n - s.used 2 n vc
  | 3 => s.hopCells n - s.used 3 n vc
  | p => s.poolSize p - s.poolUsed p

/-- Cells of a port's assured credit in use (R176). -/
def State.asrCharged (s : State) (n : Nat) : Nat :=
  s.used 2 n 0 + s.used 2 n 1 + s.used 3 n 0 + s.used 3 n 1 + s.used 4 n 0

/-- TCs of the assured stream entries that take frames of a port. -/
def State.assuredTcs (s : State) (n : Nat) : List Nat :=
  (s.validStreams.filter (fun i =>
    let w := s.streamWord i 4
    bits w 5 4 == 1 && !bitAt w 3 && (bits w 17 9 == 0x1FF || bits w 17 9 == n))).map (fun i => bits (s.streamWord i 4) 8 6)

/-- The priorities of a port's assured streams, as a mask: those whose class map is assured, and the TCs of its assured
stream entries, which name no PCP (R135, DESIGN CHOICE, log entry 122). -/
def State.pfcMask (s : State) (n : Nat) : Nat :=
  sumNat ((List.range 8).map (fun p =>
    if bits (s.f Fd.FP_PORTn_PCPCLS_CLASS [n]) (2 * p + 1) (2 * p) = 1 ∨ (s.assuredTcs n).contains p then 2 ^ p else 0))

/-- The port can send: it is UP or DEGRADED and has no remote fault, under which only idle leaves (R109, R111). -/
def State.portSends (s : State) (n : Nat) : Bool :=
  let st := s.f Fd.PGn_Pp_STAT_STATE [n / 8, n % 8]
  (st == 6 || st == 7) && !s.fb Fd.PGn_Pp_STAT_RF [n / 8, n % 8]

/-- XOFF below PFC_HEADROOM and XON above PFC_HEADROOM + 16 of the port's assured room (R176). -/
def State.pfcCheck (s : State) (n : Nat) : State :=
  if n < 256 ∧ s.fb Fd.FP_PORTn_CFG_PFC_EN [n] ∧ s.portSends n then
    let room := s.f Fd.LDR_PORTn_ASR_ASR_CREDIT [n] - s.asrCharged n
    let head := s.f Fd.LDR_PORTn_CFG_PFC_HEADROOM [n]
    if room < head ∧ !s.ldr.xoff.contains n then
      (({ s with ldr := { s.ldr with xoff := insKey n s.ldr.xoff } }).fpCount n 15).emit (.pfc n (s.pfcMask n) true)
    else if head + 16 < room ∧ s.ldr.xoff.contains n then
      ({ s with ldr := { s.ldr with xoff := s.ldr.xoff.filter (· != n) } }).emit (.pfc n (s.pfcMask n) false)
    else s
  else s

/-! Cells and descriptors -/

/-- The lowest free row of a logical bank (log entry 16). -/
def State.freeRow (s : State) (bank : Nat) : Option Nat :=
  findNat (min 16384 (s.ldr.alloc.length + 1)) (fun r => Tab.get 0 s.ldr.alloc (32 * r + bank) == 0)

/-- The next bank after b with a free cell, in ascending order, wrapping from 31 to 0 (R159). -/
def State.nextCell (s : State) (b : Nat) : Option Nat :=
  ((List.range 32).map (fun i => (b + 1 + i) % 32)).findSome? (fun k => (s.freeRow k).map (fun r => 32 * r + k))

/-- Allocates n cells for descriptor d in ascending logical-bank order (R159). -/
def State.allocCells (s : State) (d : Nat) : Nat → List Nat → State × List Nat
  | 0, acc => (s, acc.reverse)
  | n + 1, acc => match s.nextCell s.ldr.lastBank with
    | some ca =>
      State.allocCells { s with ldr := { s.ldr with alloc := Tab.set 0 s.ldr.alloc ca (d + 1), lastBank := ca % 32 } }
        d n (ca :: acc)
    | none => (s, acc.reverse)

/-- The lowest free descriptor (log entry 16). -/
def State.freeDesc (s : State) : Option Nat :=
  findNat (min 262144 (s.ldr.items.length + 1)) (fun d => Tab.get {} s.ldr.items d == {})

def cellsOf (len : Nat) : Nat := max 1 ((len + 255) / 256)

def State.item (s : State) (d : Nat) : Item := Tab.get {} s.ldr.items d

def State.setItem (s : State) (d : Nat) (i : Item) : State :=
  { s with ldr := { s.ldr with items := Tab.set {} s.ldr.items d i } }

/-- Every cell of the item is of the express, control or private pool, whose descriptors and queue entries are reserved
with the cell (R174). -/
def Item.reserved (i : Item) : Bool := !i.charges.isEmpty && i.charges.all (fun c => c.pool ≤ 2)

/-- The items that draw their descriptors and queue entries from the remainder; `copies` falls as entries return. -/
def State.drawn (s : State) : List Item := (s.ldr.items.map (·.2)).filter (fun i => !i.reserved)

/-- A descriptor and the queue entries of its copies are free for an item: reserved with its cells, or in the remainder
(R160, R174). -/
def State.hasDesc (s : State) (i : Item) : Bool :=
  let kept := s.poolSize 0 + s.poolSize 1 + s.poolSize 2
  i.reserved || (decide (s.drawn.length + 1 + kept ≤ 262144) &&
    decide (sumNat (s.drawn.map (·.copies)) + i.copies + kept ≤ 524288))

/-- Stores an item with its charges: a descriptor, its cells and its bytes (R160, R165). DESC_FULL where there is no
descriptor or queue entry (R174). -/
def State.storeItem (s : State) (i : Item) : State × Option Nat :=
  match if s.hasDesc i then s.freeDesc else none with
  | none => (s.raise Fd.LDR_EVT_DESC_FULL, none)
  | some d =>
    let r := s.allocCells d (sumNat (i.charges.map (·.cells))) []
    let s1 := i.charges.foldl State.charge r.1
    ((s1.setItem d { i with cells := r.2 }).set0 Fd.LDR_DESC_USED_COUNT (s.f Fd.LDR_DESC_USED_COUNT + 1), some d)

/-- Cells of a hop port released on a virtual channel count toward the next grant (R178). -/
def State.countReleased (s : State) (c : Charge) : State :=
  if (c.pool = 2 ∨ c.pool = 3) ∧ s.hopVcs c.port ≠ 0 then
    let k := 2 * c.port + c.vc
    let h := Tab.get {} s.ldr.hop k
    { s with ldr := { s.ldr with hop := Tab.set {} s.ldr.hop k { h with released := (h.released + c.cells) % 2 ^ 32 } } }
  else s

/-- The release of an accepted item goes into the state copy of the tick (Table ASD-5). -/
def State.noteRelease (s : State) (d : Nat) : State :=
  match Tab.get 0 s.asd.mrefOf d with
  | 0 => s
  | m + 1 => { s with asd := { s.asd with mrefOf := Tab.erase s.asd.mrefOf d, releases := s.asd.releases ++ [m] } }

/-! Hop credit (R178) -/

def State.hopOf (s : State) (n vc : Nat) : Hop := Tab.get {} s.ldr.hop (2 * n + vc)
def State.setHop (s : State) (n vc : Nat) (h : Hop) : State :=
  { s with ldr := { s.ldr with hop := Tab.set {} s.ldr.hop (2 * n + vc) h } }

/-- Cells that the neighbour's grant still allows, as LDR_PORTn_CRED shows them. -/
def Hop.credit (h : Hop) : Nat :=
  let a := (h.grant + 2 ^ 32 - h.sentCells) % 2 ^ 32
  if a < 2 ^ 31 then min 0xFFFF a else 0

def State.showCredit (s : State) (n : Nat) : State :=
  (s.sf Fd.LDR_PORTn_CRED_CRED_VC0 [n] (s.hopOf n 0).credit).sf Fd.LDR_PORTn_CRED_CRED_VC1 [n] (s.hopOf n 1).credit

/-- Frees an item: descriptor, cells and charges (R161); a port whose assured room comes back sends XON (R176). -/
def State.freeItem (s : State) (d : Nat) : State :=
  let i := s.item d
  let s1 : State := i.charges.foldl (fun s c => ((s.uncharge c).countReleased c).pfcCheck c.port) (s.noteRelease d)
  let s2 := { s1 with ldr := { s1.ldr with alloc := i.cells.foldl Tab.erase s1.ldr.alloc
                                           items := Tab.erase s1.ldr.items d } }
  s2.set0 Fd.LDR_DESC_USED_COUNT (s2.f Fd.LDR_DESC_USED_COUNT - 1)

/-- Releases one copy: REFS falls, and at 0 the item is freed (R161). -/
def State.releaseCopy (s : State) (d : Nat) : State :=
  let i := s.item d
  if i.refs ≤ 1 then s.freeItem d else s.setItem d { i with refs := i.refs - 1 }

/-! Queues -/

def State.queue (s : State) (q : Nat) : Queue := Tab.get {} s.ldr.queues q

def State.setQueue (s : State) (q : Nat) (x : Queue) : State :=
  { s with ldr := { s.ldr with queues := Tab.set {} s.ldr.queues q x } }

/-- The queue is priority-ordered; port and Gable queues are FIFO (R163). -/
def State.isPrio (s : State) (q : Nat) : Bool := 2048 ≤ q && q < 6136 && s.fb Fd.LDR_Qq_CFG_MODE [q]

/-- The entry that a read takes next: the first, or the first of the highest PRIO (R164). -/
def State.headOf (s : State) (q : Nat) : Option QEntry :=
  let es := (s.queue q).entries
  if s.isPrio q then
    let top := es.foldl (fun m e => max m e.prio) 0
    es.find? (fun e => e.prio == top)
  else es.head?

/-- A queue with QMAX items is full (R168). -/
def State.qFull (s : State) (q : Nat) : Bool :=
  let m := s.f Fd.LDR_Qq_MAX_QMAX [q]
  m != 0 && (s.queue q).entries.length == m || m != 0 && decide (m < (s.queue q).entries.length)

/-- A copy for a side that is wrapped is turned back on the same ring (R233). -/
def State.wrapDest (s : State) (n : Nat) : Nat :=
  match s.sideOf n with
  | some k =>
    if s.cst.wrapped.contains k then (s.ringOther n).getD n else n
  | none => n

/-- The queue that an item for queue q enters: that of the port to which it is turned back, for a port that is wrapped. -/
def State.wrapQ (s : State) (q : Nat) : Nat := if q < 2048 then 8 * s.wrapDest (q / 8) + q % 8 else q

/-! Egress state and shapers (R150): credits in 10^-6 bit -/

def State.egress (s : State) (n : Nat) : Egress := Tab.get {} s.fp.egress n
def State.setEgress (s : State) (n : Nat) (e : Egress) : State :=
  { s with fp := { s.fp with egress := Tab.set {} s.fp.egress n e } }

def State.cbsOn (s : State) (n tc : Nat) : Bool := n < 256 && bitAt (s.f Fd.FP_PORTn_TC_CBS_EN [n]) tc

/-- The credit of one TC over dt ns, in `opened` ns of which its gate was open: it falls while the TC sends, and rises
only while its gate is open and an item waits. -/
def State.creditStep (s : State) (n tc dt opened : Nat) (c : Int) : Int :=
  let idle : Int := s.f Fd.FP_PORTn_CBSt_IDLE_SLOPE [n, tc] * 64
  if (s.egress n).tx.elim false (fun x => x.tc == tc) then c + (idle - s.portRate n * 1000000) * dt
  else if (s.queue (8 * n + tc)).entries.isEmpty then c
  else c + idle * opened

/-- Brings the credits of a port up to date, before its queues, its gates or its sender change. Open time never exceeds the
time that has passed. -/
def State.shape (s : State) (n : Nat) : State :=
  let e := s.egress n
  let dt := s.raw - e.creditAt
  let cr := (List.range 8).foldl (fun m tc =>
    if s.cbsOn n tc then
      Tab.set 0 m tc (s.creditStep n tc dt (min dt (s.openBetween n tc e.creditPh s.phase)) (Tab.get 0 m tc))
    else m) e.credit
  s.setEgress n { e with credit := cr, creditAt := s.raw, creditPh := s.phase }

/-- Runs f where it changes gates, slopes or the count of ticks: the credits stand as they were before it, and count on from
the phase after it (R150). -/
def State.regate (s : State) (f : State → State) : State :=
  let s1 := f ((keys s.fp.egress).foldl State.shape s)
  (keys s1.fp.egress).foldl (fun s n => s.setEgress n { s.egress n with creditPh := s.phase }) s1

/-- Positive credit returns to 0 when the queue of a TC empties. -/
def State.dropCredit (s : State) (n tc : Nat) : State :=
  let e := s.egress n
  s.setEgress n { e with credit := Tab.set 0 e.credit tc (min 0 (Tab.get 0 e.credit tc)) }

/-- Bytes of a frame in progress that have left port n in its present fragment, after the 8 bytes in front of it. -/
def State.sentBytes (s : State) (n : Nat) (x : TxFrame) : Nat := (s.raw - x.start) * s.portRate n / 8 - 8

/-- The frame in progress can be cut now: it is preemptable, what has left is a whole fragment, and 64 bytes or more are left
for the next one (R151, 802.3br). -/
def State.canCut (s : State) (n : Nat) : Bool :=
  match (s.egress n).tx with
  | some x =>
    let sent := s.sentBytes n x
    x.preemptable && decide (64 * (1 + s.f Fd.FP_PORTn_PREEMPT_ADD_FRAG [n]) ≤ sent + 4)
      && decide (x.cut + sent + 64 ≤ x.bytes.length)
  | none => false

/-- A preemptable frame in progress is preempted: one more fragment has been sent (R151). -/
def State.preempt (s : State) (n : Nat) : State :=
  match (s.egress n).tx with
  | some x =>
    if s.canCut n then
      let s1 := s.shape n
      (s1.setEgress n { s1.egress n with
        tx := none, preempted := some { x with split := true, cut := x.cut + s.sentBytes n x } }).fpCount n 12
    else s
  | none => s

/-! Entries -/

/-- Sets a queue's entries; a change of head ends STALE and restarts its count (R170), and the shaper of a port queue
follows (R150). -/
def State.setEntries (s : State) (q : Nat) (es : List QEntry) : State :=
  let s0 := if q < 2048 then s.shape (q / 8) else s
  let before := (s.headOf q).map (·.desc)
  let s1 := s0.setQueue q { s.queue q with entries := es }
  let s2 := if q < 2048 ∧ es.isEmpty then s1.dropCredit (q / 8) (q % 8) else s1
  if (s2.headOf q).map (·.desc) = before then s2
  else (s2.setQueue q { entries := es, headTick := s.strobes }).sf Fd.LDR_Qq_STAT_STALE [q] 0

def clsCode : Cls → Nat
  | .standard => 0
  | .assured => 1
  | .express => 2
  | .control => 2

/-- Adds an entry for a copy of item d; the item's first enqueue records its tick (Table LDR-2). -/
def State.addEntry (s : State) (q d : Nat) : State :=
  let i := s.item d
  let s1 := s.setItem d { i with enqTick := some (i.enqTick.getD (s.tu.tick % 65536)) }
  let s2 := s1.setEntries q ((s1.queue q).entries ++ [{ desc := d, prio := i.prio }])
  (s2.sf Fd.LDR_Qq_CFG_CLASS [q] (clsCode i.cls)).set0 Fd.LDR_QE_USED_COUNT (s.f Fd.LDR_QE_USED_COUNT + 1)

/-- Adds an entry for a copy of item d to queue q, or, where the port of q is wrapped, to the queue to which the copy is
turned back, which counts in WRAPPED (R233). -/
def State.pushEntry (s : State) (q d : Nat) : State :=
  if s.wrapQ q = q then s.addEntry q d
  else (s.addEntry (s.wrapQ q) d).bump64 Reg.ASD_CNTc_LO Reg.ASD_CNTc_HI [9]

/-- An enqueue to a full queue is ignored and sets OVR and QOVR (R168). -/
def State.queueOverrun (s : State) (q : Nat) : State := (s.setFlag Fd.LDR_Qq_STAT_OVR [q]).raise Fd.LDR_EVT_QOVR [] q

/-- A queue entry that item d draws returns to the remainder (R174). -/
def State.returnEntry (s : State) (d : Nat) : State := s.setItem d { s.item d with copies := (s.item d).copies - 1 }

/-- Enqueues one copy. An express or control copy ignores QMAX; a copy for a full queue is released, and a standard one
counted (R168). -/
def State.enqueue (s : State) (q d : Nat) : State :=
  let i := s.item d
  if s.qFull (s.wrapQ q) ∧ i.cls ≠ .express ∧ i.cls ≠ .control then
    let s1 := ((s.queueOverrun (s.wrapQ q)).returnEntry d).releaseCopy d
    if i.cls = .standard then s1.bump Reg.LDR_STD_DROP_CNT else s1
  else s.pushEntry q d

/-- Enqueues the copies of a stored item: REFS counts them. -/
def State.enqueueAll (s : State) (qs : List Nat) (d : Nat) : State :=
  if qs.isEmpty then s.freeItem d
  else qs.foldl (fun s q => s.enqueue q d) (s.setItem d { s.item d with refs := qs.length })

/-- Removes one entry of item d from a queue: the started one, else the first. -/
def State.removeEntry (s : State) (q d : Nat) : State :=
  let es := (s.queue q).entries
  let here (e : QEntry) : Bool := e.desc == d
  if es.any here then
    let rest := if es.any (fun e => here e && e.started) then es.eraseP (fun e => here e && e.started) else es.eraseP here
    ((s.setEntries q rest).set0 Fd.LDR_QE_USED_COUNT (s.f Fd.LDR_QE_USED_COUNT - 1)).returnEntry d
  else s

/-- Marks the first entry of item d as started, with its lease counting from the present tick (R172). -/
def State.startEntry (s : State) (q d : Nat) : State :=
  s.setQueue q { s.queue q with
    entries := mapFirst (fun e => e.desc == d) (fun e => { e with started := true, lease := s.strobes })
      (s.queue q).entries }

/-- The consumer gives the entry of item d back unread. -/
def State.unstartEntry (s : State) (q d : Nat) : State :=
  s.setQueue q { s.queue q with
    entries := mapFirst (fun e => e.desc == d) (fun e => { e with started := false }) (s.queue q).entries }

/-- A consumer reads a service queue: it owns the queue under a lease that counts from this tick (Table ASD-8). -/
def State.own (s : State) (q : Nat) : State :=
  { s with ldr := { s.ldr with owners := Tab.set 0 s.ldr.owners q (s.strobes + 1) } }

/-- The item that a service consumer of queue q on CTL would read next: one whose LEN is valid, as a reader that sees
LEN_VALID 0 reads again, and none while the fabric-control link is down (R23, R24, R165). -/
def State.serviceHead (s : State) (q : Nat) : Option Nat :=
  match s.headOf q with
  | some e => if e.started || !(s.item e.desc).lenValid || s.fio.linkDown.contains 0 then none else some e.desc
  | none => none

/-- Drop-remainder: releases every copy whose STARTED bit is 0, and gives their number (R171). -/
def State.dropRemainder (s : State) (q : Nat) : State × Nat :=
  let ds := ((s.queue q).entries.filter (fun e => !e.started)).map (·.desc)
  (ds.foldl (fun s d => (s.removeEntry q d).releaseCopy d) s, ds.length)

/-- Drop-remainder with its counts: DROPPED, and each standard copy in LDR_STD_DROP_CNT (R9, R171, log entry 122). -/
def State.dropCounted (s : State) (q : Nat) : State :=
  let r := s.dropRemainder q
  let s1 := r.1.set0 Fd.LDR_QCMD_STAT_DROPPED (min 0xFFFF r.2)
  if s.f Fd.LDR_Qq_CFG_CLASS [q] = 0 then s1.bumpBy Reg.LDR_STD_DROP_CNT [] r.2 else s1

/-- The queue is assured: it last took an assured item, or holds one, which no command and no drain discards (R7, R171). -/
def State.qAssured (s : State) (q : Nat) : Bool :=
  s.f Fd.LDR_Qq_CFG_CLASS [q] == 1 || (s.queue q).entries.any (fun e => (s.item e.desc).cls == .assured)

/-- LDR_QCMD: drop-remainder on a queue, refused for an assured one or a number beyond 6,143 (R171). A refused command
releases no copy and leaves DROPPED at the count of the command before it (log entry 122). -/
def State.qcmd (s : State) (w : Nat) : State :=
  let q := bits w 12 0
  if bits w 18 16 ≠ 1 then s
  else if 6143 < q then (s.set0 Fd.LDR_QCMD_STAT_STATE 3).set0 Fd.LDR_QCMD_STAT_CODE 2
  else if s.qAssured q then (s.set0 Fd.LDR_QCMD_STAT_STATE 3).set0 Fd.LDR_QCMD_STAT_CODE 1
  else ((s.dropCounted q).set0 Fd.LDR_QCMD_STAT_STATE 2).set0 Fd.LDR_QCMD_STAT_CODE 0

def execDropRemainder (t : Nat) (queue : Fin 8192) (s : State) : Out :=
  .next ((s.clock t).qcmd (queue.val + 0x10000))

/-- A queue is stale when its head has not changed for STALE_TICKS ticks (R170). -/
def State.staleDue (s : State) (q : Nat) : Bool :=
  let n := s.f Fd.LDR_Qq_CFG_STALE_TICKS [q]
  n != 0 && !(s.queue q).entries.isEmpty && !s.fb Fd.LDR_Qq_STAT_STALE [q] && decide ((s.queue q).headTick + n ≤ s.strobes)

/-- The queue becomes stale; one that is not assured is drained by drop-remainder, and a change of its head ends STALE
(R170). -/
def execQueueStale (t : Nat) (queue : Fin 6144) (s : State) : Out :=
  let s := s.clock t
  let q := queue.val
  if s.staleDue q then
    let s1 := (s.sf Fd.LDR_Qq_STAT_STALE [q] 1).raise Fd.LDR_EVT_STALE [] q
    .next (if s.qAssured q then s1 else s1.dropCounted q)
  else .next s

/-! Reads, scrubbing and the spare (R182 to R185) -/

/-- The physical bank of a logical bank (R158). The spec gives no map at reset: logical bank b starts on physical bank b
(DESIGN CHOICE, log entry 150). -/
def State.physBank (s : State) (b : Nat) : Nat := (Tab.get none s.ldr.bankMap b).getD b

/-- What SECDED finds on a word (R182). -/
def State.sec (s : State) : State := (s.bump Reg.LDR_SEC_CNT).raise Fd.LDR_EVT_SEC

def State.dedBank (s : State) (b : Nat) : Nat := Tab.get 0 s.ldr.ded b

/-- A word with a double-bit error is poisoned: counted, recorded and charged to its bank (R182, R185). -/
def State.dedWord (s : State) (ca half : Nat) : State :=
  let p := s.physBank (ca % 32)
  let s1 := ((s.bump Reg.LDR_DED_CNT).wr Reg.LDR_DED_ADDR [] (BitVec.ofNat 32 (ca + 2 ^ 19 * half + 2 ^ 20 * p)))
  let s2 := { s1 with ldr := { s1.ldr with ded := Tab.set 0 s1.ldr.ded p (s.dedBank p + 1) } }
  let d := Tab.get 0 s.ldr.alloc ca
  let s3 := if d = 0 then s2 else
    let i := s2.item (d - 1)
    s2.setItem (d - 1) { i with poison := ca :: i.poison }
  s3.raise Fd.LDR_EVT_DED [] ca half

/-- Words of the serving banks in one scrub pass. -/
def scrubWords : Nat := 1048576

/-- The words of the item are read by its consumer: a single-bit error is corrected, and a double-bit error poisons the
cell of its word (R158, R182). -/
def State.readItem (s : State) (d : Nat) (ecc : Ecc) : State :=
  match ecc with
  | .good => s
  | .single => s.sec
  | .double w =>
    let cells := (s.item d).cells
    match cells[w / 2 % max 1 cells.length]? with
    | some ca => s.dedWord ca (w % 2)
    | none => s

/-- A service consumer takes and reads the next item of queue q, which is delivered with its poison mark (R164, R182). -/
def State.takeHead (s : State) (q : Nat) (ecc : Ecc) : State × Option Nat :=
  match s.serviceHead q with
  | some d => (((s.own q).removeEntry q d).readItem d ecc, some d)
  | none => (s, none)

/-- The scrub engine reads the next serving word in an idle slot, at a pace that reads every word once in each SCRUB_S
seconds: good, corrected and written back, or uncorrectable (R183). A traffic write to the word drops the write-back, which
changes nothing here. -/
def execScrubWord (t : Nat) (ecc : Ecc) (s : State) : Out :=
  let s := s.clock t
  let w := s.ldr.scrub
  let pass := s.f Fd.LDR_CFG_SCRUB_S * 1000000000
  if pass = 0 ∨ s.fb Fd.POR_STAT_HOLDUP ∨ !s.elapsed s.ldr.scrubAt (pass * w / scrubWords) then .next s
  else
    let s1 := match ecc with
      | .good => s
      | .single => s.sec
      | .double _ => s.dedWord (w / 2) (w % 2)
    let last := decide (w + 1 = scrubWords)
    let s2 := { s1 with ldr := { s1.ldr with
      scrub := (w + 1) % scrubWords, scrubAt := if last then max (s.ldr.scrubAt + pass) s.raw else s.ldr.scrubAt } }
    .next (if last then s2.wrapW Reg.LDR_SCRUB_CNT else s2)

/-- Starts copying a logical bank into the spare. -/
def State.startCopy (s : State) (b : Nat) (retire : Bool) : State :=
  (({ s with ldr := { s.ldr with rot := .copying b s.raw retire } }).set0 Fd.LDR_STAT_ROT 1).set0 Fd.LDR_STAT_ROT_BANK b

/-- Every ROT_MS ms the next logical bank starts being copied into the spare (R184). -/
def execSpareRotation (t : Nat) (s : State) : Out :=
  let s := s.clock t
  let ms := s.f Fd.LDR_CFG_ROT_MS
  if ms ≠ 0 ∧ s.ldr.rot = .idle ∧ !s.fb Fd.LDR_STAT_SPARE_LOST ∧ s.elapsed s.ldr.lastRot (ms * 1000000) ∧
      !s.fb Fd.POR_STAT_HOLDUP then
    let b := s.ldr.nextBank
    .next (({ s with ldr := { s.ldr with lastRot := s.raw, nextBank := (b + 1) % 32 } }).startCopy b false)
  else .next s

/-- After the copy logical bank b maps to the former spare, and its old bank becomes the spare under test; a retired
bank is marked failed instead (R184, R185). -/
def execSpareCopyDone (t : Nat) (s : State) : Out :=
  let s := s.clock t
  match s.ldr.rot with
  | .copying b _ retire =>
    let spare := s.f Fd.LDR_STAT_SPARE
    let old := s.physBank b
    let s1 := { s with ldr := { s.ldr with bankMap := Tab.set none s.ldr.bankMap b (some spare) } }
    if retire then
      let s2 := { s1 with ldr := { s1.ldr with failed := old :: s1.ldr.failed, rot := .idle } }
      .next (((s2.set0 Fd.LDR_STAT_ROT 3).set0 Fd.LDR_STAT_SPARE_LOST 1).set0 Fd.LDR_STAT_SPARE old |>.raise
        Fd.LDR_EVT_BANK_RETIRED [] old)
    else
      let s2 := { s1 with ldr := { s1.ldr with rot := .testing old } }
      .next (((s2.set0 Fd.LDR_STAT_ROT 2).set0 Fd.LDR_STAT_SPARE old).wrapW Reg.LDR_ROT_CNT)
  | _ => .next s

/-- The march test of the new spare completes; a failed spare is never mapped again and rotation stops (R185). -/
def execSpareTestDone (t : Nat) (ok : Bool) (s : State) : Out :=
  let s := s.clock t
  match s.ldr.rot with
  | .testing p =>
    if ok then .next ({ s with ldr := { s.ldr with rot := .idle } }.set0 Fd.LDR_STAT_ROT 0)
    else
      let s1 := { s with ldr := { s.ldr with rot := .idle, failed := p :: s.ldr.failed } }
      .next (((s1.set0 Fd.LDR_STAT_ROT 3).set0 Fd.LDR_STAT_SPARE_LOST 1).raise Fd.LDR_EVT_ROT_FAIL [] p)
  | _ => .next s

/-- A serving bank with DED_RETIRE uncorrectable errors is copied out at once; without a good spare it stays and ERR_N
is asserted (R185). A DED_RETIRE of 0 retires no bank: the spec gives it no meaning (DESIGN CHOICE, log entry 150). -/
def execBankRetired (t : Nat) (bank : Fin 32) (s : State) : Out :=
  let s := s.clock t
  if s.f Fd.LDR_CFG_DED_RETIRE ≠ 0 ∧ s.f Fd.LDR_CFG_DED_RETIRE ≤ s.dedBank (s.physBank bank.val) then
    if s.fb Fd.LDR_STAT_SPARE_LOST then .next s.assertErr
    else if s.ldr.rot = .idle then .next (s.startCopy bank.val true)
    else .next s
  else .next s

end Sys2Proof.Machine
end

