-- ==== Sys2Proof/Machine/Parse.lean ====
section
/-! DEFINITION. The parser of frames (R126), and PTP messages in frames (R85). -/

namespace Sys2Proof.Machine

open Sys2Proof

/-- A VLAN tag: PCP, DEI and VID. -/
structure VTag where
  pcp : Nat
  dei : Bool
  vid : Nat
  deriving DecidableEq, Repr

/-- IP key fields; ports as (destination, source). -/
structure IpKey where
  v6 : Bool
  src : Nat
  dst : Nat
  proto : Nat
  dport : Nat
  sport : Nat
  deriving DecidableEq, Repr

/-- What the parser finds in the first 128 bytes of a frame. -/
structure Hdr where
  da : Nat
  sa : Nat
  stag : Option VTag
  ctag : Option VTag
  /-- Reserved field and sequence number of an R-TAG. -/
  rtag : Option (Nat × Nat)
  etype : Nat
  /-- Offset of the payload after the EtherType. -/
  body : Nat
  ip : Option IpKey
  ptp : Bool
  deep : Bool
  deriving DecidableEq, Repr

def vtagAt (b : Bytes) (o : Nat) : VTag :=
  let w := beAt b o 2
  { pcp := w / 8192, dei := bitAt w 12, vid := w % 4096 }

/-- IPv6 next headers that are extension headers. -/
def isExt (n : Nat) : Bool := n == 0 || n == 43 || n == 44 || n == 50 || n == 51 || n == 60 || n == 135

/-- Destination and source ports of UDP or TCP at an offset, 0 beyond byte 128, and whether they lay beyond it. -/
def portsAt (b : Bytes) (o proto : Nat) : Nat × Nat × Bool :=
  if proto = 6 ∨ proto = 17 then
    if o + 4 ≤ 128 then (beAt b (o + 2) 2, beAt b o 2, false) else (0, 0, true)
  else (0, 0, false)

/-- The IP fields after an EtherType, and whether a key field lay out of reach (R126). -/
def ipAt (b : Bytes) (etype o : Nat) : Option IpKey × Bool :=
  if etype = 0x0800 then
    if 128 < o + 20 then (none, true)
    else
      let proto := byteAt b (o + 9)
      let frag := decide (beAt b (o + 6) 2 % 8192 ≠ 0)
      let p := if frag then (0, 0, proto == 6 || proto == 17) else portsAt b (o + 4 * (byteAt b o % 16)) proto
      (some { v6 := false, src := beAt b (o + 12) 4, dst := beAt b (o + 16) 4, proto := proto, dport := p.1
              sport := p.2.1 }, p.2.2)
  else if etype = 0x86DD then
    if 128 < o + 40 then (none, true)
    else
      let nh := byteAt b (o + 6)
      let p := if isExt nh then (0, 0, true) else portsAt b (o + 40) nh
      (some { v6 := true, src := beAt b (o + 8) 16, dst := beAt b (o + 24) 16, proto := nh, dport := p.1
              sport := p.2.1 }, p.2.2)
  else (none, false)

/-- The parser: an S-tag before a C-tag, an R-TAG after them, then IP and PTP (R126). -/
def parseFrame (f : Bytes) : Hdr :=
  let b := f.take 128
  let st := decide (beAt b 12 2 = 0x88A8)
  let o1 := if st then 16 else 12
  let ct := decide (beAt b o1 2 = 0x8100)
  let o2 := if ct then o1 + 4 else o1
  let rt := decide (beAt b o2 2 = 0xF1C1)
  let o3 := if rt then o2 + 6 else o2
  let et := beAt b o3 2
  let ip := ipAt b et (o3 + 2)
  let ptp := et == 0x88F7 || (match ip.1 with
    | some k => k.proto == 17 && (k.dport == 319 || k.dport == 320)
    | none => false)
  { da := beAt b 0 6, sa := beAt b 6 6, stag := if st then some (vtagAt b 14) else none
    ctag := if ct then some (vtagAt b (o1 + 2)) else none
    rtag := if rt then some (beAt b (o2 + 2) 2, beAt b (o2 + 4) 2) else none
    etype := et, body := o3 + 2, ip := ip.1, ptp := ptp, deep := ip.2 }

/-! PTP event messages (R85). Offsets are those of IEEE 1588-2019 (PRESUMED, log entry 126). -/

/-- Offset of the PTP message in a frame. -/
def ptpAt (h : Hdr) (f : Bytes) : Nat :=
  match h.ip with
  | some k => if k.v6 then h.body + 48 else h.body + 4 * (byteAt f h.body % 16) + 8
  | none => h.body

/-- The frame carries a PTP event message: messageType 0 to 3, over IEEE 802.3 or to UDP port 319. -/
def ptpEvent (h : Hdr) (f : Bytes) : Bool :=
  h.ptp && h.ip.all (fun k => k.dport == 319) && decide (byteAt f (ptpAt h f) % 16 < 4)

/-- The transport of a PTP message in a frame; the 2-byte trailer of IPv6 lies after the message, inside the datagram. -/
def ptpTransport (h : Hdr) (f : Bytes) : PtpTransport :=
  let m := ptpAt h f
  match h.ip with
  | none => .ethernet
  | some k => if k.v6 then .udp6 (decide (beAt f (m + 2) 2 + 2 ≤ beAt f (m - 4) 2 - 8)) else .udp4

/-- A peer delay message over any transport, which ends at its link (Table TIM-2). -/
def isPdelay (h : Hdr) (f : Bytes) : Bool := h.ptp && [2, 3, 10].contains (byteAt f (ptpAt h f) % 16)

/-- The frame of CTL is a Pdelay_Resp. -/
def isPdelayResp (f : Bytes) : Bool :=
  let h := parseFrame f
  h.ptp && byteAt f (ptpAt h f) % 16 == 3

/-! IP headers (R262, R318) -/

/-- Replaces bytes from offset o. -/
def patch (bs : Bytes) (o : Nat) (v : Bytes) : Bytes := bs.take o ++ v ++ bs.drop (o + v.length)

/-- One's-complement sum of 16-bit words in network order. -/
def sum16 : Bytes → Nat
  | a :: b :: bs => a.toNat * 256 + b.toNat + sum16 bs
  | [a] => a.toNat * 256
  | [] => 0

/-- The Internet checksum of a sum. -/
def inetSum (n : Nat) : Nat :=
  let a := n % 65536 + n / 65536
  let b := a % 65536 + a / 65536
  0xFFFF - (b % 65536 + b / 65536)

/-- Offset of what follows the IP header at offset ip. -/
def afterIp (v6 : Bool) (ip : Nat) (f : Bytes) : Nat := if v6 then ip + 40 else ip + 4 * (byteAt f ip % 16)

/-- Fills in the length of the IP header at offset ip of a frame without FCS, and the checksum of an IPv4 header. -/
def fillIp (v6 : Bool) (ip : Nat) (f : Bytes) : Bytes :=
  if v6 then patch f (ip + 4) (beBytes 2 (f.length - ip - 40))
  else
    let g := patch (patch f (ip + 2) (beBytes 2 (f.length - ip))) (ip + 10) [0, 0]
    patch g (ip + 10) (beBytes 2 (inetSum (sum16 ((g.drop ip).take (4 * (byteAt f ip % 16))))))

/-- Fills in the lengths and checksums of the IP header at offset ip and of the UDP header behind it. -/
def fillUdp (v6 : Bool) (ip : Nat) (f : Bytes) : Bytes :=
  let udp := afterIp v6 ip f
  let ulen := f.length - udp
  let f1 := fillIp v6 ip (patch (patch f (udp + 4) (beBytes 2 ulen)) (udp + 6) [0, 0])
  let addrs := if v6 then slice f1 (ip + 8) 32 else slice f1 (ip + 12) 8
  let c := inetSum (sum16 addrs + 17 + ulen + sum16 (f1.drop udp))
  patch f1 (udp + 6) (beBytes 2 (if c = 0 then 0xFFFF else c))

/-- The FCS of a frame without one, least significant byte first on the wire. -/
def withFcs (f : Bytes) : Bytes := f ++ leBytes 4 (crc32 f)

/-- Fills a frame to 60 bytes and adds its FCS. -/
def finishFrame (f : Bytes) : Bytes := withFcs (f ++ List.replicate (60 - f.length) 0)

/-- An untagged frame from port n, filled with 0 to 64 bytes with its FCS. -/
def etherFrame (da n etype : Nat) (payload : Bytes) : Bytes :=
  withFcs (beBytes 6 da ++ beBytes 6 (Config.portMac n).toNat ++ beBytes 2 etype ++ payload ++
    List.replicate (46 - payload.length) 0)

/-- A peer delay message from port n over the transport of a frame of its exchange: IEEE 802.3, or UDP to a port with the
headers of that frame, the port's own addresses as source, and over IPv6 the 2-byte trailer (Table TIM-2, log entry 148). -/
def ptpOver (n : Nat) (like : Bytes) (dport : Nat) (msg : Bytes) : Bytes :=
  let h := parseFrame like
  match h.ip with
  | some k =>
    let a := if k.v6 then 16 else 4
    let src := (Config.portIp k.v6 n).toNat
    let hdr := patch (like.take (ptpAt h like)) 6 (beBytes 6 (Config.portMac n).toNat)
    let ip := patch hdr (h.body + if k.v6 then 8 else 12) (beBytes a src)
    finishFrame (fillUdp k.v6 h.body (patch ip (afterIp k.v6 h.body ip + 2) (beBytes 2 dport) ++ msg ++
      if k.v6 then [0, 0] else []))
  | none => etherFrame 0x0180C200000E n 0x88F7 msg

end Sys2Proof.Machine
end

