-- ==== Sys2Proof/Machine/Control.lean ====
section
/-! DEFINITION. Control frames (R28, R29): their form on the wire, the control reserve, the queues of TC 7 on ring and
branch ports and of the Gable link, and the items that wait for the protocols of CTL (R127, R162, R173, R190). -/

namespace Sys2Proof.Machine

open Sys2Proof

/-- A frame with the bytes at offset o replaced, and its FCS made anew. -/
def patchFrame (f : Bytes) (o : Nat) (b : Bytes) : Bytes :=
  withFcs ((f.take o ++ b ++ f.drop (o + b.length)).take (f.length - 4))

/-- A consist frame (R189). -/
def consistBytes (n : Nat) (payload : Bytes) : Bytes := etherFrame 0x4F0000000001 n 0x88B5 payload

/-- CALL, ECHO, COMMIT and RESET leave outside control windows too (R190). -/
def relaySubtype (payload : Bytes) : Bool := [1, 2, 3, 6].contains (byteAt payload 0)

/-- The queue of a traffic class of a port, or of the Gable link for either lane (Table LDR-4). -/
def portQueue (n tc : Nat) : Nat := if n < 256 then 8 * n + tc else 6136 + tc

/-- The pool of CTL's own frames at a port: the control reserve of a ring, branch or Gable port. An edge port has none
(Table LDR-5), so its peer delay messages take standard cells (DESIGN CHOICE, log entry 148). -/
def State.ctlPool (s : State) (n : Nat) : Nat := if 256 ≤ n || s.isRingPort n then 1 else 5

/-- Puts a control frame into the reserve and the queue of its port, where the reserve has room (R29, R166, R173). -/
def State.placeControl (s : State) (c : CtlFrame) : Option State :=
  let k := cellsOf c.bytes.length
  let p := s.ctlPool c.port
  let i : Item := { bytes := c.bytes, lenValid := true, cls := .control, tc := c.tc, prio := 2 * c.tc + 1, relay := c.relay
                    charges := [⟨p, c.port, 0, k⟩], copies := 1, refs := 1, maxLen := c.bytes.length, ptpFrom := c.ptpFrom }
  if s.freeIn p c.port 0 < k then none
  else
    let w := s.storeItem i
    w.2.map (fun d => w.1.pushEntry (portQueue c.port c.tc) d)

/-- Waiting control frames take what room their reserves have, in the order of each port (log entry 124). They wait on CTL
while the fabric-control link is down (R23, R24). -/
def State.drainControl (s : State) : State :=
  if s.fio.linkDown.contains 0 then s else
  let r := s.ldr.ctlWait.foldl (fun (a : State × List CtlFrame) c =>
    if a.2.any (fun x => x.port == c.port) then (a.1, a.2 ++ [c])
    else match a.1.placeControl c with
      | some t => (t, a.2)
      | none => (a.1, a.2 ++ [c])) (s, [])
  { r.1 with ldr := { r.1.ldr with ctlWait := r.2 } }

/-- Sends a control frame on a port, or on the Gable link for 256: it enters the queue of its traffic class; one that
R190 lets leave at once preempts a preemptable frame in progress. -/
def State.sendControl (s : State) (n tc : Nat) (relay : Bool) (bytes : Bytes) (ptpFrom : Option Nat := none) : State :=
  let c : CtlFrame := { port := n, tc := tc, relay := relay, bytes := bytes, ptpFrom := ptpFrom }
  let s1 := ({ s with ldr := { s.ldr with ctlWait := s.ldr.ctlWait ++ [c] } } : State).drainControl
  if relay ∧ n < 256 then s1.preempt n else s1

/-! Stamps of lanes (R80, R105). The MAC stamps in raw units of 0.125 ns; the model takes a port's stamps at its first
lane. -/

/-- Measured receive and transmit latency of the first lane of a port, in 0.125 ns. -/
def State.latOf (s : State) (n : Nat) : Nat × Nat := Tab.get (0, 0) s.prt.lat n

/-- Lane deskew of a multi-lane mode, 8.0 ns in 0.125 ns (R105). -/
def State.deskewOf (s : State) (n : Nat) : Nat :=
  if n < 256 ∧ 1 < (lanesPerPort (s.f Fd.PGn_MODE_MODE [n / 8])).getD 1 then 64 else 0

/-- Index of a port in the time unit: the Gable link is 256 (R115). -/
def timeIx (n : Nat) : Nat := min n 256

/-- An ingress stamp at the RX balls, from the stamp of the MAC: less the receive latency, the deskew and the asymmetry of
the link (Table TIM-1, R83). -/
def State.rxStamp (s : State) (n mac : Nat) : Nat :=
  ((mac : Int) - (s.latOf n).1 - s.deskewOf n - sext 24 (s.f Fd.TU_PORTn_ASYM_ASYM [timeIx n])).toNat

/-- An egress stamp at the TX balls, from the stamp of the MAC. -/
def State.txStamp (s : State) (n mac : Nat) : Nat := mac + (s.latOf n).2

/-- The egress stamp of a frame that starts at raw count t: preamble and SFD take 8 bytes at the port rate. -/
def State.startStamp (s : State) (n t : Nat) : Nat := s.txStamp n (8 * t + 512 / max 1 (s.portRate n))

/-- The message type of a PTP frame. -/
def ptpTypeOf (f : Bytes) : Nat := byteAt f (ptpAt (parseFrame f) f) % 16

/-! Control frames for the protocols of CTL: 0 consist, 1 PTP, 2 pairing -/

/-- A received control frame goes to the CTL queue of its protocol, charged to the port it arrived by (R127, R173). Of the
PTP messages for this node Sync, Pdelay_Req and Pdelay_Resp are read; the others (Announce, Follow_Up and the rest) have
no effect of their own that the spec gives, and end here (DESIGN CHOICE, log entry 148). -/
def State.ctlDeliver (s : State) (proto n : Nat) (f : Bytes) : State :=
  let p := min n 256
  let k := cellsOf f.length
  let pool := s.ctlPool p
  if s.freeIn pool p 0 < k ∨ proto = 1 ∧ ¬ [0, 2, 3].contains (ptpTypeOf f) then s
  else
    let w := s.storeItem { bytes := f, lenValid := true, cls := .control, tc := 7, prio := 15, charges := [⟨pool, p, 0, k⟩]
                           copies := 1, refs := 1, inPort := n, maxLen := f.length }
    match w.2 with
    | some d => { w.1 with ldr := { w.1.ldr with
        ctlIn := Tab.set [] w.1.ldr.ctlIn proto (Tab.get [] w.1.ldr.ctlIn proto ++ [d]) } }
    | none => w.1

/-- Frames of a lane port do not reach CTL while the fabric-control link is down (R23, R24). -/
def State.ctlCut (s : State) (n : Nat) : Bool := s.fio.linkDown.contains 0 && decide (n < 256)

/-- The oldest frame from port n that waits for a protocol and meets a test. -/
def State.ctlFind (s : State) (proto n : Nat) (p : Bytes → Bool) : Option Bytes :=
  ((Tab.get [] s.ldr.ctlIn proto).find? (fun d => timeIx (s.item d).inPort == timeIx n && p (s.item d).bytes)).map
    (fun d => (s.item d).bytes)

/-- A protocol takes its oldest frame from port n, or from either Gable lane, that meets a test, if one waits, and releases
it (R161). -/
def State.ctlRead (s : State) (proto n : Nat) (p : Bytes → Bool) : State :=
  let ds := if s.ctlCut n then [] else Tab.get [] s.ldr.ctlIn proto
  match ds.find? (fun d => timeIx (s.item d).inPort == timeIx n && p (s.item d).bytes) with
  | some d => ({ s with ldr := { s.ldr with ctlIn := Tab.set [] s.ldr.ctlIn proto (ds.erase d) } }).freeItem d
  | none => s

/-- The payload of an untagged frame begins with p. -/
def payloadIs (p f : Bytes) : Bool := slice f 14 p.length == p

end Sys2Proof.Machine
end

