-- ==== Sys2Proof/Machine/TimeUnit.lean ====
section
/-! DEFINITION. The time unit (spec/03): the servo's pairs, time steps, captures, holdover, mastership, PPS and
TICK_OUT, PTP messages and peer delay. A received Sync and syntonisation are in Machine/Sync.lean. -/

namespace Sys2Proof.Machine

open Sys2Proof

/-- This node's EUI-64. -/
def ownEui : BitVec 64 := Config.eui64

/-- At least k Sync intervals of 2^-SYNC_IV s have passed since raw count r (Table TIM-2). -/
def State.syncPast (s : State) (r k : Nat) : Bool := decide (k * 1000000000 ≤ (s.raw - r) * 2 ^ s.f Fd.TU_CFG_SYNC_IV)

/-- 250 ppm and 10 ppm as RATE values (R75, R94). -/
def rateMax : Int := 70368744177
def addMax : Int := 2814749767

/-- OFFSET such that the reading at raw count e under a rate is q, in units of 2^-32 ns. -/
def offsetFor (rate : BitVec 48) (e : Nat) (q : Int) : BitVec 96 :=
  BitVec.ofInt 96 (q - ((e : Int) * 2 ^ 32 + ((e : Int) * rate.toInt) / 2 ^ 16))

/-- Puts a pair in force from its E on; the time unit keeps the last four (R76). -/
def State.putPair (s : State) (p : TimePair) : State :=
  { s with tu := { s.tu with pairs := (p :: s.tu.pairs.filter (fun q => decide (q.eff < p.eff))).take 4 } }

/-- Changes RATE at E with the reading at E unchanged; a correction beyond 250 ppm is clipped (R75, R76). -/
def State.setRate (s : State) (rate : Int) (eff : Nat) : State :=
  let r := clipInt (-rateMax) rateMax rate
  let s1 := if r = rate then s else s.raise Fd.TU_EVT_SERVO_LIMIT
  let bv := BitVec.ofInt 48 r
  let s2 := s1.putPair { rate := bv, ofs := offsetFor bv eff (s.readingAt eff), eff := eff }
  { s2 with tu := { s2.tu with lastChange := some eff, diff := none, syncFresh := false } }

/-- The added rate that removes a difference over 2^-iv s, clipped to ±10 ppm (R94). -/
def addedRate (diff : Int) (iv : Nat) : Int := clipInt (-addMax) addMax (diff * 2 ^ 16 * 2 ^ iv / 1000000000)

/-- The RATE in force. -/
def State.rateNow (s : State) : Int := (pairAt s.tu.pairs s.raw).rate.toInt

/-- A time step: the reading at raw count e becomes q, in units of 2^-32 ns, and the tick number follows (R77). -/
def State.timeStep (s : State) (q : Nat) (e : Nat) : State :=
  let rate := (pairAt s.tu.pairs s.raw).rate
  let s1 := s.putPair { rate := rate, ofs := offsetFor rate e q, eff := e }
  let tick := match s.tu.base with
    | some b => wrapInt 64 (((q / 2 ^ 32 : Nat) - (b.toNat : Int)) / (s.period : Int))
    | none => s.tu.tick
  let s2 := { s1 with tu := { s1.tu with tick := tick, hasTime := true, ppsOut := none, tickOut := none } }
  (s2.wrapF Fd.TU_STEP_CNT_STEPS).raise Fd.TU_EVT_STEP

/-- TU_TOD_CMD.SET: a time step to TOD at once while STATE is FREE; otherwise TOD_REFUSED (R77). -/
def State.todSet (s : State) : State :=
  if s.f Fd.TU_STAT_STATE = 0 then
    s.regate (fun u => u.timeStep ((s.rd64 Reg.TU_TOD_LO Reg.TU_TOD_HI).toNat * 2 ^ 32) s.raw)
  else s.logEvent 0x0580

def execTodSet (t : Nat) (party : Party) (s : State) : Out := .next ((s.clock t).hostWrite party).todSet

/-! Captures (R78) -/

/-- Word k of a number. -/
def wordAt (n k : Nat) : BitVec 32 := BitVec.ofNat 32 (n / 2 ^ (32 * k))

/-- A read of TU_NOW_FRAC captures raw and the whole reading. -/
def State.captureNow (s : State) (p : Party) : State :=
  let q := s.readingAt s.raw
  (((s.capture p Reg.TU_NOW_LO.base (wordAt q 1)).capture p Reg.TU_NOW_HI.base (wordAt q 2)).capture p
    Reg.TU_RAW_LO.base (wordAt s.raw 0)).capture p Reg.TU_RAW_HI.base (wordAt s.raw 1)

/-- A read of TU_OFS_FRAC captures the whole OFFSET. -/
def State.captureOfs (s : State) (p : Party) : State :=
  let o := (pairAt s.tu.pairs s.raw).ofs.toNat
  (s.capture p Reg.TU_OFS_LO.base (wordAt o 1)).capture p Reg.TU_OFS_HI.base (wordAt o 2)

/-- The words of TU_RATE_LO and TU_RATE_HI: RATE [31:0], and RATE [47:32] with the sign extension. -/
def State.rateLo (s : State) : BitVec 32 := BitVec.ofInt 32 s.rateNow
def State.rateHi (s : State) : BitVec 32 := BitVec.ofInt 32 (s.rateNow / 2 ^ 32)

/-- A read of TU_RATE_LO captures TU_RATE_HI. -/
def State.captureRate (s : State) (p : Party) : State := s.capture p Reg.TU_RATE_HI.base s.rateHi

/-- The word that a capturing read returns goes to the party. -/
def State.giveWord (s : State) (p : Party) (r : RegDesc) (v : BitVec 32) : State := s.emit (.read p r.base v)

def execTuNowCapture (t : Nat) (party : Party) (s : State) : Out :=
  let s := s.clock t
  .next ((s.captureNow party).giveWord party Reg.TU_NOW_FRAC (wordAt (s.readingAt s.raw) 0))

def execTuOfsCapture (t : Nat) (party : Party) (s : State) : Out :=
  let s := s.clock t
  .next ((s.captureOfs party).giveWord party Reg.TU_OFS_FRAC (wordAt (pairAt s.tu.pairs s.raw).ofs.toNat 0))

def execTuRateCapture (t : Nat) (party : Party) (s : State) : Out :=
  let s := s.clock t
  .next ((s.captureRate party).giveWord party Reg.TU_RATE_LO s.rateLo)

/-! Servo (R76, R94) -/

/-- A pair may take effect at E = eff: at least 1 µs after it is computed, and 976 µs after the E of the last one (R76). -/
def State.pairMay (s : State) (eff : Nat) : Bool :=
  decide (s.raw + 1000 ≤ eff) && (match s.tu.lastChange with | some l => decide (l + 976000 ≤ eff) | none => true)

/-- The servo may change the pair: a Sync has come from the master since the last change. -/
def State.servoMay (s : State) (eff : Nat) : Bool :=
  let st := s.f Fd.TU_STAT_STATE
  (st == 1 || st == 2) && s.tu.syncFresh && s.pairMay eff

/-- The servo sets RATE to its estimate of the master's frequency plus the added rate of R94, at E = eff. -/
def execServoPairChange (t : Nat) (est : Int) (eff : Nat) (s : State) : Out :=
  let s := s.clock t
  if s.servoMay eff then
    .next ((s.setRate (est + addedRate (s.tu.diff.getD 0) (s.f Fd.TU_CFG_SYNC_IV)) eff).set0 Fd.TU_STAT_STATE 2)
  else .next s

/-! Masters, holdover and syntonisation -/

/-- Makes a clock identity this node's master, and raises MASTER_CHG where it differs (R93, R200). -/
def State.setMaster (s : State) (m : BitVec 64) : State :=
  if s.tu.master = m then s
  else ({ s with tu := { s.tu with master := m, everLocked := false, diff := none, syncFresh := false } }).raise
    Fd.TU_EVT_MASTER_CHG

/-- The port n becomes the time source port; 1FFh is none (R87). -/
def State.sourcePort (s : State) (n : Nat) : State :=
  let old := s.f Fd.TU_STAT_SRC_PORT
  if old = n then s
  else
    let s1 := if old ≤ 256 then s.sf Fd.TU_PORTn_STAT_TIME_SRC [old] 0 else s
    let s2 := s1.set0 Fd.TU_STAT_SRC_PORT n
    if n ≤ 256 then s2.sf Fd.TU_PORTn_STAT_TIME_SRC [n] 1 else s2

/-- This node sends Sync as master: state MASTER, no time source port. -/
def State.becomeMaster (s : State) : State :=
  let s := (s.setMaster ownEui).set0 Fd.TU_STAT_STATE 4
  ({ s with tu := { s.tu with syncRef := s.raw } }).sourcePort 0x1FF

/-- HOLDOVER: two Sync intervals without Sync from the present master (R92). -/
def execHoldover (t : Nat) (s : State) : Out :=
  let s := s.clock t
  let st := s.f Fd.TU_STAT_STATE
  if (st = 1 ∨ st = 2) ∧ s.syncPast s.tu.syncRef 2 then
    .next ((s.set0 Fd.TU_STAT_STATE 3).raise Fd.TU_EVT_HOLDOVER)
  else .next s

/-- A backup of rank r becomes master after 2 + r Sync intervals without Sync (R93). -/
def execMasterChg (t : Nat) (s : State) : Out :=
  let s := s.clock t
  let r := s.f Fd.TU_STAT_RANK
  if r ≠ 0 ∧ s.f Fd.TU_STAT_STATE ≠ 4 ∧ s.syncPast s.tu.syncRef (2 + r) then .next s.becomeMaster
  else .next s

/-! PPS and TICK_OUT -/

/-- The whole second nearest to a reading in units of 2^-32 ns. -/
def nearestSecond (q : Nat) : Nat := (q + 500000000 * 2 ^ 32) / (1000000000 * 2 ^ 32) * (1000000000 * 2 ^ 32)

/-- This node is the master that PPS_IN steers; before the first inauguration commit, a node that can be master (R95, log
entry 127). -/
def State.ppsMaster (s : State) : Bool :=
  s.f Fd.TU_STAT_STATE == 4 || (!s.tu.committed && s.fb Fd.TU_CFG_GM_CAP)

/-- A PPS_IN edge is stamped, less the delay of the input buffer (R80); the master steers by it, no sooner than 976 µs
after its last change of the pair, or steps to a whole second before the first commit (R76, R95). The spec does not say
when PPS_LOCK changes: the first edge that steers or steps sets it, and only PPS_MISS clears it (DESIGN CHOICE, log entry
127). -/
def execPpsInEdge (t : Nat) (falling : Bool) (est : Int) (s : State) : Out :=
  let s := s.clock t
  if !s.fb Fd.TU_CFG_PPS_IN_EN || s.fb Fd.TU_CFG_PPS_IN_FALL != falling then .next s
  else
    let edge := s.raw - Config.ppsDelay
    let s1 := s.wr64 Reg.TU_PPS_IN_LO Reg.TU_PPS_IN_HI [] (BitVec.ofNat 64 (s.readingAt edge / 2 ^ 32))
    let s1 := { s1 with tu := { s1.tu with ppsInAt := some s.raw } }
    if s.ppsMaster then
      let q := s.readingAt edge
      let target := nearestSecond q
      if !s.tu.committed then .next ((s1.regate (fun u => u.timeStep target edge)).set0 Fd.TU_STAT_PPS_LOCK 1)
      else if s.pairMay (s.raw + 1000) then
        .next ((s1.setRate (est + addedRate ((target : Int) - q) 0) (s.raw + 1000)).set0 Fd.TU_STAT_PPS_LOCK 1)
      else .next s1
    else .next s1

/-- No PPS_IN edge for 1.1 s (R95). -/
def execPpsMiss (t : Nat) (s : State) : Out :=
  let s := s.clock t
  match s.tu.ppsInAt with
  | some a =>
    if s.fb Fd.TU_CFG_PPS_IN_EN && s.elapsed a 1100000000 then
      .next (({ s with tu := { s.tu with ppsInAt := none } }.set0 Fd.TU_STAT_PPS_LOCK 0).raise Fd.TU_EVT_PPS_MISS)
    else .next s
  | none => .next s

/-- A pin falls. -/
def State.fall (s : State) (pin : String) : State := s.emit (.pin pin false s.raw)

/-- An edge of PPS_OUT: it rises ADJ ns before each whole second, falls WIDTH ms later, and is low while STATE is FREE
(R96). A command at no such moment changes nothing. -/
def execPpsOutEdge (t : Nat) (s : State) : Out :=
  let s := s.clock t
  let x := (s.nowNs : Int) + sext 16 (s.f Fd.TU_PPS_OUT_ADJ)
  let off := !s.fb Fd.TU_PPS_OUT_EN || s.f Fd.TU_STAT_STATE == 0
  let s1 := match s.tu.ppsFall with
    | some f => if f ≤ s.raw || off then ({ s with tu := { s.tu with ppsFall := none } }).fall "PPS_OUT" else s
    | none => s
  if !off && x % 1000000000 ≤ 1 && s.tu.ppsOut != some (x / 1000000000) then
    let fall := s.raw + s.f Fd.TU_PPS_OUT_WIDTH * 1000000
    .next (({ s1 with tu := { s1.tu with ppsOut := some (x / 1000000000), ppsFall := some fall } }).emit
      (.pin "PPS_OUT" true s.raw))
  else .next s1

/-- The tick whose TICK_OUT edge is the latest due, ADJ ns before its instant, and the ns since that edge (R97). -/
def State.tickOutNow (s : State) : Option (Int × Int) :=
  s.tu.base.map (fun b =>
    let x := (s.nowNs : Int) + sext 16 (s.f Fd.TU_TICK_OUT_ADJ) - b.toNat
    (x / (s.period : Int), x % (s.period : Int)))

/-- High time of TICK_OUT in ns (R97). -/
def State.tickOutWidth (s : State) : Nat :=
  let w := s.f Fd.TU_TICK_OUT_WIDTH * 100
  if w = 0 ∨ s.period / 2 ≤ w then s.period / 2 else w

/-- An edge of TICK_OUT: it rises ADJ ns before each instant N with N mod 2^DIV = 0, and falls after its width (R97). A
command at no such moment changes nothing. -/
def execTickOutEdge (t : Nat) (s : State) : Out :=
  let s := s.clock t
  let off := !s.fb Fd.TU_TICK_OUT_EN
  let s1 := match s.tu.tickFall with
    | some f => if f ≤ s.raw || off then ({ s with tu := { s.tu with tickFall := none } }).fall "TICK_OUT" else s
    | none => s
  match s.tickOutNow with
  | some (n, past) =>
    if !off && past ≤ 1 && n % 2 ^ s.f Fd.TU_TICK_OUT_DIV == 0 && s.tu.tickOut != some n then
      .next (({ s1 with tu := { s1.tu with tickOut := some n, tickFall := some (s.raw + s.tickOutWidth) } }).emit
        (.pin "TICK_OUT" true s.raw))
    else .next s1
  | none => .next s1

/-! PTP messages (R84, R85, R91). The spec names IEEE 802.1AS and IEEE 1588 and gives no message layout: headers and bodies
are those of IEEE 1588-2019 as IEEE 802.1AS-2020 uses them (PRESUMED, log entry 126). -/

/-- Two's-complement number of 64 bits in network order. -/
def int64Bytes (i : Int) : Bytes := beBytes 8 (wrapInt 64 i)
def int64At (f : Bytes) (o : Nat) : Int := sext 64 (beAt f o 8)

/-- Adds a time in units of 2^-16 ns to the correctionField of the PTP message at an offset, with the FCS made anew. -/
def addCorr (f : Bytes) (o : Nat) (delta : Int) : Bytes := patchFrame f (o + 8) (int64Bytes (int64At f (o + 8) + delta))

/-- Header of a PTP message of port n: type, length, domain, flags, correctionField, clock identity and sequence number. -/
def ptpHeader (type len domain flags n seq : Nat) (corr : Int) (clock : BitVec 64) : Bytes :=
  beBytes 1 (16 + type) ++ beBytes 1 0x12 ++ beBytes 2 len ++ beBytes 1 domain ++ beBytes 1 0 ++ beBytes 2 flags
    ++ int64Bytes corr ++ beBytes 4 0 ++ beBytes 8 clock.toNat ++ beBytes 2 (n + 1) ++ beBytes 2 seq ++ beBytes 2 0

/-- A timestamp of seconds and ns. -/
def ptpTime (ns : Nat) : Bytes := beBytes 6 (ns / 1000000000) ++ beBytes 4 (ns % 1000000000)

/-- The next sequence number of messages of a type on a port. -/
def State.ptpSeq (s : State) (n type : Nat) : Nat × State :=
  let k := 16 * n + type
  let q := Tab.get 0 s.tu.ptpSeqs k
  (q, { s with tu := { s.tu with ptpSeqs := Tab.set 0 s.tu.ptpSeqs k ((q + 1) % 65536) } })

/-- Sends a PTP message on a time-aware port or a peer-to-peer port under the relay rule of R190 (R86). -/
def State.ptpSend (s : State) (n : Nat) (msg : Bytes) (from_ : Option Nat := none) : State :=
  s.sendControl n 7 true (etherFrame 0x0180C200000E n 0x88F7 msg) from_

/-- The tick reference TLV (Table TIM-5). -/
def tickRefBytes (r : TickRef) : Bytes :=
  beBytes 2 0x2004 ++ beBytes 2 r.length ++ beBytes 8 r.base.toNat ++ beBytes 1 r.period.toNat ++ beBytes 1 r.hyper.toNat
    ++ beBytes 2 0 ++ beBytes 8 r.tick.toNat ++ beBytes 4 r.inaug.toNat ++ beBytes 8 0

/-- The tick reference TLV at the start of bytes. -/
def tickRefAt (b : Bytes) : TickRef :=
  { length := beAt b 2 2, base := BitVec.ofNat 64 (beAt b 4 8), period := BitVec.ofNat 3 (byteAt b 12)
    hyper := BitVec.ofNat 4 (byteAt b 13), tick := BitVec.ofNat 64 (beAt b 16 8), inaug := BitVec.ofNat 32 (beAt b 24 4) }

/-- The first TLV of type 2004h in the suffix of a Sync, found within k TLVs (R91). -/
def findTickRef : Nat → Bytes → Option TickRef
  | 0, _ => none
  | k + 1, b =>
    if b.length < 4 then none
    else if beAt b 0 2 = 0x2004 then some (tickRefAt b)
    else findTickRef k (b.drop (4 + beAt b 2 2))

def syncTickRef (m : SyncMsg) : Option TickRef := findTickRef m.suffix.length m.suffix

/-- The tick reference TLV that this node sends as master (R91). -/
def State.ownTickRef (s : State) : TickRef :=
  { length := 32, base := s.tu.base.getD 0, period := BitVec.ofNat 3 (s.f Fd.TKE_CFG_PERIOD_K)
    hyper := BitVec.ofNat 4 (s.f Fd.TKE_CFG_HC_LOG), tick := BitVec.ofNat 64 s.tu.tick, inaug := s.rd Reg.CST_INAUG }

/-- A one-step Sync as it leaves port n: the flag ptpTimescale, the origin, and the TLVs (R84, R91). -/
def State.syncBytes (s : State) (n seq : Nat) (m : SyncMsg) : Bytes :=
  ptpHeader 0 (44 + m.suffix.length) m.domain.toNat (if s.fb Fd.TU_CFG_ARB then 0 else 8) n seq m.corr m.master
    ++ ptpTime m.origin.toNat ++ m.suffix

/-- Sends a Sync on port n; its correctionField takes the residence time from an ingress stamp on when it leaves (R85). -/
def State.sendSync (s : State) (n from_ : Nat) (m : SyncMsg) : State :=
  let q := s.ptpSeq n 0
  q.2.ptpSend n (s.syncBytes n q.1 m) (some from_)

/-- The time-aware ports but one (R84). -/
def State.timePorts (s : State) (but : Option Nat) : List Nat :=
  (List.range 257).filter (fun n => s.f Fd.TU_PORTn_CFG_ROLE [n] == 1 && but != some n)

/-- The master sends Sync on its time-aware ports every Sync interval (R84, R90). -/
def execSyncSend (t : Nat) (s : State) : Out :=
  let s := s.clock t
  let due : Bool := match s.tu.syncSent with | some l => s.syncPast l 1 | none => true
  if s.f Fd.TU_STAT_STATE = 4 ∧ due then
    let m : SyncMsg := { domain := BitVec.ofNat 8 (s.f Fd.TU_CFG_DOMAIN), master := ownEui
                         origin := BitVec.ofNat 64 s.nowNs, corr := ((s.readingAt s.raw % 2 ^ 32 / 2 ^ 16 : Nat) : Int)
                         suffix := if s.tu.base.isSome then tickRefBytes s.ownTickRef else [] }
    .next ((s.timePorts none).foldl (fun s n => s.sendSync n (s.readingAt s.raw) m)
      { s with tu := { s.tu with syncSent := some s.raw } })
  else .next s

/-- A time-aware port, and a peer-to-peer transparent clock, starts a peer delay exchange every Pdelay interval; an exchange
that the peer has not answered by then ends ASCAPABLE (R84, Table TIM-2). -/
def execPdelayRequest (t : Nat) (port : Fin 257) (s : State) : Out :=
  let s := s.clock t
  let n := port.val
  let p := Tab.get {} s.tu.pdelay n
  let due : Bool := match p.lastSent with
    | some l => decide (1000000000 ≤ (s.raw - l) * 2 ^ s.f Fd.TU_CFG_PDELAY_IV)
    | none => true
  if s.fb Fd.TU_PORTn_CFG_ROLE [n] ∧ due then
    let s1 := if p.answered then s else s.sf Fd.TU_PORTn_STAT_ASCAPABLE [n] 0
    let s2 := { s1 with tu := { s1.tu with pdelay := Tab.set {} s1.tu.pdelay n { lastSent := some s.raw, answered := false } } }
    let q := s2.ptpSeq n 2
    .next (q.2.ptpSend n (ptpHeader 2 54 (s.f Fd.TU_CFG_DOMAIN) 0 n q.1 0 ownEui ++ List.replicate 20 0))
  else .next s

/-- Mean link delay in units of 0.125 ns, from the four stamps and the neighbour rate ratio. -/
def meanDelay (tx peerRx peerTx rx : Nat) (ratio : Int) : Int :=
  let turn := (rx : Int) - tx
  (turn + turn * ratio / 2 ^ 41 - ((peerTx : Int) - peerRx)) / 2

/-- A Pdelay_Resp for a request of a peer, with the time of its receipt; flag twoStep. -/
def State.pdelayResp (s : State) (n rx : Nat) (source : BitVec 80) (seq : BitVec 16) : Bytes :=
  let q := s.stampAt rx
  ptpHeader 3 54 (s.f Fd.TU_CFG_DOMAIN) 0x0200 n seq.toNat (-((q % 2 ^ 32 / 2 ^ 16 : Nat) : Int)) ownEui
    ++ ptpTime (q / 2 ^ 32) ++ beBytes 10 source.toNat

/-- The Pdelay_Resp_Follow_Up of a Pdelay_Resp, with the consist time of its sending in units of 2^-32 ns. -/
def pdelayFollowUp (n : Nat) (resp : Bytes) (q : Nat) : Bytes :=
  let m := ptpAt (parseFrame resp) resp
  ptpOver n resp 320 (ptpHeader 10 54 (byteAt resp (m + 4)) 0 n (beAt resp (m + 30) 2)
    ((q % 2 ^ 32 / 2 ^ 16 : Nat) : Int) ownEui ++ ptpTime (q / 2 ^ 32) ++ slice resp (m + 44) 10)

/-- A request is answered over the transport that it came by; a response updates the measured mean link delay. The stamps
of this node are those of the MAC (R80, R84). -/
def execPdelayMessageReceived (t : Nat) (port : Fin 257) (msg : PdelayMsg) (s : State) : Out :=
  let s := s.clock t
  let n := port.val
  if !s.fb Fd.TU_PORTn_CFG_ROLE [n] ∨ s.ctlCut n then .next s
  else
    let like := (s.ctlFind 1 n (fun f => ptpTypeOf f == msg.type)).getD []
    let s := s.ctlRead 1 n (fun f => ptpTypeOf f == msg.type)
    match msg with
    | .request rx source seq => .next (s.sendControl n 7 true (ptpOver n like 319 (s.pdelayResp n (s.rxStamp n rx) source seq)))
    | .response tx peerRx peerTx rx ratio =>
      let p := Tab.get {} s.tu.pdelay n
      let d := meanDelay (s.txStamp n tx) peerRx peerTx (s.rxStamp n rx) ratio
      let s1 := { s with tu := { s.tu with pdelay := Tab.set {} s.tu.pdelay n { p with answered := true } } }
      let s2 := s1.sf Fd.TU_PORTn_DELAY_DELAY [n] (wrapInt 24 d)
      .next (if s.f Fd.TU_PORTn_CFG_ROLE [n] = 1 then s2.sf Fd.TU_PORTn_STAT_ASCAPABLE [n] 1 else s2)

/-- The mean link delay of a port in units of 2^-16 ns; its asymmetry is in the ingress stamps (R83, Table TIM-1). -/
def State.linkDelay (s : State) (n : Nat) : Int := (s.f Fd.TU_PORTn_DELAY_DELAY [timeIx n] : Int) * 8192

/-- Residence time from an ingress stamp in consist time to an egress stamp, in units of 2^-16 ns (R81, R85). -/
def State.residence (s : State) (ingress egress : Nat) : Int := ((s.stampAt egress : Int) - ingress) / 2 ^ 16

end Sys2Proof.Machine
end

