-- ==== Sys2Proof/Machine/Consist.lean ====
section
/-! DEFINITION. Consist formation and numbering (spec/07): consist frames, rounds, election, census, numbering, commit
and the frames that are relayed. Sides: 0 East, 1 West, 2 + j BRj; ring r of a node holds sides 2r and 2r + 1. -/

namespace Sys2Proof.Machine

open Sys2Proof

/-! Sides and links (R186, R192) -/

/-- The state of port n: UP or DEGRADED (Table PRT-3). -/
def State.portState (s : State) (n : Nat) : Nat := s.f Fd.PGn_Pp_STAT_STATE [n / 8, n % 8]
def State.portUp (s : State) (n : Nat) : Bool := s.portState n == 6 || s.portState n == 7

/-- The port carries frames: up, and not held down by remote faults (R109). -/
def State.linkUp (s : State) (n : Nat) : Bool :=
  s.portUp n && !s.fb Fd.PGn_Pp_STAT_RF [n / 8, n % 8] && decide (Tab.get 0 s.prt.rfEnd n ≤ s.raw)

def State.sideUp (s : State) (k : Nat) : Bool := s.cst.up.contains k

/-- The sides that are up for the consist. -/
def State.upSides (s : State) : List Nat := (List.range 8).filter s.sideUp

/-- The side of a ring on which port k leads into it: a branch port without its partner is the first side of its sub-chain
(R187, Table CST-1). -/
def State.sideNo (s : State) (k : Nat) : Nat := if 2 ≤ k ∧ (s.sidePort (k - k % 2)).isNone then 0 else k % 2

/-- Sends a consist frame on a side: as a control frame of its port, under the relay rule where R190 names it. -/
def State.sendSide (s : State) (k : Nat) (p : Bytes) : State :=
  match s.sidePort k with
  | some n => s.sendControl n 7 (relaySubtype p) (consistBytes n p)
  | none => s

/-- Sends a frame on every ring and branch port that carries frames but one, up for the consist or not (R193, R207). -/
def State.flood (s : State) (but : Option Nat) (p : Bytes) : State :=
  ((List.range 8).filter (fun k => (s.sidePort k).any s.linkUp && but != some k)).foldl (fun s k => s.sendSide k p) s

/-! Frames (Tables CST-2 and CST-3) -/

def cfSubtype (p : Bytes) : Nat := byteAt p 0
def cfVersion (p : Bytes) : Nat := byteAt p 1 % 16
def cfReq (p : Bytes) : Bool := bitAt (byteAt p 1) 4
def cfRound (p : Bytes) : Nat := beAt p 2 2
def cfCand (p : Bytes) : BitVec 64 := BitVec.ofNat 64 (beAt p 4 8)
def cfPrio (p : Bytes) : Nat := byteAt p 12
def cfTick (p : Bytes) : Nat := byteAt p 13
def cfNonce (p : Bytes) : BitVec 32 := BitVec.ofNat 32 (beAt p 16 4)

/-- A payload with its common header, filled with 0 to its length. -/
def cstPayload (len subtype req round : Nat) (cand : BitVec 64) (prio tick : Nat) (body : Bytes) : Bytes :=
  slice (beBytes 1 subtype ++ beBytes 1 (1 + 16 * req) ++ beBytes 2 round ++ beBytes 8 cand.toNat ++ beBytes 1 prio
    ++ beBytes 1 tick ++ beBytes 2 0 ++ body) 0 len

/-- Sets REQ in a CALL. -/
def setReq (p : Bytes) : Bytes := p.take 1 ++ beBytes 1 (byteAt p 1 % 16 + 16) ++ p.drop 2

/-- The TICK byte of this node: PERIOD_K and HC_LOG. -/
def State.tickByte (s : State) : Nat := s.f Fd.TKE_CFG_PERIOD_K + 16 * s.f Fd.TKE_CFG_HC_LOG

def State.headPrio (s : State) : Nat := s.f Fd.CST_CFG_HEAD_PRIO
def State.cstState (s : State) : Nat := s.f Fd.CST_STAT_STATE
def State.committedHead (s : State) : BitVec 64 := s.rd64 Reg.CST_HEAD_LO Reg.CST_HEAD_HI
def State.inaugNo (s : State) : Nat := (s.rd Reg.CST_INAUG).toNat

/-- A 64-byte frame that carries the sender's current head with its HEAD_PRIO, TICK and ROUND (Table CST-2); a node that no
commit has numbered has no head, and puts its own HEAD_PRIO and TICK (DESIGN CHOICE, log entry 130). -/
def State.headFrame (s : State) (subtype : Nat) (body : Bytes) (len : Nat := 46) : Bytes :=
  if s.cst.numbered then
    cstPayload len subtype 0 s.cst.headRound s.cst.head s.cst.headPrio s.cst.headTick body
  else cstPayload len subtype 0 s.cst.last s.committedHead s.headPrio s.tickByte body

/-- A node in MISMATCH or IDENTITY_CONFLICT (R194, R202). -/
def State.outside (s : State) : Bool := s.cstState == 5 || s.cstState == 6

/-- A consist frame that arrives on a port that is no ring or branch port, or with a wrong VERSION or an unlisted SUBTYPE,
is discarded and counted; another goes to its handler with its side (R189). None reaches CTL while the fabric-control link
is down (R23). -/
def State.consistFrame (s : State) (port : Nat) (p : Bytes) (f : State → Nat → State) : State :=
  if s.ctlCut port then s else
  let s := s.ctlRead 0 port (payloadIs p)
  match s.sideOf port with
  | some k =>
    if cfVersion p ≠ 1 ∨ cfSubtype p < 1 ∨ 7 < cfSubtype p then s.bump Reg.CST_BAD_FRAME
    else f s k
  | none => s.bump Reg.CST_BAD_FRAME

/-- Residence time of a relayed frame in ns: a free value within the 300 ns of R190 (log entry 3). -/
def State.drawResidence (s : State) : Nat × State :=
  let r := s.drawFree
  (r.1.toNat % 301, r.2)

/-- Mean link delay of a port in units of 0.125 ns. -/
def State.delay8 (s : State) (k : Nat) : Nat :=
  match s.sidePort k with | some n => s.f Fd.TU_PORTn_DELAY_DELAY [n] | none => 0

/-! Candidates (R194) -/

/-- The first candidate is better than the second. -/
def better (p1 : Nat) (e1 : BitVec 64) (p2 : Nat) (e2 : BitVec 64) : Bool :=
  decide (p1 < p2) || (p1 == p2 && decide (e1.toNat < e2.toNat))

/-- This node's best candidate among itself and the round that it adopted; a node in MISMATCH or IDENTITY_CONFLICT is no
candidate itself (R194). Of the rounds that a node has adopted only the present one counts: the spec does not say how long an
adopted round counts (DESIGN CHOICE, log entry 154). -/
def State.best (s : State) : Option (Nat × BitVec 64) :=
  let own := if s.outside then none else some (s.headPrio, ownEui)
  match s.cst.round with
  | some r =>
    if r.parent.isNone then own
    else if !s.outside && better s.headPrio ownEui r.prio r.cand then own
    else some (r.prio, r.cand)
  | none => own

/-! Sending CALL, REQ and ECHO -/

/-- The CALL of a round as it leaves on side k: HOP + 1 on the parent's ring, and HOP 1 with a new SIDE and LEVEL + 1
toward the hosted rings; the rings of an originator start from its own ring (Table CST-1, R194, R195). -/
def State.callFor (s : State) (r : CstRound) (k res : Nat) : Bytes :=
  let onRing : Bool := match r.parent with | some a => decide (k / 2 = a / 2) | none => false
  let hop := if onRing then r.hop + 1 else 1
  let side := if onRing then r.side else s.sideNo k
  let level := if onRing then r.level else if r.parent.isNone ∧ k < 2 then 0 else r.level + 1
  let root := if onRing then r.subroot else ownEui
  cstPayload 46 1 0 r.round r.cand r.prio r.tick (beBytes 4 r.nonce.toNat ++ beBytes 2 hop
    ++ beBytes 1 (side + 2 * level) ++ beBytes 1 0 ++ beBytes 4 s.inaugNo ++ beBytes 4 (r.span + res)
    ++ beBytes 8 root.toNat)

/-- Sends the CALL of a round on every side up but its parent. -/
def State.sendCalls (s : State) (r : CstRound) : State :=
  (s.upSides.filter (fun k => r.parent != some k)).foldl (fun s k =>
    let d := s.drawResidence
    d.2.sendSide k (d.2.callFor r k d.1)) s

/-- This node's NONCE and INAUG, as a REQ carries them (R193). -/
def State.reqBody (s : State) : Bytes := beBytes 4 s.cst.nonce.toNat ++ beBytes 4 0 ++ beBytes 4 s.inaugNo

/-- A REQ that names the candidate of a round (R195). -/
def State.reqFor (s : State) (r : CstRound) : Bytes := cstPayload 46 1 1 r.round r.cand r.prio r.tick s.reqBody

/-- A REQ that names this node's current head (R193). -/
def State.reqPayload (s : State) : Bytes := setReq (s.headFrame 1 s.reqBody)

/-- Floods a REQ for the present head; its own NONCE counts as seen, so that it does not relay its own REQ. -/
def State.floodReq (s : State) : State :=
  ({ s with cst := { s.cst with reqs := (s.cst.nonce :: s.cst.reqs.filter (· != s.cst.nonce)).take 16 } } : State).flood
    none s.reqPayload

/-- Starts a head wait where none runs (R193). -/
def State.startHeadWait (s : State) : State :=
  if s.cst.headWait.isSome then s else { s with cst := { s.cst with headWait := some s.raw } }

/-! Census (R196, R199) -/

def State.portRes (s : State) (k : Nat) : PortRes :=
  match s.cst.round with | some r => Tab.get .waiting r.ports k | none => .empty

/-- What the child on a side reported. -/
def State.childOf (s : State) (k : Nat) : EchoSum := match s.portRes k with | .child e => e | _ => {}

def State.isChild (s : State) (k : Nat) : Bool := match s.portRes k with | .child _ => true | _ => false

/-- M and size of the ring r hosted by this node (R196). -/
def State.ringSize (s : State) (r : Nat) : Nat × Nat :=
  let a := s.childOf (2 * r)
  let b := s.childOf (2 * r + 1)
  let m := a.ringNodes + b.ringNodes
  (m, m + a.treeNodes + b.treeNodes)

/-- The ring through which the round reached this node; an originator's own ring is its main ring. -/
def State.ringIn (s : State) : Nat := match s.cst.round with | some r => (r.parent.getD 0) / 2 | none => 0

/-- The rings that this node hosts as sub-root, in the order of R197. -/
def State.hosted (s : State) : List Nat := (List.range 4).filter (fun r => r != s.ringIn)

def State.hostedSizes (s : State) : List (Nat × Nat) := s.hosted.map s.ringSize

/-- The node's own time key where it can be master (R89, Table CST-3). -/
def State.ownTimeKey (s : State) : List Nat :=
  if s.fb Fd.TU_CFG_GM_CAP then
    let q := Config.clockIdentity.toNat
    [s.f Fd.TU_CFG_TIME_PREC * 2 ^ 120 + q * 2 ^ 72 + ownEui.toNat]
  else []

/-- The best four time keys of two ordered lists (R89). -/
def bestFour (a b : List Nat) : List Nat := (mergeKeys a b).take 4

def State.children (s : State) : List EchoSum := ((List.range 8).filter s.isChild).map s.childOf

/-- PREV bits of this node: it was the head's previous master or rank (R196). -/
def State.ownPrev (s : State) : Nat :=
  match s.cst.round with
  | some r =>
    if s.cst.numbered ∧ s.cst.head = r.cand then
      sumNat ((List.range 4).map (fun i => if s.cst.masters[i]? = some ownEui then 2 ^ i else 0))
    else 0
  | none => 0

/-- This node's own CHANGED (R199). -/
def State.ownChanged (s : State) : Bool :=
  match s.cst.round with
  | some r => decide (s.cst.head ≠ r.cand ∨ s.cst.subroot ≠ r.subroot ∨ s.cst.sizes ≠ s.hostedSizes)
  | none => false

/-- The combined report of this node's subtree, RING_NODES and TREE_NODES as an ECHO carries them (R196). -/
def State.echoSum (s : State) : EchoSum :=
  let span := s.cst.round.elim 0 (·.span)
  let parent := s.cst.round.bind (·.parent)
  let partner := match parent with | some a => s.childOf (if a % 2 = 0 then a + 1 else a - 1) | none => {}
  let kids := s.children
  { ringNodes := (if s.outside then 0 else 1) + partner.ringNodes
    treeNodes := partner.treeNodes + sumNat (s.hostedSizes.map (·.2))
    maxSpan := kids.foldl (fun m e => max m e.maxSpan) span
    renumMax := kids.foldl (fun m e => max m e.renumMax) (s.rd Reg.CST_RENUM).toNat
    prev := kids.foldl (fun m e => m ||| e.prev) s.ownPrev
    changed := kids.foldl (fun m e => m || e.changed) s.ownChanged
    tcand := kids.foldl (fun l e => bestFour l e.tcand) s.ownTimeKey }

def echoBody (e : EchoSum) : Bytes :=
  let keys_ := e.tcand.map (beBytes 16)
  beBytes 2 e.ringNodes ++ beBytes 2 0 ++ beBytes 4 e.treeNodes ++ beBytes 4 e.maxSpan ++ beBytes 4 e.renumMax
    ++ beBytes 1 (e.prev + 16 * b2n e.changed) ++ beBytes 3 0 ++ keys_.flatten
    ++ List.replicate (64 - 16 * keys_.length) 0xFF

/-- The report in an ECHO's payload; an unused TCAND is all FFh. -/
def echoOf (p : Bytes) : EchoSum :=
  { ringNodes := beAt p 20 2, treeNodes := beAt p 24 4, maxSpan := beAt p 28 4, renumMax := beAt p 32 4
    prev := byteAt p 36 % 16, changed := bitAt (byteAt p 36) 4
    tcand := ((List.range 4).map (fun i => beAt p (40 + 16 * i) 16)).filter (· != 2 ^ 128 - 1) }

/-! Numbering (R197, R198) -/

/-- Bases of the hosted rings and the accumulator after them: forward on the first side, backward on the second. -/
def ringBases : List (Nat × Nat × Nat) → Nat → Nat → List (Nat × Nat) × Nat
  | [], _, acc => ([], acc)
  | (r, _, size) :: rs, side, acc =>
    if side = 0 then
      let x := ringBases rs side (acc + size)
      ((r, acc) :: x.1, x.2)
    else
      let x := ringBases rs side (acc - size)
      ((r, acc - size) :: x.1, x.2)

/-- A COMMIT as it leaves on side k. -/
def commitPayload (r : CstRound) (m side level first acc inaug renum tick base send corr : Nat)
    (masters : List (BitVec 64)) (total : Nat) : Bytes :=
  cstPayload 104 3 0 r.round r.cand r.prio r.tick (beBytes 4 r.nonce.toNat ++ beBytes 2 m
    ++ beBytes 1 (side + 2 * level) ++ beBytes 1 0 ++ beBytes 4 first ++ beBytes 4 acc ++ beBytes 4 inaug
    ++ beBytes 4 renum ++ beBytes 8 tick ++ beBytes 8 base ++ beBytes 8 send ++ beBytes 4 corr
    ++ (List.range 4).flatMap (fun i => beBytes 8 ((masters[i]?).elim (2 ^ 64 - 1) (·.toNat))) ++ beBytes 4 total)

/-- What a COMMIT carries the same everywhere. -/
structure CommitInfo where
  inaug : Nat
  renum : Nat
  tick : Nat
  base : Nat
  send : Nat
  corr : Nat
  masters : List (BitVec 64)
  total : Nat
  deriving DecidableEq, Repr

/-- Sends a COMMIT on a child side with a residence time added to CORR, in units of 2^-8 ns (R190). -/
def State.sendCommit (s : State) (r : CstRound) (c : CommitInfo) (k m side level first acc : Nat) : State :=
  if s.isChild k then
    let d := s.drawResidence
    d.2.sendSide k (commitPayload r m side level first acc c.inaug c.renum c.tick c.base c.send (c.corr + 256 * d.1)
      c.masters c.total)
  else s

/-- Sends COMMIT into the hosted rings, each with its base, M and size (R198). -/
def State.commitRings (s : State) (r : CstRound) (c : CommitInfo) (bases : List (Nat × Nat)) : State :=
  bases.foldl (fun s b =>
    let x := s.ringSize b.1
    let v := s.sideNo (2 * b.1 + 1)
    (s.sendCommit r c (2 * b.1) x.1 0 (r.level + 1) b.2 (b.2 + x.1)).sendCommit r c (2 * b.1 + 1) x.1 v (r.level + 1)
      b.2 (if v = 0 then b.2 + x.1 else b.2 + x.2)) s

def State.setCstState (s : State) (n : Nat) : State := if s.outside then s else s.set0 Fd.CST_STAT_STATE n

def State.setRound (s : State) (r : CstRound) : State := { s with cst := { s.cst with round := some r } }

/-- TICK_BASE that a head without one fixes: a whole second on the PTP timescale, any value on the arbitrary one, at or
below the reading; which one is free (R79, log entry 3). -/
def State.fixBase (s : State) : Nat × State :=
  match s.tu.base with
  | some b => (b.toNat, s)
  | none =>
    let d := s.drawFree
    let now := s.nowNs
    if s.fb Fd.TU_CFG_ARB then (now - d.1.toNat % (now + 1), d.2)
    else
      let sec := now / 1000000000
      ((sec - d.1.toNat % (sec + 1)) * 1000000000, d.2)

/-- Time master and ranks of a commit: R89 over the candidates, or the highest-ranked surviving backup where the head's
previous master is absent (R200). -/
def chooseMasters (keys_ : List Nat) (prev : Nat) (old : List (BitVec 64)) : List (BitVec 64) :=
  let cands := keys_.map (fun k => BitVec.ofNat 64 k)
  let none_ : BitVec 64 := BitVec.allOnes 64
  let backup := if old = [] ∨ bitAt prev 0 then none
    else ((List.range 4).filter (fun i => i != 0 && bitAt prev i)).findSome? (fun i => old[i]?)
  let master := match backup with | some b => b | none => cands.headD none_
  let ranks := (cands.filter (· != master)).take 3
  master :: (ranks ++ List.replicate (3 - ranks.length) none_)

/-- The first tick whose instant lies at or after a reading, under a base. -/
def State.tickAfter (s : State) (base q : Nat) : Nat := (q - base + s.period - 1) / s.period

/-- The candidate has completed its census: it sets the numbering values, sends COMMIT on both sides of each ring and
goes to PENDING as head (R198 to R200). -/
def State.census (s : State) (r : CstRound) : State :=
  let e := s.echoSum
  let east := s.childOf 0
  let west := s.childOf 1
  let n0 := 1 + east.ringNodes + west.ringNodes
  let total := n0 + east.treeNodes + west.treeNodes + sumNat (s.hostedSizes.map (·.2))
  let changed := e.changed || total != s.cst.total || n0 != s.cst.n0
  let renum := e.renumMax + b2n changed
  let b := s.fixBase
  let s1 := b.2
  let now := s1.nowNs
  let tc := (now - b.1) / s1.period
  let tick := max (tc + 2) (s1.tickAfter b.1 (now + s1.period + 2000))
  let c : CommitInfo := { inaug := s.inaugNo + 1, renum := renum, tick := tick, base := b.1, send := now, corr := 0
                          masters := chooseMasters e.tcand e.prev s.cst.masters, total := total }
  let rb := ringBases (s.hosted.map (fun k => (k, s.ringSize k))) 0 (n0 + 1)
  let s2 := ((s1.sendCommit r c 0 (n0 - 1) 0 0 2 rb.2).sendCommit r c 1 (n0 - 1) 1 0 2 (total + 1)).commitRings
    { r with level := 0 } c rb.1
  let plan : CommitPlan := {
    pos := 1, dir := false, level := 0, dateline := true, head := ownEui, subroot := ownEui, inaug := c.inaug
    renum := renum, tick := tick, base := BitVec.ofNat 64 b.1, masters := c.masters, total := total, ring := n0
    prio := r.prio, headTick := r.tick, round := r.round, sizes := s.hostedSizes, tooMany := false, out := false, diff := 0 }
  let s3 := { s2 with cst := { s2.cst with plan := some plan, round := some { r with phase := .pending }, fails := 0
                                           n0 := n0, restart := false } }
  let s4 := ((s3.set0 Fd.CST_STAT_HEAD 1).set0 Fd.CST_SPAN_SPAN e.maxSpan).wr64 Reg.CST_COMMIT_LO Reg.CST_COMMIT_HI []
    (BitVec.ofNat 64 tick)
  let s5 := s4.setCstState 3
  if s.period < e.maxSpan then s5.raise Fd.CST_EVT_SPAN_LONG [] e.maxSpan else s5

/-- Every onward port of the round is resolved: the candidate completes the census, another node echoes (R196). -/
def State.resolve (s : State) : State :=
  match s.cst.round with
  | some r =>
    if r.phase = .roll ∧ (List.range 8).all (fun k => r.parent == some k || Tab.get .waiting r.ports k != .waiting) then
      match r.parent with
      | none => s.census r
      | some a =>
        let p := cstPayload 104 2 0 r.round r.cand r.prio r.tick (beBytes 4 r.nonce.toNat ++ echoBody s.echoSum)
        ((s.setRound { r with phase := .echoed }).setCstState 2).sendSide a p
    else s
  | none => s

/-- Resolves one onward port where it is still open (R196). -/
def State.resolvePort (s : State) (k : Nat) (x : PortRes) : State :=
  match s.cst.round with
  | some r =>
    if r.parent ≠ some k ∧ Tab.get .waiting r.ports k = .waiting ∧ r.phase = .roll then
      (s.setRound { r with ports := Tab.set .waiting r.ports k x }).resolve
    else s
  | none => s

/-- The ports of a fresh round: sides that are down are empty. -/
def State.freshPorts (s : State) (parent : Option Nat) : Tab PortRes :=
  ((List.range 8).filter (fun k => !s.sideUp k && parent != some k)).foldl (fun m k => Tab.set .waiting m k .empty) []

/-- A node originates a round that names itself (R194). A node in MISMATCH or IDENTITY_CONFLICT never does. -/
def State.originate (s : State) : State :=
  if s.outside then s
  else
    let n := (s.cst.last + 1) % 65536
    let r : CstRound := {
      cand := ownEui, prio := s.headPrio, tick := s.tickByte, round := n, nonce := s.cst.nonce, base := s.inaugNo
      parent := none, hop := 0, side := 0, level := 0, span := 0, subroot := ownEui, since := s.raw
      ports := s.freshPorts none }
    let s1 := { s with cst := { s.cst with last := n, headWait := none, round := some r, restart := false } }
    ((((s1.bump Reg.CST_ROUNDS).setCstState 1).set0 Fd.CST_STAT_HEAD 0).sendCalls r).resolve

/-- A trigger (R193): recorded while PENDING, acted on in RUN, where a head originates its next round. -/
def State.trigger (s : State) : State :=
  if s.cstState = 3 then { s with cst := { s.cst with trig := true } }
  else if s.cstState = 4 then
    let s1 := s.floodReq.startHeadWait
    if s.fb Fd.CST_STAT_HEAD then s1.originate else s1
  else s

/-- The IDENT of this node on each of its ring and branch ports (R204). -/
def State.ownIdents (s : State) : List (Nat × Bytes) :=
  ((List.range 8).filter (fun k => (s.sidePort k).isSome)).map (fun k =>
    (k, s.headFrame 5 (beBytes 8 ownEui.toNat ++ beBytes 4 s.cst.nonce.toNat)))

/-- This node shares its EUI-64 with another: it is no candidate any longer, so a round of its own ends, and a pending
commit takes its position (R194, R202, R204). -/
def State.identityConflict (s : State) : State :=
  if s.cstState = 0 ∨ s.cstState = 6 then s
  else
    let s1 := (s.set0 Fd.CST_STAT_STATE 6).raise Fd.CST_EVT_IDENTITY_CONFLICT
    ({ s1 with cst := { s1.cst with
        identQ := s1.cst.identQ ++ s1.ownIdents, restart := false, round := s1.cst.round.filter (fun r => r.parent.isSome)
        plan := s1.cst.plan.map (fun c => { c with out := true }) } } : State).floodReq

/-- A frame of a round names this node's EUI-64 with a NONCE that it did not draw, which brings the node into
IDENTITY_CONFLICT. In that state it handles such a frame as any other (R202). -/
def State.foreignSelf (s : State) (p : Bytes) : Bool := cfCand p == ownEui && cfNonce p != s.cst.nonce && s.cstState != 6

/-! HELLO (R192) -/

/-- A side goes up for the consist, which triggers an inauguration. -/
def State.sideGoesUp (s : State) (k : Nat) : State :=
  if s.sideUp k then s else ({ s with cst := { s.cst with up := insKey k s.cst.up } }).trigger

/-- A side goes down for the consist: an open port of the round becomes empty, and an inauguration is triggered. -/
def State.sideGoesDown (s : State) (k : Nat) : State :=
  if s.sideUp k then
    (({ s with cst := { s.cst with up := s.cst.up.filter (· != k) }
               asd := { s.asd with otherTick := if s.asd.direct = some k then s.asd.otherTick else s.strobes } }).resolvePort k
      .empty).trigger
  else s

/-- The HELLO that this node sends. -/
def State.helloPayload (s : State) : Bytes :=
  s.headFrame 4
    (beBytes 8 ownEui.toNat ++ beBytes 2 (s.f Fd.CST_STAT_POSITION)
      ++ beBytes 1 (s.f Fd.CST_STAT_DIR + 2 * s.cstState) ++ beBytes 1 0 ++ beBytes 4 s.inaugNo
      ++ beBytes 4 (s.rd Reg.CST_RENUM).toNat)

/-- Ticks that have begun, or local P-periods before the first commit (R192); no commit changes this count. -/
def State.tickCount (s : State) : Nat := s.strobes

/-- A HELLO arrives on a side: the side goes up, and another head or INAUG than this node's is a trigger, which waits
while PENDING (R192, R193, Table CST-4). -/
def State.hello (s : State) (k : Nat) (p : Bytes) : State :=
  if cfSubtype p ≠ 4 then s
  else
    let up : Bool := match s.sidePort k with | some n => s.linkUp n | none => false
    let s0 := { s with cst := { s.cst with hello := Tab.set 0 s.cst.hello k (s.tickCount + 1) } }
    let s1 := if s.fb Fd.ASD_CFG_PAIRED ∧ BitVec.ofNat 64 (beAt p 16 8) = s.rd64 Reg.ASD_PARTNER_LO Reg.ASD_PARTNER_HI then
        { s0 with asd := { s0.asd with direct := some k } }
      else s0
    let s2 := if up then s1.sideGoesUp k else s1
    if (s2.cstState = 3 ∨ s2.cstState = 4) ∧ (cfCand p ≠ s2.committedHead ∨ beAt p 28 4 ≠ s2.inaugNo) then s2.trigger
    else s2

def execHelloReceived (t : Nat) (port : Fin 257) (payload : Bytes) (s : State) : Out :=
  .next ((s.clock t).consistFrame port.val payload (fun s k => s.hello k payload))

/-! CALL, REQ and ECHO (R193, R195, R196) -/

/-- The CALL is of the node's present round. -/
def sameRound (r : CstRound) (p : Bytes) : Bool :=
  r.cand == cfCand p && r.round == cfRound p && r.nonce == cfNonce p

/-- A better candidate than the node's best, or the same with a newer ROUND (R195). -/
def State.adopts (s : State) (p : Bytes) : Bool :=
  s.best.elim true (fun b => better (cfPrio p) (cfCand p) b.1 b.2) ||
    s.cst.round.elim false (fun r => r.cand == cfCand p && serialAfter 16 (cfRound p) r.round)

/-- Adopts a round: parent, HOP and SIDE as received, the CALL relayed and the ports resolved afresh; a differing TICK
puts the node in MISMATCH (R195, R202). -/
def State.adopt (s : State) (k : Nat) (p : Bytes) : State :=
  let r : CstRound := {
    cand := cfCand p, prio := cfPrio p, tick := cfTick p, round := cfRound p, nonce := cfNonce p, base := beAt p 24 4
    parent := some k, hop := beAt p 20 2, side := byteAt p 22 % 2, level := byteAt p 22 / 2
    span := beAt p 28 4 + s.delay8 k / 8, subroot := BitVec.ofNat 64 (beAt p 32 8), since := s.raw
    ports := s.freshPorts (some k) }
  let s1 := { s with cst := { s.cst with round := some r, headWait := none, restart := false } }
  let s2 := ((s1.bump Reg.CST_ROUNDS).set0 Fd.CST_SPAN_SPAN r.span).set0 Fd.CST_STAT_HEAD 0
  let s3 :=
    if s2.cstState = 6 then s2
    else if r.tick ≠ s2.tickByte then (s2.set0 Fd.CST_STAT_STATE 5).raise Fd.CST_EVT_MISMATCH
    else s2.set0 Fd.CST_STAT_STATE 1
  (s3.sendCalls r).resolve

/-- A CALL with REQ 0: adopted, covered, answered by a round of this node's own, or dropped with one REQ that names the
best (R194, R195). In PENDING it is recorded; before READY nothing is done. Two points of R195 are the model's choice (log
entry 154): a CALL of the best's own candidate with an older ROUND, or with another NONCE, is dropped and answered as one
of a worse candidate; and `once per round` counts rounds of this node, so one REQ leaves in each, on the port of the first
such CALL. -/
def State.call (s : State) (k : Nat) (p : Bytes) : State :=
  if cfSubtype p ≠ 1 ∨ cfReq p ∨ s.cstState = 0 then s
  else if s.foreignSelf p then s.identityConflict
  else if s.cstState = 3 then { s with cst := { s.cst with calls := s.cst.calls ++ [(k, p, false)] } }
  else
    let same : Bool := match s.cst.round with | some r => sameRound r p | none => false
    if same then s.resolvePort k .covered
    else if s.adopts p then s.adopt k p
    else if !s.outside && better s.headPrio ownEui (cfPrio p) (cfCand p) then s.originate
    else
      match s.cst.round with
      | some r =>
        if r.answered then s
        else (s.setRound { r with answered := true }).sendSide k (s.reqFor r)
      | none => s.sendSide k (cstPayload 46 1 1 s.cst.last ownEui s.headPrio s.tickByte s.reqBody)

def execCallReceived (t : Nat) (port : Fin 257) (payload : Bytes) (s : State) : Out :=
  .next ((s.clock t).consistFrame port.val payload (fun s k => s.call k payload))

/-- What a REQ does here: a node that relayed it starts a head wait, and the head in RUN starts a new round where its
BASE_INAUG is the head's INAUG (R193). -/
def State.reqAct (s : State) (p : Bytes) (relayed : Bool) : State :=
  let s1 := if relayed then s.startHeadWait else s
  if s1.cstState = 4 ∧ s1.fb Fd.CST_STAT_HEAD ∧ beAt p 24 4 = s1.inaugNo then s1.originate else s1

/-- A REQ is relayed once by its NONCE; what it does waits in PENDING for the commit instant (R193, Table CST-4). -/
def State.req (s : State) (k : Nat) (p : Bytes) : State :=
  if cfSubtype p ≠ 1 ∨ !cfReq p ∨ s.cstState = 0 then s
  else
    let fresh := !s.cst.reqs.contains (cfNonce p)
    let s1 := if fresh then
        ({ s with cst := { s.cst with reqs := (cfNonce p :: s.cst.reqs).take 16 } } : State).flood (some k) p
      else s
    if s1.cstState = 3 then { s1 with cst := { s1.cst with calls := s1.cst.calls ++ [(k, p, fresh)] } }
    else s1.reqAct p fresh

def execReqReceived (t : Nat) (port : Fin 257) (payload : Bytes) (s : State) : Out :=
  .next ((s.clock t).consistFrame port.val payload (fun s k => s.req k payload))

/-- An ECHO of the current round makes its port a child; of another round it is discarded (R196). -/
def State.echo (s : State) (k : Nat) (p : Bytes) : State :=
  if cfSubtype p ≠ 2 ∨ s.cstState = 0 then s
  else if s.foreignSelf p then s.identityConflict
  else
    match s.cst.round with
    | some r => if sameRound r p then s.resolvePort k (.child (echoOf p)) else s
    | none => s

def execEchoReceived (t : Nat) (port : Fin 257) (payload : Bytes) (s : State) : Out :=
  .next ((s.clock t).consistFrame port.val payload (fun s k => s.echo k payload))

/-! COMMIT (R198, R200) -/

/-- DIR of a node (R198). -/
def dirOf (parent : Option Nat) (side : Nat) : Bool :=
  match parent with
  | some a => !(decide (2 ≤ a) || side == 0 && a == 1 || side == 1 && a == 0)
  | none => false

/-- A node computes its position, relays the COMMIT to its child ports and goes to PENDING (R198). A node without a
position has raised HOP as any other, so the nodes behind it take the positions that follow from their HOP: R197 and R198
differ there, and the model follows R195 and R198 (DESIGN CHOICE, log entry 154). -/
def State.commit (s : State) (k : Nat) (p : Bytes) : State :=
  if cfSubtype p ≠ 3 ∨ s.cstState = 0 then s
  else if s.foreignSelf p then s.identityConflict
  else
    match s.cst.round with
    | none => s
    | some r =>
      if !sameRound r p ∨ r.parent ≠ some k ∨ r.phase ≠ .echoed then s
      else
        let m := beAt p 20 2
        let first := beAt p 24 4
        let pos := if r.side = 0 then first + r.hop - 1 else first + m - r.hop
        let c : CommitInfo := {
          inaug := beAt p 32 4, renum := beAt p 36 4, tick := beAt p 40 8, base := beAt p 48 8, send := beAt p 56 8
          corr := beAt p 64 4 + 32 * s.delay8 k, total := beAt p 100 4
          masters := (List.range 4).map (fun i => BitVec.ofNat 64 (beAt p (68 + 8 * i) 8)) }
        let rings := s.hosted.map (fun g => (g, s.ringSize g))
        let rb := ringBases (if r.side = 0 then rings else rings.reverse) r.side (beAt p 28 4)
        let s1 := (s.sendCommit r c (if k % 2 = 0 then k + 1 else k - 1) m r.side r.level first rb.2).commitRings r c rb.1
        let plan : CommitPlan := {
          pos := pos, dir := dirOf r.parent r.side, level := r.level
          dateline := s.hosted.any (fun g => (s.ringSize g).2 != 0), head := r.cand, subroot := r.subroot
          inaug := c.inaug, renum := c.renum, tick := c.tick, base := BitVec.ofNat 64 c.base, masters := c.masters
          total := c.total, ring := if s.ringIn = 0 then m + 1 else (s.ringSize 0).1 + 1
          sizes := s.hostedSizes, tooMany := decide (65535 < pos), out := s.outside, prio := r.prio, headTick := r.tick
          round := r.round
          diff := (c.send : Int) + (c.corr / 256 : Nat) - s.nowNs }
        let s2 := { s1 with cst := { s1.cst with plan := some plan, round := some { r with phase := .pending } } }
        (s2.wr64 Reg.CST_COMMIT_LO Reg.CST_COMMIT_HI [] (BitVec.ofNat 64 c.tick)).setCstState 3

def execCommitReceived (t : Nat) (port : Fin 257) (payload : Bytes) (s : State) : Out :=
  .next ((s.clock t).consistFrame port.val payload (fun s k => s.commit k payload))

/-- Time and tick at a commit: a step where the reading differs by more than 1 us, else a difference to remove through
RATE; TICK_BASE and the tick number of the commit (R200). -/
def State.commitClock (s : State) (c : CommitPlan) : State :=
  let s1 := if 1000 < c.diff.natAbs then s.timeStep (wrapInt 96 ((s.readingAt s.raw : Int) + c.diff * 2 ^ 32)) s.raw else s
  let old := s1.tu.base
  let changes := if old = some c.base then s1.tu.changes
    else ({ tick := c.tick, base := old.getD 0, hcLog := s1.f Fd.TKE_CFG_HC_LOG } :: s1.tu.changes).take 2
  { s1 with tu := { s1.tu with base := some c.base, tick := c.tick, hasTime := true, committed := true
                               changes := changes, atInstant := s1.tu.strobe != some s1.raw } }

/-- The change of time and tick, around which the shapers of the ports count on (R150). -/
def State.commitTime (s : State) (c : CommitPlan) : State := s.regate (fun u => u.commitClock c)

/-- The master and the ranks that a commit names (R200, R93). A commit in which no node is GM_CAP names no master: the spec
does not say what TU_STAT then shows, and the model takes the identity of all ones as any other master (DESIGN CHOICE, log
entry 127). -/
def State.commitMaster (s : State) (c : CommitPlan) : State :=
  let m := c.masters.headD (BitVec.allOnes 64)
  let rank := (findNat 4 (fun i => i != 0 && c.masters[i]? == some ownEui)).getD 0
  let s1 := ({ s with tu := { s.tu with backups := c.masters.drop 1 } }).set0 Fd.TU_STAT_RANK rank
  let s2 := if m = s.tu.master then s1
    else if m = ownEui then s1.becomeMaster
    else
      let x := (s1.setMaster m).set0 Fd.TU_STAT_STATE 1
      { x with tu := { x.tu with syncRef := x.raw } }
  if c.diff.natAbs ≤ 1000 ∧ c.diff ≠ 0 then { s2 with tu := { s2.tu with diff := some (c.diff * 2 ^ 32) } } else s2

/-- The counts of hop credit start again at a commit (R178). -/
def State.hopCommit (s : State) : State :=
  let s1 : State := { s with ldr := { s.ldr with
    hop := s.ldr.hop.map (fun e => (e.1, { e.2 with sentCells := 0, grant := 0, released := 0 })) } }
  (mergeKeys (s.ldr.hop.map (·.1 / 2)) []).foldl State.showCredit s1

/-- Position, DIR, LEVEL, head, INAUG, RENUM and dateline of a commit (R200). -/
def State.commitNumbers (s : State) (c : CommitPlan) : State :=
  let pos := if c.tooMany then 0 else c.pos
  let s1 := (((s.set0 Fd.CST_STAT_POSITION pos).set0 Fd.CST_STAT_DIR (b2n c.dir)).set0 Fd.CST_STAT_LEVEL c.level).set0
    Fd.CST_STAT_DATELINE (b2n c.dateline)
  let s2 := (s1.wr64 Reg.CST_HEAD_LO Reg.CST_HEAD_HI [] c.head).set0 Fd.CST_STAT_HEAD (b2n (c.head == ownEui))
  let s3 := (s2.wr Reg.CST_INAUG [] (BitVec.ofNat 32 c.inaug)).wr Reg.CST_RENUM [] (BitVec.ofNat 32 c.renum)
  (s3.set0 Fd.CST_NODES_TOTAL c.total).set0 Fd.CST_NODES_RING c.ring

/-- The events of a commit, the confirmation of a provisional wake (R395), and the IDENT frames of a node whose head
changed (R204). -/
def State.commitEvents (s : State) (c : CommitPlan) (renum : Nat) (newHead : Bool) : State :=
  let s1 := ((s.raise Fd.CST_EVT_COMMIT).trace 6 0 c.inaug).emit (.msix 1)
  let s2 := if renum < c.renum then s1.raise Fd.CST_EVT_RENUMBERED else s1
  let s3 := if c.tooMany then s2.raise Fd.CST_EVT_TOO_MANY else s2
  let s3 := if s3.fb Fd.POR_CFG_CONF_COMMIT ∧ 2 ≤ c.total ∧ !c.tooMany then s3.set0 Fd.POR_STAT_PROVISIONAL 0 else s3
  if newHead then
    let s4 := s3.raise Fd.CST_EVT_HEAD_CHG
    { s4 with cst := { s4.cst with identQ := s4.cst.identQ ++ s4.ownIdents } }
  else s3

/-- Applies a pending commit together; then what was recorded while PENDING is acted on (R200, Table CST-4). A node
outside the numbering only loses its position (R202). -/
def State.applyCommit (s : State) (c : CommitPlan) : State :=
  let s0 := { s with cst := { s.cst with plan := none } }
  if c.out then s0.set0 Fd.CST_STAT_POSITION 0
  else
    let newHead := !s.cst.numbered || s.cst.head != c.head
    let renum := (s.rd Reg.CST_RENUM).toNat
    let s1 := ((s0.commitTime c).commitMaster c).commitNumbers c
    let s2 := { s1.hopCommit with cst := { s1.cst with numbered := true, head := c.head, subroot := c.subroot
                                                       headPrio := c.prio, headTick := c.headTick, headRound := c.round
                                                       total := c.total, sizes := c.sizes, masters := c.masters, wrapped := []
                                                       entry := s.cst.round.bind (·.parent) |>.map (· / 2) } }
    let s3 := (s2.commitEvents c renum newHead).set0 Fd.CST_STAT_STATE 4
    let calls := s3.cst.calls
    let trig := s3.cst.trig
    let s4 := { s3 with cst := { s3.cst with calls := [], trig := false } }
    let s5 : State := calls.foldl (fun s x => if cfReq x.2.1 then s.reqAct x.2.1 x.2.2 else s.call x.1 x.2.1) s4
    if trig then s5.trigger else s5

/-- Instant COMMIT_TICK has come, in the time of the head (R200). -/
def State.commitDue (s : State) (c : CommitPlan) : Bool :=
  decide ((c.base.toNat : Int) + c.tick * s.period ≤ s.nowNs + c.diff)

/-- At COMMIT_TICK a PENDING node applies the commit. -/
def execCommitInstant (t : Nat) (s : State) : Out :=
  let s := s.clock t
  match s.cst.plan with
  | some c => if s.commitDue c then .next (s.applyCommit c) else .next s
  | none => .next s

/-! IDENT and RESET frames (R204, R207) -/

/-- An IDENT is relayed once, as it came, in a control window, and checked for this node's EUI-64. -/
def State.ident (s : State) (k : Nat) (p : Bytes) : State :=
  if cfSubtype p ≠ 5 ∨ s.cstState = 0 then s
  else
    let id_ : BitVec 64 × BitVec 32 := (BitVec.ofNat 64 (beAt p 16 8), BitVec.ofNat 32 (beAt p 24 4))
    let s1 := if id_.1 = ownEui ∧ id_.2 ≠ s.cst.nonce then s.identityConflict else s
    if s1.cst.idents.contains id_ then s1
    else
      let q := ((List.range 8).filter (fun j => j != k && (s1.sidePort j).isSome)).map (fun j => (j, p))
      { s1 with cst := { s1.cst with idents := (id_ :: s1.cst.idents).take 256, identQ := s1.cst.identQ ++ q } }

def execIdentReceived (t : Nat) (port : Fin 257) (payload : Bytes) (s : State) : Out :=
  .next ((s.clock t).consistFrame port.val payload (fun s k => s.ident k payload))

/-- In a control window a side sends up to 16 IDENT frames per tick, oldest first (R204). -/
def State.sendIdents (s : State) (k : Nat) : State :=
  let mine := s.cst.identQ.filter (fun q => q.1 == k)
  let sent := Tab.get 0 s.cst.identSent k
  let now := mine.take (16 - sent)
  let rest := mine.drop (16 - sent)
  let s1 := { s with cst := { s.cst with identQ := s.cst.identQ.filter (fun q => q.1 != k) ++ rest
                                         identSent := Tab.set 0 s.cst.identSent k (sent + now.length) } }
  now.foldl (fun s q => s.sendSide k q.2) s1

/-- In a control window a side sends its HELLO of the tick (R192). -/
def State.sendHello (s : State) (k : Nat) : State :=
  if s.cst.helloSent.contains k then s
  else ({ s with cst := { s.cst with helloSent := k :: s.cst.helloSent } }).sendSide k s.helloPayload

/-- A RESET frame takes effect on this node when it names it, or every node; of several, the first that comes due. -/
def State.takeReset (s : State) (target : BitVec 64) (tick : Nat) : State :=
  if target = ownEui ∨ target = BitVec.allOnes 64 then
    { s with cst := { s.cst with resetAt := some (s.cst.resetAt.elim tick (min tick)) } }
  else s

def State.resetFrame (s : State) (k : Nat) (p : Bytes) : State :=
  if cfSubtype p ≠ 6 ∨ s.cstState = 0 then s
  else
    let x : BitVec 64 × Nat := (BitVec.ofNat 64 (beAt p 16 8), beAt p 24 8)
    if s.cst.resets.contains x then s
    else (({ s with cst := { s.cst with resets := x :: s.cst.resets } }).flood (some k) p).takeReset x.1 x.2

def execResetFrameReceived (t : Nat) (port : Fin 257) (payload : Bytes) (s : State) : Out :=
  .next ((s.clock t).consistFrame port.val payload (fun s k => s.resetFrame k payload))

/-- CST_CMD.RESET: a node in RUN floods a RESET for the current tick + 2; in any other state the write is ignored and
ROUND_FAIL raised (R207). -/
def State.cmdReset (s : State) : State :=
  if s.cstState = 4 then
    let target := s.rd64 Reg.CST_RST_LO Reg.CST_RST_HI
    let tick := s.tu.tick + 2
    let p := s.headFrame 6 (beBytes 8 target.toNat ++ beBytes 8 tick)
    (({ s with cst := { s.cst with resets := (target, tick) :: s.cst.resets } }).flood none p).takeReset target tick
  else s.raise Fd.CST_EVT_ROUND_FAIL

def execCstReset (t : Nat) (party : Party) (s : State) : Out := .next ((s.clock t).hostWrite party).cmdReset

/-- CST_CMD.INAUG triggers an inauguration in a node in RUN (R193). -/
def execCstInaug (t : Nat) (party : Party) (s : State) : Out := .next ((s.clock t).hostWrite party).trigger

/-! Timeouts (R193, R201) -/

/-- A head wait lasts 2 × P + 2 us. -/
def execHeadWaitExpiry (t : Nat) (s : State) : Out :=
  let s := s.clock t
  match s.cst.headWait with
  | some w =>
    if s.elapsed w (2 * s.period + 2000) then
      .next (if s.cstState = 4 then s.originate else { s with cst := { s.cst with headWait := none } })
    else .next s
  | none => .next s

/-- No COMMIT of the round within 3 × P + 2 us: the node returns to RUN with its numbering, or originates a round. -/
def execRoundFail (t : Nat) (s : State) : Out :=
  let s := s.clock t
  match s.cst.round with
  | some r =>
    if r.parent.isSome ∧ (s.cstState = 1 ∨ s.cstState = 2) ∧ s.elapsed r.since (3 * s.period + 2000) then
      let s1 := s.raise Fd.CST_EVT_ROUND_FAIL
      if s.cst.numbered then
        .next (({ s1 with cst := { s1.cst with round := none } }.set0 Fd.CST_STAT_STATE 4).set0 Fd.CST_STAT_HEAD
          (b2n (s.cst.head == ownEui)))
      else .next s1.originate
    else .next s
  | none => .next s

/-- The head's census is not complete after 2 × P + 2 us: a new round starts at the next instant, and ERR_N is asserted
after 4 failures in a row (R201). Before the first TICK_BASE it starts at once. -/
def execCensusTimeout (t : Nat) (s : State) : Out :=
  let s := s.clock t
  match s.cst.round with
  | some r =>
    if r.parent = none ∧ r.phase = .roll ∧ s.cstState = 1 ∧ !s.cst.restart ∧ s.elapsed r.since (2 * s.period + 2000) then
      let s1 := (s.bumpF Fd.CST_FAIL_CNT_FAILS).raise Fd.CST_EVT_ROUND_FAIL
      let n := s.cst.fails + 1
      let s2 := { s1 with cst := { s1.cst with fails := n, restart := true } }
      let s3 := if 4 ≤ n then s2.assertErr else s2
      .next (if s3.tu.base.isNone then s3.originate else s3)
    else .next s
  | none => .next s

end Sys2Proof.Machine
end

