-- ==== Sys2Proof/Machine/Image.lean ====
section
/-! DEFINITION. The I/O image (R72): collection of inputs by assignment time (R46, R47), task inputs and their captures
(R69 to R71, R440), and the words of the complete image. -/

namespace Sys2Proof.Machine

open Sys2Proof

/-- Consist time in ns of the instant of the present tick. -/
def State.instantNs (s : State) : Nat := (s.tu.base.getD 0).toNat + s.tu.tick * s.period

/-- An item with assignment time a (consist time, ns) belongs to the frozen image while that is being assembled and a
lies at or before its instant, and to the next image otherwise (R46, R47). -/
def State.deposit (s : State) (a : Nat) (f : ImageBuf → ImageBuf) : State :=
  if s.tke.asmOpen ∧ a ≤ s.instantNs then
    { s with tke := { s.tke with asm := f s.tke.asm, next := f s.tke.next } }
  else { s with tke := { s.tke with next := f s.tke.next } }

/-- As deposit, for what an image holds only when it was assigned to that image: records, counts and captures. -/
def State.depositOnce (s : State) (a : Nat) (f : ImageBuf → ImageBuf) : State :=
  if s.tke.asmOpen ∧ a ≤ s.instantNs then { s with tke := { s.tke with asm := f s.tke.asm } }
  else { s with tke := { s.tke with next := f s.tke.next } }

/-- Writes words at a byte offset of an image. -/
def ImageBuf.put (b : ImageBuf) (off : Nat) (ws : List (BitVec 32)) : ImageBuf :=
  { b with words := Tab.setList 0 b.words (off / 4) ws }

/-- An earlier capture in counting order: by raw count, then task input, then source index (R70, R71). -/
def Capture.before (a b : Capture) : Bool :=
  a.at_ < b.at_ || (a.at_ == b.at_ && (a.input < b.input || (a.input == b.input && a.source < b.source)))

/-- Places a capture in counting order. -/
def capInsert (c : Capture) : List Capture → List Capture
  | [] => [c]
  | x :: xs => if c.before x then c :: x :: xs else x :: capInsert c xs

/-- Drops the last capture of a task input. -/
def dropLastOf (input : Nat) (l : List Capture) : List Capture :=
  let r := l.reverse
  (r.takeWhile (fun c => c.input != input) ++ (r.dropWhile (fun c => c.input != input)).drop 1).reverse

/-- The captures within the limits of R71, and whether one was lost. -/
def capLimit (input : Nat) (l : List Capture) : List Capture × Bool :=
  if (l.filter (fun c => c.input == input)).length > 255 then (dropLastOf input l, true)
  else if l.length > 256 then (l.take 256, true) else (l, false)

/-- Counts an event on one task input: the count saturates at 65,535 and sets OVF (R70). -/
def ImageBuf.count (b : ImageBuf) (c : Capture) : ImageBuf :=
  let n := Tab.get (0, false) b.counts c.input
  let n' := if n.1 < 65535 then (n.1 + 1, n.2) else (n.1, true)
  { b with counts := Tab.set (0, false) b.counts c.input n', caps := (capLimit c.input (capInsert c b.caps)).1 }

/-- The event would exceed a capture limit of the image (R71). -/
def ImageBuf.overCap (b : ImageBuf) (c : Capture) : Bool := (capLimit c.input (capInsert c b.caps)).2

/-- Counts an event on one row of the source lists (R69, R71). -/
def State.countInput (s : State) (a : Nat) (c : Capture) : State :=
  let buf := if s.tke.asmOpen ∧ a ≤ s.instantNs then s.tke.asm else s.tke.next
  let s1 := s.depositOnce a (fun b => b.count c)
  if buf.overCap c then s1.raise Fd.TKE_FAULT_CAPLOST else s1

/-- An event counts on each task input that names its source (R69). a: assignment time; time, frac: its own stamp;
raw: the count at which the collector counts it. -/
def State.taskEvent (s : State) (src : TaskSource) (a time frac kind : Nat) (rising : Bool := false) : State :=
  (s.act.maps.inputs.filter (fun r => r.source = src)).foldl
    (fun s r => s.countInput a { time := BitVec.ofNat 64 time, frac := BitVec.ofNat 16 frac, source := r.index
                                 input := r.input, kind := kind, rising := rising, at_ := s.raw }) s

/-- A reading in units of 2^-32 ns as ns and the upper 16 bits of its fraction (R440). -/
def readNs (q : Nat) : Nat := q / 2 ^ 32 % 2 ^ 64
def readFrac (q : Nat) : Nat := q % 2 ^ 32 / 2 ^ 16

/-- The 16 bytes of a capture record (Table TCK-13). -/
def Capture.words (c : Capture) : List (BitVec 32) :=
  wordsOf (leBytes 8 c.time.toNat ++ leBytes 2 c.frac.toNat ++ leBytes 2 c.source ++ leBytes 2 c.input
    ++ leBytes 1 c.kind ++ leBytes 1 (b2n c.rising))

/-- Captures grouped by task input, in counting order within one (R440). -/
def ImageBuf.grouped (b : ImageBuf) : List Capture :=
  (mergeKeys (b.caps.map (·.input)) []).flatMap (fun i => b.caps.filter (fun c => c.input == i))

/-- Index of the first capture of a task input in the grouped list, and how many there are. -/
def firstCap (l : List Capture) (input : Nat) : Nat × Nat :=
  ((l.takeWhile (fun c => c.input != input)).length, (l.filter (fun c => c.input == input)).length)

/-- The words of a complete image: the collected words, the counters and the capture list (Table TCK-8). -/
def ImageBuf.complete (b : ImageBuf) : Tab (BitVec 32) :=
  let g := b.grouped
  let w1 := b.counts.foldl (fun m e =>
    let f := firstCap g e.1
    let fst_ := if f.2 = 0 then 0 else f.1
    Tab.setList 0 m ((0x1000 + 8 * e.1) / 4)
      [BitVec.ofNat 32 (e.2.1 + 65536 * b2n e.2.2), BitVec.ofNat 32 (fst_ + 256 * f.2)]) b.words
  Tab.setList 0 w1 (0x5000 / 4) (g.flatMap Capture.words)

/-- Removes the words of a byte range. -/
def clearRange (m : Tab (BitVec 32)) (lo hi : Nat) : Tab (BitVec 32) :=
  m.filter (fun e => e.1 * 4 < lo || hi ≤ e.1 * 4)

/-- Word 3 of a sentence-field slot in the next tick: FRESH is cleared and AGE rises, once the slot has been updated
(Table SEN-1). -/
def agedWord (w : BitVec 32) : BitVec 32 :=
  let n := w.toNat
  if bitAt n 17 || bits n 31 24 != 0 then
    BitVec.ofNat 32 (setBits (setBits n 17 17 0) 31 24 (min 255 (bits n 31 24 + 1)))
  else w

/-- The word at an index is word 3 of a sentence-field slot (Table TCK-8). -/
def isFieldFlags (k : Nat) : Bool := 0x6000 ≤ 4 * k && 4 * k < 0x8000 && k % 4 == 3

/-- The word at an index is word 4 of a load-channel reading, which holds FLAGS in bits [15:8] (Table FIO-4). -/
def isLoadFlags (k : Nat) : Bool := 0x900 ≤ 4 * k && 4 * k < 0xC00 && (4 * k - 0x900) % 32 == 16

/-- Word 4 of a reading without the flags that tell of the tick, SHORT and DEGENERATE (R337). -/
def untickedWord (w : BitVec 32) : BitVec 32 := w &&& 0xFFFFEDFF#32

/-- A word of the image as the next tick takes it over. -/
def carriedWord (k : Nat) (w : BitVec 32) : BitVec 32 :=
  if isFieldFlags k then agedWord w else if isLoadFlags k then untickedWord w else w

/-- What the collection of the following image starts from: the latest values stay, event records, counts, captures and
flags of the tick start empty, and sentence fields age (R46, R70, R265, R337). -/
def ImageBuf.carry (b : ImageBuf) : ImageBuf :=
  { words := ((clearRange b.words 0x100 0x900).map (fun e => (e.1, carriedWord e.1 e.2))).filter (fun e => e.2 != 0) }

/-- An update of sentence-field slot sel by talker tk at assignment time a (R265, Table SEN-1): a later one, or one of a
higher talker at the same time, wins. -/
structure FieldUpdate where
  sel : Nat
  talker : Nat
  assign : Nat
  stamp : Nat
  value : Option (BitVec 32)
  convErr : Bool
  empty : Bool
  deriving DecidableEq, Repr

def ImageBuf.field (b : ImageBuf) (u : FieldUpdate) : ImageBuf :=
  let wins : Bool := match Tab.get none b.fieldAt u.sel with
    | some p => decide (p.1 < u.assign) || p.1 == u.assign && decide (p.2 ≤ u.talker)
    | none => true
  if wins then
    let k := (0x6000 + 16 * u.sel) / 4
    let valid := u.value.isSome || bitAt (Tab.get 0 b.words (k + 3)).toNat 16
    let ws := [u.value.getD (Tab.get 0 b.words k), BitVec.ofNat 32 u.stamp, BitVec.ofNat 32 (u.stamp / 2 ^ 32),
      BitVec.ofNat 32 (u.talker + 65536 * (b2n valid + 2 + 4 * b2n u.convErr + 8 * b2n u.empty))]
    { b with words := Tab.setList 0 b.words k ws, fieldAt := Tab.set none b.fieldAt u.sel (some (u.assign, u.talker)) }
  else b

/-- An update that belongs to the frozen image reaches the next one as an update of the tick before. -/
def ImageBuf.fieldLate (b : ImageBuf) (u : FieldUpdate) : ImageBuf :=
  if (Tab.get none b.fieldAt u.sel).isSome then b
  else
    let k := (0x6000 + 16 * u.sel) / 4
    let c := b.field u
    { c with words := Tab.set 0 c.words (k + 3) (agedWord (Tab.get 0 c.words (k + 3))), fieldAt := b.fieldAt }

/-- Updates a sentence-field slot in the image of its assignment time (R46, R265). -/
def State.fieldUpdate (s : State) (u : FieldUpdate) : State :=
  if s.tke.asmOpen ∧ u.assign ≤ s.instantNs then
    { s with tke := { s.tke with asm := s.tke.asm.field u, next := s.tke.next.fieldLate u } }
  else { s with tke := { s.tke with next := s.tke.next.field u } }

/-- The header of the image of the tick that starts (Table TCK-8). -/
def State.headerWords (s : State) : List (BitVec 32) :=
  let role := s.f Fd.ASD_STAT_ROLE
  let flags := b2n (role != 0) + 2 * b2n (role == 1) + 4 * b2n (s.f Fd.TU_STAT_STATE == 3) + 8 * b2n s.tke.prevOverrun
  wordsOf (leBytes 8 s.tu.tick ++ leBytes 8 s.instantNs ++ leBytes 4 0 ++ leBytes 4 0 ++ leBytes 4 flags
    ++ leBytes 4 s.tke.lateLast)

/-- Import words that wait take effect, each in the image that is being frozen and in later ones (R48, R73). -/
def applyImports (b : ImageBuf) (im : Tab (Option (BitVec 32))) : ImageBuf :=
  { b with words := im.foldl (fun m e => Tab.set 0 m (0x18000 / 4 + e.1) (e.2.getD 0)) b.words }

/-- The inputs are frozen at the instant of tick N, whose number is already set (R44, R46). -/
def State.freeze (s : State) : State :=
  let b := applyImports s.tke.next s.tke.imports
  { s with tke := { s.tke with asm := b.put 0 s.headerWords, next := b.carry, asmOpen := true, imports := [] } }

end Sys2Proof.Machine
end

