-- ==== Sys2Proof/Machine/Uart.lean ====
section
/-! DEFINITION. Serial channels UA0 to UA31 (spec/11, R300 to R309): FIFOs, transmitters, sticky flags, and the refusal
of a talker (R267). -/

namespace Sys2Proof.Machine

open Sys2Proof

def State.ua (s : State) (ch : Nat) : Ua := Tab.get {} s.sen.ua ch

def State.setUa (s : State) (ch : Nat) (u : Ua) : State :=
  { s with sen := { s.sen with ua := Tab.set {} s.sen.ua ch u } }

/-- One bit in ns (R301). -/
def State.bitNs (s : State) (ch : Nat) : Nat := s.f Fd.UAn_CFG_DIV [ch] * 100

def State.uaParity (s : State) (ch : Nat) : Nat := s.f Fd.UAn_CFG_PARITY [ch]

/-- A character in ns: start, data, parity and stop bits (R303). -/
def State.charNs (s : State) (ch : Nat) : Nat :=
  s.bitNs ch * (7 + s.f Fd.UAn_CFG_BITS [ch] + b2n (s.uaParity ch != 0) + s.f Fd.UAn_CFG_STOP2 [ch])

/-- The line interface is in use: PHY 2h of UA0 to UA15 is off (UAn_CFG). -/
def State.phyOn (s : State) (ch : Nat) : Bool := decide (16 ≤ ch) || decide (s.f Fd.UAn_CFG_PHY [ch] < 2)

def State.halfDuplex (s : State) (ch : Nat) : Bool := decide (ch < 16) && s.f Fd.UAn_CFG_PHY [ch] == 1

/-- The transmitter may send (R300, R301, R308). -/
def State.uaLive (s : State) (ch : Nat) : Bool :=
  s.operating && s.acting && s.phyOn ch && s.f Fd.UAn_CFG_DIV [ch] != 0

/-- Sixteenths of a bit in ns. -/
def State.sixteenths (s : State) (ch n : Nat) : Nat := n * s.bitNs ch / 16

/-- Number of the PCLK cycle, of 6.25 ns, at a raw count (R304). -/
def pclk (raw : Nat) : Nat := raw * 4 / 25

/-- The half-duplex driver is enabled; the drivers of a module that does not act stay off (R308). -/
def State.driverOn (s : State) (ch : Nat) : Bool :=
  s.halfDuplex ch && s.acting && ((s.ua ch).sending.isSome || decide (s.raw < (s.ua ch).lag))

/-- The engine fills the transmit FIFO with the rest of a sentence, then with refusal bytes (R262, R267, R307). -/
def Ua.load (u : Ua) : Ua :=
  let a := u.fill.take (64 - u.tx.length)
  let rest := u.fill.drop (64 - u.tx.length)
  let tx := u.tx ++ a
  if rest.isEmpty then
    { u with fill := [], tx := tx ++ u.refuse.take (64 - tx.length), refuse := u.refuse.drop (64 - tx.length) }
  else { u with fill := rest, tx := tx }

/-- An idle transmitter takes the next byte of its FIFO, or starts a break (R308, R309). -/
def State.uaStart (s : State) (ch : Nat) (u : Ua) : Ua :=
  if u.sending.isSome || !s.uaLive ch then u
  else
    let lead := if s.halfDuplex ch && decide (u.lag ≤ s.raw) then s.sixteenths ch (s.f Fd.UAn_TXCTL_DE_LEAD [ch]) else 0
    match u.tx with
    | b :: bs => { u with tx := bs, sending := some (.char b (s.raw + lead + s.charNs ch))
                          fullAt := if 63 ≤ bs.length then pclk s.raw + 1 else u.fullAt }
    | [] =>
      if u.brk then
        let n := s.f Fd.UAn_TXCTL_BRK_LEN [ch]
        { u with brk := false, sending := some (.brk (s.raw + lead + (if n = 0 then 13 else n) * s.bitNs ch)) }
      else u

/-- The transmit side of a channel goes on. -/
def State.uaPump (s : State) (ch : Nat) : State := s.setUa ch (s.uaStart ch (s.ua ch).load).load

/-- The transmitter is free for the next sentence of a listener: it holds and sends nothing (R262). -/
def Ua.free (u : Ua) : Bool :=
  u.tx.isEmpty && u.sending.isNone && u.fill.isEmpty && u.refuse.isEmpty && !u.brk

/-! Sticky flags (R305): flag k is UAn_STAT bit 16 + k -/

/-- A flag is set, and stays set whatever a party has seen before. -/
def State.uaFlag (s : State) (ch : Nat) (x : Fld) : State :=
  let u := s.ua ch
  let seen := u.seen.map (fun e => (e.1, setBits (e.2 - 1) (x.lo - 16) (x.lo - 16) 0 + 1))
  (s.setUa ch { u with seen := seen }).sf x [ch] 1

/-- The five flags as a mask. -/
def State.uaFlags (s : State) (ch : Nat) : Nat := bits (s.rd Reg.UAn_STAT [ch]).toNat 20 16

/-- Clears the flags of a mask. -/
def State.uaClear (s : State) (ch mask : Nat) : State :=
  let w := (s.rd Reg.UAn_STAT [ch]).toNat
  s.wr Reg.UAn_STAT [ch] (BitVec.ofNat 32 (setBits w 20 16 ((s.uaFlags ch) &&& (31 - mask % 32))))

/-- What a read of UAn_STAT gives. -/
def State.uaStat (s : State) (ch : Nat) : BitVec 32 :=
  let u := s.ua ch
  BitVec.ofNat 32 (u.rx.length + 256 * u.tx.length + 65536 * s.uaFlags ch
    + 2 ^ 21 * b2n (u.tx.isEmpty && u.sending.isNone))

/-- What a read of UAn_DATA gives: the head of a host-owned receive FIFO (R306, R307). -/
def State.uaData (s : State) (ch : Nat) : BitVec 32 :=
  if s.fb Fd.UAn_CFG_OWNER [ch] then 0
  else match (s.ua ch).rx with
    | e :: _ => BitVec.ofNat 32 (e.byte.toNat + 256 + 512 * b2n e.fe + 1024 * b2n e.pe + 2048 * b2n e.brk + 4096 * b2n e.ovr)
    | [] => 0

/-- PCIe and the management cluster complete the clearing sequence and take entries; USB and the bridge only look. -/
def partyTakes : Party → Bool
  | .pcie => true
  | .mgmt => true
  | .usb => false
  | .bridge => false

/-- A read of UAn_STAT by one of the two parties records the flags that it saw (R305). -/
def State.uaSawStat (s : State) (party : Party) (ch : Nat) : State :=
  let u := s.ua ch
  s.setUa ch { u with seen := Tab.set 0 u.seen party.ix (s.uaFlags ch + 1) }

/-- A read of UAn_DATA by one of the two parties clears the flags that its status read saw, and takes the head entry of a
host-owned channel (R305 to R307). -/
def State.uaTake (s : State) (party : Party) (ch : Nat) : State :=
  let u := s.ua ch
  let s1 := s.uaClear ch (Tab.get 0 u.seen party.ix - 1)
  s1.setUa ch { u with rx := if s.fb Fd.UAn_CFG_OWNER [ch] then u.rx else u.rx.tail, seen := Tab.erase u.seen party.ix }

def execUaStatRead (t : Nat) (party : Party) (channel : Fin 32) (s : State) : Out :=
  let s := s.clock t
  let s1 := s.emit (.read party (Reg.UAn_STAT.addr [channel.val]) (s.uaStat channel.val))
  .next (if partyTakes party then s1.uaSawStat party channel.val else s1)

def execUaDataRead (t : Nat) (party : Party) (channel : Fin 32) (s : State) : Out :=
  let s := s.clock t
  let s1 := s.emit (.read party (Reg.UAn_DATA.addr [channel.val]) (s.uaData channel.val))
  .next (if partyTakes party then s1.uaTake party channel.val else s1)

/-- A write of UAn_DATA: the byte is queued, or ignored with TXOVR, as it is in the cycle in which the transmitter takes a
byte out of a full FIFO (R304, R307, R308). -/
def State.uaWrite (s : State) (ch : Nat) (b : BitVec 8) : State :=
  let u := s.ua ch
  if s.fb Fd.UAn_CFG_OWNER [ch] || !s.acting || !s.operating || decide (64 ≤ u.tx.length) || u.fullAt == pclk s.raw + 1 then
    s.uaFlag ch Fd.UAn_STAT_TXOVR
  else (s.setUa ch { u with tx := u.tx ++ [b] }).uaPump ch

def execUaDataWrite (t : Nat) (party : Party) (channel : Fin 32) (value : BitVec 8) (s : State) : Out :=
  .next (((s.clock t).hostWrite party).uaWrite channel.val value)

def execUaFlagclrWrite (t : Nat) (party : Party) (channel : Fin 32) (value : BitVec 32) (s : State) : Out :=
  .next (((s.clock t).hostWrite party).uaClear channel.val (value.toNat % 32))

/-- A write of UAn_TXCTL: its RW fields, and a break where BREAK is 1 (R309). -/
def State.uaTxctl (s : State) (ch : Nat) (value : BitVec 32) : State :=
  let s1 := s.wr Reg.UAn_TXCTL [ch] (value &&& 0x00FFFFFF)
  if value.getLsbD 24 && s1.uaLive ch then (s1.setUa ch { s1.ua ch with brk := true }).uaPump ch else s1

def execUaBreak (t : Nat) (party : Party) (channel : Fin 32) (value : BitVec 32) (s : State) : Out :=
  .next (((s.clock t).hostWrite party).uaTxctl channel.val value)

/-- The last stop bit of a character, or the end of a break; the driver is released after the last one (R308). -/
def execUartCharacterSent (t : Nat) (channel : Fin 32) (s : State) : Out :=
  let s := s.clock t
  let ch := channel.val
  let u := s.ua ch
  let fin (s1 : State) : State :=
    let s2 := (s1.setUa ch { u with sending := none }).uaPump ch
    if (s2.ua ch).sending.isNone then
      s2.setUa ch { s2.ua ch with lag := s.raw + s.sixteenths ch (s.f Fd.UAn_TXCTL_DE_LAG [ch]) }
    else s2
  match u.sending with
  | some (.char b due) =>
    if due ≤ s.raw then .next (fin ((s.emit (.uart ch (some b))).bump Reg.UAn_CNTc [ch, 1])) else .next s
  | some (.brk due) => if due ≤ s.raw then .next (fin (s.emit (.uart ch none))) else .next s
  | none => .next s

/-- The channels stop where Operate is left, with both FIFOs empty (R300). -/
def State.uaStopAll (s : State) : State :=
  let stop (u : Ua) : Ua := { seen := u.seen }
  { s with sen := { s.sen with ua := (s.sen.ua.map (fun e => (e.1, stop e.2))).filter (fun e => e.2 != {}) } }

/-- A module that stops acting holds its transmitters idle and its drivers off; their FIFOs stay as they are (R308). -/
def State.uaHoldAll (s : State) : State :=
  let hold (u : Ua) : Ua := { u with sending := none, brk := false, lag := 0 }
  { s with sen := { s.sen with ua := (s.sen.ua.map (fun e => (e.1, hold e.2))).filter (fun e => e.2 != {}) } }

/-- The transmitters of a new duty go on (R238). -/
def State.uaGoOnAll (s : State) : State := (keys s.sen.ua).foldl State.uaPump s

/-! Receivers (R302 to R304, R308) -/

/-- The channel receives: it runs, and a half-duplex driver that is on hides the line unless ECHO is 1. -/
def State.uaHears (s : State) (ch : Nat) : Bool :=
  s.operating && s.phyOn ch && s.f Fd.UAn_CFG_DIV [ch] != 0 && (!s.driverOn ch || s.fb Fd.UAn_CFG_ECHO [ch])

/-- Number of 1 bits among the low k bits. -/
def onesIn : Nat → Nat → Nat
  | 0, _ => 0
  | k + 1, n => n % 2 + onesIn k (n / 2)

/-- Bit k of a character, the start bit being bit 0, by the majority of its samples 7, 8 and 9; the line is high where
nothing was sampled (R302). -/
def sampledBit (samples : List (BitVec 3)) (k : Nat) : Bool := decide (2 ≤ onesIn 3 (samples.getD k 7#3).toNat)

/-- The start bit is confirmed: its samples 7, 8 and 9 are low (R302). -/
def startConfirmed (samples : List (BitVec 3)) : Bool := samples.getD 0 7#3 == 0#3

/-- The receiver hunts again: after a break the line has been high for a bit, `idle` ns, before the edge (R303). -/
def State.uaHunts (s : State) (ch idle : Nat) : Bool := !(s.ua ch).inBreak || decide (s.bitNs ch ≤ idle)

/-- The stamp of a character, in units of 2^-32 ns, to 1 ns: half a sample before the first one that sees its start bit
low, and corrected to the ball (R80, Table TIM-1). -/
def State.uaStamp (s : State) (ch start : Nat) : Nat :=
  s.stampAt (8 * (start - Config.uaDelay ch) - s.bitNs ch / 4) / 2 ^ 32 * 2 ^ 32

/-- The entry of a received character, from its data bits, parity bit and first stop bit (R303). -/
def State.uaEntry (s : State) (ch : Nat) (samples : List (BitVec 3)) : UaEntry :=
  let k := 5 + s.f Fd.UAn_CFG_BITS [ch]
  let d := sumNat ((List.range k).map (fun i => 2 ^ i * b2n (sampledBit samples (1 + i))))
  let p := s.uaParity ch
  let parity := sampledBit samples (1 + k)
  let stop := sampledBit samples (1 + k + b2n (p != 0))
  let odd := decide ((onesIn 8 d + b2n parity) % 2 = 1)
  let brk := d == 0 && !stop && !(p != 0 && parity)
  { byte := BitVec.ofNat 8 d, fe := !stop && !brk, pe := p != 0 && (odd != (p == 2)), brk := brk
    ovr := (s.ua ch).lost }

/-- Flags and counts of a received entry. -/
def State.uaNote (s : State) (ch : Nat) (e : UaEntry) : State :=
  let f (b : Bool) (x : Fld) (s : State) : State := if b then s.uaFlag ch x else s
  let s := s.setUa ch { s.ua ch with inBreak := e.brk }
  let s1 := f e.brk Fd.UAn_STAT_BRK (f e.pe Fd.UAn_STAT_PE (f e.fe Fd.UAn_STAT_FE (s.bump Reg.UAn_CNTc [ch, 0])))
  if e.fe || e.pe || e.brk then s1.bump Reg.UAn_CNTc [ch, 2] else s1

/-- A host-owned channel stores the entry, or loses the byte (R304). -/
def State.uaStore (s : State) (ch : Nat) (e : UaEntry) : State :=
  let u := s.ua ch
  if 64 ≤ u.rx.length then
    ((s.setUa ch { u with lost := true }).uaFlag ch Fd.UAn_STAT_OVR).bump Reg.UAn_CNTc [ch, 3]
  else s.setUa ch { u with rx := u.rx ++ [e], lost := false }

/-! Refusal of a talker (R267) -/

/-- Counts, raises and logs the refusal with the sentence's stamp, and sends REFUSE_BYTE to a UART talker. -/
def State.refuseTalker (s : State) (n stamp : Nat) : State :=
  let s1 := (s.bump Reg.SEN_TALKt_CNTc [n, 6]).raise Fd.SEN_EVT_REFUSED [] (stamp % 2 ^ 32) (stamp / 2 ^ 32)
  let ch := s.f Fd.SEN_TALKt_CFG_SRC [n]
  if ch < 32 && s.fb Fd.SEN_TALKt_CFG_REFUSE_EN [n] then
    let u := s1.ua ch
    (s1.setUa ch { u with refuse := u.refuse ++ [BitVec.ofNat 8 (s.f Fd.SEN_TALKt_RATE_REFUSE_BYTE [n])] }).uaPump ch
  else s1

end Sys2Proof.Machine
end

