-- ==== Sys2Proof/Machine/Accept.lean ====
section
/-! DEFINITION. Roles of a pair (Table ASD-1), pairing frames (R221 to R224), and the acceptance of assured items
(R4 to R6, R31, R32, R214 to R219). -/

namespace Sys2Proof.Machine

open Sys2Proof

/-! Roles -/

def State.epoch (s : State) : Nat := (s.rd Reg.ASD_EPOCH).toNat

/-- Lanes of the Gable link that are up. -/
def State.gableLanes (s : State) : Nat := b2n (bitAt (s.f Fd.ASD_STAT_GABLE) 0) + b2n (bitAt (s.f Fd.ASD_STAT_GABLE) 1)

/-- A counter of Table ASD-9. -/
def State.asdCount (s : State) (c : Nat) (n : Nat := 1) : State :=
  s.bump64 Reg.ASD_CNTc_LO Reg.ASD_CNTc_HI [c] n

/-- REDUNDANT becomes 0 (R213, R216, R219, R226); a duty resynchronises its standby. -/
def State.redundantDown (s : State) : State :=
  let s := { s with asd := { s.asd with redTicks := 0 } }
  if s.fb Fd.ASD_STAT_REDUNDANT then (s.set0 Fd.ASD_STAT_REDUNDANT 0).raise Fd.ASD_EVT_REDUNDANT_DOWN else s

def State.redundantUp (s : State) : State :=
  if s.fb Fd.ASD_STAT_REDUNDANT then s else (s.set0 Fd.ASD_STAT_REDUNDANT 1).raise Fd.ASD_EVT_REDUNDANT_UP

/-- Without a Gable lane there is no redundancy (R219). -/
def State.gableLost (s : State) : State := if s.gableLanes = 0 then s.redundantDown else s

/-- This module fences itself (R222, R237, R240). -/
def State.fence (s : State) : State :=
  if s.role = 1 then ((s.redundantDown.set0 Fd.ASD_STAT_ROLE 3).asdCount 13).raise Fd.ASD_EVT_FENCED else s

/-! Pairing frames (Tables ASD-2, ASD-3, ASD-10) -/

/-- Traffic class of a record kind on the Gable link. -/
def kindTc (kind : Nat) : Nat :=
  match kind with
  | 1 => 4
  | 2 => 5
  | 3 => 5
  | 4 => 6
  | 5 => 7
  | 6 => 7
  | 7 => 7
  | 8 => 7
  | 9 => 3
  | 10 => 3
  | 11 => 2
  | _ => 1

/-- A record with its header, filled with 0 to a multiple of 4 bytes (R224). -/
def asdRecord (body : Bytes) : Bytes :=
  beBytes 2 body.length ++ beBytes 2 0 ++ body ++ List.replicate ((4 - body.length % 4) % 4) 0

/-- The payload of a pairing frame of this node. -/
def State.pairPayload (s : State) (kind : Nat) (records : List Bytes) : Bytes :=
  beBytes 1 kind ++ beBytes 1 1 ++ beBytes 2 records.length ++ beBytes 4 s.epoch ++ beBytes 8 s.tu.tick
    ++ (records.map asdRecord).flatten

/-- Sends a pairing frame in the Gable queue of its TC, where a Gable lane is up (R221, R223). Its destination address is
the model's choice (log entry 123). -/
def State.pairSend (s : State) (kind : Nat) (records : List Bytes) : State :=
  if s.gableLanes = 0 then s
  else s.sendControl 256 (kindTc kind) false (etherFrame 0x4F0000000001 256 0x88B6 (s.pairPayload kind records))

/-- A pairing frame that leaves at once, ahead of all queues, by the first Gable lane that is up: what is queued does not
outlive the reset that follows (R228, R237). -/
def State.pairNow (s : State) (kind : Nat) (records : List Bytes) : State :=
  if s.gableLanes = 0 then s
  else s.emit (.frame (if bitAt (s.f Fd.ASD_STAT_GABLE) 0 then 256 else 257)
    (etherFrame 0x4F0000000001 256 0x88B6 (s.pairPayload kind records)))

/-- A poisoned assured item waits for the partner's mirror copy (R182, R220). -/
def State.fetching (s : State) (d : Nat) : Bool :=
  let i := s.item d
  !i.poison.isEmpty && i.cls == .assured && s.role != 0 && s.asd.fetching.contains (Tab.get 0 s.asd.mrefOf d)

/-- A poisoned assured item of queue q is fetched from the partner where that holds its mirror; another is lost, as in
`lost`, with ASSURED_POISON and ERR_N (R182, R220). -/
def State.fetchOrLose (s lost : State) (d q : Nat) : State :=
  match s.role, Tab.get 0 s.asd.mrefOf d with
  | _ + 1, m + 1 =>
    (({ s with asd := { s.asd with fetching := (m + 1) :: s.asd.fetching } }).pairSend 9 [beBytes 4 m]).asdCount 10
  | _, _ => (lost.raise Fd.LDR_EVT_ASSURED_POISON [] q).assertErr

/-- The records of a received pairing frame, after its 16-byte header. -/
def asdRecords : Nat → Bytes → List Bytes
  | 0, _ => []
  | n + 1, bs =>
    let len := beAt bs 0 2
    (bs.drop 4).take len :: asdRecords n (bs.drop (4 + len + (4 - len % 4) % 4))

def recordsOf (p : Bytes) : List Bytes := asdRecords (beAt p 2 2) (p.drop 16)

/-- A MIRROR or FETCH_DATA record: cell c of an item. -/
def State.mirrorCell (_s : State) (i : Item) (mref key queue wtick cell : Nat) (poison notHeld : Bool) : Bytes :=
  let n := cellsOf i.bytes.length
  let last := cell + 1 == n
  let ns := i.stamp / 2 ^ 32 % 2 ^ 40
  beBytes 4 mref ++ beBytes 2 key ++ beBytes 2 queue ++ beBytes 2 i.bytes.length ++ beBytes 1 i.prio
    ++ beBytes 1 (b2n last + 2 * b2n poison + 4 * b2n notHeld) ++ beBytes 2 i.inPort ++ beBytes 2 wtick
    ++ beBytes 5 ns ++ beBytes 1 (i.stamp / 2 ^ 29 % 8) ++ beBytes 2 cell
    ++ (if notHeld then [] else (i.bytes.drop (256 * cell)).take 256)

/-- The time in ns that a length takes of the mirroring rate: 160 Gbit/s, or 76 Gbit/s over one lane (R116, R218). -/
def State.mirrorNs (s : State) (len : Nat) : Nat :=
  let r := if s.gableLanes = 2 then 160 else 76
  (8 * len + r - 1) / r

/-- Streams a MIRROR of an item cell by cell (R215); its bytes take their time of the mirroring rate (R218). -/
def State.sendMirror (s : State) (o : MirrorOut) : State :=
  let i := s.item o.desc
  let s1 := { s with asd := { s.asd with mirrorFree := max s.asd.mirrorFree s.raw + s.mirrorNs i.bytes.length } }
  ((List.range (cellsOf i.bytes.length)).foldl
    (fun s c => s.pairSend 1 [s.mirrorCell i o.mref o.key (o.queues.headD 0) o.wtick c false false]) s1).asdCount 0

/-! Acceptance -/

/-- No HELLO has arrived on the direct link for k ticks. -/
def State.noDirectHello (s : State) (k : Nat) : Bool :=
  match s.asd.direct with
  | some x => decide (Tab.get 0 s.cst.hello x + k ≤ s.tickCount)
  | none => true

/-- Condition 2 of R4 applies: at a duty, but where both Gable lanes are down and the partner's HELLOs still arrive on the
direct link, as in the last two ticks (R219, log entry 90). -/
def State.mirroring (s : State) : Bool := s.role == 1 && !(s.gableLanes == 0 && !s.noDirectHello 2)

/-- The write tick (R214). -/
def State.writeTick (s : State) : Nat := if s.tickPast (s.period - 2000) then s.tu.tick + 1 else s.tu.tick

def State.seqNext (s : State) (key : Nat) : Nat := Tab.get 0 s.fp.seqNext key

def State.setSeqNext (s : State) (key n : Nat) : State :=
  { s with fp := { s.fp with seqNext := Tab.set 0 s.fp.seqNext key (n % 65536) } }

/-- A refused assured frame is counted at its port, where it has one, and at its stream (R135). -/
def State.refusedFrame (s : State) (port : Nat) (stream : Option Nat) : State :=
  let s1 := match stream with
    | some k => { s with fp := { s.fp with refused := Tab.set 0 s.fp.refused k (satSucc 0xFFFFFFFF (Tab.get 0 s.fp.refused k)) } }
    | none => s
  (s1.fpCount port 5).raise Fd.FP_EVT_ASSURED_REFUSED [] port

/-- A refusal as the sender sees it (R6, R135, R267, R314, R408); a listener's sentence stays at the head of its queue. -/
def State.refusedBy (s : State) (src : AsrSrc) : State :=
  match src with
  | .frame port stream => s.refusedFrame port stream
  | .talker n stamp => s.refuseTalker n stamp
  | .host q => { s with hst := { s.hst with refused := s.hst.refused ++ [q] } }
  | .listener q d => s.unstartEntry q d
  | .reply q => (s.bump Reg.BRG_RSP_DROP).raise Fd.BRG_EVT_RSP_DROP [] q
  | .injected stream src => (s.refusedFrame 256 stream).refusedBy src
  | .engine => s

/-- An item is accepted, or its class needs no acceptance: a listener's sentence has gone and its read is over (R161,
R262). -/
def State.acceptedBy (s : State) (src : AsrSrc) : State :=
  match src with
  | .listener q d => ((s.removeEntry q d).releaseCopy d).bump Reg.SEN_LSNl_TX [q - 4097]
  | .injected _ src => s.acceptedBy src
  | _ => s

/-- The sender behind a frame that CTL sent into FAB. -/
def asrSender : AsrSrc → AsrSrc
  | .injected _ src => asrSender src
  | src => src

/-- Refuses a stored item: its cells are released, it takes no number and no queue sees it (R5, R31). -/
def State.refuse (s : State) (d : Nat) (src : AsrSrc) : State := (s.freeItem d).refusedBy src

/-- The queues that would ignore a copy for one of the given queues (R168, R233). -/
def State.fullOf (s : State) (qs : List Nat) : List Nat := (qs.map s.wrapQ).filter s.qFull

/-- An item with a copy for a full queue is refused as a whole; every full queue that it would have entered shows OVR (R168;
DEDUCED, log entry 161). -/
def State.refuseFull (s : State) (full : List Nat) (d : Nat) (src : AsrSrc) : State :=
  (full.foldl State.queueOverrun s).refuse d src

/-- Enqueues every copy of an accepted item. -/
def State.enqueueAccepted (s : State) (qs : List Nat) (d : Nat) : State :=
  if qs.isEmpty then s.freeItem d
  else qs.foldl (fun s q => s.pushEntry q d) (s.setItem d { s.item d with refs := qs.length })

/-- Key of an item's numbers and of its place among the items of one flow: its stream, or the port that it came by. -/
def Item.key (i : Item) : Nat := if i.hasStream then i.stream else 131072 + i.inPort

/-- An item without a number takes SEQ_NEXT, where its stream generates numbers (R136). -/
def State.number (s : State) (d key : Nat) : State :=
  let i := s.item d
  if i.seqValid ∨ !i.seqGen then s
  else (s.setItem d { i with seq := s.seqNext key, seqValid := true }).setSeqNext key (s.seqNext key + 1)

/-- Accepts an item: it takes its sequence number and is enqueued (R4, R5, R32, R136). -/
def State.accept (s : State) (d key : Nat) (queues : List Nat) (src : AsrSrc) : State :=
  ((s.number d key).enqueueAccepted queues d).acceptedBy src

/-- Offers a written assured item for acceptance: an item for a full queue is refused as a whole (R168), and so is any
item at a standby, a fenced module or one that waits for its role, which accept nothing (R4, R5, Table ASD-1). A mirroring
duty sends the MIRROR, once the mirroring rate allows it, and waits for the ACK (R215, R218). -/
def State.offer (s : State) (d key : Nat) (queues : List Nat) (src : AsrSrc) : State :=
  if !s.acting then s.refuse d src else
  match s.fullOf queues with
  | q :: qs => s.refuseFull (q :: qs) d src
  | [] =>
    if s.mirroring then
      let fits := decide (s.asd.mirrorFree ≤ s.raw) && s.asd.out.all (·.sent)
      let o : MirrorOut := {
        mref := s.asd.mrefNext, key := key, desc := d, queues := queues, wtick := s.writeTick, src := src, sent := fits }
      let s1 := { s with asd := { s.asd with mrefNext := (s.asd.mrefNext + 1) % 2 ^ 31, out := s.asd.out ++ [o] } }
      if fits then s1.sendMirror o else s1
    else s.accept d key queues src

/-- Held items are mirrored, oldest first, as far as the mirroring rate allows (R218). -/
def State.mirrorHeld (s : State) : State :=
  s.asd.out.foldl (fun s o =>
    if o.sent ∨ s.raw < s.asd.mirrorFree ∨ s.gableLanes = 0 then s
    else
      let out := s.asd.out.map (fun (x : MirrorOut) => if x.mref = o.mref then { x with sent := true } else x)
      ({ s with asd := { s.asd with out := out } }).sendMirror o) s

/-- Sends WITHDRAW for refused items, at most 64 to a record (R217). -/
def State.withdraw (s : State) (mrefs : List Nat) : State :=
  if mrefs.isEmpty then s
  else
    let chunks := (List.range ((mrefs.length + 63) / 64)).map (fun i => (mrefs.drop (64 * i)).take 64)
    (chunks.foldl (fun s c => s.pairSend 3 [beBytes 2 c.length ++ beBytes 2 0 ++ c.flatMap (beBytes 4)]) s).asdCount 4
      mrefs.length

/-- Refuses the waiting items that meet a test, and withdraws those that were mirrored (R217). -/
def State.refuseOut (s : State) (p : MirrorOut → Bool) : State :=
  let bad := s.asd.out.filter p
  let s1 := { s with asd := { s.asd with out := s.asd.out.filter (fun o => !p o) } }
  (bad.foldl (fun s o => s.refuse o.desc o.src) s1).withdraw ((bad.filter (·.sent)).map (·.mref))

/-- Refuses a mirrored item and every later one of its stream that is mirrored and waits, so that both modules keep the same
numbers (R217). -/
def State.refuseFrom (s : State) (o : MirrorOut) : State :=
  let late := (s.asd.out.dropWhile (fun x => x.mref != o.mref)).filter (fun x => x.key == o.key && x.sent)
  s.refuseOut (fun x => late.any (fun y => y.mref == x.mref))

/-- The standby drops a held item (R217, R220). -/
def State.dropHeld (s : State) (h : Held) : State :=
  match h.desc with | some d => s.releaseCopy d | none => s

end Sys2Proof.Machine
end

