-- ==== Sys2Proof/Machine/FieldIo.lean ====
section
/-! DEFINITION. Load channels on the power dies, the load command link, event inputs (spec/12), and the links between
dies (R24, R25). -/

namespace Sys2Proof.Machine

open Sys2Proof

/-! Links between dies (R24) -/

/-- A transfer on the fabric-control link (0) or the field link (1): with a good CRC it is delivered unless it was
delivered before; a bad one is retried, and the link is down after 16 failed retries of one transfer. -/
def State.transfer (s : State) (l seq : Nat) (ok : Bool) : State :=
  if s.fio.linkDown.contains l then s
  else if ok then
    { s with fio := { s.fio with linkRetries := Tab.set 0 s.fio.linkRetries l 0
                                 linkSeq := if seq = Tab.get 0 s.fio.linkSeq l then Tab.set 0 s.fio.linkSeq l (seq + 1)
                                            else s.fio.linkSeq } }
  else
    let n := Tab.get 0 s.fio.linkRetries l
    if n < 16 then { s with fio := { s.fio with linkRetries := Tab.set 0 s.fio.linkRetries l (n + 1) } }
    else
      let d := s.drawFree
      let s1 : State := { d.2 with fio := { d.2.fio with linkDown := insKey l d.2.fio.linkDown } }
      let s2 := s1.assertErr.logEvent (freeCode d.1) (BitVec.ofNat 32 l)
      if l = 0 then { s2 with asd := { s2.asd with linkDown := some s2.raw } } else s2

/-- A disturbance record of FLD, of the start or the end of a burst on the field wiring, goes to the event log; its CODE
and its arguments are open (R113, log entry 129). -/
def State.fieldBurst (s : State) (start : Bool) : State :=
  let d := s.drawFree
  d.2.logEvent (freeCode (Config.fieldBurst start)) (BitVec.ofNat 32 d.1.toNat) (BitVec.ofNat 32 (d.1.toNat / 2 ^ 32))

/-- The transfer is delivered: it is good, in order and not a repeat. -/
def State.delivers (s : State) (l seq : Nat) (ok : Bool) : Bool :=
  ok && !s.fio.linkDown.contains l && seq == Tab.get 0 s.fio.linkSeq l

/-- A transfer, and the disturbance record that it carries over the field link. -/
def execLinkTransferReceived (t : Nat) (field : Bool) (seq : Nat) (data : LinkCheck) (s : State) : Out :=
  let s := s.clock t
  match data with
  | .bad => .next (s.transfer (b2n field) seq false)
  | .good none => .next (s.transfer (b2n field) seq true)
  | .good (some b) =>
    let s1 := s.transfer (b2n field) seq true
    .next (if field && s.delivers 1 seq true then s1.fieldBurst b else s1)

/-- The fabric-control link or the field link is up, so that data cross it (R23, R24). -/
def State.fabricUp (s : State) : Bool := !s.fio.linkDown.contains 0
def State.fieldUp (s : State) : Bool := !s.fio.linkDown.contains 1

/-- What CTL learns from a power die comes over the field link (R23). -/
def State.told (s : State) (f : State → State) : State := if s.fieldUp then f s else s

/-! Power dies and their copy of the settings (R442) -/

def State.die (s : State) (d : Nat) : Die := Tab.get {} s.fio.dies d
def State.setDie (s : State) (d : Nat) (x : Die) : State := { s with fio := { s.fio with dies := Tab.set {} s.fio.dies d x } }
def State.lc (s : State) (n : Nat) : LoadCh := Tab.get {} s.fio.ls n
def State.setLc (s : State) (n : Nat) (x : LoadCh) : State := { s with fio := { s.fio with ls := Tab.set {} s.fio.ls n x } }

def dieChans (d : Nat) : List Nat := (List.range 12).map (· + 12 * d)

/-- Settings registers that a die copies, as register and indices. -/
def settingRegs (d : Nat) : List (RegDesc × List Nat) :=
  (dieChans d).flatMap (fun n => [(Reg.FIO_LSn_CFG, [n]), (Reg.FIO_LSn_PWM, [n]), (Reg.FIO_LSn_PHASE, [n])])
    ++ [(Reg.FIO_PROFu_CFG, [0]), (Reg.FIO_PROFu_CFG, [1])]

/-- The settings of a die as the active set holds them. -/
def State.settings (s : State) (d : Nat) : Tab (BitVec 32) :=
  (settingRegs d).foldl (fun m r => Tab.set 0 m (r.1.addr r.2) (s.rd r.1 r.2)) []

/-- A field of the settings on which the die of channel n acts; 0 while it holds no copy. -/
def State.lsf (s : State) (n : Nat) (x : Fld) (ix : List Nat) : Nat :=
  match (s.die (n / 12)).copy with
  | some c => bits (Tab.get 0 c (x.reg.addr ix)).toNat x.hi x.lo
  | none => 0

/-- CTL is up and has loaded its image, so that it can write copies. -/
def State.ctlUp (s : State) : Bool := s.operating && s.ready

/-- Writes the copy of a powered die over the field link (R23, R442). -/
def State.writeCopy (s : State) (d : Nat) : State :=
  if (s.die d).powered && s.fieldUp then s.setDie d { s.die d with copy := some (s.settings d) } else s

/-! Profiles (R330, Table FIO-2) -/

/-- ILIM in mA. -/
def ilimMa (code : Nat) : Nat := 500 * 2 ^ code

/-- What a profile gives: limit at turn-on and at the end of blanking in quarters of ILIM, blanking in ms, retries and
retry interval in ms. -/
def State.profile (s : State) (n : Nat) : Nat × Nat × Nat × Nat × Nat :=
  match s.lsf n Fd.FIO_LSn_CFG_PROFILE [n] with
  | 0 => (4, 4, 1, 3, 100)
  | 1 => (8, 8, 40, 3, 100)
  | 2 => (1, 4, 20, 3, 100)
  | 3 => (8, 8, 100, 3, 100)
  | 4 => (4, 4, 10, 3, 100)
  | 5 => (4, 4, 5, 3, 100)
  | u =>
    let k := [u - 6]
    let m := match s.lsf n Fd.FIO_PROFu_CFG_MULT k with | 1 => 6 | 2 => 8 | _ => 4
    (m, m, max 1 (min 1000 (s.lsf n Fd.FIO_PROFu_CFG_BLANK k)), s.lsf n Fd.FIO_PROFu_CFG_RETRIES k,
      max 10 (min 1000 (s.lsf n Fd.FIO_PROFu_CFG_RETRY_MS k)))

def State.retries (s : State) (n : Nat) : Nat := (s.profile n).2.2.2.1
def State.retryNs (s : State) (n : Nat) : Nat := (s.profile n).2.2.2.2 * 1000000

/-- Limits and blanking of a turn-on, with the whole profile or the short blanking (R329, R330). -/
def State.limitOf (s : State) (n : Nat) (prof : Bool) : LoadLimit :=
  let p := s.profile n
  let i := ilimMa (s.lsf n Fd.FIO_LSn_CFG_ILIM [n])
  if prof then { first := min 8000 (p.1 * i / 4), full := min 8000 (p.2.1 * i / 4), after := i, blank := p.2.2.1 * 1000000 }
  else { first := i, full := i, after := i, blank := 20000 }

/-! What CTL shows, and diagnostics -/

def lsOp (w : BitVec 32) : Nat := bits w.toNat 2 0

/-- STATE of a channel; where several apply the precedence of R338 decides. -/
def State.lsState (s : State) (n : Nat) : Nat :=
  let c := s.lc n
  if s.fio.uv.contains (n / 6) then 0xA
  else if c.tlatched then 7
  else if c.latched then 5
  else if c.thermal then 6
  else if c.groupOff then 9
  else if c.retry.isSome then 4
  else if (s.die (n / 12)).failsafe then 8
  else if c.on ∧ c.prof ∧ c.blank.isSome then 1
  else if lsOp c.word = 2 then 3
  else if c.on then 2 else 0

/-- CTL shows the state and the retry count of a channel. -/
def State.showLs (s : State) (n : Nat) : State :=
  s.told (fun s => (s.sf Fd.FIO_LSn_STAT_STATE [n] (s.lsState n)).sf Fd.FIO_LSn_STAT_RETRIES [n] (s.lc n).tries)

/-- Bit b of FLAGS tells in the tick's reading entry that an event occurred (R337). -/
def State.tickFlag (s : State) (n b : Nat) : State :=
  let k := (0x910 + 32 * n) / 4
  s.depositOnce s.nowNs (fun m => { m with words := Tab.set 0 m.words k (BitVec.ofNat 32 (setBits (Tab.get 0 m.words k).toNat
    (8 + b) (8 + b) 1)) })

/-- A diagnostic flag is an event for the task inputs that name it, with the measurement time of the reading that sets it
as its stamp (R69, R440): the next reading of the channel brings it. -/
def State.diag (s : State) (n b : Nat) : State := s.setLc n { s.lc n with diags := insKey b (s.lc n).diags }

/-- A reading with measurement time mtime sets the flags that wait for it. -/
def State.diagsRead (s : State) (n mtime : Nat) : State :=
  (s.lc n).diags.foldl (fun s b => s.taskEvent (.loadDiag n b) s.nowNs mtime 0 5) (s.setLc n { s.lc n with diags := [] })

def State.degenerate (s : State) (n : Nat) : State :=
  (s.diag n 4).told (fun s =>
    let s1 := s.tickFlag n 4
    if s1.fb Fd.FIO_LSn_STAT_DEGENERATE [n] then s1
    else (s1.setFlag Fd.FIO_LSn_STAT_DEGENERATE [n]).raise Fd.FIO_EVT_DEGENERATE [] n)

/-! The switch -/

/-- The switch of a channel goes on or off at a time. -/
def State.switch (s : State) (n : Nat) (on : Bool) (at_ : Nat) : State :=
  let c := s.lc n
  if c.on = on then s
  else if on then
    let long : Bool := match c.offAt with | some o => decide (o + 10000000 ≤ at_) | none => true
    let prof := c.force || long
    let l := s.limitOf n prof
    (s.setLc n { c with on := true, onAt := at_, prof := prof, force := false, blank := some (at_ + l.blank) }).emit
      (.loadSwitch n true at_ l)
  else
    (s.setLc n { c with on := false, offAt := some at_, blank := none
                        outPhase := if c.blank.isNone then some (c.outAt, at_) else c.outPhase }).emit
      (.loadSwitch n false at_ {})

/-- The on-phase in progress ends where it ends by time w (R326, R327). -/
def State.settleBy (s : State) (n w : Nat) : State :=
  let c := s.lc n
  match c.phaseEnd with
  | some e =>
    if e ≤ w then (s.setLc n { c with want := false, phaseEnd := none }).switch n false e else s
  | none => s

/-- The on-phase in progress ends where its time has passed. -/
def State.settle (s : State) (n : Nat) : State := s.settleBy n s.wall

/-- No protection state, supply fault or missing copy keeps the channel off. -/
def State.mayOn (s : State) (n : Nat) : Bool :=
  let c := s.lc n
  let d := s.die (n / 12)
  d.powered && d.copy.isSome && c.retry.isNone && !c.latched && !c.thermal && !c.tlatched && !c.groupOff
    && !s.fio.uv.contains (n / 6)

/-- The switch follows the command as far as protection lets it. -/
def State.follow (s : State) (n at_ : Nat) : State :=
  (s.switch n ((s.lc n).want && s.mayOn n) at_).showLs n

/-- Declares SHORT: the channel switches off, and retries or latches (R331). -/
def State.declareShort (s : State) (n : Nat) : State :=
  let s1 := s.told (fun s =>
    (((s.tickFlag n 1).setFlag Fd.FIO_LSn_STAT_SHORT [n]).bumpF Fd.FIO_LSn_CNT_SHORTS [n]).raise Fd.FIO_EVT_SHORT [] n)
  let s2 := s1.diag n 1
  let c := s2.lc n
  if c.tries < s2.retries n then
    (s2.setLc n { c with tries := c.tries + 1, retry := some (s2.wall + s2.retryNs n) }).follow n s2.wall
  else
    let s3 := (s2.setLc n { c with latched := true }).told (·.raise Fd.FIO_EVT_LATCHED [] n)
    (s3.diag n 2).follow n s3.wall

/-! Commands (R324 to R328) -/

/-- Period in ns, clamped, and the on-time that DUTY gives (R327). -/
def State.perNs (s : State) (n : Nat) : Nat := max 4000 (min 10000000 (s.lsf n Fd.FIO_LSn_PWM_PER [n])) * 10

def dutyOf (w : BitVec 32) : Nat := bits w.toNat 14 3
def stopUs (w : BitVec 32) : Nat := bits w.toNat 26 15

/-- A pulse as START and STOP in ns after the latch; none where it is empty or too short (R326, R328). -/
def State.pulseOf (s : State) (w : BitVec 32) : Option (Nat × Nat) :=
  let a := dutyOf w * 1000
  let b := min (stopUs w * 1000) s.period
  if b ≤ a ∨ s.period ≤ a ∨ b < a + 2000 then none else some (a, b)

/-- A PWM period starts at time w: the level and the end of its on-phase by DUTY (R327, R328). -/
def State.pwmStart (s : State) (n w : Nat) : State :=
  let per := s.perNs n
  let on := dutyOf (s.lc n).word * per / 4096
  let c := { s.lc n with pwmNext := some (w + per) }
  let off : LoadCh := { c with want := false, phaseEnd := none }
  if on = 0 then (s.setLc n off).follow n w
  else if on < 2000 then ((s.setLc n off).degenerate n).follow n w
  else if per < on + 2000 then ((s.setLc n { c with want := true, phaseEnd := none }).degenerate n).follow n w
  else (s.setLc n { c with want := true, phaseEnd := some (w + on) }).follow n w

/-- The edges of the command in force that lie before time b, from which the edges of the next command count. -/
def State.edgesBefore (s : State) (n b : Nat) : State :=
  let s1 := s.settleBy n b
  match (s1.lc n).pwmNext with
  | some w => if w < b ∧ lsOp (s1.lc n).word = 2 then s1.pwmStart n w else s1
  | none => s1

/-- A command takes effect at a latch whose edges count from time b (R325 to R327). -/
def State.command (s : State) (n : Nat) (w : BitVec 32) (b : Nat) : State :=
  let c := s.lc n
  let op := lsOp w
  let was := lsOp c.word
  match op with
  | 2 =>
    let per := s.perNs n
    let c1 := { c with word := w }
    if was = 2 ∧ c.pwmNext.isSome then (s.setLc n c1).follow n b
    else
      let ph := s.lsf n Fd.FIO_LSn_PHASE_PHASE [n] * 10 % per
      (s.setLc n { c1 with base := b, pwmNext := some (b + ph), phaseEnd := none }).follow n b
  | 3 =>
    let c1 := { c with word := w, base := b, pwmNext := none, phaseEnd := none, want := false }
    match s.pulseOf w with
    | some p =>
      if p.1 = 0 then (s.setLc n { c1 with want := true, phaseEnd := some (b + p.2) }).follow n b
      else (s.setLc n c1).follow n b
    | none => ((s.setLc n c1).degenerate n).follow n b
  | 1 => (s.setLc n { c with word := w, base := b, pwmNext := none, phaseEnd := none, want := true }).follow n b
  | _ =>
    (s.setLc n { c with word := w, base := b, pwmNext := none, phaseEnd := none, want := false, retry := none
                        groupOff := false }).follow n b

/-- CLEAR re-arms a channel that is latched or in GROUP_OFF, and its retry count returns to 0 (R329, R331, R333). -/
def State.rearm (s : State) (n : Nat) : State :=
  let c := s.lc n
  if c.latched || c.tlatched || c.groupOff then
    s.setLc n { c with latched := false, tlatched := false, groupOff := false, tries := 0 }
  else s

/-- A command word is latched: a reserved OP leaves the previous command in force, as OP 4h keeps it (R324). -/
def State.latchWord (s : State) (n : Nat) (w : BitVec 32) (b : Nat) : State :=
  let s0 := s.edgesBefore n b
  let c := s0.lc n
  let bad := decide (4 < lsOp w)
  let s1 := if (bitAt w.toNat 27 && !bad) || c.clear then s0.rearm n else s0
  let s2 := s1.setLc n { s1.lc n with clear := false }
  let s3 := if bad then s2.told (·.raise Fd.FIO_EVT_BAD_CMD [] n) else s2
  s3.command n (if 4 ≤ lsOp w then c.word else w &&& 0x07FFFFFF#32) b

/-! The load command link (R25, R338, R339) -/

def State.failsafeFld (d : Nat) : Fld := if d = 0 then Fd.FIO_STAT_FS_A else Fd.FIO_STAT_FS_B
def State.linkFld (d : Nat) : Fld := if d = 0 then Fd.FIO_STAT_LINK_A else Fd.FIO_STAT_LINK_B

/-- CTL sends command frames: from the first commit, in Operate, until the Tick Engine halts or the module is fenced
(R68, R339, Table ASD-1). -/
def State.framesFlow (s : State) : Bool :=
  s.ctlUp && s.tu.base.isSome && !s.fb Fd.TKE_STAT_HALT && s.role != 3 && s.asd.waiting.isNone

/-- Sends a frame to both dies, over the field link (R23). -/
def State.sendFrame (s : State) (tick : Bool) (words : List (BitVec 32)) (copy : Bool) : State :=
  if !s.fieldUp then s
  else [0, 1].foldl (fun s d =>
    let q := Tab.get 0 s.fio.seq d
    let f : LoadFrame := { seq := q, tick := tick, words := (words.drop (12 * d)).take 12
                           copy := if copy then some (s.settings d) else none }
    ({ s with fio := { s.fio with seq := Tab.set 0 s.fio.seq d (q + 1)
                                  flight := Tab.set none s.fio.flight d (some f) } }).emit (.loadFrame d f)) s

/-- The command words that the tick's frame carries: what is voted, else what is in force; a standby commands every
channel off (R37, Table ASD-1). -/
def State.loadWords (s : State) : List (BitVec 32) :=
  if s.role = 2 then List.replicate 24 0
  else (List.range 24).map (fun n => (Tab.get none s.tke.voted (2 * n)).getD (Tab.get 0 s.tke.force (2 * n)))

/-- The command frames of the tick are written (R25, Table ARC-6). -/
def State.sendTickFrames (s : State) : State :=
  if s.framesFlow then
    let s1 := s.sendFrame true s.loadWords s.fio.copyDue
    { s1 with fio := { s1.fio with words := s.loadWords, copyDue := false } }
  else s

/-- In a tick longer than 500 µs CTL repeats the last commands every 500 µs (R25). -/
def execRefreshFrameSend (t : Nat) (s : State) : Out :=
  let s := s.clock t
  let k := s.fio.refreshed + 1
  if 500000 < s.period ∧ 500000 * k < s.period ∧ s.tickPast (500000 * k) ∧ s.framesFlow ∧ s.fio.words ≠ [] then
    .next (({ s with fio := { s.fio with refreshed := k } } : State).sendFrame false s.fio.words false)
  else .next s

/-- A die takes the frame on its way to it: with a good CRC and the next sequence count it is valid and restarts the
watchdog; in FAILSAFE a frame out of sequence is a new base (R25, R339). -/
def State.dieFrame (s : State) (d : Nat) (ok : Bool) : State :=
  let x := s.die d
  match Tab.get none s.fio.flight d with
  | some f =>
    let s1 := { s with fio := { s.fio with flight := Tab.set none s.fio.flight d none } }
    if !x.powered then s1
    else
      let follows := x.next == some f.seq
      if ok && (follows || x.failsafe) then
        let k := if follows then x.streak + 1 else 1
        let y := { x with next := some (f.seq + 1), streak := k, wdt := some s.wall
                          got := if f.tick then some (f, k) else x.got }
        (s1.setDie d y).told (·.set0 (State.linkFld d) 1)
      else s1.setDie d { x with streak := 0 }
  | none => s

def execCommandFrameReceived (t : Nat) (die : Fin 2) (crcOk : Bool) (s : State) : Out :=
  .next ((s.clock t).dieFrame die.val crcOk)

/-- A converter round starts at a latch symbol whose instant is a multiple of 125 µs of consist time (R335). -/
def State.realign (s : State) (d : Nat) : State :=
  if s.instantNs % 125000 = 0 then s.setDie d { s.die d with round := some s.wall, prevRound := (s.die d).round } else s

/-- The command word of a channel at the latch: a drive import's word, or that of the frame (R48, R49). -/
def State.latchedWord (s : State) (n : Nat) (f : LoadFrame) : BitVec 32 :=
  if s.role ≠ 2 ∧ s.act.maps.drives.any (fun e => decide (e.out ≤ 8 * n ∧ 8 * n < e.out + e.len)) then
    Tab.get 0 s.tke.force (2 * n)
  else f.words.getD (n % 12) 0

/-- A die latches the tick frame that the latch symbol closes; edges lie 450 to 550 ns later (R325, R339, R442). -/
def State.latch (s : State) (d : Nat) : State :=
  let s0 := ({ s with fio := { s.fio with latchDue := s.fio.latchDue.filter (· != d) } } : State).realign d
  let x := s0.die d
  match x.got with
  | some (f, k) =>
    let s1 := s0.setDie d { x with got := none, copy := if f.copy.isSome then f.copy else x.copy }
    let exits := x.failsafe && decide (2 ≤ k)
    let s2 := if exits then
        (s1.setDie d { s1.die d with failsafe := false }).told (fun s =>
          (s.set0 (State.failsafeFld d) 0).raise Fd.FIO_EVT_FS_EXIT [] d)
      else s1
    if (s2.die d).failsafe then s2
    else
      let j := s2.drawFree
      (dieChans d).foldl (fun s n => s.latchWord n (s.latchedWord n f) (s.wall + 450 + j.1.toNat % 101)) j.2
  | none => s0

/-- The latch symbol that FLD sends at the instant reaches a die. -/
def execLatchSymbol (t : Nat) (die : Fin 2) (s : State) : Out :=
  let s := s.clock t
  if s.fio.latchDue.contains die.val ∧ (s.die die.val).powered then .next (s.latch die.val)
  else .next s

/-- A channel is forced off, with its protection state and its retries as they are (R338). -/
def State.forceOff (s : State) (n : Nat) : State :=
  (s.setLc n { s.lc n with word := 0, pwmNext := none, phaseEnd := none, want := false }).follow n s.wall

/-- The fail-safe state of a channel (R338). -/
def State.toFailsafe (s : State) (n : Nat) : State :=
  let s0 := s.settle n
  match Tab.get 0 (s0.die (n / 12)).nvmFs n with
  | 1 => (s0.setLc n { s0.lc n with force := !(s0.lc n).on }).command n 1 s0.wall
  | 2 => s0.showLs n
  | _ => s0.forceOff n

def execWatchdogExpiry (t : Nat) (die : Fin 2) (s : State) : Out :=
  let s := s.clock t
  let d := die.val
  let x := s.die d
  match x.wdt with
  | some w =>
    if x.powered ∧ !x.failsafe ∧ w + x.nvmWdt * 1000000 ≤ s.wall then
      let s1 := s.setDie d { x with failsafe := true, next := none, streak := 0, wdt := none, got := none }
      let s2 := s1.told (fun s =>
        ((s.set0 (State.failsafeFld d) 1).set0 (State.linkFld d) 0).raise Fd.FIO_EVT_FS_ENTER [] d)
      .next ((dieChans d).foldl State.toFailsafe s2)
    else .next s
  | none => .next s

/-- A die that has lost both its load supplies: its channels are off, and all it held but its NVM is lost (R21, R39). -/
def State.dieOff (s : State) (d : Nat) : State :=
  let x := s.die d
  let s1 := (dieChans d).foldl (fun s n => (s.switch n false s.wall).setLc n {}) s
  s1.setDie d { nvmFs := x.nvmFs, nvmWdt := x.nvmWdt }

/-- A die that powers up holds every channel off in FAILSAFE, and CTL writes its copy of the settings (R339, R442). -/
def execPowerDiePowerUp (t : Nat) (die : Fin 2) (s : State) : Out :=
  let s := s.clock t
  let d := die.val
  let x := s.die d
  let s1 := s.setDie d { powered := true, failsafe := true, nvmFs := x.nvmFs, nvmWdt := x.nvmWdt }
  let s2 := (dieChans d).foldl (fun s n => (s.switch n false s.wall).setLc n {}) s1
  let s3 := s2.told (fun s => (s.set0 (State.failsafeFld d) 1).set0 (State.linkFld d) 0)
  let s4 := if s3.ctlUp then s3.writeCopy d else s3
  .next ((dieChans d).foldl State.showLs s4)

/-- CTL writes FS and WDT_MS into the dies' NVM where they differ from the image, and their copies (R338, R442). -/
def State.writeDies (s : State) : State :=
  [0, 1].foldl (fun s d =>
    if (s.die d).powered && s.fieldUp then
      let fs := (dieChans d).foldl (fun m n => Tab.set 0 m n (s.f Fd.FIO_LSn_CFG_FS [n])) []
      (s.setDie d { s.die d with nvmFs := fs, nvmWdt := max 2 (min 64 (s.f Fd.FIO_CFG_WDT_MS)) }).writeCopy d
    else s) s

/-! Edges of pulses and PWM -/

def execPulseEdge (t : Nat) (ls : Fin 24) (on : Bool) (s : State) : Out :=
  let n := ls.val
  if on then
    let s := s.clock t
    let c := s.lc n
    match if lsOp c.word = 3 then s.pulseOf c.word else none with
    | some p =>
      if c.base + p.1 ≤ s.wall ∧ s.wall < c.base + p.2 ∧ !c.want then
        .next ((s.setLc n { c with want := true, phaseEnd := some (c.base + p.2) }).follow n (c.base + p.1))
      else .next s
    | none => .next s
  else
    let s := s.clock t
    if lsOp (s.lc n).word = 3 then .next ((s.settle n).showLs n) else .next s

/-- A PWM period starts (R327, R328). -/
def execPwmPeriodStart (t : Nat) (ls : Fin 24) (s : State) : Out :=
  let n := ls.val
  let s := s.clock t
  match (s.lc n).pwmNext with
  | some w =>
    if lsOp (s.lc n).word = 2 ∧ w ≤ s.wall then
      .next ((s.settle n).pwmStart n w)
    else .next s
  | none => .next s

/-! Protection (R329 to R334) -/

/-- Blanking ends: an output below 20 % of VLS is a short; otherwise the retry count returns to 0 (R331). -/
def execBlankingEnd (t : Nat) (ls : Fin 24) (low : Bool) (s : State) : Out :=
  let n := ls.val
  let s := (s.clock t).settle n
  let c := s.lc n
  match c.blank with
  | some e =>
    if c.on ∧ e ≤ s.wall then
      let s1 := s.setLc n { c with blank := none, outAt := e }
      if low then .next (s1.declareShort n) else .next ((s1.setLc n { s1.lc n with tries := 0 }).showLs n)
    else .next s
  | none => .next s

/-- The output has been below 20 % of VLS since raw count `since`, for 20 µs after blanking (R331). -/
def execShort (t : Nat) (ls : Fin 24) (since : Nat) (s : State) : Out :=
  let n := ls.val
  let s := (s.clock t).settle n
  let c := s.lc n
  if c.on ∧ c.blank.isNone ∧ s.elapsed since 20000 ∧ c.outAt + (s.raw - since) ≤ s.wall then .next (s.declareShort n)
  else .next s

/-- A retry is due, once the channel's sensor reads 150 °C or below (R331). -/
def execRetryIntervalExpiry (t : Nat) (ls : Fin 24) (temp : Int) (s : State) : Out :=
  let n := ls.val
  let s := s.clock t
  let c := s.lc n
  match c.retry with
  | some due =>
    if due ≤ s.wall ∧ temp ≤ 150 then .next ((s.setLc n { c with retry := none, force := true }).follow n s.wall)
    else .next s
  | none => .next s

/-- The channel's sensor reaches 170 °C; low: its output is below 20 % of VLS (R331, R333). Each time it does so counts. -/
def execThermal (t : Nat) (ls : Fin 24) (low : Bool) (s : State) : Out :=
  let n := ls.val
  let s := (s.clock t).settle n
  let c := s.lc n
  let tl := s.lsf n Fd.FIO_LSn_CFG_TLATCH [n] = 1
  let short := low && c.on && c.blank.isSome
  let c1 := { c with tlatched := c.tlatched || tl, thermal := c.thermal || (!short && !tl) }
  let s1 := (s.setLc n c1).told (fun s => (s.bumpF Fd.FIO_LSn_CNT_THERMALS [n]).raise Fd.FIO_EVT_THERMAL [] n)
  let s2 := s1.diag n 3
  if short then .next (s2.declareShort n) else .next (s2.follow n s2.wall)

/-- The sensor reads 150 °C or below (R333). -/
def execThermalRestart (t : Nat) (ls : Fin 24) (s : State) : Out :=
  let n := ls.val
  let s := (s.clock t).settle n
  let c := s.lc n
  if c.thermal then .next ((s.setLc n { c with thermal := false, force := true }).follow n s.wall)
  else .next s

/-- The average of the sum of some channels' readings, in units of 31.25 µA / 64. -/
def State.average (s : State) (ns : List Nat) : Nat :=
  sumNat (ns.map (fun n => sumNat (s.lc n).hist * 64 / max 1 (s.lc n).hist.length))

/-- Channels of a group of six, or of a die for which = 2, with the limit of 12 A or 16 A (R329). -/
def ocOf (d which : Nat) : List Nat × Nat :=
  if which = 2 then (dieChans d, 512000 * 64) else ((List.range 6).map (· + 12 * d + 6 * which), 384000 * 64)

def State.above (s : State) (d which : Nat) : Bool := decide ((ocOf d which).2 < s.average (ocOf d which).1)

/-- While an average lies above its limit, the on channel of highest index out of blanking is switched off, every 8 ms. -/
def execGroupOc (t : Nat) (die : Fin 2) (which : Fin 3) (s : State) : Out :=
  let d := die.val
  let s := (dieChans d).foldl State.settle (s.clock t)
  let x := s.die d
  let last := Tab.get 0 x.ocAt which.val
  if s.above d which.val ∧ (last = 0 ∨ last - 1 + 8000000 ≤ s.wall) then
    match ((ocOf d which.val).1.filter (fun n => (s.lc n).on && (s.lc n).blank.isNone)).reverse.head? with
    | some n =>
      let s1 := (s.setDie d { x with ocAt := Tab.set 0 x.ocAt which.val (s.wall + 1) }).setLc n
        { s.lc n with groupOff := true }
      let s2 := s1.told (·.raise Fd.FIO_EVT_GROUP_OC [] n)
      .next ((s2.diag n 5).follow n s2.wall)
    | none => .next s
  else .next s

def groupChans (g : Nat) : List Nat := (List.range 6).map (· + 6 * g)

/-- A group whose supply is below 7.0 V: its channels are off (R334). -/
def State.vlsLow (s : State) (g : Nat) : State :=
  if s.fio.uv.contains g then s
  else
    let s1 := ({ s with fio := { s.fio with uv := insKey g s.fio.uv } } : State).told (fun s =>
      (s.set0 Fd.FIO_STAT_VLS (setBits (s.f Fd.FIO_STAT_VLS) g g 0)).raise Fd.FIO_EVT_VLS_UV [] g)
    (groupChans g).foldl (fun s n => (s.diag n 7).follow n s.wall) s1

/-- A group's supply falls below 7.0 V (R334); with `lost` neither supply of its die is present any more, and the die is
without power (R21, R39). -/
def execVlsUv (t : Nat) (group : Fin 4) (lost : Bool) (s : State) : Out :=
  let g := group.val
  let s := ((groupChans g).foldl State.settle (s.clock t)).vlsLow g
  .next (if lost then s.dieOff (g / 2) else s)

/-- A group's supply rises above 7.5 V, and its channels follow their commands again through their profiles (R334). -/
def execVlsRestore (t : Nat) (group : Fin 4) (s : State) : Out :=
  let g := group.val
  let s := (groupChans g).foldl State.settle (s.clock t)
  let was := s.fio.uv.contains g
  let s1 := ({ s with fio := { s.fio with uv := s.fio.uv.filter (· != g) } } : State).told (fun s =>
    s.set0 Fd.FIO_STAT_VLS (setBits (s.f Fd.FIO_STAT_VLS) g g 1))
  if was then
    .next ((groupChans g).foldl (fun s n => (s.setLc n { s.lc n with force := true }).follow n s.wall) s1)
  else .next s1

/-- CLEAR is written: the channel is re-armed at the next latch (R331). -/
def State.lsClear (s : State) (n : Nat) : State := s.setLc n { s.lc n with clear := true }

def execLsClear (t : Nat) (party : Party) (ls : Fin 24) (s : State) : Out := .next (((s.clock t).hostWrite party).lsClear ls.val)

/-! Readings (R335 to R337) -/

/-- An acquisition of slot j may start at a time: it does so in the rounds of a die, in the present train or in the one
that the last latch symbol cut (R335). -/
def Die.slotAt (x : Die) (j w : Nat) : Bool :=
  let in_ (r : Nat) : Bool := decide (r ≤ w) && (w - r) % 125000 == 10400 * j
  match x.round, x.prevRound with
  | some r, some p => in_ r || (decide (w < r) && in_ p)
  | some r, none => in_ r || decide (w < r)
  | none, _ => true

/-- A reading acquired from time w counts for OPEN: it lies wholly inside an on-phase, the present or the last one, out of
its blanking (R336). -/
def State.qualifies (s : State) (n w : Nat) : Bool :=
  let c := s.lc n
  (c.on && c.blank.isNone && decide (c.outAt ≤ w)) ||
    (match c.outPhase with | some p => decide (p.1 ≤ w) && decide (w + 8000 ≤ p.2) | none => false)

/-- A paralleled channel may share the partner's current, so that it declares no OPEN (R340). -/
def State.parHold (s : State) (n : Nat) : Bool :=
  s.lsf n Fd.FIO_LSn_CFG_PAR [n] == 1 &&
    decide (s.wall < (s.lc n).onAt + ((s.die (n / 12)).nvmWdt + 1) * 1000000)

/-- OPEN is declared after eight low readings, and cleared after eight above the threshold (R336). -/
def State.openCheck (s : State) (n code thr : Nat) : State :=
  let c := s.lc n
  let lo := if code < thr then c.low + 1 else 0
  let hi := if thr < code then c.high + 1 else 0
  let s1 := s.setLc n { c with low := min 8 lo, high := min 8 hi }
  if 8 ≤ lo ∧ !s1.fb Fd.FIO_LSn_STAT_OPEN [n] ∧ !s1.parHold n then
    ((s1.sf Fd.FIO_LSn_STAT_OPEN [n] 1).raise Fd.FIO_EVT_OPEN [] n).diag n 0
  else if 8 ≤ hi then s1.sf Fd.FIO_LSn_STAT_OPEN [n] 0 else s1

/-- FLAGS of a reading entry (Table FIO-4), without the bits that tell of the tick. -/
def State.lsFlags (s : State) (n : Nat) : Nat :=
  let c := s.lc n
  b2n (s.fb Fd.FIO_LSn_STAT_OPEN [n]) + 4 * b2n c.latched + 8 * b2n (c.thermal || c.tlatched) + 32 * b2n c.groupOff
    + 64 * b2n (s.die (n / 12)).failsafe + 128 * b2n (s.fio.uv.contains (n / 6))

/-- A reading entry written into an image (Table FIO-4). -/
def ImageBuf.reading (b : ImageBuf) (n mtime code vout state flags temp retries : Nat) (led : Bool) : ImageBuf :=
  let k := (0x900 + 32 * n) / 4
  let old := (Tab.get 0 b.words (k + 3)).toNat
  let fresh := Tab.get 0 b.reads n == 0
  let lo := if fresh then code else min (old % 65536) code
  let hi := if fresh then code else max (old / 65536) code
  let told := (Tab.get 0 b.words (k + 4)).toNat &&& 0x1200
  let ws := [BitVec.ofNat 32 mtime, BitVec.ofNat 32 (mtime / 2 ^ 32),
    BitVec.ofNat 32 (code + 32768 * b2n led + 65536 * vout), BitVec.ofNat 32 (lo + 65536 * hi),
    BitVec.ofNat 32 (state + 256 * flags + 65536 * temp) ||| BitVec.ofNat 32 told, BitVec.ofNat 32 retries]
  { b with words := Tab.setList 0 b.words k ws, reads := Tab.set 0 b.reads n 1 }

/-- The sums of a die no longer above their limit start a new count of 8 ms at their next excursion (R329). -/
def State.ocEnds (s : State) (d : Nat) : State :=
  s.setDie d { s.die d with ocAt := (s.die d).ocAt.filter (fun e => s.above d e.1) }

/-- The entry of a reading: it is the latest of both images where it belongs to the frozen one, but a reading of that one's
tick alone (R46, R337). -/
def State.depositReading (s : State) (f : ImageBuf → ImageBuf) : State :=
  if s.tke.asmOpen ∧ s.nowNs ≤ s.instantNs then
    { s with tke := { s.tke with asm := f s.tke.asm, next := { f s.tke.next with reads := s.tke.next.reads } } }
  else { s with tke := { s.tke with next := f s.tke.next } }

/-- A reading ends: acquisition from raw count acq for 8 µs, checked by CTL at t. -/
def State.reading (s : State) (n acq code vout : Nat) (temp : BitVec 9) : State :=
  let led := s.lsf n Fd.FIO_LSn_CFG_LED [n] == 1 && s.lsf n Fd.FIO_LSn_CFG_ILIM [n] == 0
  let mtime := readNs (s.readingAt (acq + 4000))
  let w := s.wall - (s.raw - acq)
  let c := s.lc n
  let s1 := (s.setLc n { c with hist := ((if led then code else 64 * code) :: c.hist).take 64 }).ocEnds (n / 12)
  let s2 := (if s1.qualifies n w then s1.openCheck n code (if led then 48 else 10) else s1).diagsRead n mtime
  let d := n / 12
  let g := n / 6
  let s3 := (s2.set0 Fd.FIO_STAT_GROUP_OC (setBits (s2.f Fd.FIO_STAT_GROUP_OC) g g (b2n (s2.above d (g % 2))))).set0
    Fd.FIO_STAT_DIE_OC (setBits (s2.f Fd.FIO_STAT_DIE_OC) d d (b2n (s2.above d 2)))
  let s4 := ((s3.sf Fd.FIO_LSn_CUR_CURRENT [n] code).sf Fd.FIO_LSn_CUR_VOUT [n] vout).sf Fd.FIO_LSn_STAT_TEMP [n] temp.toNat
  s4.depositReading (fun b => b.reading n mtime code vout (s4.lsState n) (s4.lsFlags n) (wrapInt 16 temp.toInt)
    (s4.lc n).tries led)

def execLoadReading (t : Nat) (ls : Fin 24) (acq : Nat) (current vout : BitVec 12) (temp : BitVec 9) (s : State) : Out :=
  let n := ls.val
  let s := (s.clock t).settle n
  let x := s.die (n / 12)
  if x.powered ∧ s.fieldUp ∧ acq + 8000 ≤ s.raw ∧ x.slotAt (n % 12) (s.wall - (s.raw - acq)) then
    .next (s.reading n acq current.toNat vout.toNat temp)
  else .next s

/-! Event inputs (R341, R342) -/

def State.einCh (s : State) (n : Nat) : EinCh := Tab.get {} s.fio.ein n
def State.setEin (s : State) (n : Nat) (x : EinCh) : State := { s with fio := { s.fio with ein := Tab.set {} s.fio.ein n x } }

/-- FILT in ns. -/
def State.filtNs (s : State) (n : Nat) : Nat := min 10000 (s.f Fd.FIO_EINn_CFG_FILT [n]) * 1000

/-- A record of a confirmed edge for the tick's image; the ninth and later ones are lost (R342, Table FIO-5). -/
def State.einRecord (s : State) (n a etime seq : Nat) (rising : Bool) : State :=
  let buf := if s.tke.asmOpen ∧ a ≤ s.instantNs then s.tke.asm else s.tke.next
  let k := Tab.get 0 buf.edges n
  let off (k : Nat) : Nat := 0x100 + 128 * n + 16 * k
  if k < 8 then
    s.depositOnce a (fun b => { (b.put (off k) (wordsOf (leBytes 8 etime ++ leBytes 1 (b2n rising) ++ leBytes 1 0
      ++ leBytes 2 seq ++ leBytes 4 0))) with edges := Tab.set 0 b.edges n (k + 1) })
  else
    let s1 := s.depositOnce a (fun b =>
      let w := Tab.get 0 b.words ((off 7 + 8) / 4)
      { b with words := Tab.set 0 b.words ((off 7 + 8) / 4) (w ||| 0x100#32) })
    (s1.setFlag Fd.FIO_EINn_STAT_OVR [n]).raise Fd.FIO_EVT_EIN_OVR [] n

/-- A level has been held: the first one after a reset becomes the level without an edge; a later change is an edge. -/
def State.einConfirm (s : State) (n : Nat) : State :=
  let x := s.einCh n
  if !x.seen then (s.setEin n { x with seen := true }).sf Fd.FIO_EINn_STAT_LEVEL [n] (b2n x.ball)
  else if s.fb Fd.FIO_EINn_STAT_LEVEL [n] = x.ball then s
  else
    let q := x.edgeRd
    let s1 := (s.sf Fd.FIO_EINn_STAT_LEVEL [n] (b2n x.ball)).wrapF Fd.FIO_EINn_STAT_SEQ [n]
    let s2 := s1.wr64 Reg.FIO_EINn_LAST_LO Reg.FIO_EINn_LAST_HI [n] (BitVec.ofNat 64 (readNs q))
    if bitAt (s2.f Fd.FIO_EINn_CFG_EDGE [n]) (if x.ball then 0 else 1) then
      let a := readNs q + s2.filtNs n
      (s2.einRecord n a (readNs q) (s2.f Fd.FIO_EINn_STAT_SEQ [n]) x.ball).taskEvent (.ein n) a (readNs q) 0 1 x.ball
    else s2

/-- A transition restarts the filter, with its stamp, corrected to the ball, converted at once (R80, R81); with FILT 0 it is
confirmed at once (R341). -/
def execEinTransition (t : Nat) (ein : Fin 16) (level : Bool) (s : State) : Out :=
  let n := ein.val
  let s := s.clock t
  let x := s.einCh n
  if x.ball = level then .next s
  else
    let s1 := s.setEin n { x with ball := level, edgeAt := s.raw, edgeRd := s.readingAt (s.raw - Config.einDelay n) }
    if s1.filtNs n = 0 then .next (s1.einConfirm n) else .next s1

/-- The level has been held for FILT with no further transition, the end of FILT included (R341). -/
def execEinConfirm (t : Nat) (ein : Fin 16) (s : State) : Out :=
  let n := ein.val
  let s := s.clock t
  let d := s.filtNs n
  if s.elapsed (s.einCh n).edgeAt (d + b2n (d != 0)) then .next (s.einConfirm n) else .next s

/-- After a reset that reaches FIO no level is confirmed, and the filters count from the end of the reset (R341). -/
def State.einReset (s : State) : State :=
  { s with fio := { s.fio with ein := (List.range 16).foldl (fun m n =>
      Tab.set {} m n { ball := (s.einCh n).ball, edgeAt := s.raw }) [] } }

end Sys2Proof.Machine
end

