-- ==== Sys2Proof/Machine/Attic.lean ====
section
/-! DEFINITION. The Attic: settings slots, STORE and wear (R371 to R374), the pages of the event log (R376, R377), and the
reads of the event log and of the trace (R375, R378, R414). -/

namespace Sys2Proof.Machine

open Sys2Proof

/-! Stores (R373) -/

/-- The block with the lowest store count, on which wear levelling puts the next store, with that count. -/
def State.freshBlock (s : State) : Nat × Nat :=
  (List.range 1024).foldl (fun m b =>
    let c := Tab.get 0 s.cfg.cycles b
    if c < m.2 then (b, c) else m) (0, Tab.get 0 s.cfg.cycles 0)

/-- One store cycle on the block that wear levelling chooses, and what ATC_WEAR shows. -/
def State.wear (s : State) : State :=
  let x := s.freshBlock
  let cycles := Tab.set 0 s.cfg.cycles x.1 (x.2 + 1)
  let s1 := { s with cfg := { s.cfg with cycles := cycles } }
  (s1.set0 Fd.ATC_WEAR_MAX_CYCLES (cycles.foldl (fun m e => max m e.2) 0)).set0 Fd.ATC_WEAR_WORN
    ((cycles.filter (fun e => 100000 ≤ e.2)).length)

/-- A STORE is in progress in the Attic. -/
def State.storeBusy (s : State) : Bool := s.cfg.store.isSome || s.evt.storing.isSome

/-- The bytes of the slot buffer. -/
def State.atcBuf (s : State) : Bytes := bytesOfWords ((List.range 64).map (fun i => s.rd Reg.ATC_BUFi [i]))

/-- The bytes of a slot; a slot never stored is erased. -/
def State.slotBytes (s : State) (k : Nat) : Bytes :=
  let b := Tab.get [] s.cfg.slots k
  if b.isEmpty then List.replicate 256 0xFF#8 else b

/-- A host STORE of a slot from ATC_BUF: BUSY in hold-up and while another host STORE is in progress (R373, R374). -/
def State.atcStore (s : State) (slot : Nat) : State :=
  if s.cfg.store.isSome then s.set0 Fd.ATC_STAT_CODE 1
  else if s.fb Fd.POR_STAT_HOLDUP then (s.set0 Fd.ATC_STAT_STATE 3).set0 Fd.ATC_STAT_CODE 1
  else
    (({ s with cfg := { s.cfg with store := some (slot, s.atcBuf, s.raw) } }).set0 Fd.ATC_STAT_STATE 1).set0
      Fd.ATC_STAT_CODE 0

/-- The field link, behind which the Attic lies, is down (R371, R377). -/
def State.atticDown (s : State) : Bool := s.fio.linkDown.contains 1

/-- A READ of a slot into ATC_BUF; nothing comes over a field link that is down. -/
def State.atcRead (s : State) (slot : Nat) : State :=
  if s.atticDown then (if s.cfg.store.isSome then s else (s.set0 Fd.ATC_STAT_STATE 3).set0 Fd.ATC_STAT_CODE 3) else
  let ws := wordsOf (s.slotBytes slot)
  let s1 : State := (List.range 64).foldl (fun s i => s.wr Reg.ATC_BUFi [i] (ws.getD i 0)) s
  if s.cfg.store.isSome then s1 else (s1.set0 Fd.ATC_STAT_STATE 2).set0 Fd.ATC_STAT_CODE 0

/-- A write of ATC_CMD. -/
def State.atcCmd (s : State) (w : Nat) : State :=
  match bits w 1 0 with
  | 1 => s.atcStore (bits w 9 2)
  | 2 => s.atcRead (bits w 9 2)
  | _ => s

def execAtcStore (t : Nat) (party : Party) (slot : Fin 256) (s : State) : Out :=
  .next (((s.clock t).hostWrite party).atcStore slot.val)

def execAtcRead (t : Nat) (party : Party) (slot : Fin 256) (s : State) : Out :=
  .next (((s.clock t).hostWrite party).atcRead slot.val)

/-- The Attic log has failed: last-gasp entry, ERR_N, LOG_FAIL; later entries are volatile, and those of the page are
unstored still (R377). -/
def State.logFail (s : State) : State :=
  let page := match s.evt.storing with | some x => x.1 | none => []
  let s1 := { s with evt := { s.evt with storing := none, unst := s.evt.unst ++ page.reverse } }
  ((s1.gaspEntry 0x0480 0 0).assertErr.logEvent 0x0480).set0 Fd.EVT_STAT_LOG_FAIL 1

/-- The result of a STORE: 0 done, 2 WORN, 3 FAIL. -/
def State.storeResult (s : State) (verified : Bool) : Nat × State :=
  if 100000 ≤ s.freshBlock.2 then (2, s)
  else if verified then (0, s.wear)
  else (3, s.wear.wear.wear)

/-- A host STORE of a slot ends with a result. -/
def State.slotStored (s : State) (slot : Nat) (bytes : Bytes) (code : Nat) : State :=
  let s1 := { s with cfg := { s.cfg with store := none } }
  if code = 0 then
    (({ s1 with cfg := { s1.cfg with slots := Tab.set [] s1.cfg.slots slot bytes } }).set0 Fd.ATC_STAT_STATE 2).set0
      Fd.ATC_STAT_CODE 0
  else (s1.set0 Fd.ATC_STAT_STATE 3).set0 Fd.ATC_STAT_CODE code

/-- A STORE of a page of the event log ends with a result. -/
def State.pageStored (s : State) (page : List (Nat × LogEntry)) (code : Nat) : State :=
  if code = 0 then
    { s with evt := { s.evt with storing := none }, cfg := { s.cfg with log := ((page.map (·.2)).reverse ++ s.cfg.log).take 16384 } }
  else s.logFail

/-- The STORE in progress ends.  A page starts only where no STORE is in progress, so a host STORE that waits with one was
written later and follows it (R373).  With the field link down nothing is written, and the STORE fails (R377). -/
def State.storeDone (s : State) (verified : Bool) : State :=
  match s.evt.storing, s.cfg.store with
  | some x, _ =>
    if s.atticDown then s.logFail
    else (s.storeResult verified).2.pageStored x.1 (s.storeResult verified).1
  | none, some x =>
    if s.atticDown then s.slotStored x.1 x.2.1 3 else (s.storeResult verified).2.slotStored x.1 x.2.1 (s.storeResult verified).1
  | none, none => s

def execStoreDone (t : Nat) (verified : Bool) (s : State) : Out := .next ((s.clock t).storeDone verified)

/-- A wear-levelling block move yields to every STORE and costs a store cycle of its target block (R373, Table CFG-7). -/
def execWearMove (t : Nat) (s : State) : Out :=
  let s := s.clock t
  if s.storeBusy ∨ s.fb Fd.POR_STAT_HOLDUP then .next s else .next s.wear

/-! The log writer (R376) -/

/-- Credit of the page bucket in ms: one page takes 500 ms, and 64 pages are its burst. -/
def State.bucketNow (s : State) : Nat := min 32000 (s.evt.bucket + (s.raw - s.evt.bucketAt) / 1000000)

/-- A page is due: 8 entries wait, or 1 s has passed since the oldest one. -/
def State.pageDue (s : State) : Bool :=
  decide (8 ≤ s.evt.unst.length) || (match s.evt.unst.getLast? with | some e => s.elapsed e.1 1000000000 | none => false)

/-- Marks the first entry of a page as following lost ones. -/
def markLost : List (Nat × LogEntry) → List (Nat × LogEntry)
  | [] => []
  | e :: es => (e.1, { e.2 with flags := e.2.flags ||| 4#8 }) :: es

/-- The log writer stores a page of up to 8 entries. -/
def execLogPageStore (t : Nat) (s : State) : Out :=
  let s := s.clock t
  if s.pageDue && !s.storeBusy && !s.fb Fd.POR_STAT_HOLDUP && !s.fb Fd.EVT_STAT_LOG_FAIL && decide (500 ≤ s.bucketNow) then
    let page := s.evt.unst.reverse.take 8
    let page1 := if s.evt.lostFlag then markLost page else page
    .next { s with evt := { s.evt with
      unst := (s.evt.unst.reverse.drop 8).reverse, lostFlag := false, storing := some (page1, s.raw)
      bucket := s.bucketNow - 500, bucketAt := s.raw } }
  else .next s

/-- LOG_FAIL is read and written (R13); at 0 the next log STORE tries the Attic again (R377). -/
def State.evtStat (s : State) (w : Nat) : State := s.set0 Fd.EVT_STAT_LOG_FAIL (bits w 0 0)

def execLogFailClear (t : Nat) (party : Party) (s : State) : Out := .next (((s.clock t).hostWrite party).evtStat 0)

/-! Reads of the log and of the trace -/

/-- The 16 bytes of a trace record (Table HST-6). -/
def TraceRec.bytes (r : TraceRec) : Bytes :=
  leBytes 8 r.time.toNat ++ leBytes 1 r.type.toNat ++ leBytes 1 r.flags.toNat ++ leBytes 2 r.src.toNat
    ++ leBytes 4 r.arg.toNat

/-- The entry that EVT_RD_IDX selects: Attic log, volatile log, partner's entries or last-gasp log; none beyond its end. -/
def State.selectedEntry (s : State) : Option LogEntry :=
  let k := s.f Fd.EVT_RD_IDX_INDEX
  match s.f Fd.EVT_RD_IDX_SRC with
  | 0 => s.cfg.log[k]?
  | 1 => (s.evt.vol[k]?).map (·.2)
  | 2 => s.evt.plog[k]?
  | _ => (s.gasp[k]?).map (·.1)

/-- A read of EVT_RD_DATA0 captures the selected entry for the party; it returns word 0. -/
def State.evtRead (s : State) (party : Party) : State :=
  let ws := match s.selectedEntry with | some e => wordsOf e.bytes | none => List.replicate 8 0
  { s with evt := { s.evt with cap := Tab.set [] s.evt.cap party.ix ws } }

def execEvtReadCapture (t : Nat) (party : Party) (s : State) : Out :=
  let s1 := (s.clock t).evtRead party
  .next (s1.emit (.read party 0x40010 ((Tab.get [] s1.evt.cap party.ix).getD 0 0)))

/-- A read of TRC_RD_DATA0 captures the selected record for the party; it returns word 0. -/
def State.trcRead (s : State) (party : Party) : State :=
  let ws := match s.trc.buf[s.f Fd.TRC_RD_IDX_INDEX]? with | some r => wordsOf r.bytes | none => List.replicate 4 0
  { s with trc := { s.trc with cap := Tab.set [] s.trc.cap party.ix ws } }

def execTrcReadCapture (t : Nat) (party : Party) (s : State) : Out :=
  let s1 := (s.clock t).trcRead party
  .next (s1.emit (.read party 0xD0210 ((Tab.get [] s1.trc.cap party.ix).getD 0 0)))

end Sys2Proof.Machine
end

