-- ==== Sys2Proof/Machine/Ports.lean ====
section
/-! DEFINITION. Port groups and lanes (spec/04): states and counters of ports, and the frames that a port receives or sends.
Bring-up, loss, bursts and lane tests are in Machine/Lanes.lean, modules in Machine/Modules.lean. -/

namespace Sys2Proof.Machine

open Sys2Proof

/-! Port and lane references: 0 to 255 by lane, 256 and 257 for the Gable lanes (R115) -/

def State.pst (s : State) (n : Nat) : Nat :=
  if n < 256 then s.portState n else s.f Fd.ASD_Gg_PSTAT_STATE [n - 256]

/-- Puts a port in a state of Table PRT-3. -/
def State.setPst (s : State) (n v : Nat) : State :=
  let s1 := if n < 256 then s.sf Fd.PGn_Pp_STAT_STATE [n / 8, n % 8] v else s.sf Fd.ASD_Gg_PSTAT_STATE [n - 256] v
  { s1 with prt := { s1.prt with since := Tab.set 0 s1.prt.since n s.raw } }

/-- A counter of Table PRT-5. -/
def State.portCount (s : State) (n c : Nat) (k : Nat := 1) : State :=
  if n < 256 then s.bump64 Reg.PGn_Pp_CNTc_LO Reg.PGn_Pp_CNTc_HI [n / 8, n % 8, c] k
  else s.bump64 Reg.ASD_Gg_CNTc_LO Reg.ASD_Gg_CNTc_HI [n - 256, c] k

/-- The port that a lane belongs to; none where it belongs to no port. -/
def State.portOfLane (s : State) (l : Nat) : Option Nat :=
  if 256 ≤ l then some l
  else match lanesPerPort (s.f Fd.PGn_MODE_MODE [l / 8]) with
    | some k => some (l - l % 8 % k)
    | none => none

/-- The lanes of a port. -/
def State.portLanes (s : State) (n : Nat) : List Nat :=
  if 256 ≤ n then [n]
  else (List.range ((lanesPerPort (s.f Fd.PGn_MODE_MODE [n / 8])).getD 0)).map (n + ·)

/-- Sets a status flag of every lane of a port. -/
def State.laneFlag (s : State) (n : Nat) (pg g : Fld) (v : Nat) : State :=
  (s.portLanes n).foldl (fun s l => if l < 256 then s.sf pg [l / 8, l % 8] v else s.sf g [l - 256] v) s

/-- Link training runs: TRAIN_EN can be 1 only where C2M is 0 (R106). -/
def State.trainEn (s : State) (n : Nat) : Bool :=
  if n < 256 then s.fb Fd.PGn_Pp_CFG_TRAIN_EN [n / 8, n % 8] && !s.fb Fd.PGn_Pp_CFG_C2M [n / 8, n % 8]
  else s.fb Fd.ASD_Gg_CFG_TRAIN_EN [n - 256] && !s.fb Fd.ASD_Gg_CFG_C2M [n - 256]

def State.upHoldNs (s : State) (n : Nat) : Nat :=
  1000000 * (if n < 256 then s.f Fd.PGn_Pp_CFG_UP_HOLD [n / 8, n % 8] else s.f Fd.ASD_Gg_CFG_UP_HOLD [n - 256])

/-- FEC choices that a mode accepts (R103). -/
def fecOk (mode fec : Nat) : Bool :=
  match mode with
  | 0 => fec == 0
  | 1 => fec == 0 || fec == 1
  | _ => fec == 2

/-- A TEST register of a lane of the port is not 0 (R114). -/
def State.underTest (s : State) (n : Nat) : Bool :=
  (s.portLanes n).any (fun l => l < 256 && s.rd Reg.PGn_Ll_TEST [l / 8, l % 8] != 0)

/-- The FEC choice of a port is one that its mode accepts. -/
def State.fecGood (s : State) (n : Nat) : Bool :=
  256 ≤ n || fecOk (s.f Fd.PGn_MODE_MODE [n / 8]) (s.f Fd.PGn_Pp_CFG_FEC [n / 8, n % 8])

/-- The group of a port; the Gable lanes are group 32. -/
def groupIx (n : Nat) : Nat := n / 8

/-- An enabled port leaves DISABLED: to CAL, to WAIT_SIGNAL where its lanes keep valid calibration, or back to FAULT; a FEC
choice outside Table PRT-1 keeps it there (Table PRT-3, R103). -/
def State.portStart (s : State) (n : Nat) : State :=
  if s.pst n ≠ 0 ∨ n < 256 ∧ (!s.isPort n ∨ s.underTest n) then s
  else if !s.fecGood n then s.raise Fd.PGn_EVT_PORT_CFG_BAD [n / 8] (n % 8)
  else if s.prt.faulted.contains n then s.setPst n 8
  else if s.prt.cal.contains (groupIx n) then s.setPst n 2 else s.setPst n 1

/-- The recovered clock of a port is valid from its locks to their loss: RCLK_OK (R87). A Gable lane is no YCLK source of
its own: port 256 of the time unit is G0. -/
def State.setRclk (s : State) (n v : Nat) : State := if n ≤ 256 then s.sf Fd.TU_PORTn_STAT_RCLK_OK [n] v else s

/-! Loss of a port -/

def State.rx (s : State) (n : Nat) : Option RxFrame := Tab.get none s.fp.rx n
def State.setRx (s : State) (n : Nat) (r : Option RxFrame) : State :=
  { s with fp := { s.fp with rx := Tab.set none s.fp.rx n r } }

/-- The key of a port's received frame: 256 stands for what CTL sends, so the Gable lanes lie beyond. -/
def rxKey (n : Nat) : Nat := if n < 256 then n else n + 256

/-- Ends a frame on egress with an invalid FCS, from its own completion on (R35). -/
def State.spoilTx (s : State) (n : Nat) : State :=
  match (s.egress n).tx with
  | some x => s.setEgress n { s.egress n with tx := some { x with ended := true, bad := true } }
  | none => s

/-- A buffered express copy of a faulty frame is freed; where it has started, FAULT is written with LEN_VALID and the copy
that its port is sending is ended under R35; one whose sending was cut off waits for its lease (R146, R165, R167, R172). -/
def State.dropBuffered (s : State) (q d : Nat) : State :=
  if ((s.queue q).entries.find? (fun e => e.desc == d)).elim false (·.started) then
    let i := s.item d
    let s1 := s.setItem d { i with lenValid := true, fault := true, maxLen := i.bytes.length }
    if (s.egress (q / 8)).tx.any (fun x => x.item == some (q, d)) then s1.spoilTx (q / 8) else s1
  else (s.removeEntry q d).releaseCopy d

/-- Everything of a frame that is received is dropped: its item, its buffered copies and its cut-through copies. -/
def State.dropRx (s : State) (n : Nat) : State :=
  match s.rx n with
  | none => s
  | some r =>
    let s1 := s.setRx n none
    let s2 := match r.desc with | some d => s1.freeItem d | none => s1
    let s3 : State := r.buffered.foldl (fun s b => s.dropBuffered b.1 b.2) s2
    r.cut.foldl State.spoilTx s3

/-- A frame that is sent is ended at once with an invalid FCS and counted; a stored copy stays started under its lease, and
one for the Gable link waits for either lane (R35, R107, R172, R221). -/
def State.abortTx (s : State) (n : Nat) : State :=
  match (s.egress n).tx with
  | some x =>
    let s1 := ((s.setEgress n { s.egress n with tx := none, preempted := none }).portCount n 15).emit (.aborted n)
    match x.item with
    | some (q, d) => if 6136 ≤ q then s1.unstartEntry q d else s1
    | none => s1
  | none => s.setEgress n { s.egress n with preempted := none }

/-! The sender of a Gable lane (R221) -/

def State.gableLane (s : State) (g : Nat) : GableLane := Tab.get {} s.asd.lanes g

def State.setGableLane (s : State) (g : Nat) (l : GableLane) : State :=
  { s with asd := { s.asd with lanes := Tab.set {} s.asd.lanes g l } }

/-- Puts entries at the front of a queue. -/
def State.pushFront (s : State) (q : Nat) (es : List QEntry) : State :=
  if es.isEmpty then s
  else
    let s1 := (s.setEntries q (es ++ (s.queue q).entries)).set0 Fd.LDR_QE_USED_COUNT (s.f Fd.LDR_QE_USED_COUNT + es.length)
    es.foldl (fun s e => s.setItem e.desc { s.item e.desc with copies := (s.item e.desc).copies + 1 }) s1

end Sys2Proof.Machine
end

