-- ==== Sys2Proof/Machine/Frame.lean ====
section
/-! DEFINITION. Frames: corrected PTP event messages (R85), stream keys and the hashed tables (R130 to R132, R142), and
the edits of the egress MAC (R152). -/

namespace Sys2Proof.Machine

open Sys2Proof

def swap16 (n : Nat) : Nat := n % 256 * 256 + n / 256 % 256

/-- The 16-bit words of 8 bytes at an offset, summed. -/
def words8 (f : Bytes) (o : Nat) : Nat := sumNat ((List.range 4).map (fun i => beAt f (o + 2 * i) 2))

/-- Adds to the correctionField of an event message. Over IPv4 the UDP checksum becomes 0; over IPv6 the 2-byte trailer
after the message takes what keeps the one's-complement sum of the datagram, and a message without the trailer has no
correction. -/
def correctPtp (h : Hdr) (f : Bytes) (delta : Int) : Option Bytes :=
  let m := ptpAt h f
  let g := addCorr f m delta
  match ptpTransport h f with
  | .ethernet => some g
  | .udp6 true =>
    let len := beAt f (m - 4) 2 - 8
    let o := m + len - 2
    let turn (n : Nat) : Nat := if len % 2 = 0 then n else swap16 n
    let t := (turn (beAt f o 2) + words8 f (m + 8) + 4 * 65535 - words8 g (m + 8)) % 65535
    some (patchFrame g o (beBytes 2 (turn t)))
  | .udp6 false => none
  | .udp4 => some (patchFrame g (m - 2) [0, 0])

/-! Hashed tables -/

/-- A stream key: METHOD, the key words 0 to 3, and entry B for IPv6 (Table FRM-2). -/
structure StreamKey where
  method : Nat
  words : List Nat
  wordsB : List Nat := []
  word5 : Nat := 0
  word6 : Nat := 0
  deriving DecidableEq, Repr

/-- The keys of a frame in the order of R130. A lookup by ports is made with port bits 0 where the ports are absent, as
R126 reads an absent field (DEDUCED, log entry 161). -/
def streamKeys (h : Hdr) (vid : Nat) : List StreamKey :=
  let mac (m a : Nat) : StreamKey := { method := m, words := [a % 2 ^ 32, a / 2 ^ 32 + 65536 * vid, 0, 0] }
  let w128 (a : Nat) : List Nat := (List.range 4).map (fun i => a / 2 ^ (32 * i) % 2 ^ 32)
  let ipk := match h.ip with
    | some k =>
      if k.v6 then [{ method := 3, words := w128 k.src, wordsB := w128 k.dst, word5 := k.dport + 65536 * k.sport
                      word6 := k.proto + 256 * vid }]
      else
        [{ method := 2, words := [k.src, k.dst, k.dport + 65536 * k.sport, k.proto + 256 * vid] },
         { method := 4, words := [k.src, k.dst, 0, 256 * vid] }, { method := 4, words := [0, k.dst, 0, 256 * vid] }]
    | none => []
  ipk ++ [mac 1 h.sa, mac 0 h.da]

/-- The bucket of a key: bits [13:0] of the CRC-32 over its words and METHOD (R132). -/
def StreamKey.bucket (k : StreamKey) : Nat :=
  crc32 (k.words.flatMap (leBytes 4) ++ k.wordsB.flatMap (leBytes 4) ++ leBytes 1 k.method) % 16384

/-- Stream entry i holds key k for the ingress port; an IPv6 pair starts at an even index. -/
def State.streamHolds (s : State) (k : StreamKey) (port i : Nat) : Bool :=
  let w4 := s.streamWord i 4
  let inPort := bits w4 17 9
  let here := (List.range 4).all (fun j => s.streamWord i j == k.words.getD j 0) && bits w4 2 0 == k.method &&
    bitAt w4 31 && !bitAt w4 3 && (inPort == 0x1FF || inPort == port)
  let pair := k.wordsB.isEmpty || (i % 2 == 0 && (List.range 4).all (fun j => s.streamWord (i + 1) j == k.wordsB.getD j 0) &&
    bits (s.streamWord (i + 1) 4) 2 0 == 3 && bitAt (s.streamWord (i + 1) 4) 3 && bitAt (s.streamWord (i + 1) 4) 31 &&
    s.streamWord (i + 1) 5 == k.word5 && bits (s.streamWord (i + 1) 6) 19 0 == k.word6)
  here && pair

/-- Stream identification: the first match in the order of R130. -/
def State.findStream (s : State) (h : Hdr) (vid port : Nat) : Option Nat :=
  (streamKeys h vid).findSome? (fun k =>
    ((List.range 4).map (4 * k.bucket + ·)).find? (s.streamHolds k port))

/-- Fields of a stream entry (Table FRM-5). -/
structure StreamAct where
  cls : Nat
  tc : Nat
  meter : Option Nat
  seqGen : Bool
  recov : Option Nat
  dest : Nat
  kind : Nat
  maxFrame : Nat
  deriving DecidableEq, Repr

def State.streamAct (s : State) (i : Nat) : StreamAct :=
  let w4 := s.streamWord i 4
  let w5 := s.streamWord i 5
  let w6 := s.streamWord i 6
  { cls := bits w4 5 4, tc := bits w4 8 6, meter := if bitAt w5 14 then some (bits w5 13 0) else none
    seqGen := bitAt w5 15, recov := if bitAt w5 30 then some (bits w5 29 16) else none
    dest := bits w6 15 0, kind := bits w6 17 16, maxFrame := bits (s.streamWord i 7) 13 0 }

/-- Bucket of a FID and MAC address in the forwarding database (R142). -/
def fdbBucket (fid mac : Nat) : Nat :=
  crc32 (leBytes 1 (fid % 256) ++ leBytes 1 (fid / 256) ++ beBytes 6 mac) % 65536

/-- Word w of forwarding entry i. -/
def fdbOff (i w : Nat) : Nat := 0x400000 + 16 * i + 4 * w
def State.fdbWord (s : State) (i w : Nat) : Nat := s.fpw (fdbOff i w)

def State.fdbValid (s : State) (i : Nat) : Bool := bitAt (s.fdbWord i 1) 31
def State.fdbStatic (s : State) (i : Nat) : Bool := bitAt (s.fdbWord i 1) 30

/-- The valid entry of a FID and MAC address. -/
def State.fdbFind (s : State) (fid mac : Nat) : Option Nat :=
  ((List.range 4).map (4 * fdbBucket fid mac + ·)).find? (fun i =>
    s.fdbValid i && s.fdbWord i 0 == mac % 2 ^ 32 && bits (s.fdbWord i 1) 15 0 == mac / 2 ^ 32 &&
    bits (s.fdbWord i 1) 27 16 == fid)

/-- Ports of a multicast group, and its service queue (Table FRM-5, R143). -/
def State.groupOf (s : State) (g ingress : Nat) : List Nat × List Nat :=
  let base := 0x100000 + 64 * g
  let w8 := s.fpw (base + 32)
  if bitAt w8 31 then
    (((List.range 256).filter (fun n => bitAt (s.fpw (base + 4 * (n / 32))) (n % 32) &&
        !(bitAt w8 13 && n == ingress))),
     if bitAt w8 12 then [2048 + bits w8 11 0] else [])
  else ([], [])

/-! Egress edits (R136, R152) -/

/-- A C-tag. -/
def ctagBytes (pcp : Nat) (dei : Bool) (vid : Nat) : Bytes := beBytes 2 0x8100 ++ beBytes 2 (pcp * 8192 + b2n dei * 4096 + vid)

/-- A frame as it leaves port n: R-TAG with its hop number, VLAN tag and FCS. -/
def State.editFrame (s : State) (n vid pcp : Nat) (seq : Option Nat) (hop : Nat) (f : Bytes) : Bytes :=
  let h := parseFrame f
  let keep := n ≥ 256 || s.fb Fd.FP_PORTn_CFG_RTAG_KEEP [n] || s.isRingPort n
  let rtag := match seq with
    | some q => if keep then beBytes 2 0xF1C1 ++ beBytes 2 hop ++ beBytes 2 q else []
    | none => []
  let untag := n < 256 && s.f Fd.FP_PORTn_CFG_PVID [n] == vid && s.fb Fd.FP_PORTn_CFG_UNTAG_PVID [n]
  let dei := match h.ctag with | some t => t.dei | none => false
  let stag := if h.stag.isSome then slice f 12 4 else []
  let rest := (f.take (f.length - 4)).drop (h.body - 2)
  withFcs (f.take 12 ++ stag ++ (if untag then [] else ctagBytes pcp dei vid) ++ rtag ++ rest)

end Sys2Proof.Machine
end

