-- ==== Sys2Proof/Machine/FrameIn.lean ====
section
/-! DEFINITION. The ingress side of the frame path: meters, sequence recovery, learning, destinations, express
cut-through and the Larder write (R125 to R146, R165 to R177). -/

namespace Sys2Proof.Machine

open Sys2Proof

/-! Meters (R134) -/

inductive Colour where
  | green | yellow | red
  deriving DecidableEq, Repr

/-- The two-rate three-colour algorithm on a frame of len bytes with ingress stamp now, in 0.125 ns; bucket levels in
10^-6 bit. -/
def meterStep (w0 w1 w2 w3 : Nat) (m : MeterState) (now len : Nat) (yellowIn : Bool) : Colour × MeterState :=
  let cbs := bits w1 23 0 * 8000000
  let ebs := bits w3 23 0 * 8000000
  let m0 : MeterState := match m.at_ with
    | some a =>
      let dt := now - a
      let c := m.committed + bits w0 23 0 * 8 * dt
      let above := if bitAt w0 30 then c - cbs else 0
      { m with committed := min cbs c, excess := min ebs (m.excess + bits w2 23 0 * 8 * dt + above)
               at_ := some (max a now) }
    | none => { m with committed := cbs, excess := ebs, at_ := some now }
  let need := len * 8000000
  let latched := bitAt w0 27 && m.red
  let yin := bitAt w0 29 && yellowIn
  if latched then (.red, m0)
  else if !yin ∧ need ≤ m0.committed then (.green, { m0 with committed := m0.committed - need })
  else if need ≤ m0.excess then (.yellow, { m0 with excess := m0.excess - need })
  else (.red, { m0 with red := m0.red || bitAt w0 27 })

/-- Colours a frame with an ingress stamp on meter i. A frame of a stream whose meter is not in use is green: the spec
gives a meter with VALID 0 no colour (DESIGN CHOICE, log entry 122). -/
def State.meter (s : State) (i len stamp : Nat) (yellowIn : Bool) : Colour × State :=
  let base := 0x800000 + 32 * i
  let w (k : Nat) : Nat := s.fpw (base + 4 * k)
  if bitAt (w 0) 31 then
    let r := meterStep (w 0) (w 1) (w 2) (w 3) (Tab.get {} s.fp.meters i) stamp len yellowIn
    (r.1, s.sumFire { s with fp := { s.fp with meters := Tab.set {} s.fp.meters i r.2 } } 19)
  else (.green, s)

/-! Sequence recovery (R137 to R140) -/

structure RecovCfg where
  valid : Bool
  resetTicks : Nat
  hist : Nat
  alg : Nat
  egress : Bool
  port : Nat
  deriving DecidableEq, Repr

def State.recovCfg (s : State) (i : Nat) : RecovCfg :=
  let w := s.fpw (0x880000 + 32 * i)
  { valid := bitAt w 31, resetTicks := bits w 15 0, hist := bits w 21 16, alg := bits w 23 22, egress := bitAt w 24
    port := bits (s.fpw (0x880000 + 32 * i + 4)) 8 0 }

def State.recov (s : State) (i : Nat) : Recov := Tab.get {} s.fp.recov i

def State.setRecov (s : State) (i : Nat) (r : Recov) : State :=
  { s with fp := { s.fp with recov := Tab.set {} s.fp.recov i r }
           asd := { s.asd with recovSent := insKey i s.asd.recovSent } }

inductive Verdict where
  | pass | duplicate | rogue | hold
  deriving DecidableEq, Repr

def Recov.pass (r : Recov) (q tick : Nat) : Recov :=
  { r with seq := q, takeAny := false, passed := satSucc 0xFFFFFFFF r.passed, passTick := tick }
def Recov.dup (r : Recov) : Recov := { r with discarded := satSucc 0xFFFFFFFF r.discarded }
def Recov.rogue_ (r : Recov) : Recov := { r with rogue := satSucc 0xFFFF r.rogue }

/-- The k most recent numbers of a history. -/
def histKeep (h : BitVec 64) (k : Nat) : BitVec 64 := BitVec.ofNat 64 (h.toNat % 2 ^ k)

/-- Numbers not seen among the k oldest bits of a history of length n. -/
def lostBits (h : BitVec 64) (n k : Nat) : Nat :=
  ((List.range n).filter (fun i => n ≤ i + k && !bitAt h.toNat i)).length

/-- The vector recovery algorithm of IEEE 802.1CB with history length hist (R138). -/
def vectorStep (hist : Nat) (r : Recov) (q tick : Nat) : Verdict × Recov :=
  let d := (q + 65536 - r.seq % 65536) % 65536
  if r.takeAny then (.pass, { r.pass q tick with history := 1 })
  else if d = 0 ∨ 32768 ≤ d then
    let back := (65536 - d) % 65536
    if hist ≤ back then (.rogue, r.rogue_)
    else if bitAt r.history.toNat back then (.duplicate, r.dup)
    else (.pass, { r.pass r.seq tick with history := r.history ||| BitVec.ofNat 64 (2 ^ back) })
  else if hist ≤ d then (.rogue, r.rogue_)
  else (.pass, { r.pass q tick with history := histKeep ((r.history <<< d) ||| 1) hist
                                    lost := min 0xFFFF (r.lost + lostBits r.history hist d) })

/-- The match recovery algorithm of IEEE 802.1CB (R138). -/
def matchStep (r : Recov) (q tick : Nat) : Verdict × Recov :=
  if !r.takeAny ∧ r.seq = q then (.duplicate, r.dup) else (.pass, r.pass q tick)

/-- Ordered recovery (R138). -/
def orderedStep (hist : Nat) (r : Recov) (q tick : Nat) : Verdict × Recov :=
  let d := (q + 65536 - r.seq % 65536) % 65536
  if r.takeAny then (.pass, r.pass q tick)
  else if d = 0 ∨ 32768 ≤ d ∨ r.held.any (fun h => h.1 == q) then (.duplicate, r.dup)
  else if hist < d then (.rogue, r.rogue_)
  else if d = 1 then (.pass, r.pass q tick)
  else (.hold, r)

/-- One item with number q at a function. A function with VALID 0 or the reserved ALG 3h passes every item: the spec
gives it no algorithm (DESIGN CHOICE, log entry 122). -/
def recovStep (c : RecovCfg) (r : Recov) (q tick : Nat) : Verdict × Recov :=
  match c.alg with
  | 0 => vectorStep c.hist r q tick
  | 1 => matchStep r q tick
  | 2 => orderedStep c.hist r q tick
  | _ => (.pass, r)

/-- Runs function i on number q at port n: counters and ROGUE. -/
def State.recover (s : State) (i q n : Nat) : Verdict × State :=
  let c := s.recovCfg i
  let r := recovStep c (s.recov i) q s.strobes
  let s1 := s.setRecov i r.2
  match r.1 with
  | .duplicate => (.duplicate, s1.fpCount n 6)
  | .rogue => (.rogue, s1.raise Fd.FP_EVT_ROGUE [] i)
  | v => (v, s1)

/-- Holds an item of an ordered function, in order of its distance from RECOV_SEQ. -/
def State.holdItem (s : State) (i q d : Nat) (queues : List Nat) : State :=
  let r := s.recov i
  let dist (x : Nat) : Nat := (x + 65536 - r.seq % 65536) % 65536
  let before := r.held.filter (fun h => dist h.1 < dist q)
  let after := r.held.filter (fun h => dist q ≤ dist h.1)
  s.setRecov i { r with held := before ++ [(q, d, queues, s.strobes)] ++ after }

/-- The held items that follow RECOV_SEQ without a gap, taken out (R138). -/
def Recov.run : Nat → Recov → Nat → Recov × List (Nat × List Nat)
  | 0, r, _ => (r, [])
  | n + 1, r, tick =>
    match r.held with
    | h :: hs =>
      if h.1 = (r.seq + 1) % 65536 then
        let x := Recov.run n ({ r with held := hs }.pass h.1 tick) tick
        (x.1, (h.2.1, h.2.2.1) :: x.2)
      else (r, [])
    | [] => (r, [])

/-- The reference by which the state copy names a zone-bound item, which both modules of a pair derive from its stream and
sequence number: the spec gives it none (R220, DESIGN CHOICE, log entry 152). -/
def Item.zoneRef (i : Item) : Nat :=
  2 ^ 31 + i.key % 32768 * 65536 + (if i.seqValid then i.seq else crc32 i.bytes) % 65536

/-- A zone-bound item at a standby is kept as a mirror is, beside its copies that pass on (R211). -/
def State.holdZone (s : State) (d : Nat) (queues : List Nat) : State :=
  let i := s.item d
  let h : Held := { mref := i.zoneRef, key := i.key % 65536, queue := i.zone.headD 0, len := i.bytes.length, prio := i.prio
                    inPort := i.inPort, desc := some d, done := true, queues := i.zone }
  let s1 := ({ s with asd := { s.asd with held := s.asd.held ++ [h] } }).setItem d { i with refs := queues.length + 1 }
  queues.foldl (fun s q => s.pushEntry q d) s1

/-- The source of an assured frame, as its refusal goes back to it. -/
def Item.src (i : Item) : AsrSrc := .frame i.inPort (if i.hasStream then some i.stream else none)

/-- An express item that ordered recovery has held goes on as buffered copies, each under the reserve of its own egress; the
fabric-control link is egress 256 (R34, R138, R173, R175). -/
def State.expressOut (s : State) (d : Nat) (queues : List Nat) : State :=
  let i := s.item d
  let k := cellsOf i.bytes.length
  let put (s : State) (q : Nat) : State :=
    let p := if q < 2048 then s.wrapDest (q / 8) else 256
    let w := if s.freeIn 0 p 0 < k then (s, none)
      else s.storeItem { i with charges := [⟨0, p, 0, k⟩], cells := [], copies := 1, refs := 1 }
    match w.2 with
    | some e => (w.1.pushEntry q e).fpCount p 10
    | none => (w.1.bump Reg.LDR_EXP_DROP_CNT).raise Fd.LDR_EVT_EXP_OVR [] p
  (queues.foldl put s).freeItem d

/-- At a duty an item from the ring that leaves the consist here is named in the state copy when its copies are released
(R220). -/
def State.noteZone (s : State) (d : Nat) (queues : List Nat) : State :=
  if s.role = 1 ∧ queues.any (fun q => 2048 ≤ q || s.isEdge (q / 8)) then
    { s with asd := { s.asd with mrefOf := Tab.set 0 s.asd.mrefOf d ((s.item d).zoneRef + 1) } }
  else s

/-- An item goes on from ingress: to its queues; an assured one from an edge port or CTL to its acceptance (R31); one
under hop credit takes its number, where its stream generates one (R136). A copy for a full queue refuses an assured item
as a whole (R168). -/
def State.deliverItem (s : State) (d : Nat) (queues : List Nat) (src : AsrSrc) : State :=
  let i := s.item d
  match i.cls with
  | .assured =>
    if !i.zone.isEmpty ∨ s.isRingPort i.inPort then
      match s.fullOf queues with
      | [] => if !i.zone.isEmpty then s.holdZone d queues
        else ((s.number d i.key).noteZone d queues).enqueueAccepted queues d
      | full => s.refuseFull full d src
    else s.offer d i.key queues src
  | .express => s.expressOut d queues
  | _ => s.enqueueAll queues d

/-- Delivers the held run of function i: to the front of the egress queue, past recovery, or on from ingress (R138). -/
def State.deliverRun (s : State) (i : Nat) : State :=
  let r := s.recov i
  let x := r.run r.held.length s.strobes
  let s1 := s.setRecov i x.1
  if (s.recovCfg i).egress then
    x.2.reverse.foldl (fun s e => s.pushFront (e.2.headD 0) [{ desc := e.1, prio := (s.item e.1).prio, passed := true }]) s1
  else x.2.foldl (fun s e => s.deliverItem e.1 e.2 (s.item e.1).src) s1

/-- An ingress function takes a stored item: it goes on, waits, or is a duplicate or rogue (R137, R138). go delivers the
item itself. -/
def State.recoverIn (s : State) (fn d : Nat) (queues : List Nat) (go : State → State) : State :=
  let i := s.item d
  let v := s.recover fn i.seq i.inPort
  match v.1 with
  | .pass => if (s.recov fn).takeAny then go v.2 else (go v.2).deliverRun fn
  | .hold => v.2.holdItem fn i.seq d queues
  | _ => v.2.freeItem d

/-- The ingress function that takes a stored item when it is whole: of an assured item, which a hop may still replay, and
of any item under ordered recovery, which holds whole items. The others, and express frames, pass theirs in stage 4 (R137,
R138, R153; DEDUCED, log entry 149). -/
def State.lateRecov (s : State) (i : Item) : Option Nat :=
  i.recov.filter (fun k => (s.recovCfg k).valid && !(s.recovCfg k).egress && i.seqValid &&
    ((s.recovCfg k).alg == 2 || i.cls == .assured))

/-- A swap acts on the runtime state of function i: kept with its ALG and POINT, its history cut or filled to the new
HIST, else reset with TAKE_ANY 1 and its held items discarded into LOST (R140). old: its configuration before. -/
def State.recovSwap (s : State) (old : RecovCfg) (i : Nat) : State :=
  let c := s.recovCfg i
  let r := s.recov i
  if c.valid ∧ c.alg = old.alg ∧ c.egress = old.egress then s.setRecov i { r with history := histKeep r.history c.hist }
  else
    let s1 : State := r.held.foldl (fun s h => s.releaseCopy h.2.1) s
    s1.setRecov i { r with takeAny := true, history := 0, held := [], lost := min 0xFFFF (r.lost + r.held.length) }

/-- An item held for RESET_TICKS ticks: RECOV_SEQ becomes one less than the lowest held number, the skipped numbers
add to LOST and the run is delivered (R139). -/
def execRecoveryHeldTimeout (t : Nat) (fn : Fin 16384) (s : State) : Out :=
  let s := s.clock t
  let i := fn.val
  let c := s.recovCfg i
  let r := s.recov i
  match r.held with
  | h :: _ =>
    if c.valid ∧ c.resetTicks ≠ 0 ∧ r.held.any (fun e => e.2.2.2 + c.resetTicks ≤ s.strobes) then
      let skipped := (h.1 + 65535 - r.seq % 65536) % 65536
      let s1 := s.setRecov i { r with seq := (h.1 + 65535) % 65536, lost := min 0xFFFF (r.lost + skipped) }
      .next ((s1.deliverRun i).raise Fd.FP_EVT_SEQ_GAP [] i)
    else .next s
  | [] => .next s

/-- No item has passed for RESET_TICKS ticks: TAKE_ANY becomes 1 and RESETS advances (R139). While TAKE_ANY is still 1 at
later instants, RESETS does not advance again (DESIGN CHOICE, log entry 150). -/
def execRecoveryIdleTimeout (t : Nat) (fn : Fin 16384) (s : State) : Out :=
  let s := s.clock t
  let i := fn.val
  let c := s.recovCfg i
  let r := s.recov i
  if c.valid ∧ c.resetTicks ≠ 0 ∧ !r.takeAny ∧ r.passTick + c.resetTicks ≤ s.strobes then
    .next (s.setRecov i { r with takeAny := true, resets := (r.resets + 1) % 256 })
  else .next s

/-! Learning and ageing (R142) -/

/-- Writes the four words of forwarding entry i to the active copy, and to the inactive one where `both` is set. -/
def State.fdbWrite (s : State) (i : Nat) (both : Bool) (w : List (BitVec 32)) : State :=
  { s with act := { s.act with fp := Tab.setList 0 s.act.fp (fdbOff i 0 / 4) w }
           shd := { s.shd with fp := if both then Tab.setList 0 s.shd.fp (fdbOff i 0 / 4) w else s.shd.fp } }

/-- A learn or an ageing reaches the inactive copy of entry i: not one that is static there, nor one that the host wrote
in the same cycle (R142). -/
def State.fdbShared (s : State) (i : Nat) : Bool :=
  let w := (Tab.get 0 s.shd.fp (fdbOff i 1 / 4)).toNat
  !(bitAt w 31 && bitAt w 30) && !(s.fp.fdbHost.1 == s.raw && s.fp.fdbHost.2.contains i)

/-- Writes a learned entry for a port to both copies. -/
def State.learnEntry (s : State) (i fid mac port : Nat) : State :=
  let s1 := s.fdbWrite i (s.fdbShared i)
    ([mac % 2 ^ 32, mac / 2 ^ 32 + 65536 * fid + 2 ^ 31, port + 65536, 0].map (BitVec.ofNat 32))
  { s1 with fp := { s1.fp with seen := Tab.set none s1.fp.seen i (some s.raw) } }

/-- One learn of the at most 32 million in a second. The spec does not say from where a second counts, nor whether the
refresh of a known address is a learn: seconds are those of the raw counter, and a refresh takes one (DESIGN CHOICE, log
entry 122). -/
def State.learnSlot (s : State) : Bool × State :=
  let sec := s.raw / 1000000000
  let n := if s.fp.learnSec = sec then s.fp.learns else 0
  if n < 32000000 then (true, { s with fp := { s.fp with learns := n + 1, learnSec := sec } })
  else (false, s.bump Reg.FP_LEARN_DROP)

/-- Checks a source address against the static entries, and learns that of a standard frame; false where the frame is to
be discarded under SA_LOCK (R142). -/
def State.learn (s : State) (n fid sa : Nat) (std : Bool) : Bool × State :=
  match s.fdbFind fid sa with
  | some i =>
    if s.fdbStatic i then
      if bits (s.fdbWord i 2) 15 0 = n ∧ bits (s.fdbWord i 2) 17 16 = 1 then (true, s)
      else (!s.fb Fd.FP_PORTn_CFG_SA_LOCK [n], (s.fpCount n 9).raise Fd.FP_EVT_SA_VIOLATION [] n)
    else if std ∧ s.fb Fd.FP_PORTn_CFG_LEARN [n] then
      let x := s.learnSlot
      (true, if x.1 then x.2.learnEntry i fid sa n else x.2)
    else (true, s)
  | none =>
    if std ∧ s.fb Fd.FP_PORTn_CFG_LEARN [n] then
      let x := s.learnSlot
      if x.1 then
        match ((List.range 4).map (4 * fdbBucket fid sa + ·)).find? (fun i => !x.2.fdbValid i) with
        | some i => (true, x.2.learnEntry i fid sa n)
        | none => (true, x.2.raise Fd.FP_EVT_LEARN_FULL [] n)
      else (true, x.2)
    else (true, s)

/-- A learned entry that has not been seen for AGE_TIME seconds is removed. -/
def execAgeExpiry (t : Nat) (entry : Fin 262144) (s : State) : Out :=
  let s := s.clock t
  let i := entry.val
  match Tab.get none s.fp.seen i with
  | some a =>
    if s.fdbValid i ∧ !s.fdbStatic i ∧ s.elapsed a (s.f Fd.FP_CFG_AGE_TIME * 1000000000) then
      let s1 := s.fdbWrite i (s.fdbShared i) [0, 0, 0, 0]
      .next { s1 with fp := { s1.fp with seen := Tab.set none s1.fp.seen i none } }
    else .next s
  | none => .next s

/-! Charges (R173 to R177) -/

/-- Charges of an assured item of k cells from a port, or none where there is no room (R176). -/
def State.assuredCharges (s : State) (n vc k : Nat) : Option (List Charge) :=
  let hop := n < 256 && s.hopVcs n != 0
  let pool := if hop then 3 else 4
  let a := min k (s.freeIn pool n vc)
  let rest := k - a
  let above := n < 256 && decide (s.f Fd.LDR_PORTn_ASR_ASR_CREDIT [n] < s.asrCharged n + k)
  if above ∨ rest ≠ 0 ∧ (256 ≤ n ∨ s.freeIn 2 n vc < rest) then none
  else some ((if a = 0 then [] else [⟨pool, n, if hop then vc else 0, a⟩]) ++
    (if rest = 0 then [] else [⟨2, n, vc, rest⟩]))

/-- A standard frame of TC t is discarded above the threshold of its TC (R177). -/
def State.stdFull (s : State) (tc : Nat) (de : Bool) : Bool :=
  let w := if tc < 4 then s.rd Reg.LDR_STD_THR0 else s.rd Reg.LDR_STD_THR1
  let thr := bits w.toNat (8 * (tc % 4) + 7) (8 * (tc % 4)) + 1 - (if de then s.f Fd.LDR_STD_DE_DE_MARGIN else 0)
  decide (thr * s.poolSize 5 ≤ 256 * s.poolUsed 5)

/-! The stages (Table FRM-1) -/

/-- Where a frame of a lane port goes as a control frame: 0 to consist, 1 to PTP on CTL, 3 on along its ring (R28, R86,
R127, R189). On time-aware ports PTP frames are control frames: those of the consist's domain are for this node, and one
of another domain passes to the ring's other port. A transparent clock forwards PTP as any frame, but takes the peer delay
messages of its ports (R84, Table TIM-2; log entry 148). -/
def State.ctlProto (s : State) (n : Nat) (h : Hdr) (f : Bytes) : Option Nat :=
  let role := s.f Fd.TU_PORTn_CFG_ROLE [n]
  let own := isPdelay h f || byteAt f (ptpAt h f + 4) == s.f Fd.TU_CFG_DOMAIN
  if 256 ≤ n then none
  else if h.etype = 0x88B5 ∧ byteAt f h.body ≠ 0x10 then some 0
  else if h.ptp ∧ (role = 1 ∧ own ∨ role = 2 ∧ isPdelay h f) then some 1
  else if h.ptp ∧ role = 1 ∧ s.isRingPort n then some 3
  else none

def clsOf (code : Nat) : Cls := if code = 1 then .assured else if code = 2 then .express else .standard

/-- The destination of a frame: stream entry or forwarding database (R141, R143). -/
def State.destination (s : State) (act : Option StreamAct) (n fid mac member : Nat) (cls : Cls) :
    Option (List Nat × List Nat) :=
  let fdb := match s.fdbFind fid mac with
    | some i =>
      let d := bits (s.fdbWord i 2) 15 0
      if bits (s.fdbWord i 2) 17 16 = 2 then some (s.groupOf d n) else some (([d].filter (· != n)), [])
    | none => if cls = .standard then some ((s.groupOf member n).1.filter (· != n), (s.groupOf member n).2) else none
  match act with
  | some a =>
    match a.kind with
    | 1 => some ([a.dest], [])
    | 2 => some (s.groupOf a.dest n)
    | 3 => some ([], [2048 + a.dest % 4096])
    | _ => fdb
  | none => fdb

/-- Stream filter and meter (R133 to R135): the yellow mark, or whether the frame is discarded or refused. -/
def State.police (s : State) (n len stamp : Nat) (act : Option StreamAct) (cls : Cls) (dei : Bool) : State × Bool × Bool :=
  match act with
  | none => (s, false, true)
  | some a =>
    if a.maxFrame < len ∧ cls ≠ .express then
      (if cls = .assured then s else s.fpCount n 2, false, false)
    else
      match a.meter with
      | none => (s, false, true)
      | some i =>
        let m := s.meter i len stamp dei
        match m.1, cls with
        | .red, .assured => (m.2, false, false)
        | .red, _ => (m.2.fpCount n 3, false, false)
        | .yellow, .standard => (m.2.fpCount n 4, true, true)
        | _, _ => (m.2, false, true)

/-- Records a frame that goes nowhere. -/
def State.rxDiscard (s : State) (n : Nat) (r : RxFrame) : State := s.setRx n (some { r with discard := true })

/-- An assured frame that is refused before acceptance (R135). -/
def State.rxRefuse (s : State) (n : Nat) (r : RxFrame) (stream : Option Nat) : State :=
  s.setRx n (some { r with refuse := true, cls := .assured, stream := stream })

/-- The item of a frame whose write starts now, with the queue entries of its copies. -/
def State.itemOf (s : State) (n vc : Nat) (f : Bytes) (stamp : Nat) (x : Route) (charges : List Charge) (copies : Nat) :
    Item :=
  { charges := charges, bytes := f, cls := x.cls, tc := x.tc, prio := 2 * x.tc + 1, inPort := n, seq := x.seq.getD 0
    seqValid := x.seq.isSome, stream := x.stream.getD 0, hasStream := x.stream.isSome, stamp := s.stampAt stamp
    vid := x.vid
    pcp := x.pcp, vc := vc, maxLen := x.maxLen, de := x.de, seqGen := x.seqGen, recov := x.recov, begun := s.raw
    copies := copies }

/-- An express copy that finds no room is discarded: counted, with EXP_OVR (R174, R175). -/
def State.expressDrop (s : State) (p : Nat) : State := (s.bump Reg.LDR_EXP_DROP_CNT).raise Fd.LDR_EVT_EXP_OVR [] p

/-- A buffered express copy for queue q under the reserve of an egress: port p, or the fabric-control link as 256. -/
def State.expressStore (s : State) (n : Nat) (f : Bytes) (stamp : Nat) (x : Route) (p q : Nat) :
    State × Option (Nat × Nat) :=
  let k := cellsOf f.length
  if s.freeIn 0 p 0 < k then (s.expressDrop p, none)
  else
    let w := s.storeItem { s.itemOf n 0 f stamp x [⟨0, p, 0, k⟩] 1 with refs := 1 }
    match w.2 with
    | some d => (w.1.pushEntry q d, some (w.1.wrapQ q, d))
    | none => (w.1.expressDrop p, none)

/-- Ingress rate of a frame from port n; what CTL sends has arrived whole, so nothing holds it. -/
def State.inRate (s : State) (n p : Nat) : Nat := if n < 256 then s.portRate n else s.portRate p

/-- A port forwards: at an edge while the module works with its fabric-control link (R24, R240, Table ASD-1); on ring and
branch ports while the node is not outside the numbering (R202). -/
def State.mayForward (s : State) (n : Nat) : Bool :=
  if s.isEdge n then s.acting && (match s.asd.linkDown with | some a => !s.elapsed a s.period | none => true)
  else 256 ≤ n || !s.outside

/-- An express copy can cut through to port p: the port carries frames, is free, and the frame, from the end of its hold,
fits in an open express window (R57, R146, R147). -/
def State.cutMay (s : State) (n p maxLen : Nat) : Bool :=
  let ri := s.inRate n p
  let re := s.portRate p
  s.linkUp p && (s.egress p).tx.isNone && s.mayForward p && s.fitsAfter p 9 maxLen (holdOf ri re maxLen) (ri * re)

/-- An express copy for port p, or for the port to which it is turned back: cut-through, or buffered in the port's reserve
(R34, R146, R175, R233). -/
def State.expressCopy (s : State) (n : Nat) (f : Bytes) (stamp : Nat) (x : Route) (p₀ : Nat) : State × List Nat ×
    List (Nat × Nat) :=
  let p := s.wrapDest p₀
  let s := if p = p₀ then s else s.asdCount 9
  if s.cutMay n p x.maxLen then
    let ri := s.inRate n p
    let re := s.portRate p
    let hold := (holdOf ri re x.maxLen + ri * re - 1) / (ri * re)
    let tx : TxFrame := { from_ := n, bytes := s.editFrame p x.vid x.pcp x.seq 0 f, tc := x.tc, express := true
                          ended := false, start := s.raw + hold, stamp := s.stampAt stamp }
    let s1 := s.shape p
    ((s1.setEgress p { s1.egress p with tx := some tx }).fpCount p 11, [p], [])
  else
    let w := s.expressStore n f stamp x p (8 * p + x.tc)
    (if w.2.isSome then w.1.fpCount p 10 else w.1, [], w.2.toList)

/-- An express copy for a service queue is buffered under the reserve of the fabric-control link. -/
def State.expressSvc (s : State) (n : Nat) (f : Bytes) (stamp : Nat) (x : Route) (q : Nat) : State × List Nat ×
    List (Nat × Nat) :=
  let w := s.expressStore n f stamp x 256 q
  (w.1, [], w.2.toList)

/-- An express frame that ordered recovery holds is stored among the held items of pool 4, against the assured credit of its
port, until it is delivered (R138, R176, Table LDR-5). -/
def State.expressHold (s : State) (n : Nat) (r : RxFrame) (x : Route) (long : Bool) : State :=
  let qs := x.ports.map (fun p => 8 * p + x.tc) ++ x.svc
  let p := x.ports.headD 256
  let k := cellsOf r.bytes.length
  if s.freeIn 4 n 0 < k ∨ n < 256 ∧ s.f Fd.LDR_PORTn_ASR_ASR_CREDIT [n] < s.asrCharged n + k then
    (s.expressDrop p).rxDiscard n r
  else
    let w := s.storeItem (s.itemOf n 0 r.bytes r.stamp x [⟨4, n, 0, k⟩] qs.length)
    match w.2 with
    | some d => w.1.setRx n (some { r with cls := .express, desc := some d, queues := qs, stream := x.stream, long := long })
    | none => (w.1.expressDrop p).rxDiscard n r

/-- Stage 5 for an express frame: its copies cut through or are buffered (R146). -/
def State.stage5x (s : State) (n : Nat) (r : RxFrame) (x : Route) (long : Bool) : State :=
  let go (acc : State × List Nat × List (Nat × Nat)) (e : State × List Nat × List (Nat × Nat)) :=
    (e.1, acc.2.1 ++ e.2.1, acc.2.2 ++ e.2.2)
  let a1 := x.ports.foldl (fun acc p => go acc (acc.1.expressCopy n r.bytes r.stamp x p)) (s, [], [])
  let a2 := x.svc.foldl (fun acc q => go acc (acc.1.expressSvc n r.bytes r.stamp x q)) a1
  a2.1.setRx n (some { r with cls := .express, cut := a2.2.1, buffered := a2.2.2, stream := x.stream, long := long })

/-- Stage 5 for a stored class: the start of the Larder write (R125, R165, R176, R177). A pool 5 discard is counted in
LDR_STD_DROP_CNT; of the port's frame counters no row of Tables FRM-6 and PRT-5 names it (log entry 122). -/
def State.stage5s (s : State) (n vc : Nat) (r : RxFrame) (x : Route) (zone : List Nat) : State :=
  let k := cellsOf r.bytes.length
  let qs := x.ports.map (fun p => 8 * p + x.tc) ++ x.svc
  match x.cls with
  | .assured =>
    match s.assuredCharges n vc k with
    | none => (s.raise Fd.LDR_EVT_ASR_FULL [] n).rxRefuse n r x.stream
    | some cs =>
      let w := s.storeItem { s.itemOf n vc r.bytes r.stamp x cs qs.length with zone := zone }
      match w.2 with
      | some d => (w.1.pfcCheck n).setRx n (some { r with
          cls := .assured, desc := some d, queues := qs, stream := x.stream })
      | none => (w.1.raise Fd.LDR_EVT_ASR_FULL [] n).rxRefuse n r x.stream
  | _ =>
    let drop (s : State) : State := ((s.bump Reg.LDR_STD_DROP_CNT).raise Fd.LDR_EVT_STD_FULL [] n).rxDiscard n r
    if s.stdFull x.tc x.de ∨ s.freeIn 5 n 0 < k then drop s
    else
      let w := s.storeItem (s.itemOf n vc r.bytes r.stamp x [⟨5, n, 0, k⟩] qs.length)
      match w.2 with
      | some d => w.1.setRx n (some { r with desc := some d, queues := qs, stream := x.stream })
      | none => drop w.1

/-- A number that a stream generates in stage 4: for express and standard frames without an R-TAG (R136). -/
def State.genSeq (s : State) (x : Route) (rtag : Option (Nat × Nat)) : State × Option Nat :=
  match rtag with
  | some t => (s, some t.2)
  | none =>
    if x.seqGen ∧ x.cls ≠ .assured then
      let key := x.stream.getD 0
      let y := s.setSeqNext key (s.seqNext key + 1)
      ({ y with asd := { y.asd with seqSent := insKey key y.asd.seqSent } }, some (s.seqNext key))
    else (s, none)

/-- Recovery at ingress in stage 4, but for what lateRecov takes when the frame is whole (R137, R138, log entry 149). -/
def State.recoverEarly (s : State) (x : Route) (n : Nat) : Verdict × State :=
  match x.recov, x.seq with
  | some i, some q =>
    let c := s.recovCfg i
    if c.valid ∧ !c.egress ∧ (x.cls = .express ∨ c.alg ≠ 2 ∧ x.cls ≠ .assured) then s.recover i q n else (.pass, s)
  | _, _ => (.pass, s)

/-- Where a frame goes and stays: its ports, where they are ports under R100, its service queues, and at a module that
does not work the queues of the zone in which its duty has it (R211). -/
def State.split (s : State) (x : Route) (d : List Nat × List Nat) : Route × List Nat :=
  let ports := d.1.filter s.isPort
  if s.acting then ({ x with ports := ports, svc := d.2 }, [])
  else
    ({ x with ports := ports.filter (fun p => !s.isEdge p), svc := [] },
      (ports.filter s.isEdge).map (fun p => 8 * p + x.tc) ++ d.2)

/-- Stage 4 for a frame that passed its meter: numbers, ingress recovery and destination. Of zone-bound items a standby keeps
the assured ones; the others, and all of a fenced module, end here (R211, Table ASD-1). -/
def State.stage4 (s : State) (n vc : Nat) (r : RxFrame) (h : Hdr) (x : Route) (act : Option StreamAct) (fid member : Nat) :
    State :=
  let g := s.genSeq x h.rtag
  let x := { x with seq := g.2 }
  let any : Bool := x.recov.elim true (fun i => (s.recov i).takeAny)
  let v := g.1.recoverEarly x n
  if v.1 = .duplicate ∨ v.1 = .rogue then v.2.rxDiscard n r
  else
    match v.2.destination act n fid h.da member x.cls with
    | none => (v.2.fpCount n 7).rxDiscard n r
    | some d =>
      let y := v.2.split x d
      let zone := if x.cls = .assured ∧ s.role = 2 then y.2 else []
      let s2 := if !y.2.isEmpty ∧ zone.isEmpty then v.2.asdCount 11 else v.2
      if y.1.ports.isEmpty ∧ y.1.svc.isEmpty ∧ zone.isEmpty then s2.rxDiscard n r
      else
        let long : Bool := x.cls == .express && (match act with | some a => decide (a.maxFrame < r.bytes.length) | none => false)
        let s3 := if long then s2.fpCount n 2 else s2
        s3.setRx n (some { r with next := some {
          route := y.1, vc := vc, zone := zone, long := long, hold := v.1 = .hold
          run := if x.cls = .express ∧ !any then x.recov else none } })

/-- Stage 5: the copies of an express frame cut through or are buffered, and a stored frame takes its cells (R125). -/
def State.stage5 (s : State) (n : Nat) : State :=
  match s.rx n with
  | some r =>
    match r.next with
    | some y =>
      let r := { r with next := none }
      match y.route.cls with
      | .express =>
        if y.hold then s.expressHold n r y.route y.long
        else
          let s1 := s.stage5x n r y.route y.long
          match y.run with | some i => s1.deliverRun i | none => s1
      | _ => s.stage5s n y.vc r y.route y.zone
    | none => s
  | none => s

/-- Class and TC of a frame: of its stream, else of the port's PCP maps (R28, R144). A frame of CTL without a stream has no
port maps: an image frame of this IXKAR is express (R28, step 5), another is standard, with its PCP as TC (DESIGN CHOICE, log
entry 122). -/
def State.classify (s : State) (n pcp : Nat) (act : Option StreamAct) (own : Cls) : Cls × Nat :=
  match act with
  | some a => (clsOf a.cls, a.tc)
  | none =>
    if n < 256 then (clsOf (bits (s.f Fd.FP_PORTn_PCPCLS_CLASS [n]) (2 * pcp + 1) (2 * pcp)),
      bits (s.rd Reg.FP_PORTn_PCPTC [n]).toNat (4 * pcp + 2) (4 * pcp))
    else (own, pcp)

/-- Stages 2 to 4 for a frame whose VLAN and stream are known: learning, filter and meter, then stage 4. -/
def State.stage3 (s : State) (n vc : Nat) (r : RxFrame) (h : Hdr) (vid pcp fid member : Nat) (st : Option Nat) (own : Cls) :
    State :=
  let act := st.map s.streamAct
  let c := s.classify n pcp act own
  let l := if n < 256 then s.learn n fid h.sa (decide (c.1 = .standard)) else (true, s)
  if !l.1 then l.2.rxDiscard n r
  else
    let p := l.2.police n r.bytes.length r.stamp act c.1 (match h.ctag with | some t => t.dei | none => false)
    let x : Route := { cls := c.1, tc := c.2, stream := st, vid := vid, pcp := pcp, de := p.2.1, seq := none
                       maxLen := act.elim r.bytes.length (·.maxFrame), seqGen := act.elim false (·.seqGen)
                       recov := act.bind (·.recov), ports := [], svc := [] }
    if p.2.2 then p.1.stage4 n vc r h x act fid member
    else if c.1 = .assured then p.1.rxRefuse n r st
    else p.1.rxDiscard n r

/-- Stages 1 to 4 for a frame from port n, or from CTL as port 256 (R125, R126, R129, R130). own: the class of a frame of CTL
that matches no stream. -/
def State.stages (s : State) (n vc stamp : Nat) (f : Bytes) (own : Cls := .standard) : State :=
  let h := parseFrame f
  let hop := match h.rtag with
    | some t => if 32768 ≤ t.1 ∧ s.isRingPort n then some (vc, t.1 % 32768) else none
    | none => none
  let r : RxFrame := { bytes := f, stamp := stamp, cls := .standard, hop := hop }
  let s := s.dropRx n
  match s.ctlProto n h f with
  | some k => s.setRx n (some { r with control := some k, cls := .control })
  | none =>
    if s.outside ∧ s.isRingPort n then s.rxDiscard n r
    else if s.isEdge n ∧ !s.acting then (s.asdCount 11).rxDiscard n r
    else
      let s := if h.deep then (s.fpCount n 14).raise Fd.FP_EVT_PARSE_DEEP [] n else s
      let vid := match h.ctag with | some t => t.vid | none => if n < 256 then s.f Fd.FP_PORTn_CFG_PVID [n] else 1
      let pcp := match h.ctag with | some t => t.pcp | none => if n < 256 then s.f Fd.FP_PORTn_CFG_DEF_PCP [n] else 0
      let v := s.fpw (0x20000 + 4 * vid)
      let member := bits v 13 0
      if !bitAt v 31 || (n < 256 && !(s.groupOf member 999).1.contains n) then (s.fpCount n 8).rxDiscard n r
      else
        let st := s.findStream h vid n
        (s.fpCount n (if st.isSome then 0 else 1)).stage3 n vc r h vid pcp (bits v 27 16) member st own

/-- The whole way of one frame through its ingress pipeline. -/
def State.ingress (s : State) (n vc stamp : Nat) (f : Bytes) (own : Cls := .standard) : State :=
  (s.stages n vc stamp f own).stage5 n

/-! Pipelines (R123, R134, R137, R181) -/

/-- The ingress pipeline of a port: pipeline k serves the ports of PG4k to PG4k+3 (R123). -/
def pipelineOf (n : Nat) : Nat := n / 32

/-- The pipeline that the allocator serves first in the FCLK cycle (1.333 GHz) of a raw count; it advances by one in every
cycle (R181). The spec does not say with which pipeline it starts. -/
def firstPipeline (t : Nat) : Nat := (t * 4 / 3 + Config.pipelineStart) % 8

/-- A header that an ingress pipeline takes: port, virtual channel, stamp of the MAC, frame. -/
abbrev Header := Nat × Nat × Nat × Bytes

/-- The headers of lane ports at the front of a queue of commands that come in the FCLK cycle of raw count t. -/
def headersAt (t : Nat) : List Instr → List Header
  | .frameHeaderReceived t' port vc stamp frame :: cs =>
    if t' = t ∧ port.val < 256 then (port.val, vc.val, stamp, frame) :: headersAt t cs else []
  | _ => []

/-- Headers in the order of their pipelines, counted from pipeline k on; those of one pipeline keep their order. -/
def byPipeline (k : Nat) (hs : List Header) : List Header :=
  (List.range 8).flatMap (fun i => hs.filter (fun h => pipelineOf h.1 % 8 == (k + i) % 8))

/-- The headers of one FCLK cycle: meters and recovery functions take the lower pipeline first, and the allocator serves the
pipelines from the first one of the cycle on (R134, R137, R181). Frames arrive only on a port that is up. -/
def State.takeHeaders (s : State) (t : Nat) (hs : List Header) : State :=
  let live := hs.filter (fun h => s.pst h.1 == 6 || s.pst h.1 == 7)
  let s1 := (byPipeline 0 live).foldl (fun s h => s.stages h.1 h.2.1 (s.rxStamp h.1 h.2.2.1) h.2.2.2) s
  (byPipeline (firstPipeline t) live).foldl (fun s h => s.stage5 h.1) s1

/-- A frame on a Gable lane is a control frame of pairing or PTP, or goes nowhere (R28, R221). -/
def State.gableHeader (s : State) (n stamp : Nat) (f : Bytes) : State :=
  let h := parseFrame f
  let k := if h.etype = 0x88B6 then some 2 else if h.ptp then some 1 else none
  (s.dropRx (rxKey n)).setRx (rxKey n) (some { bytes := f, stamp := stamp, cls := .control, control := k
                                               discard := k.isNone })

/-- The header of a frame goes through an ingress pipeline, with those that follow it in the queue and come in the same
FCLK cycle, whose own commands then find them taken (log entry 140); stamp: as the MAC takes it. Frames arrive only on a
port that is up. -/
def execFrameHeaderReceived (t : Nat) (port : PortRef) (vc : Fin 2) (stamp : Nat) (frame : Bytes) (s : State) : Out :=
  let s := s.clock t
  let n := port.val
  if 256 ≤ n then .next (if s.pst n = 6 ∨ s.pst n = 7 then s.gableHeader n (s.rxStamp n stamp) frame else s)
  else if s.fp.ahead ≠ 0 then .next { s with fp := { s.fp with ahead := s.fp.ahead - 1 } }
  else
    let more := headersAt t s.pending
    let s1 := s.takeHeaders t ((n, vc.val, stamp, frame) :: more)
    .next { s1 with fp := { s1.fp with ahead := more.length } }

/-! The end of a frame (R165, R166, R230) -/

/-- Delivers a complete item: by way of its ingress function, where that takes whole items, then on (R137, R138). -/
def State.deliverWhole (s : State) (d : Nat) (queues : List Nat) (src : AsrSrc) : State :=
  match s.lateRecov (s.item d) with
  | some k => s.recoverIn k d queues (fun s => s.deliverItem d queues src)
  | none => s.deliverItem d queues src

/-- Held hop frames that now follow without a gap are delivered. One for a full queue is not taken: it is refused without its
HOP_ACK, so the sender, which has it still, resends it (R6, R168). -/
def State.hopRun (s : State) (n vc : Nat) : Nat → State
  | 0 => s
  | k + 1 =>
    let h := s.hopOf n vc
    match h.held with
    | x :: xs =>
      if x.1 = h.rxNext then
        match s.fullOf x.2.2 with
        | [] =>
          let s1 := s.setHop n vc { h with held := xs, rxNext := (h.rxNext + 1) % 32768 }
          State.hopRun (s1.deliverWhole x.2.1 x.2.2 (s.item x.2.1).src) n vc k
        | full => (s.setHop n vc { h with held := xs }).refuseFull full x.2.1 (s.item x.2.1).src
      else s
    | [] => s

/-- HOP_SEQ order of a received assured frame: delivered, held behind a gap, or discarded as a duplicate (R230). One for a
full queue is not taken: it is refused without its HOP_ACK, so the sender has it still (R6, R168). -/
def State.hopReceive (s : State) (n vc q d : Nat) (queues : List Nat) : State :=
  let h := s.hopOf n vc
  let dist := (q + 32768 - h.rxNext) % 32768
  if 16384 ≤ dist ∨ h.held.any (fun x => x.1 == q) then (s.freeItem d).asdCount 7
  else
    match s.fullOf queues with
    | [] =>
      if dist = 0 then
        let s1 := s.setHop n vc { h with rxNext := (h.rxNext + 1) % 32768, rxSeen := true }
        (s1.deliverWhole d queues (s.item d).src).hopRun n vc h.held.length
      else
        let far (x : Nat) : Nat := (x + 32768 - h.rxNext) % 32768
        let held := h.held.filter (fun x => far x.1 < dist) ++ [(q, d, queues)] ++ h.held.filter (fun x => dist < far x.1)
        (s.setHop n vc { h with held := held }).asdCount 8
    | full => s.refuseFull full d (s.item d).src

/-- The number of a hop frame that goes nowhere here has been received; behind a gap it is left to a resend (R230). -/
def State.hopSkip (s : State) (n vc q : Nat) : State :=
  let h := s.hopOf n vc
  if q = h.rxNext then (s.setHop n vc { h with rxNext := (h.rxNext + 1) % 32768, rxSeen := true }).hopRun n vc h.held.length
  else s

/-- The last byte of a frame is known, for its copy that port p is sending: a cut-through copy, or the started copy of
item d. -/
def State.endTx (s : State) (p : Nat) (d : Option Nat) : State :=
  match (s.egress p).tx with
  | some x =>
    if d.isNone ∨ x.item.map (·.2) = d then s.setEgress p { s.egress p with tx := some { x with ended := true } } else s
  | none => s

/-- LEN and LEN_VALID of a complete item. -/
def State.setLen (s : State) (d : Nat) : State :=
  let i := s.item d
  s.setItem d { i with lenValid := true, maxLen := i.bytes.length }

/-- A good frame is complete: LEN, LEN_VALID and its copies (R146, R165 to R167). -/
def State.rxGood (s : State) (n : Nat) (r : RxFrame) (src : AsrSrc) : State :=
  match r.desc with
  | some d =>
    let s1 := s.setLen d
    match r.hop with
    | some h => s1.hopReceive n h.1 h.2 d r.queues
    | none => s1.deliverWhole d r.queues src
  | none =>
    let s1 : State := r.buffered.foldl (fun s b => (s.setLen b.2).endTx (b.1 / 8) (some b.2)) s
    r.cut.foldl (fun s p => s.endTx p none) s1

/-- Largest frame that a port takes: MAXLEN, and on a Gable lane the largest pairing frame (R224). -/
def State.rxMax (s : State) (n : Nat) : Nat := if n < 256 then s.f Fd.PGn_Pp_CFG_MAXLEN [n / 8, n % 8] else 10240

/-- A PTP frame of another domain goes on to the other port of its ring, in TC 7 (R127; the port that the consist logic
chooses is the model's choice, log entry 148). -/
def State.relayOn (s : State) (n : Nat) (f : Bytes) : State :=
  match s.ringOther n with
  | some m => s.sendControl m 7 true f
  | none => s

/-- The end of a frame from port n: the checks of the MAC and its counters, then its copies, or its way to its protocol
(R35, R112, R122, R127, R153). -/
def State.rxEnd (s : State) (n : Nat) (cwOk reasm : Bool) : State :=
  let k := rxKey n
  match s.rx k with
  | none => s
  | some r =>
    let len := r.bytes.length
    let fcs := decide (64 ≤ len) && leAt r.bytes (len - 4) 4 == crc32 (r.bytes.take (len - 4))
    let s := if reasm then s.fpCount n 13 else s
    if !cwOk ∨ r.bad then (s.portCount n 7).dropRx k
    else if len < 64 then (s.portCount n 5).dropRx k
    else if s.rxMax n < len then (s.portCount n 6).dropRx k
    else if !fcs then (s.portCount n 4).dropRx k
    else
      let s1 := (s.portCount n 0).portCount n 1 len
      let s2 := if s.isEdge n then s1.qualify else s1
      let s3 := s2.setRx k none
      match r.control with
      | some c => if c = 3 then s3.relayOn n r.bytes else s3.ctlDeliver c n r.bytes
      | none =>
        if r.long then s2.dropRx k
        else if r.refuse then s3.refusedBy (.frame n r.stream)
        else if r.discard then (match r.hop with | some h => s3.hopSkip n h.1 h.2 | none => s3)
        else s3.rxGood n r (.frame n r.stream)

/-- The last byte of a frame has been received and checked. -/
def execFrameEndReceived (t : Nat) (port : PortRef) (codewordsOk reassembled : Bool) (s : State) : Out :=
  .next ((s.clock t).rxEnd port.val codewordsOk reassembled)

/-- A frame that CTL sends into FAB goes through the pipelines whole (R124); src learns of its refusal. None crosses the
fabric-control link while that is down (R23, R24). own: the class of one that matches no stream. -/
def State.inject (s : State) (f : Bytes) (src : AsrSrc := .engine) (own : Cls := .standard) : State :=
  if s.fio.linkDown.contains 0 then s.refusedBy src else
  let s1 := s.ingress 256 0 (8 * s.raw) f own
  match s1.rx 256 with
  | some r =>
    if r.long then (s1.dropRx 256).acceptedBy src
    else
      let s2 := s1.setRx 256 none
      if r.refuse then s2.refusedBy (.injected r.stream src)
      else if r.discard then s2.acceptedBy src
      else
        let s3 := s2.rxGood 256 r (.injected r.stream src)
        if r.cls = .assured then s3 else s3.acceptedBy src
  | none => s1

end Sys2Proof.Machine
end

