-- ==== Sys2Proof/Machine/Sentence.lean ====
section
/-! DEFINITION. The sentence engine (spec/09): framing by grammar, checksums, talkers, filters, field selectors, routes
and listeners, assured sentences and output sentences. -/

namespace Sys2Proof.Machine

open Sys2Proof

/-! Tables (R273, Table SEN-4) -/

/-- Row i of table t. -/
def senRow (rows : Tab Nat) (t i : Nat) : Nat := Tab.get 0 rows (4096 * t + i)

/-- Bits hi to lo of word w of a row. -/
def rowF (row w hi lo : Nat) : Nat := bits row (32 * w + hi) (32 * w + lo)

/-- Rows of each table. -/
def senSize (t : Nat) : Nat :=
  match t with
  | 0 => 64
  | 1 => 2048
  | 2 => 1024
  | 3 => 512
  | 4 => 1023
  | 5 => 192
  | _ => 0

/-- A grammar (R249 to R251). -/
structure Grammar where
  start0 : Nat
  start1 : Nat
  nstart : Nat
  end0 : Nat
  end1 : Nat
  nend : Nat
  ckMark : Nat
  sep : Nat
  maxLen : Nat
  ckType : Nat
  ckBin : Bool
  tagBlk : Bool
  gap : Nat
  tmo : Nat
  valid : Bool
  deriving DecidableEq, Repr

def grammarOf (r : Nat) : Grammar :=
  { start0 := rowF r 0 7 0, start1 := rowF r 0 15 8, nstart := rowF r 0 17 16, nend := rowF r 0 19 18
    valid := rowF r 0 31 31 == 1, end0 := rowF r 1 7 0, end1 := rowF r 1 15 8, ckMark := rowF r 1 23 16
    sep := rowF r 1 31 24, maxLen := rowF r 2 10 0, ckType := rowF r 2 13 12, ckBin := rowF r 2 14 14 == 1
    tagBlk := rowF r 2 15 15 == 1, gap := rowF r 2 23 16, tmo := rowF r 2 31 24 }

def State.talkerGrammar (s : State) (rows : Tab Nat) (n : Nat) : Grammar :=
  grammarOf (senRow rows 0 (s.f Fd.SEN_TALKt_CFG_GRAMMAR [n]))

/-- Byte b is a start delimiter; START1 00h is none. -/
def Grammar.isStart (g : Grammar) (b : Nat) : Bool :=
  g.nstart != 0 && (b == g.start0 || (decide (2 ≤ g.nstart) && g.start1 != 0 && b == g.start1))

/-- Length of the end delimiter. -/
def Grammar.endLen (g : Grammar) : Nat := if g.nend = 2 then 2 else 1

/-- The bytes behind the start delimiter end with the end delimiter. -/
def Grammar.ended (g : Grammar) (body : Bytes) : Bool :=
  let x := if g.nstart = 0 then body else body.drop 1
  let n := x.length
  if g.nend = 2 then decide (2 ≤ n) && byteAt x (n - 2) == g.end0 && byteAt x (n - 1) == g.end1
  else decide (1 ≤ n) && byteAt x (n - 1) == g.end0

/-! Checksums (R251, R252) -/

def crc16Bit (c : Nat) : Nat := if 32768 ≤ c then (2 * c % 65536) ^^^ 0x1021 else 2 * c

def crc16Bits : Nat → Nat → Nat
  | 0, c => c
  | k + 1, c => crc16Bits k (crc16Bit c)

/-- CRC-16/CCITT (R252). -/
def crc16 (bs : Bytes) : Nat := bs.foldl (fun c b => crc16Bits 8 (c ^^^ (b.toNat * 256))) 0xFFFF

def xor8 (bs : Bytes) : Nat := bs.foldl (fun x b => x ^^^ b.toNat) 0

/-- The checksum of a CKTYPE over its covered bytes. -/
def checksum (ckType : Nat) (bs : Bytes) : Nat :=
  match ckType with
  | 1 => xor8 bs
  | 2 => (bs.foldl (fun x b => x + b.toNat) 0) % 256
  | _ => crc16 bs

/-- Bytes of a checksum in binary form. -/
def ckBytes (ckType : Nat) : Nat := if ckType = 0 then 0 else if ckType = 3 then 2 else 1

/-- A hexadecimal digit of either case. -/
def hexDigit (b : Nat) : Option Nat :=
  if 0x30 ≤ b ∧ b ≤ 0x39 then some (b - 0x30)
  else if 0x41 ≤ b ∧ b ≤ 0x46 then some (b - 0x37)
  else if 0x61 ≤ b ∧ b ≤ 0x66 then some (b - 0x57) else none

def hexNat : Nat → Bytes → Option Nat
  | n, [] => some n
  | n, b :: bs => match hexDigit b.toNat with
    | some d => hexNat (16 * n + d) bs
    | none => none

/-- A hexadecimal digit in upper case. -/
def hexChar (d : Nat) : BitVec 8 := BitVec.ofNat 8 (if d < 10 then 0x30 + d else 0x37 + d)

/-- k hexadecimal digits, most significant first. -/
def hexBytes (k n : Nat) : Bytes := (List.range k).map (fun i => hexChar (n / 16 ^ (k - 1 - i) % 16))

/-- The bytes behind the start delimiter, without the end delimiter. -/
def Grammar.inner (g : Grammar) (body : Bytes) : Bytes :=
  let x := if g.nstart = 0 then body else body.drop 1
  x.take (x.length - g.endLen)

/-- The covered bytes and the checksum that stands behind them; none where it is missing or malformed (R251). -/
def Grammar.split (g : Grammar) (body : Bytes) : Option (Bytes × Nat) :=
  let x := g.inner body
  let k := ckBytes g.ckType
  if g.ckBin then
    if x.length < k then none else some (x.take (x.length - k), beNat (x.drop (x.length - k)))
  else
    let m := x.length - (2 * k + 1)
    if x.length < 2 * k + 1 ∨ byteAt x m ≠ g.ckMark then none
    else (hexNat 0 (x.drop (m + 1))).map (fun c => (x.take m, c))

/-- The checksum of a complete sentence is right. -/
def Grammar.ckOk (g : Grammar) (body : Bytes) : Bool :=
  if g.ckType = 0 then true
  else match g.split body with
    | some p => checksum g.ckType p.1 == p.2
    | none => false

/-- A tag block between its backslashes: contents, '*' and two digits of XOR-8 (R250, R264). -/
def tagOk (tag : Bytes) : Bool :=
  let c := (tag.drop 1).take (tag.length - 2)
  let n := c.length
  if n < 3 then false
  else byteAt c (n - 3) == 0x2A && hexNat 0 (c.drop (n - 2)) == some (xor8 (c.take (n - 3)))

/-! Framing (R249 to R251, Table SEN-2) -/

/-- What a byte leads to. -/
inductive Framed where
  | sentence (tag body : Bytes) (stamp : Nat)
  | ckErr
  | frameErr
  deriving DecidableEq, Repr

/-- The last bytes of a binary sentence are a checksum that equals the end delimiter, and end nothing (R251). -/
def Grammar.isChecksum (g : Grammar) (body : Bytes) : Bool :=
  let x := if g.nstart = 0 then body else body.drop 1
  let k := ckBytes g.ckType
  g.ckBin && g.ckType != 0 && decide (1 ≤ x.length) &&
    ((decide (k ≤ x.length) && checksum g.ckType (x.take (x.length - k)) == beNat (x.drop (x.length - k))) ||
     (k == 2 && checksum g.ckType (x.take (x.length - 1)) / 256 == byteAt x (x.length - 1)))

/-- A byte where a start delimiter is expected: it opens a tag block or a sentence, or is passed over. `opens`: the
byte may open a sentence. -/
def Grammar.open_ (g : Grammar) (opens : Bool) (b : BitVec 8) (stamp : Nat) : Framer :=
  if g.tagBlk && g.nstart != 0 && b == 0x5C then { mode := .tag, tag := [b], stamp := stamp }
  else if opens then { mode := .body, body := [b], stamp := stamp }
  else {}

/-- Adds a byte to a sentence: it may complete it, or reach MAXLEN; one behind a faulty tag block is discarded (Table
SEN-2). -/
def Grammar.more (g : Grammar) (f : Framer) : Framer × List Framed :=
  if g.ended f.body && !(g.ckBin && !g.ckOk f.body && g.isChecksum f.body) then
    ({}, if f.bad then [] else [.sentence f.tag f.body f.stamp])
  else if g.maxLen ≤ f.body.length then ({}, [.frameErr])
  else (f, [])

/-- One good byte. `opens`: the byte is a start delimiter, or the first one after a gap. -/
def Grammar.byte (g : Grammar) (f : Framer) (opens : Bool) (b : BitVec 8) (stamp : Nat) : Framer × List Framed :=
  match f.mode with
  | .hunt =>
    let n := g.open_ opens b stamp
    if n.mode = .body then g.more n else (n, [])
  | .tag =>
    let tag := f.tag ++ [b]
    if b = 0x5C then
      (if tagOk tag then ({ f with mode := .afterTag, tag := tag }, [])
       else ({ f with mode := .afterTag, tag := [], bad := true }, [.ckErr]))
    else if 80 ≤ tag.length then ({ f with mode := .longTag, tag := [], bad := true }, [.ckErr])
    else ({ f with tag := tag }, [])
  | .longTag =>
    if b = 0x5C then ({ f with mode := .afterTag }, [])
    else if opens then g.more { f with mode := .body, body := [b] } else (f, [])
  | .afterTag =>
    if opens then g.more { f with mode := .body, body := [b] }
    else (g.open_ opens b stamp, if f.bad then [] else [.ckErr])
  | .body =>
    if opens ∧ !g.ended (f.body ++ [b]) then
      let r := g.more { mode := .body, body := [b], stamp := stamp }
      (r.1, .frameErr :: r.2)
    else g.more { f with body := f.body ++ [b] }

/-- A byte that the channel flagged: what is being gathered, or what the byte opens, is discarded (Table SEN-2). -/
def Framer.spoil (f : Framer) (opens : Bool) : List Framed := if f.mode = .hunt ∧ !opens then [] else [.frameErr]

/-- The sentences of a datagram: each byte with its stamp; what is left unfinished is an error (R254). -/
def Grammar.run (g : Grammar) (stampOf : Nat → Nat) : Nat → Framer → Bytes → List (Framed × Nat)
  | i, f, [] => (match f.mode with
    | .hunt => []
    | .body => [(.frameErr, i)]
    | _ => if f.bad then [] else [(.ckErr, i)])
  | i, f, b :: bs =>
    let r := g.byte f (g.isStart b.toNat) b (stampOf i)
    r.2.map (fun x => (x, i)) ++ Grammar.run g stampOf (i + 1) r.1 bs

/-! Talkers and the backlog (R253, R269, R271) -/

def State.framer (s : State) (n : Nat) : Framer := Tab.get {} s.sen.framers n

def State.setFramer (s : State) (n : Nat) (f : Framer) : State :=
  { s with sen := { s.sen with framers := Tab.set {} s.sen.framers n f } }

/-- The valid talker of a source. -/
def State.talkerOf (s : State) (src : Nat) : Option Nat :=
  findNat 512 (fun n => s.fb Fd.SEN_TALKt_CFG_VALID [n] && s.f Fd.SEN_TALKt_CFG_SRC [n] == src)

def State.senCount (s : State) (n c : Nat) : State := s.bump Reg.SEN_TALKt_CNTc [n, c]

def State.ckErr (s : State) (n : Nat) : State := (s.senCount n 1).raise Fd.SEN_EVT_CK_ERR [] n

def State.frameErr (s : State) (n : Nat) : State := (s.senCount n 2).raise Fd.SEN_EVT_FRAME_ERR [] n

/-- The talker's class is assured. -/
def State.talkerAssured (s : State) (n : Nat) : Bool := s.fb Fd.SEN_TALKt_CFG_CLASS [n]

/-- Places a sentence in order of assignment time, then talker, then arrival (R272). -/
def sentenceInsert (x : Sentence) : List Sentence → List Sentence
  | [] => [x]
  | y :: ys =>
    if x.assign < y.assign ∨ x.assign = y.assign ∧ x.talker < y.talker then x :: y :: ys else y :: sentenceInsert x ys

/-- A completed sentence enters the backlog; a full backlog discards or refuses it (R271). -/
def State.complete (s : State) (x : Sentence) : State :=
  if s.sen.backlog.length < 256 then { s with sen := { s.sen with backlog := sentenceInsert x s.sen.backlog } }
  else if s.talkerAssured x.talker && s.acting then s.refuseTalker x.talker (x.stamp / 2 ^ 32)
  else ((s.senCount x.talker 7).bump Reg.SEN_BACKLOG_DROP).raise Fd.SEN_EVT_BACKLOG_DROP [] x.talker

/-- What framing found for talker n, at assignment time a. -/
def State.framed (s : State) (n a : Nat) (x : Framed) : State :=
  match x with
  | .sentence tag body stamp =>
    s.complete { talker := n, tag := tag, body := body, stamp := stamp, assign := a, rows := s.act.sen }
  | .ckErr => s.ckErr n
  | .frameErr => s.frameErr n

/-- A received entry of a channel that the engine owns goes to its talker (R253, R307, Table SEN-2). start: raw count of the
first sample of its start bit. -/
def State.talkerByte (s : State) (ch start : Nat) (e : UaEntry) : State :=
  match s.talkerOf ch with
  | none => s
  | some n =>
    let g := s.talkerGrammar s.act.sen n
    if !g.valid then s
    else
      let f := s.framer n
      let gap : Bool := match f.last with
        | some l => decide (l + g.gap * s.charNs ch ≤ start)
        | none => true
      let opens := if g.nstart = 0 then gap && f.mode == .hunt else g.isStart e.byte.toNat
      let spoilt := e.fe || e.pe || e.brk || e.ovr
      let r := if spoilt then ({}, f.spoil opens) else g.byte f opens e.byte (s.uaStamp ch start)
      r.2.foldl (fun s x => s.framed n s.nowNs x) (s.setFramer n { r.1 with last := some s.raw })

/-- A falling edge, after `idle` ns of high line, was seen low at raw count `start`, and the line was sampled to the first
stop bit, samples 7, 8 and 9 of each bit: a confirmed character sets flags and counts, and goes to the FIFO or the
sentence engine (R302 to R304, R307, R308). -/
def execUartCharacterReceived (t : Nat) (channel : Fin 32) (start idle : Nat) (samples : List (BitVec 3)) (s : State) : Out :=
  let s := s.clock t
  let ch := channel.val
  if s.uaHears ch ∧ startConfirmed samples ∧ s.uaHunts ch idle then
    let e := s.uaEntry ch samples
    let s1 := s.uaNote ch e
    .next (if s.fb Fd.UAn_CFG_OWNER [ch] then (s1.setUa ch { s1.ua ch with lost := false }).talkerByte ch start e
      else s1.uaStore ch e)
  else .next s

/-- No byte for TMO ms inside a sentence (Table SEN-2). -/
def execSentenceTimeout (t : Nat) (talker : Fin 512) (s : State) : Out :=
  let s := s.clock t
  let n := talker.val
  let f := s.framer n
  let tmo := (s.talkerGrammar s.act.sen n).tmo
  if tmo ≠ 0 ∧ f.mode ≠ .hunt ∧ s.elapsed (f.last.getD 0) (tmo * 1000000) then
    .next ((s.setFramer n { last := f.last }).frameErr n)
  else .next s

/-! UDP talkers (R253, R254) -/

/-- Offset and bytes of the UDP payload of a frame. -/
def udpPayload (f : Bytes) : Option (Nat × Bytes) :=
  let h := parseFrame f
  let at_ (o : Nat) : Option (Nat × Bytes) := some (o + 8, (f.drop (o + 8)).take (beAt f (o + 4) 2 - 8))
  match h.ip with
  | some k =>
    if k.proto ≠ 17 then none
    else if k.v6 then at_ (h.body + 40) else at_ (h.body + 4 * (byteAt f h.body % 16))
  | none => none

/-- "UdPbC" and 00h. -/
def udpbc : Bytes := [0x55, 0x64, 0x50, 0x62, 0x43, 0x00]

/-- The other datagram headers of IEC 61162-450 (log entry 41): "RaUdP", "RrUdP", "NkPgN" and 00h. -/
def otherHeaders : List Bytes :=
  [[0x52, 0x61, 0x55, 0x64, 0x50, 0x00], [0x52, 0x72, 0x55, 0x64, 0x50, 0x00], [0x4E, 0x6B, 0x50, 0x67, 0x4E, 0x00]]

/-- At most 16 sentences of a datagram with the header "UdPbC" (R254). -/
def firstSentences : Nat → List (Framed × Nat) → List (Framed × Nat)
  | _, [] => []
  | k, (.sentence a b c, i) :: xs => if k = 0 then [] else (.sentence a b c, i) :: firstSentences (k - 1) xs
  | k, x :: xs => if k = 0 then [] else x :: firstSentences k xs

/-- The payload of a datagram at offset o of item i, for talker n. -/
def State.datagram (s : State) (n : Nat) (i : Item) (o : Nat) (payload : Bytes) : State :=
  let known := payload.take 6 == udpbc
  if otherHeaders.contains (payload.take 6) || !known && !s.fb Fd.SEN_TALKt_CFG_UDP_RAW [n] then s.frameErr n
  else
    let rate := max 1 (s.portRate i.inPort)
    let skip := if known then 6 else 0
    let stampOf (k : Nat) : Nat := i.stamp + (o + skip + k) * 8 * 2 ^ 32 / rate
    let g := s.talkerGrammar s.act.sen n
    if g.nstart = 0 ∨ !g.valid then s
    else
      let xs := g.run stampOf 0 {} (payload.drop skip)
      (if known then firstSentences 16 xs else xs).foldl (fun s x => s.framed n (stampOf (x.2 + 1) / 2 ^ 32) x.1) s

/-- Takes the next frame of service queue 2,048 (R253, R254). What a poisoned frame holds is not used: it is a frame error of
its talker (R182, log entry 131). -/
def execUdpSentenceFrame (rd : At Ecc) (s : State) : Out :=
  let s := s.clock rd.t
  let r := s.takeHead 4096 rd.found
  match r.2 with
  | none => .next s
  | some d =>
    let i := r.1.item d
    let s1 := r.1.releaseCopy d
    let n := findNat 512 (fun n => s.fb Fd.SEN_TALKt_CFG_VALID [n] && s.f Fd.SEN_TALKt_CFG_SRC [n] == 0x20 &&
      i.hasStream && s.f Fd.SEN_TALKt_LINK_STREAM [n] == i.stream)
    match n with
    | none => .next ((s1.bump Reg.SEN_NO_TALKER).raise Fd.SEN_EVT_NO_TALKER)
    | some n =>
      match if i.poison.isEmpty then udpPayload i.bytes else none with
      | some p => .next (s1.datagram n i p.1 p.2)
      | none => .next (s1.frameErr n)

/-! Filters, decimation and rate (R257 to R259) -/

/-- The first filter of a talker that matches. -/
def State.matchFilter (s : State) (x : Sentence) (g : Grammar) : Option Nat :=
  let v := leNat (slice (if g.nstart = 0 then x.body else x.body.drop 1) 0 8)
  let base := s.f Fd.SEN_TALKt_LINK_FILT_BASE [x.talker]
  ((List.range (min 32 (s.f Fd.SEN_TALKt_CFG_FILT_NUM [x.talker]))).map (base + ·)).find? (fun i =>
    let r := senRow x.rows 1 i
    rowF r 4 31 31 == 1 && ((v ^^^ bits r 63 0) &&& bits r 127 64) == 0)

/-- Decimation on a filter: whether the match passes (R258). -/
def State.decimate (s : State) (fi decim : Nat) : Bool × State :=
  if decim < 2 then (true, s)
  else
    let c := Tab.get 0 s.sen.decim fi
    (c == 0, { s with sen := { s.sen with decim := Tab.set 0 s.sen.decim fi ((c + 1) % decim) } })

/-- The token bucket of a talker at assignment time a: whether a token was taken (R259). -/
def State.takeToken (s : State) (n a : Nat) : Bool × State :=
  let rate := s.f Fd.SEN_TALKt_RATE_RATE [n]
  let top := s.f Fd.SEN_TALKt_RATE_BURST [n] * 1000000000
  if rate = 0 then (true, s)
  else
    let level := match Tab.get none s.sen.buckets n with
      | some b => min top (b.1 + rate * (a - b.2))
      | none => top
    let ok := decide (1000000000 ≤ level)
    (ok, { s with sen := { s.sen with
      buckets := Tab.set none s.sen.buckets n (some (if ok then level - 1000000000 else level, a)) } })

/-! Field selectors (R265) -/

/-- The bytes of a list up to the first that meets a test. -/
def fieldSplit (sep : Nat) : Bytes → List Bytes
  | [] => [[]]
  | b :: bs =>
    let r := fieldSplit sep bs
    if b.toNat = sep then [] :: r else (b :: r.headD []) :: r.tail

/-- The fields of a sentence: up to CK_MARK, or the end delimiter. -/
def Grammar.fields (g : Grammar) (body : Bytes) : List Bytes :=
  let x := g.inner body
  let y := if g.ckType ≠ 0 ∧ !g.ckBin then x.takeWhile (fun b => b.toNat != g.ckMark) else x
  fieldSplit g.sep y

def isDigit (b : BitVec 8) : Bool := 0x30 ≤ b.toNat && b.toNat ≤ 0x39

def decNat (bs : Bytes) : Nat := bs.foldl (fun n b => 10 * n + (b.toNat - 0x30)) 0

/-- A signed decimal with an optional point, times 10^scale, truncated toward 0. -/
def decValue (scale : Nat) (f : Bytes) : Option Int :=
  let neg := byteAt f 0 == 0x2D
  let u := if neg || byteAt f 0 == 0x2B then f.drop 1 else f
  let whole := u.takeWhile isDigit
  let rest := u.drop whole.length
  let frac := if byteAt rest 0 = 0x2E then rest.drop 1 else []
  if (rest.isEmpty || byteAt rest 0 == 0x2E && frac.all isDigit) && !(whole.isEmpty && frac.isEmpty) then
    let n := decNat (whole ++ frac) * 10 ^ scale / 10 ^ frac.length
    some (if neg then -(n : Int) else n)
  else none

/-- The converted value of a field that is not empty, and CONV_ERR. -/
def convert (conv scale : Nat) (f : Bytes) : Option (BitVec 32) × Bool :=
  match conv with
  | 0 => (some (BitVec.ofNat 32 (leNat (slice f 0 4))), false)
  | 1 => match decValue scale f with
    | some v => (some (BitVec.ofInt 32 (clipInt (-2147483647) 2147483647 v)), decide (v < -2147483647 ∨ 2147483647 < v))
    | none => (none, true)
  | 2 => if f.length ≤ 8 then (match hexNat 0 f with
      | some v => (some (BitVec.ofNat 32 v), false)
      | none => (none, true)) else (none, true)
  | _ => (none, true)

/-- Selector i acts on a sentence. -/
def State.selector (s : State) (x : Sentence) (g : Grammar) (i row : Nat) : State :=
  let f := (g.fields x.body).getD (rowF row 0 15 11) []
  let v := if f.isEmpty then (none, false) else convert (rowF row 0 17 16) (rowF row 0 21 18) f
  let ns := x.stamp / 2 ^ 32
  let s1 := if v.2 then s.raise Fd.SEN_EVT_CONV_ERR [] i x.talker else s
  (s1.fieldUpdate { sel := i, talker := x.talker, assign := x.assign, stamp := ns, value := v.1, convErr := v.2
                    empty := f.isEmpty }).taskEvent (.field i) x.assign ns (readFrac x.stamp) 3

/-- Every selector of filter fi acts on the sentence. -/
def State.selectors (s : State) (x : Sentence) (g : Grammar) (fi : Nat) : State :=
  (List.range 512).foldl (fun s i =>
    let r := senRow x.rows 3 i
    if rowF r 0 31 31 = 1 ∧ rowF r 0 10 0 = fi then s.selector x g i r else s) s

/-! Routes and listeners (R260 to R263) -/

/-- The listeners of a route and of those chained to it, at most four routes. -/
def routeListeners (rows : Tab Nat) : Nat → Nat → List Nat
  | 0, _ => []
  | k + 1, i =>
    let r := senRow rows 2 i
    if rowF r 0 31 31 = 1 then
      [rowF r 0 9 0, rowF r 0 19 10, rowF r 0 29 20, rowF r 1 9 0].filter (· != 0x3FF) ++
        (if rowF r 1 19 10 = 0x3FF then [] else routeListeners rows k (rowF r 1 19 10))
    else []

/-- The queue of listener l. -/
def listenerQueue (rows : Tab Nat) (l : Nat) : Option Nat :=
  let r := senRow rows 4 l
  if rowF r 0 31 31 = 0 then none
  else match rowF r 0 1 0 with
    | 0 => some (4097 + l)
    | 1 => some (4097 + l)
    | 2 => some (2048 + rowF r 0 18 8)
    | _ => none

/-- The header bytes of UDP template t, and its IPv6 mark (R273). -/
def templateOf (rows : Tab Nat) (t : Nat) : Bytes × Bool :=
  let bs := (List.range 3).flatMap (fun i => leBytes 32 (senRow rows 5 (3 * t + i)))
  (bs.take (byteAt bs 88), byteAt bs 89 % 2 == 1)

/-- What listener l of a set does with a sentence in queue q: its row, and the template of a UDP listener (R272). -/
def lsnCopy (rows : Tab Nat) (l q : Nat) : LsnCopy :=
  let r := senRow rows 4 l
  let h := if rowF r 0 1 0 = 1 then templateOf rows (rowF r 0 7 2) else ([], false)
  { queue := q, lsn := l, row := r, head := h.1, v6 := h.2 }

/-- A waiting copy of the same filter, to be replaced (R263). -/
def State.coalesced (s : State) (q fi : Nat) : Option Nat :=
  ((s.queue q).entries.find? (fun e => !e.started && (s.item e.desc).filt == some fi)).map (·.desc)

/-- The new sentence takes an old one's place. -/
def State.replaceEntry (s : State) (q old d : Nat) : State :=
  let i := s.item d
  let s1 := s.setItem d { i with enqTick := some (i.enqTick.getD (s.tu.tick % 65536)) }
  (s1.setEntries q ((s1.queue q).entries.map (fun e => if e.desc = old then { desc := d, prio := i.prio } else e))).releaseCopy
    old

/-- Inserts a standard sentence for listener l. -/
def State.insertCopy (s : State) (x : Sentence) (fi d : Nat) (lq : Nat × Nat) : State :=
  let l := lq.1
  let q := lq.2
  match (if rowF (senRow x.rows 4 l) 0 19 19 = 1 then s.coalesced q fi else none) with
  | some old => (s.replaceEntry q old d).bump Reg.SEN_LSNl_COAL [l]
  | none => if s.qFull q then (s.senCount x.talker 7).enqueue q d else s.enqueue q d

/-- Writes the sentence to the Larder once and inserts it for its listeners (R261, R267). -/
def State.route (s : State) (x : Sentence) (fi route : Nat) : State :=
  let ls := (routeListeners x.rows 4 route).eraseDups
  let lqs := ls.filterMap (fun l => (listenerQueue x.rows l).map (fun q => (l, q)))
  if lqs.isEmpty then s
  else
    let n := x.talker
    let ns := x.stamp / 2 ^ 32
    let bytes := x.tag ++ x.body
    let k := cellsOf bytes.length
    let assured := s.talkerAssured n
    let i : Item := {
      bytes := bytes, lenValid := true, cls := if assured then .assured else .standard
      prio := s.f Fd.SEN_TALKt_CFG_PRIO [n], stream := s.f Fd.SEN_TALKt_LINK_STREAM [n], stamp := x.stamp
      copies := lqs.length, hasStream := true, seqGen := assured, maxLen := bytes.length, tagLen := x.tag.length,
      filt := some fi, lsns := lqs.map (fun p => lsnCopy x.rows p.1 p.2) }
    let pool := if assured then 4 else 5
    let w := if s.freeIn pool 256 0 < k then (s, none) else s.storeItem { i with charges := [⟨pool, 256, 0, k⟩] }
    match w.2 with
    | none => if assured then w.1.refuseTalker n ns else (w.1.senCount n 7).bump Reg.LDR_STD_DROP_CNT
    | some d =>
      if assured then w.1.offer d i.stream (lqs.map (·.2)) (.talker n ns)
      else lqs.foldl (fun s lq => s.insertCopy x fi d lq) (w.1.setItem d { w.1.item d with refs := lqs.length })

/-- Checks, filters and routes a sentence (R256 to R267, R269). -/
def State.process (s : State) (x : Sentence) : State :=
  let n := x.talker
  let g := s.talkerGrammar x.rows n
  let ns := x.stamp / 2 ^ 32
  if !g.ckOk x.body then s.ckErr n
  else
    let s1 := (s.senCount n 0).wr64 Reg.SEN_TALKt_STAMP_LO Reg.SEN_TALKt_STAMP_HI [n] (BitVec.ofNat 64 ns)
    if !s.acting then s1
    else
      match s.matchFilter x g with
      | none => s1.senCount n 3
      | some fi =>
        let r := senRow x.rows 1 fi
        let dc := s1.decimate fi (rowF r 4 25 10)
        if !dc.1 then dc.2.senCount n 4
        else
          let tok := dc.2.takeToken n x.assign
          if tok.1 then (tok.2.selectors x g fi).route x fi (rowF r 4 9 0)
          else if s.talkerAssured n then tok.2.refuseTalker n ns
          else (tok.2.senCount n 5).raise Fd.SEN_EVT_RATE_DROP [] n

/-- The sentence of the earliest assignment time leaves the backlog and is processed (R272). -/
def execSentenceProcess (t : Nat) (s : State) : Out :=
  let s := s.clock t
  match s.sen.backlog with
  | x :: xs => .next (({ s with sen := { s.sen with backlog := xs } }).process x)
  | [] => .next s

/-! Sending (R262, R264) -/

/-- Decimal digits of n. -/
def decBytes (n : Nat) : Bytes := (Nat.toDigits 10 n).map (fun c => BitVec.ofNat 8 c.toNat)

def intBytes (i : Int) : Bytes := if i < 0 then 0x2D :: decBytes i.natAbs else decBytes i.toNat

/-- n of an assured sentence, or the next count of the listener (R264). -/
def State.listenerCount (s : State) (l : Nat) (i : Item) : Nat × State :=
  if i.seqValid then (i.seq % 999 + 1, s)
  else
    let c := Tab.get 0 s.sen.count l % 999 + 1
    (c, { s with sen := { s.sen with count := Tab.set 0 s.sen.count l c } })

/-- The tag block that the engine writes (R264). -/
def State.writeTag (s : State) (k : LsnCopy) (i : Item) : Bytes × State :=
  let row := k.row
  let ofs := if s.fb Fd.TU_CFG_ARB then 0 else s.f Fd.SEN_CFG_UTC_OFS * 1000000000
  let unit : Int := if rowF row 0 22 22 = 1 then 1000000 else 1000000000
  let c : Int := ((i.stamp / 2 ^ 32 : Nat) - (ofs : Int)) / unit
  let n := if rowF row 0 23 23 = 1 then s.listenerCount k.lsn i else (0, s)
  let body : Bytes := [0x63, 0x3A] ++ intBytes c ++ (if rowF row 0 23 23 = 1 then [0x2C, 0x6E, 0x3A] ++ decBytes n.1 else [])
  ([0x5C] ++ body ++ [0x2A] ++ hexBytes 2 (xor8 body) ++ [0x5C], n.2)

/-- The bytes of an item as a listener sends or delivers them. -/
def State.listenerBytes (s : State) (k : LsnCopy) (i : Item) : Bytes × State :=
  match rowF k.row 0 21 20 with
  | 1 => (i.bytes.drop i.tagLen, s)
  | 2 => let t := s.writeTag k i; (t.1 ++ i.bytes.drop i.tagLen, t.2)
  | _ => (i.bytes, s)

/-- The listener of an item in queue q: as the tables of its end delimiter have it, or, where none stored it, those in force
(R272). -/
def State.lsnOf (s : State) (i : Item) (q : Nat) : Option LsnCopy :=
  match i.lsns.find? (fun k => k.queue == q) with
  | some k => some k
  | none => if 4097 ≤ q ∧ q < 5120 then some (lsnCopy s.act.sen (q - 4097) q) else none

/-- The listener at the head of queue 4,097 + l, of a kind, that is in use. -/
def State.headLsn (s : State) (l kind : Nat) : Option LsnCopy :=
  match s.serviceHead (4097 + l) with
  | some d => (s.lsnOf (s.item d) (4097 + l)).filter (fun k => rowF k.row 0 31 31 == 1 && rowF k.row 0 1 0 == kind)
  | none => none

/-- The next sentence of listener l as its reader finds it. One that is poisoned is not sent: an assured one is fetched from
the partner where that holds it, and another is lost and counted (R182, log entry 131). -/
def State.listenerHead (s : State) (l : Nat) (ecc : Ecc) : State × Option Nat :=
  let q := 4097 + l
  match s.serviceHead q with
  | none => (s, none)
  | some d =>
    if s.fetching d then (s, none)
    else
      let s1 := (s.own q).readItem d ecc
      if (s1.item d).poison.isEmpty then (s1, some d)
      else
        let lost := (s1.removeEntry q d).releaseCopy d
        (if (s1.item d).cls = .assured then s1.fetchOrLose lost d q else lost.bump Reg.LDR_STD_DROP_CNT, none)

/-- A free transmitter takes the next sentence whole; the read releases the copy (R262, R308, log entry 42). -/
def execUartListenerSend (rd : At Ecc) (listener : Fin 1023) (s : State) : Out :=
  let s := s.clock rd.t
  let l := listener.val
  match s.headLsn l 0 with
  | none => .next s
  | some k =>
    let ch := rowF k.row 0 7 2
    if ch < 32 ∧ s.fb Fd.UAn_CFG_OWNER [ch] ∧ s.uaLive ch ∧ (s.ua ch).free then
      let r := s.listenerHead l rd.found
      match r.2 with
      | some d =>
        let b := r.1.listenerBytes k (r.1.item d)
        let s1 := b.2.acceptedBy (.listener (4097 + l) d)
        .next ((s1.setUa ch { s1.ua ch with fill := b.1 }).uaPump ch)
      | none => .next r.1
    else .next s

/-- The datagram of a sentence (R262). -/
def sentenceFrame (k : LsnCopy) (b : Bytes) : Bytes :=
  finishFrame (fillUdp k.v6 (parseFrame k.head).body (k.head ++ udpbc ++ b))

/-- A UDP listener sends its next sentence into FAB. The sentence stays started at the head of its queue until its frame is
accepted, and waits there again where the frame is refused (R6, R7, R262). -/
def execUdpListenerSend (rd : At Ecc) (listener : Fin 1023) (s : State) : Out :=
  let s := s.clock rd.t
  let l := listener.val
  match s.headLsn l 1 with
  | none => .next s
  | some k =>
    if s.acting ∧ s.operating then
      let r := s.listenerHead l rd.found
      match r.2 with
      | some d =>
        let b := r.1.listenerBytes k (r.1.item d)
        .next ((b.2.startEntry (4097 + l) d).inject (sentenceFrame k b.1) (.listener (4097 + l) d))
      | none => .next r.1
    else .next s

/-! Output sentences (R266) -/

/-- The sentence of an output slot: START0, body, checksum and end delimiter of the grammar. -/
def Grammar.build (g : Grammar) (body : Bytes) : Bytes :=
  let d : Bytes := BitVec.ofNat 8 g.start0 :: body
  let c := checksum g.ckType (if g.nstart = 0 then d else body)
  let k := ckBytes g.ckType
  let ck : Bytes := if g.ckType = 0 then [] else if g.ckBin then beBytes k c
    else BitVec.ofNat 8 g.ckMark :: hexBytes (2 * k) c
  let fin : Bytes := BitVec.ofNat 8 g.end0 :: (if g.nend = 2 then [BitVec.ofNat 8 g.end1] else [])
  d ++ ck ++ fin

/-- A slot that the voted image wrote with LEN other than 0 becomes a sentence at the instant (R266). -/
def State.outputSlot (s : State) (k : Nat) : State :=
  let base := (0x400 + 128 * k) / 4
  let word (i : Nat) : Nat := ((Tab.get none s.tke.voted (base + i)).getD (Tab.get 0 s.tke.force (base + i))).toNat
  let wrote := (List.range 32).any (fun i => (Tab.get none s.tke.voted (base + i)).isSome)
  let len := word 0 % 65536
  let n := word 0 / 65536
  if !wrote || len == 0 then s
  else if 512 ≤ n then s.raise Fd.SEN_EVT_FRAME_ERR [] n
  else
    let g := s.talkerGrammar s.act.sen n
    let body := ((List.range 31).flatMap (fun i => leBytes 4 (word (i + 1)))).take len
    if 124 < len ∨ s.f Fd.SEN_TALKt_CFG_SRC [n] ≠ 0x21 ∨ !s.fb Fd.SEN_TALKt_CFG_VALID [n] ∨
        body.any (fun b => b.toNat == g.start0 || (g.start1 != 0 && b.toNat == g.start1) || b.toNat == g.end0) then
      s.frameErr n
    else s.complete { talker := n, tag := [], body := g.build body, stamp := s.instantNs * 2 ^ 32, assign := s.instantNs
                      rows := s.act.sen }

/-- The output sentences of the tick that ends, at the instant, in slot order (R48, R266). -/
def State.outputSentences (s : State) : State := (List.range 120).foldl State.outputSlot s

/-! Table writes (R59, R273) -/

/-- Bits of word w of a row that Table SEN-4 lists; a template has its TLEN and IPv6 mark in the third row (R11, R273). -/
def senMask (t i w : Nat) : Nat :=
  match t with
  | 0 => [0x800FFFFF, 0xFFFFFFFF, 0xFFFFF7FF].getD w 0
  | 1 => [0xFFFFFFFF, 0xFFFFFFFF, 0xFFFFFFFF, 0xFFFFFFFF, 0x83FFFFFF].getD w 0
  | 2 => [0xBFFFFFFF, 0xFFFFF].getD w 0
  | 3 => [0x803FFFFF].getD w 0
  | 4 => [0x80FFFFFF].getD w 0
  | 5 => if i % 3 = 2 ∧ w = 6 then 0x1FF else if i % 3 = 2 ∧ w = 7 then 0 else 0xFFFFFFFF
  | _ => 0

/-- A write of DATA7 commits the row of DATA0 to DATA7 to the inactive copy, while OPEN is 1. -/
def State.senCommit (s : State) (value : BitVec 32) : State :=
  let s1 := s.wr Reg.SEN_TBL_DATAi [7] value
  let t := s.f Fd.SEN_TBL_ADDR_TABLE
  let i := s.f Fd.SEN_TBL_ADDR_INDEX
  if s.fb Fd.SEN_TBL_ADDR_OPEN && decide (i < senSize t) then
    let row := leNat (bytesOfWords ((List.range 8).map (fun k => s1.rd Reg.SEN_TBL_DATAi [k] &&& BitVec.ofNat 32 (senMask t i k))))
    { s1 with shd := { s1.shd with sen := Tab.set 0 s1.shd.sen (4096 * t + i) row } }
  else s1

def execSenTblData7Write (t : Nat) (party : Party) (value : BitVec 32) (s : State) : Out :=
  .next (((s.clock t).hostWrite party).senCommit value)

/-- A swap keeps the match count of a filter whose VALUE, MASK and DECIM stay (R258). -/
def keepDecim (old new : Tab Nat) (counts : Tab Nat) : Tab Nat :=
  counts.filter (fun e =>
    let a := senRow old 1 e.1
    let b := senRow new 1 e.1
    bits a 127 0 == bits b 127 0 && rowF a 4 25 10 == rowF b 4 25 10)

/-- Per-block reset of SEN: sentences being gathered or waiting are discarded or refused, counts and buckets restart
(R441, Table SCP-5). -/
def State.senReset (s : State) : State :=
  let gathered := (s.sen.framers.filter (fun e => e.2.mode ≠ .hunt)).map (fun e => (e.1, e.2.stamp / 2 ^ 32))
  let gone := gathered ++ s.sen.backlog.map (fun x => (x.talker, x.stamp / 2 ^ 32))
  let idle := (s.sen.framers.map (fun e => (e.1, ({ last := e.2.last } : Framer)))).filter (fun e => e.2 != {})
  let s1 := { s with sen := { s.sen with framers := idle, backlog := [], decim := [], buckets := [] } }
  gone.foldl (fun s e =>
    let s2 := s.bump Reg.SEN_BACKLOG_DROP
    if s.talkerAssured e.1 && s.acting then s2.refuseTalker e.1 e.2 else s2) s1

end Sys2Proof.Machine
end

