-- ==== Sys2Proof/Machine/Bridge.lean ====
section
/-! DEFINITION. Side buses and the bridge engine (spec/11, R310 to R323): requests, tags, completions, far-bus locks,
semaphores and polls. Buses 0 to 7 are SB0 to SB7, 8 to 11 are SP0 to SP3. -/

namespace Sys2Proof.Machine

open Sys2Proof

def State.bus (s : State) (b : Nat) : SideBus := Tab.get {} s.brg.buses b

/-- STAT of a bus shows BUSY, LOCKED, STUCK and OWNER. -/
def State.setBus (s : State) (b : Nat) (x : SideBus) : State :=
  let s1 := { s with brg := { s.brg with buses := Tab.set {} s.brg.buses b x } }
  let set (s : State) (r : RegDesc) (k : Nat) : State :=
    s.wr r [k] (BitVec.ofNat 32 (setBits (setBits (s.rd r [k]).toNat 2 0
      (b2n x.active.isSome + 2 * b2n x.lock.isSome + 4 * b2n x.stuck)) 24 16 (x.lock.getD 0)))
  if b < 8 then set s1 Reg.SBb_STAT b else set s1 Reg.SPs_STAT (b - 8)

def State.sema (s : State) (k : Nat) : Sema := Tab.get {} s.brg.sems k

def State.setSema (s : State) (k : Nat) (x : Sema) : State :=
  let s1 := { s with brg := { s.brg with sems := Tab.set {} s.brg.sems k x } }
  s1.wr Reg.BRG_SEMs [k] (BitVec.ofNat 32 (x.owner.getD 0 + 512 * b2n x.owner.isSome + 1024 * x.waiters.length))

/-- A counter of a bus. -/
def State.busCount (s : State) (b c : Nat) : State :=
  if b < 8 then s.bump Reg.SBb_CNTc [b, c] else s.bump Reg.SPs_CNTc [b - 8, c]

def State.setTxns (s : State) (ts : List Txn) : State :=
  ({ s with brg := { s.brg with txns := ts } }).set0 Fd.BRG_STAT_TAGS_USED ts.length

def State.txn (s : State) (tag : Nat) : Option Txn := s.brg.txns.find? (fun x => x.tag == tag)

/-- The lease length in ticks (R246). -/
def State.leaseTicks (s : State) : Nat := s.f Fd.ASD_CFG_LEASE

/-- A revoked lease is counted and raised (R246). -/
def State.leaseRevoked (s : State) : State :=
  ((s.bump Reg.ASD_LEASE_CNT).raise Fd.ASD_EVT_LEASE_REVOKED)

/-! Requests and completions (R313, R314, R318) -/

def requestOf (b : Bytes) : Request :=
  { rid := beAt b 0 2, op := byteAt b 2, bus := byteAt b 3, addr := beAt b 4 4, wlen := beAt b 8 2, rlen := beAt b 10 2
    wdata := slice b 16 (min 256 (beAt b 8 2)) }

/-- A request that the engine can serve (R313). -/
def Request.ok (r : Request) : Bool :=
  decide (1 ≤ r.op ∧ r.op ≤ 10 ∧ r.wlen ≤ 256 ∧ r.rlen ≤ 256) &&
    (if r.op ≤ 5 then decide (r.bus < 12) else r.bus == 0xFF) &&
    (if r.op = 9 then r.rlen % 4 == 0 && r.addr % 4 == 0 else true) &&
    (if r.op = 10 then r.wlen == 4 && r.addr % 4 == 0 else true)

/-- Puts a standard item of CTL into queue q with the PRIO of its flow (R163); false where it finds no room or a full queue,
and is discarded and counted (R168, R177). -/
def State.putItem (s : State) (q flow : Nat) (bytes : Bytes) : Bool × State :=
  let drop (s : State) : Bool × State := (false, s.bump Reg.LDR_STD_DROP_CNT)
  if s.qFull q then drop (s.queueOverrun q)
  else if s.freeIn 5 256 0 < cellsOf bytes.length then drop (s.raise Fd.LDR_EVT_STD_FULL [] 256)
  else
    let w := s.storeItem { bytes := bytes, lenValid := true, prio := (Config.bridgePrio flow).toNat, maxLen := bytes.length
                           stamp := s.readingAt s.raw, charges := [⟨5, 256, 0, cellsOf bytes.length⟩], copies := 1 }
    match w.2 with
    | some d => (true, w.1.enqueueAll [q] d)
    | none => drop (w.1.raise Fd.LDR_EVT_STD_FULL [] 256)

/-- A reply frame's header: the first OFS bytes of the request with the source and destination of its Ethernet, IP and UDP
headers swapped (R318). -/
def swapHeader (h : Bytes) : Bytes :=
  let p := parseFrame h
  let m := patch (patch h 0 (slice h 6 6)) 6 (slice h 0 6)
  match p.ip with
  | some k =>
    let ip := p.body
    let n := if k.v6 then 16 else 4
    let a := if k.v6 then ip + 8 else ip + 12
    let u := afterIp k.v6 ip h
    let m1 := patch (patch m a (slice h (a + n) n)) (a + n) (slice h a n)
    if k.proto = 17 ∧ u + 8 ≤ h.length then patch (patch m1 u (slice h (u + 2) 2)) (u + 2) (slice h u 2) else m1
  | none => m

/-- The reply frame: the swapped header and the completion, with the lengths and checksums of its IP and UDP headers
(R318). -/
def replyFrame (h c : Bytes) : Bytes :=
  let x := swapHeader h
  let p := parseFrame x
  finishFrame (match p.ip with
    | some k =>
      if k.proto = 17 ∧ afterIp k.v6 p.body x + 8 ≤ x.length then fillUdp k.v6 p.body (x ++ c) else fillIp k.v6 p.body (x ++ c)
    | none => x ++ c)

/-- A completion (Table SER-4). -/
def State.completion (s : State) (x : Txn) (status : Nat) (rdata : Bytes) : Bytes :=
  beBytes 2 x.req.rid ++ beBytes 1 status ++ beBytes 1 x.req.bus ++ beBytes 2 x.tag ++ beBytes 2 rdata.length
    ++ beBytes 8 s.nowNs ++ rdata

/-- The management cluster, whose bridge queues are 0 to 15 (R313), takes the completion that has just entered a queue at
once (DESIGN CHOICE, log entry 133). -/
def State.clusterTakes (s : State) (q k : Nat) : State :=
  match if q < 16 then (s.queue k).entries.getLast? else none with
  | some e => (s.removeEntry k e.desc).releaseCopy e.desc
  | none => s

/-- Writes the completion of a request to RSPQ or as a reply frame (R318). -/
def State.reply (s : State) (x : Txn) (q status : Nat) (rdata : Bytes) : State :=
  let c := s.completion x status rdata
  let k := 2048 + s.f Fd.BRG_Qq_CFG_RSPQ [q]
  if s.fb Fd.BRG_Qq_CFG_REPLY [q] then s.inject (replyFrame x.header c) (.reply q)
  else
    let r := s.putItem k q c
    if r.1 then r.2.clusterTakes q k else (r.2.bump Reg.BRG_RSP_DROP).raise Fd.BRG_EVT_RSP_DROP [] q

/-- Words 0 to 3 of poll entry p (Table SER-6). -/
def State.pollWord (s : State) (p i : Nat) : Nat := (s.rd Reg.BRG_POLLp_Wi [p, i]).toNat

/-- A poll that has read its bytes: a change under MASK writes an event item (R323). -/
def State.pollDone (s : State) (x : Txn) (rdata : Bytes) : State :=
  let p := x.poll
  let st := Tab.get {} s.brg.polls p
  let v := beNat rdata
  let s1 := { s with brg := { s.brg with polls := Tab.set {} s.brg.polls p { st with value := some v } } }
  match st.value with
  | none => s1
  | some old =>
    let mask := s.pollWord p 2
    if (v &&& mask) = (old &&& mask) then s1
    else
      let item := beBytes 1 p ++ beBytes 1 x.reason ++ beBytes 2 0 ++ beBytes 4 v ++ beBytes 8 s.nowNs
      ((s1.putItem (2048 + bits (s.pollWord p 3) 11 0) (512 + p) item).2).raise Fd.BRG_EVT_POLL_CHANGE [] p

/-- A poll that fails is counted on its bus: one that waits too long for a lock, or times out on I²C, which no counter of
the bus names, with the NACKs (R323, DESIGN CHOICE, log entry 153). -/
def State.pollFailed (s : State) (b status : Nat) : State :=
  if status = 6 ∨ status = 4 ∧ b < 8 then s.busCount b 1 else s

/-- A transaction ends with a status; its tag is freed when its completion is written (R314). -/
def State.finish (s : State) (x : Txn) (status : Nat) (rdata : Bytes := []) : State :=
  let s1 := s.setTxns (s.brg.txns.filter (fun y => y.tag != x.tag))
  match x.queue with
  | some q => s1.reply x q status rdata
  | none => if status = 0 then s1.pollDone x rdata else s1.pollFailed x.req.bus status

/-- A free tag: the lowest. -/
def State.freeTag (s : State) : Option Nat :=
  if 4096 ≤ s.brg.txns.length then none
  else findNat (s.brg.txns.length + 1) (fun k => !s.brg.txns.any (fun x => x.tag == k))

/-- The next bridge queue with a request, from the one after the queue served last (R315). -/
def State.nextBridgeQueue (s : State) : Option Nat :=
  ((List.range 512).map (fun i => (s.brg.served + 1 + i) % 512)).find? (fun q => !(s.queue (5120 + q)).entries.isEmpty)

/-- The engine takes a request and allocates a tag; a malformed one completes with BAD_REQ (R313 to R315), and so does one
that is poisoned (R182, log entry 131). -/
def execBridgeRequestTake (rd : At Ecc) (s : State) : Out :=
  let s := s.clock rd.t
  match s.nextBridgeQueue with
  | none => .next s
  | some q =>
    if !s.operating then .next s
    else match s.freeTag with
      | none => .next (s.raise Fd.BRG_EVT_TAGS_OUT)
      | some tag =>
        let r := s.takeHead (5120 + q) rd.found
        match r.2 with
        | none => .next s
        | some d =>
          let i := r.1.item d
          let b := i.bytes
          let ofs := s.f Fd.BRG_Qq_CFG_OFS [q]
          let x : Txn := { tag := tag, req := requestOf (b.drop ofs), queue := some q, header := b.take ofs, tick := s.strobes,
                              at_ := s.raw }
          let s1 := r.1.releaseCopy d
          let s2 := { s1 with brg := { s1.brg with served := q } }
          let s3 := s2.setTxns (s2.brg.txns ++ [x])
          .next (if x.req.ok ∧ i.poison.isEmpty then s3 else (s3.raise Fd.BRG_EVT_BAD_REQ [] q).finish x 8)

/-! Transactions on a bus (R311, R312, R315 to R317, R319) -/

/-- The bus belongs to a transaction: it is not locked, or its own queue holds the lock. -/
def SideBus.admits (b : SideBus) (x : Txn) : Bool :=
  match b.lock with
  | some o => x.queue == some o || x.req.op == 5
  | none => true

/-- The lease of a lock has expired. It does not run while a transaction of its owner is on the bus (R320). -/
def State.lockExpired (s : State) (b : Nat) : Bool :=
  let u := s.bus b
  u.lock.isSome && u.active.isNone && decide (u.lease + s.leaseTicks ≤ s.strobes)

/-- The transaction that bus b takes next, in tag order: none of a lock's owner once its lease has expired (R320). -/
def State.nextOn (s : State) (b : Nat) : Option Txn :=
  let u := s.bus b
  if u.active.isSome || u.stuck || !s.operating then none
  else s.brg.txns.find? (fun x => x.req.bus == b && u.admits x && !(s.lockExpired b && x.queue == u.lock))

/-- The transfer of a transaction on the wires of bus b, at its SPEED, or with its MODE and LSB_FIRST (R311, R312). -/
def State.transferOut (s : State) (b : Nat) (x : Txn) : State :=
  let op := x.req.op
  let n := if op = 3 ∧ 8 ≤ b then max x.req.wlen x.req.rlen else x.req.rlen
  let w := if op = 1 then [] else x.req.wdata
  let rd := if op = 2 then 0 else n
  let mode := if b < 8 then s.f Fd.SBb_CFG_SPEED [b] else bits (s.rd Reg.SPs_CFG [b - 8]).toNat 10 8
  s.emit (.sideBus b (.transfer op (if b < 8 then x.req.addr % 128 else x.req.addr % 4) mode w rd))

/-- Bus b starts its next transaction where that has operation op. An SPI chip select held under a lock is released
where the next transaction uses another one (R319). -/
def State.busStart (s : State) (b op : Nat) : State :=
  match s.nextOn b with
  | some x =>
    if x.req.op = op then
      let u := s.bus b
      let s0 := if 8 ≤ b ∧ u.held.isSome ∧ u.held ≠ some (x.req.addr % 4) then s.emit (.sideBus b .stop) else s
      (s0.setBus b { u with active := some x.tag, since := s.raw, losses := 0, held := none }).transferOut b x
    else s
  | none => s

def execBridgeRead (t : Nat) (bus : Fin 12) (s : State) : Out := .next ((s.clock t).busStart bus.val 1)
def execBridgeWrite (t : Nat) (bus : Fin 12) (s : State) : Out := .next ((s.clock t).busStart bus.val 2)
def execWriteRead (t : Nat) (bus : Fin 12) (s : State) : Out := .next ((s.clock t).busStart bus.val 3)

/-- The transaction on bus b ends: STOP or release of the chip select, unless its requester holds the lock, whose lease
restarts (R311, R319, R320). -/
def State.busEnd (s : State) (b status : Nat) (rdata : Bytes) (stop : Bool) : State :=
  let u := s.bus b
  match u.active.bind s.txn with
  | some x =>
    let own := u.lock.isSome && x.queue == u.lock
    let keep := own && !stop
    let s1 := s.setBus b { u with active := none, lease := if own then s.strobes else u.lease
                                  held := if keep then some (x.req.addr % 4) else none }
    let s2 := if keep then s1 else s1.emit (.sideBus b .stop)
    s2.finish x status rdata
  | none => s

/-- A transaction ends on the wires; lost arbitration is retried up to 3 times (R311, R316). -/
def execBridgeTransactionDone (t : Nat) (bus : Fin 12) (result : BusEnd) (s : State) : Out :=
  let s := s.clock t
  let b := bus.val
  let u := s.bus b
  match u.active.bind s.txn with
  | none => .next s
  | some x =>
    match result with
    | .ok rdata =>
      let n := if x.req.op = 2 then 0 else if x.req.op = 3 ∧ 8 ≤ b then max x.req.wlen x.req.rlen else x.req.rlen
      .next ((s.busCount b 0).busEnd b 0 (rdata.take n) false)
    | .nackAddr => if 8 ≤ b then .next s else .next ((s.busCount b 1).busEnd b 1 [] false)
    | .nackData => if 8 ≤ b then .next s else .next ((s.busCount b 1).busEnd b 2 [] false)
    | .arbLost =>
      if 8 ≤ b then .next s
      else
        let s1 := s.busCount b 2
        .next (if u.losses < 3 then (s1.setBus b { u with losses := u.losses + 1 }).transferOut b x
          else s1.busEnd b 3 [] false)

/-- A transaction that is not done within TMO ms of its start (R317). -/
def execBridgeTimeout (t : Nat) (bus : Fin 12) (s : State) : Out :=
  let s := s.clock t
  let b := bus.val
  if (s.bus b).active.isSome ∧ s.elapsed (s.bus b).since (s.f Fd.BRG_CFG_TMO * 1000000) then
    .next ((if 8 ≤ b then s.busCount b 1 else s).busEnd b 4 [] true)
  else .next s

/-- A target has held SCL low for `held` ns (R311). -/
def execStretchTimeout (t : Nat) (bus : Fin 8) (held : Nat) (s : State) : Out :=
  let s := s.clock t
  let b := bus.val
  if (s.bus b).active.isSome ∧ s.f Fd.SBb_CFG_STRETCH_MAX [b] * 10000 < held then .next (s.busEnd b 4 [] false)
  else .next s

/-- Ends every transaction that meets a test. -/
def State.finishAll (s : State) (status : Nat) (p : Txn → Bool) : State :=
  (s.brg.txns.filter p).foldl (fun s x => s.finish x status) s

/-- A transaction has waited LOCK_WAIT ticks for a lock (R319). -/
def execLockWaitExpiry (t : Nat) (bus : Fin 12) (s : State) : Out :=
  let s := s.clock t
  let b := bus.val
  let u := s.bus b
  if u.lock.isSome then
    .next (s.finishAll 6 (fun x => x.req.bus == b && !u.admits x && u.active != some x.tag &&
      decide (x.tick + s.f Fd.BRG_CFG_LOCK_WAIT ≤ s.strobes)))
  else .next s

/-- SDA, or SCL, has been low since raw count `since` while the bus does not drive it, as it drives SCL between the
transactions of a lock: recovery, and every transaction of the bus ends; a lock's lease restarts with that of its owner
(R311, R319, R320). -/
def execBusStuck (t : Nat) (bus : Fin 8) (sda : Bool) (since : Nat) (s : State) : Out :=
  let s := s.clock t
  let b := bus.val
  let u := s.bus b
  if !u.stuck ∧ (sda ∨ u.held.isNone) ∧ s.elapsed since (s.f Fd.SBb_CFG_STUCK_MS [b] * 1000000) then
    let own : Bool := (u.active.bind s.txn).any (fun x => u.lock.isSome && x.queue == u.lock)
    let lease := if own then s.strobes else u.lease
    let s1 := (s.setBus b { u with active := none, held := none, stuck := true, lease := lease }).emit (.sideBus b .recover)
    .next (((s1.finishAll 9 (fun x => x.req.bus == b)).busCount b 3).raise Fd.BRG_EVT_BUS_STUCK [] b)
  else .next s

def execBusRecovered (t : Nat) (bus : Fin 8) (s : State) : Out :=
  let s := s.clock t
  let b := bus.val
  if (s.bus b).stuck then .next ((s.setBus b { s.bus b with stuck := false }).raise Fd.BRG_EVT_BUS_RECOVERED [] b)
  else .next s

/-! Locks (R319, R320) -/

/-- OP LOCK grants the bus to the requesting queue. -/
def execBridgeLock (t : Nat) (bus : Fin 12) (s : State) : Out :=
  let s := s.clock t
  let b := bus.val
  match s.nextOn b with
  | some x =>
    if x.req.op = 4 then .next ((s.setBus b { s.bus b with lock := x.queue, lease := s.strobes }).finish x 0) else .next s
  | none => .next s

/-- OP UNLOCK from the owner sends STOP or releases the chip select; from another queue it completes with NOT_OWNER. -/
def execBridgeUnlock (t : Nat) (bus : Fin 12) (s : State) : Out :=
  let s := s.clock t
  let b := bus.val
  match s.nextOn b with
  | some x =>
    if x.req.op = 5 then
      let u := s.bus b
      if u.lock.isSome ∧ x.queue = u.lock then
        .next (((s.setBus b { u with lock := none, held := none }).emit (.sideBus b .stop)).finish x 0)
      else .next (s.finish x 7)
    else .next s
  | none => .next s

/-- The lease of a lock has expired: STOP or release, and the owner's waiting transactions end (R320, Table ASD-8). -/
def State.revokeLock (s : State) (b : Nat) : State :=
  if s.lockExpired b then
    let u := s.bus b
    let s1 := (s.setBus b { u with lock := none, held := none }).emit (.sideBus b .stop)
    ((s1.finishAll 5 (fun x => x.req.bus == b && x.queue == u.lock)).leaseRevoked).raise Fd.BRG_EVT_LEASE_REVOKED [] b
  else s

/-! Semaphores (R321) -/

/-- The first request of an operation that waits for the register or semaphore unit: in the order of tags, and of several
that reach one semaphore in one cycle that of the lowest bridge queue (R315, R321). -/
def State.nextUnit (s : State) (op : Nat) : Option Txn :=
  let waits (x : Txn) : Bool := x.req.bus == 0xFF && x.req.op == op && !x.listed
  let before (x y : Txn) : Txn := if y.queue.getD 0 < x.queue.getD 0 then y else x
  (s.brg.txns.find? waits).map (fun x =>
    (s.brg.txns.filter (fun y => waits y && op == 6 && y.at_ == x.at_ && y.req.addr % 256 == x.req.addr % 256)).foldl before x)

/-- The semaphore goes to its first waiter, or becomes free. -/
def State.grantNext (s : State) (k : Nat) : State :=
  let m := s.sema k
  match m.waiters with
  | w :: ws =>
    (match s.txn w with
     | some x => (s.setSema k { owner := x.queue, lease := s.strobes, waiters := ws }).finish x 0
     | none => s.setSema k { owner := none, waiters := ws })
  | [] => s.setSema k {}

def execSemAcq (t : Nat) (s : State) : Out :=
  let s := s.clock t
  match s.nextUnit 6 with
  | some x =>
    let k := x.req.addr % 256
    let m := s.sema k
    if m.owner.isNone then .next ((s.setSema k { m with owner := x.queue, lease := s.strobes }).finish x 0)
    else if 16 ≤ m.waiters.length then .next (s.finish x 10)
    else .next ((s.setTxns (s.brg.txns.map (fun y => if y.tag = x.tag then { y with listed := true } else y))).setSema k
      { m with waiters := m.waiters ++ [x.tag] })
  | none => .next s

def execSemRel (t : Nat) (s : State) : Out :=
  let s := s.clock t
  match s.nextUnit 7 with
  | some x =>
    let k := x.req.addr % 256
    if (s.sema k).owner.isSome ∧ (s.sema k).owner = x.queue then .next ((s.finish x 0).grantNext k) else .next (s.finish x 7)
  | none => .next s

def execSemRenew (t : Nat) (s : State) : Out :=
  let s := s.clock t
  match s.nextUnit 8 with
  | some x =>
    let k := x.req.addr % 256
    let m := s.sema k
    if m.owner.isSome ∧ m.owner = x.queue then .next ((s.setSema k { m with lease := s.strobes }).finish x 0)
    else .next (s.finish x 7)
  | none => .next s

/-- The lease of a semaphore has expired: it is freed and granted to the next waiter (Table ASD-8). -/
def State.revokeSema (s : State) (k : Nat) : State :=
  let m := s.sema k
  if m.owner.isSome ∧ m.lease + s.leaseTicks ≤ s.strobes then
    ((s.grantNext k).leaseRevoked).raise Fd.BRG_EVT_LEASE_REVOKED [] k
  else s

/-! Polls and side-band lines (R323) -/

/-- A poll entry runs: an ordinary tagged WRITE_READ of its byte REG; a run by its interval is the one that the next
interval counts from. -/
def State.runPoll (s : State) (p reason : Nat) : State :=
  match s.freeTag with
  | none => s.raise Fd.BRG_EVT_TAGS_OUT
  | some tag =>
    let w0 := s.pollWord p 0
    let r : Request := { rid := p, op := 3, bus := bits w0 3 0, addr := bits w0 22 16, wlen := 1
                         rlen := bits (s.pollWord p 1) 2 0, wdata := [BitVec.ofNat 8 (bits w0 15 8)] }
    let st := Tab.get {} s.brg.polls p
    let s1 := { s with brg := { s.brg with polls := Tab.set {} s.brg.polls p { st with
      ran := if reason = 0 then some s.strobes else st.ran } } }
    let x : Txn := { tag := tag, req := r, queue := none, poll := p, reason := reason, tick := s.strobes, at_ := s.raw }
    s1.setTxns (s1.brg.txns ++ [x])

def State.pollValid (s : State) (p : Nat) : Bool := bitAt (s.pollWord p 0) 31 && s.operating

def execPollInterval (t : Nat) (poll : Fin 64) (s : State) : Out :=
  let s := s.clock t
  let p := poll.val
  let n := bits (s.pollWord p 1) 23 8
  let due : Bool := match (Tab.get {} s.brg.polls p).ran with | some k => decide (k + n ≤ s.strobes) | none => true
  if s.pollValid p && n != 0 && due then .next (s.runPoll p 0) else .next s

/-- A side-band input has had its level since raw count `since`: taken as low after 20 ns, it runs the poll entries of its
bus that have LINE set. -/
def execSideBandLine (t : Nat) (bus : Fin 12) (low : Bool) (since : Nat) (s : State) : Out :=
  let s := s.clock t
  let b := bus.val
  let low := low && s.elapsed since 20
  let was : Bool := if b < 8 then s.fb Fd.SBb_STAT_LINE [b] else s.fb Fd.SPs_STAT_LINE [b - 8]
  let s1 := if b < 8 then s.sf Fd.SBb_STAT_LINE [b] (b2n low) else s.sf Fd.SPs_STAT_LINE [b - 8] (b2n low)
  if low && !was then
    .next ((List.range 64).foldl (fun s p =>
      let w := s.pollWord p 0
      if s.pollValid p ∧ bitAt w 4 ∧ bits w 3 0 = b then s.runPoll p 1 else s) s1)
  else .next s1

end Sys2Proof.Machine
end

