-- ==== Sys2Proof/Machine/Wake.lean ====
section
/-! DEFINITION. Wake sources and the acceptance of a wake by the Porch (R392 to R394). -/

namespace Sys2Proof.Machine

open Sys2Proof

/-- The power state that the Porch is in, or is entering (Table PWR-1). -/
def State.porState (s : State) : Nat :=
  match s.por.target with
  | some x => x.1
  | none => s.f Fd.POR_STAT_STATE

/-- Source k is listed for a state (Table PWR-3). -/
def sourceListed (k st : Nat) : Bool :=
  if k = 12 then st == 3 else if 2 ≤ k ∧ k ≤ 9 then st == 1 || st == 2 else 1 ≤ st && st ≤ 3

/-- Source k can wake the block now (R392). -/
def State.sourceWakes (s : State) (k : Nat) : Bool :=
  s.fb Fd.POR_SRCs_CFG_EN [k] && !s.fb Fd.POR_SRCs_CFG_MASKED [k] && sourceListed k s.porState

/-- INH lines that a source names, as a mask (R394). -/
def State.sourceInh (s : State) (k : Nat) : Nat :=
  if 2 ≤ k ∧ k ≤ 9 then
    if s.fb Fd.FBn_XCVR_INH_EN [k - 2] then 2 ^ s.f Fd.FBn_XCVR_INH_SEL [k - 2] else 0
  else if s.fb Fd.POR_SRCs_CFG_INH_EN [k] then 2 ^ s.f Fd.POR_SRCs_CFG_INH_SEL [k] else 0

/-- The sources of a mask. -/
def sourcesOf (mask : Nat) : List Nat := (List.range 13).filter (bitAt mask)

/-- A wake by a set of sources is accepted: WAKE_OUT, INH lines, and the way to Operate begins (R393, R394). -/
def State.acceptWake (s : State) (mask : Nat) : State :=
  let inh := (sourcesOf mask).foldl (fun n k => n ||| s.sourceInh k) (s.f Fd.POR_INH_OPERATE)
  let s1 := (s.set0 Fd.POR_STAT_WAKE_SRC mask).set0 Fd.POR_STAT_TRANS 1
  let s2 := { s1 with por := { s1.por with
    held := 0, waking := true, from_ := s.f Fd.POR_STAT_STATE, wokeAt := s.wall, srcs := mask, want := inh, stay := none } }
  ((s2.emit (.pin "WAKE_OUT" true s.wall)).emit (.pin "WAKE_OUT" false (s.wall + 1000000))).raise Fd.POR_EVT_WAKE [] mask

/-- Source k becomes active: a wake, or one that is held while a state is being entered (R393). A source of the same
AFCLK cycle as the wake is recorded with it. -/
def State.wake (s : State) (k : Nat) : State :=
  if !s.sourceWakes k then s
  else if s.por.target.isSome then { s with por := { s.por with held := s.por.held ||| 2 ^ k } }
  else if s.por.waking then
    if s.por.wokeAt = s.wall then
      let m := s.por.srcs ||| 2 ^ k
      ({ s with por := { s.por with srcs := m, want := s.por.want ||| s.sourceInh k } }).set0 Fd.POR_STAT_WAKE_SRC m
    else s
  else s.acceptWake (2 ^ k)

end Sys2Proof.Machine
end

