-- ==== Sys2Proof/Machine/Can.lean ====
section
/-! DEFINITION. CAN FD channels (spec/10): message buffers, transmission, error confinement, rate detection,
time-triggered operation and wake. -/

namespace Sys2Proof.Machine

open Sys2Proof

def State.fbc (s : State) (n : Nat) : Fb := Tab.get {} s.fbs n

def State.setFb (s : State) (n : Nat) (x : Fb) : State := { s with fbs := Tab.set {} s.fbs n x }

/-! States (Tables FBS-2, FBS-3) -/

def State.fbState (s : State) (n : Nat) : Nat := s.f Fd.FBn_STAT_STATE [n]

/-- The transceiver state that follows a controller state and the power state (R276). -/
def xcvrOf (power ctl : Nat) : Nat :=
  if power = 1 then 4
  else if power = 2 then 3
  else match ctl with
    | 0 => 3
    | 1 => 1
    | 2 => 1
    | 3 => 1
    | _ => 2

/-- Enters a controller state; the transceiver follows. -/
def State.fbEnter (s : State) (n st : Nat) : State :=
  (s.sf Fd.FBn_STAT_STATE [n] st).sf Fd.FBn_XCVR_STAT_XSTATE [n] (xcvrOf (s.f Fd.POR_STAT_STATE) st)

/-- The controllers run in Operate and Listen (Table ARC-7). -/
def State.fbPowered (s : State) : Bool := s.f Fd.POR_STAT_STATE == 4 || s.f Fd.POR_STAT_STATE == 3

/-! Bit timing (R277) -/

/-- PCLK cycles of a nominal and of a data bit, from the words of NBT and DBT. -/
def nomBit (w : Nat) : Nat := (bits w 7 0 + 1) * (3 + bits w 15 8 + bits w 22 16)
def datBit (w : Nat) : Nat := (bits w 4 0 + 1) * (3 + bits w 12 8 + bits w 19 16)

/-- The limits of R277. -/
def timingOk (nbt dbt : Nat) : Bool :=
  decide (160 ≤ nomBit nbt ∧ nomBit nbt ≤ 16000 ∧ 20 ≤ datBit dbt ∧ datBit dbt ≤ nomBit nbt ∧
    bits nbt 29 23 ≤ bits nbt 22 16 ∧ bits dbt 23 20 ≤ bits dbt 19 16)

def State.nbt (s : State) (n : Nat) : Nat := (s.rd Reg.FBn_NBT [n]).toNat
def State.dbt (s : State) (n : Nat) : Nat := (s.rd Reg.FBn_DBT [n]).toNat

/-- Every timing that a channel's mode uses is within the limits. -/
def State.fbTimingOk (s : State) (n : Nat) : Bool :=
  if s.f Fd.FBn_CFG_MODE [n] = 3 then
    (List.range (s.f Fd.FBn_ARD_CFG_LAST [n] + 1)).all (fun k =>
      timingOk (s.rd Reg.FBn_ARDk_NBT [n, k]).toNat (s.rd Reg.FBn_ARDk_DBT [n, k]).toNat)
  else timingOk (s.nbt n) (s.dbt n)

/-- Rate detection starts at its first pair, with nothing found (R279). -/
def State.ardStart (s : State) (n : Nat) : State :=
  s.setFb n { s.fbc n with ardK := 0, ardSince := s.raw, ardGood := 0, ardCycles := 0, found := false }

/-- TEC, REC and WARN as FBn_STAT shows them. -/
def State.showErrs (s : State) (n tec rec : Nat) : State :=
  ((s.sf Fd.FBn_STAT_TEC [n] (min 255 tec)).sf Fd.FBn_STAT_REC [n] (min 255 rec)).sf Fd.FBn_STAT_WARN [n]
    (b2n (decide (96 ≤ tec ∨ 96 ≤ rec)))

/-- A channel starts from its configuration (Table FBS-2); a standby's channels listen (Table ASD-1). -/
def State.fbStart (s : State) (n : Nat) : State :=
  let m := s.f Fd.FBn_CFG_MODE [n]
  let s1 := ((s.setFb n { s.fbc n with tec := 0, recv := 0, synced := false }).ardStart n).showErrs n 0 0
  if m = 0 then s1.fbEnter n 0
  else if !s.fbTimingOk n then (s1.fbEnter n 0).raise Fd.FBn_EVT_CFG_BAD [n]
  else if m = 2 ∨ !s.acting then s1.fbEnter n 6
  else s1.fbEnter n (if m = 3 then 7 else 1)

def State.fbStartAll (s : State) : State := (List.range 32).foldl State.fbStart s

/-! Buffers and messages (R280 to R284) -/

def State.mbMode (s : State) (n m : Nat) : Nat := s.f Fd.FBn_MBm_CFG_MODE [n, m]

/-- The Tick Engine owns buffer m. -/
def State.mbTke (s : State) (n m : Nat) : Bool :=
  if m = 128 then s.fb Fd.FBn_HP_CFG_OWNER [n] else s.fb Fd.FBn_MBm_CFG_OWNER [n, m]

def State.mbSlot (s : State) (n m : Nat) : Nat :=
  if m = 128 then s.f Fd.FBn_HP_CFG_SLOT [n] else s.f Fd.FBn_MBm_CFG_SLOT [n, m]

def State.mbPend (s : State) (n m : Nat) : Bool :=
  if m = 128 then s.fb Fd.FBn_HP_STAT_PEND [n] else s.fb Fd.FBn_MBm_STAT_PEND [n, m]

def State.setPend (s : State) (n m : Nat) (b : Bool) : State :=
  if m = 128 then s.sf Fd.FBn_HP_STAT_PEND [n] (b2n b) else s.sf Fd.FBn_MBm_STAT_PEND [n, m] (b2n b)

def Fb.words (x : Fb) (m : Nat) : Tab (BitVec 32) := Tab.get [] x.bufs m

def State.setWords (s : State) (n m : Nat) (w : Tab (BitVec 32)) : State :=
  s.setFb n { s.fbc n with bufs := Tab.set [] (s.fbc n).bufs m w }

def msgWord (w : Tab (BitVec 32)) (k : Nat) : Nat := (Tab.get 0 w k).toNat

/-- Data bytes of a data length code. -/
def dlcLen (dlc : Nat) (fd : Bool) : Nat :=
  if dlc ≤ 8 then dlc
  else if !fd then 8
  else match dlc with
    | 9 => 12
    | 10 => 16
    | 11 => 20
    | 12 => 24
    | 13 => 32
    | 14 => 48
    | _ => 64

/-- The words of a message in the layout of Table FBS-4. -/
def messageWords (f : CanFrame) (vstamp sof : Nat) : Tab (BitVec 32) :=
  let len := dlcLen f.dlc.toNat f.fdf
  let id := if f.ide then f.id.toNat else f.id.toNat / 2 ^ 18 * 2 ^ 18
  let w0 := id + 2 ^ 29 * b2n f.ide + 2 ^ 30 * b2n (f.rtr && !f.fdf)
  let w1 := f.dlc.toNat + 16 * b2n f.fdf + 32 * b2n f.brs + 64 * b2n f.esi + 256 * len
  let data := wordsOf (slice f.data 0 (if f.rtr && !f.fdf then 0 else len))
  Tab.setList 0 (Tab.setList 0 [] 0 ([w0, w1, vstamp, vstamp / 2 ^ 32, sof, sof / 2 ^ 32].map (BitVec.ofNat 32))) 8 data

/-- Buffer m takes a message (R281). -/
def State.mbMatches (s : State) (n m : Nat) (w : Tab (BitVec 32)) : Bool :=
  s.mbMode n m == 1 &&
  ((bits (msgWord w 0) 28 0 ^^^ s.f Fd.FBn_MBm_ID_ID [n, m]) &&& s.f Fd.FBn_MBm_MASK_MASK [n, m]) == 0 &&
  (!s.fb Fd.FBn_MBm_MASK_IDE_CMP [n, m] || bits (msgWord w 0) 29 29 == s.f Fd.FBn_MBm_ID_IDE [n, m]) &&
  (!bitAt (msgWord w 1) 4 || s.fb Fd.FBn_CFG_FD_EN [n])

/-- Writes a message to a buffer, or to the shadow of a locked one (R283). -/
def State.mbPut (s : State) (n m : Nat) (w : Tab (BitVec 32)) : State :=
  let x := s.fbc n
  match x.lock with
  | some l => if l.1 = m then s.setFb n { x with shadow := w, stored := true } else s.setWords n m w
  | none => s.setWords n m w

/-- A store in a host buffer sets NEW, or MSGLOST as well; one in a Tick Engine buffer feeds its receive slot and is one
event for the task inputs (R69, R282). `ns`: message-valid time. -/
def State.mbStore (s : State) (n m : Nat) (w : Tab (BitVec 32)) (ns : Nat) : State :=
  let s1 := (s.mbPut n m w).qualify
  let s2 := if s.mbTke n m then
      let ws := (List.range 32).map (fun k => Tab.get 0 w k)
      (s1.deposit ns (fun b => b.put (0x8000 + 128 * s.mbSlot n m) ws)).taskEvent (.canRx n m) ns ns 0 2
    else if s.fb Fd.FBn_MBm_STAT_NEW [n, m] then
      ((s1.setFlag Fd.FBn_MBm_STAT_MSGLOST [n, m]).bump Reg.FBn_CNTc [n, 5]).raise Fd.FBn_EVT_MSG_LOST [n] m
    else s1.setFlag Fd.FBn_MBm_STAT_NEW [n, m]
  if bitAt (s.rd Reg.POR_LWAKE).toNat n then s2.wake 12 else s2

/-- Ends a lock: the shadow moves into the buffer if it took a store (R283). -/
def State.unlock (s : State) (n : Nat) : State :=
  let x := s.fbc n
  match x.lock with
  | some l =>
    let s1 := s.setFb n { x with lock := none, stored := false
                                 bufs := if x.stored then Tab.set [] x.bufs l.1 x.shadow else x.bufs }
    (s1.sf Fd.FBn_STAT_LOCKED [n] 0).sf Fd.FBn_MBSEL_LOCK [n] 0
  | none => s

/-- A write of FBn_MBSEL (R283). -/
def State.mbsel (s : State) (n : Nat) (v : BitVec 32) : State :=
  let buf := bits v.toNat 7 0
  let s1 := (s.unlock n).wr Reg.FBn_MBSEL [n] (BitVec.ofNat 32 buf)
  if v.getLsbD 31 && decide (buf < 128) && s.mbMode n buf != 2 then
    let x := s1.fbc n
    let s2 := s1.setFb n { x with lock := some (buf, s.raw), shadow := x.words buf, stored := false }
    (s2.sf Fd.FBn_MBSEL_LOCK [n] 1).sf Fd.FBn_STAT_LOCKED [n] 1
  else s1

def execFbMbselWrite (t : Nat) (party : Party) (channel : Fin 32) (value : BitVec 32) (s : State) : Out :=
  .next (((s.clock t).hostWrite party).mbsel channel.val value)

/-- A lock held for 10 µs ends (R283). -/
def execLockTmo (t : Nat) (channel : Fin 32) (s : State) : Out :=
  let s := s.clock t
  let n := channel.val
  match (s.fbc n).lock with
  | some l => if s.elapsed l.2 10000 then .next ((s.unlock n).raise Fd.FBn_EVT_LOCK_TMO [n] l.1) else .next s
  | none => .next s

/-- A write through the window (R284). -/
def State.mbwin (s : State) (n k : Nat) (v : BitVec 32) : State :=
  let m := s.f Fd.FBn_MBSEL_BUF [n]
  if m = 128 ∨ m < 128 ∧ s.mbMode n m = 2 ∧ !s.mbTke n m then
    if s.mbPend n m then s.raise Fd.FBn_EVT_TX_REFUSED [n] m
    else s.setWords n m (Tab.set 0 ((s.fbc n).words m) k v)
  else s

def execFbMbwinWrite (t : Nat) (party : Party) (channel : Fin 32) (word : Fin 32) (value : BitVec 32) (s : State) : Out :=
  .next (((s.clock t).hostWrite party).mbwin channel.val word.val value)

/-- What the window reads: word k of the selected buffer. -/
def State.mbwinRead (s : State) (n k : Nat) : BitVec 32 := Tab.get 0 ((s.fbc n).words (s.f Fd.FBn_MBSEL_BUF [n])) k

/-! Requests (R285, R287) -/

def State.txStat (s : State) (n st code result : Nat) : State :=
  s.wr Reg.FBn_TXCMD_STAT [n] (BitVec.ofNat 32 (st + 4 * code + 16 * result))

def State.txRefuse (s : State) (n m code : Nat) : State := (s.txStat n 2 code 0).raise Fd.FBn_EVT_TX_REFUSED [n] m

/-- The buffer's transmission has started: its SOF is sent. -/
def State.onBus (s : State) (n m : Nat) : Bool :=
  match (s.fbc n).tx with | some x => x.buf == m | none => false

/-- A host request for buffer m (R285). -/
def State.txRequest (s : State) (n m : Nat) : State :=
  if s.mbTke n m then s.txRefuse n m 1
  else if m < 128 ∧ s.mbMode n m ≠ 2 then s.txRefuse n m 2
  else if s.fbState n = 4 ∨ s.fbState n = 5 then s.txRefuse n m 3
  else (s.txStat n 1 0 0).setPend n m true

/-- A cancel of buffer m: before SOF it is removed; later it only ends the retries (R287). -/
def State.txCancel (s : State) (n m : Nat) : State :=
  if !s.mbPend n m then s.txStat n 1 0 0
  else if s.onBus n m then
    let x := s.fbc n
    (s.setFb n { x with tx := x.tx.map (fun y => { y with cancelled := true }) }).txStat n 1 0 2
  else
    let s1 := ((s.setPend n m false).bump Reg.FBn_CNTc [n, 7]).txStat n 1 0 1
    if m = 128 then s1.setFlag Fd.FBn_HP_STAT_CANCELLED [n] else s1.setFlag Fd.FBn_MBm_STAT_CANCELLED [n, m]

def execFbTxRequest (t : Nat) (party : Party) (channel : Fin 32) (buf : Fin 128) (s : State) : Out :=
  .next (((s.clock t).hostWrite party).txRequest channel.val buf.val)

def execFbTxCancel (t : Nat) (party : Party) (channel : Fin 32) (buf : Fin 128) (s : State) : Out :=
  .next (((s.clock t).hostWrite party).txCancel channel.val buf.val)

def execFbHpReq (t : Nat) (party : Party) (channel : Fin 32) (s : State) : Out :=
  .next (((s.clock t).hostWrite party).txRequest channel.val 128)

def execFbHpCancel (t : Nat) (party : Party) (channel : Fin 32) (s : State) : Out :=
  .next (((s.clock t).hostWrite party).txCancel channel.val 128)

/-- A buffer's request ends with ABORTED (R288, R289, R295, R299). -/
def State.txAbort (s : State) (n m : Nat) : State :=
  let s1 := s.setPend n m false
  if m = 128 then ((s1.setFlag Fd.FBn_HP_STAT_ABORTED [n]).raise Fd.FBn_EVT_HP_FAIL [n]).emit (.msix (32 + n))
  else s1.setFlag Fd.FBn_MBm_STAT_ABORTED [n, m]

/-- Buffers whose request is pending. -/
def State.pendingBufs (s : State) (n : Nat) : List Nat := (List.range 129).filter (s.mbPend n)

/-- Transmit slot contents that the voted image wrote (R285). -/
def State.slotWords (s : State) (slot : Nat) : Option (Tab (BitVec 32)) :=
  let base := (0x4000 + 128 * slot) / 4
  if (List.range 32).any (fun i => (Tab.get none s.tke.voted (base + i)).isSome) then
    some (Tab.setList 0 [] 0 ((List.range 32).map (fun i =>
      (Tab.get none s.tke.voted (base + i)).getD (Tab.get 0 s.tke.force (base + i)))))
  else none

/-- New content for a Tick Engine transmit buffer (R285). -/
def State.slotCopy (s : State) (n m : Nat) (w : Tab (BitVec 32)) : State :=
  let x := s.fbc n
  if s.fbState n = 4 ∨ s.fbState n = 5 then s.setWords n m w
  else if s.onBus n m then s.setFb n { x with next := Tab.set none x.next m (some w) }
  else
    let s1 := (s.setWords n m w).setPend n m true
    s1.setFb n { s1.fbc n with slotAt := Tab.set 0 (s1.fbc n).slotAt m (s.raw + 1) }

def State.isTt (s : State) (n : Nat) : Bool := decide (n < 24) && s.fb Fd.FBn_CFG_TT [n]

/-- The request of a buffer is in force: on an arbitration channel one of the Tick Engine stands from 200 ns after its
instant (Table TCK-3). PEND shows it from the instant (log entry 134). -/
def State.requested (s : State) (n m : Nat) : Bool :=
  match Tab.get 0 (s.fbc n).slotAt m with
  | 0 => true
  | a + 1 => s.isTt n || s.elapsed a 200

/-- At the instant each written transmit slot is copied into its buffer and requested (R48, R285). -/
def State.fbSlots (s : State) : State :=
  (List.range 32).foldl (fun s n =>
    (List.range 129).foldl (fun s m =>
      if (m == 128 || s.mbMode n m == 2) && s.mbTke n m then
        match s.slotWords (s.mbSlot n m % 128) with
        | some w => s.slotCopy n m w
        | none => s
      else s) s) s

/-! Offers (R61, R286, R292 to R294) -/

/-- The arbitration field of a message as a number: the lowest wins. -/
def arbKey (w : Tab (BitVec 32)) : Nat :=
  let w0 := msgWord w 0
  let id := bits w0 28 0
  let rtr := if bitAt (msgWord w 1) 4 then 0 else bits w0 30 30
  if bitAt w0 29 then id / 2 ^ 18 * 2 ^ 21 + 3 * 2 ^ 19 + id % 2 ^ 18 * 2 + rtr
  else id / 2 ^ 18 * 2 ^ 21 + rtr * 2 ^ 20

/-- The winning buffer of a list, with the lower index where two tie. -/
def State.winner (s : State) (n : Nat) : List Nat → Option Nat
  | [] => none
  | m :: ms => match s.winner n ms with
    | some k => if arbKey ((s.fbc n).words k) < arbKey ((s.fbc n).words m) then some k else some m
    | none => some m

/-- The longest duration of a message in quarters of a ns (R294). -/
def State.duration4 (s : State) (n : Nat) (w : Tab (BitVec 32)) : Nat :=
  let w0 := msgWord w 0
  let w1 := msgWord w 1
  let fd := bitAt w1 4
  let len := if bitAt w0 30 && !fd then 0 else dlcLen (bits w1 3 0) fd
  let tn := nomBit (s.nbt n) * 25
  let td := datBit (s.dbt n) * 25
  if fd then
    let a := if bitAt w0 29 then 57 else 34
    let b := 5 + 8 * len + (4 + 8 * len) / 4 + (if len ≤ 16 then 27 else 32)
    a * tn + b * (if bitAt w1 5 then td else tn)
  else
    let g := if bitAt w0 29 then 54 else 34
    (g + 8 * len + 13 + (g + 8 * len - 1) / 4) * tn

/-- The reference message of the present tick (R292, Table FBS-5). -/
def State.refMessage (s : State) (n : Nat) : Tab (BitVec 32) :=
  let fd := s.fb Fd.FBn_CFG_FD_EN [n]
  let ide := s.fb Fd.FBn_REF_CFG_IDE [n]
  let raw := s.f Fd.FBn_REF_CFG_REF_ID [n]
  let low := if ide then 0 else 18
  let id := raw - bits raw (low + 2) low * 2 ^ low + s.f Fd.FBn_CFG_REF_PRIO [n] * 2 ^ low
  let hold := bitAt (Tab.get 0 s.tke.asm.words 6).toNat 2
  let f : CanFrame := {
    id := BitVec.ofNat 29 id, ide := ide, rtr := false, fdf := fd, brs := fd, esi := false, dlc := 8
    data := beBytes 1 (s.tu.tick % s.hyper) ++ beBytes 1 (b2n hold) ++ beBytes 6 s.instantNs }
  messageWords f 0 0

/-- The message is a reference message of the channel, whatever the sender's priority (R292). -/
def State.isRef (s : State) (n : Nat) (w : Tab (BitVec 32)) : Bool :=
  let ide := s.fb Fd.FBn_REF_CFG_IDE [n]
  let low := if ide then 0 else 18
  let a := bits (msgWord w 0) 28 0
  let b := s.f Fd.FBn_REF_CFG_REF_ID [n]
  bitAt (msgWord w 0) 29 == ide && !bitAt (msgWord w 0) 30 && a / 2 ^ (low + 3) == bits b 28 0 / 2 ^ (low + 3)

/-- The window of a kind that is open on channel n now. -/
def State.fbWindow (s : State) (n kind : Nat) : Option Win :=
  let p := s.phase
  (s.act.gng.wins (256 + n) p.1).find? (fun w => w.kind == kind && w.holds p.2)

/-- The message ends by a STOP (R61). -/
def State.ends (s : State) (n : Nat) (w : Tab (BitVec 32)) (stop : Nat) : Bool :=
  decide (s.phase.2 * 4 + s.duration4 n w ≤ stop * 4)

/-- Buffers held back in the present tick. -/
def State.lateBufs (s : State) (n : Nat) : List Nat :=
  if (s.fbc n).lateTick = s.phase.1 then (s.fbc n).late else []

/-- A buffer is held back by the window rule, which raises TT_LATE (R61). -/
def State.holdBack (s : State) (n m : Nat) : State :=
  (s.setFb n { s.fbc n with lateTick := s.phase.1, late := insKey m (s.lateBufs n) }).raise Fd.GNG_ERR_TT_LATE [] n m

/-- Buffers that may be offered: pending and requested, and an FD message only where FD_EN is 1. -/
def State.offers (s : State) (n : Nat) : List Nat :=
  (s.pendingBufs n).filter (fun m => s.requested n m && (!bitAt (msgWord ((s.fbc n).words m) 1) 4 || s.fb Fd.FBn_CFG_FD_EN [n]))

/-- HP first, then the message that would win arbitration (R286). -/
def State.choose (s : State) (n : Nat) (ms : List Nat) : Option Nat := if ms.contains 128 then some 128 else s.winner n ms

/-- The consist time in ns of a raw count of the controller, corrected to the bus wire (R80, Table TIM-1). -/
def State.wireNs (s : State) (n raw : Nat) : Nat := s.readingAt (raw - Config.fbDelay n) / 2 ^ 32

/-- Stamps the SOF of FB24 to FB31 (R296); 0 on the other channels. -/
def State.sofNs (s : State) (n sof : Nat) : Nat := if 24 ≤ n then s.wireNs n sof else 0

def State.stampSof (s : State) (n sof : Nat) : State :=
  if 24 ≤ n ∧ s.fbPowered ∧ s.fbState n ≠ 0 then
    s.wr64 Reg.FBn_SOF_LO Reg.FBn_SOF_HI [n] (BitVec.ofNat 64 (s.sofNs n sof))
  else s

/-- A transmission starts: its SOF is on the bus, and is stamped (R296). -/
def State.sendSof (s : State) (n m : Nat) (w : Tab (BitVec 32)) (once : Bool) : State :=
  let s1 := (s.setFb n { s.fbc n with tx := some { buf := m, words := w, once := once } }).stampSof n s.raw
  (s1.sf Fd.FBn_STAT_TX_BUSY [n] 1).emit (.can n m ((List.range 32).map (fun k => Tab.get 0 w k)))

/-- A buffer makes one attempt on its channel (R288). -/
def State.oneShot (s : State) (n m : Nat) : Bool :=
  s.fb Fd.FBn_CFG_DAR [n] || (if m = 128 then s.fb Fd.FBn_HP_CFG_DAR [n] else s.fb Fd.FBn_MBm_CFG_DAR [n, m])

/-- Offers the chosen buffer of a list in a window that ends at STOP, holding back those that would not end by it. -/
def State.offerIn (s : State) (n stop : Nat) (once : Bool) : Nat → List Nat → State
  | 0, _ => s
  | k + 1, ms =>
    match s.choose n ms with
    | none => s
    | some m =>
      let w := (s.fbc n).words m
      if s.ends n w stop then s.sendSof n m w (once || s.oneShot n m)
      else State.offerIn (s.holdBack n m) n stop once k (ms.filter (· != m))

/-- The controller offers at bus idle (R61, R286, R293, R390). -/
def State.canOffer (s : State) (n : Nat) : State :=
  let x := s.fbc n
  let st := s.fbState n
  if (st ≠ 2 ∧ st ≠ 3) ∨ x.tx.isSome ∨ !s.fbPowered ∨ x.released then s
  else if s.isTt n then
    if x.refWait then s
    else if x.refReq ∧ (s.fbWindow n 4).isSome then s.sendSof n 129 (s.refMessage n) false
    else if !s.operating then s
    else
      let ms := (s.offers n).filter (fun m => !(s.lateBufs n).contains m)
      match s.fbWindow n 5 with
      | some w =>
        let m := if bitAt w.arg 7 then 128 else w.arg % 128
        s.offerIn n w.stop true 1 (ms.filter (· == m))
      | none => match s.fbWindow n 6 with
        | some w => s.offerIn n w.stop false ms.length ms
        | none => s
  else if !s.operating then s
  else match s.choose n (s.offers n) with
    | some m => s.sendSof n m (x.words m) (s.oneShot n m)
    | none => s

def execCanTxOffer (t : Nat) (channel : Fin 32) (s : State) : Out := .next ((s.clock t).canOffer channel.val)

/-! Error confinement (R289, R290) -/

/-- Shows TEC, REC and WARN, and enters the state that the counters ask for. -/
def State.confine (s : State) (n tec rec : Nat) : State :=
  let warn := decide (96 ≤ tec ∨ 96 ≤ rec)
  let was := s.fb Fd.FBn_STAT_WARN [n]
  let s1 := s.setFb n { s.fbc n with tec := tec, recv := rec }
  let s2 := s1.showErrs n tec rec
  let s3 := if warn && !was then s2.raise Fd.FBn_EVT_WARN [n] else s2
  let st := s.fbState n
  if 255 < tec then
    let s4 := ((s3.fbEnter n 4).bump Reg.FBn_CNTc [n, 4]).raise Fd.FBn_EVT_BUS_OFF [n]
    let s5 := (s4.setFb n { s4.fbc n with tx := none, next := [] }).sf Fd.FBn_STAT_TX_BUSY [n] 0
    let s6 : State := (s5.pendingBufs n).foldl (fun s m => s.txAbort n m) s5
    if s.fb Fd.FBn_CFG_BO_AUTO [n] then s6.fbEnter n 5 else s6
  else if 127 < tec ∨ 127 < rec then
    if st = 2 then (s3.fbEnter n 3).raise Fd.FBn_EVT_ERR_PASSIVE [n] else s3
  else if st = 3 then s3.fbEnter n 2 else s3

/-- The channel takes part in error confinement. -/
def State.counts (s : State) (n : Nat) : Bool := s.fbState n == 2 || s.fbState n == 3

/-- The attempt on the bus is over; new slot content becomes pending (R285). -/
def State.attemptOver (s : State) (n m : Nat) : State :=
  let x := s.fbc n
  let s1 := (s.setFb n { x with tx := none, next := Tab.erase x.next m }).sf Fd.FBn_STAT_TX_BUSY [n] 0
  match Tab.get none x.next m with
  | some w => (s1.setWords n m w).setPend n m true
  | none => s1

/-- A failed attempt: it is retried, or ends with ABORTED (R287, R288, R295). -/
def State.attemptFailed (s : State) (n : Nat) (x : CanTx) : State :=
  if x.buf = 129 then s.attemptOver n 129
  else if x.once || x.cancelled then (s.txAbort n x.buf).attemptOver n x.buf
  else s.attemptOver n x.buf

/-- A lost arbitration is counted, and the choice is made again at the next bus idle (R286). A reference message counts
nothing as lost (R293). -/
def execArbLost (t : Nat) (channel : Fin 32) (sof : Nat) (s : State) : Out :=
  let s := (s.clock t).stampSof channel.val sof
  let n := channel.val
  match (s.fbc n).tx with
  | some x => .next ((if x.buf = 129 then s else s.bump Reg.FBn_CNTc [n, 2]).attemptFailed n x)
  | none => .next s

/-- TEC and REC after an error (R289: ISO 11898-1). -/
def errStep (e : CanErr) (tec rec : Nat) : Nat × Nat :=
  match e with
  | .transmitter => (tec + 8, rec)
  | .transmitterExempt => (tec, rec)
  | .receiver => (tec, min 255 (rec + 1))
  | .receiverDominant => (tec, min 255 (rec + 8))
  | .dominantRun true => (tec + 8, rec)
  | .dominantRun false => (tec, min 255 (rec + 8))

/-- The error was seen by the transmitter of the frame. -/
def CanErr.asTx : CanErr → Bool
  | .transmitter => true
  | .transmitterExempt => true
  | _ => false

/-- The error starts an error flag of this controller: the others follow one. -/
def CanErr.flags : CanErr → Bool
  | .receiver => true
  | e => CanErr.asTx e

/-- The loop delay that the controller measures in a frame it sends: an FD frame with TDC_EN set (R278). -/
def State.tdcOf (s : State) (n : Nat) (delay : Option Nat) : Option Nat :=
  match (s.fbc n).tx with
  | some x => if bitAt (msgWord x.words 1) 4 ∧ s.fb Fd.FBn_DBT_TDC_EN [n] then delay else none
  | none => none

/-- TDCV shows a measured delay; what it shows of one above 127 time quanta the spec leaves open (R278, log entry 3). -/
def State.showTdc (s : State) (n : Nat) (delay : Option Nat) : State :=
  match delay with
  | none => s
  | some d =>
    if d ≤ 127 then s.sf Fd.FBn_STAT_TDCV [n] d
    else let f := s.drawFree; f.2.sf Fd.FBn_STAT_TDCV [n] (f.1.toNat % 128)

/-- A failed attempt of the transmission on the bus, where it sees the error as its transmitter. -/
def State.txError (s : State) (n : Nat) (e : CanErr) : State :=
  match (s.fbc n).tx with
  | some y => if CanErr.asTx e then s.attemptFailed n y else s
  | none => s

/-- A bus error (R275, R278, R279, R288 to R290, R296); `delay`: the loop delay measured in the frame, where it is one
that the controller sends and has passed the edge of its measurement. A delay above 127 time quanta is a bit error of the
transmitter. -/
def execCanBusError (t : Nat) (channel : Fin 32) (error : CanErr) (sof : Nat) (delay : Option Nat) (s : State) : Out :=
  let s := s.clock t
  let n := channel.val
  let x := s.fbc n
  let d := s.tdcOf n delay
  let e := match d with | some k => if 127 < k then .transmitter else error | none => error
  let s0 := (s.stampSof n sof).showTdc n d
  if !s.fbPowered then .next s
  else if s.counts n then
    let c := errStep e x.tec x.recv
    let s1 := s0.bump Reg.FBn_CNTc [n, 3]
    let s2 := if CanErr.flags e ∧ !x.released then s1.emit (.canFlag n (s.fbState n == 3)) else s1
    .next ((s2.txError n e).confine n c.1 c.2)
  else if s.fbState n = 6 ∨ s.fbState n = 7 then
    let s1 := s0.setFb n { s0.fbc n with ardGood := 0 }
    .next ((s1.bump Reg.FBn_CNTc [n, 6]).txError n e)
  else .next s0

/-! Reception (R279, R281, R293) -/

/-- A timing pair is found (R279). -/
def State.ardFound (s : State) (n : Nat) : State :=
  let k := (s.fbc n).ardK
  let s1 := (s.wr Reg.FBn_NBT [n] (s.rd Reg.FBn_ARDk_NBT [n, k])).wr Reg.FBn_DBT [n] (s.rd Reg.FBn_ARDk_DBT [n, k])
  let s2 := ((s1.sf Fd.FBn_ARD_STAT_RESULT [n] k).sf Fd.FBn_ARD_STAT_FOUND [n] 1).raise Fd.FBn_EVT_ARD_DONE [n]
  (s2.setFb n { s2.fbc n with synced := false, found := true }).fbEnter n (if s.fb Fd.FBn_ARD_CFG_GO [n] && s.acting then 1 else 6)

/-- REC after a good reception: one less, or a value of 119 to 127 above 127, which ISO 11898-1 leaves open (R289). -/
def State.recGood (s : State) (n : Nat) : State :=
  let x := s.fbc n
  if !s.counts n then s
  else if 127 < x.recv then
    let r := s.drawFree
    r.2.confine n x.tec (119 + r.1.toNat % 9)
  else s.confine n x.tec (x.recv - 1)

/-- A message becomes valid at the sixth bit of EOF; a controller that may drive the bus has acknowledged it (R275, R280,
R281). -/
def execCanMessageReceived (t : Nat) (channel : Fin 32) (sof : Nat) (frame : CanFrame) (s : State) : Out :=
  let s := s.clock t
  let n := channel.val
  let st := s.fbState n
  let ns := s.wireNs n s.raw
  let s1 := s.stampSof n sof
  if !s.fbPowered ∨ (st ≠ 2 ∧ st ≠ 3 ∧ st ≠ 6 ∧ st ≠ 7) then .next s1
  else
    if st = 7 then
      let g := (s.fbc n).ardGood + 1
      .next (if 2 ≤ g then s1.ardFound n else s1.setFb n { s1.fbc n with ardGood := g })
    else
      let w := messageWords frame ns (s.sofNs n sof)
      let s1 := if s.counts n ∧ !(s.fbc n).released then s1.emit (.canAck n) else s1
      let s2 := (s1.bump Reg.FBn_CNTc [n, 0]).recGood n
      let s3 := if s.isTt n ∧ (s.fbWindow n 4).isSome ∧ s.isRef n w then
          (s2.setFb n { s2.fbc n with refSeen := true, refReq := false }).sf Fd.FBn_STAT_REF_MASTER [n] 0
        else s2
      match findNat 128 (fun m => s.mbMatches n m w) with
      | some m => .next (s3.mbStore n m w ns)
      | none => .next s3

/-- A transmitted message is valid after its EOF (R278, R280, R288, R293, R296). -/
def execCanTxDone (t : Nat) (channel : Fin 32) (sof : Nat) (tdcv : BitVec 7) (s : State) : Out :=
  let s := s.clock t
  let n := channel.val
  match (s.fbc n).tx with
  | none => .next s
  | some x =>
    let ns := s.wireNs n s.raw
    let so := s.sofNs n sof
    let w1 := msgWord x.words 1
    let len := dlcLen (bits w1 3 0) (bitAt w1 4)
    let w := Tab.setList 0 x.words 1 ([setBits w1 14 8 len, ns, ns / 2 ^ 32, so, so / 2 ^ 32].map (BitVec.ofNat 32))
    let s1 := (s.stampSof n sof).bump Reg.FBn_CNTc [n, 1]
    let s2 := s1.showTdc n (s.tdcOf n (some tdcv.toNat))
    let s3 := if s.counts n then s2.confine n ((s.fbc n).tec - 1) (s.fbc n).recv else s2
    if x.buf = 129 then
      .next (((s3.setFb n { s3.fbc n with refSeen := true, refReq := false }).sf Fd.FBn_STAT_REF_MASTER [n] 1).attemptOver n 129)
    else
      let s4 := (s3.setWords n x.buf w).setPend n x.buf false
      let s5 := if x.buf = 128 then
          ((s4.setFlag Fd.FBn_HP_STAT_DONE [n]).raise Fd.FBn_EVT_HP_DONE [n]).emit (.msix (32 + n))
        else s4.setFlag Fd.FBn_MBm_STAT_DONE [n, x.buf]
      .next (s5.attemptOver n x.buf)

/-! Integration, recovery and rate detection (R275, R279, R289, R299) -/

/-- 11 recessive bits: integration ends, or a listening channel is synchronised. -/
def execIntegrationDone (t : Nat) (channel : Fin 32) (s : State) : Out :=
  let s := s.clock t
  let n := channel.val
  if s.fbState n = 1 then .next (s.fbEnter n 2)
  else if s.fbState n = 6 then .next (s.setFb n { s.fbc n with synced := true })
  else .next s

/-- 128 occurrences of 11 recessive bits (R289). -/
def execBusOn (t : Nat) (channel : Fin 32) (s : State) : Out :=
  let s := s.clock t
  let n := channel.val
  if s.fbState n = 5 then
    let s1 := s.setFb n { s.fbc n with refWait := s.isTt n, refReq := false }
    .next (((s1.fbEnter n 2).confine n 0 0).raise Fd.FBn_EVT_BUS_ON [n])
  else .next s

def State.fbRecover (s : State) (n : Nat) : State := if s.fbState n = 4 then s.fbEnter n 5 else s

def execFbRecover (t : Nat) (party : Party) (channel : Fin 32) (s : State) : Out :=
  .next (((s.clock t).hostWrite party).fbRecover channel.val)

/-- The next timing pair is tried; two full cycles without a find raise ARD_FAIL (R279). -/
def execArdDwellExpiry (t : Nat) (channel : Fin 32) (s : State) : Out :=
  let s := s.clock t
  let n := channel.val
  let x := s.fbc n
  if s.fbState n = 7 ∧ s.elapsed x.ardSince (s.f Fd.FBn_ARD_CFG_DWELL [n] * 1000000) then
    let last := decide (s.f Fd.FBn_ARD_CFG_LAST [n] ≤ x.ardK)
    let c := if last then x.ardCycles + 1 else x.ardCycles
    let s1 := s.setFb n { x with ardK := if last then 0 else x.ardK + 1, ardSince := s.raw, ardGood := 0, ardCycles := c }
    .next (if last ∧ c = 2 then s1.raise Fd.FBn_EVT_ARD_FAIL [n] else s1)
  else .next s

/-- A nominal bit in ns, rounded up. -/
def State.nomBitNs (s : State) (n : Nat) : Nat := (nomBit (s.nbt n) * 25 + 3) / 4

/-- TXD has been dominant, or recessive, since raw count `since`: dominant for 2.5 ms the driver is released; it drives again
once TXD has been recessive for a bit time (R291). -/
def execTxdTmo (t : Nat) (channel : Fin 32) (recessive : Bool) (since : Nat) (s : State) : Out :=
  let s := s.clock t
  let n := channel.val
  let x := s.fbc n
  if recessive then
    .next (if s.elapsed since (s.nomBitNs n) then (s.setFb n { x with released := false }).sf Fd.FBn_XCVR_STAT_TXD_TMO [n] 0 else s)
  else if s.elapsed since 2500000 ∧ !x.released then
    .next (((s.setFb n { x with released := true }).sf Fd.FBn_XCVR_STAT_TXD_TMO [n] 1).raise Fd.FBn_EVT_TXD_TMO [n])
  else .next s

/-! Reference slots (R293) -/

/-- START of a reference slot: each potential master requests its reference message. -/
def State.refStart (s : State) (n : Nat) : State :=
  if s.isTt n then
    s.setFb n { s.fbc n with refReq := s.fb Fd.FBn_CFG_REF_EN [n] && s.acting, refSeen := false, refWait := false }
  else s

/-- STOP of a reference slot: without a valid reference message REF_MISS is raised and counted. -/
def State.refStop (s : State) (n : Nat) : State :=
  if s.isTt n then
    let s1 := s.setFb n { s.fbc n with refReq := false }
    if (s.fbc n).refSeen then s1 else (s1.bump Reg.FBn_REF_MISS [n]).raise Fd.FBn_EVT_REF_MISS [n]
  else s

/-! Pairing (R299) -/

/-- A new duty's channel leaves LISTEN: to detect a rate that its mode asks for, and that was not found, else to take
part. -/
def State.fbActivate (s : State) (n : Nat) : State :=
  let m := s.f Fd.FBn_CFG_MODE [n]
  if s.fbState n ≠ 6 then s
  else if m = 3 ∧ !(s.fbc n).found then (s.ardStart n).fbEnter n 7
  else if m = 1 ∨ (m = 3 ∧ s.fb Fd.FBn_ARD_CFG_GO [n]) then
    (s.fbEnter n (if (s.fbc n).synced then 2 else 1)).confine n 0 0
  else s

/-- The channel of a module that is no longer duty enters LISTEN: a transmission in progress completes, every other
request ends with ABORTED, that of slot content which waits for the end of the transmission too. -/
def State.fbSilence (s : State) (n : Nat) : State :=
  if s.fbState n = 7 then (s.setFb n { s.fbc n with synced := false }).fbEnter n 6
  else if 1 ≤ s.fbState n ∧ s.fbState n ≤ 5 then
    let s1 : State := ((s.pendingBufs n).filter (fun m => !s.onBus n m)).foldl (fun s m => s.txAbort n m) s
    let x := s1.fbc n
    (s1.setFb n { x with synced := false, refReq := false, next := []
                         tx := x.tx.map (fun y => { y with cancelled := true }) }).fbEnter n 6
  else s

def State.fbActivateAll (s : State) : State := (List.range 32).foldl State.fbActivate s
def State.fbSilenceAll (s : State) : State := (List.range 32).foldl State.fbSilence s

/-! Wake (R297, R298) -/

/-- The channel wakes the block from a source of XSTATE.WAKE_SRC. -/
def State.fbWake (s : State) (n src : Nat) : State :=
  let s1 : State := (List.range 8).foldl (fun s k => s.sf Fd.FBn_XCVR_STAT_WAKE [k] 0) s
  (((s1.sf Fd.FBn_XCVR_STAT_WAKE [n] 1).sf Fd.FBn_XCVR_STAT_WAKE_SRC [n] src)).wake (2 + n)

/-- The transceiver watches for a wake-up pattern: it is in Standby, Sleep or Off. -/
def State.fbWatches (s : State) (n : Nat) : Bool :=
  s.f Fd.FBn_XCVR_STAT_XSTATE [n] == 0 || s.f Fd.FBn_XCVR_STAT_XSTATE [n] == 3 || s.f Fd.FBn_XCVR_STAT_XSTATE [n] == 4

def execWakePattern (t : Nat) (channel : Fin 8) (s : State) : Out :=
  let s := s.clock t
  let n := channel.val
  if s.fb Fd.FBn_XCVR_WUP_EN [n] ∧ s.fbWatches n then
    if s.fb Fd.FBn_XCVR_SWK_EN [n] then
      .next { s with por := { s.por with armed := insKey n s.por.armed, swkErr := Tab.erase s.por.swkErr n } }
    else .next (s.fbWake n 1)
  else .next s

/-- A frame matches the selective-wake configuration (R298). -/
def State.swkMatch (s : State) (n : Nat) (f : CanFrame) : Bool :=
  let w := messageWords f 0 0
  let id := bits (msgWord w 0) 28 0
  ((id ^^^ s.f Fd.FBn_SWK_ID_ID [n]) &&& (2 ^ 29 - 1 - s.f Fd.FBn_SWK_IDM_ID [n])) == 0 &&
  b2n f.ide == s.f Fd.FBn_XCVR_SWK_IDE [n] && f.dlc.toNat == s.f Fd.FBn_XCVR_SWK_DLC [n] &&
  (!s.fb Fd.FBn_XCVR_SWK_DCHK [n] ||
    ((msgWord w 8 &&& (s.rd Reg.FBn_SWK_DATA_LO [n]).toNat) != 0 || (msgWord w 9 &&& (s.rd Reg.FBn_SWK_DATA_HI [n]).toNat) != 0))

/-- An armed decoder sees a classic frame, good or erroneous; FD frames are ignored (R298). -/
def execSelectiveWakeFrame (t : Nat) (channel : Fin 8) (good : Bool) (frame : CanFrame) (s : State) : Out :=
  let s := s.clock t
  let n := channel.val
  if !s.por.armed.contains n ∨ frame.fdf ∨ !s.fbWatches n then .next s
  else
    let e := Tab.get 0 s.por.swkErr n
    let e1 := if good then e - 1 else e + 1
    let s1 := { s with por := { s.por with swkErr := Tab.set 0 s.por.swkErr n e1 } }
    if good ∧ s.swkMatch n frame then .next (s1.fbWake n 2)
    else if 31 < e1 then .next (({ s1 with por := { s1.por with swkErr := Tab.erase s1.por.swkErr n } }).fbWake n 3)
    else .next s1

end Sys2Proof.Machine
end

