-- ==== Sys2Proof/Machine/Ecdsa.lean ====
section
/-! DEFINITION. The Cellar's signature: SHA-256 (FIPS 180-4) and ECDSA over P-256 (FIPS 186-5), as R352 names them. The
private key and the numbers that CEL draws are free values of Config. -/

namespace Sys2Proof.Machine

open Sys2Proof

/-! SHA-256 -/

def shaK : List (BitVec 32) :=
  [0x428a2f98, 0x71374491, 0xb5c0fbcf, 0xe9b5dba5, 0x3956c25b, 0x59f111f1, 0x923f82a4, 0xab1c5ed5]
  ++ [0xd807aa98, 0x12835b01, 0x243185be, 0x550c7dc3, 0x72be5d74, 0x80deb1fe, 0x9bdc06a7, 0xc19bf174]
  ++ [0xe49b69c1, 0xefbe4786, 0x0fc19dc6, 0x240ca1cc, 0x2de92c6f, 0x4a7484aa, 0x5cb0a9dc, 0x76f988da]
  ++ [0x983e5152, 0xa831c66d, 0xb00327c8, 0xbf597fc7, 0xc6e00bf3, 0xd5a79147, 0x06ca6351, 0x14292967]
  ++ [0x27b70a85, 0x2e1b2138, 0x4d2c6dfc, 0x53380d13, 0x650a7354, 0x766a0abb, 0x81c2c92e, 0x92722c85]
  ++ [0xa2bfe8a1, 0xa81a664b, 0xc24b8b70, 0xc76c51a3, 0xd192e819, 0xd6990624, 0xf40e3585, 0x106aa070]
  ++ [0x19a4c116, 0x1e376c08, 0x2748774c, 0x34b0bcb5, 0x391c0cb3, 0x4ed8aa4a, 0x5b9cca4f, 0x682e6ff3]
  ++ [0x748f82ee, 0x78a5636f, 0x84c87814, 0x8cc70208, 0x90befffa, 0xa4506ceb, 0xbef9a3f7, 0xc67178f2]

def shaInit : List (BitVec 32) :=
  [0x6a09e667, 0xbb67ae85, 0x3c6ef372, 0xa54ff53a, 0x510e527f, 0x9b05688c, 0x1f83d9ab, 0x5be0cd19]

/-- The next word of a message schedule that stands newest first. -/
def shaNext (w : List (BitVec 32)) : BitVec 32 :=
  let at' (i : Nat) : BitVec 32 := w.getD i 0
  let x := at' 14
  let y := at' 1
  (y.rotateRight 17 ^^^ y.rotateRight 19 ^^^ y >>> 10) + at' 6 + (x.rotateRight 7 ^^^ x.rotateRight 18 ^^^ x >>> 3) + at' 15

/-- The 64 words of the schedule of a block of 64 bytes, oldest first. -/
def shaSchedule (block : Bytes) : List (BitVec 32) :=
  let w := (List.range 16).map (fun i => BitVec.ofNat 32 (beAt block (4 * i) 4))
  ((List.range 48).foldl (fun w _ => shaNext w :: w) w.reverse).reverse

/-- One round, over the working variables a to h. -/
def shaRound (v : List (BitVec 32)) (kw : BitVec 32 × BitVec 32) : List (BitVec 32) :=
  match v with
  | [a, b, c, d, e, f, g, h] =>
    let t := h + (e.rotateRight 6 ^^^ e.rotateRight 11 ^^^ e.rotateRight 25) + (e &&& f ^^^ ~~~e &&& g) + kw.1 + kw.2
    let u := (a.rotateRight 2 ^^^ a.rotateRight 13 ^^^ a.rotateRight 22) + (a &&& b ^^^ a &&& c ^^^ b &&& c)
    [t + u, a, b, c, d + t, e, f, g]
  | _ => v

def shaBlock (h : List (BitVec 32)) (block : Bytes) : List (BitVec 32) :=
  List.zipWith (· + ·) h ((List.zip shaK (shaSchedule block)).foldl shaRound h)

/-- The message with its padding: a 1 bit, zeros, and its length in bits. -/
def shaPad (m : Bytes) : Bytes :=
  m ++ 0x80 :: List.replicate ((119 - m.length % 64) % 64) 0 ++ beBytes 8 (8 * m.length)

/-- SHA-256 of a message, as a number. -/
def sha256 (m : Bytes) : Nat :=
  let b := shaPad m
  ((List.range (b.length / 64)).foldl (fun h i => shaBlock h (slice b (64 * i) 64)) shaInit).foldl
    (fun n x => n * 2 ^ 32 + x.toNat) 0

/-! P-256: y² = x³ - 3x + b over the field of p elements, with a base point of prime order n. -/

def p256P : Nat := 2 ^ 256 - 2 ^ 224 + 2 ^ 192 + 2 ^ 96 - 1
def p256N : Nat := 0xFFFFFFFF00000000FFFFFFFFFFFFFFFFBCE6FAADA7179E84F3B9CAC2FC632551
def p256B : Nat := 0x5AC635D8AA3A93E7B3EBBD55769886BC651D06B0CC53B0F63BCE3C3E27D2604B

/-- A point of the curve; none is the point at infinity. -/
abbrev EcPoint := Option (Nat × Nat)

def p256G : EcPoint :=
  some (0x6B17D1F2E12C4247F8BCE6E563A440F277037D812DEB33A0F4A13945D898C296,
    0x4FE342E2FE1A7F9B8EE7EB4A7C0F9E162BCE33576B315ECECBB6406837BF51F5)

/-- A power of a 256-bit exponent, modulo m. -/
def powMod (m b e : Nat) : Nat :=
  (List.range 256).foldl (fun a i => a * a % m * (if e.testBit (255 - i) then b else 1) % m) 1

/-- The inverse modulo a prime. -/
def invMod (m a : Nat) : Nat := powMod m (a % m) (m - 2)

/-- The sum of two points. -/
def ecAdd (a b : EcPoint) : EcPoint :=
  match a, b with
  | none, q => q
  | q, none => q
  | some (x, y), some (u, v) =>
    if x = u ∧ (y + v) % p256P = 0 then none
    else
      let l := if x = u then (3 * x * x + p256P - 3) * invMod p256P (2 * y) % p256P
        else (v + p256P - y) * invMod p256P (u + p256P - x) % p256P
      let z := (l * l + 2 * p256P - x - u) % p256P
      some (z, (l * (x + p256P - z) + p256P - y) % p256P)

/-- A multiple of a point. -/
def ecMul (k : Nat) (q : EcPoint) : EcPoint :=
  (List.range 256).foldl (fun a i => let d := ecAdd a a; if k.testBit (255 - i) then ecAdd d q else d) none

def onCurve (x y : Nat) : Bool :=
  x < p256P && y < p256P && y * y % p256P == (x * x * x + (p256P - 3) * x + p256B) % p256P

/-- A drawn number as a key or a nonce: 1 to n - 1. -/
def ecScalar (x : BitVec 256) : Nat := x.toNat % (p256N - 1) + 1

/-- r and s of a signature over a message, with a private key and a nonce (FIPS 186-5, 6.4.1). -/
def ecdsaRS (key nonce : Nat) (m : Bytes) : Nat × Nat :=
  let r := ((ecMul nonce p256G).getD (0, 0)).1 % p256N
  (r, invMod p256N nonce * (sha256 m + r * key) % p256N)

/-- Whether r and s verify over a message under a public key (FIPS 186-5, 6.4.2). -/
def ecdsaOk (x y : Nat) (m : Bytes) (r s : Nat) : Bool :=
  let w := invMod p256N s
  let q := ecAdd (ecMul (sha256 m * w % p256N) p256G) (ecMul (r * w % p256N) (some (x, y)))
  onCurve x y && decide (0 < r) && decide (r < p256N) && decide (0 < s) && decide (s < p256N)
    && (match q with | some a => a.1 % p256N == r | none => false)

/-- The Cellar's public key: X and Y. -/
def celPublic : Nat × Nat := (ecMul (ecScalar Config.celKey) p256G).getD (0, 0)

/-- The k-th signature that CEL makes: r and s, big-endian. A nonce that gives a zero is drawn again (FIPS 186-5, 6.4.1). -/
def celSign (k : Nat) (m : Bytes) : Bytes :=
  let rs (i : Nat) : Nat × Nat := ecdsaRS (ecScalar Config.celKey) (ecScalar (Config.celNonce k i)) m
  let good (i : Nat) : Bool := (rs i).1 != 0 && (rs i).2 != 0
  let v := rs (((List.range 256).find? good).getD 0)
  beBytes 32 v.1 ++ beBytes 32 v.2

/-- Whether a signature of 64 bytes verifies over a body. -/
def celVerify (x y : BitVec 256) (m sig : Bytes) : Bool := ecdsaOk x.toNat y.toNat m (beAt sig 0 32) (beAt sig 32 32)

end Sys2Proof.Machine
end

