-- ==== Sys2Proof/Machine/Cellar.lean ====
section
/-! DEFINITION. The Cellar: weighing, records, commands (spec/13), and the reception of its records by CTL (R82,
R356). -/

namespace Sys2Proof.Machine

open Sys2Proof

/-! Channels and units -/

def State.celCh (s : State) (c : Nat) : CelCh := Tab.get {} s.cel.ch c
def State.setCelCh (s : State) (c : Nat) (x : CelCh) : State := { s with cel := { s.cel with ch := Tab.set {} s.cel.ch c x } }

def CelCh.p (x : CelCh) (id : Nat) : Nat := Tab.get 0 x.par id
def CelCh.inUse (x : CelCh) : Bool := x.p 0 == 1

/-- The scale interval d in µg. -/
def CelCh.d (x : CelCh) : Int := x.p 2 * 1000

/-! Loads in µg are exact fractions: a mean of counts times the span. -/

def Frac.ofInt (k : Int) : Frac := { num := k }
def Frac.lt (a b : Frac) : Bool := decide (a.num * b.den < b.num * a.den)
def Frac.le (a b : Frac) : Bool := decide (a.num * b.den ≤ b.num * a.den)
def Frac.sub (a b : Frac) : Frac := { num := a.num * b.den - b.num * a.den, den := a.den * b.den }
def Frac.addInt (a : Frac) (k : Int) : Frac := { num := a.num + k * a.den, den := a.den }

/-- Gross load in µg of the mean of n samples with a sum, against the calibrated zero. -/
def CelCh.gross (x : CelCh) (sum : Int) (n : Nat := 1) : Frac :=
  { num := (sum * x.zero.den - n * x.zero.num) * (x.mass * 1000), den := x.den * n * x.zero.den }

def CelCh.net (x : CelCh) (sum : Int) (n : Nat := 1) : Frac := (x.gross sum n).sub x.zofs

/-- A load in d, rounded to the nearest, halves away from zero (R347). -/
def roundD (v : Frac) (d : Int) : Int :=
  let e := max 1 (d.natAbs * v.den)
  let k := (2 * v.num.natAbs + e) / (2 * e)
  if v.num < 0 then -(k : Int) else k

/-- n samples with a sum and extremes lie within ±0.5 d of their mean (R349, R359). -/
def CelCh.steady (x : CelCh) (sum : Int) (n : Nat) (lo hi : BitVec 24) : Bool :=
  ((x.gross hi.toInt).sub (x.gross sum n)).le (.ofInt (x.d / 2)) && ((x.gross sum n).sub (x.gross lo.toInt)).le (.ofInt (x.d / 2))

/-- The CCLK count since the Cellar reset: 24.576 MHz (R344). -/
def State.cclkAt (s : State) (w : Nat) : Nat := (w - s.cel.resetAt) * 3072 / 125000
def State.cclk (s : State) : Nat := s.cclkAt s.wall

/-- PARAM_CRC (R345). -/
def State.paramCrc (s : State) : Nat :=
  crc32 ((List.range 4).flatMap (fun c =>
    let x := s.celCh c
    leBytes 4 (Config.celZeroWord x.zero.num x.zero.den).toNat ++ leBytes 4 (Config.celSpanWord x.mass x.den).toNat
      ++ (List.range 8).flatMap (fun i => leBytes 4 (x.p i))))

/-- An IDLE channel. -/
def State.celIdle (s : State) (c : Nat) : Bool := (s.celCh c).phase == .idle

/-! Records (R351 to R353) -/

/-- Bytes 32 to 63 of a body that holds a weight (Table CEL-3). -/
def State.celData (s : State) (c : Nat) (weight : Int) (reason win pp : Nat) : Bytes :=
  let x := s.celCh c
  beBytes 4 (wrapInt 32 weight) ++ beBytes 4 (x.p 2) ++ beBytes 2 reason ++ beBytes 2 win ++ beBytes 2 (min 65535 pp)
    ++ beBytes 2 (wrapInt 16 (roundD x.zofs x.d)) ++ beBytes 4 s.paramCrc ++ List.replicate 12 0

/-- Bytes 32 to 63 of the other kinds on a channel, from bytes 32 to 39 and REASON. -/
def State.celOther (s : State) (c : Nat) (a : Bytes) (reason : Nat) : Bytes :=
  let x := s.celCh c
  slice a 0 8 ++ beBytes 2 reason ++ beBytes 4 0 ++ beBytes 2 (wrapInt 16 (roundD x.zofs x.d)) ++ beBytes 4 s.paramCrc
    ++ List.replicate 12 0

/-- Places a record behind those that arose before it; records of one CCLK cycle stand in ascending CH order. -/
def recInsert (r : CelRec) : List CelRec → List CelRec
  | [] => [r]
  | x :: xs =>
    if x.arose = r.arose ∧ r.ch < x.ch ∧ xs.all (fun y => y.arose == r.arose) then r :: x :: xs
    else x :: recInsert r xs

/-- The outgoing queue of 32 records; the records behind it wait in CEL (R353). -/
def State.celOut (s : State) : List CelRec := s.cel.queue.take 32

/-- Queues a record; a LIVE record replaces a queued one of its channel (R353). -/
def State.celQueue (s : State) (r : CelRec) : State :=
  let live (x : CelRec) : Bool := x.kind == 3 && x.ch == r.ch
  if r.kind = 3 ∧ s.celOut.any live then
    let q := s.celOut.map (fun x => if live x then r else x)
    { s with cel := { s.cel with queue := q ++ s.cel.queue.drop 32 } }
  else { s with cel := { s.cel with queue := recInsert r s.cel.queue } }

/-- A record of a kind that arises on a channel, with CAL_EN's level, at a count. -/
def State.celRecord (s : State) (kind c : Nat) (cal : Bool) (ref : Nat) (data : Bytes) : State :=
  s.celQueue { kind := kind, ch := c, cal := cal, ref := ref, arose := s.cclk, audit := s.cel.audit, data := data }

/-- The two KEY records (R352). -/
def State.celKeys (s : State) (cal : Bool) : State :=
  (s.celRecord 7 0 cal s.cclk (beBytes 32 celPublic.1)).celRecord 7 1 cal s.cclk (beBytes 32 celPublic.2)

def State.celBoot (s : State) : Nat := (Config.celBootsBefore.toNat + s.cel.boots) % 65536

/-- The body of a record (Table CEL-3). -/
def State.celBody (s : State) (r : CelRec) : Bytes :=
  beBytes 1 r.kind ++ beBytes 1 (r.ch + 128 * b2n r.cal) ++ beBytes 2 1 ++ beBytes 4 s.cel.rseq ++ beBytes 4 r.audit
    ++ beBytes 2 s.celBoot ++ beBytes 2 0 ++ beBytes 8 Config.celId.toNat ++ beBytes 8 r.ref ++ slice r.data 0 32

/-- The next record to sign: a LIVE record only while the queue holds no other kind and nothing is to be sent again
(R353). -/
def State.celNext (s : State) : Option CelRec :=
  match s.celOut.find? (fun r => r.kind != 3) with
  | some r => some r
  | none => if s.cel.replay.isEmpty then s.celOut.head? else none

/-- Puts a frame on the record path. -/
def State.celFrame (s : State) (rec : Bytes) : State :=
  ({ s with cel := { s.cel with flight := some (s.cclk, rec), frameAt := s.wall } } : State).emit (.celFrame s.cclk rec)

/-- Signs and sends the next record; every one but LIVE and KEY goes to the alibi log (R353 to R355). -/
def State.celSend (s : State) (r : CelRec) : State :=
  let s0 := { s with cel := { s.cel with queue := s.cel.queue.erase r, signedAt := some s.wall } }
  let body := s0.celBody r
  let full := body ++ celSign s0.cel.signs body
  let log := if r.kind = 3 ∨ r.kind = 7 then s0.cel.alibi else ((s0.celBoot, s0.cel.rseq, full) :: s0.cel.alibi).take 4096
  ({ s0 with cel := { s0.cel with rseq := (s0.cel.rseq + 1) % 2 ^ 32, signs := s0.cel.signs + 1, alibi := log } }).celFrame full

/-- The signature of a record is done: 0.8 ms after the record arose and after the signature before it (Table CEL-5). -/
def State.celSigned (s : State) (r : CelRec) : Bool :=
  decide (r.arose + 19660 ≤ s.cclk) && (match s.cel.signedAt with | some w => s.elapsedW w 800000 | none => true)

/-- One signature every 0.8 ms at most, and one frame every 55.3 µs (R26, R353). A record that REPLAY resends is signed
already and goes once no record but LIVE waits (R354). -/
def execRecordSend (t : Nat) (s : State) : Out :=
  let s := s.clock t
  if s.cel.flight.isSome then .next s
  else
    match s.celNext with
    | some r => .next (if s.celSigned r then s.celSend r else s)
    | none =>
      match s.cel.replay with
      | b :: bs => .next (({ s with cel := { s.cel with replay := bs } } : State).celFrame b)
      | [] => .next s

/-! Staged changes (R359) -/

def State.unstage (s : State) : State := { s with cel := { s.cel with staged := [], commit := false } }

def changeCh : CelChange → Nat
  | .zero c _ => c
  | .span c _ _ => c
  | .param c _ _ => c

def State.applyChange (s : State) (x : CelChange) : State :=
  match x with
  | .zero c v => s.setCelCh c { s.celCh c with zero := v, zofs := {}, atLimit := false }
  | .span c m d => s.setCelCh c { s.celCh c with mass := m, den := d }
  | .param c id v => s.setCelCh c { s.celCh c with par := Tab.set 0 (s.celCh c).par id v }

/-- Once every affected channel is IDLE the staged changes of a COMMIT apply, AUDIT rises and CAL_CHANGE is issued. -/
def State.calApply (s : State) (cal : Bool) : State :=
  if s.cel.commit ∧ s.cel.staged.all (fun x => s.celIdle (changeCh x)) then
    let old := s.paramCrc
    let s1 := (s.cel.staged.foldl State.applyChange s).unstage
    let s2 := { s1 with cel := { s1.cel with audit := (s1.cel.audit + 1) % 2 ^ 32 } }
    s2.celRecord 5 0 cal s2.cclk (s2.celOther 0 (beBytes 4 s2.paramCrc ++ beBytes 4 old) 0)
  else s

/-! Weighing (R347, R348) -/

/-- A reference check begins every 600 s, or as the channel returns to IDLE after that (R350). -/
def CelCh.due (x : CelCh) (w : Nat) : CelCh :=
  let b := max (x.checked + 600000000000) x.idleAt
  if x.seg.isNone ∧ x.phase = .idle ∧ b ≤ w then { x with seg := some 0, segAt := b, held := false, checked := b } else x

/-- Gross load reaches MIN_LOAD: the weighing starts, and a running reference check stops. Staged changes that were due have
applied before: CAL_EN has stayed high since their COMMIT (R359). -/
def execWeighingStart (t : Nat) (lc : Fin 4) (sample : BitVec 24) (s : State) : Out :=
  let s := (s.clock t).calApply true
  let x := (s.celCh lc.val).due s.wall
  if x.inUse ∧ x.phase = .idle ∧ (Frac.ofInt (x.p 3 * x.d)).le (x.gross sample.toInt) then
    .next (s.setCelCh lc.val { x with phase := .settle s.wall, held := x.seg.isSome })
  else .next s

def execSettleEnd (t : Nat) (lc : Fin 4) (s : State) : Out :=
  let s := s.clock t
  let x := s.celCh lc.val
  match x.phase with
  | .settle w =>
    let e := w + x.p 4 * 1000000
    if e ≤ s.wall then .next (s.setCelCh lc.val { x with phase := .window e }) else .next s
  | _ => .next s

/-- The samples of a weighing: their sum, least and greatest in the window, least and greatest since the weighing
started, and the causes 5h, 6h, 7h, 9h and Bh of Table CEL-2 that CEL's circuits found, by bit. -/
def CelCh.reason (x : CelCh) (lo hi least most : BitVec 24) (causes : Nat) : Nat :=
  let hit (k : Nat) : Bool := match k with
    | 1 => (Frac.ofInt (x.p 6 * x.d)).lt ((x.gross hi.toInt).sub (x.gross lo.toInt))
    | 2 => (Frac.ofInt ((x.p 1 + 9) * x.d)).lt (x.gross most.toInt)
    | 3 => (x.net least.toInt).lt (.ofInt (-20 * x.d))
    | 4 => (x.gross least.toInt).lt (.ofInt (x.p 3 * x.d))
    | 8 => x.refFail
    | 10 => false
    | k => bitAt causes k
  (((List.range 12).drop 1).find? hit).getD 0

/-- The window's samples at 19.2 kSPS (R346). -/
def CelCh.samples (x : CelCh) : Nat := max 1 (x.p 5 * 192 / 10)

/-- The window ends: one WEIGHT or NO_RESULT record, whose reference point is the centre of the window (R347). -/
def execWeighWindowEnd (t : Nat) (lc : Fin 4) (sum : Int) (lo hi least most : BitVec 24) (causes : BitVec 12) (cal : Bool)
    (s : State) : Out :=
  let s := s.clock t
  let c := lc.val
  let x := s.celCh c
  match x.phase with
  | .window w =>
    let win := x.p 5
    if w + win * 1000000 ≤ s.wall then
      let reason := x.reason lo hi least most causes.toNat
      let pp := (roundD ((x.gross hi.toInt).sub (x.gross lo.toInt)) x.d).toNat
      let s1 := s.celRecord (if reason = 0 then 1 else 2) c cal (s.cclkAt (w + win * 500000))
        (s.celData c (roundD (x.net sum x.samples) x.d) reason win pp)
      .next (s1.setCelCh c { x with phase := .clearWait })
    else .next s
  | _ => .next s

/-- The load falls below MIN_LOAD / 2. -/
def execLoadClear (t : Nat) (lc : Fin 4) (sample : BitVec 24) (s : State) : Out :=
  let s := s.clock t
  let x := s.celCh lc.val
  if x.phase = .clearWait ∧ (x.gross sample.toInt).lt (.ofInt (x.p 3 * x.d / 2)) then
    .next (s.setCelCh lc.val { x with phase := .idle, idleAt := s.wall })
  else .next s

/-! Zero (R349) -/

/-- 2 % of MAX in µg. -/
def CelCh.zeroLimit (x : CelCh) : Int := x.p 1 * x.d / 50

/-- The zero that a step of tracking aims at: the mean, at most 0.5 d away. -/
def CelCh.zeroGoal (x : CelCh) (mean : Frac) : Frac :=
  if (x.zofs.addInt (x.d / 2)).lt mean then x.zofs.addInt (x.d / 2)
  else if mean.lt (x.zofs.addInt (-(x.d / 2))) then x.zofs.addInt (-(x.d / 2))
  else mean

/-- A zero lies within the limit. -/
def CelCh.zeroOk (x : CelCh) (z : Frac) : Bool := (Frac.ofInt (-x.zeroLimit)).le z && z.le (.ofInt x.zeroLimit)

/-- A steady second of an IDLE channel, 19,200 samples, moves its zero toward the mean, by at most 0.5 d and up to the
limit. -/
def execZeroTracking (t : Nat) (lc : Fin 4) (sum : Int) (lo hi : BitVec 24) (cal : Bool) (s : State) : Out :=
  let s := s.clock t
  let c := lc.val
  let x := s.celCh c
  if x.inUse ∧ x.p 7 = 1 ∧ x.phase = .idle ∧ s.elapsedW x.idleAt 1000000000 ∧ s.elapsedW x.tracked 1000000000 ∧
      x.steady sum 19200 lo hi then
    let goal := x.zeroGoal (x.gross sum 19200)
    let stop := !x.zeroOk goal
    let z := if stop then .ofInt (if goal.num < 0 then -x.zeroLimit else x.zeroLimit) else goal
    let s1 := s.setCelCh c { x with zofs := z, tracked := s.wall, atLimit := stop }
    if stop ∧ !x.atLimit then .next (s1.celRecord 4 c cal s1.cclk (s1.celData c (roundD ((x.gross sum 19200).sub z) x.d) 10 0 0))
    else .next s1
  else .next s

/-! Reference checks (R350) -/

/-- Begins a check of a channel. -/
def State.startCheck (s : State) (c : Nat) : State :=
  s.setCelCh c { s.celCh c with seg := some 0, segAt := s.wall, held := false }

/-- One 2 ms segment of a check has run, and 1 ms of bridge sampling follows; result: that of the whole check, at its last
segment. -/
def execReferenceCheck (t : Nat) (lc : Fin 4) (result : Option Bool) (cal : Bool) (s : State) : Out :=
  let s := s.clock t
  let c := lc.val
  let x := (s.celCh c).due s.wall
  if x.seg.isSome ∧ !x.held ∧ x.phase = .idle ∧ x.segAt + 2000000 ≤ s.wall then
    match result with
    | none => .next (s.setCelCh c { x with seg := some (x.seg.getD 0 + 1), segAt := x.segAt + 3000000 })
    | some true => .next (s.setCelCh c { x with seg := none, refFail := false })
    | some false =>
      .next ((s.setCelCh c { x with seg := none, refFail := true }).celRecord 9 c cal s.cclk (s.celOther c [] 8))
  else .next s

/-- An interrupted check resumes from the same segment 1 s after the channel returned to IDLE. -/
def execReferenceCheckResume (t : Nat) (lc : Fin 4) (s : State) : Out :=
  let s := s.clock t
  let x := s.celCh lc.val
  if x.held ∧ x.phase = .idle ∧ s.elapsedW x.idleAt 1000000000 then
    .next (s.setCelCh lc.val { x with held := false, segAt := x.idleAt + 1000000000 })
  else .next s

/-! Beacons, LIVE records and the Cellar's own reset -/

/-- A start symbol reaches CTL: its count and its raw count (R82). -/
def State.symbol (s : State) (count raw : Nat) : State :=
  let same : Bool := match s.cel.sym with | some p => decide (p.1 < count) | none => true
  { s with cel := { s.cel with sym := some (count, raw), sym0 := if same then s.cel.sym else none } }

/-- CTL hears the Cellar. -/
def State.celHeard (s : State) : State :=
  ({ s with cel := { s.cel with heard := some s.raw } }).set0 Fd.CEL_STAT_PRESENT 1

/-- After 1 ms without a frame CEL sends a beacon (R355). -/
def execBeacon (t : Nat) (s : State) : Out :=
  let s := s.clock t
  if s.elapsedW s.cel.frameAt 1000000 ∧ s.cel.flight.isNone then
    let s1 := ({ s with cel := { s.cel with frameAt := s.wall } } : State).emit (.celBeacon s.cclk)
    .next (if s1.operating then (s1.symbol s1.cclk s1.raw).celHeard else s1)
  else .next s

/-- No frame and no beacon for 2 ms (R355). -/
def execAbsent (t : Nat) (s : State) : Out :=
  let s := s.clock t
  let quiet : Bool := match s.cel.heard with | some h => s.elapsed h 2000000 | none => true
  if s.fb Fd.CEL_STAT_PRESENT ∧ quiet then .next ((s.set0 Fd.CEL_STAT_PRESENT 0).raise Fd.CEL_EVT_ABSENT) else .next s

/-- A LIVE record of the latest sample, whose centre had a CCLK count, once in each period (R346). -/
def execLivePeriod (t : Nat) (lc : Fin 4) (sample : BitVec 24) (centre : Nat) (cal : Bool) (s : State) : Out :=
  let s := s.clock t
  let c := lc.val
  let x := s.celCh c
  if x.live ≠ 0 ∧ x.inUse ∧ s.elapsedW x.liveAt (x.live * 1000000) then
    .next ((s.setCelCh c { x with liveAt := s.wall }).celRecord 3 c cal centre
      (s.celData c (roundD (x.net sample.toInt) x.d) 0 0 0))
  else .next s

/-- The Cellar's own reset: NVM and the alibi log stay, the rest starts afresh; START and the KEY records follow
(R16, R359, R361). -/
def State.cellarReset (s : State) (cal : Bool) : State :=
  let keep (x : CelCh) : CelCh := { par := x.par, zero := x.zero, mass := x.mass, den := x.den, idleAt := s.wall
                                    tracked := s.wall, checked := s.wall, liveAt := s.wall }
  let cel : Cel := { s.cel with
    ch := (List.range 4).foldl (fun m c => Tab.set {} m c (keep (s.celCh c))) []
    boots := s.cel.boots + 1, resetAt := s.wall, rseq := 0, queue := [], replay := [], signedAt := none, frameAt := s.wall
    staged := [], commit := false, inbox := [], flight := none }
  let s1 := { s with cel := cel }
  (s1.celRecord 6 0 cal s1.cclk (s1.celOther 0 [] 0)).celKeys cal

def execCellarReset (t : Nat) (cal : Bool) (s : State) : Out := .next ((s.clock t).cellarReset cal)

/-! Commands (R357 to R359). Each comes with what CEL sees as it executes it. -/

/-- CEL answers a command with a RESULT. -/
def State.celReply (s : State) (k : CelCmd) (result : Nat) (cal : Bool) : State :=
  s.celRecord 8 k.ch cal s.cclk (s.celOther k.ch (beBytes 1 k.code ++ beBytes 1 result ++ beBytes 2 k.tag ++ beBytes 4 0) 0)

/-- Commands of Table CEL-4. -/
def celCodes : List Nat := [0x01, 0x02, 0x03, 0x04, 0x05, 0x10, 0x11, 0x12, 0x13, 0x14]

/-- The oldest commands that Table CEL-4 does not list are not executed (R27): each is taken, and answered BAD_CMD (log entry
137). -/
def State.celUnlisted (s : State) (cal : Bool) : State :=
  let bad (k : CelCmd) : Bool := !celCodes.contains k.code
  (s.cel.inbox.takeWhile bad).foldl (fun s k => s.celReply k 5 cal)
    { s with cel := { s.cel with inbox := s.cel.inbox.dropWhile bad } }

/-- Takes the oldest listed command, where it has a code; a frame that fails its CRC is lost without an answer. -/
def State.celCommand (s : State) (code : Nat) (crcOk : Bool) (f : State → CelCmd → State × Nat) (cal : Bool) : State :=
  let s := s.celUnlisted cal
  match s.cel.inbox with
  | k :: ks =>
    if k.code ≠ code then s
    else
      let s1 := { s with cel := { s.cel with inbox := ks } }
      if !crcOk then s1
      else
        let r := f s1 k
        r.1.celReply k r.2 cal
  | [] => s

/-- A command of Table CEL-4 without arguments. -/
def CelCmd.plain (k : CelCmd) : Bool := k.a1 == 0 && k.a2 == 0

def State.celZero (s : State) (sum : Int) (lo hi : BitVec 24) (cal : Bool) (k : CelCmd) : State × Nat :=
  let x := s.celCh k.ch
  let z := x.gross sum 1920
  if !k.plain then (s, 5)
  else if !s.celIdle k.ch then (s, 2)
  else if !x.steady sum 1920 lo hi then (s, 3)
  else if !x.zeroOk z then (s, 4)
  else
    let s1 := s.setCelCh k.ch { x with zofs := z, atLimit := false }
    (s1.celRecord 4 k.ch cal s1.cclk (s1.celData k.ch 0 0 0 0), 0)

/-- ZERO, over the 1,920 samples of 100 ms (R349). -/
def execCelZero (t : Nat) (crcOk : Bool) (sum : Int) (lo hi : BitVec 24) (cal : Bool) (s : State) : Out :=
  .next ((s.clock t).celCommand 0x01 crcOk (fun s k => s.celZero sum lo hi cal k) cal)

def State.celLive (s : State) (k : CelCmd) : State × Nat :=
  if k.a2 ≠ 0 ∨ 65535 < k.a1 ∨ (k.a1 ≠ 0 ∧ (k.a1 < 20 ∨ 1000 < k.a1)) then (s, 5)
  else (s.setCelCh k.ch { s.celCh k.ch with live := k.a1, liveAt := s.wall }, 0)

def execCelLive (t : Nat) (crcOk : Bool) (cal : Bool) (s : State) : Out :=
  .next ((s.clock t).celCommand 0x02 crcOk State.celLive cal)

/-- Stored records from a BOOT and RSEQ onward, oldest first (R354, R358). -/
def State.celReplay (s : State) (k : CelCmd) : State × Nat :=
  let old := s.cel.alibi.reverse.dropWhile (fun r => r.1 != k.a1 || r.2.1 != k.a2)
  if 65535 < k.a1 then (s, 5)
  else if old.isEmpty then (s, 6)
  else ({ s with cel := { s.cel with replay := s.cel.replay ++ old.map (fun r => r.2.2) } }, 0)

def execCelReplay (t : Nat) (crcOk : Bool) (cal : Bool) (s : State) : Out :=
  .next ((s.clock t).celCommand 0x03 crcOk State.celReplay cal)

def execCelKeyReq (t : Nat) (crcOk : Bool) (cal : Bool) (s : State) : Out :=
  .next ((s.clock t).celCommand 0x04 crcOk (fun s k => if k.plain then (s.celKeys cal, 0) else (s, 5)) cal)

/-- A check of a channel is started; a channel that is not IDLE is busy. -/
def execCelRefCheck (t : Nat) (crcOk : Bool) (cal : Bool) (s : State) : Out :=
  .next ((s.clock t).celCommand 0x05 crcOk (fun s k =>
    if !k.plain then (s, 5) else if s.celIdle k.ch then (s.startCheck k.ch, 0) else (s, 2)) cal)

def State.stage (s : State) (x : CelChange) : State := { s with cel := { s.cel with staged := s.cel.staged ++ [x] } }

/-- A staged zero of a channel, else the calibrated one. -/
def State.stagedZero (s : State) (c : Nat) : Frac :=
  s.cel.staged.foldl (fun z x => match x with | .zero k v => if k = c then v else z | _ => z) (s.celCh c).zero

/-- CAL_ZERO, over the 19,200 samples of 1 s (R359). -/
def State.calZero (s : State) (sum : Int) (lo hi : BitVec 24) (cal : Bool) (k : CelCmd) : State × Nat :=
  if !cal then (s, 1)
  else if !k.plain then (s, 5)
  else if !s.celIdle k.ch then (s, 2)
  else if !(s.celCh k.ch).steady sum 19200 lo hi then (s, 3)
  else (s.stage (.zero k.ch { num := sum, den := 19200 }), 0)

def execCalZero (t : Nat) (crcOk : Bool) (sum : Int) (lo hi : BitVec 24) (cal : Bool) (s : State) : Out :=
  .next ((s.clock t).celCommand 0x10 crcOk (fun s k => s.calZero sum lo hi cal k) cal)

/-- CAL_SPAN, over the 19,200 samples of 1 s: the reference mass over the counts of their mean above the zero (R359). -/
def State.calSpan (s : State) (sum : Int) (lo hi : BitVec 24) (cal : Bool) (k : CelCmd) : State × Nat :=
  let v := ({ num := sum, den := 19200 } : Frac).sub (s.stagedZero k.ch)
  if !cal then (s, 1)
  else if k.a1 = 0 ∨ k.a2 ≠ 0 then (s, 5)
  else if !s.celIdle k.ch then (s, 2)
  else if !(s.celCh k.ch).steady sum 19200 lo hi then (s, 3)
  else if v.num ≤ 0 then (s, 4)
  else (s.stage (.span k.ch (k.a1 * v.den) v.num.toNat), 0)

def execCalSpan (t : Nat) (crcOk : Bool) (sum : Int) (lo hi : BitVec 24) (cal : Bool) (s : State) : Out :=
  .next ((s.clock t).celCommand 0x11 crcOk (fun s k => s.calSpan sum lo hi cal k) cal)

/-- The range of a sealed parameter (Table CEL-1). -/
def paramRange (id : Nat) : Nat × Nat :=
  match id with
  | 0 => (0, 1)
  | 1 => (100, 100000)
  | 2 => (1, 50000)
  | 3 => (1, 1000)
  | 4 => (5, 1000)
  | 5 => (10, 2000)
  | 6 => (1, 100)
  | _ => (0, 1)

def State.setParam (s : State) (cal : Bool) (k : CelCmd) : State × Nat :=
  if !cal then (s, 1)
  else if 7 < k.a1 then (s, 5)
  else if k.a2 < (paramRange k.a1).1 ∨ (paramRange k.a1).2 < k.a2 then (s, 4)
  else (s.stage (.param k.ch k.a1 k.a2), 0)

def execSetParam (t : Nat) (crcOk : Bool) (cal : Bool) (s : State) : Out :=
  .next ((s.clock t).celCommand 0x12 crcOk (fun s k => s.setParam cal k) cal)

def execCelCommit (t : Nat) (crcOk : Bool) (cal : Bool) (s : State) : Out :=
  .next ((s.clock t).celCommand 0x13 crcOk (fun s k =>
    if !cal then (s, 1) else if k.plain then ({ s with cel := { s.cel with commit := true } }, 0) else (s, 5)) cal)

def execCelDiscard (t : Nat) (crcOk : Bool) (cal : Bool) (s : State) : Out :=
  .next ((s.clock t).celCommand 0x14 crcOk (fun s k => if k.plain then (s.unstage, 0) else (s, 5)) cal)

/-- CAL_CHANGE: the moment at which every affected channel is IDLE (R359). -/
def execCalChange (t : Nat) (cal : Bool) (s : State) : Out := .next ((s.clock t).calApply cal)

def execCalEnFall (t : Nat) (s : State) : Out := .next (s.clock t).unstage

/-! CTL's side -/

/-- CTL sends a command; while one awaits its answer it is ignored and CMD_FAIL is set. -/
def State.celSendCmd (s : State) (a2 : BitVec 32) : State :=
  if s.cel.waiting.isSome then (s.bump Reg.CEL_CNTc [7]).raise Fd.CEL_EVT_CMD_FAIL
  else
    let w := (s.rd Reg.CEL_CMD0).toNat
    let k : CelCmd := { code := bits w 7 0, ch := bits w 9 8, tag := bits w 31 16, a1 := (s.rd Reg.CEL_CMD1).toNat
                        a2 := a2.toNat }
    ({ s with cel := { s.cel with inbox := s.cel.inbox ++ [k], waiting := some (k.tag, s.raw) } }).set0 Fd.CEL_CMD_STAT_STATE 1

/-- KEY_REQ at start-up (R370). -/
def State.celKeyReq (s : State) : State :=
  { s with cel := { s.cel with inbox := s.cel.inbox ++ [{ code := 4, ch := 0, tag := 0, a1 := 0, a2 := 0 }] } }

def execCelCmdTimeout (t : Nat) (s : State) : Out :=
  let s := s.clock t
  match s.cel.waiting with
  | some w =>
    if s.elapsed w.2 10000000 then
      let s1 := { s with cel := { s.cel with waiting := none } }
      .next (((s1.set0 Fd.CEL_CMD_STAT_STATE 3).bump Reg.CEL_CNTc [7]).raise Fd.CEL_EVT_CMD_FAIL)
    else .next s
  | none => .next s

/-- A reference-point count as a raw count, by way of the start symbol and the measured CCLK (R82). -/
def State.refRaw (s : State) (start raw ref : Nat) : Nat :=
  let back := (start + 2 ^ 32 - ref % 2 ^ 32) % 2 ^ 32
  match s.cel.sym0 with
  | some p => if p.1 < start then raw - back * (raw - p.2) / (start - p.1) else raw - back * 125000 / 3072
  | none => raw - back * 125000 / 3072

/-- The public key that CTL has received. -/
def State.celKey (s : State) (o : Nat) : BitVec 256 :=
  BitVec.ofNat 256 ((List.range 8).foldl (fun n i => n * 2 ^ 32 + (s.rd Reg.CEL_PUBKEYi [o + i]).toNat) 0)

/-- A KEY record; CTL takes the first complete pair (R370). -/
def State.takeKey (s : State) (ch : Nat) (data : Bytes) : State :=
  if s.fb Fd.CEL_STAT_KEY_OK then s
  else
    let s1 := (List.range 8).foldl (fun s i => s.wr Reg.CEL_PUBKEYi [8 * (ch % 2) + i] (BitVec.ofNat 32 (beAt data (4 * i) 4))) s
    let k := setBits s1.cel.keys (ch % 2) (ch % 2) 1
    ({ s1 with cel := { s1.cel with keys := k } }).set0 Fd.CEL_STAT_KEY_OK (b2n (k == 3))

/-- RSEQ of a boot skips (R356). A later boot starts at 0; an older boot's record is a replay. -/
def State.celGap (s : State) (boot rseq : Nat) : Bool × State :=
  let put (n : Nat) : State := { s with cel := { s.cel with expect := some (boot, n) } }
  match s.cel.expect with
  | none => (false, put (rseq + 1))
  | some e =>
    if e.1 = boot then (decide (e.2 < rseq), put (max e.2 (rseq + 1)))
    else if serialAfter 16 boot e.1 then (decide (0 < rseq), put (rseq + 1))
    else (false, s)

def State.celCount (s : State) (c : Nat) : State := s.bump Reg.CEL_CNTc [c]

/-- A CMD_ACK (R357). -/
def State.celAnswer (s : State) (result tag : Nat) : State :=
  match s.cel.waiting with
  | some w =>
    if w.1 = tag then
      let s1 := { s with cel := { s.cel with waiting := none } }
      let s2 := ((s1.set0 Fd.CEL_CMD_STAT_STATE 2).set0 Fd.CEL_CMD_STAT_RESULT result).set0 Fd.CEL_CMD_STAT_TAG tag
      if result = 0 then s2 else (s2.celCount 7).raise Fd.CEL_EVT_CMD_FAIL
    else s
  | none => s

/-- The host copy of a record and its envelope (R356). -/
def State.celHost (s : State) (bytes : Bytes) : State :=
  if s.fb Fd.CEL_CFG_REC_EN then
    let r := s.putItem (2048 + s.f Fd.CEL_CFG_RECQ) 0 bytes
    if r.1 then r.2 else (r.2.celCount 6).raise Fd.CEL_EVT_QUEUE_DROP
  else s

/-- A record arrives whole: start is the raw count of its start symbol, whose CCLK count is the frame's (R356). -/
def State.celTake (s : State) (start count : Nat) (rec : Bytes) : State :=
  let body := rec.take 64
  let kind := byteAt body 0
  let ch := byteAt body 1 % 4
  let s1 := if kind = 7 then s.takeKey ch (body.drop 32) else s
  let ok := s1.fb Fd.CEL_STAT_KEY_OK && celVerify (s1.celKey 0) (s1.celKey 8) body (rec.drop 64)
  let s2 := if s1.fb Fd.CEL_STAT_KEY_OK ∧ !ok then (s1.celCount 4).raise Fd.CEL_EVT_SIG_ERR [] ch else s1
  let g := s2.celGap (beAt body 12 2) (beAt body 4 4)
  let s3 := if g.1 then (g.2.celCount 5).raise Fd.CEL_EVT_GAP [] ch else g.2
  let s4 := (((((s3.celCount 0).wr Reg.CEL_AUDIT [] (BitVec.ofNat 32 (beAt body 8 4))).wr Reg.CEL_RSEQ []
    (BitVec.ofNat 32 (beAt body 4 4))).wr Reg.CEL_PCRC [] (BitVec.ofNat 32 (beAt body 48 4))).set0 Fd.CEL_STAT_BOOT
    (beAt body 12 2)).set0 Fd.CEL_STAT_SEAL (byteAt body 1 / 128)
  let q := s4.readingAt (s4.refRaw count start (beAt body 24 8))
  let env := leBytes 8 (readNs q) ++ leBytes 2 (readFrac q) ++ leBytes 1 (b2n ok + 2 * b2n s4.cel.crcGap) ++ leBytes 5 0
  let s5 := { s4 with cel := { s4.cel with crcGap := false } }
  let s6 := match kind with
    | 2 => (s5.celCount 2).raise Fd.CEL_EVT_NO_RESULT [] ch
    | 1 => s5.celCount 1
    | 5 => s5.raise Fd.CEL_EVT_AUDIT_CHG [] ch
    | 8 => s5.celAnswer (byteAt body 33) (beAt body 34 2)
    | _ => s5
  let s7 := if kind = 1 ∨ kind = 2 then
      (s6.deposit s6.nowNs (fun b => b.put (0xC00 + 128 * ch) (wordsOf (body ++ env ++ List.replicate 48 0)))).taskEvent
        (.cellar ch) s6.nowNs (readNs q) 0 6
    else s6
  s7.celHost (rec ++ env)

/-- The frame on the record path ends at CTL; a frame that fails its CRC-16 is discarded. -/
def execCellarRecordReceived (t : Nat) (start : Nat) (crcOk : Bool) (s : State) : Out :=
  let s := s.clock t
  match s.cel.flight with
  | some f =>
    let s1 := { s with cel := { s.cel with flight := none } }
    if !s1.operating then .next s1
    else if !crcOk then
      .next ((({ s1 with cel := { s1.cel with crcGap := true } } : State).celCount 3).raise Fd.CEL_EVT_CRC_ERR)
    else .next (((s1.symbol f.1 start).celHeard).celTake start f.1 f.2)
  | none => .next s

end Sys2Proof.Machine
end

