-- ==== Sys2Proof/Machine/FrameOut.lean ====
section
/-! DEFINITION. The egress side of the frame path: selection under gates, shapers, preemption and hop credit, egress
recovery, poison, completion and release (R149 to R152, R161, R178, R182, R229 to R232). -/

namespace Sys2Proof.Machine

open Sys2Proof

/-! Virtual channels and hop credit (R178, R179, R229 to R232) -/

/-- The node is the dateline of its ring r: the head on the main ring, else the sub-root (R179, R188). -/
def State.dateline (s : State) (r : Nat) : Bool := s.cst.numbered && s.cst.entry != some r

/-- The virtual channel on which an item leaves by port n. -/
def State.vcOut (s : State) (i : Item) (n : Nat) : Nat :=
  match s.sideOf n, s.sideOf i.inPort with
  | some k, some j => if k / 2 = j / 2 then (if s.dateline (k / 2) then 1 else i.vc) else 0
  | _, _ => 0

/-- The port sends assured frames under hop credit. -/
def State.hopPort (s : State) (n : Nat) : Bool := s.hopVcs n != 0 && s.isRingPort n

/-- Credit covers k more cells, and the window of R232 is not used up. -/
def State.hopMay (s : State) (n vc k : Nat) (resend : Bool) : Bool :=
  let h := s.hopOf n vc
  let ahead := (h.grant + 2 ^ 32 - (h.sentCells + k) % 2 ^ 32) % 2 ^ 32
  let window := match h.ack with | some a => (h.txSeq + 32768 - a) % 32768 | none => h.txSeq + 1
  decide (ahead < 2 ^ 31) && (resend || decide (window < 16384))

/-! Egress recovery at the head of a queue (R137, R138) -/

/-- Runs egress-point recovery until the head of the queue may be sent. -/
def State.recoverHead (s : State) (n q : Nat) : Nat → State
  | 0 => s
  | k + 1 =>
    match s.headOf q with
    | none => s
    | some e =>
      let i := s.item e.desc
      match i.recov with
      | none => s
      | some f =>
        let c := s.recovCfg f
        if !c.valid ∨ !c.egress ∨ c.port ≠ n ∨ !i.seqValid ∨ e.passed ∨ e.started then s
        else
          let v := s.recover f i.seq n
          match v.1 with
          | .pass =>
            let es := (v.2.queue q).entries.map (fun x => if x.desc = e.desc then { x with passed := true } else x)
            let s1 := v.2.setQueue q { v.2.queue q with entries := es }
            if c.alg = 2 ∧ !(s.recov f).takeAny then
              -- the held run follows the head
              let s2 := (s1.removeEntry q e.desc).deliverRun f
              s2.pushFront q [{ e with passed := true }]
            else s1
          | .hold => State.recoverHead ((v.2.removeEntry q e.desc).holdItem f i.seq e.desc [q]) n q k
          | _ => State.recoverHead ((v.2.removeEntry q e.desc).releaseCopy e.desc) n q k

/-! Selection (R149, R151) -/

/-- Preemption is in use on a port. -/
def State.preemptOn (s : State) (n : Nat) : Bool :=
  if s.fb Fd.FP_PORTn_PREEMPT_VERIFY_EN [n] then s.fb Fd.FP_PORTn_PREEMPT_ACTIVE [n] else true

/-- Preemption is in use on a port: some traffic class is preemptable there (R151). -/
def State.preemptUsed (s : State) (n : Nat) : Bool := s.f Fd.FP_PORTn_TC_PREEMPT_TC [n] != 0 && s.preemptOn n

def State.preemptable (s : State) (n tc : Nat) : Bool :=
  bitAt (s.f Fd.FP_PORTn_TC_PREEMPT_TC [n]) tc && s.preemptOn n

/-- The traffic classes that may start now, from 7 down, with their gate class (R149). -/
def State.candidates (s : State) (n : Nat) : List Nat × Nat :=
  let p := s.phase
  let exp_ := s.f Fd.FP_PORTn_TC_EXP_TC [n]
  let down := [7, 6, 5, 4, 3, 2, 1, 0]
  if s.openAt n 8 p.1 p.2 then ([7], 8)
  else if s.openAt n 9 p.1 p.2 then (down.filter (fun c => bitAt exp_ c), 9)
  else (down.filter (fun c => s.openAt n c p.1 p.2 && !bitAt exp_ c && !(s.isRingPort n && c == 7)), 0)

/-- A frame of len bytes fits now: R57, or the first fragment of a preemptable frame whose open period ends at the next
control or express window (R149, R151): its overhead is 4 bytes of CRC and the 20 bytes that every frame has (log entry
58). -/
def State.mayStart (s : State) (n gate tc len : Nat) : Bool :=
  let p := s.phase
  let whole := s.fits n (if gate = 0 then tc else gate) len
  if gate = 0 ∧ s.preemptable n tc then
    match s.nextReserved n p.1 p.2 with
    | some b =>
      if b ≤ s.periodEnd n tc p.1 p.2 then
        fitsIn (s.portRate n) (64 * (1 + s.f Fd.FP_PORTn_PREEMPT_ADD_FRAG [n]) + 4) (b - p.2)
      else whole
    | none => whole
  else whole

/-- The length that counts for R57: LEN, or MAX_FRAME while LEN_VALID is 0 (R167). -/
def Item.sendLen (i : Item) : Nat := if i.lenValid then i.bytes.length else i.maxLen

/-- What TC tc of port n would send: a frame of the replay store that is to be resent, or the head of its queue. -/
inductive Choice where
  | resend (vc seq desc : Nat) | head (desc : Nat)
  deriving DecidableEq, Repr

def Choice.desc : Choice → Nat
  | .resend _ _ d => d
  | .head d => d

def State.resendChoice (s : State) (n tc vc : Nat) : Option Choice :=
  let h := s.hopOf n vc
  match h.resend with
  | q :: _ => match h.replay.find? (fun r => r.seq == q) with
    | some r => if (s.item r.desc).tc = tc then some (.resend vc q r.desc) else none
    | none => none
  | [] => none

def State.tcChoice (s : State) (n tc : Nat) : Option Choice :=
  match s.resendChoice n tc 0 with
  | some c => some c
  | none => match s.resendChoice n tc 1 with
    | some c => some c
    | none => match s.headOf (8 * n + tc) with
      | some e => if e.started then none else some (.head e.desc)
      | none => none

/-- Enough of a copy that is still being written has been written: the rest, at the ingress rate, arrives before the egress
needs it (R147, R167). -/
def State.written (s : State) (n : Nat) (i : Item) : Bool :=
  let ri := s.inRate i.inPort n
  let w := 64 + (s.raw - i.begun) * ri / 8
  i.lenValid || decide ((i.maxLen - w) * s.portRate n ≤ (i.maxLen - 1) * ri)

/-- The choice may start under its gate, shaper and hop credit; a new assured frame waits for the frames of its virtual
channel that are to be resent (R231). -/
def State.choiceMay (s : State) (n gate tc : Nat) (c : Choice) : Bool :=
  let i := s.item c.desc
  let hop := match c with
    | .resend vc _ _ => s.hopMay n vc (cellsOf i.bytes.length) true
    | .head _ => !(i.cls == .assured && s.hopPort n) ||
      (s.hopOf n (s.vcOut i n)).resend.isEmpty && s.hopMay n (s.vcOut i n) (cellsOf i.bytes.length) false
  (!s.cbsOn n tc || decide (0 ≤ Tab.get 0 (s.egress n).credit tc)) && s.mayStart n gate tc i.sendLen && s.written n i
    && hop && !s.fetching c.desc && (i.cls == .control || s.mayForward n)

/-- The frame of an item as it leaves port n. A control frame leaves as CTL made it, a PTP event message of this node with
its residence time in the correctionField (R85, R152). -/
def State.frameOf (s : State) (n : Nat) (i : Item) (hop : Nat) : Bytes :=
  if i.cls = .control then
    match i.ptpFrom with
    | some a => addCorr i.bytes 14 (s.residence a (s.startStamp n s.raw))
    | none => i.bytes
  else s.editFrame n i.vid i.pcp (if i.seqValid then some i.seq else none) hop i.bytes

/-- A Pdelay_Resp that starts is followed by its Pdelay_Resp_Follow_Up with the time of its sending (R84). -/
def State.followUp (s : State) (n : Nat) (i : Item) : State :=
  if i.cls = .control ∧ isPdelayResp i.bytes then
    s.sendControl (timeIx n) 7 true (pdelayFollowUp (timeIx n) i.bytes (s.stampAt (s.startStamp n s.raw)))
  else s

/-- Starts the head item of queue q for TC tc, or resends a frame (R149, R229). -/
def State.startTx (s : State) (n tc : Nat) (c : Choice) (bad : Bool) : State :=
  let d := c.desc
  let i := s.item d
  let hopped := i.cls == .assured && s.hopPort n
  let vc := match c with | .resend vc _ _ => vc | .head _ => s.vcOut i n
  let h := s.hopOf n vc
  let q := match c with | .resend _ q _ => q | .head _ => h.txSeq
  let resent := match c with | .resend _ _ _ => true | .head _ => false
  let tx : TxFrame := {
    item := some (portQueue n tc, d), bytes := s.frameOf n i (if hopped then 32768 + q else 0), tc := tc
    express := i.cls == .express, preemptable := s.preemptable n tc, ended := i.lenValid, bad := bad, start := s.raw
    stamp := i.stamp, from_ := i.inPort, hop := if hopped then some (vc, q) else none, resent := resent }
  let s1 := (s.setEgress n { s.egress n with tx := some tx }).followUp n i
  let s2 := if hopped then
      let h1 := { h with sentCells := (h.sentCells + cellsOf i.bytes.length) % 2 ^ 32 }
      let h2 := if resent then { h1 with resend := h1.resend.drop 1 } else { h1 with txSeq := (q + 1) % 32768 }
      (s1.setHop n vc h2).showCredit n
    else s1
  if resent then s2.asdCount 6 else s2.startEntry (portQueue n tc) d

/-- A choice is lost: its entry, or its place in the replay store, and its copy. -/
def State.dropChoice (s : State) (n tc : Nat) (c : Choice) : State :=
  match c with
  | .head d => (s.removeEntry (8 * n + tc) d).releaseCopy d
  | .resend vc q d =>
    let h := s.hopOf n vc
    (s.setHop n vc { h with replay := h.replay.filter (fun r => r.seq != q), resend := h.resend.filter (· != q) }).releaseCopy d

/-- A poisoned item at the head: ended under R35, fetched from the partner, or lost (R182). -/
def State.poisonHead (s : State) (n tc : Nat) (c : Choice) : State :=
  if (s.item c.desc).cls ≠ .assured then s.startTx n tc c true
  else s.fetchOrLose (s.dropChoice n tc c) c.desc (8 * n + tc)

/-- Starts a choice once its words are read. -/
def State.readStart (s : State) (n tc : Nat) (c : Choice) (ecc : Ecc) : State :=
  let s1 := s.readItem c.desc ecc
  if (s1.item c.desc).poison.isEmpty then s1.startTx n tc c false else s1.poisonHead n tc c

/-- The first control frame of a port that R190 lets leave at the first free moment of the egress. -/
def State.relayChoice (s : State) (n : Nat) : Option (Nat × Choice) :=
  ((s.queue (8 * n + 7)).entries.find? (fun e => !e.started && (s.item e.desc).cls == .control && (s.item e.desc).relay)).map
    (fun e => (7, .head e.desc))

/-- The choice of R149 on a lane port: from TC 7 down, the first head that may start. While a preemptable frame is in
progress, or waits for its next fragment, only TCs of the express MAC take part (R151). -/
def State.pick (s : State) (n : Nat) : Option (Nat × Choice) :=
  let g := s.candidates n
  let held := (s.egress n).preempted.isSome || (s.egress n).tx.isSome
  match s.relayChoice n with
  | some c => some c
  | none => g.1.findSome? (fun tc =>
      if held ∧ s.preemptable n tc then none
      else match s.tcChoice n tc with
        | some c => if s.choiceMay n g.2 tc c then some (tc, c) else none
        | none => none)

/-- The scheduler's choice at a point where the port can start a frame: it is free, or a preemptable frame can be cut (R149,
R151). -/
def State.decide_ (s : State) (n : Nat) (ecc : Ecc) : State :=
  let busy := (s.egress n).tx.isSome && !s.canCut n
  if !s.linkUp n ∨ busy then s
  else
    let s := s.drainControl.shape n
    let g := s.candidates n
    let s : State := g.1.foldl (fun s tc => s.recoverHead n (8 * n + tc) ((s.queue (8 * n + tc)).entries.length + 1)) s
    match s.pick n with
    | some c => (s.preempt n).readStart n c.1 c.2 ecc
    | none =>
      match (s.egress n).tx, (s.egress n).preempted with
      | none, some x =>
        if g.1.contains x.tc then s.setEgress n { s.egress n with tx := some { x with start := s.raw }, preempted := none } else s
      | _, _ => s

/-- What a Gable lane sends next: the oldest waiting frame of the highest TC, for either lane (R221, R223). -/
def State.gableChoice (s : State) : Option (Nat × Choice) :=
  [7, 6, 5, 4, 3, 2, 1, 0].findSome? (fun tc =>
    ((s.queue (6136 + tc)).entries.find? (fun e => !e.started)).map (fun e => (tc, .head e.desc)))

/-- The oldest frame of a lane that waits for its acknowledgement is sent once more, under its number (R221). -/
def State.gableAgain (s : State) (n : Nat) (q d : Nat) : State :=
  s.setEgress n { s.egress n with tx := some {
    item := some (q, d), bytes := s.frameOf n (s.item d) 0, tc := q % 8, ended := true, start := s.raw, resent := true } }

/-- A Gable lane sends a retry first, then the next frame (R221, R223). -/
def State.gableDecide (s : State) (n : Nat) (ecc : Ecc) : State :=
  let l := s.gableLane (n - 256)
  if !bitAt (s.f Fd.ASD_STAT_GABLE) (n - 256) ∨ (s.egress n).tx.isSome then s
  else match if l.again then l.unacked.head? else none with
  | some x => s.gableAgain n x.2.1 x.2.2
  | none =>
    let s := s.mirrorHeld.drainControl
    match s.gableChoice with
    | some c => s.readStart n c.1 c.2 ecc
    | none => s

def execEgressDecision (t : Nat) (port : PortRef) (ecc : Ecc) (s : State) : Out :=
  let s := s.clock t
  .next (if port.val < 256 then s.decide_ port.val ecc else s.gableDecide port.val ecc)

/-- The frame in transmission carries the uncorrected PTP event message that the operands of a command describe: its ingress
port, its ingress stamp in consist time, its transport and its correctionField (log entry 146). -/
def TxFrame.isMessage (x : TxFrame) (inPort ingress : Nat) (transport : PtpTransport) (corr : BitVec 64) : Bool :=
  let h := parseFrame x.bytes
  !x.corrected && ptpEvent h x.bytes && x.from_ == inPort && x.stamp == ingress && ptpTransport h x.bytes == transport
    && beAt x.bytes (ptpAt h x.bytes + 8) 8 == corr.toNat

/-- A transparent clock writes the correctionField of the PTP event message that port outPort is sending: the residence time
from the ingress stamp to the egress stamp, and the ingress link delay where the delay mechanism is peer-to-peer. Over IPv4
the UDP checksum becomes 0 and over IPv6 the trailer is adjusted; an IPv6 message without the trailer leaves uncorrected and
is counted (R85, R152). egress: the stamp of the MAC. -/
def execPtpEventForward (t : Nat) (inPort outPort : Fin 256) (ingress egress : Nat) (p2p : Bool)
    (transport : PtpTransport) (corr : BitVec 64) (s : State) : Out :=
  let s := s.clock t
  let n := outPort.val
  match (s.egress n).tx with
  | some x =>
    let h := parseFrame x.bytes
    if s.f Fd.TU_PORTn_CFG_ROLE [inPort.val] ≠ 2 ∨ !x.isMessage inPort.val ingress transport corr then .next s
    else
      let delta := s.residence ingress (s.txStamp n egress) + (if p2p then s.linkDelay inPort.val else 0)
      let put (f : Bytes) : State := s.setEgress n { s.egress n with tx := some { x with bytes := f, corrected := true } }
      match correctPtp h x.bytes delta with
      | some f => .next (put f)
      | none => .next (((put x.bytes).wrapW Reg.TU_TC_UNCORR).raise Fd.TU_EVT_TC_UNCORR)
  | none => .next s

/-! Completion and release (R161) -/

/-- Puts a sent frame in the replay store; that of a resent one, where no ack has covered it meanwhile, renews its time of
sending (R231). -/
def State.toReplay (s : State) (n vc q d : Nat) (resent : Bool) : State :=
  let h := s.hopOf n vc
  s.setHop n vc { h with replay :=
    if resent then h.replay.map (fun r => if r.seq = q then { r with sentAt := s.raw } else r)
    else h.replay ++ [{ desc := d, seq := q, sentAt := s.raw }] }

/-- A frame that has left on a Gable lane takes the lane's next number and waits for its acknowledgement (R221). -/
def State.gableSent (s : State) (n q d : Nat) : State :=
  let l := s.gableLane (n - 256)
  s.setGableLane (n - 256) { l with next := l.next + 1, unacked := l.unacked ++ [(l.next, q, d)] }

def State.gableResent (s : State) (n : Nat) : State :=
  s.setGableLane (n - 256) { s.gableLane (n - 256) with again := false }

/-- The last byte has left: the frame and its last fragment are counted, and the copy is released, goes to the replay
store, or waits for the acknowledgement of the Gable MAC. -/
def State.txDone (s : State) (n : Nat) : State :=
  match (s.egress n).tx with
  | none => s
  | some x =>
    if !x.ended ∨ s.raw < x.start then s
    else
      let s := s.shape n
      let s0 := s.setEgress n { s.egress n with tx := none }
      let s1 := if x.split then s0.fpCount n 12 else s0
      let s2 := if x.bad then (s1.portCount n 15).emit (.aborted n)
        else ((s1.portCount n 2).portCount n 3 x.bytes.length).emit (.frame n x.bytes)
      match x.item with
      | none => s2
      | some (q, d) =>
        match x.hop with
        | some (vc, k) => (if x.resent then s2 else s2.removeEntry q d).toReplay n vc k d x.resent
        | none =>
          if 256 ≤ n ∧ !x.bad then (if x.resent then s2.gableResent n else (s2.removeEntry q d).gableSent n q d)
          else (s2.removeEntry q d).releaseCopy d

def execFrameTxComplete (t : Nat) (port : PortRef) (s : State) : Out := .next ((s.clock t).txDone port.val)

/-- The 802.3br verify exchange ends (R151). -/
def execPreemptVerify (t : Nat) (port : Fin 256) (ok : Bool) (s : State) : Out :=
  let s := s.clock t
  let n := port.val
  if !s.fb Fd.FP_PORTn_PREEMPT_VERIFY_EN [n] then .next s
  else if ok then .next ((s.sf Fd.FP_PORTn_PREEMPT_ACTIVE [n] 1).sf Fd.FP_PORTn_PREEMPT_VERIFY_FAIL [n] 0)
  else .next (((s.sf Fd.FP_PORTn_PREEMPT_ACTIVE [n] 0).sf Fd.FP_PORTn_PREEMPT_VERIFY_FAIL [n] 1).raise
    Fd.FP_EVT_VERIFY_FAIL [] n)

/-! Grants (R178, R230, R231) -/

/-- A HOP_SEQ lies at or before an ack. -/
def acked (a q : Nat) : Bool := decide ((a + 32768 - q) % 32768 < 16384)

/-- An ack frees the frames of the replay store that it covers; the others that were sent before the window of the ack
are to be resent, in the order of the store, which is that of HOP_SEQ; but for one that is just being resent (R161, R231). -/
def State.ackHop (s : State) (n vc a windowAt : Nat) : State :=
  let h := s.hopOf n vc
  let done := h.replay.filter (fun r => acked a r.seq)
  let left := h.replay.filter (fun r => !acked a r.seq)
  let again (r : Replay) : Bool := decide (r.sentAt < windowAt) && !(s.egress n).tx.any (fun x => x.hop == some (vc, r.seq))
  let resend := (left.filter (fun r => h.resend.contains r.seq || again r)).map (·.seq)
  let s1 := s.setHop n vc { h with ack := some a, replay := left, resend := resend }
  done.foldl (fun s r => s.releaseCopy r.desc) s1

/-- The grant and the ack of one virtual channel. -/
def State.grantVc (s : State) (n vc grant ackw windowAt : Nat) : State :=
  let s1 := s.setHop n vc { s.hopOf n vc with grant := grant }
  if bitAt ackw 15 then s1.ackHop n vc (ackw % 32768) windowAt else s1

/-- A GRANT frame (Table CST-3). windowAt: raw count at which its control window started at the sender. -/
def State.grant (s : State) (k windowAt : Nat) (p : Bytes) : State :=
  if cfSubtype p ≠ 7 ∨ s.cstState = 0 then s
  else
    match s.sidePort k with
    | some n =>
      let s1 := s.grantVc n 0 (beAt p 16 4) (beAt p 24 2) windowAt
      let s2 := if s.fb Fd.LDR_PORTn_HOP_RING [n] then s1.grantVc n 1 (beAt p 20 4) (beAt p 26 2) windowAt else s1
      s2.showCredit n
    | none => s

def execGrantReceived (t : Nat) (port : Fin 257) (windowAt : Nat) (payload : Bytes) (s : State) : Out :=
  .next ((s.clock t).consistFrame port.val payload (fun s k => s.grant k windowAt payload))

/-- HOP_ACK of a port and VC: valid once a frame has been received (R230). -/
def Hop.ackWord (h : Hop) : Nat := if !h.rxSeen then 0 else 32768 + (h.rxNext + 32767) % 32768

/-- The ranges missing before held frames: first number and count (Table CST-3). -/
def missing : Nat → List (Nat × Nat × List Nat) → List (Nat × Nat)
  | _, [] => []
  | next, h :: hs =>
    let gap := (h.1 + 32768 - next) % 32768
    (if gap = 0 then [] else [(next, gap)]) ++ missing ((h.1 + 1) % 32768) hs

/-- The GRANT that this node sends on a port in a control window (R178, R230). -/
def State.grantPayload (s : State) (n : Nat) : Bytes :=
  let h0 := s.hopOf n 0
  let h1 := s.hopOf n 1
  let two := s.fb Fd.LDR_PORTn_HOP_RING [n]
  let win := s.f Fd.LDR_PORTn_HOP_HOP_WIN [n]
  let word (vc : Nat) (m : Nat × Nat) : Nat := 2 ^ 31 * vc + m.1 * 65536 + m.2
  let ms := ((missing h0.rxNext h0.held).map (word 0) ++
    (if two then (missing h1.rxNext h1.held).map (word 1) else [])).take 8
  s.headFrame 7 (len := 64)
    (beBytes 4 (h0.released + win) ++ beBytes 4 (if two then h1.released + win else 0) ++ beBytes 2 h0.ackWord
      ++ beBytes 2 (if two then h1.ackWord else 0) ++ beBytes 1 ms.length ++ beBytes 3 0 ++ ms.flatMap (beBytes 4))

def State.sendGrant (s : State) (k : Nat) : State :=
  match s.sidePort k with
  | some n => if s.hopVcs n = 0 then s else s.sendSide k (s.grantPayload n)
  | none => s

end Sys2Proof.Machine
end

