-- ==== Sys2Proof/Machine/ImageLoad.lean ====
section
/-! DEFINITION. The Lenrex image: header and sections (R362 to R364), and what a section puts into a set of copies. -/

namespace Sys2Proof.Machine

open Sys2Proof

/-! The xSPI memory and the image header (Table CFG-1) -/

def copyBase (c : Nat) : Nat := 0x4000000 * c

/-- The bytes of the xSPI memory from an offset; an erased byte reads FFh. -/
def State.flash (s : State) (off n : Nat) : Bytes := (List.range n).map (fun i => Tab.get 0xFF#8 s.cfg.xspi (off + i))

/-- Writes bytes into the xSPI memory. -/
def State.burn (s : State) (off : Nat) (bs : Bytes) : State :=
  { s with cfg := { s.cfg with xspi := Tab.setList 0xFF#8 s.cfg.xspi off bs } }

def hdrSeq (h : Bytes) : Nat := leAt h 4 4
def hdrBody (h : Bytes) : Nat := leAt h 8 4
def hdrSections (h : Bytes) : Nat := leAt h 14 2
def hdrNode (h : Bytes) : BitVec 64 := BitVec.ofNat 64 (leAt h 16 8)
def hdrSetId (h : Bytes) : BitVec 64 := BitVec.ofNat 64 (leAt h 24 8)

/-- A set takes the identifier of an image, and the mode, address and sources that the image sets for the MGT port (R117,
R413). -/
def CfgSet.named (c : CfgSet) (id_ : BitVec 64) : CfgSet :=
  { c with setId := id_, mgtIp := Config.mgtAddress id_, mgtFrom := Config.mgtSources id_
           mgtMode := Config.mgtMode id_ }

/-- The image is compiled for this IXKAR, or for any. -/
def nodeOk (h : Bytes) : Bool := hdrNode h == BitVec.allOnes 64 || hdrNode h == ownEui

/-- A valid header (R365). -/
def hdrOk (h : Bytes) : Bool :=
  leAt h 0 4 == 0x4C525831 && leAt h 12 2 == 1 && decide (hdrBody h ≤ 50331392) && nodeOk h

/-- The CRC of a header over its own bytes 0 to 251 and the body (Table CFG-1). -/
def imageCrcOk (h body : Bytes) : Bool := crc32 (h.take 252 ++ body) == leAt h 252 4

/-! Sections (Tables CFG-2 and CFG-8) -/

structure Section where
  block : Nat
  kind : Nat
  cls : Nat
  target : Nat
  body : Bytes
  deriving DecidableEq, Repr

/-- Section i of a body; none where it reaches outside the body. -/
def sectionAt (body : Bytes) (i : Nat) : Option Section :=
  let e := slice body (16 * i) 16
  let off := leAt e 4 4
  let len := leAt e 8 4
  if off + len ≤ body.length then
    some { block := leAt e 0 2, kind := byteAt e 2, cls := byteAt e 3, target := leAt e 12 4, body := slice body off len }
  else none

def sectionsOf (h body : Bytes) : List Section := (List.range (hdrSections h)).filterMap (sectionAt body)

/-- Base address of a block (Table MAP-1). -/
def blockBase (b : Nat) : Option Nat :=
  if b ≤ 0x0D then some (0x10000 * b)
  else match b with
    | 0x0E => some 0x100000
    | 0x0F => some 0x120000
    | 0x10 => some 0x130000
    | 0x11 => some 0x140000
    | 0x12 => some 0x200000
    | 0x13 => some 0x400000
    | 0x14 => some 0x1400000
    | _ => none

/-- Bits of a register that configuration sets: its RW, RWS and RWL fields. -/
def cfgMask (r : RegDesc) : Nat :=
  r.fields.foldl (fun m f => if f.acc = .rw ∨ f.acc = .rws ∨ f.acc = .rwl then setBits m f.hi f.lo (2 ^ (f.hi + 1 - f.lo) - 1)
    else m) 0

/-- Bits of a word that a register-value section does not set: FS and WDT_MS come from a KIND 4h section. -/
def failSafeMask (r : RegDesc) : Nat :=
  if r = Reg.FIO_LSn_CFG then setBits 0 Fd.FIO_LSn_CFG_FS.hi Fd.FIO_LSn_CFG_FS.lo Fd.FIO_LSn_CFG_FS.top
  else if r = Reg.FIO_CFG then setBits 0 Fd.FIO_CFG_WDT_MS.hi Fd.FIO_CFG_WDT_MS.lo Fd.FIO_CFG_WDT_MS.top
  else 0

/-- The value of a register after configuration writes a word to it. -/
def mergeWord (r : RegDesc) (old new : BitVec 32) : BitVec 32 :=
  let m := BitVec.ofNat 32 (cfgMask r - failSafeMask r)
  (old &&& ~~~m) ||| (new &&& m)

/-- Tables of a set of copies that sections of KIND 1h reach. -/
inductive TableId where
  | fpWords | gngRows | gngSegs | gngOpen | tasks | sen (t : Nat) | maps (t : Nat) | regs
  deriving DecidableEq, Repr

/-- The table and first row that a TARGET names: the FP window, the tables that have registers of their own, and the
others as the implementation places them (R364). -/
def tableOf (block target : Nat) : TableId × Nat :=
  if block = 0x13 then (.fpWords, target / 4)
  else
    match (blockBase block).bind (fun b => regAt (b + target)) with
    | some (r, ix) =>
      if r = Reg.GNG_SEGn then (.gngSegs, ix.headD 0)
      else if r = Reg.GNG_AOPENn then (.gngOpen, ix.headD 0)
      else if r = Reg.TKE_TASKn_W0 then (.tasks, ix.headD 0)
      else (.regs, 0)
    | none =>
      let x := Config.sectionTable block target
      if block = 6 then (.gngRows, x.2) else if block = 10 then (.sen (x.1 % 8), x.2) else (.maps x.1, x.2)

/-- The k-byte rows of a section, as numbers. -/
def rowsOfBytes (k : Nat) (b : Bytes) : List Nat := (List.range (b.length / k)).map (fun i => leAt b (k * i) k)

/-- A row of a task-input list. -/
def inputOf (r : List Nat) : TaskInput :=
  let a := r.getD 3 0
  let src : TaskSource := match r.getD 2 0 with
    | 0 => .ein a
    | 1 => .canRx a (r.getD 4 0)
    | 2 => .field a
    | 3 => .importEntry a
    | 4 => .loadDiag a (r.getD 4 0)
    | _ => .cellar a
  { input := r.getD 0 0, index := r.getD 1 0, source := src }

/-- Puts a map section into the maps. -/
def TkeMaps.section (m : TkeMaps) (t : Nat) (rows : List (List Nat)) : TkeMaps :=
  match t with
  | 1 => { m with inputs := rows.map inputOf }
  | 2 => { m with exports := rows.map (fun r => { frame := r.getD 0 0, offset := r.getD 1 0, imp := r.getD 2 0, len := r.getD 3 0 }) }
  | 3 => { m with frames := rows.foldl (fun f r =>
      let x : ExportFrame := { dest := BitVec.ofNat 48 (r.getD 1 0), vid := BitVec.ofNat 12 (r.getD 2 0)
                               pcp := BitVec.ofNat 3 (r.getD 3 0), port := r.getD 4 0 }
      Tab.set { dest := 0, vid := 0, pcp := 0, port := 0 } f (r.getD 0 0) x) m.frames }
  | 4 => { m with drives := rows.map (fun r => { imp := r.getD 0 0, out := r.getD 1 0, len := r.getD 2 0 }) }
  | _ => m

/-- A task-table row, a Gingham row from three words. -/
def taskRowOf (n : Nat) : TaskRow := (BitVec.ofNat 32 n, BitVec.ofNat 32 (n / 2 ^ 32))
def gngRowOf (n : Nat) : GngRow := (BitVec.ofNat 32 n, BitVec.ofNat 32 (n / 2 ^ 32), BitVec.ofNat 32 (n / 2 ^ 64))

/-- Puts the rows of a table section into a set (KIND 1h). -/
def CfgSet.table (c : CfgSet) (t : TableId) (row : Nat) (b : Bytes) : CfgSet :=
  match t with
  | .fpWords => { c with fp := Tab.setList 0 c.fp row (wordsOf b) }
  | .gngRows => { c with gng := { c.gng with rows := Tab.setList (0, 0, 0) c.gng.rows row ((rowsOfBytes 12 b).map gngRowOf) } }
  | .gngSegs => { c with gng := { c.gng with segs := (Tab.setList 0 c.gng.segs row (wordsOf b)).filter (fun e => e.1 < 280) } }
  | .gngOpen => { c with gng := { c.gng with aopen := Tab.setList 0 c.gng.aopen row (wordsOf b) } }
  | .tasks => { c with tasks := Tab.setList (0, 0) c.tasks row ((rowsOfBytes 8 b).map taskRowOf) }
  | .sen t => { c with sen := Tab.setList 0 c.sen (4096 * t + row) (rowsOfBytes 32 b) }
  | .regs => c
  | .maps t => { c with maps := TkeMaps.section c.maps t (Config.mapRows t b) }

/-- Puts one register value into a set, under its class (Table CFG-2). Tables that have registers of their own take it as
a row. -/
def CfgSet.word (c : CfgSet) (cls addr : Nat) (v : BitVec 32) : CfgSet :=
  match regAt addr with
  | some (r, ix) =>
    if r = Reg.GNG_SEGn then c.table .gngSegs (ix.headD 0) (leBytes 4 v.toNat)
    else if r = Reg.GNG_AOPENn then c.table .gngOpen (ix.headD 0) (leBytes 4 v.toNat)
    else if cfgMask r = 0 then c
    else
      match cls with
      | 0 => { c with regs := Tab.set none c.regs addr (some v) }
      | 1 => { c with quiesce := Tab.set none c.quiesce addr (some v) }
      | _ => { c with start := Tab.set none c.start addr (some v) }
  | none => c

/-- Puts the words of a section into consecutive registers of a set. -/
def CfgSet.words (c : CfgSet) (x : Section) : CfgSet :=
  match blockBase x.block with
  | some b => ((wordsOf x.body).zipIdx).foldl (fun c e => c.word x.cls (b + x.target + 4 * e.2) e.1) c
  | none => c

/-- Puts a section of KIND 0h, 1h or 2h into a set (Table CFG-8). Rows of a table whose rows are registers go as
registers. -/
def CfgSet.section (c : CfgSet) (x : Section) : CfgSet :=
  match x.kind with
  | 0 => c.words x
  | 1 => let t := tableOf x.block x.target; if t.1 = .regs then c.words x else c.table t.1 t.2 x.body
  | 2 => { c with code := Tab.setList 0 c.code (x.target / 8) ((rowsOfBytes 8 x.body).map (BitVec.ofNat 64)) }
  | _ => c

def CfgSet.sections (c : CfgSet) (xs : List Section) : CfgSet := xs.foldl CfgSet.section c

/-- Writes a configuration value into the register store. -/
def State.setConfig (s : State) (addr : Nat) (v : BitVec 32) : State :=
  match regAt addr with
  | some (r, ix) => s.wr r ix (mergeWord r (s.rd r ix) v)
  | none => s

/-- Writes a table of configuration values into the register store. -/
def State.setConfigs (s : State) (t : Tab (Option (BitVec 32))) : State :=
  t.foldl (fun s e => s.setConfig e.1 (e.2.getD 0)) s

/-- The value that the register store holds at an address. -/
def State.valueAt (s : State) (addr : Nat) : BitVec 32 :=
  match regAt addr with
  | some (r, ix) => s.rd r ix
  | none => 0

/-- A configuration value differs from the one in force. -/
def State.differs (s : State) (e : Nat × Option (BitVec 32)) : Bool :=
  match regAt e.1, e.2 with
  | some (r, ix), some v => mergeWord r (s.rd r ix) v != s.rd r ix
  | _, _ => false

end Sys2Proof.Machine
end

