-- ==== Sys2Proof/Machine/Lanes.lean ====
section
/-! DEFINITION. Port groups and lanes (spec/04): loss of a port with what it does to consist, hop and pairing, bring-up,
degradation, codewords and bursts, and lane tests. -/

namespace Sys2Proof.Machine

open Sys2Proof

/-! Loss of a port -/

/-- Forwards the held frames of a port and VC, by way of recovery at ingress, and abandons their gaps (R137, R230). -/
def State.abandonGaps (s : State) (n vc : Nat) : State :=
  let h := s.hopOf n vc
  match h.held.getLast? with
  | some l =>
    let s1 := s.setHop n vc { h with held := [], rxNext := (l.1 + 1) % 32768, rxSeen := true }
    h.held.foldl (fun s x => s.deliverWhole x.2.1 x.2.2 (s.item x.2.1).src) s1
  | none => s

/-- The gaps of both virtual channels of a port are abandoned. -/
def State.abandonPort (s : State) (n : Nat) : State := (s.abandonGaps n 0).abandonGaps n 1

/-- Frames of the replay store that HOP_ACK does not cover return to their queue on another port (R233). -/
def State.wrapReplay (s : State) (n m vc : Nat) : State :=
  let h := s.hopOf n vc
  let s1 := s.setHop n vc { h with replay := [], resend := [] }
  (h.replay.foldr (fun x s => s.pushFront (8 * m + (s.item x.desc).tc) [{ desc := x.desc, prio := (s.item x.desc).prio }])
    s1).asdCount 9 h.replay.length

/-- The items of a port queue move to the same queue of another port. -/
def State.wrapQueue (s : State) (n m tc : Nat) : State :=
  let es := (s.queue (8 * n + tc)).entries
  if es.isEmpty then s
  else
    let s1 := s.setEntries (8 * n + tc) []
    (s1.setEntries (8 * m + tc) ((s1.queue (8 * m + tc)).entries ++ es.map (fun e => { e with started := false }))).asdCount
      9 es.length

/-- A ring or branch port that goes down wraps onto the other port of its ring until the next commit (R233). -/
def State.wrapSide (s : State) (k : Nat) : State :=
  match s.sidePort k, s.sidePort (if k % 2 = 0 then k + 1 else k - 1) with
  | some n, some m =>
    if s.cst.wrapped.contains k then s
    else
      let s0 := { s with cst := { s.cst with wrapped := k :: s.cst.wrapped } }
      (List.range 8).foldl (fun s tc => s.wrapQueue n m tc) ((s0.wrapReplay n m 0).wrapReplay n m 1)
  | _, _ => s

/-- A side goes down for the consist: its gaps are abandoned, and it wraps (R192, R230, R233). -/
def State.sideLost (s : State) (k : Nat) : State :=
  let s := match s.sidePort k with | some n => s.abandonPort n | none => s
  if s.sideUp k then (s.wrapSide k).sideGoesDown k else s

/-- The frames of a Gable lane that has no acknowledgement of them wait for the other lane again, and its numbers start anew
(R221). -/
def State.gableReturn (s : State) (g : Nat) : State :=
  (s.gableLane g).unacked.foldr (fun x s => s.pushFront x.2.1 [{ desc := x.2.2, prio := (s.item x.2.2).prio }])
    (s.setGableLane g {})

/-- What the loss of a port means to consist and pairing: a Gable lane, or a side (R107, R116, R221, R230, R233). -/
def State.reportLoss (s : State) (n : Nat) : State :=
  if 256 ≤ n then
    let g := n - 256
    let s1 := (s.gableReturn g).set0 Fd.ASD_STAT_GABLE (setBits (s.f Fd.ASD_STAT_GABLE) g g 0)
    (s1.raise Fd.ASD_EVT_GABLE_LANE_DOWN [] g).gableLost
  else match s.sideOf n with | some k => s.sideLost k | none => s

/-- A port that is UP or DEGRADED is lost: PORT_DOWN, the frames in progress, and its report; it goes to the given
state. LINK_DOWN counts a departure to WAIT_SIGNAL (R107, R114, Table PRT-5). -/
def State.portLost (s : State) (n to_ : Nat) : State :=
  let st := s.pst n
  if st = 6 ∨ st = 7 then
    let s0 := s.setPst n to_
    let s1 := if to_ = 2 then s0.portCount n 13 else s0
    let s2 := if n < 256 then
        (s1.sf Fd.PGn_STAT_UP [n / 8] (setBits (s1.f Fd.PGn_STAT_UP [n / 8]) (n % 8) (n % 8) 0)).raise
          Fd.PGn_EVT_PORT_DOWN [n / 8] (n % 8)
      else s1
    (((s2.setRclk n 0).dropRx (rxKey n)).abortTx n).reportLoss n
  else s.setPst n to_

/-! Bring-up (R106) -/

/-- The ports of a group, or the two Gable lanes for group 32. -/
def State.groupPorts (s : State) (g : Nat) : List Nat :=
  if g = 32 then [256, 257] else ((List.range 8).map (8 * g + ·)).filter s.isPort

/-- Typical latency of a lane from the RX balls to the MAC and from the MAC to the TX balls, rounded to 0.125 ns, without
deskew (Table PRT-2). -/
def typicalLat (mode fec : Nat) : Nat × Nat :=
  match mode, fec with
  | 0, _ => (99, 115)
  | 1, 1 => (2030, 136)
  | 1, _ => (72, 88)
  | 2, _ => (1491, 274)
  | _, _ => (1082, 274)

/-- The lanes of a group. -/
def groupLanes (g : Nat) : List Nat := if g = 32 then [256, 257] else (List.range 8).map (8 * g + ·)

/-- Mode and FEC of the port of a lane; the Gable lanes are those of a 100G port (R115). -/
def State.laneForm (s : State) (l : Nat) : Nat × Nat :=
  if 256 ≤ l then (3, 2)
  else (s.f Fd.PGn_MODE_MODE [l / 8], s.f Fd.PGn_Pp_CFG_FEC [l / 8, ((s.portOfLane l).getD l) % 8])

/-- Stores the latencies that the calibration of a group has measured, by lane; the typical ones stand for a lane whose
measurement the command does not name (R105, log entry 125). -/
def State.storeLat (s : State) (g : Nat) (lat : List (Nat × Nat)) : State :=
  (groupLanes g).foldl (fun s l =>
    let m := s.laneForm l
    { s with prt := { s.prt with lat := Tab.set (0, 0) s.prt.lat l ((lat[l % 8]?).getD (typicalLat m.1 m.2)) } }) s

/-- Calibration of a group ends: its latencies are stored and its ports in CAL go to WAIT_SIGNAL, or to FAULT with
CAL_FAIL and ERR_N (R369). -/
def execPortGroupCalibrationDone (t : Nat) (group : Fin 33) (lat : Option (List (Nat × Nat))) (s : State) : Out :=
  let s := s.clock t
  let g := group.val
  let ps := (s.groupPorts g).filter (fun n => s.pst n == 1)
  if ps.isEmpty then .next s
  else match lat with
  | some lat =>
    let s1 := ({ s with prt := { s.prt with cal := g :: s.prt.cal } }).storeLat g lat
    let s2 := if g < 32 then s1.sf Fd.PGn_STAT_CAL_OK [g] 1 else s1
    .next (ps.foldl (fun s n => (s.setPst n 2).laneFlag n Fd.PGn_Ll_STAT_CAL_OK Fd.ASD_Gg_LSTAT_CAL_OK 1) s2)
  | none =>
    let s0 := { s with prt := { s.prt with faulted := mergeKeys ps s.prt.faulted } }
    let s1 : State := ps.foldl (fun s n => s.setPst n 8) s0
    .next (if g < 32 then s1.raise Fd.PGn_EVT_CAL_FAIL [g] else s1).assertErr

/-- A slot without a matching application of its module stays in WAIT_SIGNAL (R119). -/
def State.moduleOk (s : State) (n : Nat) : Bool :=
  256 ≤ n || !s.fb Fd.PGn_OPTm_CFG_EN [n / 8, n % 8] || s.fb Fd.PGn_OPTm_STAT_APPSEL [n / 8, n % 8]

/-- Signal on every lane of a port in WAIT_SIGNAL. -/
def execSignalDetected (t : Nat) (port : PortRef) (s : State) : Out :=
  let s := s.clock t
  let n := port.val
  if s.pst n = 2 ∧ s.moduleOk n then
    .next ((s.laneFlag n Fd.PGn_Ll_STAT_SIGNAL Fd.ASD_Gg_LSTAT_SIGNAL 1).setPst n (if s.trainEn n then 3 else 4))
  else .next s

def execTrainingDone (t : Nat) (port : PortRef) (s : State) : Out :=
  let s := s.clock t
  if s.pst port.val = 3 then .next (s.setPst port.val 4) else .next s

/-- A port has been in its state for d ns. -/
def State.inState (s : State) (n d : Nat) : Bool := s.elapsed (Tab.get 0 s.prt.since n) d

/-- Training lasts at most 500 ms. -/
def execTrainTimeout (t : Nat) (port : PortRef) (s : State) : Out :=
  let s := s.clock t
  let n := port.val
  if s.pst n = 3 ∧ s.inState n 500000000 then .next ((s.setPst n 2).portCount n 14) else .next s

/-- Status of the locks of a port. -/
def State.setLocks (s : State) (n v : Nat) : State :=
  let s1 := s.laneFlag n Fd.PGn_Ll_STAT_CDR_LOCK Fd.ASD_Gg_LSTAT_CDR_LOCK v
  if n < 256 then
    let fec := if s.f Fd.PGn_Pp_CFG_FEC [n / 8, n % 8] = 0 then 0 else v
    (s1.sf Fd.PGn_Pp_STAT_ALIGN [n / 8, n % 8] v).sf Fd.PGn_Pp_STAT_FEC_LOCK [n / 8, n % 8] fec
  else (s1.sf Fd.ASD_Gg_PSTAT_ALIGN [n - 256] v).sf Fd.ASD_Gg_PSTAT_FEC_LOCK [n - 256] v

def execLockAchieved (t : Nat) (port : PortRef) (s : State) : Out :=
  let s := s.clock t
  if s.pst port.val = 4 then .next (((s.setLocks port.val 1).setRclk port.val 1).setPst port.val 5) else .next s

/-- Locks not achieved in 10 ms; the return counts in LINK_DOWN (R102). -/
def execLockTimeout (t : Nat) (port : PortRef) (s : State) : Out :=
  let s := s.clock t
  let n := port.val
  if s.pst n = 4 ∧ s.inState n 10000000 then .next ((s.setPst n 2).portCount n 13) else .next s

/-- The lane of the Gable link counts as up. -/
def State.gableUp (s : State) (g v : Nat) : State :=
  s.set0 Fd.ASD_STAT_GABLE (setBits (s.f Fd.ASD_STAT_GABLE) g g v)

/-- Locks held for UP_HOLD ms take the port to UP; a Gable lane that is UP counts as up again UP_HOLD ms after remote
faults (R109). -/
def execHoldExpiry (t : Nat) (port : PortRef) (s : State) : Out :=
  let s := s.clock t
  let n := port.val
  if s.pst n = 5 ∧ s.inState n (s.upHoldNs n) then
    let s1 := (s.setPst n 6).laneFlag n Fd.PGn_Ll_STAT_ADAPT Fd.ASD_Gg_LSTAT_ADAPT 1
    if n < 256 then
      .next ((s1.sf Fd.PGn_STAT_UP [n / 8] (setBits (s1.f Fd.PGn_STAT_UP [n / 8]) (n % 8) (n % 8) 1)).raise
        Fd.PGn_EVT_PORT_UP [n / 8] (n % 8))
    else .next (if s.fb Fd.ASD_Gg_PSTAT_RF [n - 256] ∨ s.raw < Tab.get 0 s.prt.rfEnd n then s1 else s1.gableUp (n - 256) 1)
  else if 256 ≤ n ∧ (s.pst n = 6 ∨ s.pst n = 7) ∧ !s.fb Fd.ASD_Gg_PSTAT_RF [n - 256] ∧
      Tab.get 0 s.prt.rfEnd n ≤ s.raw then .next (s.gableUp (n - 256) 1)
  else .next s

def execHoldBreak (t : Nat) (port : PortRef) (s : State) : Out :=
  let s := s.clock t
  if s.pst port.val = 5 then .next (((s.setLocks port.val 0).setRclk port.val 0).setPst port.val 2) else .next s

/-- A loss condition of R107 takes a port that is up to WAIT_SIGNAL. -/
def execPortDown (t : Nat) (port : PortRef) (localFault : Bool) (s : State) : Out :=
  let s := s.clock t
  let n := port.val
  if s.pst n = 6 ∨ s.pst n = 7 then
    let s1 := s.setLocks n 0
    let s2 := if n < 256 then s1.sf Fd.PGn_Pp_STAT_LF [n / 8, n % 8] (b2n localFault)
      else s1.sf Fd.ASD_Gg_PSTAT_LF [n - 256] (b2n localFault)
    .next (s2.portLost n 2)
  else .next s

/-- Remote faults: the port sends idle only, so a frame in progress ends, and counts as down although its STATE stays
(R109). On a port in HOLD they are shown in RF, so that it counts as down when it comes UP. -/
def execRemoteFaultStart (t : Nat) (port : PortRef) (s : State) : Out :=
  let s := s.clock t
  let n := port.val
  if s.pst n = 5 ∨ s.pst n = 6 ∨ s.pst n = 7 then
    if n < 256 then
      let s1 := (s.sf Fd.PGn_Pp_STAT_RF [n / 8, n % 8] 1).abortTx n
      .next (match s1.sideOf n with | some k => s1.sideLost k | none => s1)
    else .next (((s.sf Fd.ASD_Gg_PSTAT_RF [n - 256] 1).gableUp (n - 256) 0).gableLost.abortTx n)
  else .next s

/-- Remote faults stop: the port counts as up again after UP_HOLD ms (R109). -/
def execRemoteFaultEnd (t : Nat) (port : PortRef) (s : State) : Out :=
  let s := s.clock t
  let n := port.val
  let fld := if n < 256 then (Fd.PGn_Pp_STAT_RF, [n / 8, n % 8]) else (Fd.ASD_Gg_PSTAT_RF, [n - 256])
  if s.fb fld.1 fld.2 then
    let s1 := s.sf fld.1 fld.2 0
    .next { s1 with prt := { s1.prt with rfEnd := Tab.set 0 s1.prt.rfEnd n (s.raw + s.upHoldNs n) } }
  else .next s

/-! Degradation, codewords and bursts (R110 to R113) -/

/-- The end of a 1 ms window: into DEGRADED above SD_THR, out of it after 8 windows below SD_THR / 2 (R110). -/
def execSdWindowEnd (t : Nat) (port : Fin 256) (s : State) : Out :=
  let s := s.clock t
  let n := port.val
  let ms := s.nowNs / 1000000
  let thr := s.f Fd.PGn_Pp_SD_SD_THR [n / 8, n % 8]
  if ms ≤ Tab.get 0 s.prt.winEnd n then .next s
  else
    let sym := Tab.get 0 s.prt.winSym n
    let good := if 2 * sym < thr then Tab.get 0 s.prt.good n + 1 else 0
    let s1 := { s with prt := { s.prt with winEnd := Tab.set 0 s.prt.winEnd n ms, winSym := Tab.set 0 s.prt.winSym n 0
                                           good := Tab.set 0 s.prt.good n good } }
    if thr = 0 then .next s1
    else if s.pst n = 6 ∧ thr < sym then .next ((s1.setPst n 7).raise Fd.PGn_EVT_DEGRADE [n / 8] (n % 8))
    else if s.pst n = 7 ∧ 8 ≤ good then .next ((s1.setPst n 6).raise Fd.PGn_EVT_DEGRADE [n / 8] (n % 8))
    else .next s1

/-- A heavy codeword of a group: CW_THR of them in one 1 us window start a burst (R113). The log entries of a burst carry
its stamps: the start carries START [31:0] in ARG word 1, and the end carries START [31:0] there and the time from START
to END in ns, saturated, in ARG word 0 [31:16] (DESIGN CHOICE, log entry 129). -/
def State.heavy (s : State) (g : Nat) : State :=
  let now := s.nowNs
  let b := Tab.get {} s.prt.burst g
  let b1 : Burst := if b.window = now / 1000 + 1 then { b with heavy := b.heavy + 1, last := now, lastRaw := s.raw }
    else { window := now / 1000 + 1, heavy := 1, first := now, last := now, lastRaw := s.raw }
  let s1 := { s with prt := { s.prt with burst := Tab.set {} s.prt.burst g b1 } }
  if s.fb Fd.PGn_STAT_BURST [g] ∨ b1.heavy < s.f Fd.PGn_BURST_CFG_CW_THR [g] then s1
  else ((s1.sf Fd.PGn_STAT_BURST [g] 1).wr64 Reg.PGn_BURST_START_LO Reg.PGn_BURST_START_HI [g]
    (BitVec.ofNat 64 b1.first)).raise Fd.PGn_EVT_BURST_START [g] 0 b1.first

/-- A port without FEC receives plain 66b blocks (Table PRT-1). -/
def State.noFec (s : State) (n : Nat) : Bool := n < 256 && s.f Fd.PGn_Pp_CFG_FEC [n / 8, n % 8] == 0

/-- The counters of one codeword on a lane of port n. How many 66b blocks of an uncorrectable one are invalid is open: a free
number of at most the 80 that a codeword holds counts in PCS_BAD_BLOCK (log entry 3). -/
def State.countCodeword (s : State) (l n corrected : Nat) (unc : Bool) : State :=
  let s1 := s.portCount n 8
  let s2 := if unc then (s1.drawFree.2.portCount n 10).portCount n 12 (s1.drawFree.1.toNat % 81)
    else if corrected = 0 then s1
    else (s1.portCount n 9).portCount n 11 corrected
  let s3 := if unc ∨ corrected = 0 then s2
    else if l < 256 then s2.bumpBy Reg.PGn_Ll_SYMERR [l / 8, l % 8] corrected
    else s2.bumpBy Reg.ASD_Gg_SYMERR [l - 256] corrected
  let s4 := if n < 256 then s3.peakF Fd.PGn_Pp_FEC_PEAK_PEAK [n / 8, n % 8] (if unc then 255 else corrected) else s3
  { s4 with prt := { s4.prt with winSym := Tab.set 0 s4.prt.winSym n (Tab.get 0 s4.prt.winSym n + corrected)
                                 unc := Tab.set 0 s4.prt.unc l (if unc then Tab.get 0 s4.prt.unc l + 1 else 0) } }

/-- A codeword is counted, or a bad block of a port without FEC; an uncorrectable one spoils the frame that it overlaps,
and the eighth in a row on one FEC lane takes the port down (R107, R112, R113). -/
def execCodewordReceived (t : Nat) (lane : PortRef) (corrected : Nat) (uncorrectable : Bool) (s : State) : Out :=
  let s := s.clock t
  let l := lane.val
  match s.portOfLane l with
  | none => .next s
  | some n => if s.noFec n then .next (if uncorrectable then s.portCount n 12 else s) else
    let c := if uncorrectable then 0 else corrected
    let s1 := s.countCodeword l n c uncorrectable
    let s2 := match s1.rx (rxKey n) with
      | some r => if uncorrectable then s1.setRx (rxKey n) (some { r with bad := true }) else s1
      | none => s1
    let s3 := if l < 256 ∧ (uncorrectable ∨ s.f Fd.PGn_BURST_CFG_SYM_THR [l / 8] ≤ c) then s2.heavy (l / 8) else s2
    if 8 ≤ Tab.get 0 s3.prt.unc l ∧ (s3.pst n = 6 ∨ s3.pst n = 7) then
      let s4 := { s3 with prt := { s3.prt with unc := Tab.set 0 s3.prt.unc l 0 } }
      .next (s4.portLost n 2)
    else .next s3

/-- The burst ends after QUIET us without a heavy codeword (R113). -/
def execBurstEnd (t : Nat) (group : Fin 32) (s : State) : Out :=
  let s := s.clock t
  let g := group.val
  let b := Tab.get {} s.prt.burst g
  let start := (s.rd64 Reg.PGn_BURST_START_LO Reg.PGn_BURST_START_HI [g]).toNat
  if s.fb Fd.PGn_STAT_BURST [g] ∧ s.elapsed b.lastRaw (1000 * s.f Fd.PGn_BURST_CFG_QUIET [g]) then
    .next ((((s.sf Fd.PGn_STAT_BURST [g] 0).wr64 Reg.PGn_BURST_END_LO Reg.PGn_BURST_END_HI [g]
      (BitVec.ofNat 64 b.last)).bump Reg.PGn_BURST_CNT [g]).raise Fd.PGn_EVT_BURST_END [g] (min 0xFFFF (b.last - start)) start)
  else .next s

/-! Lane tests (R114) -/

/-- The group is in service: in Operate, or in Listen with LISTEN set (R121). -/
def State.groupOn (s : State) (g : Nat) : Bool :=
  s.operating || (s.f Fd.POR_STAT_STATE == 3 && s.fb Fd.PGn_MODE_LISTEN [g])

/-- The PRBS checker has counted while CHK_EN was 1; how many errors it found is open (log entry 3). -/
def State.prbsCount (s : State) (g l : Nat) : State :=
  if s.fb Fd.PGn_Ll_TEST_CHK_EN [g, l] then s.drawFree.2.bumpBy Reg.PGn_Ll_PRBS_ERR [g, l] s.drawFree.1.toNat else s

/-- A write of PGn_Ll_TEST: a non-zero LOOP or PRBS takes the port to DISABLED as a loss; when every TEST register of
its lanes is 0 again the port restarts, at WAIT_SIGNAL where its calibration is valid (R103, Table PRT-3). -/
def State.laneTest (s : State) (g l : Nat) (v : BitVec 32) : State :=
  let s := s.prbsCount g l
  let s1 := s.wr Reg.PGn_Ll_TEST [g, l] (v &&& 0x3F#32)
  match s.portOfLane (8 * g + l) with
  | none => s1
  | some n =>
    if v.toNat % 32 ≠ 0 then
      if s.pst n = 0 then s1 else (s1.portLost n 0).raise Fd.PGn_EVT_LANE_TEST [g] l
    else if s.pst n = 0 ∧ s.underTest n ∧ s1.fecGood n ∧ s1.groupOn g then s1.portStart n else s1

def execLaneTestWrite (t : Nat) (party : Party) (group : Fin 32) (lane : Fin 8) (value : BitVec 32) (s : State) : Out :=
  .next (((s.clock t).hostWrite party).laneTest group.val lane.val value)

/-- HELLO_MISS ticks without a HELLO take a side down for the consist (R192). -/
def execHelloLost (t : Nat) (side : Fin 8) (s : State) : Out :=
  let s := s.clock t
  let k := side.val
  if s.sideUp k ∧ Tab.get 0 s.cst.hello k + s.f Fd.CST_CFG_HELLO_MISS ≤ s.tickCount then
    .next ((s.sideLost k).raise Fd.CST_EVT_HELLO_LOST [] k)
  else .next s

end Sys2Proof.Machine
end

