-- ==== Sys2Proof/Machine/Modules.lean ====
section
/-! DEFINITION. Optical and cable modules (R118 to R120): CMIS accesses of the management cluster as requests of the bridge
engine, applications, polls and removal. Byte addresses are those of CMIS 4.0 (PRESUMED, log entry 133). -/

namespace Sys2Proof.Machine

open Sys2Proof

/-- The slots that share the module of a slot: the same bus, multiplexer address and channel (R118). -/
def State.moduleSlots (s : State) (g m : Nat) : List (Nat × Nat) :=
  if s.fb Fd.PGn_OPTm_CFG_EN [g, m] then
    ((List.range 256).map (fun i => (i / 8, i % 8))).filter (fun x =>
      s.rd Reg.PGn_OPTm_CFG [x.1, x.2] == s.rd Reg.PGn_OPTm_CFG [g, m])
  else []

/-- A module is managed once, by the first of its slots (R118). -/
def State.moduleKey (s : State) (g m : Nat) : Nat :=
  match s.moduleSlots g m with
  | x :: _ => 8 * x.1 + x.2
  | [] => 8 * g + m

/-! CMIS accesses (R118, R120) -/

/-- A bridge request (Table SER-3). -/
def requestBytes (op bus addr rlen : Nat) (w : Bytes) : Bytes :=
  beBytes 2 0 ++ beBytes 1 op ++ beBytes 1 bus ++ beBytes 4 addr ++ beBytes 2 w.length ++ beBytes 2 rlen ++ beBytes 4 0 ++ w

/-- The management cluster puts a request for side bus b into bridge queue b, which is one of its own (R313). -/
def State.clusterPut (s : State) (b : Nat) (r : Bytes) : State :=
  (s.putItem (5120 + b) (2624 + b) (List.replicate (s.f Fd.BRG_Qq_CFG_OFS [b]) 0 ++ r)).2

/-- The management cluster reads the telemetry of the board's regulators, of two bytes each (R313, Table CFG-7, log entry
153). -/
def State.regulatorPoll (s : State) : State :=
  if s.operating then
    Config.pmbus.foldl (fun s r => s.clusterPut r.1.toNat (requestBytes 3 r.1.toNat r.2.1.toNat 2 [r.2.2])) s
  else s

/-- Side bus of a slot. -/
def State.moduleBus (s : State) (g m : Nat) : Nat := s.f Fd.PGn_OPTm_CFG_SB [g, m]

/-- Accesses to the module of a slot at address 50h: each is a page of bank 0, none for the lower page, with a request's OP,
read length and written bytes. Behind a multiplexer the channel selection and the accesses form one far-bus lock. -/
def State.cmis (s : State) (g m : Nat) (acc : List (Option Nat × Nat × Nat × Bytes)) : State :=
  let b := s.moduleBus g m
  let mux := s.f Fd.PGn_OPTm_CFG_MUX_ADDR [g, m]
  let page (p : Option Nat) : List Bytes := p.elim [] (fun n => [requestBytes 2 b 0x50 0 [126, 0, BitVec.ofNat 8 n]])
  let rs := acc.flatMap (fun a => page a.1 ++ [requestBytes a.2.1 b 0x50 a.2.2.1 a.2.2.2])
  let ch := BitVec.ofNat 8 (2 ^ s.f Fd.PGn_OPTm_CFG_MUX_CH [g, m])
  (if mux = 0 then rs
    else [requestBytes 4 b 0 0 [], requestBytes 2 b mux 0 [ch]] ++ rs ++ [requestBytes 5 b 0 0 []]).foldl
    (fun s r => s.clusterPut b r) s

/-- Reads who the module is (page 00h), its advertised applications (bytes 85 to 117 of the lower page, and page 01h), and
its alarm thresholds (page 02h) (R118). -/
def appReads : List (Option Nat × Nat × Nat × Bytes) :=
  [(some 0, 3, 128, [128]), (none, 3, 33, [85]), (some 1, 3, 128, [128]), (some 2, 3, 128, [128])]

/-- Selects application a for every lane in the staged control set of page 10h, applies it, ends low power and activates the
data paths. -/
def appWrites (a : BitVec 8) : List (Option Nat × Nat × Nat × Bytes) :=
  [(some 0x10, 2, 0, 145 :: List.replicate 8 (a <<< 4)), (some 0x10, 2, 0, [143, 0xFF]), (none, 2, 0, [26, 0]),
   (some 0x10, 2, 0, [128, 0])]

/-- Reads state, flags and temperature of the lower page, and data path states and flags of page 11h. -/
def pollReads : List (Option Nat × Nat × Nat × Bytes) := [(none, 3, 13, [3]), (some 0x11, 3, 27, [128])]

/-! Applications (R119, R120) -/

/-- The first advertised application that matches the mode of a slot's group and the FEC of its port. -/
def State.appFor (s : State) (g m : Nat) (apps : List ModuleApp) : Option ModuleApp :=
  apps.find? (fun a => a.mode == s.f Fd.PGn_MODE_MODE [g] &&
    a.fec == s.f Fd.PGn_Pp_CFG_FEC [g, ((s.portOfLane (8 * g + m)).getD m) % 8])

/-- Selects the application of a present module on its slots: with a match it is powered up and its data paths are activated;
without one it stays in low power with OPT_NO_APP, and its slots stay in WAIT_SIGNAL. -/
def State.selectApp (s : State) (g m : Nat) (apps : List ModuleApp) : State :=
  let put (ms app : Nat) (s : State) (x : Nat × Nat) : State :=
    ((s.sf Fd.PGn_OPTm_STAT_PRESENT [x.1, x.2] 1).sf Fd.PGn_OPTm_STAT_APPSEL [x.1, x.2] app).sf
      Fd.PGn_OPTm_STAT_MODSTATE [x.1, x.2] ms
  match s.appFor g m apps with
  | some a => ((s.moduleSlots g m).foldl (put 2 a.code.toNat) s).cmis g m (appWrites a.code)
  | none => ((s.moduleSlots g m).foldl (put 1 0) s).raise Fd.PGn_EVT_OPT_NO_APP [g] m

/-- A module is found: its applications are read, and the first that matches is selected (R119). -/
def execModuleFound (t : Nat) (group : Fin 32) (slot : Fin 8) (apps : List ModuleApp) (s : State) : Out :=
  let s := s.clock t
  let g := group.val
  let m := slot.val
  if (s.moduleSlots g m).isEmpty then .next s
  else
    let s1 := { s with prt := { s.prt with apps := Tab.set [] s.prt.apps (s.moduleKey g m) apps } }
    .next ((s1.cmis g m appReads).selectApp g m apps)

/-- The first slots of the modules that have a slot in group g and are present. -/
def State.groupModules (s : State) (g : Nat) : List Nat :=
  mergeKeys (((List.range 8).filter (fun m => s.fb Fd.PGn_OPTm_STAT_PRESENT [g, m])).map (fun m => s.moduleKey g m)) []

/-- A change of mode reselects the applications of a group's modules (R120). -/
def State.reselectApps (s : State) (g : Nat) : State :=
  (s.groupModules g).foldl (fun s k => s.selectApp (k / 8) (k % 8) (Tab.get [] s.prt.apps k)) s

/-- The flags and the state of a module are polled every 50 ms, once for all of its slots; dpstates: the CMIS data path state
of the first lane of each slot, in order of the slots (R118, R119). -/
def execModulePoll (t : Nat) (group : Fin 32) (slot : Fin 8) (alarm : Bool) (states : ModuleStates)
    (temp : BitVec 8) (s : State) : Out :=
  let s := s.clock t
  let g := group.val
  let m := slot.val
  let k := s.moduleKey g m
  if s.fb Fd.PGn_OPTm_STAT_PRESENT [g, m] ∧ s.elapsed (Tab.get 0 s.prt.polled k) 50000000 then
    let put (s : State) (x : Nat × (Nat × Nat)) : State :=
      ((s.sf Fd.PGn_OPTm_STAT_DPSTATE [x.2.1, x.2.2] (states.paths.getD x.1 0).toNat).sf Fd.PGn_OPTm_STAT_TEMP [x.2.1, x.2.2]
        temp.toNat).sf Fd.PGn_OPTm_STAT_MODSTATE [x.2.1, x.2.2] states.module.toNat
    let slots := s.moduleSlots g m
    let s1 := { s with prt := { s.prt with polled := Tab.set 0 s.prt.polled k s.raw } }
    let s2 := (((List.range slots.length).zip slots).foldl put s1).cmis g m pollReads
    .next (if alarm then s2.raise Fd.PGn_EVT_OPT_FLAG [g] m else s2)
  else .next s

/-- A module is removed: the ports of its slots go down under R107. -/
def execModuleRemoved (t : Nat) (group : Fin 32) (slot : Fin 8) (s : State) : Out :=
  let s := s.clock t
  let k := s.moduleKey group.val slot.val
  let slots := s.moduleSlots group.val slot.val
  let ports := mergeKeys (slots.filterMap (fun x => s.portOfLane (8 * x.1 + x.2))) []
  let s0 := { s with prt := { s.prt with apps := Tab.set [] s.prt.apps k [] } }
  let s1 := slots.foldl (fun s x => s.wr Reg.PGn_OPTm_STAT [x.1, x.2] 0) s0
  .next (ports.foldl (fun s n => if s.pst n = 6 ∨ s.pst n = 7 then s.portLost n 2 else s) s1)

end Sys2Proof.Machine
end

