-- ==== Sys2Proof/Machine/Rings.lean ====
section
/-! DEFINITION. The rings of the host queues (R408 to R410): their descriptors, their write-back, and their stop. -/

namespace Sys2Proof.Machine

open Sys2Proof

def State.ring (s : State) (k : Nat) : Ring := Tab.get {} s.hst.rings k

def State.setRing (s : State) (k : Nat) (r : Ring) : State :=
  { s with hst := { s.hst with rings := Tab.set {} s.hst.rings k r } }

/-- The item that a ring was reading waits in its queue again, unread. -/
def State.dropRead (s : State) (k : Nat) : State :=
  match (s.ring k).cur with
  | some d => (s.unstartEntry (2048 + k) d).setRing k { s.ring k with cur := none, off := 0, acc := [] }
  | none => s

/-- The MSI-X vector of a host queue fires when a descriptor completes, at most once in INT_US (R410). -/
def State.ringIrq (s : State) (k : Nat) : State :=
  let r := s.ring k
  let due : Bool := match r.intAt with | some a => s.elapsed a (s.f Fd.HST_Qs_CFG_INT_US [k] * 1000) | none => true
  let v := s.f Fd.HST_Qs_CFG_VEC [k]
  if due ∧ 64 ≤ v then (s.setRing k { r with intAt := some s.raw }).emit (.msix v) else s

/-- What a completed descriptor says beside its bytes (Table HST-3). -/
structure DescInfo where
  status : Nat := 0
  flags : Nat := 1
  len : Nat := 0
  seq : Nat := 0
  stream : Nat := 0
  stamp : Nat := 0
  bytes : Bytes := []
  deriving DecidableEq, Repr

/-- Writes back the first posted descriptor of a ring and moves HEAD on (R408). -/
def State.writeBack (s : State) (k : Nat) (i : DescInfo) : State :=
  let r := s.ring k
  let s1 := s.setRing k { r with posted := r.posted.drop 1, head := (r.head + 1) % 2 ^ r.size }
  (s1.emit (.hostDesc k r.head i.status i.flags i.len i.seq i.stream i.stamp i.bytes)).ringIrq k

/-- Every posted descriptor completes with LEASE_REVOKED. -/
def State.revokePosted (s : State) (k : Nat) : Nat → State
  | 0 => s
  | n + 1 => State.revokePosted (s.writeBack k { status := 1 }) k n

/-- The ring stops: every posted descriptor completes with LEASE_REVOKED, and its items stay in the Larder (R409). -/
def State.stopRing (s : State) (k : Nat) : State :=
  let s1 := (s.dropRead k).revokePosted k (s.ring k).posted.length
  s1.setRing k { s1.ring k with en := false, stopped := true, off := 0, acc := [], waiting := false }

end Sys2Proof.Machine
end

