-- ==== Sys2Proof/Machine/TickEngine.lean ====
section
/-! DEFINITION. The voter channels of the Tick Engine: instruction words, operations and tasks (R62 to R66), WCET,
deadline, and the words that the voter compares (R38, R243). -/

namespace Sys2Proof.Machine

open Sys2Proof

def State.chan (s : State) (c : Nat) : VChan := Tab.get {} s.tke.vc c

def State.setChan (s : State) (c : Nat) (v : VChan) : State :=
  { s with tke := { s.tke with vc := Tab.set {} s.tke.vc c v } }

/-! Instruction words (Table TCK-10) -/

def imm32 (w : BitVec 64) : Nat := bits w.toNat 31 0
def rcOf (w : BitVec 64) : Nat := bits w.toNat 36 32
def condOf (w : BitVec 64) : Nat := bits w.toNat 39 37
def immOf (w : BitVec 64) : Bool := bitAt w.toNat 40
def rbOf (w : BitVec 64) : Nat := bits w.toNat 45 41
def raOf (w : BitVec 64) : Nat := bits w.toNat 50 46
def rdOf (w : BitVec 64) : Nat := bits w.toNat 55 51
def opOf (w : BitVec 64) : Nat := bits w.toNat 63 56

def VChan.reg (v : VChan) (n : Nat) : BitVec 32 := Tab.get 0 v.w n
def VChan.treg (v : VChan) (n : Nat) : BitVec 64 := Tab.get 0 v.t (n % 4)
def VChan.setReg (v : VChan) (n : Nat) (x : BitVec 32) : VChan := { v with w := Tab.set 0 v.w n x }
def VChan.setTreg (v : VChan) (n : Nat) (x : BitVec 64) : VChan := { v with t := Tab.set 0 v.t (n % 4) x }

/-- Register A and operand B (R66). -/
def VChan.a (v : VChan) (w : BitVec 64) : BitVec 32 := v.reg (raOf w)
def VChan.b (v : VChan) (w : BitVec 64) : BitVec 32 := if immOf w then BitVec.ofNat 32 (imm32 w) else v.reg (rbOf w)

/-- The image address W[RA] + IMM32; the spec gives a sum beyond 32 bits no modulus, and it wraps (DESIGN CHOICE, log entry
147). -/
def VChan.addr (v : VChan) (w : BitVec 64) : Nat := ((v.a w).toNat + imm32 w) % 2 ^ 32

/-- The conditions of COND (Table TCK-10). -/
def condHolds {n : Nat} (c : Nat) (x y : BitVec n) : Bool :=
  match c with
  | 0 => x == y
  | 1 => x != y
  | 2 => x.slt y
  | 3 => !x.slt y
  | 4 => x.ult y
  | 5 => !x.ult y
  | 6 => y.slt x
  | _ => !y.slt x

/-- Cycles of each operation; none for a reserved OP (Tables TCK-6 and TCK-11). -/
def cyclesOf (op : Nat) : Option Nat :=
  if 0x01 ≤ op ∧ op ≤ 0x0B then some 1
  else match op with
    | 0x0C => some 2
    | 0x0D => some 18
    | 0x0E => some 18
    | 0x10 => some 2
    | 0x11 => some 2
    | 0x18 => some 2
    | 0x19 => some 2
    | 0x1A => some 2
    | 0x20 => some 1
    | 0x21 => some 1
    | 0x28 => some 4
    | 0x3F => some 1
    | _ => none

/-- An address from which LD and TLD may load. -/
def loadable (a : Nat) : Bool := a < 0x20000 || (0x30000 ≤ a && a < 0x40000)

/-- The instruction word at the pc is valid (R66). -/
def VChan.valid (v : VChan) (w : BitVec 64) : Bool :=
  let a := v.addr w
  match opOf w with
  | 0x10 => a % 4 == 0 && loadable a
  | 0x11 => a % 4 == 0 && a < 0x40000
  | 0x18 => a % 8 == 0 && loadable a
  | 0x20 => imm32 w != 0 && (match v.loops with | f :: _ => v.pc + imm32 w ≤ f.last | [] => true)
  | 0x21 =>
    bits w.toNat 23 16 == 0 && decide (v.loops.length < 4) &&
      (match v.loops with | f :: _ => v.pc + 1 + bits w.toNat 31 24 ≤ f.last | [] => true)
  | 0x28 => bits w.toNat 6 0 ≤ 119
  | op => (cyclesOf op).isSome

/-- The word at the pc; none past word 65,535 (R66). -/
def VChan.fetch (v : VChan) : Option (BitVec 64) := if v.pc < 65536 then some (Tab.get 0 v.code v.pc) else none

/-- Where a step to word n leads: at the end of a body its LOOP runs it again or ends (R66). -/
def loopStep : List LoopFrame → Nat → Tab (BitVec 32) → Nat × List LoopFrame × Tab (BitVec 32)
  | [], n, w => (n, [], w)
  | f :: fs, n, w =>
    if n = f.last + 1 then
      if f.index + 1 < f.count then
        (f.first, { f with index := f.index + 1 } :: fs, Tab.set 0 w f.reg (BitVec.ofNat 32 (f.index + 1)))
      else loopStep fs n w
    else (n, f :: fs, w)

/-- Continues at word n. -/
def VChan.goTo (v : VChan) (n : Nat) : VChan :=
  let r := loopStep v.loops n v.w
  { v with pc := r.1, loops := r.2.1, w := r.2.2 }

/-- Spends the cycles of an instruction (R62). -/
def VChan.spend (v : VChan) (c : Nat) : VChan := { v with cycles := v.cycles + c, taskCycles := v.taskCycles + c }

/-- Loads a word of the input section or of the committed state section. -/
def VChan.load (v : VChan) (a : Nat) : BitVec 32 :=
  if a < 0x20000 then Tab.get 0 v.image (a / 4) else Tab.get 0 v.state ((a - 0x30000) / 4)

/-- Stores a word to the output section or to pending state; a store to the input section is ignored (R63). -/
def VChan.store (v : VChan) (a : Nat) (x : BitVec 32) : VChan :=
  if a < 0x20000 then v
  else if a < 0x30000 then { v with outw := Tab.set none v.outw ((a - 0x20000) / 4) (some x) }
  else { v with pend := Tab.set none v.pend ((a - 0x30000) / 4) (some x) }

/-! Tasks -/

/-- The task table row at an index. -/
def State.taskRow (s : State) (n : Nat) : TaskRow := Tab.get (0, 0) s.act.tasks n

def taskValid (r : TaskRow) : Bool := bitAt r.1.toNat 31
def taskSelected (r : TaskRow) (tick : Nat) : Bool := tickSelected tick (bits r.1.toNat 23 16) (bits r.1.toNat 27 24)
def taskCode (r : TaskRow) : Nat := bits r.1.toNat 15 0
def taskWcet (r : TaskRow) : Nat := bits r.2.toNat 20 0

/-- Starts the first task of the list: W0 to W31 and T0 to T3 are 0 (R62); with none left the channel has ended. -/
def VChan.begin_ (v : VChan) (row : Nat → TaskRow) : VChan :=
  match v.tasks with
  | [] => { v with phase := .ended, loops := [] }
  | n :: _ => { v with w := [], t := [], pc := taskCode (row n), loops := [], taskCycles := 0, wcetRaised := false }

/-- Channel c writes its trace record as the lowest channel that takes part (log entry 14). -/
def State.traces (s : State) (c : Nat) : Bool := findNat 3 (fun k => (s.chan k).out = .none) == some c

/-- The running task of a channel ends, and the next one starts (R64, R66, R414). -/
def State.endTask (s : State) (c : Nat) : State :=
  let v := s.chan c
  let s1 := if s.traces c then s.trace 2 (v.tasks.headD 0) v.taskCycles else s
  let v' := { v with tasks := v.tasks.tail }.begin_ s.taskRow
  let s2 := s1.setChan c v'
  if s.traces c then (match v'.tasks with | n :: _ => s2.trace 1 n (s.tu.tick % 2 ^ 32) | [] => s2) else s2

/-- Channel c runs the instruction at its pc where that word is a valid instruction with this OP. -/
def State.vexec (s : State) (c op : Nat) (f : VChan → BitVec 64 → VChan) : State :=
  let v := s.chan c
  match v.fetch with
  | some w =>
    if v.phase = .running ∧ opOf w = op ∧ v.valid w then
      s.setChan c ((f v w).spend ((cyclesOf op).getD 1))
    else s
  | none => s

/-- A register instruction: writes W[RD] and goes to the next word. -/
def State.vreg (s : State) (c op : Nat) (f : VChan → BitVec 64 → BitVec 32) : State :=
  s.vexec c op (fun v w => (v.setReg (rdOf w) (f v w)).goTo (v.pc + 1))

def execMov (vc : Fin 3) (s : State) : Out := .next (s.vreg vc.val 0x01 (fun v w => v.b w))
def execAdd (vc : Fin 3) (s : State) : Out := .next (s.vreg vc.val 0x02 (fun v w => v.a w + v.b w))
def execSub (vc : Fin 3) (s : State) : Out := .next (s.vreg vc.val 0x03 (fun v w => v.a w - v.b w))
def execAndOp (vc : Fin 3) (s : State) : Out := .next (s.vreg vc.val 0x04 (fun v w => v.a w &&& v.b w))
def execOrOp (vc : Fin 3) (s : State) : Out := .next (s.vreg vc.val 0x05 (fun v w => v.a w ||| v.b w))
def execXorOp (vc : Fin 3) (s : State) : Out := .next (s.vreg vc.val 0x06 (fun v w => v.a w ^^^ v.b w))

def execShl (vc : Fin 3) (s : State) : Out := .next (s.vreg vc.val 0x07 (fun v w => v.a w <<< ((v.b w).toNat % 32)))
def execShr (vc : Fin 3) (s : State) : Out := .next (s.vreg vc.val 0x08 (fun v w => v.a w >>> ((v.b w).toNat % 32)))

def execCmp (vc : Fin 3) (s : State) : Out :=
  .next (s.vreg vc.val 0x09 (fun v w => if condHolds (condOf w) (v.a w) (v.b w) then 1 else 0))

def execSel (vc : Fin 3) (s : State) : Out :=
  .next (s.vreg vc.val 0x0A (fun v w => if v.reg (rcOf w) = 0 then v.b w else v.a w))

/-- A whole number saturated at lo and hi as a word. -/
def satWord (lo hi i : Int) : BitVec 32 := BitVec.ofInt 32 (clipInt lo hi i)

def execSatadd (vc : Fin 3) (s : State) : Out :=
  .next (s.vreg vc.val 0x0B (fun v w => satWord (-2147483648) 2147483647 ((v.a w).toInt + (v.b w).toInt)))

def execMul (vc : Fin 3) (s : State) : Out := .next (s.vreg vc.val 0x0C (fun v w => v.a w * v.b w))

/-- Signed quotient truncated toward 0, 0 for a divisor of 0, modulo 2^32 (Table TCK-11). -/
def quot (x y : BitVec 32) : BitVec 32 := if y = 0 then 0 else BitVec.ofInt 32 (Int.tdiv x.toInt y.toInt)

/-- The remainder of that division, W[RA] for a divisor of 0 (Table TCK-11). -/
def remd (x y : BitVec 32) : BitVec 32 := if y = 0 then x else BitVec.ofInt 32 (Int.tmod x.toInt y.toInt)

def execDiv (vc : Fin 3) (s : State) : Out := .next (s.vreg vc.val 0x0D (fun v w => quot (v.a w) (v.b w)))
def execRem (vc : Fin 3) (s : State) : Out := .next (s.vreg vc.val 0x0E (fun v w => remd (v.a w) (v.b w)))
def execLd (vc : Fin 3) (s : State) : Out := .next (s.vreg vc.val 0x10 (fun v w => v.load (v.addr w)))

/-- The instruction at the pc is a valid ST to the input section (R63). -/
def VChan.badStore (v : VChan) : Bool :=
  match v.fetch with
  | some w => decide (v.phase = .running) && opOf w == 0x11 && v.valid w && decide (v.addr w < 0x20000)
  | none => false

def execSt (vc : Fin 3) (s : State) : Out :=
  let s1 := s.vexec vc.val 0x11 (fun v w => (v.store (v.addr w) (v.reg (rbOf w))).goTo (v.pc + 1))
  .next (if (s.chan vc.val).badStore then s1.raise Fd.TKE_FAULT_BAD_STORE else s1)

def execTld (vc : Fin 3) (s : State) : Out :=
  .next (s.vexec vc.val 0x18 (fun v w =>
    (v.setTreg (rdOf w) (BitVec.ofNat 64 ((v.load (v.addr w)).toNat + (v.load (v.addr w + 4)).toNat * 2 ^ 32))).goTo
      (v.pc + 1)))

def execTsub (vc : Fin 3) (s : State) : Out :=
  .next (s.vreg vc.val 0x19 (fun v w =>
    satWord (-2147483647) 2147483647 ((v.treg (raOf w)).toInt - (v.treg (rbOf w)).toInt)))

def execTcmp (vc : Fin 3) (s : State) : Out :=
  .next (s.vreg vc.val 0x1A (fun v w => if condHolds (condOf w) (v.treg (raOf w)) (v.treg (rbOf w)) then 1 else 0))

def execBrf (vc : Fin 3) (s : State) : Out :=
  .next (s.vexec vc.val 0x20 (fun v w =>
    if immOf w ∨ v.a w ≠ 0 then v.goTo (v.pc + imm32 w) else v.goTo (v.pc + 1)))

/-- LOOP: IMM32[15:0] runs of the next IMM32[31:24] + 1 words, W[RD] counting from 0; none skips the body. -/
def VChan.loop_ (v : VChan) (w : BitVec 64) : VChan :=
  let n := bits w.toNat 15 0
  let len := bits w.toNat 31 24 + 1
  if n = 0 then v.goTo (v.pc + len + 1)
  else
    let f : LoopFrame := { first := v.pc + 1, last := v.pc + len, count := n, index := 0, reg := rdOf w }
    { v.setReg (rdOf w) 0 with pc := v.pc + 1, loops := f :: v.loops }

def execLoopOp (vc : Fin 3) (s : State) : Out := .next (s.vexec vc.val 0x21 VChan.loop_)

/-- EMIT: LEN and TALKER into the first word of output-sentence slot IMM32[6:0] (R66, R72, R266). -/
def VChan.emit_ (v : VChan) (w : BitVec 64) : VChan :=
  v.store (0x20400 + 128 * bits w.toNat 6 0) (BitVec.ofNat 32 ((v.a w).toNat % 65536 + 65536 * bits w.toNat 24 16))

def execEmitOp (vc : Fin 3) (s : State) : Out :=
  .next (s.vexec vc.val 0x28 (fun v w => (v.emit_ w).goTo (v.pc + 1)))

/-- END ends the task. -/
def execEndOp (vc : Fin 3) (s : State) : Out :=
  let v := s.chan vc.val
  match v.fetch with
  | some w =>
    if v.phase = .running ∧ opOf w = 0x3F then .next ((s.setChan vc.val (v.spend 1)).endTask vc.val) else .next s
  | none => .next s

/-- The word at the pc is no valid instruction, or the pc lies past word 65,535 (R66). -/
def VChan.invalid (v : VChan) : Bool :=
  decide (v.phase = .running) && (match v.fetch with | some w => !v.valid w | none => true)

/-- An invalid instruction takes the cycles of END, ends the task and sets BAD_OP (R66). -/
def execInvalidInstruction (vc : Fin 3) (s : State) : Out :=
  let v := s.chan vc.val
  if v.invalid then
    .next (((s.setChan vc.val (v.spend 1)).endTask vc.val).raise Fd.TKE_FAULT_BAD_OP)
  else .next s

/-! The tick of the Tick Engine -/

/-- The Tick Engine may run tasks: an unpaired or duty module in Operate after its first commit, neither halted nor
stopped by the supervisor (Table ASD-1, R51, R68, R366, Table CFG-3). -/
def State.tkeMayRun (s : State) : Bool :=
  s.tu.committed && s.f Fd.ASD_STAT_ROLE ≤ 1 && s.asd.waiting.isNone && !s.fb Fd.TKE_STAT_HALT && !s.tke.lost &&
    s.f Fd.POR_STAT_STATE == 4 && s.f Fd.CFG_STAT_BOOT == 2

/-- The active tasks of the tick and the number of valid ones that are skipped (R64). -/
def State.activeTasks (s : State) : List Nat × Nat :=
  let valid := (keys s.act.tasks).filter (fun n => taskValid (s.taskRow n))
  (valid.filter (fun n => taskSelected (s.taskRow n) s.tu.tick),
   (valid.filter (fun n => !taskSelected (s.taskRow n) s.tu.tick)).length)

/-- Tasks start in every voter channel that takes part (R45, R64). -/
def execTaskStart (t : Nat) (s : State) : Out :=
  let s := s.clock t
  if s.tickPast 2000 && !s.tke.started && s.tkeMayRun && !s.tke.resetTick then
    let a := s.activeTasks
    let go (v : VChan) : VChan :=
      if v.out = .none then
        { v with tasks := a.1, phase := .running, cycles := 64 + 2 * a.2, outw := [], pend := [] }.begin_ s.taskRow
      else v
    let s1 := { s with tke := { s.tke with started := true } }
    let s2 := [0, 1, 2].foldl (fun s c => s.setChan c (go (s.chan c))) s1
    .next (match a.1 with | n :: _ => s2.trace 1 n (s.tu.tick % 2 ^ 32) | [] => s2)
  else .next s

/-- A task that runs beyond its WCET raises TASK_WCET once and goes on (R64). -/
def execTaskWcet (t : Nat) (vc : Fin 3) (s : State) : Out :=
  let s := s.clock t
  let v := s.chan vc.val
  match v.tasks with
  | n :: _ =>
    if v.phase = .running ∧ taskWcet (s.taskRow n) < v.taskCycles ∧ !v.wcetRaised then
      .next ((s.setChan vc.val { v with wcetRaised := true }).raise Fd.TKE_FAULT_TASK_WCET [] n)
    else .next s
  | [] => .next s

/-- Channels that take part in the vote: they ran and ended (R67). -/
def State.voters (s : State) : List Nat := [0, 1, 2].filter (fun c => (s.chan c).out = .none ∧ (s.chan c).phase = .ended)

/-- Channels that were stopped at the deadline. -/
def State.stoppedChans (s : State) : List Nat :=
  [0, 1, 2].filter (fun c => (s.chan c).out = .none ∧ (s.chan c).phase = .stopped)

/-- The highest cycle count of the tick (TKE_CYCLES, TKE_PEAK). -/
def State.recordCycles (s : State) : State :=
  let top := [0, 1, 2].foldl (fun m c => if (s.chan c).out = .none then max m (s.chan c).cycles else m) 0
  (s.set0 Fd.TKE_CYCLES_LAST (min top Fd.TKE_CYCLES_LAST.top)).peakF Fd.TKE_PEAK_PEAK [] top

/-- The tick is handled as an overrun tick: nothing is voted and the pending state is discarded (R67). -/
def State.overrunTick (s : State) : State :=
  let drop (s : State) (c : Nat) : State := s.setChan c { s.chan c with pend := [], outw := [], tasks := [] }
  let s1 := [0, 1, 2].foldl drop s
  { s1 with tke := { s1.tke with overrun := true, voteDone := true, voted := [] } }

/-- Ticks of the last dissents of a channel with one in the present tick (R244). -/
def State.dissentsNow (s : State) (c : Nat) : List Nat :=
  s.tu.tick :: (s.chan c).dissents.filter (fun d => s.tu.tick < d + 4096)

/-- A dissent counts; the third within 4,096 ticks marks the channel failed (R244). -/
def State.countDissent (s : State) (c : Nat) (out : VOut) (copy : Bool) : State :=
  let ds := s.dissentsNow c
  if 3 ≤ ds.length then
    ((s.setChan c { s.chan c with dissents := ds, out := .failed }).raise Fd.ASD_EVT_VC_FAILED [] c).assertErr
  else s.setChan c { s.chan c with dissents := ds, out := out, codeCopy := copy }

/-- A stop in an overrun tick counts as a dissent, and the channel is not resynchronised for it (R67, R244). -/
def State.stopCounts (s : State) (c : Nat) : State := s.countDissent c (s.chan c).out (s.chan c).codeCopy

/-- At the task deadline channels that have not ended are stopped; with fewer than two left the tick overruns (R67). -/
def execTaskDeadline (t : Nat) (s : State) : Out :=
  let s := s.clock t
  if s.tickPast s.deadlineNs && s.tke.started && !s.tke.deadline && !s.tke.voteDone then
    let stop (v : VChan) : VChan :=
      if v.out = .none ∧ v.phase = .running then { v with phase := .stopped, tasks := [] } else v
    let s0 : State := { s with tke := { s.tke with deadline := true } }
    let s1 : State := [0, 1, 2].foldl (fun s c => s.setChan c (stop (s.chan c))) s0
    if s1.voters.length < 2 then
      let s2 := (s1.stoppedChans.foldl State.stopCounts s1.recordCycles.overrunTick).raise Fd.TKE_FAULT_OVERRUN
      .next ((({ s2 with tke := { s2.tke with consec := s2.tke.consec + 1 } } : State).bumpF Fd.TKE_OVR_CNT_OVR).assertErr)
    else
      .next (s1.stoppedChans.foldl (fun s c => s.raise Fd.TKE_FAULT_VC_OVERRUN [] c 0 c) s1)
  else .next s

/-! Voting (R38, R243, R244) -/

/-- What the voter finds for one word: the agreed value, written or not, and the channels that dissent. -/
structure WordVote where
  agreed : Option (Option (BitVec 32))
  dissent : List Nat
  deriving DecidableEq, Repr

/-- The vote on one word over the channels that take part; "not written" is a value of its own (R243, R244). -/
def voteWord (vs : List (Nat × Option (BitVec 32))) : WordVote :=
  match vs.find? (fun x => decide (1 < (vs.filter (fun y => y.2 = x.2)).length)) with
  | some x => { agreed := some x.2, dissent := (vs.filter (fun y => y.2 ≠ x.2)).map (·.1) }
  | none => { agreed := none, dissent := [] }

/-- The vote over all the words that any of the channels wrote: the words that the majority wrote, the dissenters, and
whether some word had no majority. -/
def voteTables (ms : List (Nat × Tab (Option (BitVec 32)))) : Tab (Option (BitVec 32)) × List Nat × Bool :=
  let ks := mergeKeys (ms.flatMap (fun m => keys m.2)) []
  ks.foldr (fun k acc =>
    let r := voteWord (ms.map (fun m => (m.1, Tab.get none m.2 k)))
    ((match r.agreed with | some (some x) => Tab.set none acc.1 k (some x) | _ => acc.1),
     mergeKeys r.dissent acc.2.1, acc.2.2 || r.agreed.isNone)) ([], [], false)

/-- A dissent of channel c in the present tick: it sits out, or is marked failed at the third within 4,096 ticks
(R243, R244). -/
def State.dissent (s : State) (c : Nat) : State :=
  let maj := findNat 3 (fun k => k != c && (s.chan k).out = .none && (s.chan k).phase = .ended)
  s.countDissent c (.resync s.tu.tick) (match maj with | some k => (s.chan c).code != (s.chan k).code | none => false)

/-- Ticks that a resynchronisation takes after the dissent: the tick that the channel sits out, and more where the copy
of the task code does not fit in it (R243: 16 bytes per ECLK cycle of 2 ns). -/
def State.resyncTicks (s : State) (v : VChan) : Nat :=
  let ns := (4096 + if v.codeCopy then 32768 else 0) * 2
  1 + max 1 ((ns + s.period - 1) / s.period)

/-- The lowest-indexed majority channel. -/
def State.majority (s : State) : Option Nat := findNat 3 (fun k => (s.chan k).out = .none)

/-- A resynchronised channel rejoins with the majority's committed state and task code (R243). -/
def State.rejoin (s : State) (c : Nat) : State :=
  match s.majority with
  | some m =>
    let s1 := s.setChan c { s.chan c with state := (s.chan m).state, code := (s.chan m).code, image := (s.chan m).image
                                          out := .none, codeCopy := false, phase := .idle, tasks := [] }
    (s1.raise Fd.ASD_EVT_VC_RESYNC [] c).bump Reg.ASD_VC_RESYNC
  | none => s

/-- After its tick of self-test a channel resynchronises: it compares its task code with the lowest-indexed majority
channel's (R243, R245). -/
def State.afterTest (s : State) (c : Nat) : State :=
  match (s.chan c).out with
  | .test d =>
    if d < s.tu.tick then
      let differs := match s.majority with | some k => (s.chan c).code != (s.chan k).code | none => false
      s.setChan c { s.chan c with out := .resync d, codeCopy := differs }
    else s
  | _ => s

/-- A channel rejoins at the first instant by which its copy is complete (R243, R245). -/
def execVcRejoin (t : Nat) (vc : Fin 3) (s : State) : Out :=
  let s := s.clock t
  let v := s.chan vc.val
  match v.out with
  | .resync d => if d + s.resyncTicks v ≤ s.tu.tick ∧ !s.tke.started then .next (s.rejoin vc.val) else .next s
  | _ => .next s

/-- In each tick N with N mod TEST_TICKS = 0 the next channel sits out for its logic self-test, unless a channel is out
or failed (R245). A standby, which runs no tasks, tests all three channels in every tick (R213). ok: what the test finds, as
the health report gives it. -/
def execVcSelfTest (test : At Bool) (s : State) : Out :=
  let s := s.clock test.t
  let ok := test.found
  if s.role = 2 then .next { s with asd := { s.asd with testFail := !ok } } else
  let tt := s.f Fd.ASD_VC_CFG_TEST_TICKS
  let c := s.tke.testNext
  if tt ≠ 0 ∧ s.tu.tick % tt = 0 ∧ s.tkeMayRun ∧ !s.tke.started ∧ [0, 1, 2].all (fun k => (s.chan k).out = .none) then
    let s1 := s.setChan c { s.chan c with out := .test s.tu.tick, phase := .idle }
    .next { s1 with tke := { s1.tke with testNext := (c + 1) % 3 }, asd := { s1.asd with testFail := !ok } }
  else .next s

/-- A standby counts a tick without its TICK_END (R236). -/
def State.countMiss (s : State) : State :=
  if s.role = 2 ∧ s.asd.lastEnd ≠ some s.tu.tick then s.bumpF Fd.ASD_STAT_MISS else s

/-- The assembler stops collecting at instant + 1.0 µs, and the image is complete in all three channels (R47). -/
def execImageAssemblyClose (t : Nat) (s : State) : Out :=
  let s := s.clock t
  if s.tke.asmOpen && s.tickPast 1000 then
    let im := s.tke.asm.complete
    let s1 := [0, 1, 2].foldl (fun s c => s.setChan c { s.chan c with image := im }) s
    .next { s1 with tke := { s1.tke with asmOpen := false } }
  else .next s

/-! Image frames (R73, R443) -/

/-- The entries of an image frame payload: IMPORT and data, or none where it is malformed. -/
def imageEntries : Nat → Bytes → Option (List (Nat × Bytes))
  | 0, _ => some []
  | n + 1, bs =>
    let len := beAt bs 2 2
    if bs.length < 4 ∨ len < 4 ∨ 1024 < len ∨ len % 4 ≠ 0 ∨ bs.length < 4 + len then none
    else (imageEntries n (bs.drop (4 + len))).map (fun es => (beAt bs 0 2, (bs.drop 4).take len) :: es)

/-- The payload's entries where it passes the checks of R443. -/
def imagePayload (p : Bytes) : Option (List (Nat × Bytes)) :=
  let n := beAt p 2 2
  if p.length < 20 ∨ byteAt p 0 ≠ 0x10 ∨ byteAt p 1 % 16 ≠ 1 ∨ n < 1 ∨ 64 < n then none
  else imageEntries n (p.drop 20)

/-- Writes one entry into the import region for the next instant; one that reaches beyond it sets BAD_OP (R73). -/
def State.importEntry (s : State) (a stamp : Nat) (e : Nat × Bytes) : State :=
  if 0x8000 < e.1 * 4 + e.2.length then s.raise Fd.TKE_FAULT_BAD_OP
  else
    let ws := (wordsOf e.2).map some
    let s1 := { s with tke := { s.tke with imports := Tab.setList none s.tke.imports e.1 ws } }
    s1.taskEvent (.importEntry e.1) a (readNs stamp) (readFrac stamp) 4

/-- A frame of tick n that arrived at the ingress MAC at a (consist time, ns) is on time: a lies in the receiver's tick n, by
staging close (R46, R50, R73). Which moment CTL takes it decides nothing; by R47 that moment lies before the next instant,
and a frame taken later still than that counts as late (DEDUCED, log entry 159). -/
def State.onTime (s : State) (n a : Nat) : Bool :=
  n == s.tu.tick && (match s.tu.base with
    | some _ => decide (s.instantNs ≤ a ∧ a ≤ s.instantNs + s.stagingNs)
    | none => !s.tke.staging)

/-- An image frame arrives: malformed, late, or its entries are staged (R73, R443). stamp: ingress stamp as consist time in
units of 2^-32 ns. -/
def State.imageFrame (s : State) (stamp : Nat) (payload : Bytes) : State :=
  match imagePayload payload with
  | none => (s.bump Reg.TKE_BAD_FRAME).raise Fd.TKE_FAULT_BAD_FRAME
  | some es =>
    if s.onTime (beAt payload 4 8) (readNs stamp) then es.foldl (fun s e => s.importEntry (readNs stamp) stamp e) s
    else
      let s1 := s.bumpBy Reg.TKE_LATE_CNT [] es.length
      { s1 with tke := { s1.tke with lateTick := s1.tke.lateTick + es.length } }

/-- The Tick Engine takes the next item of its queue 5,632 + queue as an image frame (R162). A poisoned one counts as
malformed (R182, log entry 131). -/
def execImageFrameReceived (t : Nat) (queue : Fin 504) (ecc : Ecc) (s : State) : Out :=
  let s := s.clock t
  let r := s.takeHead (5632 + queue.val) ecc
  match r.2 with
  | some d =>
    let i := r.1.item d
    let p := if i.poison.isEmpty then (i.bytes.take (i.bytes.length - 4)).drop (parseFrame i.bytes).body else []
    .next ((r.1.releaseCopy d).imageFrame i.stamp p)
  | none => .next s

/-- The bytes of an export entry: IMPORT / 4, LEN and the voted words in image byte order (Table TCK-12). -/
def State.exportBytes (s : State) (e : ExportEntry) : Bytes :=
  let ws := (List.range (e.len / 4)).map (fun i => Tab.get 0 s.tke.force ((e.offset - 0x20000) / 4 + i))
  let vs := (List.range (e.len / 4)).map (fun i =>
    (Tab.get none s.tke.voted ((e.offset - 0x20000) / 4 + i)).getD (ws.getD i 0))
  beBytes 2 (e.imp / 4) ++ beBytes 2 e.len ++ bytesOfWords vs

/-- The payload of image frame f in the present tick (Table TCK-12). -/
def State.exportPayload (s : State) (f : Nat) : Bytes :=
  let es := s.act.maps.exports.filter (fun e => e.frame = f)
  [0x10, 0x01] ++ beBytes 2 es.length ++ beBytes 8 s.tu.tick ++ beBytes 2 (s.f Fd.CST_STAT_POSITION) ++ beBytes 2 0
    ++ beBytes 4 (s.rd Reg.CST_INAUG).toNat ++ es.flatMap s.exportBytes

/-- An image frame: the destination, VID and PCP of its export, the MAC address of its port, EtherType 88B5h and the payload,
filled with 0 to 64 bytes with its FCS (R73, R189). -/
def imageFrameBytes (fr : ExportFrame) (payload : Bytes) : Bytes :=
  let f := beBytes 6 fr.dest.toNat ++ beBytes 6 (Config.portMac fr.port).toNat ++ ctagBytes fr.pcp.toNat false fr.vid.toNat
    ++ beBytes 2 0x88B5 ++ payload
  withFcs (f ++ List.replicate (60 - f.length) 0)

/-- An image frame goes into FAB as any frame that CTL sends (R28, R124), after the vote of its tick, once; none leaves in
an overrun tick, or while the fabric-control link is down (R24, R67, R73). -/
def execExportSend (t : Nat) (frame : Nat) (s : State) : Out :=
  let s := s.clock t
  if s.tke.voteDone && !s.tke.overrun && s.tkeMayRun && !s.fio.linkDown.contains 0 && !s.tke.sent.contains frame &&
      s.act.maps.exports.any (fun e => e.frame == frame) then
    let fr := Tab.get { dest := 0, vid := 0, pcp := 0, port := 0 } s.act.maps.frames frame
    let s1 := { s with tke := { s.tke with sent := frame :: s.tke.sent } }
    .next (s1.inject (imageFrameBytes fr (s.exportPayload frame)) .engine .express)
  else .next s

end Sys2Proof.Machine
end

