-- ==== Sys2Proof/Machine/Pairing.lean ====
section
/-! DEFINITION. The pairing protocol (R209 to R228, R236 to R242): pairing frames, mirrors, the state copy, health,
takeover, fence, handover and resynchronisation. -/

namespace Sys2Proof

open Sys2Proof.Machine

/-- The RESYNC records that carry a shadow set, and what one record makes of the shadow set of the module that receives it:
the manual gives them no layout (R383, log entry 111). -/
opaque Config.shadowRecords : CfgSet → List Bytes
opaque Config.shadowRecord : CfgSet → Bytes → Option CfgSet

end Sys2Proof

namespace Sys2Proof.Machine

open Sys2Proof

/-! Roles -/

/-- A role is entered: from now on its ticks count, and a count of redundant ticks starts again. -/
def State.setRole (s : State) (r : Nat) : State :=
  let s1 := s.set0 Fd.ASD_STAT_ROLE r
  { s1 with asd := { s1.asd with waiting := none, roleTick := s.tickCount, redTicks := 0 } }

/-- A module becomes duty without a takeover (R210). -/
def State.becomeDuty (s : State) : State := (s.setRole 1).fbActivateAll.uaGoOnAll

/-! What becomes of accepted items when their duty ends: of each copy that waits here the new duty sends its own; one that
is being sent, or waits for the ack of its hop, goes on (R7, R161) -/

/-- Takes the waiting entries of item d out of queue q. -/
def State.dropWaiting (s : State) (q d : Nat) : State :=
  let es := (s.queue q).entries
  let mine (e : QEntry) : Bool := e.desc == d && !e.started
  if es.any mine then
    let k := (es.filter mine).length
    let s1 := (s.setEntries q (es.filter (fun e => !mine e))).set0 Fd.LDR_QE_USED_COUNT (s.f Fd.LDR_QE_USED_COUNT - k)
    s1.setItem d { s1.item d with copies := (s1.item d).copies - k }
  else s

/-- Takes item d out of what the recovery functions hold. -/
def State.dropRecovHeld (s : State) (d : Nat) : State :=
  { s with fp := { s.fp with recov := s.fp.recov.map (fun r =>
    (r.1, { r.2 with held := r.2.held.filter (fun h => h.2.1 != d) })) } }

/-- Copies of item d that are being sent, or wait in a replay store. -/
def State.copiesOut (s : State) (d : Nat) : Nat :=
  sumNat (s.ldr.queues.map (fun q => (q.2.entries.filter (fun e => e.desc == d && e.started)).length))
    + sumNat (s.ldr.hop.map (fun h => (h.2.replay.filter (fun r => r.desc == d)).length))

/-- Every copy of item d that waits here is dropped; k more references keep it beside the copies that go on. -/
def State.withdrawCopies (s : State) (d k : Nat) : State :=
  let s1 : State := (keys s.ldr.queues).foldl (fun s q => s.dropWaiting q d) (s.dropRecovHeld d)
  let n := s1.copiesOut d + k
  if n = 0 then s1.freeItem d else s1.setItem d { s1.item d with refs := n }

/-- A fenced module forgets the accepted items, which a new duty now sends (Table ASD-1: a fenced module holds no assured
work). -/
def State.forgetMirrored (s : State) : State :=
  let ds := keys s.asd.mrefOf
  ds.foldl (fun s d => s.withdrawCopies d 0) { s with asd := { s.asd with mrefOf := [], releases := [] } }

/-- A module becomes standby: its CAN FD channels are listen-only, and it waits for a resynchronisation (R210, R240,
R241). -/
def State.becomeStandby (s : State) : State :=
  let s1 := if s.role = 3 then s.forgetMirrored else s
  (((s1.setRole 2).set0 Fd.ASD_STAT_RESYNC 0).set0 Fd.ASD_STAT_MISS 0).fbSilenceAll.uaHoldAll

/-- A duty fences itself and falls silent (R240, Table ASD-1). -/
def State.fenceNow (s : State) : State := if s.role = 1 then (s.fence.setRole 3).fbSilenceAll.uaHoldAll else s

/-! Pairing frames (R221 to R224) -/

def pfTick (p : Bytes) : Nat := beAt p 8 8

/-- What the EPOCH of a frame does: a higher one fences a duty and is adopted by the others (R222). -/
def State.hearEpoch (s : State) (e : Nat) : State :=
  if serialAfter 32 e s.epoch then
    if s.role = 1 then s.fenceNow
    else if s.role = 3 then s
    else s.wr Reg.ASD_EPOCH [] (BitVec.ofNat 32 e)
  else s

/-- A received pairing frame of a kind: CTL takes it from its queue. It is discarded in an unpaired module, with another
VER or KIND, and with an EPOCH lower than this module's (R221, R222). -/
def State.pairFrame (s : State) (kind : Nat) (p : Bytes) (f : State → State) : State :=
  let e := beAt p 4 4
  let s := s.ctlRead 2 256 (payloadIs p)
  if !s.operating ∨ s.gableLanes = 0 ∨ (s.role = 0 ∧ s.asd.waiting.isNone) ∨ byteAt p 0 ≠ kind ∨
      byteAt p 1 % 16 ≠ 1 ∨ serialAfter 32 s.epoch e then s
  else
    let s1 := { s with asd := { s.asd with heard := some s.tickCount, heardRaw := s.raw } }
    f ((s1.set0 Fd.ASD_STAT_PARTNER 1).hearEpoch e)

/-- Splits a list into pieces of at most k entries. -/
def chunks {α : Type} (k : Nat) (l : List α) : List (List α) :=
  (List.range ((l.length + k - 1) / k)).map (fun i => (l.drop (k * i)).take k)

/-- Bytes of records with their record headers. -/
def recordBytes (rs : List Bytes) : Nat := sumNat (rs.map (fun r => r.length + 4))

/-! Records of the state copy (Tables ASD-5 and ASD-10) -/

/-- A STATE or RESYNC record. -/
def stateRec (type : Nat) (body : Bytes) : Bytes := beBytes 1 type ++ beBytes 3 0 ++ body

/-- The 64-byte block n of a section that starts at an image offset. -/
def blockRec (type base n : Nat) (word : Nat → BitVec 32) : Bytes :=
  stateRec type (beBytes 4 (base + 64 * n) ++ bytesOfWords ((List.range 16).map (fun i => word (16 * n + i))))

def releaseRec (mref : Nat) : Bytes := stateRec 3 (beBytes 4 mref)
def headRec (q mref : Nat) : Bytes := stateRec 4 (beBytes 2 q ++ beBytes 2 0 ++ beBytes 4 mref)
def streamRec (key n : Nat) : Bytes := stateRec 5 (beBytes 2 key ++ beBytes 2 n)

def recovRec (i : Nat) (r : Recov) : Bytes :=
  stateRec 6 (beBytes 2 i ++ beBytes 2 r.seq ++ beBytes 1 (b2n r.takeAny) ++ beBytes 3 0 ++ beBytes 8 r.history.toNat)

/-- The active set and the tick of a pending swap. -/
def State.configRec (s : State) : Bytes :=
  stateRec 7 (beBytes 8 s.act.setId.toNat ++ beBytes 8 (s.cfg.pending.elim 0 id))

/-- The words of output block n in force after the vote. -/
def State.outWord (s : State) (k : Nat) : BitVec 32 := (Tab.get none s.tke.voted k).getD (Tab.get 0 s.tke.force k)

/-- The committed state that the majority holds. -/
def State.stateWords (s : State) : Tab (BitVec 32) := match s.majority with | some m => (s.chan m).state | none => []

/-- Applies one record of the state copy. -/
def State.applyRecord (s : State) (r : Bytes) : State :=
  match byteAt r 0 with
  | 1 =>
    let k := (beAt r 4 4 - 0x20000) / 4
    let ws := wordsOf (slice r 8 64)
    { s with asd := { s.asd with image := Tab.setList 0 s.asd.image k ws
                                 written := mergeKeys s.asd.written ((List.range 16).map (k + ·)) } }
  | 2 =>
    let k := (beAt r 4 4 - 0x30000) / 4
    let ws := wordsOf (slice r 8 64)
    [0, 1, 2].foldl (fun s c => s.setChan c { s.chan c with state := Tab.setList 0 (s.chan c).state k ws }) s
  | 3 =>
    let m := beAt r 4 4
    (s.asd.held.filter (fun h => h.mref == m)).foldl State.dropHeld
      { s with asd := { s.asd with held := s.asd.held.filter (fun h => h.mref != m) } }
  | 4 => { s with asd := { s.asd with heads := Tab.set 0xFFFFFFFF s.asd.heads (beAt r 4 2) (beAt r 8 4) } }
  | 5 => s.setSeqNext (beAt r 4 2) (beAt r 6 2)
  | 6 =>
    let i := beAt r 4 2
    let x := s.recov i
    let y : Recov := { x with seq := beAt r 6 2, takeAny := byteAt r 8 != 0, history := BitVec.ofNat 64 (beAt r 12 8) }
    { s with fp := { s.fp with recov := Tab.set {} s.fp.recov i y } }
  | 7 => { s with asd := { s.asd with swapTick := beAt r 12 8 } }
  | _ => s

/-! Mirrors (R214 to R220) -/

/-- The ingress stamp of a mirror, in 2^-32 ns: the latest time at or before now with these 40 bits. -/
def State.mirrorStamp (s : State) (ns frac : Nat) : Nat :=
  let now := s.nowNs
  let x := now - now % 2 ^ 40 + ns
  (if now < x then x - 2 ^ 40 else x) * 2 ^ 32 + frac * 2 ^ 29

/-- Length of the tag block in front of a sentence. -/
def tagLenOf (b : Bytes) : Nat :=
  match b with
  | c :: cs => if c = 0x5C then (match cs.findIdx? (· == 0x5C) with | some i => i + 2 | none => 0) else 0
  | [] => 0

/-- The item of a mirror. -/
def State.mirrorItem (s : State) (r : Bytes) : Item :=
  let q := beAt r 6 2 % 8192
  let len := beAt r 8 2 % 16384
  { charges := [⟨4, 256, 0, cellsOf len⟩], copies := 1, cls := .assured, tc := if q < 2048 ∨ 6136 ≤ q then q % 8 else 0
    prio := byteAt r 10 % 16, inPort := beAt r 12 2 % 512, stream := beAt r 4 2, hasStream := true, maxLen := len
    stamp := s.mirrorStamp (beAt r 16 5) (byteAt r 21 % 8) }

/-- The mirror of an item begins: its cells and its descriptor, or the RESULT of its NACK (R215, Table ASD-3). -/
def State.mirrorBegin (s : State) (r : Bytes) : State × Nat :=
  let len := beAt r 8 2 % 16384
  let q := beAt r 6 2 % 8192
  if s.freeIn 4 256 0 < cellsOf len then (s, 1)
  else if s.qFull q then (s, 2)
  else
    let w := s.storeItem (s.mirrorItem r)
    match w.2 with
    | some d =>
      let h : Held := { mref := beAt r 0 4, key := beAt r 4 2, queue := q, len := len, prio := byteAt r 10 % 16
                        inPort := beAt r 12 2 % 512, desc := some d }
      ({ w.1 with asd := { w.1.asd with
        held := w.1.asd.held ++ [h], mrefNext := if h.mref < 2 ^ 31 then (h.mref + 1) % 2 ^ 31 else w.1.asd.mrefNext } }, 0)
    | none => (w.1, 2)

/-- Replaces the held item with an MREF. -/
def State.mapHeld (s : State) (m : Nat) (y : Held) : State :=
  { s with asd := { s.asd with held := s.asd.held.map (fun (x : Held) => if x.mref = m then y else x) } }

/-- The item is numbered by its stream: a frame by its own R-TAG, or where its stream generates numbers; a sentence always
(R136, R267). A frame whose bytes name another stream is the item of no stream. -/
def State.mirrorTag (s : State) (i : Item) (sentence : Bool) : Item :=
  let h := parseFrame i.bytes
  if sentence then { i with seqGen := true, tagLen := tagLenOf i.bytes }
  else
    let own : Bool := s.findStream h i.vid i.inPort == some i.stream
    let act := s.streamAct i.stream
    let j := { i with hasStream := own, seqGen := own && act.seqGen, recov := if own then act.recov else none }
    match h.rtag with
    | some t => { j with seq := t.2, seqValid := true }
    | none => j

/-- An item of 64 bytes or more with a good FCS: an Ethernet frame. -/
def goodFcs (f : Bytes) : Bool := decide (64 ≤ f.length) && leAt f (f.length - 4) 4 == crc32 (f.take (f.length - 4))

/-- A mirror whose item came as a frame by a port fails where its FCS does not match, but for an item that is poisoned
(R215). -/
def State.mirrorBad (s : State) (h : Held) : Bool :=
  match h.desc with
  | some d => h.inPort < 256 && (s.item d).poison.isEmpty && !goodFcs (s.item d).bytes
  | none => false

/-- A cell of a mirror is written; the last one completes it, and the answer is true. -/
def State.mirrorData (s : State) (r : Bytes) : State × Bool :=
  let m := beAt r 0 4
  match s.asd.held.find? (fun h => h.mref == m && !h.done) with
  | some h =>
    let bytes := h.bytes ++ r.drop 24
    let last := bitAt (byteAt r 11) 0
    if beAt r 22 2 * 256 ≠ h.bytes.length then (s, false)
    else
      let d := h.desc.getD 0
      let i := s.item d
      let tag := (parseFrame bytes).ctag
      let i1 := { i with bytes := bytes, lenValid := last, poison := if bitAt (byteAt r 11) 1 then i.cells.take 1 else i.poison
                         vid := tag.elim (if h.inPort < 256 then s.f Fd.FP_PORTn_CFG_PVID [h.inPort] else 1) (·.vid)
                         pcp := tag.elim (if h.inPort < 256 then s.f Fd.FP_PORTn_CFG_DEF_PCP [h.inPort] else 0) (·.pcp) }
      let h1 := { h with bytes := if last then [] else bytes, done := last }
      let i2 := if last then s.mirrorTag i1 (decide (256 ≤ h.inPort) && !goodFcs bytes) else i1
      ((s.mapHeld m h1).setItem d i2, last)
  | none => (s, false)

/-- A held mirror takes its number from this module's copy of SEQ_NEXT, where its stream generates numbers (R136, R216);
the answer is its number, or 0. -/
def State.numberHeld (s : State) (m : Nat) (advance : Bool) : State × Nat :=
  match s.asd.held.find? (fun h => h.mref == m) with
  | some h =>
    let d := h.desc.getD 0
    let i := s.item d
    if i.seqValid ∨ !i.seqGen then (s, i.seq)
    else
      let q := s.seqNext h.key
      let s1 := s.mapHeld m { h with seq := some q }
      let s2 := s1.setItem d { i with seq := q, seqValid := true }
      (if advance then s2.setSeqNext h.key (q + 1) else s2, q)
  | none => (s, 0)

/-- Answers a mirror (R215, R216). -/
def State.answer (s : State) (m result seq : Nat) : State :=
  let s1 := s.pairSend 2 [beBytes 4 m ++ beBytes 1 result ++ beBytes 1 0 ++ beBytes 2 seq]
  if result = 0 then s1.asdCount 1 else s1.asdCount 3

/-- A complete mirror is answered: ACK with its number, or where its FCS fails NACK, whose RESULT the spec does not give:
a free choice of the two (R215, R216, log entry 135). -/
def State.mirrorWhole (s : State) (m : Nat) : State :=
  match s.asd.held.find? (fun h => h.mref == m) with
  | some h =>
    if s.mirrorBad h then
      let x := s.drawFree
      let s1 := { x.2 with asd := { x.2.asd with held := x.2.asd.held.filter (fun y => y.mref != m) } }
      (s1.dropHeld h).answer m (1 + x.1.toNat % 2) 0
    else
      let n := s.numberHeld m true
      n.1.answer m 0 n.2
  | none => s

/-- One MIRROR record at the standby. -/
def State.mirror (s : State) (r : Bytes) : State :=
  let b := if beAt r 22 2 = 0 then s.mirrorBegin r else (s, 0)
  if b.2 ≠ 0 then b.1.answer (beAt r 0 4) b.2 0
  else
    let d := b.1.mirrorData r
    if d.2 then d.1.mirrorWhole (beAt r 0 4) else d.1

def execMirrorReceived (t : Nat) (payload : Bytes) (s : State) : Out :=
  .next ((s.clock t).pairFrame 1 payload (fun s =>
    if s.role = 2 then (recordsOf payload).foldl State.mirror s else s))

/-- A waiting item is accepted with the number that this duty issues; a partner that gave another one is resynchronised
(R4, R5, R216, R248). -/
def State.takeAck (s : State) (o : MirrorOut) (seq : Nat) : State :=
  let i := s.item o.desc
  let diverge : Bool := !i.seqValid && i.seqGen && s.seqNext o.key != seq
  let s1 := { s with asd := { s.asd with out := s.asd.out.filter (fun x => x.mref != o.mref)
                                         mrefOf := Tab.set 0 s.asd.mrefOf o.desc (o.mref + 1) } }
  let s2 := (s1.accept o.desc o.key o.queues o.src).asdCount 2
  if diverge then
    let s3 := (s2.raise Fd.ASD_EVT_SEQ_DIVERGE [] o.key).redundantDown
    { s3 with asd := { s3.asd with resync := true } }
  else s2

/-- An item whose queue has become full since it was mirrored is refused, and withdrawn with the later ones of its stream
(R168, R217). -/
def State.ackItem (s : State) (o : MirrorOut) (seq : Nat) : State :=
  match s.fullOf o.queues with
  | [] => s.takeAck o seq
  | full => (full.foldl State.queueOverrun s).refuseFrom o

/-- An ACK accepts its item where it arrives before the instant that ends the write tick (R214). -/
def State.ackRecord (s : State) (r : Bytes) : State :=
  match s.asd.out.find? (fun o => o.mref == beAt r 0 4) with
  | some o => if byteAt r 4 = 0 ∧ s.tu.tick ≤ o.wtick then s.ackItem o (beAt r 6 2) else s
  | none => s

def execAckReceived (t : Nat) (payload : Bytes) (s : State) : Out :=
  .next ((s.clock t).pairFrame 2 payload (fun s =>
    if s.role = 1 then (recordsOf payload).foldl State.ackRecord s else s))

/-- A NACK refuses its item and every later mirrored item of the same stream (R217). -/
def State.nackRecord (s : State) (r : Bytes) : State :=
  let m := beAt r 0 4
  if byteAt r 4 = 0 then s
  else
    match s.asd.out.find? (fun o => o.mref == m) with
    | some o => (s.asdCount 3).refuseFrom o
    | none => s

def execNackReceived (t : Nat) (payload : Bytes) (s : State) : Out :=
  .next ((s.clock t).pairFrame 2 payload (fun s =>
    if s.role = 1 then (recordsOf payload).foldl State.nackRecord s else s))

/-- A withdrawn mirror is dropped; one that was acknowledged gives its number back (R217). -/
def State.withdrawOne (s : State) (m : Nat) : State :=
  match s.asd.held.find? (fun h => h.mref == m) with
  | some h =>
    let s1 := { s with asd := { s.asd with held := s.asd.held.filter (fun x => x.mref != m) } }
    let s2 := if h.seq.isSome then s1.setSeqNext h.key (s1.seqNext h.key + 65535) else s1
    (s2.dropHeld h).asdCount 4
  | none => s

def State.withdrawRecord (s : State) (r : Bytes) : State :=
  (List.range (beAt r 0 2)).foldl (fun s i => s.withdrawOne (beAt r (4 + 4 * i) 4)) s

def execWithdrawReceived (t : Nat) (payload : Bytes) (s : State) : Out :=
  .next ((s.clock t).pairFrame 3 payload (fun s =>
    if s.role = 2 then (recordsOf payload).foldl State.withdrawRecord s else s))

/-- Items whose write tick has ended without an ACK are refused and withdrawn (R217, R218). -/
def execAcceptanceDeadline (t : Nat) (s : State) : Out :=
  let s := s.clock t
  .next (s.refuseOut (fun o => decide (o.wtick < s.tu.tick)))

/-! State copy (R225, R226) -/

/-- STATE records are buffered until the TICK_END of their tick. -/
def execStateReceived (t : Nat) (payload : Bytes) (s : State) : Out :=
  .next ((s.clock t).pairFrame 4 payload (fun s =>
    if s.role = 2 then
      let rs := recordsOf payload
      ({ s with asd := { s.asd with recs := s.asd.recs ++ rs.map (fun r => (pfTick payload, r)) } }).asdCount 5
        (recordBytes rs)
    else s))

/-- The CRC-32 of TICK_END: record headers and records in the order in which they were sent (R224). -/
def stateCrc (rs : List Bytes) : Nat := crc32 (rs.flatMap (fun r => beBytes 2 r.length ++ beBytes 2 0 ++ r))

/-- The standby of a resynchronisation that runs is redundant once it holds all of it and has applied a TICK_END (R241). -/
def State.resyncDone (s : State) : State :=
  if s.f Fd.ASD_STAT_RESYNC = 1 ∧ s.asd.resyncEnd then (s.set0 Fd.ASD_STAT_RESYNC 2).redundantUp else s

/-- TICK_END(N) applies the records of tick N together where its CRC-32 matches (R226). After a swap a standby whose set
is not the duty's is resynchronised (R383). -/
def State.tickEnd (s : State) (r : Bytes) : State :=
  let n := beAt r 0 8
  let rs := (s.asd.recs.filter (fun x => x.1 == n)).map (·.2)
  let s1 := { s with asd := { s.asd with recs := s.asd.recs.filter (fun x => n < x.1), lastEnd := some n } }
  let s2 := ((s1.set0 Fd.ASD_STAT_MISS 0).set0 Fd.ASD_STAT_HOLDUP_PARTNER (byteAt r 20 % 2)).set0 Fd.ASD_STAT_ISOLATED 0
  if s.asd.setCheck ∧ beAt r 12 8 ≠ s.act.setId.toNat then
    (({ s2 with asd := { s2.asd with setCheck := false } }).redundantDown).set0 Fd.ASD_STAT_RESYNC 1
  else if stateCrc rs = beAt r 8 4 then
    let s2 := { s2 with asd := { s2.asd with setCheck := false } }
    let s3 := { s2 with asd := { s2.asd with written := [] } }
    let s4 : State := rs.foldl State.applyRecord s3
    ({ s4 with asd := { s4.asd with applied := some n } }).resyncDone
  else ((s2.raise Fd.ASD_EVT_STATE_CRC).redundantDown).set0 Fd.ASD_STAT_RESYNC 1

def execTickEndReceived (t : Nat) (payload : Bytes) (s : State) : Out :=
  .next ((s.clock t).pairFrame 5 payload (fun s =>
    if s.role = 2 then (recordsOf payload).foldl State.tickEnd s else s))

/-! Resynchronisation (R241) -/

/-- The queue of an item: one that holds an entry of it, the port queue of its copy in a
replay store, or the queue of the recovery function that holds it. -/
def State.queueOf (s : State) (d : Nat) : Option Nat :=
  match s.ldr.queues.find? (fun q => q.2.entries.any (fun e => e.desc == d)) with
  | some q => some q.1
  | none =>
    match s.ldr.hop.find? (fun h => h.2.replay.any (fun r => r.desc == d)) with
    | some h => some (8 * (h.1 / 2) + (s.item d).tc)
    | none => s.fp.recov.findSome? (fun r => (r.2.held.find? (fun h => h.2.1 == d)).map (fun h => h.2.2.1.headD 0))

/-- The number record and the mirror records of an accepted item. -/
def State.resyncItem (s : State) (d : Nat) : State × List Bytes :=
  let i := s.item d
  match s.queueOf d with
  | some q =>
    let m := match Tab.get 0 s.asd.mrefOf d with | 0 => s.asd.mrefNext | m + 1 => m
    let s1 := { s with asd := { s.asd with
      mrefNext := if Tab.get 0 s.asd.mrefOf d = 0 then (m + 1) % 2 ^ 31 else s.asd.mrefNext
      mrefOf := Tab.set 0 s.asd.mrefOf d (m + 1) } }
    let cells := (List.range (cellsOf i.bytes.length)).map (fun c =>
      stateRec 0x10 (s.mirrorCell i m i.key q (s.tu.tick % 65536) c (!i.poison.isEmpty) false))
    (s1, if i.seqValid then streamRec i.key i.seq :: cells else cells)
  | none => (s, [])

/-- Every unreleased assured item that this module has accepted. -/
def State.acceptedItems (s : State) : List Nat :=
  (s.ldr.items.filter (fun e => e.2.cls = .assured ∧ e.2.lenValid ∧ 0 < e.2.refs)).map (·.1)

/-- The duty sends the bulk state and the mirrors (R241). -/
def State.sendResync (s : State) : State :=
  let out := (List.range 1024).map (fun n => blockRec 1 0x20000 n (fun k => Tab.get 0 s.tke.force k))
  let st := (List.range 1024).map (fun n => blockRec 2 0x30000 n (fun k => Tab.get 0 s.stateWords k))
  let items : State × List Bytes := s.acceptedItems.foldl (fun a d =>
    let r := a.1.resyncItem d
    (r.1, a.2 ++ r.2)) (s, [])
  let nums := s.fp.seqNext.map (fun e => streamRec e.1 e.2)
  let recs := (s.fp.recov.filter (fun e => (s.recovCfg e.1).egress)).map (fun e => recovRec e.1 e.2)
  let all := out ++ st ++ items.2 ++ nums ++ recs ++ [s.configRec]
  let s1 := { items.1 with asd := { items.1.asd with resync := false, resyncAt := some s.tu.tick } }
  let s2 : State := (chunks 32 all).foldl (fun s c => s.pairSend 12 c) s1
  (s2.asdCount 15 (recordBytes all)).set0 Fd.ASD_STAT_RESYNC 1

/-- A record of a type that Table ASD-10 does not list: it carries a part of the duty's shadow set (R383, log entry 111). -/
def shadowRec (r : Bytes) : Bool := decide (7 < byteAt r 0) && byteAt r 0 != 0x10

/-- What a received record makes of the shadow set. -/
def State.shadowRecord (s : State) (r : Bytes) : State :=
  match Config.shadowRecord s.shd r with
  | some c => { s with shd := c }
  | none => s

/-- The duty sends its shadow set to the standby (R383). -/
def State.sendShadow (s : State) : State :=
  if s.mirroring then
    let rs := Config.shadowRecords s.shd
    let s1 : State := (chunks 32 rs).foldl (fun s c => s.pairSend 12 c) s
    s1.asdCount 15 (recordBytes rs)
  else s

/-- The first block of the output image begins a resynchronisation, and the configuration record ends it: the duty sends
them in this order, which the spec leaves open (log entry 139). -/
def State.resyncMark (s : State) (r : Bytes) : State :=
  if byteAt r 0 = 1 ∧ beAt r 4 4 = 0x20000 then
    { s with asd := { s.asd with resyncEnd := false } }.set0 Fd.ASD_STAT_RESYNC 1
  else if byteAt r 0 = 7 then { s with asd := { s.asd with resyncEnd := true } }
  else s

/-- One RESYNC record: bulk state, or a mirror that takes the number of the record before it. -/
def State.resyncRecord (s : State) (r : Bytes) : State :=
  if byteAt r 0 = 0x10 then
    let m := r.drop 4
    let s0 := if beAt m 22 2 = 0 then
        (s.asd.held.filter (fun h => h.mref == beAt m 0 4)).foldl State.dropHeld
          { s with asd := { s.asd with held := s.asd.held.filter (fun h => h.mref != beAt m 0 4) } }
      else s
    let b := if beAt m 22 2 = 0 then s0.mirrorBegin m else (s0, 0)
    if b.2 ≠ 0 then b.1.set0 Fd.ASD_STAT_RESYNC 3
    else
      let d := b.1.mirrorData m
      if d.2 then ((d.1.numberHeld (beAt m 0 4) false).1).asdCount 1 else d.1
  else if shadowRec r then s.shadowRecord r
  else (s.resyncMark r).applyRecord r

def execResyncReceived (t : Nat) (payload : Bytes) (s : State) : Out :=
  .next ((s.clock t).pairFrame 12 payload (fun s =>
    if s.role = 2 then
      let rs := recordsOf payload
      let s1 := if rs.all shadowRec ∨ s.f Fd.ASD_STAT_RESYNC = 3 then s else s.set0 Fd.ASD_STAT_RESYNC 1
      rs.foldl State.resyncRecord (s1.asdCount 15 (recordBytes rs))
    else s))

/-! Health (R213, R227) -/

/-- TESTS of the health report: Larder rotation, Gingham test, voter self-test, lanes adapted (Table ASD-6). -/
def State.tests (s : State) : Nat :=
  let lanes := s.ports.all (fun n => !s.portUp n || s.fb Fd.PGn_Ll_STAT_ADAPT [n / 8, n % 8])
  b2n (!s.fb Fd.LDR_STAT_SPARE_LOST) + 2 * b2n (decide (s.f Fd.GNG_STAT_TEST ≠ 3))
    + 4 * b2n (!s.asd.testFail && [0, 1, 2].all (fun c => (s.chan c).out != .failed)) + 8 * b2n lanes

/-- The health report (Table ASD-6); the temperature is a reading. -/
def State.healthRecord (s : State) (temp : Nat) : Bytes :=
  let vc (c : Nat) : Nat := match (s.chan c).out with | .none => 0 | .resync _ => 1 | .test _ => 2 | .failed => 3
  let up := sumNat (s.upSides.map (2 ^ ·))
  let supply := b2n (s.fb Fd.POR_STAT_HOLDUP) + 2 * b2n (!bitAt s.por.railsOut 0) + 4 * s.f Fd.FIO_STAT_VLS
  beBytes 8 s.tu.tick ++ beBytes 4 s.epoch ++ beBytes 1 s.role ++ beBytes 1 (vc 0 + 4 * vc 1 + 16 * vc 2) ++ beBytes 2 up
    ++ beBytes 4 ((s.asd.lastEnd.getD 0) % 2 ^ 32) ++ beBytes 1 s.tests ++ beBytes 1 supply
    ++ beBytes 1 (s.f Fd.ASD_STAT_RESYNC) ++ beBytes 1 0 ++ beBytes 2 (s.f Fd.CST_STAT_POSITION) ++ beBytes 2 temp
    ++ beBytes 4 (b2n s.errN + 2 * b2n (s.fb Fd.EVT_STAT_LOG_FAIL))

/-- This module is the preferred side (R209). -/
def State.preferred (s : State) : Bool := s.f Fd.ASD_STAT_SIDE == s.f Fd.ASD_CFG_PREF

/-- The role of a module that hears its partner in a role, on a side: standby of a duty; else duty on the preferred side,
or with the lower EUI-64 where both report the same side (R210). -/
def State.settleWith (s : State) (role : Nat) (side : Bool) (eui : BitVec 64) : State :=
  let same : Bool := b2n side == s.f Fd.ASD_STAT_SIDE
  let s1 := if same then s.raise Fd.ASD_EVT_SIDE_CONFLICT else s
  if role ≠ 1 ∧ (if same then decide (ownEui.toNat < eui.toNat) else s.preferred) then s1.becomeDuty else s1.becomeStandby

/-- What a health report says of the roles (R210, R222, R240). Of two duties with one EPOCH, which no rule names, that on
the side that is not preferred fences itself and becomes standby, as no higher EPOCH will follow (DESIGN CHOICE, log entry
152). -/
def State.healthRole (s : State) (role epoch : Nat) (side : Bool) : State :=
  if s.asd.waiting.isSome then s.settleWith role side (s.rd64 Reg.ASD_PARTNER_LO Reg.ASD_PARTNER_HI)
  else if s.role = 3 ∧ role = 1 ∧ serialAfter 32 epoch s.epoch then
    (s.wr Reg.ASD_EPOCH [] (BitVec.ofNat 32 epoch)).becomeStandby
  else if s.role = 1 ∧ role = 1 ∧ epoch = s.epoch ∧ !s.preferred then s.fenceNow.becomeStandby
  else s

/-- What a health report does to redundancy: a failed test ends it, a duty resynchronises a standby that is not done,
and a standby that is done restores it (R213, R241). -/
def State.healthRedundancy (s : State) (role tests resync : Nat) : State :=
  let ok : Bool := tests % 16 == 15 && s.tests == 15
  if s.role = 1 ∧ role = 2 then
    let fresh : Bool := match s.asd.resyncAt with | some n => decide (n + 2 ≤ s.tu.tick) | none => true
    if !fresh then s
    else if resync ≠ 2 ∨ s.asd.resync then s.redundantDown.sendResync
    else if ok then (s.set0 Fd.ASD_STAT_RESYNC 2).redundantUp
    else s.redundantDown
  else if s.role = 2 ∧ role = 1 then
    if !ok then s.redundantDown else if s.f Fd.ASD_STAT_RESYNC = 2 then s.redundantUp else s
  else s

def State.health (s : State) (side : Bool) (r : Bytes) : State :=
  let role := byteAt r 12
  let s1 := { s with asd := { s.asd with
    health := some s.tickCount, partnerRole := role, partnerEnd := if byteAt r 22 = 2 then some (beAt r 16 4) else none } }
  let s2 := s1.set0 Fd.ASD_STAT_HOLDUP_PARTNER (byteAt r 21 % 2)
  (s2.healthRole role (beAt r 8 4) side).healthRedundancy role (byteAt r 20) (byteAt r 22)

/-- side: the side that the partner reports, for which Table ASD-6 has no field (log entry 152). -/
def execHealthReceived (t : Nat) (side : Bool) (payload : Bytes) (s : State) : Out :=
  .next ((s.clock t).pairFrame 6 payload (fun s => (recordsOf payload).foldl (fun s r => s.health side r) s))

/-- A non-preferred module that hears no partner for 16 ticks after READY becomes duty, where one of its ring or branch
ports other than the direct link is up (R210). -/
def execDutyTimeout (t : Nat) (s : State) : Out :=
  let s := s.clock t
  match s.asd.waiting with
  | some n =>
    if n + 16 ≤ s.tickCount ∧ s.upSides.any (fun k => s.asd.direct != some k) then .next s.becomeDuty else .next s
  | none => .next s

/-! Failover (R236 to R240) -/

/-- RELINQUISH: the standby takes over at the next instant, or at the one after where less than 2 us are left (R237). -/
def State.relinquished (s : State) : State :=
  if s.role = 2 then
    let n := if s.tickPast (s.period - 1999) then s.tu.tick + 2 else s.tu.tick + 1
    { s with asd := { s.asd with takeover := some (match s.asd.takeover with | some m => min m n | none => n) } }
  else s

def execRelinquishReceived (t : Nat) (payload : Bytes) (s : State) : Out :=
  .next ((s.clock t).pairFrame 7 payload State.relinquished)

/-- A ring or branch port other than the direct link is up for the consist. -/
def State.otherUp (s : State) : Bool := s.upSides.any (fun k => s.asd.direct != some k)

/-- At staging close with two TICK_ENDs missing and no HELLO on the direct link, the standby declares its partner lost,
or ISOLATED where it has no other port (R236). -/
def execPartnerLost (t : Nat) (s : State) : Out :=
  let s := s.clock t
  if s.role = 2 ∧ s.tke.staging ∧ 2 ≤ s.f Fd.ASD_STAT_MISS ∧ s.noDirectHello 1 ∧ s.asd.takeover.isNone then
    if s.otherUp then
      let s1 := s.raise Fd.ASD_EVT_PARTNER_LOST
      .next { s1 with asd := { s1.asd with takeover := some (s.tu.tick + 1) } }
    else if s.fb Fd.ASD_STAT_ISOLATED then .next s
    else .next ((s.set0 Fd.ASD_STAT_ISOLATED 1).raise Fd.ASD_EVT_ISOLATED)
  else .next s

/-- The listeners of an assured sentence: those of the talker of its stream (R257, R260). -/
def State.sentenceLsns (s : State) (key : Nat) (i : Item) : List LsnCopy :=
  let rows := s.act.sen
  let of_ (n : Nat) : List LsnCopy :=
    let x : Sentence := { talker := n, tag := i.bytes.take i.tagLen, body := i.bytes.drop i.tagLen, stamp := i.stamp, assign := 0
                          rows := rows }
    match s.matchFilter x (s.talkerGrammar rows n) with
    | some fi => ((routeListeners rows 4 (rowF (senRow rows 1 fi) 4 9 0)).eraseDups).filterMap (fun l =>
        (listenerQueue rows l).map (lsnCopy rows l))
    | none => []
  ((List.range 512).filter (fun n => s.fb Fd.SEN_TALKt_CFG_VALID [n] && s.talkerAssured n &&
    s.f Fd.SEN_TALKt_LINK_STREAM [n] == key)).flatMap of_

/-- The queues of a mirrored frame: those of its destination (R141). -/
def State.frameQueues (s : State) (i : Item) : List Nat :=
  let f := parseFrame i.bytes
  let v := s.fpw (0x20000 + 4 * i.vid)
  match s.destination (if i.hasStream then some (s.streamAct i.stream) else none) i.inPort (bits v 27 16) f.da (bits v 13 0)
      .assured with
  | some d => (d.1.filter s.isPort).map (fun p => 8 * p + i.tc) ++ d.2
  | none => []

/-- A mirrored item is a frame, not a sentence. -/
def isFrame (i : Item) : Bool := goodFcs i.bytes || decide (i.inPort < 256)

/-- The queues of a held item: its MIRROR names one of them; a sentence of several listeners, or a frame of several ports,
has the others too, where the active tables name that one among them (R238, R268, DEDUCED, log entry 90). -/
def State.heldQueues (s : State) (h : Held) (i : Item) : List Nat :=
  if !h.queues.isEmpty then h.queues
  else
    let qs := if isFrame i then s.frameQueues i else (s.sentenceLsns h.key i).map (·.queue)
    if qs.contains h.queue then qs else [h.queue]

/-- Held items go to their queues as accepted items, beside the copies of an earlier duty that go on; an incomplete mirror is
dropped (R238). -/
def State.enqueueHeld (s : State) (h : Held) : State :=
  match h.done, h.desc with
  | true, some d =>
    let i := s.item d
    let qs := s.heldQueues h i
    let s1 := s.setItem d { i with refs := max 1 i.refs - 1 + qs.length, copies := i.copies - 1 + qs.length
                                   lsns := if isFrame i then i.lsns else s.sentenceLsns h.key i }
    let s2 := { s1 with asd := { s1.asd with mrefOf := Tab.set 0 s1.asd.mrefOf d (h.mref + 1) } }
    qs.foldl (fun s q => s.pushEntry q d) s2
  | _, _ => s.dropHeld h

/-- Streams of class express or standard that generate numbers. -/
def State.genStreams (s : State) : List Nat :=
  let ks := mergeKeys ((s.act.fp.filter (fun e => 0x200000 ≤ 4 * e.1 && 4 * e.1 < 0x400000)).map
    (fun e => (4 * e.1 - 0x200000) / 32)) []
  ks.filter (fun i => bitAt (s.streamWord i 4) 31 && (s.streamAct i).seqGen && (s.streamAct i).cls != 1)

/-- The leases of a module start free (R247, Table ASD-8): its far-bus locks, with their clock line or chip select, its
semaphores, which go to their next waiters, its service queues and its host rings. -/
def State.freeLeases (s : State) : State :=
  let unlock (s : State) (b : Nat) : State :=
    let u := s.bus b
    if u.lock.isSome then
      let s1 := s.setBus b { u with lock := none, held := none }
      if u.held.isSome then s1.emit (.sideBus b .stop) else s1
    else s
  let s1 : State := (keys s.brg.buses).foldl unlock s
  let s2 : State := (keys s1.brg.sems).foldl (fun s k => if (s.sema k).owner.isSome then s.grantNext k else s) s1
  let s3 : State := (keys s2.hst.rings).foldl (fun s k => if (s.ring k).en then s.stopRing k else s) s2
  { s3 with ldr := { s3.ldr with owners := [] } }

/-- The work of a new duty starts: EPOCH, role, the output image of the last tick that it holds, the held items, the skip
of the generating streams, its interfaces, and leases that start free (R238, R242, R247). The input images frozen between
the failed duty's last TICK_END and this tick were shown to no task (R238). -/
def State.newDuty (s : State) : State :=
  let s1 := (s.freeLeases.wr Reg.ASD_EPOCH [] (BitVec.ofNat 32 (s.epoch + 1))).setRole 1
  let voted : Tab (Option (BitVec 32)) :=
    s.asd.written.foldl (fun m k => Tab.set none m k (some (Tab.get 0 s.asd.image k))) []
  let w := s1.tke.asm.words
  let s2 := { s1 with tke := { s1.tke with force := s.asd.image, voted := voted
                                           asm := { s1.tke.asm with words := Tab.set 0 w 6 (Tab.get 0 w 6 ||| 2#32) } }
                      asd := { s1.asd with takeover := none, held := [], out := [] } }
  let s3 := s2.fbActivateAll.uaGoOnAll.fbSlots.outputSentences
  let s4 := { s3 with tke := { s3.tke with voted := [] }, fio := { s3.fio with latchDue := [0, 1] } }
  let s5 : State := s.asd.held.foldl State.enqueueHeld s4.sendTickFrames
  let s6 : State := s5.genStreams.foldl (fun s k => s.setSeqNext k (s.seqNext k + (Config.seqSkip s.act.setId k).toNat)) s5
  (s6.wr64 Reg.ASD_TAKEOVER_LO Reg.ASD_TAKEOVER_HI [] (BitVec.ofNat 64 s.tu.tick)).wr Reg.ASD_GAP []
    (BitVec.ofNat 32 (s.raw + 12000 - s.asd.heardRaw))

/-- The takeover instant (R238). -/
def execTakeover (t : Nat) (s : State) : Out :=
  let s := s.clock t
  match s.asd.takeover with
  | some n =>
    if n ≤ s.tu.tick ∧ s.role = 2 then .next ((((s.redundantDown).newDuty).asdCount 12).raise Fd.ASD_EVT_TAKEOVER)
    else .next s
  | none => .next s

/-- No HEALTH, no HELLO on the direct link and no other port up for two whole ticks: the duty fences itself (R240). -/
def execFenceTimeout (t : Nat) (s : State) : Out :=
  let s := s.clock t
  let health : Bool := match s.asd.health with | some n => decide (n + 3 ≤ s.tickCount) | none => true
  if s.role = 1 ∧ s.asd.roleTick + 3 ≤ s.tickCount ∧ health ∧ s.noDirectHello 2 ∧ !s.otherUp ∧
      s.asd.otherTick + 3 ≤ s.tickCount then .next s.fenceNow
  else .next s

/-- FAB sees the fabric-control link down for P: the duty fences itself (R24, R240). -/
def execFabricLinkDownFence (t : Nat) (s : State) : Out :=
  let s := s.clock t
  match s.asd.linkDown with
  | some a => if s.elapsed a s.period then .next s.fenceNow else .next s
  | none => .next s

/-! Handover (R242) -/

/-- The duty sends HANDOVER naming the current tick + 2. -/
def State.startHandover (s : State) (auto : Bool) : State :=
  let n := s.tu.tick + 2
  let s1 := ({ s with asd := { s.asd with handover := some (n, auto) } }).set0 Fd.ASD_STAT_HANDOVER_PENDING 1
  s1.pairSend 8 [beBytes 8 n]

/-- A duty on the non-preferred side that has been redundant for REVERT_HOLD ticks starts a handover. -/
def execRevertHoldExpiry (t : Nat) (s : State) : Out :=
  let s := s.clock t
  if s.role = 1 ∧ !s.preferred ∧ s.fb Fd.ASD_CFG_REVERT_EN ∧ s.fb Fd.ASD_STAT_REDUNDANT ∧ s.asd.handover.isNone ∧
      max 64 (s.f Fd.ASD_CFG_REVERT_HOLD) ≤ s.asd.redTicks then .next (s.startHandover true)
  else .next s

/-- ASD_CMD.HANDOVER (R242). -/
def State.cmdHandover (s : State) : State :=
  if s.asd.handover.isSome then s
  else if !s.fb Fd.ASD_STAT_REDUNDANT then (s.set0 Fd.ASD_CMD_STAT_STATE 3).set0 Fd.ASD_CMD_STAT_CODE 1
  else if s.role ≠ 1 then (s.set0 Fd.ASD_CMD_STAT_STATE 3).set0 Fd.ASD_CMD_STAT_CODE 2
  else ((s.set0 Fd.ASD_CMD_STAT_STATE 1).set0 Fd.ASD_CMD_STAT_CODE 0).startHandover false

def execAsdHandover (t : Nat) (party : Party) (s : State) : Out := .next ((s.clock t).hostWrite party).cmdHandover

def execHandoverReceived (t : Nat) (payload : Bytes) (s : State) : Out :=
  .next ((s.clock t).pairFrame 8 payload (fun s =>
    if s.role = 2 then
      (recordsOf payload).foldl (fun s r =>
        ({ s with asd := { s.asd with handover := some (beAt r 0 8, false) } }).set0 Fd.ASD_STAT_HANDOVER_PENDING 1) s
    else s))

/-- An accepted item of the duty that becomes standby is held as a mirror of the new duty's item. -/
def State.holdAccepted (s : State) (d : Nat) : State :=
  match Tab.get 0 s.asd.mrefOf d, s.queueOf d with
  | m + 1, some q =>
    let i := s.item d
    let h : Held := { mref := m, key := i.key % 65536, queue := q, len := i.bytes.length, prio := i.prio, inPort := i.inPort
                      desc := some d, done := true, seq := some i.seq }
    { s with asd := { s.asd with held := s.asd.held ++ [h], mrefOf := Tab.erase s.asd.mrefOf d } }.withdrawCopies d 1
  | _, _ => s

/-- A handover is complete: HANDOVERS, the event and the command. -/
def State.handoverDone (s : State) : State :=
  let s1 := (s.asdCount 14).raise Fd.ASD_EVT_HANDOVER
  if s1.f Fd.ASD_CMD_STAT_STATE = 1 then s1.set0 Fd.ASD_CMD_STAT_STATE 2 else s1

/-- The duty hands over: its unreleased items become mirrors, and its interfaces fall silent. -/
def State.oldDuty (s : State) : State :=
  let s0 := s.refuseOut (fun _ => true)
  let s1 : State := (keys s0.asd.mrefOf).foldl State.holdAccepted s0
  let s2 := (s1.wr Reg.ASD_EPOCH [] (BitVec.ofNat 32 (s.epoch + 1))).setRole 2
  let s3 := { s2 with asd := { s2.asd with image := s.tke.force, written := [], lastEnd := none, releases := [] } }
  ((s3.set0 Fd.ASD_STAT_RESYNC 2).set0 Fd.ASD_STAT_MISS 0 |>.wr64 Reg.ASD_TAKEOVER_LO Reg.ASD_TAKEOVER_HI []
    (BitVec.ofNat 64 s.tu.tick)).fbSilenceAll.uaHoldAll.handoverDone

/-- The handover is abandoned with ABANDONED; an automatic one waits a further REVERT_HOLD. -/
def State.handoverAbandoned (s : State) (auto : Bool) : State :=
  let s1 := (s.set0 Fd.ASD_CMD_STAT_STATE 3).set0 Fd.ASD_CMD_STAT_CODE 3
  if auto then { s1 with asd := { s1.asd with redTicks := 0 } } else s1

/-- At instant T the roles swap where TICK_END(T - 1) has been applied, as the partner's last HEALTH says at the duty;
otherwise the handover is abandoned (R227, R242; DEDUCED, log entry 162). -/
def execHandoverInstant (t : Nat) (s : State) : Out :=
  let s := s.clock t
  match s.asd.handover with
  | some (n, auto) =>
    if n ≤ s.tu.tick then
      let s1 := ({ s with asd := { s.asd with handover := none } }).set0 Fd.ASD_STAT_HANDOVER_PENDING 0
      if s.role = 2 then
        if s.asd.applied = some (n - 1) then .next s1.newDuty.handoverDone else .next s1
      else if s.role = 1 then
        if s.asd.partnerEnd = some ((n - 1) % 2 ^ 32) then .next s1.oldDuty else .next (s1.handoverAbandoned auto)
      else .next s1
    else .next s
  | none => .next s

/-! Poisoned items (R182, R220) -/

/-- The descriptor of the item that an MREF names: a held one, or one of this duty's. -/
def State.byMref (s : State) (m : Nat) : Option Nat :=
  match s.asd.held.find? (fun h => h.mref == m && h.done) with
  | some h => h.desc
  | none => (s.asd.mrefOf.find? (fun e => e.2 == m + 1)).map (·.1)

/-- A FETCH is answered with the cells of the item, or with NOT_HELD. -/
def State.fetch (s : State) (r : Bytes) : State :=
  let m := beAt r 0 4
  match s.byMref m with
  | some d =>
    let i := s.item d
    let cell (c : Nat) : Bytes := s.mirrorCell i m i.key ((s.queueOf d).getD 0) (s.tu.tick % 65536) c
      (!i.poison.isEmpty) false
    ((List.range (cellsOf i.bytes.length)).foldl (fun s c => s.pairSend 10 [cell c]) s).asdCount 10
  | none => (s.pairSend 10 [s.mirrorCell {} m 0 0 0 0 false true]).asdCount 10

def execFetchReceived (t : Nat) (payload : Bytes) (s : State) : Out :=
  .next ((s.clock t).pairFrame 9 payload (fun s => (recordsOf payload).foldl State.fetch s))

/-- A poisoned item that the partner does not hold is lost under the unpaired rule of R182. -/
def State.losePoisoned (s : State) (d : Nat) : State :=
  let q := (s.queueOf d).getD 0
  let s1 : State := (keys s.ldr.queues).foldl (fun s q => s.removeEntry q d) s
  (s1.freeItem d).raise Fd.LDR_EVT_ASSURED_POISON [] q |>.assertErr

/-- One FETCH_DATA record: a cell of the partner's copy, or NOT_HELD. -/
def State.fetchData (s : State) (r : Bytes) : State :=
  let m := beAt r 0 4
  if s.asd.fetching.contains (m + 1) then
    match s.byMref m with
    | some d =>
      let i := s.item d
      let patched (b : Bytes) : Bytes := b.take (256 * beAt r 22 2) ++ r.drop 24 ++ b.drop (256 * beAt r 22 2 + (r.drop 24).length)
      let done (s : State) : State :=
        { s with asd := { s.asd with fetching := s.asd.fetching.filter (fun x => x != m + 1) } }
      if bitAt (byteAt r 11) 2 ∨ bitAt (byteAt r 11) 1 then (done s).losePoisoned d
      else if bitAt (byteAt r 11) 0 then done (s.setItem d { i with bytes := patched i.bytes, poison := [] })
      else s.setItem d { i with bytes := patched i.bytes }
    | none => s
  else s

def execFetchDataReceived (t : Nat) (payload : Bytes) (s : State) : Out :=
  .next ((s.clock t).pairFrame 10 payload (fun s => (recordsOf payload).foldl State.fetchData s))

/-! The partner's log (R377) -/

/-- A log entry from its 32 bytes (Table CFG-4). -/
def logOf (b : Bytes) : LogEntry :=
  { time := BitVec.ofNat 64 (leAt b 0 8), seq := BitVec.ofNat 32 (leAt b 8 4), code := BitVec.ofNat 16 (leAt b 12 2)
    sev := BitVec.ofNat 8 (leAt b 14 1), flags := BitVec.ofNat 8 (leAt b 15 1), repeats := BitVec.ofNat 16 (leAt b 16 2)
    boot := BitVec.ofNat 16 (leAt b 18 2), step := BitVec.ofNat 16 (leAt b 20 2), position := BitVec.ofNat 16 (leAt b 22 2)
    arg0 := BitVec.ofNat 32 (leAt b 24 4), arg1 := BitVec.ofNat 32 (leAt b 28 4) }

def execLogReceived (t : Nat) (payload : Bytes) (s : State) : Out :=
  .next ((s.clock t).pairFrame 11 payload (fun s =>
    (recordsOf payload).foldl (fun s r => { s with evt := { s.evt with plog := (logOf r :: s.evt.plog).take 1024 } }) s))

/-! The Gable MAC (R221) -/

/-- The oldest frame of a Gable lane that waits for its acknowledgement has it, and is released; or it is retried, and
after 16 failed retries the lane goes down (R221). -/
def execGableMacRetry (t : Nat) (lane : Fin 2) (ok : Bool) (s : State) : Out :=
  let s := s.clock t
  let l := s.gableLane lane.val
  if !bitAt (s.f Fd.ASD_STAT_GABLE) lane.val then .next s
  else match l.unacked with
    | [] => .next s
    | x :: xs =>
      if ok then .next ((s.setGableLane lane.val { l with unacked := xs, again := false, tries := 0 }).releaseCopy x.2.2)
      else if l.tries < 16 then .next (s.setGableLane lane.val { l with again := true, tries := l.tries + 1 })
      else .next (s.portLost (256 + lane.val) 2)

end Sys2Proof.Machine
end

