-- ==== Sys2Proof/Machine/Swap.lean ====
section
/-! DEFINITION. Uploads of images and shadow packages (R367, R379), the shadow copies of register fields (R381), and swaps:
request, checks, the swap instant, the swap itself, and the staged swap (R380 to R385). -/

namespace Sys2Proof.Machine

open Sys2Proof

/-! Shadow editing -/

/-- A write to a sealed or unreachable field is counted and logged (R13, R381). -/
def State.lockedWrite (s : State) (addr : Nat) : State :=
  (s.bump Reg.GEN_LOCKED_CNT).logEvent 0x0080 (BitVec.ofNat 32 addr)

/-- A refused swap request or swap, with its code (Table CFG-5). -/
def State.swapRefused (s : State) (code : Nat) : State :=
  let s1 := { s with cfg := { s.cfg with check := none, pending := none, stage := none } }
  (((s1.set0 Fd.CFG_SWAP_STAT_STATE 5).set0 Fd.CFG_SWAP_STAT_CODE code).logEvent 0x0181 (BitVec.ofNat 32 code)).emit (.msix 1)

/-- A refused swap request: it changes nothing, so a swap that is under way goes on and shows its own state (R380, R382). -/
def State.requestRefused (s : State) (code : Nat) : State :=
  if s.cfg.check.isSome ∨ s.cfg.pending.isSome ∨ s.cfg.stage.isSome then
    (s.logEvent 0x0181 (BitVec.ofNat 32 code)).emit (.msix 1)
  else s.swapRefused code

/-- An OPEN bit is set: the previous set is not intact any more, and a swap that is pending is cancelled (R382). -/
def State.openSet (s : State) : State :=
  let s1 := { s with cfg := { s.cfg with intact := false } }
  if s.cfg.pending.isSome ∨ s.cfg.check.isSome then s1.swapRefused 11 else s1

/-- A write of GNG_TBL_ADDR, which may set OPEN (R59, R382). -/
def State.gngAddrWrite (s : State) (w : BitVec 32) : State :=
  if bitAt w.toNat 31 && !s.fb Fd.GNG_TBL_ADDR_OPEN then (s.gngAddr w).openSet else s.gngAddr w

def execGngOpenWrite (t : Nat) (party : Party) (entry : BitVec 16) (open_ : Bool) (s : State) : Out :=
  .next (((s.clock t).hostWrite party).gngAddrWrite (BitVec.ofNat 32 (entry.toNat + 2 ^ 31 * b2n open_)))

/-- Every OPEN bit is cleared (R380). -/
def State.closeAll (s : State) : State :=
  let s1 := s.gngAddr (BitVec.ofNat 32 (s.f Fd.GNG_TBL_ADDR_ENTRY))
  (((if s.fb Fd.GNG_TBL_ADDR_OPEN then s1 else s).set0 Fd.SEN_TBL_ADDR_OPEN 0).set0 Fd.FP_TBL_CTL_OPEN 0).set0
    Fd.CFG_SHR_ADDR_OPEN 0

/-- A shadow value as it counts: PERIOD_K is part of no shadow set, so it stands as it is in force (R41). -/
def State.shadowVal (s : State) (addr : Nat) (v : BitVec 32) : BitVec 32 :=
  if addr = Reg.TKE_CFG.base then
    BitVec.ofNat 32 (setBits v.toNat Fd.TKE_CFG_PERIOD_K.hi Fd.TKE_CFG_PERIOD_K.lo (s.f Fd.TKE_CFG_PERIOD_K))
  else v

/-- A write of CFG_SHR_DATA (R381). -/
def State.shrWrite (s : State) (v : BitVec 32) : State :=
  let a := 4 * s.f Fd.CFG_SHR_ADDR_ADDR
  if !s.fb Fd.CFG_SHR_ADDR_OPEN then s
  else if (Tab.get none s.shd.regs a).isSome then
    { s with shd := { s.shd with regs := Tab.set none s.shd.regs a (some v) } }
  else if (Tab.get none s.shd.quiesce a).isSome then
    { s with shd := { s.shd with quiesce := Tab.set none s.shd.quiesce a (some v) } }
  else s.lockedWrite a

def execCfgShrDataWrite (t : Nat) (party : Party) (value : BitVec 32) (s : State) : Out :=
  .next (((s.clock t).hostWrite party).shrWrite value)

/-- The shadow copy that a read of CFG_SHR_DATA returns: the fields that configuration sets, the other bits 0 (R11). -/
def State.shrRead (s : State) : BitVec 32 :=
  let a := 4 * s.f Fd.CFG_SHR_ADDR_ADDR
  let mask := match regAt a with | some (r, _) => BitVec.ofNat 32 (cfgMask r - failSafeMask r) | none => 0
  mask &&& match Tab.get none s.shd.regs a, Tab.get none s.shd.quiesce a with
  | some v, _ => s.shadowVal a v
  | none, some v => s.shadowVal a v
  | none, none => 0

/-! Uploads (R367, R379) -/

/-- The copy that is not running. -/
def State.spareCopy (s : State) : Nat := 1 - s.f Fd.CFG_STAT_COPY

def State.updState (s : State) (st code : Nat) : State :=
  (s.set0 Fd.CFG_UPD_STAT_STATE st).set0 Fd.CFG_UPD_STAT_CODE code

/-- An upload begins; the header of the target copy is erased first. -/
def State.updStart (s : State) (package usb : Bool) : State :=
  let s1 := { s with cfg := { s.cfg with upd := some { package := package, usb := usb } } }
  let s2 := if package then s1 else s1.burn (copyBase s.spareCopy) (List.replicate 256 0xFF#8)
  s2.updState 1 0

/-- The next bytes of an upload; those of the body are written to the copy as they come. -/
def State.updData (s : State) (bs : Bytes) : State :=
  match s.cfg.upd with
  | some u =>
    let n := u.bytes.length
    let s1 := { s with cfg := { s.cfg with upd := some { u with bytes := u.bytes ++ bs } } }
    if u.package then s1
    else
      let body := (bs.drop (256 - n)).take (0x3000000 - max n 256)
      s1.burn (copyBase s.spareCopy + max n 256) body
  | none => s

/-- A shadow package goes over the shadow set as it stands (R379). -/
def State.loadPackage (s : State) (h body : Bytes) : State :=
  let c := s.shd.named (hdrSetId h)
  { s with shd := c.sections (sectionsOf h body), cfg := { s.cfg with intact := false } }

/-- COMMIT: the header is written last, and only where the CRC matches; a package must name this node. -/
def State.updCommit (s : State) : State :=
  match s.cfg.upd with
  | some u =>
    let h := slice u.bytes 0 256
    let body := (u.bytes.drop 256).take (hdrBody h)
    let s1 := { s with cfg := { s.cfg with upd := none } }.set0 Fd.HST_STAT_USB_UPLOAD 0
    if u.bytes.length < 256 ∨ body.length < hdrBody h ∨ !imageCrcOk h body then s1.updState 3 1
    else if u.package then
      if nodeOk h then (s1.loadPackage h body).updState 2 0 else s1.updState 3 2
    else (s1.burn (copyBase s.spareCopy) h).updState 2 0
  | none => s

/-- ABORT: the target copy is left without a header. -/
def State.updAbort (s : State) : State :=
  match s.cfg.upd with
  | some _ => (({ s with cfg := { s.cfg with upd := none } }).set0 Fd.HST_STAT_USB_UPLOAD 0).updState 3 3
  | none => s

/-- What is kept of a write of CFG_UPD_CTL. -/
def State.updKeep (s : State) (package : Bool) (stage : Nat) : State :=
  (s.set0 Fd.CFG_UPD_CTL_TARGET (b2n package)).set0 Fd.CFG_UPD_CTL_STAGE_S stage

/-- A write of CFG_UPD_CTL. -/
def State.updCtl (s : State) (w : Nat) : State :=
  let s1 := s.updKeep (bitAt w 0) (bits w 23 16)
  if bitAt w 1 then s1.updStart (bitAt w 0) false
  else if bitAt w 2 then s1.updCommit
  else if bitAt w 3 then s1.updAbort
  else s1

def execCfgUpdStart (t : Nat) (party : Party) (package : Bool) (stageS : BitVec 8) (s : State) : Out :=
  .next (((s.clock t).hostWrite party).updKeep package stageS.toNat |>.updStart package false)

def execCfgUpdData (t : Nat) (party : Party) (value : BitVec 32) (s : State) : Out :=
  .next (((s.clock t).hostWrite party).updData (leBytes 4 value.toNat))

def execCfgUpdCommit (t : Nat) (party : Party) (package : Bool) (stageS : BitVec 8) (s : State) : Out :=
  .next (((s.clock t).hostWrite party).updKeep package stageS.toNat |>.updCommit)

def execCfgUpdAbort (t : Nat) (party : Party) (package : Bool) (stageS : BitVec 8) (s : State) : Out :=
  .next (((s.clock t).hostWrite party).updKeep package stageS.toNat |>.updAbort)

/-! Checks of a shadow set (R55, R58, R73, R132, R143, R144) -/

/-- The block as it would be with the shadow set active. -/
def State.asSwapped (s : State) (staged : Bool) : State :=
  let vals (t : Tab (Option (BitVec 32))) : Tab (Option (BitVec 32)) :=
    t.map (fun e => (e.1, e.2.map (s.shadowVal e.1)))
  let s1 := { s with act := s.shd, shd := s.act }.setConfigs (vals s.shd.regs)
  if staged then s1.setConfigs (vals s.shd.quiesce) else s1

/-- Segments in use. -/
def State.usedSegs (s : State) : List Nat :=
  (List.range 280).filter (fun n => bits (Tab.get 0 s.act.gng.segs n).toNat 26 16 != 0)

/-- A valid entry whose window is empty or reaches beyond P, or a constant pulse that is empty or too short (R55, R326). -/
def State.badWindow (s : State) : Bool :=
  (!s.act.code.isEmpty && Config.constPulse s.act.code s.period) ||
  s.usedSegs.any (fun n => (s.act.gng.entries n).any (fun e =>
    decide (rowStop e.2 ≤ rowStart e.2) || decide (s.period < rowStop e.2)))

def Win.overlaps (a b : Win) : Bool := decide (a.start < b.stop) && decide (b.start < a.stop)

/-- Two different windows of a list, of kinds k and l, overlap. -/
def overlapping (k l : Nat) : List Win → Bool
  | [] => false
  | w :: ws => ws.any (fun x => w.overlaps x && (w.kind == k && x.kind == l || w.kind == l && x.kind == k)) ||
    overlapping k l ws

/-- The time that windows cover together. -/
def covered (ws : List Win) : Nat :=
  let ps := mergeKeys (ws.flatMap (fun w => [w.start, w.stop])) []
  sumNat ((ps.zip ps.tail).map (fun p => if ws.any (·.holds p.1) then p.2 - p.1 else 0))

/-- The entries stand in non-decreasing order of START. -/
def startsOrdered : List Nat → Bool
  | a :: b :: l => decide (a ≤ b) && startsOrdered (b :: l)
  | _ => true

/-- A segment breaks a structural rule (R52 to R54). -/
def State.badSegment (s : State) (n : Nat) : Bool :=
  let es := (s.act.gng.entries n).map (·.2)
  decide (1024 < bits (Tab.get 0 s.act.gng.segs n).toNat 26 16) || !startsOrdered (es.map rowStart) ||
    es.any (fun r => (if n < 256 then decide (2 < rowKind r) else decide (rowKind r < 4 ∨ 6 < rowKind r)) ||
      decide (2 ^ rowRep r ≤ rowTick r) || decide (s.f Fd.TKE_CFG_HC_LOG < rowRep r)) ||
    n < 256 && !s.isPort n

/-- The windows of a segment in one tick break a rule: control over express, overlapping exclusive windows, more than
75 % of express, or, on a ring or branch port, no control window long enough (R56, R58, R61). -/
def State.badTick (s : State) (n k : Nat) : Bool :=
  let ws := s.act.gng.wins n k
  overlapping 1 2 ws || overlapping 5 5 ws ||
    (n < 256 && decide (s.period * 3 < 4 * covered (ws.filter (·.kind == 1))))

/-- A ring or branch port has a control window for three 1,542-byte frames and 200 ns in a tick (R58). -/
def State.ctlWindowOk (s : State) (n k : Nat) : Bool :=
  (s.act.gng.wins n k).any (fun w => w.kind == 2 && decide (3 * 1542 * 8 + 200 * s.portRate n ≤ (w.stop - w.start) * s.portRate n))

def State.badGates (s : State) : Bool :=
  let ks := List.range s.hyper
  decide (8 < s.f Fd.TKE_CFG_HC_LOG) || s.usedSegs.any (fun n => s.badSegment n || ks.any (s.badTick n)) ||
    s.ringPorts.any (fun n => !s.isPort n || ks.any (fun k => !s.ctlWindowOk n k))

/-- A stream entry lies outside the bucket of its key (R132). -/
def State.badBucket (s : State) (i : Nat) : Bool :=
  let ws (j : Nat) : List Nat := (List.range 4).map (s.streamWord j)
  let w4 := s.streamWord i 4
  if bitAt w4 3 then i % 2 == 0 || !bitAt (s.streamWord (i - 1) 4) 31 || bits (s.streamWord (i - 1) 4) 2 0 != 3
  else
    let k : StreamKey := { method := bits w4 2 0, words := ws i, wordsB := if bits w4 2 0 = 3 then ws (i + 1) else [] }
    (k.bucket != i / 4) || bits w4 2 0 == 3 && i % 2 != 0

/-- A multicast group has more than 256 copies or names a lane that is no port (R143). -/
def State.badGroup (s : State) (g : Nat) : Bool :=
  let x := s.groupOf g 999
  decide (256 < x.1.length + x.2.length) || x.1.any (fun n => !s.isPort n)

def State.groupsUsed (s : State) : List Nat :=
  mergeKeys ((s.act.fp.filter (fun e => 0x100000 ≤ 4 * e.1 && 4 * e.1 < 0x200000)).map (fun e => (4 * e.1 - 0x100000) / 64)) []

/-- The ports to which a stream entry itself sends. -/
def State.streamPorts (s : State) (a : StreamAct) : List Nat :=
  match a.kind with
  | 1 => [a.dest]
  | 2 => (s.groupOf a.dest 999).1
  | _ => []

/-- Valid VLANs: their member ports, and FID. -/
def State.vlans (s : State) : List (List Nat × Nat) :=
  ((s.act.fp.map (4 * ·.1)).filter (fun o => 0x20000 ≤ o && o < 0x24000 && bitAt (s.fpw o) 31)).map (fun o =>
    ((s.groupOf (bits (s.fpw o) 13 0) 999).1, bits (s.fpw o) 27 16))

/-- Ports that the forwarding database can give for a VLAN: its members, to which it floods, and those of every entry of
its FID, learned by way of any VLAN of that FID or written by the host. -/
def State.fdbPorts (s : State) (v : List Nat × Nat) : List Nat :=
  let is := mergeKeys ((s.act.fp.filter (fun e => 0x400000 ≤ 4 * e.1 && 4 * e.1 < 0x800000)).map
    (fun e => (4 * e.1 - 0x400000) / 16)) []
  v.1 ++ (is.filter (fun i => s.fdbValid i && bits (s.fdbWord i 1) 27 16 == v.2)).flatMap (fun i =>
    let d := bits (s.fdbWord i 2) 15 0
    if bits (s.fdbWord i 2) 17 16 = 2 then (s.groupOf d 999).1 else [d])

/-- Class and TC of the frames without a stream that come by port q (R28, R144). -/
def State.mapForms (s : State) (q : Nat) : List (Nat × Nat) :=
  (List.range 8).map (fun p => (bits (s.f Fd.FP_PORTn_PCPCLS_CLASS [q]) (2 * p + 1) (2 * p),
    bits (s.rd Reg.FP_PORTn_PCPTC [q]).toNat (4 * p + 2) (4 * p)))

/-- Class and TC of every item that the tables can send to port n: of streams with a destination of their own, and by way of
each VLAN whose database can give n, of the other streams and of the PCP maps of its other members. Every stream without a
destination of its own counts for every such VLAN (log entry 138). -/
def State.formsAt (s : State) (n : Nat) : List (Nat × Nat) :=
  let xs := s.validStreams.map s.streamAct
  let own := xs.filter (fun a => (s.streamPorts a).contains n)
  let vs := s.vlans.filter (fun v => (s.fdbPorts v).contains n)
  let free := if vs.isEmpty then [] else xs.filter (fun a => !([1, 2, 3].contains a.kind))
  (own ++ free).map (fun a => (a.cls, a.tc)) ++ vs.flatMap (fun v => (v.1.filter (· != n)).flatMap s.mapForms)

/-- A traffic class of a port carries items of two classes, an express item outside its express TCs or another item in them,
or an item in the TC of control frames (R144). -/
def State.badClasses (s : State) : Bool :=
  s.ports.any (fun n =>
    let here := s.formsAt n
    here.any (fun a => (a.1 == 2) != bitAt (s.f Fd.FP_PORTn_TC_EXP_TC [n]) a.2 || s.isRingPort n && a.2 == 7 ||
      here.any (fun b => a.2 == b.2 && a.1 != b.1)))

/-- An image frame of the export map has more than 64 entries, or more bytes than its port allows (R73). -/
def State.badExports (s : State) : Bool :=
  (mergeKeys (s.act.maps.exports.map (·.frame)) []).any (fun f =>
    let es := s.act.maps.exports.filter (fun e => e.frame == f)
    let fr := Tab.get { dest := 0, vid := 0, pcp := 0, port := 0 } s.act.maps.frames f
    decide (64 < es.length) ||
      decide (s.f Fd.PGn_Pp_CFG_MAXLEN [fr.port / 8, fr.port % 8] < 42 + sumNat (es.map (fun e => 4 + e.len))))

def State.badEntry (s : State) : Bool :=
  s.badGates || s.validStreams.any s.badBucket || s.groupsUsed.any s.badGroup || s.badClasses || s.badExports

/-! The swap instant (R60, R380, R384) -/

/-- n rounded up to a multiple of k. -/
def roundUp (k n : Nat) : Nat := (n + k - 1) / k * k

/-- The larger of the old and the new hyper-cycle. -/
def State.bigHyper (s : State) : Nat := max s.hyper (s.asSwapped false).hyper

def State.hcChanges (s : State) : Bool := s.hyper != (s.asSwapped false).hyper

/-- The first instant at or after two ticks from now, and SWAP_TICK with AT, that meets R60. -/
def State.swapInstant (s : State) (r : SwapReq) : Nat :=
  let n := s.tu.tick + (if s.sinceInstant = some 0 then 2 else 3)
  let m := if r.at_ then max n r.tick else n
  if s.shd.gng ≠ s.act.gng ∨ s.shd.tasks ≠ s.act.tasks ∨ s.hcChanges then roundUp s.bigHyper m else m

def State.tooLate (s : State) (r : SwapReq) : Bool :=
  let n := s.swapInstant r
  r.at_ && (decide (r.tick + s.bigHyper < n) || s.hcChanges && n != roundUp s.bigHyper r.tick)

/-- The first cause for which a checked request is refused, in the order of R380. -/
def State.swapCheck (s : State) (r : SwapReq) : Option Nat :=
  let staged := decide (r.kind = .staged)
  let x := s.asSwapped staged
  if s.shd.start.any s.differs then some 4
  else if !staged ∧ s.shd.quiesce.any s.differs then some 3
  else if s.hcChanges ∧ !r.at_ then some 13
  else if x.badWindow then some 1
  else if x.badEntry then some 2
  else if !staged ∧ s.tooLate r then some 5
  else none

/-- A checked request is scheduled (R380). -/
def State.schedule (s : State) (r : SwapReq) : State :=
  let n := s.swapInstant r
  let s1 := { s with cfg := { s.cfg with check := none, pending := some n, stage := none } }
  (s1.set0 Fd.CFG_SWAP_STAT_STATE 2).wr64 Reg.CFG_SWAP_TICK_LO Reg.CFG_SWAP_TICK_HI [] (BitVec.ofNat 64 n)

/-! Requests (R380, R382) -/

/-- A swap request clears every OPEN bit; it is refused at once, or taken for its checks, and a duty sends the shadow set
to its standby (R380, R383). -/
def State.swapRequest (s : State) (kind : SwapKind) (at_ : Bool) : State :=
  let s := s.closeAll
  if s.fb Fd.POR_STAT_HOLDUP then s.requestRefused 6
  else if s.cfg.check.isSome ∨ s.cfg.pending.isSome ∨ s.cfg.stage.isSome then s.requestRefused 7
  else if 2 ≤ s.role then s.swapRefused 8
  else if kind = .revert ∧ !s.cfg.intact then s.swapRefused 9
  else
    let r : SwapReq := { kind := kind, at_ := at_, tick := (s.rd64 Reg.CFG_SWAP_TICK_LO Reg.CFG_SWAP_TICK_HI).toNat
                         since := s.raw }
    let s1 := { s with cfg := { s.cfg with check := some r } }
    ((s1.set0 Fd.CFG_SWAP_STAT_STATE 1).set0 Fd.CFG_SWAP_STAT_CODE 0).sendShadow

/-- CMD 4h cancels a swap up to staging close of the tick before its instant (R382). -/
def State.swapCancel (s : State) : State :=
  match s.cfg.pending with
  | some n => if s.tu.tick + 1 < n ∨ (s.tu.tick + 1 = n ∧ !s.tke.staging) then s.swapRefused 11 else s
  | none => if s.cfg.check.isSome then s.swapRefused 11 else s

/-- A write of CFG_SWAP. -/
def State.cfgSwap (s : State) (w : Nat) : State :=
  match bits w 2 0 with
  | 1 => s.swapRequest .live (bitAt w 3)
  | 2 => s.swapRequest .staged (bitAt w 3)
  | 3 => s.swapRequest .revert (bitAt w 3)
  | 4 => s.swapCancel
  | _ => s

def execSwap (t : Nat) (party : Party) (at_ : Bool) (s : State) : Out := .next (((s.clock t).hostWrite party).swapRequest .live at_)
def execStagedSwap (t : Nat) (party : Party) (at_ : Bool) (s : State) : Out := .next (((s.clock t).hostWrite party).swapRequest .staged at_)
def execSwapRevert (t : Nat) (party : Party) (at_ : Bool) (s : State) : Out := .next (((s.clock t).hostWrite party).swapRequest .revert at_)
def execSwapCancel (t : Nat) (party : Party) (s : State) : Out := .next (((s.clock t).hostWrite party).swapCancel)

/-! The swap (R380, R381) -/

/-- A field of the store and of a new value exchange places: the shadow keeps the former one (R381), and PERIOD_K stays
(R41). -/
def State.exchange (s : State) (t : Tab (Option (BitVec 32))) : State × Tab (Option (BitVec 32)) :=
  t.foldl (fun a e =>
    (a.1.setConfig e.1 (a.1.shadowVal e.1 (e.2.getD 0)), Tab.set none a.2 e.1 (some (a.1.valueAt e.1)))) (s, t)

/-- CAN FD channels whose mode or bit timing changes start again. -/
def State.fbRestart (old new : State) : State :=
  (List.range 32).foldl (fun s n =>
    if old.f Fd.FBn_CFG_MODE [n] ≠ new.f Fd.FBn_CFG_MODE [n] ∨ old.rd Reg.FBn_NBT [n] ≠ new.rd Reg.FBn_NBT [n] ∨
        old.rd Reg.FBn_DBT [n] ≠ new.rd Reg.FBn_DBT [n] then s.fbStart n else s) new

/-- Every inactive copy becomes active, and the former active set is the shadow set (R380, R382); recovery functions keep or
lose their runtime state (R140). -/
def State.doSwap (s : State) : State :=
  let x := s.exchange s.shd.regs
  let s1 := { x.1 with act := s.shd, shd := { s.act with regs := x.2, quiesce := s.shd.quiesce, start := s.shd.start } }
  let change : TickChange := { tick := s.tu.tick, base := s.tu.base.getD 0, hcLog := s.f Fd.TKE_CFG_HC_LOG }
  let changes := if s.f Fd.TKE_CFG_HC_LOG = s1.f Fd.TKE_CFG_HC_LOG then s.tu.changes else (change :: s.tu.changes).take 2
  let code (s : State) (c : Nat) : State :=
    if s.shd.code = s.act.code then s else s.setChan c { s.chan c with code := s.act.code }
  let s2 : State := [0, 1, 2].foldl code
    { s1 with tu := { s1.tu with changes := changes }, gng := { s1.gng with opened := [] }
              sen := { s1.sen with decim := keepDecim s1.shd.sen s1.act.sen s1.sen.decim }
              fio := { s1.fio with copyDue := s1.fio.copyDue || s.shd.regs.any (fun e => 0x130000 ≤ e.1 && e.1 < 0x140000) }
              cfg := { s1.cfg with pending := none, intact := true } }
  let flip (s : State) (x : Fld) : State := s.set0 x (1 - s.f x)
  let s3 := ((flip (flip (flip s2 Fd.GNG_STAT_ACTIVE) Fd.FP_STAT_ACTIVE) Fd.SEN_STAT_ACTIVE).set0 Fd.GNG_STAT_TEST 1).wr64
    Reg.CFG_SETID_LO Reg.CFG_SETID_HI [] s2.act.setId
  let s4 : State := (keys s.fp.recov).foldl (fun t i => t.recovSwap (s.recovCfg i) i) s3
  ((((s.fbRestart s4).set0 Fd.CFG_SWAP_STAT_STATE 4).logEvent 0x0180).trace 5 0 (s.tu.tick % 2 ^ 32)).emit (.msix 1)

/-- At the swap instant the swap takes effect, around which the shapers of the ports count on (R150); a standby swaps at
the instant that its duty announced (R383). -/
def execSwapDone (t : Nat) (s : State) : Out :=
  let s := s.clock t
  let due : Bool := match s.cfg.pending with | some n => decide (n ≤ s.tu.tick) && s.tu.base.isSome | none => false
  let told := decide (s.role = 2 ∧ s.asd.swapTick ≠ 0 ∧ s.asd.swapTick ≤ s.tu.tick)
  let x := s.regate State.doSwap
  if due then .next x
  else if told then .next { x with asd := { x.asd with swapTick := 0, setCheck := true } }
  else .next s

/-! The staged swap (R385) -/

/-- The port group of a quiesce item; 32 for the Gable lanes. -/
def groupOfAddr (a : Nat) : Option Nat :=
  match regAt a with
  | some (r, ix) => if r.block = 0x12 then some (ix.headD 0) else if r = Reg.ASD_Gg_CFG then some 32 else none
  | none => none

/-- A slot that is no port any more: its counters are 0, and its queues are idle: each of them but an assured one, which
discards nothing, is drained (R100, R170). -/
def State.slotIdle (s : State) (n : Nat) : State :=
  let s1 : State := (List.range 16).foldl (fun s c =>
    (s.wr64 Reg.PGn_Pp_CNTc_LO Reg.PGn_Pp_CNTc_HI [n / 8, n % 8, c] 0).wr64 Reg.FP_PORTn_CNTc_LO Reg.FP_PORTn_CNTc_HI [n, c] 0) s
  let s2 := s1.sf Fd.PGn_Pp_FEC_PEAK_PEAK [n / 8, n % 8] 0
  (List.range 8).foldl (fun s tc => if s.qAssured (8 * n + tc) then s else s.dropCounted (8 * n + tc)) s2

/-- Takes a group's ports down, exchanges its items with the shadow copies, and lets it recalibrate from CAL; its modules
select their applications anew (R100, R104, R106, R120, R385). -/
def State.applyGroup (s : State) (g : Nat) : State :=
  let old := s.groupPorts g
  let s1 : State := old.foldl (fun s n => s.portLost n 0) s
  let mine := s.shd.quiesce.filter (fun e => groupOfAddr e.1 == some g)
  let x := s1.exchange mine
  let q := x.2.foldl (fun m e => Tab.set none m e.1 e.2) s.shd.quiesce
  let moved := g < 32 && s.f Fd.PGn_MODE_MODE [g] != x.1.f Fd.PGn_MODE_MODE [g]
  let bad := if moved then x.1.prt.faulted.filter (fun n => groupIx n != g) else x.1.prt.faulted
  let s2 := { x.1 with shd := { x.1.shd with quiesce := q }
                       prt := { x.1.prt with cal := x.1.prt.cal.filter (· != g), faulted := bad } }
  let s3 := if g < 32 then (s2.sf Fd.PGn_STAT_CAL_OK [g] 0).reselectApps g else s2
  let s4 : State := (old.filter (fun n => !(s3.groupPorts g).contains n)).foldl State.slotIdle s3
  (s4.groupPorts g).foldl (fun s n => s.portStart n) s4

/-- The next group of a staged swap, or of its roll-back. -/
def State.stageGroup (s : State) (st : Stage) (g : Nat) : State :=
  let st1 := { st with group := some (g, s.rd Reg.CST_INAUG) }
  ((({ s with cfg := { s.cfg with check := none, stage := some st1 } }).applyGroup g).set0 Fd.CFG_SWAP_STAT_STATE 3).set0
    Fd.CFG_SWAP_STAT_GROUP g

/-- The groups that a staged swap has changed return to their previous items, and the swap is refused with a code. -/
def State.stageUndo (s : State) (st : Stage) (code : Nat) : State :=
  match mergeKeys st.done [] with
  | g :: gs => s.stageGroup { st with todo := gs, undo := some code } g
  | [] => s.swapRefused code

/-- After the groups: pool sizes and the other items, once every pool that shrinks holds no more than its new size; then
the swap is scheduled, or refused where its instant has become too late (R380, R384; log entry 156). -/
def State.stagePools (s : State) (st : Stage) : State :=
  let rest := s.shd.quiesce.filter (fun e => groupOfAddr e.1 == none)
  let x := s.exchange rest
  let fits := (List.range 6).all (fun p =>
    decide (s.poolSize p ≤ x.1.poolSize p) || decide (s.poolUsed p ≤ x.1.poolSize p))
  if !fits then s
  else if s.tooLate st.req then s.stageUndo st 5
  else
    let q := x.2.foldl (fun m e => Tab.set none m e.1 e.2) s.shd.quiesce
    ({ x.1 with shd := { x.1.shd with quiesce := q } }).schedule st.req

/-- The next group, the end of a roll-back, or the pools. -/
def State.stageNext (s : State) (st : Stage) : State :=
  match st.todo with
  | g :: gs =>
    s.stageGroup { st with todo := gs, done := if st.undo.isSome then st.done else g :: st.done } g
  | [] =>
    match st.undo with
    | some c => s.swapRefused c
    | none => ({ s with cfg := { s.cfg with check := none, stage := some { st with group := none } } }.set0
        Fd.CFG_SWAP_STAT_STATE 3).stagePools { st with group := none }

/-- The Gable MAC has delivered what a duty has sent of its shadow set (R383). -/
def State.shadowSent (s : State) : Bool :=
  !s.mirroring || (s.queue (portQueue 256 (kindTc 12))).entries.isEmpty && s.ldr.ctlWait.all (fun c => c.port != 256)

/-- The checks of a request end: it is refused, staged or scheduled. A duty fixes the instant only once its standby has the
shadow set (R383). -/
def execSwapCheckDone (t : Nat) (s : State) : Out :=
  let s := s.clock t
  match s.cfg.check with
  | some r =>
    match s.swapCheck r with
    | some c => .next (s.swapRefused c)
    | none =>
      if !s.shadowSent then .next s
      else if r.kind = .staged then
        let gs := mergeKeys ((s.shd.quiesce.filter s.differs).filterMap (fun e => groupOfAddr e.1)) []
        .next (s.stageNext { req := r, since := s.raw, todo := gs })
      else .next (s.schedule r)
  | none => .next s

/-- The ports of the staged group are UP and a commit has followed; or the pools have drained. -/
def execStageGroupDone (t : Nat) (s : State) : Out :=
  let s := s.clock t
  match s.cfg.stage with
  | some st =>
    match st.group with
    | some (g, n) =>
      if (s.groupPorts g).all (fun p => s.pst p == 6 || s.pst p == 7) ∧ s.rd Reg.CST_INAUG ≠ n then .next (s.stageNext st)
      else .next s
    | none => .next (s.stagePools st)
  | none => .next s

/-- The staged swap has not finished within its limit: the groups that it has changed return to their previous items. -/
def execStageTmo (t : Nat) (s : State) : Out :=
  let s := s.clock t
  let limit := if s.f Fd.CFG_UPD_CTL_STAGE_S = 0 then 10 else s.f Fd.CFG_UPD_CTL_STAGE_S
  match s.cfg.stage with
  | some st =>
    if st.undo.isNone ∧ s.elapsed st.since (limit * 1000000000) then
      .next (s.stageUndo st 10)
    else .next s
  | none => .next s

end Sys2Proof.Machine
end

