-- ==== Sys2Proof/Machine/Lease.lean ====
section
/-! DEFINITION. Leases (R172, R246, R409): what the expiry of a lease on each resource of Table ASD-8 does. -/

namespace Sys2Proof.Machine

open Sys2Proof

/-! Started copies (R172) -/

/-- The copy of item d is being sent by its port at this moment, which renews its lease. -/
def State.sending (s : State) (q d : Nat) : Bool :=
  decide (q < 2048) && (match (s.egress (q / 8)).tx with | some x => x.item == some (q, d) | none => false)

/-- An assured copy gives up its read: on a hop it goes to the replay store under the HOP_SEQ that it was sent with;
elsewhere it waits in its queue again. -/
def State.giveUpRead (s : State) (q d : Nat) : State :=
  let n := q / 8
  if q < 2048 ∧ s.hopPort n then
    let vc := s.vcOut (s.item d) n
    (s.removeEntry q d).toReplay n vc (((s.hopOf n vc).txSeq + 32767) % 32768) d false
  else
    s.setQueue q { s.queue q with
      entries := (s.queue q).entries.map (fun e => if e.desc = d then { e with started := false } else e) }

/-- The flush engine releases a started copy whose lease has expired. -/
def State.flushCopy (s : State) (q d : Nat) : State :=
  let s1 := if (s.item d).cls = .assured then s.giveUpRead q d else (s.removeEntry q d).releaseCopy d
  if 2048 ≤ q ∧ q < 4096 then
    let r := Tab.get {} s1.hst.rings (q - 2048)
    { s1 with hst := { s1.hst with rings := Tab.set {} s1.hst.rings (q - 2048) { r with off := 0, cur := none } } }
  else s1

/-- Started copies of a queue with an expired lease. -/
def State.expiredCopies (s : State) (q : Nat) : List Nat :=
  ((s.queue q).entries.filter (fun e => e.started && !s.sending q e.desc && decide (e.lease + s.leaseTicks ≤ s.strobes))).map
    (·.desc)

def State.revokeCopies (s : State) (q : Nat) : State :=
  (s.expiredCopies q).foldl (fun s d => (s.flushCopy q d).leaseRevoked) s

/-! Service queues and host rings (Table ASD-8, R409) -/

/-- Ownership of a service queue is freed; its items stay for the next owner. -/
def State.revokeService (s : State) (q : Nat) : State :=
  let v := Tab.get 0 s.ldr.owners q
  if v ≠ 0 ∧ v - 1 + s.leaseTicks ≤ s.strobes then
    ({ s with ldr := { s.ldr with owners := Tab.set 0 s.ldr.owners q 0 } } : State).leaseRevoked
  else s

/-- A revoked ring is stopped; its items stay in the Larder (R409). -/
def State.revokeRing (s : State) (k : Nat) : State :=
  let r := s.ring k
  if r.en ∧ r.lease + s.leaseTicks ≤ s.strobes then
    (s.stopRing k).leaseRevoked
  else s

/-- A lease was not renewed in LEASE ticks. -/
def execLeaseExpiry (t : Nat) (res : LeaseRes) (s : State) : Out :=
  let s := s.clock t
  match res with
  | .lock b => .next (s.revokeLock b.val)
  | .sema k => .next (s.revokeSema k.val)
  | .copy q => .next (s.revokeCopies q.val)
  | .service q => .next (s.revokeService (2048 + q.val))
  | .ring k => .next (s.revokeRing k.val)

end Sys2Proof.Machine
end

