-- ==== Sys2Proof/Machine/Porch.lean ====
section
/-! DEFINITION. The Porch (R387 to R404, R425 to R429): power-state commands, entry to a state, wake sources, provisional
wakes, the supply monitors, adaptive voltage and the INH lines. -/

namespace Sys2Proof.Machine

open Sys2Proof

/-! Power-state commands (R388, R389, R391, R395) -/

/-- A duty announces that it stops, with its reason, and fences itself; before a reset the frame leaves at once (R228,
R237, R391, Table ASD-10). -/
def State.relinquish (s : State) (reason : Nat) : State :=
  let r := [beBytes 1 reason ++ beBytes 7 0 ++ beBytes 8 s.tu.tick]
  if s.role = 1 then (if reason = 2 ∨ reason = 3 then s.pairNow 7 r else s.pairSend 7 r).fenceNow else s

/-- POR_CMD_STAT shows that a command was refused. -/
def State.porRefused (s : State) (code : Nat) : State :=
  (s.set0 Fd.POR_CMD_STAT_STATE 3).set0 Fd.POR_CMD_STAT_CODE code

/-- The way to a state begins; a duty that leaves Operate hands its work to its partner first (R391). -/
def State.leaveTo (s : State) (st : Nat) : State :=
  let s1 := if s.operating then s.relinquish 4 else s
  ({ s1 with por := { s1.por with target := some (st, s.tu.tick) } }).set0 Fd.POR_STAT_TRANS 1

/-- Start-up or a transition of Table PWR-2 is running. -/
def State.inTransition (s : State) : Bool :=
  s.fb Fd.POR_STAT_TRANS || decide (s.f Fd.CFG_STAT_BOOT < 2)

/-- The greatest MAX_AWAKE of the sources of the last wake, where none of them is 0 (R396). -/
def State.awakeLimit (s : State) : Option Nat :=
  let l := (sourcesOf s.por.srcs).map (fun k => s.f Fd.POR_SRCs_CFG_MAX_AWAKE [k])
  if l.isEmpty ∨ l.contains 0 then none else some (l.foldl max 0)

/-- A provisional wake has reached MAX_AWAKE and its return has not begun (R396). -/
def State.awakeOver (s : State) : Bool :=
  match s.awakeLimit with
  | some n => s.fb Fd.POR_STAT_PROVISIONAL && s.por.target.isNone && s.elapsedW s.por.wokeAt (n * 1000000000)
  | none => false

/-- A write of POR_CMD: the refusals of R389 in the order HOLDUP, BUSY, NOT_ALLOWED, or the command. A STAY in the
cycle in which MAX_AWAKE expires is NOT_ALLOWED (R396). The fenced safe state ends only at a reset (R366). -/
def State.porCmd (s : State) (w : Nat) : State :=
  let c := bits w 2 0
  if c = 0 ∨ 4 < c then s
  else if s.fb Fd.POR_STAT_HOLDUP then s.porRefused 1
  else if c = 4 ∧ (s.awakeOver || s.por.backAt == some s.wall) then s.porRefused 2
  else if s.inTransition then s.porRefused 3
  else if !s.operating ∨ s.f Fd.CFG_STAT_BOOT ≠ 2 then s.porRefused 2
  else if c = 4 then
    if s.fb Fd.POR_STAT_PROVISIONAL then
      ((s.set0 Fd.POR_STAT_PROVISIONAL 0).set0 Fd.POR_CMD_STAT_STATE 2).set0 Fd.POR_CMD_STAT_CODE 0
    else s.porRefused 2
  else
    ((s.set0 Fd.POR_CMD_STAT_STATE 1).set0 Fd.POR_CMD_STAT_CODE 0).leaveTo (if c = 1 then 3 else if c = 2 then 2 else 1)

def execPorListen (t : Nat) (party : Party) (s : State) : Out := .next (((s.clock t).hostWrite party).porCmd 1)
def execPorStandby (t : Nat) (party : Party) (s : State) : Out := .next (((s.clock t).hostWrite party).porCmd 2)
def execPorSleep (t : Nat) (party : Party) (s : State) : Out := .next (((s.clock t).hostWrite party).porCmd 3)
def execPorStay (t : Nat) (party : Party) (s : State) : Out := .next (((s.clock t).hostWrite party).porCmd 4)

/-! Entry to a state (R388, R390, R394, R415, R121, R276) -/

/-- The INH lines that POR_INH gives for a state. -/
def State.inhFor (s : State) (st : Nat) : Nat :=
  match st with
  | 1 => s.f Fd.POR_INH_SLEEP
  | 2 => s.f Fd.POR_INH_STANDBY
  | 3 => s.f Fd.POR_INH_LISTEN
  | _ => s.f Fd.POR_INH_OPERATE

/-- POWER_DOWN is written and the trace stops; Listen and Sleep lose the buffer, of which the newest 512 records are kept
where SAVE_ON_SLEEP is 1 (R415). -/
def State.traceDown (s : State) (st : Nat) : State :=
  let s1 := s.trace 0x10 0 st
  let saved := if st = 2 ∨ !s.fb Fd.TRC_CFG_SAVE_ON_SLEEP then [] else s1.trc.buf.take 512
  let buf := if st = 2 then s1.trc.buf else []
  { s1 with trc := { s1.trc with running := false, buf := buf, wrapped := s1.trc.wrapped && st == 2 }
            por := { s1.por with saved := saved, downAt := some s1.wall } }

/-- The port groups that the state does not keep go off (R121). -/
def State.groupsOff (s : State) (st : Nat) : State :=
  (List.range 33).foldl (fun s g =>
    if st = 3 ∧ g < 32 ∧ s.fb Fd.PGn_MODE_LISTEN [g] then s
    else (s.groupPorts g).foldl (fun s n => s.portLost n 0) s) s

/-- The field-bus controllers and transceivers in a state: Listen keeps the controllers, Standby and Sleep stop them
(R276, R390). -/
def State.busesDown (s : State) (st : Nat) : State :=
  (List.range 32).foldl (fun s n => s.fbEnter n (if st = 3 then s.f Fd.FBn_STAT_STATE [n] else 0)) s

/-- In Listen the node relays consist frames as one in MISMATCH does, with no position (R390). -/
def State.listenConsist (s : State) : State :=
  let s1 := { s with cst := { s.cst with round := none, plan := none, headWait := none } }
  ((s1.set0 Fd.CST_STAT_STATE 5).set0 Fd.CST_STAT_POSITION 0).set0 Fd.CST_STAT_HEAD 0

/-- READY changes (R410). -/
def State.setReady (s : State) (up : Bool) : State :=
  if s.ready = up then s else (({ s with ready := up }).emit (.pin "READY" up s.raw)).emit (.msix 1)

/-- Operate, or Listen, is left for a state (R300, R388, R390). -/
def State.enterState (s : State) (st : Nat) : State :=
  let s1 := ((s.setReady false).redundantDown).traceDown st
  let s2 := ((s1.set0 Fd.POR_STAT_STATE st).set0 Fd.POR_STAT_PROVISIONAL 0).emit (.msix 1)
  let s3 := ((s2.groupsOff st).busesDown st).uaStopAll
  let s4 := if st = 3 then s3.listenConsist else s3
  let seeds := if st = 1 then some (s.f Fd.CFG_STAT_COPY, (s.rd Reg.CFG_SEQ).toNat, s.prt.cal) else s.por.seeds
  { s4 with por := { s4.por with want := s4.inhFor st, seeds := seeds } }

/-- The commanded state may be entered now: from Operate at the next instant, and from Listen at any time. -/
def State.entryDue (s : State) : Option Nat :=
  match s.por.target with
  | some x =>
    if s.f Fd.POR_STAT_STATE ≠ x.1 ∧ (!s.operating ∨ s.tu.base.isNone ∨ x.2 < s.tu.tick) then some x.1 else none
  | none => none

def execStateEntry (t : Nat) (s : State) : Out :=
  let s := s.clock t
  match s.entryDue with
  | some st => .next (s.enterState st)
  | none => .next s

/-! Wake sources (R392, R402) -/

/-- WAKE_IN has held a level for 50 µs. -/
def execWakeInLevel (t : Nat) (level : Bool) (s : State) : Out :=
  let s := s.clock t
  .next (if level != s.fb Fd.POR_SRCs_CFG_POL [0] then s.wake 0 else s)

/-- LWAKE has been high for 1 ms. -/
def execLwakeHigh (t : Nat) (s : State) : Out := .next ((s.clock t).wake 1)

/-- POR_TIMER seconds have passed since the state was entered. -/
def execWakeTimer (t : Nat) (s : State) : Out :=
  let s := s.clock t
  let n := s.f Fd.POR_TIMER_SECONDS
  .next (if n ≠ 0 ∧ !s.operating ∧ s.elapsedW s.por.entered (n * 1000000000) then s.wake 10 else s)

/-- A provisional IXKAR returns to the state that it woke from. -/
def State.goBack (s : State) : State :=
  (s.bump Reg.POR_FALSE_CNT).leaveTo s.por.from_

/-- No qualifying traffic came within FALSE_T of READY (R395). -/
def execFalseWake (t : Nat) (s : State) : Out :=
  let s := s.clock t
  if s.fb Fd.POR_STAT_PROVISIONAL ∧ s.por.target.isNone ∧ !s.por.qual ∧
      s.elapsedW s.por.readyAt (s.f Fd.POR_CFG_FALSE_T * 100000000) then
    .next (s.goBack.raise Fd.POR_EVT_FALSE_WAKE)
  else .next s

/-- MAX_AWAKE has passed since the wake; the sources are masked (R396). -/
def execAwakeLimit (t : Nat) (s : State) : Out :=
  let s := s.clock t
  if s.awakeOver then
    let s1 : State := (sourcesOf s.por.srcs).foldl (fun s k => s.sf Fd.POR_SRCs_CFG_MASKED [k] 1) s
    .next ({ s1 with por := { s1.por with backAt := some s.wall } }.goBack.raise Fd.POR_EVT_AWAKE_LIMIT)
  else .next s

/-- A full Sleep cycle without any wake ends every mask (R396). -/
def execMaskCycleEnd (t : Nat) (s : State) : Out :=
  let s := s.clock t
  match s.por.stay with
  | some w =>
    if s.elapsedW w (s.f Fd.POR_CFG_CYCLE_S * 1000000000) then
      .next ((List.range 13).foldl (fun s k => s.sf Fd.POR_SRCs_CFG_MASKED [k] 0) s)
    else .next s
  | none => .next s

/-! Supply monitors and hold-up (R397 to R402) -/

/-- VKA has been below the warning level for 2 µs: hold-up in Operate and Listen, a mere record elsewhere (R397, R398). -/
def execHoldupStart (t : Nat) (s : State) : Out :=
  let s := s.clock t
  let s1 := { s with por := { s.por with warnAt := some (s.wall - 2000) } }
  if s.fb Fd.POR_STAT_HOLDUP then .next s
  else if (s.operating ∨ s.f Fd.POR_STAT_STATE = 3) ∧ !s.por.inReset then
    .next (((s1.set0 Fd.POR_STAT_HOLDUP 1).bump Reg.POR_HOLD_CNT).raise Fd.POR_EVT_HOLDUP_START)
  else .next s1

/-- Hold-up so far in µs, from the stamp of the warning crossing (R399, R401). -/
def State.holdUs (s : State) : Nat :=
  if s.fb Fd.POR_STAT_HOLDUP then (match s.por.warnAt with | some w => (s.wall - w) / 1000 | none => 0) else 0

/-- VKA has stayed above 2.50 V for 2 ms (R399). -/
def execHoldupEnd (t : Nat) (s : State) : Out :=
  let s := s.clock t
  if s.fb Fd.POR_STAT_HOLDUP then
    let s1 := s.wr Reg.POR_HOLD_LAST [] (BitVec.ofNat 32 s.holdUs)
    .next ((s1.set0 Fd.POR_STAT_HOLDUP 0).raise Fd.POR_EVT_HOLDUP_END)
  else .next s

def execVmonLow (t : Nat) (s : State) : Out :=
  let s := s.clock t
  let s1 := { s with por := { s.por with vmonLow := some s.wall } }
  .next ((s1.set0 Fd.POR_STAT_VMON_LOW 1).raise Fd.POR_EVT_VMON_LOW)

/-- VMON has been low for DLY ms with ACT set, in Operate or Listen (R402). -/
def execVmonAction (t : Nat) (s : State) : Out :=
  let s := s.clock t
  match s.por.vmonLow with
  | some w =>
    if s.fb Fd.POR_VMON_ACT ∧ s.elapsedW w (s.f Fd.POR_VMON_DLY * 1000000) ∧ !s.inTransition ∧
        (s.operating ∨ s.f Fd.POR_STAT_STATE = 3) ∧ s.f Fd.CFG_STAT_BOOT = 2 then .next (s.leaveTo 2)
    else .next s
  | none => .next s

def execVmonUp (t : Nat) (s : State) : Out :=
  let s := s.clock t
  let s1 := { s with por := { s.por with vmonLow := none } }
  .next (((s1.set0 Fd.POR_STAT_VMON_LOW 0).raise Fd.POR_EVT_VMON_UP).wake 11)

/-! Adaptive voltage (R403, R404) -/

/-- The target is commanded; the regulator's status at it is not known yet. -/
def State.avsCommand (s : State) (mv : Nat) : State :=
  ((s.set0 Fd.POR_AVS_STAT_TARGET mv).set0 Fd.POR_AVS_STAT_GOOD 0).emit (.avs mv)

/-- Every 10 ms: the telemetry of the regulators, and a new target, for which a clock domain may have to wait. A domain
that waits goes on at the new target. -/
def execAvsUpdate (t : Nat) (target : BitVec 10) (waits : Bool) (s : State) : Out :=
  let s := (s.clock t).regulatorPoll
  let v := target.toNat
  let lo := s.f Fd.POR_AVS_CFG_VMIN
  let hi := s.f Fd.POR_AVS_CFG_VMAX
  let s1 := s.avsCommand (if v < lo then lo else if hi < v then hi else v)
  let s2 := if v < lo ∨ hi < v then s1.raise Fd.POR_EVT_AVS_CLIP else s1
  if waits ∨ s2.fb Fd.POR_AVS_STAT_FREQ_WAIT then
    .next (({ s2 with por := { s2.por with avsAt := some s2.wall } }).set0 Fd.POR_AVS_STAT_FREQ_WAIT 1)
  else .next s2

/-- The regulator reports good status at the target with its output: a waiting clock domain starts. -/
def execAvsGood (t : Nat) (vout : BitVec 10) (s : State) : Out :=
  let s := s.clock t
  let s1 := { s with por := { s.por with avsAt := none } }
  .next (((s1.set0 Fd.POR_AVS_STAT_VOUT vout.toNat).set0 Fd.POR_AVS_STAT_GOOD 1).set0 Fd.POR_AVS_STAT_FREQ_WAIT 0)

/-- No good status within 5 ms, or a PMBus status fault of a core regulator (R404). -/
def execAvsFault (t : Nat) (pmbus : Bool) (s : State) : Out :=
  let s := s.clock t
  if pmbus then .next (s.raise Fd.POR_EVT_AVS_FAULT)
  else match s.por.avsAt with
    | some w =>
      if s.elapsedW w 5000000 then
        let s1 := (s.raise Fd.POR_EVT_AVS_FAULT).assertErr.avsCommand (s.f Fd.POR_AVS_CFG_VMAX)
        .next { s1 with por := { s1.por with avsAt := some s1.wall } }
      else .next s
    | none => .next s

/-! INH lines and rails (R427, R428) -/

def inhName (k : Nat) : String := ["INH0", "INH1", "INH2", "INH3"].getD k "INH3"

/-- Drives one INH line. -/
def State.setInh (s : State) (k : Nat) (up : Bool) : State :=
  ({ s with por := { s.por with inh := setBits s.por.inh k k (b2n up), stepAt := some s.wall } }).emit
    (.pin (inhName k) up s.wall)

/-- The next line to assert, in ascending order, or else the next to release, in descending order (R427). -/
def State.inhNext (s : State) : Option (Nat × Bool) :=
  match findNat 4 (fun k => bitAt s.por.want k && !bitAt s.por.inh k) with
  | some k => some (k, true)
  | none =>
    match [3, 2, 1, 0].find? (fun k => bitAt s.por.inh k && !bitAt s.por.want k) with
    | some k => some (k, false)
    | none => none

def execInhStep (t : Nat) (s : State) : Out :=
  let s := s.clock t
  let due := match s.por.stepAt with | some w => s.elapsedW w 2000000 | none => true
  if due && s.por.released.isNone then
    match s.inhNext with
    | some x =>
      let s1 := s.setInh x.1 x.2
      .next (if x.2 then { s1 with por := { s1.por with railsAt := some s1.wall } } else s1)
    | none => .next s
  else .next s

/-- The rails are not all in range 200 ms after the last INH assertion: every line is released (R428). -/
def execRailTimeout (t : Nat) (mask : BitVec 7) (s : State) : Out :=
  let s := s.clock t
  match s.por.railsAt with
  | some w =>
    if s.elapsedW w 200000000 ∧ s.por.released.isNone ∧ mask ≠ 0 then
      let r := s.drawFree
      let s1 := r.2.gaspEntry (freeCode r.1) 0 mask.toNat
      let s2 : State := ((List.range 4).filter (bitAt s.por.inh)).foldl (fun s k => s.setInh k false) s1
      .next { s2 with por := { s2.por with railsOut := mask.toNat, railsAt := none, released := some s2.wall } }
    else .next s
  | none => .next s

/-- The whole sequence is tried again 1 s later (R428). -/
def execRailRetry (t : Nat) (s : State) : Out :=
  let s := s.clock t
  match s.por.released with
  | some w =>
    if s.elapsedW w 1000000000 then .next { s with por := { s.por with released := none, stepAt := none } } else .next s
  | none => .next s

/-- A junction is above 105 °C (R425). -/
def execThermalWarning (t : Nat) (s : State) : Out := .next ((s.clock t).assertErr)

/-- VKA is below the retention limit: the retention RAM loses its contents (R424). -/
def execBelowRetentionLimit (t : Nat) (s : State) : Out :=
  let s := s.clock t
  .next { s with gasp := [], por := { s.por with saved := [], seeds := none } }

end Sys2Proof.Machine
end

