-- ==== Sys2Proof/Machine/Resets.lean ====
section
/-! DEFINITION. Resets (R15, R16, R207, R401, R424 to R429), start-up with the image load (R365, R366, R368, R370, R372,
R378), READY with the roles of a pair (R209, R210), and the return from a low-power state (R388, R395, R415). -/

namespace Sys2Proof.Machine

open Sys2Proof

/-! The state after a reset (Table SCP-3) -/

/-- What the wake detectors and the selective-wake decoders of the Porch keep in Sleep (R276, R297, R298). -/
def wakeRegs : List RegDesc :=
  [Reg.FBn_XCVR, Reg.FBn_SWK_ID, Reg.FBn_SWK_IDM, Reg.FBn_SWK_DATA_LO, Reg.FBn_SWK_DATA_HI, Reg.FBn_XCVR_STAT]

/-- The word of a register after a reset: a warm one keeps RWS fields alone, with what the monitors of the supply show; at
any other one Porch registers stay while the Porch is supplied, and on the way into Sleep those of its wake detectors too
(Table SCP-3, log entry 136). -/
def keptWord (porch sleep rws : Bool) (r : RegDesc) (w : BitVec 32) : BitVec 32 :=
  if rws then
    let n := r.fields.foldl (fun n f => if f.acc = .rws then setBits n f.hi f.lo (bits w.toNat f.hi f.lo) else n)
      r.reset.toNat
    let keep (n : Nat) (x : Fld) : Nat := setBits n x.hi x.lo (bits w.toNat x.hi x.lo)
    BitVec.ofNat 32 (if r = Reg.POR_STAT then keep (keep n Fd.POR_STAT_HOLDUP) Fd.POR_STAT_VMON_LOW else n)
  else if (r.block = 3 ∧ porch) ∨ (sleep ∧ r ∈ wakeRegs) then w
  else r.reset

/-- A change to every stored register word, by its register and instance. -/
def State.mapRegs (s : State) (f : RegDesc → List Nat → BitVec 32 → BitVec 32) : Tab (BitVec 32) :=
  s.regs.foldr (fun e m => match regAt e.1 with | some (r, ix) => Tab.set r.reset m e.1 (f r ix e.2) | none => m) []

/-- What CTL knows of the Cellar starts again; the Cellar itself goes on (R16). -/
def Cel.ctlReset (c : Cel) : Cel :=
  { c with heard := none, sym := none, sym0 := none, waiting := none, keys := 0, expect := none, crcGap := false }

/-- The Porch after a reset: without VKA it starts anew; on the way into Sleep it goes on; any other reset ends what it
was doing and leads to Operate. -/
def State.porAfter (s : State) (off sleep hold : Bool) : Por :=
  if off then { saved := s.por.saved, seeds := s.por.seeds, downAt := s.por.downAt }
  else if sleep then { s.por with inReset := true }
  else { s.por with target := none, held := 0, waking := false, from_ := 4, qual := false, inReset := hold, avsAt := none
                    want := s.inhFor 4, railsAt := if hold then some s.wall else none }

/-- The state after a reset. What it keeps: the Porch, the Attic with its log, the xSPI memory, the power dies and the
Cellar, which no reset of CTL reaches, and the RWS fields where it is a warm one (R15, R16, R21, R371). -/
def State.afterReset (s : State) (off sleep rws hold : Bool) : State :=
  let s0 := s.setReady false
  let s1 : State := if off then ((List.range 4).filter (bitAt s.por.inh)).foldl (fun s k => s.setInh k false) s0 else s0
  let fresh : State := {
    pending := s.pending, wall := s.wall, out := s1.out, free := s.free, boots := s.boots + 1, gasp := s.gasp
    regs := s.mapRegs (fun r _ w => keptWord (!off) sleep rws r w)
    fio := { dies := s.fio.dies, ls := s.fio.ls, ein := s.fio.ein, uv := s.fio.uv }
    cel := s.cel.ctlReset, cst := { draws := s.cst.draws }
    cfg := { xspi := s.cfg.xspi, slots := s.cfg.slots, log := s.cfg.log, cycles := s.cfg.cycles }
    hst := if rws then { jtag := s.hst.jtag, cells := s.hst.cells, driven := s.hst.driven, floating := s.hst.floating }
      else {}
    por := s.porAfter off sleep hold }
  let s2 := ((fresh.set0 Fd.FIO_STAT_VLS (s.f Fd.FIO_STAT_VLS)).set0 Fd.FIO_STAT_FS_A (s.f Fd.FIO_STAT_FS_A)).set0
    Fd.FIO_STAT_FS_B (s.f Fd.FIO_STAT_FS_B)
  let s3 := (s2.set0 Fd.ATC_WEAR_MAX_CYCLES (s.f Fd.ATC_WEAR_MAX_CYCLES)).set0 Fd.ATC_WEAR_WORN (s.f Fd.ATC_WEAR_WORN)
  let s3 : State := (List.range 24).foldl State.showLs s3
  if off ∨ sleep then s3.einReset
  else
    let s4 := ((s3.set0 Fd.POR_STAT_STATE 4).set0 Fd.POR_STAT_TRANS 0).set0 Fd.POR_STAT_PROVISIONAL 0
    (if s4.f Fd.POR_CMD_STAT_STATE = 1 then s4.set0 Fd.POR_CMD_STAT_STATE 0 else s4).einReset

/-! Image load (R365, R366, R368) -/

/-- The header and the body of an image copy. -/
def State.copyHeader (s : State) (c : Nat) : Bytes := s.flash (copyBase c) 256
def State.copyBody (s : State) (c : Nat) : Bytes := s.flash (copyBase c + 256) (hdrBody (s.copyHeader c))

/-- The copies to try, in their order: by BOOT_MODE and SEQ, with the copy that the wake seeds name first. -/
def State.copyOrder (s : State) (mode : Nat) (seed : Option Nat) : List Nat :=
  let ok (c : Nat) : Bool := hdrOk (s.copyHeader c)
  let q0 := hdrSeq (s.copyHeader 0)
  let q1 := hdrSeq (s.copyHeader 1)
  let bySeq := if ok 0 && ok 1 && serialAfter 32 q1 q0 then [1, 0] else [0, 1]
  let cs := match mode with
    | 0 => (match seed with | some c => c :: bySeq.filter (· != c) | none => bySeq)
    | 1 => []
    | 2 => [0]
    | _ => [1]
  cs.filter ok

/-- The CRC of a copy passes. -/
def State.copyOk (s : State) (c : Nat) : Bool := imageCrcOk (s.copyHeader c) (s.copyBody c)

/-- The fenced safe state (R366, R378): 1 no valid copy, 2 SERVICE. The MGT port runs 1000BASE-X (R117). -/
def State.fencedSafe (s : State) (reason : Nat) : State :=
  let s1 := (s.set0 Fd.CFG_STAT_BOOT 3).set0 Fd.CFG_STAT_REASON reason
  let s2 : State := (List.range 32).foldl (fun s g => s.sf Fd.PGn_MODE_MODE [g] 7)
    { s1 with act := { s1.act with mgtMode := 0 } }
  (s2.assertErr.gaspEntry 0x0182 reason 0).logEvent 0x0182 (BitVec.ofNat 32 reason)

/-- Entries of an allow-list section (KIND 3h), and the fail-safe section (KIND 4h), which counts with a good CRC only. -/
def allowOf (xs : List Section) : List (Nat × Nat) :=
  (xs.filter (fun x => x.kind == 3)).flatMap (fun x => (rowsOfBytes 8 x.body).map (fun n => (n % 2 ^ 32, n / 2 ^ 32)))

def State.failSafes (s : State) (xs : List Section) : State :=
  (xs.filter (fun x => x.kind == 4 && leAt x.body 28 4 == crc32 (slice x.body 0 28))).foldl (fun s x =>
    let s1 : State := (List.range 24).foldl (fun s n => s.sf Fd.FIO_LSn_CFG_FS [n] (byteAt x.body n)) s
    s1.set0 Fd.FIO_CFG_WDT_MS (byteAt x.body 24)) s

/-- One settings triple: applied where the allow-list holds its address, with its mask ANDed with the listed bits; any
other is logged (R372). -/
def State.settingTriple (s : State) (addr mask value : Nat) : State :=
  match s.cfg.allow.find? (fun e => e.1 == addr) with
  | some e =>
    let m := BitVec.ofNat 32 (mask &&& e.2)
    s.setConfig addr ((s.valueAt addr &&& ~~~m) ||| (BitVec.ofNat 32 value &&& m))
  | none => s.logEvent 0x0280 (BitVec.ofNat 32 addr)

/-- The CRC-32 of a slot, over its bytes but those of the CRC itself. -/
def slotCrc (b : Bytes) : Nat := crc32 (slice b 0 12 ++ slice b 16 240)

/-- Applies the settings slots in ascending order. -/
def State.applySettings (s : State) : State :=
  (keys s.cfg.slots).foldl (fun s k =>
    let b := s.slotBytes k
    if leAt b 12 4 = slotCrc b then
      (List.range (min 20 (leAt b 0 2))).foldl (fun s i =>
        let o := 16 + 12 * i
        s.settingTriple (leAt b o 4) (leAt b (o + 4) 4) (leAt b (o + 8) 4)) s
    else s) s

/-- The unread last-gasp entries go into the event log with GASP set, oldest first, and are marked read (R378). -/
def State.gaspCopy (s : State) : State :=
  let unread := (s.gasp.filter (fun e => !e.2)).reverse
  let s1 := { s with gasp := s.gasp.map (fun e => (e.1, true)) }
  unread.foldl (fun s e =>
    let x := { e.1 with seq := s.evt.seq, flags := e.1.flags ||| 8#8 }
    ({ s with evt := { s.evt with seq := s.evt.seq + 1, vol := ((s.raw, x) :: s.evt.vol).take 1024 } }).keepUnstored x) s1

/-- The content that an image puts into a set of copies. -/
def State.imageSet (s : State) (c : Nat) : CfgSet :=
  CfgSet.sections (CfgSet.named {} (hdrSetId (s.copyHeader c))) (sectionsOf (s.copyHeader c) (s.copyBody c))

/-- Values of the register store at the addresses of a table. -/
def State.valuesOf (s : State) (t : Tab (Option (BitVec 32))) : Tab (Option (BitVec 32)) :=
  t.map (fun e => (e.1, some (s.valueAt e.1)))

/-- The sections of a copy go into registers and tables, and both sets of copies hold them. -/
def State.loadCopy (s : State) (c : Nat) (fallback : Bool) : State :=
  let h := s.copyHeader c
  let xs := sectionsOf h (s.copyBody c)
  let set := s.imageSet c
  let s1 := ((s.setConfigs set.regs).setConfigs set.quiesce).setConfigs set.start
  let s2 := ({ s1 with cfg := { s1.cfg with allow := allowOf xs } }.failSafes xs).applySettings
  let s3 : State := { s2 with
    act := set
    shd := { set with regs := s2.valuesOf set.regs, quiesce := s2.valuesOf set.quiesce, start := s2.valuesOf set.start } }
  let s4 : State := [0, 1, 2].foldl (fun s k => s.setChan k { s.chan k with code := set.code }) s3
  let s5 := (((s4.set0 Fd.CFG_STAT_BOOT 1).set0 Fd.CFG_STAT_COPY c).set0 Fd.CFG_STAT_FALLBACK (b2n fallback)).wr
    Reg.CFG_SEQ [] (BitVec.ofNat 32 (hdrSeq h))
  ((s5.wr64 Reg.CFG_SETID_LO Reg.CFG_SETID_HI [] set.setId).set0 Fd.ATC_STAT_MOUNTED 1).set0 Fd.GNG_STAT_TEST 1

/-- Starts every port of the groups that the image uses, and the Gable lanes (R106, R368). -/
def State.startPorts (s : State) : State := (s.ports ++ [256, 257]).foldl State.portStart s

/-- The raw counter starts, with BOOT_MODE as it is sampled (Table CFG-3). -/
def State.rawStarts (s : State) (mode : Nat) : State :=
  { s with raw := 0, por := { s.por with inReset := false, railsOut := 0, railsAt := none, boot := mode } }

/-- The transceivers stand by for controllers that are OFF (R276). -/
def State.xcvrsStart (s : State) : State := (List.range 32).foldl (fun s n => s.fbEnter n (s.fbState n)) s

/-- The end of a reset: the straps are sampled, the raw counter starts, and the transceivers start (Table CFG-3). -/
def State.resetEnds (s : State) (mode : Nat) (side : Bool) : State :=
  (((s.rawStarts mode).set0 Fd.ASD_STAT_SIDE (b2n side)).einReset).xcvrsStart

/-- Start-up with the copies to try, up to the start of the calibrations; the fenced safe state where none passes. -/
def State.bootFrom (s : State) (mode : Nat) (cs : List Nat) : State :=
  match cs.find? s.copyOk with
  | some c => (s.loadCopy c (cs.head? != some c)).writeDies.startPorts.celKeyReq.gaspCopy
  | none => (s.set0 Fd.CFG_STAT_FALLBACK (b2n (!cs.isEmpty))).fencedSafe (if mode = 1 then 2 else 1)

/-- The copy that the wake seeds name, on the return from Sleep (R388). -/
def State.bootSeed (s : State) : Option Nat :=
  if s.por.waking ∧ s.f Fd.POR_STAT_STATE = 1 then s.por.seeds.map (·.1) else none

/-- Start-up after the end of a reset. -/
def State.startUp (s : State) (mode : Nat) (side : Bool) : State :=
  (s.resetEnds mode side).bootFrom mode ((s.resetEnds mode side).copyOrder mode s.bootSeed)

/-! The reset commands -/

/-- First supply, or VKA at the reset level: everything but the Attic and the retention RAM; the reset is held (R15). -/
def execPowerOnReset (t : Nat) (s : State) : Out := .next ((s.clock t).afterReset true false false true)

/-- RST_N low: a warm reset that is held; a duty relinquishes first (R15, R237). -/
def execRstNLow (t : Nat) (s : State) : Out := .next (((s.clock t).relinquish 2).afterReset false false true true)

/-- A warm reset that is not held, with the start-up that follows it. -/
def State.warmReset (s : State) (mode : Nat) (side : Bool) : State :=
  ((s.relinquish 2).afterReset false false true false).startUp mode side

def execHostWarmReset (t : Nat) (party : Party) (bootMode : BitVec 2) (pairSide : Bool) (s : State) : Out :=
  .next (((s.clock t).hostWrite party).warmReset bootMode.toNat pairSide)

/-- At instant RESET_TICK a target node resets (R207). -/
def execConsistCommandedReset (t : Nat) (bootMode : BitVec 2) (pairSide : Bool) (s : State) : Out :=
  let s := s.clock t
  match s.cst.resetAt with
  | some n => if s.tu.base.isSome ∧ n ≤ s.tu.tick then .next (s.warmReset bootMode.toNat pairSide) else .next s
  | none => .next s

/-- A held reset ends, and start-up begins; from Sleep only a wake leads there (R368, R388, R426). -/
def execResetRelease (t : Nat) (bootMode : BitVec 2) (pairSide : Bool) (s : State) : Out :=
  let s := s.clock t
  if s.por.inReset ∧ (s.f Fd.POR_STAT_STATE ≠ 1 ∨ s.por.waking) then .next (s.startUp bootMode.toNat pairSide)
  else .next s

/-- An orderly reset: a duty relinquishes, and a last-gasp entry carries the hold-up so far and the rails that are out of
range; which event its CODE names is open (R14, R401, R429, log entry 3). -/
def State.orderly (s : State) (mask : Nat) (off : Bool) : State :=
  let r := (s.relinquish 3).drawFree
  let s1 := r.2.gaspEntry (freeCode r.1) s.holdUs mask
  let s2 := s1.afterReset off false false true
  { s2 with por := { s2.por with railsOut := mask } }

/-- VKA is below the reset level (R401). -/
def execVkaResetLevel (t : Nat) (s : State) : Out := .next ((s.clock t).orderly 0 true)

/-- A rail has been out of range for 2 µs in Operate, Listen or Standby (R429). -/
def execRailFault (t : Nat) (mask : BitVec 7) (s : State) : Out :=
  let s := s.clock t
  if mask ≠ 0 ∧ s.f Fd.POR_STAT_STATE ≠ 1 ∧ !s.por.inReset then .next (s.orderly mask.toNat false) else .next s

/-- A junction outside PWA, PWB and CEL is at 125 °C (R425). -/
def execThermalReset (t : Nat) (s : State) : Out :=
  let s := s.clock t
  if s.por.inReset then .next s else .next (s.orderly 0 false)

/-! Per-block reset (R441) -/

/-- Blocks that accept a per-block reset (Table MAP-1). -/
def acceptsReset (b : Nat) : Bool := decide (1 ≤ b ∧ b ≤ 0x14) && b != 3 && b != 0x0D

/-- The word of a register after a per-block reset: its status, event, counter and command fields take their reset
values; configuration, RWS fields and the fields that show what the block is doing stay. -/
def blockWord (r : RegDesc) (w : BitVec 32) : BitVec 32 :=
  BitVec.ofNat 32 (r.fields.foldl (fun n f =>
    if f.acc = .ro ∨ f.acc = .w1c ∨ f.acc = .rc ∨ f.acc = .wo then setBits n f.hi f.lo (bits r.reset.toNat f.hi f.lo) else n)
    w.toNat)

/-- Clears the values of a shadow table that belong to a block. -/
def clearShadow (b : Nat) (t : Tab (Option (BitVec 32))) : Tab (Option (BitVec 32)) :=
  t.map (fun e => match regAt e.1 with | some (r, _) => if r.block = b then (e.1, some 0) else e | none => e)

/-- The inactive copies of a block are cleared. -/
def CfgSet.clearBlock (c : CfgSet) (b : Nat) : CfgSet :=
  let c1 := { c with regs := clearShadow b c.regs, quiesce := clearShadow b c.quiesce, start := clearShadow b c.start }
  match b with
  | 6 => { c1 with gng := {} }
  | 7 => { c1 with tasks := [], code := [], maps := {} }
  | 10 => { c1 with sen := [] }
  | 0x13 => { c1 with fp := [] }
  | _ => c1

/-- The OPEN bit of a block falls. -/
def State.closeBlock (s : State) (b : Nat) : State :=
  match b with
  | 1 => s.set0 Fd.CFG_SHR_ADDR_OPEN 0
  | 6 => s.set0 Fd.GNG_TBL_ADDR_OPEN 0
  | 10 => s.set0 Fd.SEN_TBL_ADDR_OPEN 0
  | 0x13 => s.set0 Fd.FP_TBL_CTL_OPEN 0
  | _ => s

/-- Ports in FAULT go to CAL (Table PRT-3). -/
def State.pgReset (s : State) : State :=
  let ps := s.prt.faulted.filter (· < 256)
  let s1 := { s with prt := { s.prt with faulted := s.prt.faulted.filter (256 ≤ ·) } }
  ps.foldl (fun s n => if s.pst n = 8 then s.setPst n 1 else s) s1

/-- What a per-block reset does to the runtime state of a block (Table SCP-5, R106). -/
def State.blockRuntime (s : State) (b : Nat) : State :=
  match b with
  | 6 => (s.set0 Fd.GNG_STAT_TEST 1).set0 Fd.GNG_STAT_TEST_PASSES 0
  | 7 =>
    let s1 := s.overrunTick
    { s1 with tke := { s1.tke with resetTick := true } }
  | 10 => s.senReset
  | 0x10 => s.einReset
  | 0x12 => s.pgReset
  | _ => s

/-- The registers and the inactive copies of a block after its reset. -/
def State.blockClear (s : State) (b : Nat) : State :=
  { s with regs := s.mapRegs (fun r _ w => if r.block = b then blockWord r w else w)
           shd := s.shd.clearBlock b, cfg := { s.cfg with intact := false } }

/-- A per-block reset of block b. -/
def State.blockReset (s : State) (b : Nat) : State :=
  if !acceptsReset b then s
  else
    let s1 := if s.cfg.pending.isSome ∨ s.cfg.check.isSome then s.swapRefused 11 else s
    ((s1.blockClear b).closeBlock b).blockRuntime b

def execPerBlockReset (t : Nat) (party : Party) (block : BitVec 8) (s : State) : Out :=
  .next (((s.clock t).hostWrite party).blockReset block.toNat)

/-! A power state is reached (R388, R393) -/

def execStateReached (t : Nat) (s : State) : Out :=
  let s := s.clock t
  match s.por.target with
  | some x =>
    if s.f Fd.POR_STAT_STATE = x.1 then
      let s1 := s.set0 Fd.POR_STAT_TRANS 0
      let s2 := if s1.f Fd.POR_CMD_STAT_STATE = 1 then s1.set0 Fd.POR_CMD_STAT_STATE 2 else s1
      let s3 := { s2 with por := { s2.por with
        target := none, held := 0, entered := s2.wall, stay := if x.1 = 3 then none else some s2.wall } }
      let s4 := if x.1 = 1 then s3.afterReset false true false true else s3
      .next (if s.por.held = 0 then s4 else s4.acceptWake s.por.held)
    else .next s
  | none => .next s

/-! READY (R209, R210, R368, R370) -/

/-- The module runs unpaired. -/
def State.unpaired (s : State) : State := s.setRole 0

/-- Roles are settled at READY from what the module hears of its partner (R42, R209, R210). -/
def State.settleRoles (s : State) (partner : Option PartnerSeen) : State :=
  if !s.fb Fd.ASD_CFG_PAIRED then s.unpaired
  else if 2 < s.f Fd.TKE_CFG_PERIOD_K then s.unpaired.raise Fd.ASD_EVT_PAIR_REFUSED
  else match partner with
    | none =>
      if s.preferred then s.becomeDuty
      else
        let s1 := s.setRole 0
        { s1 with asd := { s1.asd with waiting := some s.tickCount } }
    | some p =>
      if p.eui ≠ s.rd64 Reg.ASD_PARTNER_LO Reg.ASD_PARTNER_HI ∨ !p.imageOk then s.unpaired.raise Fd.ASD_EVT_PAIR_REFUSED
      else
        let s1 := { s with asd := { s.asd with heard := some s.tickCount, heardRaw := s.raw, partnerRole := p.role } }
        let s2 := s1.set0 Fd.ASD_STAT_PARTNER 1
        (if p.role = 1 then s2.wr Reg.ASD_EPOCH [] p.epoch else s2).settleWith p.role p.side p.eui

/-- RESUME with the gap since POWER_DOWN in µs, counted in periods of the 32.768 kHz Porch counter, after the records that
the retention RAM kept (R415). -/
def State.traceUp (s : State) : State :=
  match s.por.downAt with
  | some w =>
    let gap := (s.wall - w) * 32768 / 1000000000 * 1000000 / 32768
    let saved := s.por.saved.map (fun r => { r with flags := r.flags ||| 2#8 })
    let s1 := { s with trc := { s.trc with running := true, buf := (s.trc.buf ++ saved).take 16384 }
                       por := { s.por with saved := [], downAt := none } }
    s1.trace 0x11 0 (min gap 0xFFFFFFFF)
  | none => s

/-- Blocks of the control domain, which Listen switches off (Table ARC-7). -/
def controlBlocks : List Nat := [4, 7, 8, 9, 10, 11, 12, 13, 15, 17]

/-- After Listen the control domain starts again from the running image copy (R388); a halt stays (R68). -/
def State.reloadControl (s : State) : State :=
  let set := s.imageSet (s.f Fd.CFG_STAT_COPY)
  let mine (e : Nat × Option (BitVec 32)) : Bool :=
    match regAt e.1 with | some (r, _) => controlBlocks.contains r.block | none => false
  let side := s.f Fd.ASD_STAT_SIDE
  let s1 := { s with
    regs := s.mapRegs (fun r _ w => if controlBlocks.contains r.block then r.reset else w)
    act := { s.act with tasks := set.tasks, code := set.code, maps := set.maps, sen := set.sen }
    shd := { s.shd with tasks := set.tasks, code := set.code, maps := set.maps, sen := set.sen }
    evt := {}, tke := {}, cst := { draws := s.cst.draws }, asd := {}, sen := {}, brg := {}, hst := {}
    cel := s.cel.ctlReset }
  let s2 := ((s1.setConfigs (set.regs.filter mine)).setConfigs (set.quiesce.filter mine)).setConfigs (set.start.filter mine)
  let s3 : State := [0, 1, 2].foldl (fun s k => s.setChan k { s.chan k with code := set.code }) s2
  ((s3.set0 Fd.ASD_STAT_SIDE side).set0 Fd.TKE_STAT_HALT (s.f Fd.TKE_STAT_HALT)).celKeyReq

/-- The calibrations have been reported: no port is in CAL. -/
def State.calibrated (s : State) : Bool := (s.ports ++ [256, 257]).all (fun n => s.pst n != 1)

/-- A group supply that is absent as start-up ends raises its event and asserts ERR_N; its channels stay off until it rises
(R369). -/
def State.absentSupplies (s : State) : State :=
  ((List.range 4).filter (fun g => !bitAt (s.f Fd.FIO_STAT_VLS) g)).foldl (fun s g =>
    (if s.fio.uv.contains g then s.raise Fd.FIO_EVT_VLS_UV [] g else s.vlsLow g).assertErr) s

/-- READY rises: the RWL fields are sealed, a NONCE is drawn, inauguration and pairing start (Table CST-4), and the
field-bus controllers start where they did not run before. -/
def State.readyRise (s : State) (partner : Option PartnerSeen) (buses : Bool) : State :=
  let s1 := ((s.set0 Fd.CFG_STAT_SEALED 1).set0 Fd.CFG_STAT_BOOT 2).setReady true
  let s2 := { s1 with cst := { s1.cst with nonce := Config.nonce s1.cst.draws, draws := s1.cst.draws + 1
                                           round := none, plan := none, headWait := none } }
  let s2a := s2.writeDies.settleRoles partner
  let s3 := if buses then s2a.fbStartAll else s2a
  let s4 := if s3.fb Fd.CEL_CFG_REC_EN ∧ !s3.fb Fd.CEL_STAT_KEY_OK then s3.raise Fd.CEL_EVT_ABSENT else s3
  ((s4.set0 Fd.CST_STAT_STATE 0).originate).traceUp

/-- The wake is complete: Operate with its INH lines, provisional until it is confirmed (R394, R395). -/
def State.woken (s : State) : State :=
  let s1 := ((s.set0 Fd.POR_STAT_STATE 4).set0 Fd.POR_STAT_TRANS 0).set0 Fd.POR_STAT_PROVISIONAL 1
  ({ s1 with por := { s1.por with waking := false, qual := false, readyAt := s.wall, want := s.inhFor 4 } }).emit (.msix 1)

def execReadyRise (t : Nat) (partner : Option PartnerSeen) (s : State) : Out :=
  let s := s.clock t
  let boot := s.f Fd.CFG_STAT_BOOT
  if s.por.inReset ∨ !s.calibrated then .next s
  else if boot = 1 then
    .next ((if s.por.waking then s.woken.readyRise partner true else s.readyRise partner true).absentSupplies)
  else if boot = 2 ∧ s.por.waking then
    let listen : Bool := decide (s.por.from_ = 3)
    let s1 := if listen then s.reloadControl else s
    .next (s1.startPorts.woken.readyRise partner (!listen))
  else .next s

end Sys2Proof.Machine
end

