-- ==== Sys2Proof/Machine/Sync.lean ====
section
/-! DEFINITION. A received Sync: measurement, comparison of the tick reference, and regeneration (R85, R90 to R94). -/

namespace Sys2Proof.Machine

open Sys2Proof

/-- The rank of a clock in the last commit: 0 for its master, 1 to 3 for its backups (R89). -/
def State.rankOf (s : State) (m : BitVec 64) : Option Nat := findNat 4 (fun i => s.cst.masters[i]? == some m)

/-- A slave takes Sync from its master and, in HOLDOVER, from a backup that has become master after it. A master takes one
from a backup of a higher rank only: that one has deposed it (R93). Two-step Sync comes from outside the consist: a clock
that no commit has ranked is taken where the consist has no master of its own (Table TIM-2, DESIGN CHOICE, log entry 128). -/
def State.takesSync (s : State) (m : SyncMsg) : Bool :=
  let st := s.f Fd.TU_STAT_STATE
  let after (c : BitVec 64) (r : Nat) : Bool := match s.rankOf c with | some q => decide (q < r) | none => true
  match s.rankOf m.master with
  | some r =>
    if m.master == ownEui || st == 0 || m.twoStep then false
    else if st == 4 then (s.rankOf ownEui).isSome && after ownEui r
    else s.tu.master == m.master || (st == 3 && after s.tu.master r)
  | none => st != 0 && st != 4 && (s.tu.master == BitVec.allOnes 64 || s.tu.master == m.master)

/-! Syntonisation (R87, R88) -/

/-- A port can be the syntonisation source: time-aware, allowed and with a valid recovered clock (R87). -/
def State.yUsable (s : State) (n : Nat) : Bool :=
  s.f Fd.TU_PORTn_CFG_ROLE [n] == 1 && s.fb Fd.TU_PORTn_CFG_SYNTON_SRC [n] && s.fb Fd.TU_PORTn_STAT_RCLK_OK [n]

/-- The ports toward the master: the time source port, then the other port of its ring, then the Gable link, as on a ring
both directions lead to the master (log entry 128). -/
def State.towardMaster (s : State) : List Nat :=
  let src := s.f Fd.TU_STAT_SRC_PORT
  if 256 < src then []
  else
    src :: (s.ringOther src).toList ++ (if src = 256 then [] else [256])

/-- The next syntonisation source: the first usable port toward the master that is not lost. -/
def State.yChoose (s : State) (lost : Option Nat) : Option Nat :=
  s.towardMaster.find? (fun n => s.yUsable n && lost != some n)

/-- Loss of the selected recovered clock: the PLL holds its frequency, and the next source is chosen for the next
instant (R88). -/
def execSyntonLoss (t : Nat) (s : State) : Out :=
  let s := s.clock t
  match s.tu.yPort with
  | some n =>
    let s := (s.sf Fd.TU_PORTn_STAT_RCLK_OK [n] 0).sf Fd.TU_PORTn_STAT_YSRC [n] 0
    let s := (s.set0 Fd.TU_STAT_SYNTONISED 0).raise Fd.TU_EVT_SYNTON_LOSS [] n
    .next { s with tu := { s.tu with yPort := none, ySource := s.yChoose (some n) } }
  | none => .next s

/-- At an instant YCLK takes the recovered clock of the time source port, or, where that one is not valid, of the next port
toward the master; after a loss it takes the port chosen then (R87, R88). -/
def State.applyYSource (s : State) : State :=
  let want := if !s.fb Fd.TU_CFG_SYNTON_EN then none
    else match s.tu.ySource with
      | some n => if s.yUsable n then some n else s.yChoose none
      | none => s.yChoose none
  if want = s.tu.yPort then { s with tu := { s.tu with ySource := none } }
  else
    let s := match s.tu.yPort with | some n => s.sf Fd.TU_PORTn_STAT_YSRC [n] 0 | none => s
    let s := match want with | some n => s.sf Fd.TU_PORTn_STAT_YSRC [n] 1 | none => s
    { s with tu := { s.tu with yPort := want, ySource := none } }.set0 Fd.TU_STAT_SYNTONISED (b2n want.isSome)

/-- The port becomes the time source port (R87). -/
def State.setSource (s : State) (n : Nat) : State :=
  let s1 := s.sourcePort n
  if s.f Fd.TU_STAT_SRC_PORT ≠ n ∧ s1.yUsable n then { s1 with tu := { s1.tu with ySource := some n } } else s1

/-- TICK_BASE and HC_LOG in force at the own instant at or below a time in ns, with the instant's number; none before
the older of the last two changes (R90). -/
def tickAt (period : Nat) (now : BitVec 64 × Nat) : List TickChange → Int → Option (Int × BitVec 64 × Nat)
  | [], x => some ((x - now.1.toNat) / period, now.1, now.2)
  | c :: cs, x =>
    let n := (x - now.1.toNat) / period
    if (c.tick : Int) ≤ n then some (n, now.1, now.2)
    else if cs.isEmpty then
      (if ((x - c.base.toNat) / period) < c.tick then some ((x - c.base.toNat) / period, c.base, c.hcLog) else none)
    else tickAt period (c.base, c.hcLog) cs x

/-- As tickAt; with two changes kept, what lies before the older one is not compared. -/
def State.tickThen (s : State) (x : Int) : Option (Int × BitVec 64 × Nat) :=
  match s.tu.base with
  | none => none
  | some b =>
    match s.tu.changes with
    | [a, c] =>
      let r := tickAt s.period (b, s.f Fd.TKE_CFG_HC_LOG) [a] x
      match r with
      | some (n, _, _) => if n < c.tick then none else r
      | none => none
    | cs => tickAt s.period (b, s.f Fd.TKE_CFG_HC_LOG) cs x

/-- The tick reference agrees with this node's own values at the send time in ns (R90). -/
def State.refAgrees (s : State) (r : TickRef) (send : Int) : Bool :=
  match s.tickThen send with
  | none => true
  | some (n, base, hc) =>
    let p : Int := s.period
    let past := send - base.toNat - n * p
    let got : Int := r.tick.toNat
    r.base == base && r.period.toNat == s.f Fd.TKE_CFG_PERIOD_K && r.hyper.toNat == hc &&
      (got == n || (decide (past ≤ 10) && got == n - 1) || (decide (p - past ≤ 10) && got == n + 1))

/-- Compares the tick reference TLV; a difference raises TICK_SLIP and requests an inauguration (R90, R91). -/
def State.checkRef (s : State) (m : SyncMsg) : State :=
  match syncTickRef m with
  | some r =>
    if r.length ≠ 32 ∨ s.refAgrees r ((m.origin.toNat : Int) + m.corr / 2 ^ 16) then s
    else ((s.raise Fd.TU_EVT_TICK_SLIP).assertErr).trigger
  | none => s

/-- A Sync of the consist's domain from the node's master, with its corrected ingress stamp. Where the master's Sync comes
by both sides of a ring, the port of the latest one taken is the time source port (DESIGN CHOICE, log entry 147). It is
regenerated on the other time-aware ports with the link delay; the residence time joins as it leaves (R85). TU_OFM is own
time less the master's, rounded down to its unit and held to 32 bits: the spec states neither (DESIGN CHOICE, log entry
127). -/
def State.sync (s : State) (n ingress : Nat) (m : SyncMsg) : State :=
  let s1 := (s.setMaster m.master).setSource n
  let corr := m.corr + s1.linkDelay n
  let at_ : Int := (m.origin.toNat : Int) * 2 ^ 32 + corr * 2 ^ 16
  let diff := at_ - s1.stampAt ingress
  let s2 := s1.wr Reg.TU_OFM [] (BitVec.ofInt 32 (clipInt (-2147483648) 2147483647 (-diff / 2 ^ 24)))
  let st := s2.f Fd.TU_STAT_STATE
  let s3 := { s2 with tu := { s2.tu with diff := some diff, syncFresh := true, syncRef := s2.raw, everLocked := true } }
  let s4 := if st = 1 ∨ st = 2 then s3 else s3.set0 Fd.TU_STAT_STATE 1
  let s5 := s4.checkRef m
  (s5.timePorts (some n)).foldl (fun s p => s.sendSync p (s.stampAt ingress) { m with corr := corr, twoStep := false }) s5

/-- ingress: the stamp of the MAC, in 0.125 ns of raw time. -/
def execSyncReceived (t : Nat) (port : Fin 257) (ingress : Nat) (msg : SyncMsg) (s : State) : Out :=
  let s := s.clock t
  let n := port.val
  let s := s.ctlRead 1 n (fun f => ptpTypeOf f == 0)
  if !s.ctlCut n ∧ s.f Fd.TU_PORTn_CFG_ROLE [n] = 1 ∧ msg.domain.toNat = s.f Fd.TU_CFG_DOMAIN ∧ s.takesSync msg then
    .next (s.sync n (s.rxStamp n ingress) msg)
  else .next s

end Sys2Proof.Machine
end

