-- ==== Sys2Proof/Machine/TickFlow.lean ====
section
/-! DEFINITION. The tick: the common instant (R43 to R48, R227), the vote with the state copy and the command frames (R25,
R38, R67, R225, R243, R244), the halt (R68) and TICK_LOST (R51). -/

namespace Sys2Proof.Machine

open Sys2Proof

/-! The common instant -/

/-- Words of arrived imports that act as output words of this IXKAR (R48, R49). -/
def State.driveWords (s : State) : Tab (Option (BitVec 32)) :=
  s.act.maps.drives.foldl (fun m e =>
    (List.range (e.len / 4)).foldl (fun m i =>
      match Tab.get none s.tke.imports (e.imp / 4 + i) with
      | some w => Tab.set none m (e.out / 4 + i) (some w)
      | none => m) m) s.tke.voted

/-- The outputs of the tick that ends take effect (R37, R48): transmit slots, output sentences, the words in force, the
latch symbols that FLD owes to the power dies, and the source of the recovered clock.  A tick that overran has nothing
voted, so every output it would have driven stays as it was (R67); the drive imports take effect even then (DESIGN CHOICE,
log 127).  Between a failed duty's last latch and the takeover nothing else latches, so the power dies keep their values
through the gap (R239). -/
def State.latchOutputs (s : State) : State :=
  let s1 := { s with tke := { s.tke with voted := s.driveWords } }
  let s2 := if s.acting then s1.fbSlots.outputSentences else s1
  let force := s2.tke.voted.foldl (fun m e => match e.2 with | some w => Tab.set 0 m e.1 w | none => m) s2.tke.force
  { s2 with tke := { s2.tke with force := force, voted := [] }
            fio := { s2.fio with latchDue := if s2.framesFlow then [0, 1] else [], refreshed := 0 } }.applyYSource

/-- What counts per tick starts again, and a tick that begins in holdover is counted (R92). -/
def State.newTick (s : State) : State :=
  let s := if s.f Fd.TU_STAT_STATE = 3 then s.bump Reg.TU_HOLD_CNT else s
  let idle (s : State) (c : Nat) : State := (s.setChan c { s.chan c with phase := .idle, tasks := [] }).afterTest c
  let s1 : State := [0, 1, 2].foldl idle s
  { s1 with
    tke := { s1.tke with started := false, deadline := false, staging := false, voteDone := false, overrun := false
                         resetTick := false, framesOut := false, sent := [], prevOverrun := s.tke.overrun
                         lateLast := s.tke.lateTick, lateTick := 0 }
    asd := { s1.asd with releases := if s.role = 1 then s1.asd.releases else []
                         redTicks := if s.fb Fd.ASD_STAT_REDUNDANT then s1.asd.redTicks + 1 else 0 } }

/-- Entries of the event log go to the partner, 256 to a frame (R224, R377). -/
def State.sendLog (s : State) : State :=
  if s.evt.unsent.isEmpty ∨ s.gableLanes = 0 then s
  else
    (chunks 256 s.evt.unsent).foldl (fun s c => s.pairSend 11 (c.map LogEntry.bytes)) { s with evt := { s.evt with unsent := [] } }

/-- What a paired module does at the start of every tick: it notices that its partner has fallen silent, a failed test of
its own ends redundancy, and log entries that wait go out (R213, R377). -/
def State.pairTick (s : State) : State :=
  if s.role = 0 ∧ s.asd.waiting.isNone then s
  else
    let silent : Bool := match s.asd.heard with | some n => decide (n + 2 < s.tickCount) | none => true
    let s1 := if silent then s.set0 Fd.ASD_STAT_PARTNER 0 else s
    (if s1.tests ≠ 15 ∧ (s1.role = 1 ∨ s1.role = 2) then s1.redundantDown else s1).sendLog

/-- A paired module sends its HEALTH, whose temperature is a reading: at staging close, so that it tells of the TICK_END
of its tick (R227, R242, log entries 3 and 152). -/
def State.healthTick (s : State) : State :=
  if (s.role = 0 ∧ s.asd.waiting.isNone) ∨ !s.operating ∨ !s.ready then s
  else
    let r := s.drawFree
    r.2.pairSend 6 [r.2.healthRecord (r.1.toNat % 65536)]

/-- A round that failed starts again at the instant (R201). -/
def State.restartRound (s : State) : State := if s.cst.restart then s.originate else s

/-- Instant N: its number, the outputs of tick N - 1, and the inputs frozen for tick N (R43, R44, R46). -/
def State.instant (s : State) : State :=
  let n := if s.tu.atInstant then s.tu.tick else (s.tu.tick + 1) % 2 ^ 64
  let s0 := s.strobeNow
  let s1 := { s0 with tu := { s0.tu with tick := n, atInstant := false } }
  ((s1.latchOutputs.newTick.freeze).restartRound).pairTick

/-- The reading has reached the next instant, or a commit has set one (R44, R200). -/
def State.instantDue (s : State) : Bool :=
  s.tu.atInstant || (match s.sinceInstant with | some x => decide ((s.period : Int) ≤ x) | none => false)

/-- Before the first commit there is no instant; a local period of P then paces what a module does in every tick. -/
def State.localDue (s : State) : Bool :=
  s.tu.base.isNone && (match s.tu.strobe with | some r => decide (r / s.period < s.raw / s.period) | none => true)

def execTickInstant (t : Nat) (s : State) : Out :=
  let s := s.clock t
  if s.instantDue then .next s.instant
  else if s.localDue then
    .next (s.strobeNow.newTick.restartRound.pairTick.healthTick)
  else .next s

/-- Staging closes: a standby counts a missing TICK_END, and a paired module sends its HEALTH (R45, R227, R236). -/
def execStagingClose (t : Nat) (s : State) : Out :=
  let s := s.clock t
  if s.tickPast s.stagingNs && !s.tke.staging then .next ({ s.countMiss with tke := { s.tke with staging := true } }.healthTick)
  else .next s

/-! The vote -/

/-- Blocks of 16 words that hold one of the given words. -/
def blocksOf (ks : List Nat) : List Nat := mergeKeys (ks.map (· / 16)) []

/-- The STATE records of the tick (Table ASD-5), of words voted and state words committed. -/
def State.stateRecords (s : State) (outs pends : List Nat) : List Bytes :=
  let stWords := s.stateWords
  let mref (q : Nat) : Nat :=
    match s.headOf q with
    | some e => (match Tab.get 0 s.asd.mrefOf e.desc with | m + 1 => m | 0 => 0xFFFFFFFF)
    | none => 0xFFFFFFFF
  (blocksOf outs).map (fun n => blockRec 1 0x20000 n s.outWord)
    ++ (blocksOf pends).map (fun n => blockRec 2 0x30000 n (Tab.get 0 stWords))
    ++ s.asd.releases.map releaseRec
    ++ ((keys s.ldr.queues).filter s.qAssured).map (fun q => headRec q (mref q))
    ++ s.asd.seqSent.map (fun k => streamRec k (s.seqNext k))
    ++ (s.asd.recovSent.filter (fun i => (s.recovCfg i).egress)).map (fun i => recovRec i (s.recov i))
    ++ [s.configRec]

/-- The duty closes the state copy of the tick (R225). -/
def State.sendState (s : State) (outs pends : List Nat) : State :=
  if s.role ≠ 1 then { s with asd := { s.asd with seqSent := [], recovSent := [] } }
  else
    let rs := s.stateRecords outs pends
    let s1 : State := (chunks 100 rs).foldl (fun s c => s.pairSend 4 c) s
    let fin := beBytes 8 s.tu.tick ++ beBytes 4 (stateCrc rs) ++ beBytes 8 s.act.setId.toNat
      ++ beBytes 1 (b2n (s.fb Fd.POR_STAT_HOLDUP))
    let s2 := (s1.asdCount 5 (recordBytes rs)).pairSend 5 [fin]
    { s2 with asd := { s2.asd with releases := [], seqSent := [], recovSent := [] } }

/-- The command frames leave, once in a tick, and the state copy with them. -/
def State.closeTick (s : State) (outs pends : List Nat) : State :=
  let s1 := { s with tke := { s.tke with voteDone := true, framesOut := true } }
  s1.sendTickFrames.sendState outs pends

/-- Channels that run the tick have all ended, or the deadline has stopped the others (R67). -/
def State.votable (s : State) : Bool :=
  s.tke.started && !s.tke.voteDone && decide (2 ≤ s.voters.length) &&
    (s.tke.deadline || [0, 1, 2].all (fun c => (s.chan c).out != .none || (s.chan c).phase == .ended))

/-- The vote (R38, R63, R67, R243, R244). -/
def State.vote (s : State) : State :=
  let vs := s.voters
  let outs := voteTables (vs.map (fun c => (c, (s.chan c).outw)))
  let pends := voteTables (vs.map (fun c => (c, (s.chan c).pend)))
  let stopped := s.stoppedChans
  let bad := mergeKeys (mergeKeys outs.2.1 pends.2.1) stopped
  let commit (s : State) (c : Nat) : State :=
    let v := s.chan c
    let st := pends.1.foldl (fun m e => match e.2 with | some w => Tab.set 0 m e.1 w | none => m) v.state
    s.setChan c { v with state := st, outw := [], pend := [] }
  let s1 := s.recordCycles
  let s2 : State := vs.foldl commit { s1 with tke := { s1.tke with voted := outs.1, consec := 0 } }
  let s3 := s2.trace 3 0 (sumNat (bad.map (2 ^ ·)))
  let s4 := if outs.2.2 || pends.2.2 then (s3.raise Fd.TKE_FAULT_VOTE_NONE).assertErr else s3
  let s5 : State := bad.foldl State.dissent s4
  s5.closeTick (keys outs.1) (keys pends.1)

/-- The vote of the tick. In a tick without one, because it overran or no task ran, the command frames leave at the time
of the vote all the same, with the commands in force (R25, R67). -/
def execVote (t : Nat) (s : State) : Out :=
  let s := s.clock t
  if s.votable then .next s.vote
  else if s.tickPast s.voteNs && !s.tke.framesOut && (s.tke.voteDone || !s.tke.started) then .next (s.closeTick [] [])
  else .next s

/-! Halt and TICK_LOST -/

/-- OVR_LIMIT consecutive overrun ticks halt the Tick Engine; a duty then gives way (R68, R237). -/
def execTickEngineHalt (t : Nat) (s : State) : Out :=
  let s := s.clock t
  if max 1 (s.f Fd.TKE_CFG_OVR_LIMIT) ≤ s.tke.consec ∧ !s.fb Fd.TKE_STAT_HALT then
    .next (((s.set0 Fd.TKE_STAT_HALT 1).raise Fd.TKE_FAULT_HALT_EVT).relinquish 1)
  else .next s

/-- No strobe has come for 2 P: the supervisor stops the Tick Engine, and channels that run end there (R51, R378). -/
def execTickLost (t : Nat) (s : State) : Out :=
  let s := s.clock t
  match s.tu.strobe with
  | some r =>
    if s.tu.base.isSome ∧ s.elapsed r (2 * s.period) ∧ !s.tke.lost then
      let stop (s : State) (c : Nat) : State :=
        if (s.chan c).phase = .running then s.setChan c { s.chan c with phase := .stopped, tasks := [] } else s
      let s0 : State := [0, 1, 2].foldl stop { s with tke := { s.tke with lost := true } }
      let s1 := s0.gaspEntry (7 * 256 + Fd.TKE_FAULT_TICK_LOST.lo + 1) 0 0
      .next ((s1.raise Fd.TKE_FAULT_TICK_LOST).assertErr)
    else .next s
  | none => .next s

end Sys2Proof.Machine
end

