-- ==== Sys2Proof/Machine/RegAccess.lean ====
section
/-! DEFINITION. Register access by a party (R10 to R13, R316, R405, R417 to R421): what a read of any BAR0 address returns
and does, what a write of any BAR0 address does, and the commands REGISTER_WRITE, RC_READ, LOW_WORD_CAPTURE, REG_READ and
REG_WRITE. -/

namespace Sys2Proof.Machine

open Sys2Proof

/-- Two descriptors are of one register. -/
def RegDesc.is (r q : RegDesc) : Bool := r.base == q.base

/-! Pairs of words (R12) -/

/-- Lower words of the 64-bit pairs; the upper word stands 4 bytes above. The time unit's readings have further captures
(R78). -/
def lowWords : List RegDesc := [Reg.TKE_TICK_LO, Reg.TU_RAW_LO, Reg.TU_NOW_LO, Reg.TU_OFS_LO, Reg.TU_TBASE_LO, Reg.TU_MASTER_LO, Reg.TU_TOD_LO, Reg.TU_PPS_IN_LO,
  Reg.PGn_BURST_START_LO, Reg.PGn_BURST_END_LO, Reg.PGn_Pp_CNTc_LO, Reg.FP_PORTn_CNTc_LO, Reg.CST_HEAD_LO,
  Reg.CST_COMMIT_LO, Reg.CST_RST_LO, Reg.ASD_TAKEOVER_LO, Reg.ASD_PARTNER_LO, Reg.ASD_CNTc_LO, Reg.ASD_Gg_CNTc_LO,
  Reg.SEN_TALKt_STAMP_LO, Reg.FBn_SOF_LO, Reg.FBn_SWK_DATA_LO, Reg.FIO_EINn_LAST_LO, Reg.CFG_SETID_LO,
  Reg.CFG_SWAP_TICK_LO, Reg.GEN_EUI_LO]

/-- Lower words of the pairs that are written. -/
def writtenPairs : List RegDesc :=
  [Reg.TU_TOD_LO, Reg.CST_RST_LO, Reg.CFG_SWAP_TICK_LO, Reg.ASD_PARTNER_LO, Reg.FBn_SWK_DATA_LO]

def RegDesc.isLow (r : RegDesc) : Bool := lowWords.any r.is

/-! What a register reads as -/

/-- Bits of a register that a read shows: WO fields read 0 (R13), reserved bits read 0 (R11). -/
def readMask (r : RegDesc) : Nat :=
  r.fields.foldl (fun m f => if f.acc = .wo then m else setBits m f.hi f.lo (2 ^ (f.hi + 1 - f.lo) - 1)) 0

/-- The state of a voter channel in ASD_VC_STAT. -/
def VOut.code : VOut → Nat
  | .none => 0 | .resync _ => 1 | .test _ => 2 | .failed => 3

/-- The state of a channel of the Cellar in CEL_STAT. -/
def CelCh.code (x : CelCh) : Nat :=
  if x.refFail then 3 else match x.phase with
    | .idle => 0 | .settle _ => 1 | .window _ => 1 | .clearWait => 2

/-- Bits of a word of the FP window that the host sets (Table FRM-5): VLAN, multicast, stream, forwarding, meter and
recovery entries. -/
def fpMask (off : Nat) : Nat :=
  let w8 := off / 4 % 8
  if 0x20000 ≤ off ∧ off < 0x24000 then 0x8FFF3FFF
  else if 0x100000 ≤ off ∧ off < 0x200000 then
    if off / 4 % 16 < 8 then 0xFFFFFFFF else if off / 4 % 16 = 8 then 0x80003FFF else 0
  else if 0x200000 ≤ off ∧ off < 0x400000 then
    [0xFFFFFFFF, 0xFFFFFFFF, 0xFFFFFFFF, 0xFFFFFFFF, 0x8003FFFF, 0xFFFFFFFF, 0xFFFFF, 0x3FFF].getD w8 0
  else if 0x400000 ≤ off ∧ off < 0x800000 then [0xFFFFFFFF, 0xCFFFFFFF, 0x3FFFF, 0].getD (off / 4 % 4) 0
  else if 0x800000 ≤ off ∧ off < 0x880000 then [0xE8FFFFFF, 0xFFFFFF, 0xFFFFFF, 0xFFFFFF].getD w8 0
  else if 0x880000 ≤ off ∧ off < 0x900000 then [0x81FFFFFF, 0x1FF].getD w8 0
  else 0

/-- Bits of words 4 to 7 of a stream entry, and of entry B of an IPv6 pair, which holds METHOD, PAIR_B and VALID, the
ports, and the next header with the VID (R131, Tables FRM-2 and FRM-5). -/
def streamMask (pairB : Bool) (w : Nat) : Nat :=
  if pairB then [0x8000000F, 0xFFFFFFFF, 0xFFFFF, 0].getD (w - 4) 0
  else [0x8003FFFF, 0x7FFFFFFF, 0x3FFFF, 0x3FFF].getD (w - 4) 0

/-- Bits of a word of the FP window that a read shows: those of a stream entry go by bit 3 of its word 4. -/
def State.fpShown (s : State) (off : Nat) : Nat :=
  if 0x200000 ≤ off ∧ off < 0x400000 ∧ 4 ≤ off / 4 % 8 then
    streamMask (bitAt (s.fpw (off / 32 * 32 + 16)) 3) (off / 4 % 8)
  else fpMask off

/-- The state part of a word of the FP window (Table FRM-5, R140, R142). -/
def State.fpState (s : State) (off : Nat) : Nat :=
  let w8 := off / 4 % 8
  if 0x400000 ≤ off ∧ off < 0x800000 ∧ off / 4 % 4 = 3 then
    (match Tab.get none s.fp.seen ((off - 0x400000) / 16) with
     | some r => min 0xFFFF ((s.raw - r) / (s.f Fd.FP_CFG_AGE_TIME * 500000000))
     | none => 0)
  else if 0x800000 ≤ off ∧ off < 0x880000 then
    let m := Tab.get {} s.fp.meters ((off - 0x800000) / 32)
    (match w8 with | 0 => 0x10000000 * b2n m.red | 4 => m.committed / 8000000 | 5 => m.excess / 8000000 | _ => 0)
  else if 0x880000 ≤ off ∧ off < 0x900000 then
    let r := s.recov ((off - 0x880000) / 32)
    (match w8 with
     | 2 => r.seq % 65536 + 65536 * b2n r.takeAny + 2 ^ 17 * (r.held.length % 128) + 2 ^ 24 * (r.resets % 256)
     | 3 => r.history.toNat % 2 ^ 32
     | 4 => r.history.toNat / 2 ^ 32
     | 5 => r.passed
     | 6 => r.discarded
     | 7 => r.rogue + 65536 * r.lost
     | _ => 0)
  else if 0x900000 ≤ off ∧ off < 0x980000 then
    let i := (off - 0x900000) / 8
    if off / 4 % 2 = 0 then s.seqNext i else Tab.get 0 s.fp.refused i
  else 0

/-- Cells of the items in a queue. -/
def State.queueCells (s : State) (q : Nat) : Nat := sumNat ((s.queue q).entries.map (fun e => (s.item e.desc).cells.length))

/-- What a word of TKE_IMG_DATA shows: input section, outputs in force, committed state. -/
def State.imageWord (s : State) : BitVec 32 :=
  let c := s.f Fd.TKE_IMG_ADDR_VC
  let k := s.f Fd.TKE_IMG_ADDR_WORD
  if c = 3 then 0
  else if k < 0x8000 then Tab.get 0 (s.chan c).image k
  else if k < 0xC000 then Tab.get 0 s.tke.force (k - 0x8000)
  else Tab.get 0 (s.chan c).state (k - 0xC000)

/-- The MSI-X table by word; its mask bits are 1 after reset (PRESUMED: PCI Express). -/
def State.msixWord (s : State) (k : Nat) : BitVec 32 := Tab.get 0 s.hst.msix k ^^^ (if k % 4 = 3 then 1 else 0)

/-- What register r with indices ix reads as, where it shows more than its stored word; `p` is the reading party. -/
def State.shownWord (s : State) (p : Party) (r : RegDesc) (ix : List Nat) : Option Nat :=
  let i := ix.headD 0
  let st := (s.rd r ix).toNat
  match r.block with
  | 0 =>
    if r.is Reg.GEN_EUI_LO then some (ownEui.toNat % 2 ^ 32) else if r.is Reg.GEN_EUI_HI then some (ownEui.toNat / 2 ^ 32)
    else none
  | 1 => if r.is Reg.CFG_SHR_DATA then some s.shrRead.toNat else none
  | 3 => if r.is Reg.POR_SRCs_CFG ∧ 2 ≤ i ∧ i ≤ 9 then some (setBits st 4 2 0) else none
  | 4 =>
    if r.is Reg.EVT_STAT then some (setBits st 9 1 s.unstored)
    else if r.is Reg.EVT_RD_DATAi then some ((Tab.get [] s.evt.cap p.ix).getD i 0).toNat
    else none
  | 5 =>
    let q := s.readingAt s.raw
    let o := (pairAt s.tu.pairs s.raw).ofs.toNat
    if r.is Reg.TU_RAW_LO then some (wordAt s.raw 0).toNat
    else if r.is Reg.TU_RAW_HI then some (wordAt s.raw 1).toNat
    else if r.is Reg.TU_NOW_FRAC then some (wordAt q 0).toNat
    else if r.is Reg.TU_NOW_LO then some (wordAt q 1).toNat
    else if r.is Reg.TU_NOW_HI then some (wordAt q 2).toNat
    else if r.is Reg.TU_RATE_LO then some s.rateLo.toNat
    else if r.is Reg.TU_RATE_HI then some s.rateHi.toNat
    else if r.is Reg.TU_OFS_FRAC then some (wordAt o 0).toNat
    else if r.is Reg.TU_OFS_LO then some (wordAt o 1).toNat
    else if r.is Reg.TU_OFS_HI then some (wordAt o 2).toNat
    else if r.is Reg.TU_TBASE_LO then some (wordAt (s.tu.base.getD 0).toNat 0).toNat
    else if r.is Reg.TU_TBASE_HI then some (wordAt (s.tu.base.getD 0).toNat 1).toNat
    else if r.is Reg.TU_MASTER_LO then some (wordAt s.tu.master.toNat 0).toNat
    else if r.is Reg.TU_MASTER_HI then some (wordAt s.tu.master.toNat 1).toNat
    else none
  | 6 =>
    let row := Tab.get (0, 0, 0) s.act.gng.rows (s.f Fd.GNG_TBL_ADDR_ENTRY)
    if r.is Reg.GNG_STAT then some (setBits st 1 1 (s.f Fd.GNG_TBL_ADDR_OPEN))
    else if r.is Reg.GNG_TBL_DATA0 then some row.1.toNat
    else if r.is Reg.GNG_TBL_DATA1 then some row.2.1.toNat
    else if r.is Reg.GNG_TBL_DATA2 then some row.2.2.toNat
    else if r.is Reg.GNG_SEGn then some (if i < 280 then (Tab.get 0 s.act.gng.segs i).toNat else 0)
    else if r.is Reg.GNG_AOPENn then some (Tab.get 0 s.act.gng.aopen i).toNat
    else none
  | 7 =>
    let ok (c : Nat) : Nat := b2n (decide ((s.chan c).out = .none))
    if r.is Reg.TKE_STAT then
      some (setBits (setBits (setBits st 0 0 (b2n s.tkeMayRun)) 4 2 (ok 0 + 2 * ok 1 + 4 * ok 2)) 15 8 (s.tu.tick % s.hyper))
    else if r.is Reg.TKE_TICK_LO then some (wordAt s.tu.tick 0).toNat
    else if r.is Reg.TKE_TICK_HI then some (wordAt s.tu.tick 1).toNat
    else if r.is Reg.TKE_IMG_DATA then some s.imageWord.toNat
    else if r.is Reg.TKE_TASKn_W0 then some (s.taskRow i).1.toNat
    else if r.is Reg.TKE_TASKn_W1 then some (s.taskRow i).2.toNat
    else none
  | 9 =>
    if r.is Reg.ASD_VC_STAT then some ((s.chan 0).out.code + 4 * (s.chan 1).out.code + 16 * (s.chan 2).out.code) else none
  | 10 =>
    if r.is Reg.SEN_STAT then some (setBits (setBits st 8 0 s.sen.backlog.length) 9 9 (s.f Fd.SEN_TBL_ADDR_OPEN))
    else if r.is Reg.SEN_TBL_DATAi then
      let t := s.f Fd.SEN_TBL_ADDR_TABLE
      let k := s.f Fd.SEN_TBL_ADDR_INDEX
      some (rowF (senRow s.act.sen t k) i 31 0 &&& senMask t k i)
    else none
  | 13 =>
    if r.is Reg.HST_EVT_SUM then some ((List.range 32).foldl (fun n b => n + 2 ^ b * b2n (s.blockPending b)) 0)
    else if r.is Reg.TRC_STAT then
      let n := s.trc.buf.length
      some (n + 2 ^ 15 * b2n s.trc.wrapped + 2 ^ 16 * b2n (decide (16384 ≤ n) && s.fb Fd.TRC_CFG_STOP))
    else if r.is Reg.TRC_RD_DATAi then some ((Tab.get [] s.trc.cap p.ix).getD i 0).toNat
    else none
  | 14 =>
    if r.is Reg.FBn_MBWIN then some (s.mbwinRead i (ix.getD 1 0)).toNat
    else if r.is Reg.FBn_CFG ∧ 24 ≤ i then some (setBits st 2 2 0)
    else if r.is Reg.FBn_XCVR ∧ 8 ≤ i then some (setBits st 12 0 0)
    else none
  | 15 =>
    if r.is Reg.UAn_CFG ∧ 16 ≤ i then some (setBits (setBits st 24 24 0) 23 22 0)
    else if r.is Reg.UAn_STAT then some (s.uaStat i).toNat else if r.is Reg.UAn_DATA then some (s.uaData i).toNat else none
  | 17 =>
    if r.is Reg.CEL_STAT then
      some (setBits st 15 8 ((List.range 4).foldl (fun n c => n + 4 ^ c * (s.celCh c).code) 0))
    else none
  | 19 =>
    if r.is Reg.FP_PORTn_PREEMPT then some (setBits st 3 3 (b2n (s.preemptUsed i)))
    else if r.is Reg.FP_STAT then
      let used := (s.act.fp.filter (fun e => decide (0x400000 / 4 ≤ e.1 ∧ e.1 < 0x800000 / 4 ∧ e.1 % 4 = 1)
        && bitAt e.2.toNat 31)).length
      some (setBits (setBits st 1 1 (s.f Fd.FP_TBL_CTL_OPEN)) 20 2 used)
    else none
  | 20 =>
    if r.is Reg.LDR_Qq_CFG then some (if i < 2048 ∨ 6136 ≤ i then setBits st 0 0 0 else st)
    else if r.is Reg.LDR_Qq_STAT then
      let d := (s.queue i).entries.length
      let started := match s.headOf i with | some e => e.started | none => false
      some (setBits (setBits (setBits st 19 0 d) 20 20 (b2n (d == s.f Fd.LDR_Qq_MAX_QMAX [i] && d != 0))) 23 23 (b2n started))
    else if r.is Reg.LDR_Qq_CELLS then some (min 0xFFFFF (s.queueCells i))
    else if r.is Reg.LDR_DESC_USED then some s.ldr.items.length
    else if r.is Reg.LDR_QE_USED then some (sumNat (s.ldr.queues.map (fun e => e.2.entries.length)))
    else none
  | _ => none

/-- What a word of BAR0 reads as (R10, R11, R154, R406, R420): a register, an FP table of the active copy with its state,
the MSI-X table, or 0. -/
def State.busWord (s : State) (p : Party) (a : Nat) : BitVec 32 :=
  match regAt a with
  | some (r, ix) =>
    BitVec.ofNat 32 (((s.shownWord p r ix).getD (s.rd r ix).toNat) &&& readMask r)
  | none =>
    if 0x420000 ≤ a ∧ a < 0xD80000 then
      BitVec.ofNat 32 ((s.fpw (a - 0x400000) &&& s.fpShown (a - 0x400000)) ||| s.fpState (a - 0x400000))
    else if 0xF0000 ≤ a ∧ a < 0xF8000 then s.msixWord ((a - 0xF0000) / 4)
    else 0

/-! Reads -/

/-- Values that the spec leaves open are drawn when they are read (log entry 3): background tests counted, PRBS errors
counted, a receiver's SNR, the trained PCI Express link and the USB configuration. -/
def State.measure (s : State) (r : RegDesc) (ix : List Nat) : State :=
  let d := s.drawFree
  let v := d.1.toNat
  if r.is Reg.CFG_BIST then
    let add (s : State) (x : Fld) (n : Nat) : State := s.set0 x (min x.top (s.f x + n))
    add (add d.2 Fd.CFG_BIST_ABORTS (v % 65536)) Fd.CFG_BIST_PASSES (v / 65536 % 65536)
  else if r.is Reg.PGn_Ll_PRBS_ERR then s.prbsCount (ix.headD 0) (ix.getD 1 0)
  else if r.is Reg.PGn_Ll_STAT then d.2.sf Fd.PGn_Ll_STAT_SNR ix v
  else if r.is Reg.ASD_Gg_LSTAT then d.2.sf Fd.ASD_Gg_LSTAT_SNR ix v
  else if r.is Reg.HST_STAT then
    ((d.2.set0 Fd.HST_STAT_SPEED (v % 6)).set0 Fd.HST_STAT_WIDTH ([0, 1, 2, 4, 8].getD (v / 8 % 5) 0)).set0
      Fd.HST_STAT_USB_CONF (v / 64)
  else s

/-- The word after a clearing read: its RC fields are 0. -/
def clearRc (r : RegDesc) (w : BitVec 32) : BitVec 32 :=
  BitVec.ofNat 32 (r.fields.foldl (fun n f => if f.acc = .rc then setBits n f.hi f.lo 0 else n) w.toNat)

/-- Captures that a read starts (R12, R78, EVT_RD_DATA, TRC_RD_DATA); the upper word of a lower word that was itself captured
stands captured with it. -/
def State.readCaptures (s : State) (p : Party) (r : RegDesc) (ix : List Nat) (a : Nat) : State :=
  if r.is Reg.TU_NOW_FRAC then s.captureNow p
  else if r.is Reg.TU_OFS_FRAC then s.captureOfs p
  else if r.is Reg.TU_RATE_LO then s.captureRate p
  else if r.is Reg.EVT_RD_DATAi ∧ ix = [0] then s.evtRead p
  else if r.is Reg.TRC_RD_DATAi ∧ ix = [0] then s.trcRead p
  else if r.isLow ∧ (s.captured p a).isNone then s.capture p (a + 4) (s.busWord p (a + 4))
  else s

/-- What a read by PCIe or the management cluster changes: RC fields clear, and UAn_STAT and UAn_DATA start and complete
the sequence of R305 (R13, R305, R306). -/
def State.readClears (s : State) (p : Party) (r : RegDesc) (ix : List Nat) : State :=
  let i := ix.headD 0
  if r.is Reg.UAn_STAT then s.uaSawStat p i
  else if r.is Reg.UAn_DATA then s.uaTake p i
  else s.wr r ix (clearRc r (s.rd r ix))

/-- The links to the die that holds a register or a table are up: FAB and LDR lie behind the fabric-control link, FLD with
the Porch and the Attic behind the field link (R23, Tables ARC-1 and ARC-2). -/
def State.reaches (s : State) (a : Nat) : Bool :=
  if 0x200000 ≤ a ∧ a < 0x1800000 then s.fabricUp
  else if 0x20000 ≤ a ∧ a < 0x40000 then s.fieldUp
  else true

/-- A read of the word at address a, as a snapshot or not: the value returned and the state after it. What a read across a
link that is down returns is open (R23, log entry 3). -/
def State.readReg (s : State) (p : Party) (snap : Bool) (a : Nat) : BitVec 32 × State :=
  if !s.reaches a then
    let d := s.drawFree
    (BitVec.ofNat 32 d.1.toNat, d.2)
  else match regAt a with
  | none => (s.busWord p a, s)
  | some (r, ix) =>
    let s1 := (s.measure r ix).readCaptures p r ix a
    let v := (s1.captured p a).getD (s1.busWord p a)
    let s2 := s1.dropCapture p a
    (v, if snap then s2 else s2.readClears p r ix)

/-- A read by a party, whose value goes to that party. -/
def State.partyRead (s : State) (p : Party) (a : Nat) : State :=
  let r := s.readReg p (!partyTakes p) a
  r.2.emit (.read p a r.1)

/-- Words read one after the other by a snapshot (R316, R412). -/
def State.snapshot (s : State) (p : Party) (a : Nat) : Nat → List (BitVec 32) × State
  | 0 => ([], s)
  | n + 1 =>
    let r := s.readReg p true a
    let rest := State.snapshot r.2 p (a + 4) n
    (r.1 :: rest.1, rest.2)

/-! Writes -/

def State.sealed (s : State) : Bool := s.fb Fd.CFG_STAT_SEALED

/-- The register at a holds RWL fields that are sealed (R13). -/
def State.lockedAt (s : State) (a : Nat) : Bool :=
  match regAt a with
  | some (r, _) => s.sealed && r.fields.any (fun f => f.acc = .rwl)
  | none => false

/-- Bits of a register that a write stores. -/
def storedBits (r : RegDesc) (sealed : Bool) : Nat :=
  r.fields.foldl (fun m f =>
    if f.acc = .rw ∨ f.acc = .rws ∨ (f.acc = .rwl ∧ !sealed) then setBits m f.hi f.lo (2 ^ (f.hi + 1 - f.lo) - 1) else m) 0

/-- The stored word after a write of v, by the access type of each field (R11, R13). -/
def writtenWord (r : RegDesc) (sealed : Bool) (old v : BitVec 32) : BitVec 32 :=
  let m := BitVec.ofNat 32 (storedBits r sealed)
  ((old &&& ~~~m) ||| (v &&& m)) &&& ~~~(v &&& BitVec.ofNat 32 (w1cMask r))

/-- The word that a write acts with, where only the enabled bytes change (R421). -/
def State.enabledWord (s : State) (r : RegDesc) (ix : List Nat) (en v : BitVec 32) : BitVec 32 :=
  (v &&& en) ||| (s.rd r ix &&& BitVec.ofNat 32 (storedBits r false) &&& ~~~en)

/-- A write that acts by its fields alone; the lower word of a pair waits for the upper one (R12, R13). -/
def State.plainWrite (s : State) (p : Party) (r : RegDesc) (ix : List Nat) (a : Nat) (v : BitVec 32) : State :=
  if s.lockedAt a then (s.wr r ix (writtenWord r true (s.rd r ix) v)).lockedWrite a
  else if writtenPairs.any r.is then { s with pairLow := Tab.set none s.pairLow (partyKey p a) (some v) }
  else
    let s1 := s.wr r ix (writtenWord r false (s.rd r ix) v)
    match writtenPairs.find? (fun q => (q.base + 4) == r.base) with
    | some q =>
      let k := partyKey p (a - 4)
      (match Tab.get none s.pairLow k with
       | some lo => ({ s1 with pairLow := Tab.set none s.pairLow k none } : State).wr q ix lo
       | none => s1)
    | none => s1

/-- A write that also sets the bit OPEN of its register (R382). -/
def State.openWrite (s : State) (x : Fld) (w : State) : State := if !s.fb x && w.fb x then w.openSet else w

/-- A write of an FP table word: to the inactive copy while OPEN is 1, ahead of a learn of the same entry in the same cycle;
a 1 at MARK_ALL_RED clears the latch (R134, R142, R154). -/
def State.fpWrite (s : State) (off : Nat) (en v : BitVec 32) : State :=
  let s1 : State :=
    if 0x800000 ≤ off ∧ off < 0x880000 ∧ off / 4 % 8 = 0 ∧ bitAt (v &&& en).toNat 28 then
      let i := (off - 0x800000) / 32
      { s with fp := { s.fp with meters := Tab.set {} s.fp.meters i { Tab.get {} s.fp.meters i with red := false } } }
    else s
  if s.fb Fd.FP_TBL_CTL_OPEN then
    let k := off / 4
    let old := Tab.get 0 s.shd.fp k
    let m := en &&& BitVec.ofNat 32 (fpMask off)
    let s2 := { s1 with shd := { s1.shd with fp := Tab.set 0 s1.shd.fp k ((old &&& ~~~m) ||| (v &&& m)) } }
    if 0x400000 ≤ off ∧ off < 0x800000 then
      let i := (off - 0x400000) / 16
      let is := if s.fp.fdbHost.1 = s.raw then insKey i s.fp.fdbHost.2 else [i]
      { s2 with fp := { s2.fp with fdbHost := (s.raw, is) } }
    else s2
  else s1

/-- A write of a register that is a command or reaches a table; none for a plain one. -/
def State.commandWrite (s : State) (p : Party) (r : RegDesc) (ix : List Nat) (a : Nat) (v : BitVec 32) : Option State :=
  let i := ix.headD 0
  let n := v.toNat
  match r.block with
  | 1 =>
    if r.is Reg.CFG_SWAP then some (s.cfgSwap n)
    else if r.is Reg.CFG_UPD_CTL then some (s.updCtl n)
    else if r.is Reg.CFG_UPD_DATA then some (s.updData (leBytes 4 n))
    else if r.is Reg.CFG_SHR_ADDR then some (s.openWrite Fd.CFG_SHR_ADDR_OPEN (s.plainWrite p r ix a v))
    else if r.is Reg.CFG_SHR_DATA then some (s.shrWrite v)
    else none
  | 2 => if r.is Reg.ATC_CMD then some (s.atcCmd n) else none
  | 3 => if r.is Reg.POR_CMD then some (s.porCmd n) else none
  | 4 => if r.is Reg.EVT_STAT then some (s.evtStat n) else none
  | 5 => if r.is Reg.TU_TOD_CMD then some (if bitAt n 0 then s.todSet else s) else none
  | 6 =>
    let isOpen := s.fb Fd.GNG_TBL_ADDR_OPEN
    if r.is Reg.GNG_TBL_ADDR then some (s.gngAddrWrite v)
    else if r.is Reg.GNG_TBL_DATA0 then some { s with gng := { s.gng with data0 := v } }
    else if r.is Reg.GNG_TBL_DATA1 then some { s with gng := { s.gng with data1 := v } }
    else if r.is Reg.GNG_TBL_DATA2 then some (s.gngCommit v)
    else if r.is Reg.GNG_SEGn then
      let segs := Tab.set 0 s.shd.gng.segs i (v &&& 0x7FFFFFF#32)
      some (if isOpen ∧ i < 280 then { s with shd := { s.shd with gng := { s.shd.gng with segs := segs } } } else s)
    else if r.is Reg.GNG_AOPENn then
      let masks := Tab.set 0 s.shd.gng.aopen i (v &&& 0xFF#32)
      some (if isOpen then { s with shd := { s.shd with gng := { s.shd.gng with aopen := masks } } } else s)
    else none
  | 8 =>
    if r.is Reg.CST_CMD then
      let s1 := if bitAt n 0 then s.trigger else s
      some (if bitAt n 1 then s1.cmdReset else s1)
    else none
  | 9 => if r.is Reg.ASD_CMD then some (if bitAt n 0 then s.cmdHandover else s) else none
  | 10 =>
    if r.is Reg.SEN_TBL_ADDR then some (s.openWrite Fd.SEN_TBL_ADDR_OPEN (s.plainWrite p r ix a v))
    else if r.is Reg.SEN_TBL_DATAi ∧ i = 7 then some (s.senCommit v)
    else none
  | 13 =>
    if r.is Reg.HST_RST then
      some (if bits n 7 0 = 0x5A then s.warmReset s.por.boot (s.fb Fd.ASD_STAT_SIDE)
        else if bits n 7 0 = 0xA5 then s.blockReset (bits n 23 16) else s)
    else none
  | 14 =>
    if r.is Reg.FBn_CMD then
      let s1 := if bitAt n 0 then s.fbRecover i else s
      let s2 := if bitAt n 1 then s1.txRequest i 128 else s1
      some (if bitAt n 2 then s2.txCancel i 128 else s2)
    else if r.is Reg.FBn_TXCMD then
      some (if bits n 9 8 = 1 then s.txRequest i (bits n 6 0) else if bits n 9 8 = 2 then s.txCancel i (bits n 6 0) else s)
    else if r.is Reg.FBn_MBSEL then some (s.mbsel i v)
    else if r.is Reg.FBn_MBWIN then some (s.mbwin i (ix.getD 1 0) v)
    else none
  | 15 =>
    if r.is Reg.UAn_DATA then some (s.uaWrite i (BitVec.ofNat 8 n))
    else if r.is Reg.UAn_TXCTL then some (s.uaTxctl i v)
    else if r.is Reg.UAn_FLAGCLR then some (s.uaClear i (n % 32))
    else none
  | 16 => if r.is Reg.FIO_LSn_CLR then some (if bitAt n 0 then s.lsClear i else s) else none
  | 17 =>
    if r.is Reg.CEL_CMD0 ∨ r.is Reg.CEL_CMD1 then some (s.wr r ix v)
    else if r.is Reg.CEL_CMD2 then some (s.celSendCmd v)
    else none
  | 18 => if r.is Reg.PGn_Ll_TEST then some (s.laneTest i (ix.getD 1 0) v) else none
  | 19 =>
    if r.is Reg.FP_TBL_CTL then some (s.openWrite Fd.FP_TBL_CTL_OPEN (s.plainWrite p r ix a v)) else none
  | 20 => if r.is Reg.LDR_QCMD then some (s.qcmd n) else none
  | _ => none

/-- The cycle in which the registers of a block are arbitrated: MCLK on CTL; the register clocks of FAB and the Larder run
faster than the raw counter (R405). -/
def State.regCycle (s : State) (a : Nat) : Nat := if 0x200000 ≤ a ∧ a < 0x1800000 then s.raw else s.raw * 4 / 5

/-- A party that is served later has written the register in the same cycle: its value is the final one (R405). -/
def State.superseded (s : State) (p : Party) (a : Nat) : Bool :=
  s.hst.served.any (fun e => e.1 == a && e.2.1 == s.regCycle a && decide (p.ix < e.2.2))

/-- The latest writes, of which those of the same cycle count. -/
def State.serve (s : State) (p : Party) (a : Nat) : State :=
  let same := s.hst.served.filter (fun e => e.2.1 == s.regCycle e.1)
  { s with hst := { s.hst with served := (a, s.regCycle a, p.ix) :: same } }

/-- What is left of a write before that of a later party: its 1s clear W1C bits (R405). -/
def State.earlierWrite (s : State) (r : RegDesc) (ix : List Nat) (v : BitVec 32) : State :=
  s.wr r ix (s.rd r ix &&& ~~~(v &&& BitVec.ofNat 32 (w1cMask r)))

/-- A write of the word at address a with a mask of enabled bits (R10 to R13, R154, R406, R420, R421). None crosses a link
that is down (R23). -/
def State.writeReg (s : State) (p : Party) (a : Nat) (en v : BitVec 32) : State :=
  if !s.reaches a then s
  else match regAt a with
  | some (r, ix) =>
    let w := s.enabledWord r ix en v
    let s1 := s.serve p a
    (s1.commandWrite p r ix a w).getD
      (if s.superseded p a && !s.lockedAt a then s1.earlierWrite r ix w else s1.plainWrite p r ix a w)
  | none =>
    if 0x420000 ≤ a ∧ a < 0xD80000 then s.fpWrite (a - 0x400000) en v
    else if 0xF0000 ≤ a ∧ a < 0xF8000 then
      let k := (a - 0xF0000) / 4
      let w := (s.msixWord k &&& ~~~en) ||| (v &&& en)
      { s with hst := { s.hst with msix := Tab.set 0 s.hst.msix k (w ^^^ (if k % 4 = 3 then 1 else 0)) } }
    else s

/-- The mask of four byte enables (R421). -/
def byteMask (be : BitVec 4) : BitVec 32 :=
  BitVec.ofNat 32 ((List.range 4).foldl (fun n k => n + 0xFF * 2 ^ (8 * k) * b2n (bitAt be.toNat k)) 0)

/-- A word address: every access is of an aligned word (R421). -/
def wordAddr (a : BitVec 26) : Nat := a.toNat / 4 * 4

/-- Writes words one after the other, in ascending address order (R412). -/
def State.writeWords (s : State) (p : Party) (a : Nat) : List (BitVec 32) → State
  | [] => s
  | w :: ws => State.writeWords (s.writeReg p a (BitVec.allOnes 32) w) p (a + 4) ws

/-! Commands -/

def execRegisterWrite (t : Nat) (party : Party) (addr : BitVec 26) (value : BitVec 32) (enables : BitVec 4) (s : State) : Out :=
  .next (((s.clock t).hostWrite party).writeReg party (wordAddr addr) (byteMask enables) value)

def execRcRead (t : Nat) (party : Party) (addr : BitVec 26) (s : State) : Out :=
  .next ((s.clock t).partyRead party (wordAddr addr))

def execLowWordCapture (t : Nat) (party : Party) (addr : BitVec 26) (s : State) : Out :=
  let s := s.clock t
  .next (s.partyRead party (wordAddr addr))

/-- The words of a bridge request or a register datagram, in network byte order (R313). -/
def netWords (b : Bytes) : List (BitVec 32) :=
  (List.range (b.length / 4)).map (fun i => BitVec.ofNat 32 (beAt b (4 * i) 4))

/-- A register operation of a request by a party: its STATUS and the bytes read (R316, Table SER-5). -/
def State.regOp (s : State) (p : Party) (r : Request) : Nat × Bytes × State :=
  let a := r.addr
  if r.op = 9 then
    let x := s.snapshot p a (r.rlen / 4)
    (0, x.1.flatMap (fun w => beBytes 4 w.toNat), x.2)
  else (if s.lockedAt a then 11 else 0, [], s.writeWords p a (netWords r.wdata))

/-- The bridge engine performs a snapshot read of registers. -/
def execRegRead (t : Nat) (s : State) : Out :=
  let s := s.clock t
  match s.nextUnit 9 with
  | some x => let y := s.regOp .bridge x.req; .next (y.2.2.finish x y.1 y.2.1)
  | none => .next s

/-- The bridge engine writes one register. -/
def execRegWrite (t : Nat) (s : State) : Out :=
  let s := s.clock t
  match s.nextUnit 10 with
  | some x => let y := s.regOp .bridge x.req; .next (y.2.2.finish x y.1)
  | none => .next s

/-- The level of IRQ_N: low while IRQ_EN is 1 and HST_EVT_SUM is not 0 (R410). -/
def State.irqN (s : State) : Bool := !(s.fb Fd.HST_CFG_IRQ_EN && (List.range 32).any s.blockPending)

end Sys2Proof.Machine
end

