-- ==== Sys2Proof/Machine/Host.lean ====
section
/-! DEFINITION. The host queues of PCI Express (R406 to R410), the service USB port (R411, R412), the MGT port (R413) and
the test access port (R416). -/

namespace Sys2Proof.Machine

open Sys2Proof

/-! Queue windows (Table HST-2, R409) -/

/-- The ring has a size that RING_CFG can give. -/
def Ring.sized (r : Ring) : Bool := decide (4 ≤ r.size ∧ r.size ≤ 15)

/-- What a word of a queue window reads as. -/
def State.windowWord (s : State) (k off : Nat) : BitVec 32 :=
  let r := s.ring k
  match off with
  | 0 => r.lo
  | 4 => r.hi
  | 8 => BitVec.ofNat 32 (r.size + 2 ^ 31 * b2n r.en)
  | 12 => BitVec.ofNat 32 r.tail
  | 16 => BitVec.ofNat 32 r.head
  | 20 => BitVec.ofNat 32 ((s.queue (2048 + k)).entries.length + 2 ^ 20 * b2n r.stopped)
  | _ => 0

/-- A write of TAIL posts the descriptors up to it and renews the lease. -/
def execTailWrite (t : Nat) (queue : Fin 2048) (tail : BitVec 15) (descs : List HostDesc) (s : State) : Out :=
  let s := s.clock t
  let r := s.ring queue.val
  let n := 2 ^ r.size
  if r.sized ∧ tail.toNat < n ∧ descs.length = (tail.toNat + n - r.tail) % n then
    .next (s.setRing queue.val { r with tail := tail.toNat, posted := r.posted ++ descs, lease := s.strobes })
  else .next s

/-- A read of HEAD returns it and renews the lease. -/
def execHeadRead (t : Nat) (queue : Fin 2048) (s : State) : Out :=
  let s := s.clock t
  let k := queue.val
  .next ((s.setRing k { s.ring k with lease := s.strobes }).emit (.window k 16 (s.windowWord k 16)))

/-- The host writes RING_LO, RING_HI and RING_CFG; EN at 1 restarts the ring from HEAD under a new lease. -/
def execRingEnable (t : Nat) (queue : Fin 2048) (lo hi cfg : BitVec 32) (s : State) : Out :=
  let s := s.clock t
  let r := s.ring queue.val
  let size := bits cfg.toNat 3 0
  let en := bitAt cfg.toNat 31
  let moved := decide (size ≠ r.size)
  let r1 : Ring := { r with lo := lo, hi := hi, size := size, en := en }
  let r2 : Ring := if moved then { r1 with head := r.head % 2 ^ size, tail := r.head % 2 ^ size, posted := [] } else r1
  .next (if en then (s.dropRead queue.val).setRing queue.val
      { r2 with stopped := false, off := 0, cur := none, acc := [], waiting := false, lease := s.strobes }
    else s.setRing queue.val r2)

/-! Descriptors (R407, R408) -/

/-- The bytes of an item in queue q as the host reads them: those of a sentence as its listener delivers them (R264). -/
def State.hostBytes (s : State) (q : Nat) (i : Item) : Bytes × State :=
  match s.lsnOf i q with
  | some k => s.listenerBytes k i
  | none => (i.bytes, s)

/-- A host listener's sentence has been delivered (R260). -/
def State.hostDelivered (s : State) (i : Item) (q : Nat) : State :=
  match s.lsnOf i q with
  | some k => s.bump Reg.SEN_LSNl_TX [k.lsn]
  | none => s

/-- To the host: the next part of the item that is partly written, else of the next item of the queue, fills the posted
buffer; the last part releases it (R161, R164, R408). -/
def State.toHost (s : State) (k : Nat) (d : Desc) (ecc : Ecc) : State :=
  let q := 2048 + k
  let r := s.ring k
  match r.cur.or (s.serviceHead q) with
  | none => s
  | some c =>
    if d.len = 0 then s.writeBack k { status := 3 }
    else
      let s := (s.own q).readItem c ecc
      let i := s.item c
      let w := if r.cur.isSome then (r.acc, s) else s.hostBytes q i
      let s := w.2
      let part := w.1.take d.len
      let rest := w.1.drop d.len
      let last := rest.isEmpty
      let x : DescInfo := {
        flags := 1 + 2 * b2n last + 4 * b2n (!i.poison.isEmpty) + 8 * b2n i.seqValid, len := part.length, seq := i.seq
        stream := i.stream, stamp := i.stamp / 2 ^ 32, bytes := part }
      if last then
        let s1 := ((s.removeEntry q c).releaseCopy c).hostDelivered i q
        (s1.setRing k { s1.ring k with off := 0, cur := none, acc := [] }).writeBack k x
      else
        let s1 := s.startEntry q c
        (s1.setRing k { s1.ring k with off := r.off + part.length, cur := some c, acc := rest }).writeBack k x

/-- A complete item from the host goes where DEST says; false where a queue refused it. -/
def State.fromItem (s : State) (k : Nat) (b : Bytes) : Bool × State :=
  match s.f Fd.HST_Qs_CFG_DEST [k] with
  | 0 => (true, s.inject b (.host k))
  | 1 => s.putItem (5120 + s.f Fd.HST_Qs_CFG_BQ [k]) (576 + k) b
  | 2 => (true, s.updData b)
  | _ => (true, s)

/-- An assured item of the queue waits for its acceptance. -/
def State.hostWaits (s : State) (k : Nat) : Bool := s.asd.out.any (fun o => asrSender o.src == .host k)

/-- The last descriptor of an item completes: OK, or REFUSED. -/
def State.lastDone (s : State) (k : Nat) (d : Desc) (stored : Bool) : State :=
  let refused := s.hst.refused.contains k || !stored
  let s1 := { s with hst := { s.hst with refused := s.hst.refused.filter (· != k) } }
  (s1.setRing k { s1.ring k with acc := [], off := 0, waiting := false }).writeBack k
    { status := if refused then 2 else 0, flags := 3, len := d.len }

/-- From the host: the buffer's bytes join the item; a part of length 0, or beyond 10,240 bytes in all, spoils the whole
item, and `off` marks it until its last part (R407, R408). -/
def State.fromHost (s : State) (k : Nat) (d : Desc) : State :=
  let r := s.ring k
  if r.waiting then (if s.hostWaits k then s else s.lastDone k d true)
  else if r.off ≠ 0 ∨ d.len = 0 ∨ 10240 < r.acc.length + d.len then
    (s.setRing k { r with acc := [], off := b2n (!d.last) }).writeBack k { status := 3, flags := 1 + 2 * b2n d.last }
  else
    let b := r.acc ++ d.data.take d.len
    if !d.last then (s.setRing k { r with acc := b }).writeBack k { len := d.len }
    else
      let x := (s.setRing k { r with acc := [] }).fromItem k b
      if x.2.hostWaits k then x.2.setRing k { x.2.ring k with waiting := true } else x.2.lastDone k d x.1

/-- The next posted descriptor of an enabled ring is used and written back. -/
def execDescriptorComplete (rd : At Ecc) (queue : Fin 2048) (s : State) : Out :=
  let s := s.clock rd.t
  let k := queue.val
  let r := s.ring k
  match r.posted with
  | d :: _ =>
    if r.en ∧ r.sized then
      .next (if s.fb Fd.HST_Qs_CFG_DIR [k] then s.fromHost k d else s.toHost k d rd.found)
    else .next s
  | [] => .next s

/-! Service USB port (R411, R412): each command is a request whose status stage has completed -/

/-- An address and a wLength that REG_READ and REG_WRITE take. -/
def usbLimits (addr len : Nat) : Bool := addr % 4 == 0 && decide (4 ≤ len ∧ len ≤ 64) && len % 4 == 0

def State.usbOut (s : State) (ws : List (BitVec 32)) : State := s.emit (.usb ws)
def State.stall (s : State) : State := s.emit .usbStall

def execUsbRegRead (t : Nat) (addr : BitVec 32) (len : BitVec 16) (s : State) : Out :=
  let s := s.clock t
  if usbLimits addr.toNat len.toNat then
    let r := s.snapshot .usb addr.toNat (len.toNat / 4)
    .next (r.2.usbOut r.1)
  else .next s.stall

def execUsbRegWrite (t : Nat) (addr : BitVec 32) (data : Bytes) (s : State) : Out :=
  let s := s.clock t
  if usbLimits addr.toNat data.length then .next (s.writeWords .usb addr.toNat (wordsOf data)) else .next s.stall

/-- The upload in progress comes over EP1. -/
def State.usbUpload (s : State) : State :=
  match s.cfg.upd with
  | some u => ({ s with cfg := { s.cfg with upd := some { u with usb := true } } }).set0 Fd.HST_STAT_USB_UPLOAD 1
  | none => s

def execImgStart (t : Nat) (target : BitVec 16) (len : BitVec 16) (s : State) : Out :=
  let s := s.clock t
  if len ≠ 0 then .next s.stall
  else .next ((s.set0 Fd.CFG_UPD_CTL_TARGET target.toNat).updStart (bitAt target.toNat 0) true).usbUpload

def execImgCommit (t : Nat) (len : BitVec 16) (s : State) : Out :=
  let s := s.clock t
  if len ≠ 0 then .next s.stall else .next s.updCommit

def execImgAbort (t : Nat) (len : BitVec 16) (s : State) : Out :=
  let s := s.clock t
  if len ≠ 0 then .next s.stall else .next s.updAbort

/-- CFG_UPD_STAT, then HST_STAT. -/
def execUsbStatus (t : Nat) (len : BitVec 16) (s : State) : Out :=
  let s := s.clock t
  if len ≠ 8 then .next s.stall
  else
    let a := s.readReg .usb true Reg.CFG_UPD_STAT.base
    let b := a.2.readReg .usb true Reg.HST_STAT.base
    .next (b.2.usbOut [a.1, b.1])

def execEp1Data (t : Nat) (data : Bytes) (s : State) : Out := .next ((s.clock t).usbUpload.updData data)

/-- A bus reset discards an upload in progress on EP1. -/
def execUsbBusReset (t : Nat) (s : State) : Out :=
  let s := s.clock t
  match s.cfg.upd with
  | some u => if u.usb then .next s.updAbort else .next s
  | none => .next s

/-! MGT port (R413) -/

/-- The IPv4 address of the port, which the image sets. -/
def State.mgtIp (s : State) : BitVec 32 := s.act.mgtIp

/-- A source lies in one of the first 8 permitted prefixes. -/
def State.mgtPermits (s : State) (ip : BitVec 32) : Bool :=
  (s.act.mgtFrom.take 8).any (fun p => ip.toNat / 2 ^ (32 - p.2) == p.1.toNat / 2 ^ (32 - p.2))

def execArpRequest (t : Nat) (mac : BitVec 48) (sender target : BitVec 32) (s : State) : Out :=
  let s := s.clock t
  if target = s.mgtIp then .next (s.emit (.arpReply mac sender)) else .next s

def execIcmpEcho (t : Nat) (src dst : BitVec 32) (ident seq : BitVec 16) (data : Bytes) (s : State) : Out :=
  let s := s.clock t
  if dst = s.mgtIp then .next (s.emit (.icmpReply src ident.toNat seq.toNat data)) else .next s

/-- A request of the present second is counted; false beyond 20,000. -/
def State.mgtTake (s : State) : Bool × State :=
  let sec := s.raw / 1000000000
  let n := if s.hst.mgtSec = sec then s.hst.mgtCount else 0
  if 20000 ≤ n then (false, s) else (true, { s with hst := { s.hst with mgtCount := n + 1, mgtSec := sec } })

/-- The management cluster performs the register request of a datagram and replies with its completion, whose TAG is
open (log entry 3). -/
def State.mgtServe (s : State) (src : BitVec 32) (payload : Bytes) : State :=
  let r := requestOf payload
  let y := if r.ok ∧ 9 ≤ r.op then s.regOp .mgmt r else (8, [], s)
  let d := y.2.2.drawFree
  let x : Txn := { tag := d.1.toNat % 4096, req := r, queue := none, tick := 0 }
  d.2.emit (.mgtReply src (d.2.completion x y.1 y.2.1))

def execMgtRegisterRequest (t : Nat) (src dst : BitVec 32) (payload : Bytes) (s : State) : Out :=
  let s := s.clock t
  if dst = s.mgtIp ∧ s.mgtPermits src ∧ 16 ≤ payload.length then
    let r := s.mgtTake
    .next (if r.1 then r.2.mgtServe src payload else s)
  else .next s

/-! Test access port (R416) -/

def idcodeBits : List Bool := (List.range 32).map (bitAt 0x1A5604D3)

/-- The one-bit register between TDI and TDO: a 0 first, then TDI one clock late. -/
def bypassed (tdi : List Bool) : List Bool := (false :: tdi).take tdi.length

/-- The bypass register is selected. -/
def State.bypass (s : State) (i : Jtag) (tdi : List Bool) : State :=
  ({ s with hst := { s.hst with jtag := i } }).emit (.tdo (bypassed tdi))

/-- No instruction drives the balls any more. -/
def State.balls (s : State) (driven : Option (List Bool)) (floating : Bool) : State :=
  { s with hst := { s.hst with driven := driven, floating := floating } }

/-- BOOT_MODE is 1h, so an instruction may drive balls. -/
def State.mayDrive (s : State) : Bool := s.por.boot == 1

def execBypass (t : Nat) (tdi : List Bool) (s : State) : Out := .next (((s.clock t).balls none false).bypass .bypass tdi)

def execIdcode (t : Nat) (s : State) : Out :=
  let s := (s.clock t).balls none false
  .next (({ s with hst := { s.hst with jtag := .idcode } }).emit (.tdo idcodeBits))

/-- The levels on the balls are sampled and shifted out while the cells are preloaded. -/
def execSamplePreload (t : Nat) (levels tdi : List Bool) (s : State) : Out :=
  let s := (s.clock t).balls none false
  .next (({ s with hst := { s.hst with jtag := .sample, cells := tdi } }).emit (.tdo levels))

/-- An instruction that drives the balls from the boundary cells: the preloaded ones, then those shifted in. -/
def State.extest (s : State) (i : Jtag) (levels tdi : List Bool) : State :=
  if s.mayDrive then
    let s1 := s.emit (.balls i s.hst.cells)
    let s2 := ({ s1 with hst := { s1.hst with jtag := i, cells := tdi } }.balls (some tdi) false).emit (.tdo levels)
    s2.emit (.balls i tdi)
  else (s.balls none false).bypass .bypass tdi

def execExtest (t : Nat) (levels tdi : List Bool) (s : State) : Out := .next ((s.clock t).extest .extest levels tdi)
def execExtestPulse (t : Nat) (levels tdi : List Bool) (s : State) : Out := .next ((s.clock t).extest .pulse levels tdi)
def execExtestTrain (t : Nat) (levels tdi : List Bool) (s : State) : Out := .next ((s.clock t).extest .train levels tdi)

/-- The balls hold the cells' levels while the bypass register is selected. -/
def execClamp (t : Nat) (tdi : List Bool) (s : State) : Out :=
  let s := s.clock t
  if s.mayDrive then
    .next (((s.balls (some s.hst.cells) false).emit (.balls .clamp s.hst.cells)).bypass .clamp tdi)
  else .next ((s.balls none false).bypass .bypass tdi)

/-- Every ball floats while the bypass register is selected. -/
def execHighz (t : Nat) (tdi : List Bool) (s : State) : Out :=
  let s := s.clock t
  if s.mayDrive then .next (((s.balls none true).emit (.balls .highz [])).bypass .highz tdi)
  else .next ((s.balls none false).bypass .bypass tdi)

end Sys2Proof.Machine
end

