-- ==== Sys2Proof/Machine/Windows.lean ====
section
/-! DEFINITION. Windows of Gingham as they open and close (R29, R55 to R57, R61, R151, R178, R192, R204, R293). -/

namespace Sys2Proof.Machine

open Sys2Proof

/-- A window never goes past its tick, so a reference slot that is still open ends with it (R55). -/
def State.endSlots (s : State) : State :=
  (List.range 24).foldl (fun s n =>
    if (s.act.gng.entries (256 + n)).any (fun e => rowKind e.2 == 4 && Tab.get 0 s.gng.opened e.1 == 1) then s.refStop n
    else s) s

/-- Forgets the windows, and what control windows carried, of an earlier tick. -/
def State.windowTick (s : State) : State :=
  if s.gng.tick = s.phase.1 then s
  else
    let s1 := s.endSlots
    { s1 with gng := { s1.gng with tick := s.phase.1, opened := [] }
              cst := { s1.cst with helloSent := [], identSent := [] } }

/-- The entry of a segment whose window applies in the present tick; an empty window opens never (R55). -/
def State.windowOf (s : State) (seg entry : Nat) : Option Win :=
  ((s.act.gng.entries seg).find? (fun e => e.1 == entry)).bind (fun e =>
    if tickSelected s.phase.1 (rowTick e.2) (rowRep e.2) ∧ rowStart e.2 < rowStop e.2 then
      some ⟨rowKind e.2, rowStart e.2, rowStop e.2, rowArg e.2⟩ else none)

def State.markWindow (s : State) (entry v : Nat) : State :=
  { s with gng := { s.gng with opened := Tab.set 0 s.gng.opened entry v } }

/-- What a side sends in a control window: GRANT, HELLO and IDENT (R178, R192, R204). -/
def State.controlWindow (s : State) (n : Nat) : State :=
  match s.sideOf n with
  | some k => ((s.sendGrant k).sendHello k).sendIdents k
  | none => s

/-- A window opens: a control or express window of a port preempts its preemptable frame, and a reference slot of a
field bus requests the reference message. -/
def State.windowOpens (s : State) (seg : Nat) (w : Win) : State :=
  if seg < 256 then
    let s1 := s.shape seg
    match w.kind with
    | 0 => s1
    | 1 => s1.preempt seg
    | 2 => if s1.portUp seg then (s1.preempt seg).controlWindow seg else s1.preempt seg
    | _ => s1
  else if w.kind = 4 then s.refStart (seg - 256) else s

/-- A window opens, in Operate and in Listen (R390). -/
def execWindowStart (t : Nat) (seg : Fin 288) (entry : Fin 65536) (s : State) : Out :=
  let s := (s.clock t).windowTick
  match s.windowOf seg.val entry.val with
  | some w =>
    if w.holds s.phase.2 ∧ Tab.get 0 s.gng.opened entry.val = 0 ∧ s.fbPowered then
      .next ((s.markWindow entry.val 1).windowOpens seg.val w)
    else .next s
  | none => .next s

def execWindowStop (t : Nat) (seg : Fin 288) (entry : Fin 65536) (s : State) : Out :=
  let s := (s.clock t).windowTick
  match s.windowOf seg.val entry.val with
  | some w =>
    if w.stop ≤ s.phase.2 ∧ Tab.get 0 s.gng.opened entry.val = 1 then
      let s1 := s.markWindow entry.val 2
      .next (if seg.val < 256 then s1.shape seg.val else if w.kind = 4 then s1.refStop (seg.val - 256) else s1)
    else .next s
  | none => .next s

end Sys2Proof.Machine
end

