-- ==== Sys2Proof/Machine/Dispatch.lean ====
section
/-! DEFINITION. The meaning of each command: one arm per constructor of Instr, one direct call each. -/

namespace Sys2Proof.Machine

open Sys2Proof

def exec (i : Instr) (s : State) : Host.Outcome State Fault Refusal :=
  match i with
  | .powerOnReset t => Sys2Proof.Machine.execPowerOnReset t s
  | .rstNLow t => Sys2Proof.Machine.execRstNLow t s
  | .hostWarmReset t party bootMode pairSide => Sys2Proof.Machine.execHostWarmReset t party bootMode pairSide s
  | .perBlockReset t party block => Sys2Proof.Machine.execPerBlockReset t party block s
  | .consistCommandedReset t bootMode pairSide => Sys2Proof.Machine.execConsistCommandedReset t bootMode pairSide s
  | .cellarReset t cal => Sys2Proof.Machine.execCellarReset t cal s
  | .portGroupCalibrationDone t group lat => Sys2Proof.Machine.execPortGroupCalibrationDone t group lat s
  | .readyRise t partner => Sys2Proof.Machine.execReadyRise t partner s
  | .registerWrite t party addr value enables => Sys2Proof.Machine.execRegisterWrite t party addr value enables s
  | .rcRead t party addr => Sys2Proof.Machine.execRcRead t party addr s
  | .lowWordCapture t party addr => Sys2Proof.Machine.execLowWordCapture t party addr s
  | .linkTransferReceived t field seq data => Sys2Proof.Machine.execLinkTransferReceived t field seq data s
  | .refreshFrameSend t => Sys2Proof.Machine.execRefreshFrameSend t s
  | .commandFrameReceived t die crcOk => Sys2Proof.Machine.execCommandFrameReceived t die crcOk s
  | .latchSymbol t die => Sys2Proof.Machine.execLatchSymbol t die s
  | .watchdogExpiry t die => Sys2Proof.Machine.execWatchdogExpiry t die s
  | .powerDiePowerUp t die => Sys2Proof.Machine.execPowerDiePowerUp t die s
  | .tickInstant t => Sys2Proof.Machine.execTickInstant t s
  | .imageAssemblyClose t => Sys2Proof.Machine.execImageAssemblyClose t s
  | .taskStart t => Sys2Proof.Machine.execTaskStart t s
  | .mov vc => Sys2Proof.Machine.execMov vc s
  | .add vc => Sys2Proof.Machine.execAdd vc s
  | .sub vc => Sys2Proof.Machine.execSub vc s
  | .andOp vc => Sys2Proof.Machine.execAndOp vc s
  | .orOp vc => Sys2Proof.Machine.execOrOp vc s
  | .xorOp vc => Sys2Proof.Machine.execXorOp vc s
  | .shl vc => Sys2Proof.Machine.execShl vc s
  | .shr vc => Sys2Proof.Machine.execShr vc s
  | .cmp vc => Sys2Proof.Machine.execCmp vc s
  | .sel vc => Sys2Proof.Machine.execSel vc s
  | .satadd vc => Sys2Proof.Machine.execSatadd vc s
  | .mul vc => Sys2Proof.Machine.execMul vc s
  | .div vc => Sys2Proof.Machine.execDiv vc s
  | .rem vc => Sys2Proof.Machine.execRem vc s
  | .ld vc => Sys2Proof.Machine.execLd vc s
  | .st vc => Sys2Proof.Machine.execSt vc s
  | .tld vc => Sys2Proof.Machine.execTld vc s
  | .tsub vc => Sys2Proof.Machine.execTsub vc s
  | .tcmp vc => Sys2Proof.Machine.execTcmp vc s
  | .brf vc => Sys2Proof.Machine.execBrf vc s
  | .loopOp vc => Sys2Proof.Machine.execLoopOp vc s
  | .emitOp vc => Sys2Proof.Machine.execEmitOp vc s
  | .endOp vc => Sys2Proof.Machine.execEndOp vc s
  | .invalidInstruction vc => Sys2Proof.Machine.execInvalidInstruction vc s
  | .taskWcet t vc => Sys2Proof.Machine.execTaskWcet t vc s
  | .taskDeadline t => Sys2Proof.Machine.execTaskDeadline t s
  | .tickEngineHalt t => Sys2Proof.Machine.execTickEngineHalt t s
  | .vote t => Sys2Proof.Machine.execVote t s
  | .vcRejoin t vc => Sys2Proof.Machine.execVcRejoin t vc s
  | .vcSelfTest test => Sys2Proof.Machine.execVcSelfTest test s
  | .tickLost t => Sys2Proof.Machine.execTickLost t s
  | .stagingClose t => Sys2Proof.Machine.execStagingClose t s
  | .exportSend t frame => Sys2Proof.Machine.execExportSend t frame s
  | .imageFrameReceived t queue ecc => Sys2Proof.Machine.execImageFrameReceived t queue ecc s
  | .windowStart t seg entry => Sys2Proof.Machine.execWindowStart t seg entry s
  | .windowStop t seg entry => Sys2Proof.Machine.execWindowStop t seg entry s
  | .gngTblData2Write t party value => Sys2Proof.Machine.execGngTblData2Write t party value s
  | .gngOpenWrite t party entry open_ => Sys2Proof.Machine.execGngOpenWrite t party entry open_ s
  | .ginghamSelfTestDone t ok => Sys2Proof.Machine.execGinghamSelfTestDone t ok s
  | .syncReceived t port ingress msg => Sys2Proof.Machine.execSyncReceived t port ingress msg s
  | .syncSend t => Sys2Proof.Machine.execSyncSend t s
  | .ptpEventForward t inPort outPort ingress egress p2p transport corr => Sys2Proof.Machine.execPtpEventForward t inPort outPort ingress egress p2p transport corr s
  | .pdelayRequest t port => Sys2Proof.Machine.execPdelayRequest t port s
  | .pdelayMessageReceived t port msg => Sys2Proof.Machine.execPdelayMessageReceived t port msg s
  | .servoPairChange t est eff => Sys2Proof.Machine.execServoPairChange t est eff s
  | .todSet t party => Sys2Proof.Machine.execTodSet t party s
  | .tuNowCapture t party => Sys2Proof.Machine.execTuNowCapture t party s
  | .tuOfsCapture t party => Sys2Proof.Machine.execTuOfsCapture t party s
  | .tuRateCapture t party => Sys2Proof.Machine.execTuRateCapture t party s
  | .holdover t => Sys2Proof.Machine.execHoldover t s
  | .masterChg t => Sys2Proof.Machine.execMasterChg t s
  | .syntonLoss t => Sys2Proof.Machine.execSyntonLoss t s
  | .ppsInEdge t falling est => Sys2Proof.Machine.execPpsInEdge t falling est s
  | .ppsMiss t => Sys2Proof.Machine.execPpsMiss t s
  | .ppsOutEdge t => Sys2Proof.Machine.execPpsOutEdge t s
  | .tickOutEdge t => Sys2Proof.Machine.execTickOutEdge t s
  | .signalDetected t port => Sys2Proof.Machine.execSignalDetected t port s
  | .trainingDone t port => Sys2Proof.Machine.execTrainingDone t port s
  | .trainTimeout t port => Sys2Proof.Machine.execTrainTimeout t port s
  | .lockAchieved t port => Sys2Proof.Machine.execLockAchieved t port s
  | .lockTimeout t port => Sys2Proof.Machine.execLockTimeout t port s
  | .holdExpiry t port => Sys2Proof.Machine.execHoldExpiry t port s
  | .portDown t port localFault => Sys2Proof.Machine.execPortDown t port localFault s
  | .remoteFaultStart t port => Sys2Proof.Machine.execRemoteFaultStart t port s
  | .remoteFaultEnd t port => Sys2Proof.Machine.execRemoteFaultEnd t port s
  | .sdWindowEnd t port => Sys2Proof.Machine.execSdWindowEnd t port s
  | .codewordReceived t lane corrected uncorrectable => Sys2Proof.Machine.execCodewordReceived t lane corrected uncorrectable s
  | .burstEnd t group => Sys2Proof.Machine.execBurstEnd t group s
  | .laneTestWrite t party group lane value => Sys2Proof.Machine.execLaneTestWrite t party group lane value s
  | .moduleFound t group slot apps => Sys2Proof.Machine.execModuleFound t group slot apps s
  | .modulePoll t group slot alarm states temp => Sys2Proof.Machine.execModulePoll t group slot alarm states temp s
  | .moduleRemoved t group slot => Sys2Proof.Machine.execModuleRemoved t group slot s
  | .frameHeaderReceived t port vc stamp frame => Sys2Proof.Machine.execFrameHeaderReceived t port vc stamp frame s
  | .frameEndReceived t port codewordsOk reassembled => Sys2Proof.Machine.execFrameEndReceived t port codewordsOk reassembled s
  | .ageExpiry t entry => Sys2Proof.Machine.execAgeExpiry t entry s
  | .egressDecision t port ecc => Sys2Proof.Machine.execEgressDecision t port ecc s
  | .frameTxComplete t port => Sys2Proof.Machine.execFrameTxComplete t port s
  | .preemptVerify t port ok => Sys2Proof.Machine.execPreemptVerify t port ok s
  | .recoveryHeldTimeout t fn => Sys2Proof.Machine.execRecoveryHeldTimeout t fn s
  | .recoveryIdleTimeout t fn => Sys2Proof.Machine.execRecoveryIdleTimeout t fn s
  | .dropRemainder t queue => Sys2Proof.Machine.execDropRemainder t queue s
  | .queueStale t queue => Sys2Proof.Machine.execQueueStale t queue s
  | .leaseExpiry t res => Sys2Proof.Machine.execLeaseExpiry t res s
  | .scrubWord t ecc => Sys2Proof.Machine.execScrubWord t ecc s
  | .spareRotation t => Sys2Proof.Machine.execSpareRotation t s
  | .spareCopyDone t => Sys2Proof.Machine.execSpareCopyDone t s
  | .spareTestDone t ok => Sys2Proof.Machine.execSpareTestDone t ok s
  | .bankRetired t bank => Sys2Proof.Machine.execBankRetired t bank s
  | .grantReceived t port windowAt payload => Sys2Proof.Machine.execGrantReceived t port windowAt payload s
  | .helloReceived t port payload => Sys2Proof.Machine.execHelloReceived t port payload s
  | .helloLost t side => Sys2Proof.Machine.execHelloLost t side s
  | .callReceived t port payload => Sys2Proof.Machine.execCallReceived t port payload s
  | .reqReceived t port payload => Sys2Proof.Machine.execReqReceived t port payload s
  | .echoReceived t port payload => Sys2Proof.Machine.execEchoReceived t port payload s
  | .commitReceived t port payload => Sys2Proof.Machine.execCommitReceived t port payload s
  | .commitInstant t => Sys2Proof.Machine.execCommitInstant t s
  | .identReceived t port payload => Sys2Proof.Machine.execIdentReceived t port payload s
  | .resetFrameReceived t port payload => Sys2Proof.Machine.execResetFrameReceived t port payload s
  | .headWaitExpiry t => Sys2Proof.Machine.execHeadWaitExpiry t s
  | .roundFail t => Sys2Proof.Machine.execRoundFail t s
  | .censusTimeout t => Sys2Proof.Machine.execCensusTimeout t s
  | .cstInaug t party => Sys2Proof.Machine.execCstInaug t party s
  | .cstReset t party => Sys2Proof.Machine.execCstReset t party s
  | .dutyTimeout t => Sys2Proof.Machine.execDutyTimeout t s
  | .mirrorReceived t payload => Sys2Proof.Machine.execMirrorReceived t payload s
  | .ackReceived t payload => Sys2Proof.Machine.execAckReceived t payload s
  | .nackReceived t payload => Sys2Proof.Machine.execNackReceived t payload s
  | .withdrawReceived t payload => Sys2Proof.Machine.execWithdrawReceived t payload s
  | .acceptanceDeadline t => Sys2Proof.Machine.execAcceptanceDeadline t s
  | .stateReceived t payload => Sys2Proof.Machine.execStateReceived t payload s
  | .tickEndReceived t payload => Sys2Proof.Machine.execTickEndReceived t payload s
  | .healthReceived t side payload => Sys2Proof.Machine.execHealthReceived t side payload s
  | .relinquishReceived t payload => Sys2Proof.Machine.execRelinquishReceived t payload s
  | .partnerLost t => Sys2Proof.Machine.execPartnerLost t s
  | .takeover t => Sys2Proof.Machine.execTakeover t s
  | .fenceTimeout t => Sys2Proof.Machine.execFenceTimeout t s
  | .fabricLinkDownFence t => Sys2Proof.Machine.execFabricLinkDownFence t s
  | .resyncReceived t payload => Sys2Proof.Machine.execResyncReceived t payload s
  | .revertHoldExpiry t => Sys2Proof.Machine.execRevertHoldExpiry t s
  | .asdHandover t party => Sys2Proof.Machine.execAsdHandover t party s
  | .handoverReceived t payload => Sys2Proof.Machine.execHandoverReceived t payload s
  | .handoverInstant t => Sys2Proof.Machine.execHandoverInstant t s
  | .fetchReceived t payload => Sys2Proof.Machine.execFetchReceived t payload s
  | .fetchDataReceived t payload => Sys2Proof.Machine.execFetchDataReceived t payload s
  | .logReceived t payload => Sys2Proof.Machine.execLogReceived t payload s
  | .uartCharacterReceived t channel start idle samples => Sys2Proof.Machine.execUartCharacterReceived t channel start idle samples s
  | .sentenceTimeout t talker => Sys2Proof.Machine.execSentenceTimeout t talker s
  | .udpSentenceFrame rd => Sys2Proof.Machine.execUdpSentenceFrame rd s
  | .sentenceProcess t => Sys2Proof.Machine.execSentenceProcess t s
  | .uartListenerSend rd listener => Sys2Proof.Machine.execUartListenerSend rd listener s
  | .udpListenerSend rd listener => Sys2Proof.Machine.execUdpListenerSend rd listener s
  | .senTblData7Write t party value => Sys2Proof.Machine.execSenTblData7Write t party value s
  | .canMessageReceived t channel sof frame => Sys2Proof.Machine.execCanMessageReceived t channel sof frame s
  | .canTxOffer t channel => Sys2Proof.Machine.execCanTxOffer t channel s
  | .canTxDone t channel sof tdcv => Sys2Proof.Machine.execCanTxDone t channel sof tdcv s
  | .arbLost t channel sof => Sys2Proof.Machine.execArbLost t channel sof s
  | .canBusError t channel error sof delay => Sys2Proof.Machine.execCanBusError t channel error sof delay s
  | .integrationDone t channel => Sys2Proof.Machine.execIntegrationDone t channel s
  | .busOn t channel => Sys2Proof.Machine.execBusOn t channel s
  | .fbRecover t party channel => Sys2Proof.Machine.execFbRecover t party channel s
  | .fbHpReq t party channel => Sys2Proof.Machine.execFbHpReq t party channel s
  | .fbHpCancel t party channel => Sys2Proof.Machine.execFbHpCancel t party channel s
  | .fbTxRequest t party channel buf => Sys2Proof.Machine.execFbTxRequest t party channel buf s
  | .fbTxCancel t party channel buf => Sys2Proof.Machine.execFbTxCancel t party channel buf s
  | .fbMbselWrite t party channel value => Sys2Proof.Machine.execFbMbselWrite t party channel value s
  | .lockTmo t channel => Sys2Proof.Machine.execLockTmo t channel s
  | .fbMbwinWrite t party channel word value => Sys2Proof.Machine.execFbMbwinWrite t party channel word value s
  | .ardDwellExpiry t channel => Sys2Proof.Machine.execArdDwellExpiry t channel s
  | .txdTmo t channel recessive since => Sys2Proof.Machine.execTxdTmo t channel recessive since s
  | .wakePattern t channel => Sys2Proof.Machine.execWakePattern t channel s
  | .selectiveWakeFrame t channel good frame => Sys2Proof.Machine.execSelectiveWakeFrame t channel good frame s
  | .uaDataRead t party channel => Sys2Proof.Machine.execUaDataRead t party channel s
  | .uaDataWrite t party channel value => Sys2Proof.Machine.execUaDataWrite t party channel value s
  | .uaStatRead t party channel => Sys2Proof.Machine.execUaStatRead t party channel s
  | .uaFlagclrWrite t party channel value => Sys2Proof.Machine.execUaFlagclrWrite t party channel value s
  | .uaBreak t party channel value => Sys2Proof.Machine.execUaBreak t party channel value s
  | .uartCharacterSent t channel => Sys2Proof.Machine.execUartCharacterSent t channel s
  | .bridgeRequestTake rd => Sys2Proof.Machine.execBridgeRequestTake rd s
  | .bridgeRead t bus => Sys2Proof.Machine.execBridgeRead t bus s
  | .bridgeWrite t bus => Sys2Proof.Machine.execBridgeWrite t bus s
  | .writeRead t bus => Sys2Proof.Machine.execWriteRead t bus s
  | .bridgeLock t bus => Sys2Proof.Machine.execBridgeLock t bus s
  | .bridgeUnlock t bus => Sys2Proof.Machine.execBridgeUnlock t bus s
  | .semAcq t => Sys2Proof.Machine.execSemAcq t s
  | .semRel t => Sys2Proof.Machine.execSemRel t s
  | .semRenew t => Sys2Proof.Machine.execSemRenew t s
  | .regRead t => Sys2Proof.Machine.execRegRead t s
  | .regWrite t => Sys2Proof.Machine.execRegWrite t s
  | .bridgeTransactionDone t bus result => Sys2Proof.Machine.execBridgeTransactionDone t bus result s
  | .bridgeTimeout t bus => Sys2Proof.Machine.execBridgeTimeout t bus s
  | .stretchTimeout t bus held => Sys2Proof.Machine.execStretchTimeout t bus held s
  | .lockWaitExpiry t bus => Sys2Proof.Machine.execLockWaitExpiry t bus s
  | .busStuck t bus sda since => Sys2Proof.Machine.execBusStuck t bus sda since s
  | .busRecovered t bus => Sys2Proof.Machine.execBusRecovered t bus s
  | .pollInterval t poll => Sys2Proof.Machine.execPollInterval t poll s
  | .sideBandLine t bus low since => Sys2Proof.Machine.execSideBandLine t bus low since s
  | .pulseEdge t ls on => Sys2Proof.Machine.execPulseEdge t ls on s
  | .pwmPeriodStart t ls => Sys2Proof.Machine.execPwmPeriodStart t ls s
  | .blankingEnd t ls low => Sys2Proof.Machine.execBlankingEnd t ls low s
  | .short t ls since => Sys2Proof.Machine.execShort t ls since s
  | .retryIntervalExpiry t ls temp => Sys2Proof.Machine.execRetryIntervalExpiry t ls temp s
  | .thermal t ls low => Sys2Proof.Machine.execThermal t ls low s
  | .thermalRestart t ls => Sys2Proof.Machine.execThermalRestart t ls s
  | .groupOc t die which => Sys2Proof.Machine.execGroupOc t die which s
  | .vlsUv t group lost => Sys2Proof.Machine.execVlsUv t group lost s
  | .vlsRestore t group => Sys2Proof.Machine.execVlsRestore t group s
  | .loadReading t ls acq current vout temp => Sys2Proof.Machine.execLoadReading t ls acq current vout temp s
  | .lsClear t party ls => Sys2Proof.Machine.execLsClear t party ls s
  | .einTransition t ein level => Sys2Proof.Machine.execEinTransition t ein level s
  | .einConfirm t ein => Sys2Proof.Machine.execEinConfirm t ein s
  | .weighingStart t lc sample => Sys2Proof.Machine.execWeighingStart t lc sample s
  | .settleEnd t lc => Sys2Proof.Machine.execSettleEnd t lc s
  | .weighWindowEnd t lc sum lo hi least most causes cal => Sys2Proof.Machine.execWeighWindowEnd t lc sum lo hi least most causes cal s
  | .loadClear t lc sample => Sys2Proof.Machine.execLoadClear t lc sample s
  | .zeroTracking t lc sum lo hi cal => Sys2Proof.Machine.execZeroTracking t lc sum lo hi cal s
  | .referenceCheck t lc result cal => Sys2Proof.Machine.execReferenceCheck t lc result cal s
  | .recordSend t => Sys2Proof.Machine.execRecordSend t s
  | .beacon t => Sys2Proof.Machine.execBeacon t s
  | .livePeriod t lc sample centre cal => Sys2Proof.Machine.execLivePeriod t lc sample centre cal s
  | .cellarRecordReceived t start crcOk => Sys2Proof.Machine.execCellarRecordReceived t start crcOk s
  | .celZero t crcOk sum lo hi cal => Sys2Proof.Machine.execCelZero t crcOk sum lo hi cal s
  | .celLive t crcOk cal => Sys2Proof.Machine.execCelLive t crcOk cal s
  | .celReplay t crcOk cal => Sys2Proof.Machine.execCelReplay t crcOk cal s
  | .celKeyReq t crcOk cal => Sys2Proof.Machine.execCelKeyReq t crcOk cal s
  | .celRefCheck t crcOk cal => Sys2Proof.Machine.execCelRefCheck t crcOk cal s
  | .calZero t crcOk sum lo hi cal => Sys2Proof.Machine.execCalZero t crcOk sum lo hi cal s
  | .calSpan t crcOk sum lo hi cal => Sys2Proof.Machine.execCalSpan t crcOk sum lo hi cal s
  | .setParam t crcOk cal => Sys2Proof.Machine.execSetParam t crcOk cal s
  | .celCommit t crcOk cal => Sys2Proof.Machine.execCelCommit t crcOk cal s
  | .celDiscard t crcOk cal => Sys2Proof.Machine.execCelDiscard t crcOk cal s
  | .calChange t cal => Sys2Proof.Machine.execCalChange t cal s
  | .calEnFall t => Sys2Proof.Machine.execCalEnFall t s
  | .celCmdTimeout t => Sys2Proof.Machine.execCelCmdTimeout t s
  | .cfgUpdStart t party package stageS => Sys2Proof.Machine.execCfgUpdStart t party package stageS s
  | .cfgUpdData t party value => Sys2Proof.Machine.execCfgUpdData t party value s
  | .cfgUpdCommit t party package stageS => Sys2Proof.Machine.execCfgUpdCommit t party package stageS s
  | .cfgUpdAbort t party package stageS => Sys2Proof.Machine.execCfgUpdAbort t party package stageS s
  | .swap t party at_ => Sys2Proof.Machine.execSwap t party at_ s
  | .stagedSwap t party at_ => Sys2Proof.Machine.execStagedSwap t party at_ s
  | .swapRevert t party at_ => Sys2Proof.Machine.execSwapRevert t party at_ s
  | .swapCancel t party => Sys2Proof.Machine.execSwapCancel t party s
  | .swapCheckDone t => Sys2Proof.Machine.execSwapCheckDone t s
  | .swapDone t => Sys2Proof.Machine.execSwapDone t s
  | .stageGroupDone t => Sys2Proof.Machine.execStageGroupDone t s
  | .stageTmo t => Sys2Proof.Machine.execStageTmo t s
  | .cfgShrDataWrite t party value => Sys2Proof.Machine.execCfgShrDataWrite t party value s
  | .atcStore t party slot => Sys2Proof.Machine.execAtcStore t party slot s
  | .atcRead t party slot => Sys2Proof.Machine.execAtcRead t party slot s
  | .storeDone t verified => Sys2Proof.Machine.execStoreDone t verified s
  | .wearMove t => Sys2Proof.Machine.execWearMove t s
  | .logPageStore t => Sys2Proof.Machine.execLogPageStore t s
  | .logFailClear t party => Sys2Proof.Machine.execLogFailClear t party s
  | .evtReadCapture t party => Sys2Proof.Machine.execEvtReadCapture t party s
  | .trcReadCapture t party => Sys2Proof.Machine.execTrcReadCapture t party s
  | .porListen t party => Sys2Proof.Machine.execPorListen t party s
  | .porStandby t party => Sys2Proof.Machine.execPorStandby t party s
  | .porSleep t party => Sys2Proof.Machine.execPorSleep t party s
  | .porStay t party => Sys2Proof.Machine.execPorStay t party s
  | .stateEntry t => Sys2Proof.Machine.execStateEntry t s
  | .wakeInLevel t level => Sys2Proof.Machine.execWakeInLevel t level s
  | .lwakeHigh t => Sys2Proof.Machine.execLwakeHigh t s
  | .wakeTimer t => Sys2Proof.Machine.execWakeTimer t s
  | .falseWake t => Sys2Proof.Machine.execFalseWake t s
  | .awakeLimit t => Sys2Proof.Machine.execAwakeLimit t s
  | .maskCycleEnd t => Sys2Proof.Machine.execMaskCycleEnd t s
  | .holdupStart t => Sys2Proof.Machine.execHoldupStart t s
  | .holdupEnd t => Sys2Proof.Machine.execHoldupEnd t s
  | .vkaResetLevel t => Sys2Proof.Machine.execVkaResetLevel t s
  | .vmonLow t => Sys2Proof.Machine.execVmonLow t s
  | .vmonAction t => Sys2Proof.Machine.execVmonAction t s
  | .vmonUp t => Sys2Proof.Machine.execVmonUp t s
  | .avsUpdate t target waits => Sys2Proof.Machine.execAvsUpdate t target waits s
  | .avsGood t vout => Sys2Proof.Machine.execAvsGood t vout s
  | .avsFault t pmbus => Sys2Proof.Machine.execAvsFault t pmbus s
  | .inhStep t => Sys2Proof.Machine.execInhStep t s
  | .railTimeout t mask => Sys2Proof.Machine.execRailTimeout t mask s
  | .railRetry t => Sys2Proof.Machine.execRailRetry t s
  | .railFault t mask => Sys2Proof.Machine.execRailFault t mask s
  | .thermalWarning t => Sys2Proof.Machine.execThermalWarning t s
  | .thermalReset t => Sys2Proof.Machine.execThermalReset t s
  | .tailWrite t queue tail descs => Sys2Proof.Machine.execTailWrite t queue tail descs s
  | .headRead t queue => Sys2Proof.Machine.execHeadRead t queue s
  | .ringEnable t queue lo hi cfg => Sys2Proof.Machine.execRingEnable t queue lo hi cfg s
  | .descriptorComplete rd queue => Sys2Proof.Machine.execDescriptorComplete rd queue s
  | .usbRegRead t addr len => Sys2Proof.Machine.execUsbRegRead t addr len s
  | .usbRegWrite t addr data => Sys2Proof.Machine.execUsbRegWrite t addr data s
  | .imgStart t target len => Sys2Proof.Machine.execImgStart t target len s
  | .imgCommit t len => Sys2Proof.Machine.execImgCommit t len s
  | .imgAbort t len => Sys2Proof.Machine.execImgAbort t len s
  | .usbStatus t len => Sys2Proof.Machine.execUsbStatus t len s
  | .ep1Data t data => Sys2Proof.Machine.execEp1Data t data s
  | .usbBusReset t => Sys2Proof.Machine.execUsbBusReset t s
  | .arpRequest t mac sender target => Sys2Proof.Machine.execArpRequest t mac sender target s
  | .icmpEcho t src dst ident seq data => Sys2Proof.Machine.execIcmpEcho t src dst ident seq data s
  | .mgtRegisterRequest t src dst payload => Sys2Proof.Machine.execMgtRegisterRequest t src dst payload s
  | .bypass t tdi => Sys2Proof.Machine.execBypass t tdi s
  | .idcode t => Sys2Proof.Machine.execIdcode t s
  | .samplePreload t levels tdi => Sys2Proof.Machine.execSamplePreload t levels tdi s
  | .extest t levels tdi => Sys2Proof.Machine.execExtest t levels tdi s
  | .extestPulse t levels tdi => Sys2Proof.Machine.execExtestPulse t levels tdi s
  | .extestTrain t levels tdi => Sys2Proof.Machine.execExtestTrain t levels tdi s
  | .clamp t tdi => Sys2Proof.Machine.execClamp t tdi s
  | .highz t tdi => Sys2Proof.Machine.execHighz t tdi s
  | .resetRelease t bootMode pairSide => Sys2Proof.Machine.execResetRelease t bootMode pairSide s
  | .holdBreak t port => Sys2Proof.Machine.execHoldBreak t port s
  | .stateReached t => Sys2Proof.Machine.execStateReached t s
  | .absent t => Sys2Proof.Machine.execAbsent t s
  | .referenceCheckResume t lc => Sys2Proof.Machine.execReferenceCheckResume t lc s
  | .gableMacRetry t lane ok => Sys2Proof.Machine.execGableMacRetry t lane ok s
  | .belowRetentionLimit t => Sys2Proof.Machine.execBelowRetentionLimit t s

end Sys2Proof.Machine
end

