-- ==== Sys2Proof/Machine/Step.lean ====
section
/-! DEFINITION. One step of the block: the command at the front of its queue, or one period of TCLK without a command. -/

namespace Sys2Proof.Machine

open Sys2Proof

/-- One TCLK period passes without a command (R74; log entry 1). -/
def State.idle (s : State) : State := s.clock (s.raw + 1)

def step (s : State) : Out :=
  match s.pending with
  | [] => .next s.idle
  | c :: cs => exec c { s with pending := cs }

/-- The state with the command that a word spells at the front of its queue; no word spells one. -/
def State.withFetchWord (s : State) (nbits w : Nat) : State :=
  match decodeTableWord nbits w with
  | some c => { s with pending := c :: s.pending }
  | none => s

end Sys2Proof.Machine
end

