-- ==== Sys2Proof/WellFormed.lean ====
section
/-! DEFINITION. Well-formed commands: what the operands of a command must hold for it to be one that can happen. A time
that an operand names does not lie after the command, and the parts of a frame or a record agree. -/

namespace Sys2Proof

/-- The bytes that a DLC stands for (Table FBS-4). -/
def dlcBytes (dlc : Nat) (fd : Bool) : Nat :=
  if dlc ≤ 8 then dlc else if fd then [12, 16, 20, 24, 32, 48, 64].getD (dlc - 9) 64 else 8

/-- A CAN frame whose parts agree: its data has the length of its DLC, a remote frame has none and is a classical one, and
a base identifier stands in bits [28:18]. -/
def CanFrame.wf (f : CanFrame) : Bool :=
  (if f.rtr then f.data.isEmpty && !f.fdf else f.data.length == dlcBytes f.dlc.toNat f.fdf) && (f.fdf || (!f.brs && !f.esi))
    && (f.ide || f.id.toNat % 2 ^ 18 == 0)

/-- A read returns at most 256 bytes (Table SER-3). -/
def BusEnd.wf : BusEnd → Bool
  | .ok b => decide (b.length ≤ 256)
  | .nackAddr | .nackData | .arbLost => true

/-- The times of an answer follow one another, in units of 0.125 ns. -/
def PdelayMsg.wf (t : Nat) : PdelayMsg → Bool
  | .request rx _ _ => decide (rx ≤ 8 * t)
  | .response tx peerRx peerTx rx _ => decide (tx ≤ rx) && decide (peerRx ≤ peerTx) && decide (rx ≤ 8 * t)

/-- A posted buffer holds no more bytes than its size, which is 16 bits (Table HST-3). -/
def HostDesc.wf (d : HostDesc) : Bool := decide (d.data.length ≤ d.len) && decide (d.len < 65536)

def Instr.wellFormed (i : Instr) : Bool :=
  match i with
  | .pdelayMessageReceived t _ msg => msg.wf t
  | .servoPairChange t _ eff => decide (t ≤ eff)
  | .codewordReceived _ _ corrected _ => decide (corrected ≤ 15)
  | .frameHeaderReceived t _ _ stamp frame => decide (1 ≤ frame.length) && decide (stamp ≤ 8 * t)
  | .grantReceived t _ windowAt _ => decide (windowAt ≤ t)
  | .uartCharacterReceived t _ start _ _ => decide (start ≤ t)
  | .bridgeTransactionDone _ _ result => result.wf
  | .stretchTimeout t _ held => decide (held ≤ t)
  | .busStuck t _ _ since => decide (since ≤ t)
  | .sideBandLine t _ _ since => decide (since ≤ t)
  | .canMessageReceived t _ sof frame => decide (sof ≤ t) && frame.wf
  | .canTxDone t _ sof _ => decide (sof ≤ t)
  | .arbLost t _ sof => decide (sof ≤ t)
  | .canBusError t _ _ sof _ => decide (sof ≤ t)
  | .txdTmo t _ _ since => decide (since ≤ t)
  | .selectiveWakeFrame _ _ _ frame => frame.wf
  | .short t _ since => decide (since ≤ t)
  | .loadReading t _ acq _ _ _ => decide (acq ≤ t)
  | .weighWindowEnd _ _ _ lo hi least most _ _ => decide (least.toInt ≤ lo.toInt) && decide (lo.toInt ≤ hi.toInt) && decide (hi.toInt ≤ most.toInt)
  | .zeroTracking _ _ sum lo hi _ => decide (19200 * lo.toInt ≤ sum) && decide (sum ≤ 19200 * hi.toInt)
  | .celZero _ _ sum lo hi _ => decide (1920 * lo.toInt ≤ sum) && decide (sum ≤ 1920 * hi.toInt)
  | .calZero _ _ sum lo hi _ => decide (19200 * lo.toInt ≤ sum) && decide (sum ≤ 19200 * hi.toInt)
  | .calSpan _ _ sum lo hi _ => decide (19200 * lo.toInt ≤ sum) && decide (sum ≤ 19200 * hi.toInt)
  | .syncReceived t _ ingress _ => decide (ingress ≤ 8 * t)
  | .registerWrite _ _ addr _ _ => addr.toNat % 4 == 0
  | .rcRead _ _ addr => addr.toNat % 4 == 0
  | .lowWordCapture _ _ addr => addr.toNat % 4 == 0
  | .tailWrite _ _ _ descs => descs.all HostDesc.wf
  | .usbRegWrite _ _ data => decide (data.length < 65536)
  | .mgtRegisterRequest _ _ _ payload => decide (payload.length ≤ 1472)
  | .samplePreload _ levels tdi => levels.length == tdi.length
  | .extest _ levels tdi => levels.length == tdi.length
  | .extestPulse _ levels tdi => levels.length == tdi.length
  | .extestTrain _ levels tdi => levels.length == tdi.length
  | .tickInstant _ | .imageAssemblyClose _ | .taskStart _ | .mov _ | .add _ | .sub _ | .andOp _ | .orOp _ | .xorOp _
    | .shl _ | .shr _ | .cmp _ | .sel _ | .satadd _ | .mul _ | .div _ | .rem _ | .ld _ | .st _ | .tld _ | .tsub _
    | .tcmp _ | .brf _ | .loopOp _ | .emitOp _ | .endOp _ | .invalidInstruction _ | .taskWcet _ _ | .taskDeadline _
    | .tickEngineHalt _ | .vote _ | .vcRejoin _ _ | .vcSelfTest _ | .tickLost _ | .stagingClose _ | .exportSend _ _
    | .imageFrameReceived _ _ _ | .syncSend _ | .ptpEventForward _ _ _ _ _ _ _ _ | .pdelayRequest _ _ | .todSet _ _
    | .tuNowCapture _ _ | .tuOfsCapture _ _ | .tuRateCapture _ _ | .holdover _ | .masterChg _ | .syntonLoss _
    | .ppsInEdge _ _ _ | .ppsMiss _ | .ppsOutEdge _ | .tickOutEdge _ | .dropRemainder _ _ | .queueStale _ _
    | .scrubWord _ _ | .spareRotation _ | .spareCopyDone _ | .spareTestDone _ _ | .bankRetired _ _
    | .helloReceived _ _ _ | .helloLost _ _ | .callReceived _ _ _ | .reqReceived _ _ _ | .echoReceived _ _ _
    | .commitReceived _ _ _ | .commitInstant _ | .identReceived _ _ _ | .resetFrameReceived _ _ _ | .headWaitExpiry _
    | .roundFail _ | .censusTimeout _ | .cstInaug _ _ | .cstReset _ _ | .gngTblData2Write _ _ _
    | .gngOpenWrite _ _ _ _ | .ginghamSelfTestDone _ _ | .portGroupCalibrationDone _ _ _ | .signalDetected _ _
    | .trainingDone _ _ | .trainTimeout _ _ | .lockAchieved _ _ | .lockTimeout _ _ | .holdExpiry _ _ | .holdBreak _ _
    | .portDown _ _ _ | .remoteFaultStart _ _ | .remoteFaultEnd _ _ | .sdWindowEnd _ _ | .burstEnd _ _
    | .laneTestWrite _ _ _ _ _ | .moduleFound _ _ _ _ | .modulePoll _ _ _ _ _ _ | .moduleRemoved _ _ _
    | .frameEndReceived _ _ _ _ | .ageExpiry _ _ | .egressDecision _ _ _ | .frameTxComplete _ _ | .preemptVerify _ _ _
    | .recoveryHeldTimeout _ _ | .recoveryIdleTimeout _ _ | .uaDataRead _ _ _ | .uaDataWrite _ _ _ _
    | .uaStatRead _ _ _ | .uaFlagclrWrite _ _ _ _ | .uaBreak _ _ _ _ | .uartCharacterSent _ _ | .sentenceTimeout _ _
    | .udpSentenceFrame _ | .sentenceProcess _ | .uartListenerSend _ _ | .udpListenerSend _ _
    | .senTblData7Write _ _ _ | .bridgeRequestTake _ | .bridgeRead _ _ | .bridgeWrite _ _ | .writeRead _ _
    | .bridgeLock _ _ | .bridgeUnlock _ _ | .semAcq _ | .semRel _ | .semRenew _ | .bridgeTimeout _ _
    | .lockWaitExpiry _ _ | .busRecovered _ _ | .pollInterval _ _ | .canTxOffer _ _ | .integrationDone _ _
    | .busOn _ _ | .fbRecover _ _ _ | .fbHpReq _ _ _ | .fbHpCancel _ _ _ | .fbTxRequest _ _ _ _ | .fbTxCancel _ _ _ _
    | .fbMbselWrite _ _ _ _ | .lockTmo _ _ | .fbMbwinWrite _ _ _ _ _ | .ardDwellExpiry _ _ | .wakePattern _ _
    | .windowStart _ _ _ | .windowStop _ _ _ | .linkTransferReceived _ _ _ _ | .refreshFrameSend _
    | .commandFrameReceived _ _ _ | .latchSymbol _ _ | .watchdogExpiry _ _ | .powerDiePowerUp _ _ | .pulseEdge _ _ _
    | .pwmPeriodStart _ _ | .blankingEnd _ _ _ | .retryIntervalExpiry _ _ _ | .thermal _ _ _ | .thermalRestart _ _
    | .groupOc _ _ _ | .vlsUv _ _ _ | .vlsRestore _ _ | .lsClear _ _ _ | .einTransition _ _ _ | .einConfirm _ _
    | .cellarReset _ _ | .weighingStart _ _ _ | .settleEnd _ _ | .loadClear _ _ _ | .referenceCheck _ _ _ _
    | .recordSend _ | .beacon _ | .livePeriod _ _ _ _ _ | .cellarRecordReceived _ _ _ | .celLive _ _ _
    | .celReplay _ _ _ | .celKeyReq _ _ _ | .celRefCheck _ _ _ | .setParam _ _ _ | .celCommit _ _ _
    | .celDiscard _ _ _ | .calChange _ _ | .calEnFall _ | .celCmdTimeout _ | .absent _ | .referenceCheckResume _ _
    | .dutyTimeout _ | .mirrorReceived _ _ | .ackReceived _ _ | .nackReceived _ _ | .withdrawReceived _ _
    | .acceptanceDeadline _ | .stateReceived _ _ | .tickEndReceived _ _ | .healthReceived _ _ _
    | .relinquishReceived _ _ | .partnerLost _ | .takeover _ | .fenceTimeout _ | .fabricLinkDownFence _
    | .resyncReceived _ _ | .revertHoldExpiry _ | .asdHandover _ _ | .handoverReceived _ _ | .handoverInstant _
    | .fetchReceived _ _ | .fetchDataReceived _ _ | .logReceived _ _ | .gableMacRetry _ _ _ | .cfgUpdStart _ _ _ _
    | .cfgUpdData _ _ _ | .cfgUpdCommit _ _ _ _ | .cfgUpdAbort _ _ _ _ | .swap _ _ _ | .stagedSwap _ _ _
    | .swapRevert _ _ _ | .swapCancel _ _ | .swapCheckDone _ | .swapDone _ | .stageGroupDone _ | .stageTmo _
    | .cfgShrDataWrite _ _ _ | .atcStore _ _ _ | .atcRead _ _ _ | .storeDone _ _ | .wearMove _ | .logPageStore _
    | .logFailClear _ _ | .evtReadCapture _ _ | .trcReadCapture _ _ | .porListen _ _ | .porStandby _ _ | .porSleep _ _
    | .porStay _ _ | .stateEntry _ | .stateReached _ | .wakeInLevel _ _ | .lwakeHigh _ | .wakeTimer _ | .falseWake _
    | .awakeLimit _ | .maskCycleEnd _ | .holdupStart _ | .holdupEnd _ | .vkaResetLevel _ | .vmonLow _ | .vmonAction _
    | .vmonUp _ | .avsUpdate _ _ _ | .avsGood _ _ | .avsFault _ _ | .inhStep _ | .railTimeout _ _ | .railRetry _
    | .railFault _ _ | .thermalWarning _ | .thermalReset _ | .belowRetentionLimit _ | .powerOnReset _ | .rstNLow _
    | .hostWarmReset _ _ _ _ | .consistCommandedReset _ _ _ | .readyRise _ _ | .resetRelease _ _ _
    | .perBlockReset _ _ _ | .regRead _ | .regWrite _ | .leaseExpiry _ _ | .headRead _ _ | .ringEnable _ _ _ _ _
    | .descriptorComplete _ _ | .usbRegRead _ _ _ | .imgStart _ _ _ | .imgCommit _ _ | .imgAbort _ _ | .usbStatus _ _
    | .ep1Data _ _ | .usbBusReset _ | .arpRequest _ _ _ _ | .icmpEcho _ _ _ _ _ _ | .bypass _ _ | .idcode _
    | .clamp _ _ | .highz _ _ => true

end Sys2Proof
end

