-- ==== Sys2Proof/Safety.lean ====
section
/-! DEFINITION. The terms that claims use: what every state of a run keeps, and when a voter channel stands at an
instruction. -/

namespace Sys2Proof.Machine

open Sys2Proof

/-- The register store, the captures, the voter channels and the xSPI memory are in canonical form, and the logs and the
trace keep within their sizes (R376 to R378, R414). -/
def State.Stored (s : State) : Prop :=
  Tab.rising none s.regs = true ∧ Tab.rising none s.pairCap = true ∧ Tab.rising none s.pairLow = true ∧
    Tab.rising none s.tke.vc = true ∧ Tab.wf 0xFF s.cfg.xspi = true ∧ s.evt.vol.length ≤ 1024 ∧
    s.evt.unstored ≤ 256 ∧ s.gasp.length ≤ 64 ∧ s.trc.buf.length ≤ 16384

/-- What every state of a run keeps: its stores are in order, and the raw counter has not run ahead of the time since the
start (R74). -/
def State.Sound (s : State) : Prop := s.raw ≤ s.wall ∧ s.Stored

/-- Voter channel c runs a task, and the word w at its pc is a valid instruction with this OP (R62, R66). -/
abbrev State.runs (s : State) (c : Nat) (w : BitVec 64) (op : Nat) : Prop :=
  (s.chan c).phase = .running ∧ (s.chan c).pc < 65536 ∧ Tab.get 0 (s.chan c).code (s.chan c).pc = w ∧ opOf w = op ∧
    (s.chan c).valid w = true

/-- s after voter channel c wrote x to W[n], went to the next word and spent k cycles (R62, R66). -/
def State.vwrote (s : State) (c n : Nat) (x : BitVec 32) (k : Nat) : State :=
  s.setChan c ((((s.chan c).setReg n x).goTo ((s.chan c).pc + 1)).spend k)

end Sys2Proof.Machine
end

