-- ==== Sys2Proof/Certificates/Slice0/Obligations.lean ====
section
/-! DEFINITION. The statements of slice 0, for the provers. -/

open Sys2Proof Sys2Proof.Machine

/-- R62, R66, Table TCK-10, Table TCK-11: the logic, shift, compare and select instructions write W[RD], spend one cycle
and change nothing outside their voter channel. -/
def Obligations.VmLogic : Prop :=
  ∀ (vc : Fin 3) (w : BitVec 64) (s : State),
    (s.runs vc w 0x01 → exec (.mov vc) s = .next (s.vwrote vc (rdOf w) ((s.chan vc).b w) 1)) ∧
    (s.runs vc w 0x02 → exec (.add vc) s = .next (s.vwrote vc (rdOf w) ((s.chan vc).a w + (s.chan vc).b w) 1)) ∧
    (s.runs vc w 0x03 → exec (.sub vc) s = .next (s.vwrote vc (rdOf w) ((s.chan vc).a w - (s.chan vc).b w) 1)) ∧
    (s.runs vc w 0x04 → exec (.andOp vc) s = .next (s.vwrote vc (rdOf w) ((s.chan vc).a w &&& (s.chan vc).b w) 1)) ∧
    (s.runs vc w 0x05 → exec (.orOp vc) s = .next (s.vwrote vc (rdOf w) ((s.chan vc).a w ||| (s.chan vc).b w) 1)) ∧
    (s.runs vc w 0x06 → exec (.xorOp vc) s = .next (s.vwrote vc (rdOf w) ((s.chan vc).a w ^^^ (s.chan vc).b w) 1)) ∧
    (s.runs vc w 0x07 →
      exec (.shl vc) s = .next (s.vwrote vc (rdOf w) ((s.chan vc).a w <<< (((s.chan vc).b w).toNat % 32)) 1)) ∧
    (s.runs vc w 0x08 →
      exec (.shr vc) s = .next (s.vwrote vc (rdOf w) ((s.chan vc).a w >>> (((s.chan vc).b w).toNat % 32)) 1)) ∧
    (s.runs vc w 0x09 → exec (.cmp vc) s =
      .next (s.vwrote vc (rdOf w) (if condHolds (condOf w) ((s.chan vc).a w) ((s.chan vc).b w) then 1 else 0) 1)) ∧
    (s.runs vc w 0x0A → exec (.sel vc) s =
      .next (s.vwrote vc (rdOf w) (if (s.chan vc).reg (rcOf w) ≠ 0 then (s.chan vc).a w else (s.chan vc).b w) 1))

/-- R62, Table TCK-11: saturated addition, multiplication, and division with its corners, a divisor of 0 and -2^31 over
-1; cycles as the table gives them. -/
def Obligations.VmArith : Prop :=
  ∀ (vc : Fin 3) (w : BitVec 64) (s : State),
    (s.runs vc w 0x0B → exec (.satadd vc) s = .next (s.vwrote vc (rdOf w) (BitVec.ofInt 32
      (max (-2147483648) (min 2147483647 (((s.chan vc).a w).toInt + ((s.chan vc).b w).toInt)))) 1)) ∧
    (s.runs vc w 0x0C → exec (.mul vc) s = .next (s.vwrote vc (rdOf w) ((s.chan vc).a w * (s.chan vc).b w) 2)) ∧
    (s.runs vc w 0x0D → (s.chan vc).b w ≠ 0 → exec (.div vc) s = .next (s.vwrote vc (rdOf w) (BitVec.ofInt 32
      (Int.tdiv ((s.chan vc).a w).toInt ((s.chan vc).b w).toInt)) 18)) ∧
    (s.runs vc w 0x0D → (s.chan vc).b w = 0 → exec (.div vc) s = .next (s.vwrote vc (rdOf w) 0 18)) ∧
    (s.runs vc w 0x0D → (s.chan vc).a w = 0x80000000 → (s.chan vc).b w = 0xFFFFFFFF →
      exec (.div vc) s = .next (s.vwrote vc (rdOf w) 0x80000000 18)) ∧
    (s.runs vc w 0x0E → (s.chan vc).b w ≠ 0 → exec (.rem vc) s = .next (s.vwrote vc (rdOf w) (BitVec.ofInt 32
      (Int.tmod ((s.chan vc).a w).toInt ((s.chan vc).b w).toInt)) 18)) ∧
    (s.runs vc w 0x0E → (s.chan vc).b w = 0 → exec (.rem vc) s = .next (s.vwrote vc (rdOf w) ((s.chan vc).a w) 18)) ∧
    (s.runs vc w 0x0E → (s.chan vc).a w = 0x80000000 → (s.chan vc).b w = 0xFFFFFFFF →
      exec (.rem vc) s = .next (s.vwrote vc (rdOf w) 0 18)) ∧
    (s.runs vc w 0x19 → exec (.tsub vc) s = .next (s.vwrote vc (rdOf w) (BitVec.ofInt 32 (max (-2147483647)
      (min 2147483647 (((s.chan vc).treg (raOf w)).toInt - ((s.chan vc).treg (rbOf w)).toInt)))) 2)) ∧
    (s.runs vc w 0x1A → exec (.tcmp vc) s = .next (s.vwrote vc (rdOf w)
      (if condHolds (condOf w) ((s.chan vc).treg (raOf w)) ((s.chan vc).treg (rbOf w)) then 1 else 0) 2))

/-- R62, R63, R66, R72, R266, Table TCK-11: loads from the input section and from committed state; stores to the output
section and to pending state; a store to the input section is ignored and raises BAD_STORE; EMIT writes the first word of
an output-sentence slot. -/
def Obligations.VmMemory : Prop :=
  ∀ (vc : Fin 3) (w : BitVec 64) (s : State) (v : VChan) (a : Nat), v = s.chan vc → a = ((v.a w).toNat + imm32 w) % 2 ^ 32 →
    (s.runs vc w 0x10 → a < 0x20000 → exec (.ld vc) s = .next (s.vwrote vc (rdOf w) (Tab.get 0 v.image (a / 4)) 2)) ∧
    (s.runs vc w 0x10 → 0x30000 ≤ a →
      exec (.ld vc) s = .next (s.vwrote vc (rdOf w) (Tab.get 0 v.state ((a - 0x30000) / 4)) 2)) ∧
    (s.runs vc w 0x11 → 0x20000 ≤ a → a < 0x30000 → exec (.st vc) s = .next (s.setChan vc
      ((({ v with outw := Tab.set none v.outw ((a - 0x20000) / 4) (some (v.reg (rbOf w))) } : VChan).goTo (v.pc + 1)).spend 2))) ∧
    (s.runs vc w 0x11 → 0x30000 ≤ a → exec (.st vc) s = .next (s.setChan vc
      ((({ v with pend := Tab.set none v.pend ((a - 0x30000) / 4) (some (v.reg (rbOf w))) } : VChan).goTo (v.pc + 1)).spend 2))) ∧
    (s.runs vc w 0x11 → a < 0x20000 → exec (.st vc) s =
      .next ((s.setChan vc ((v.goTo (v.pc + 1)).spend 2)).raise Fd.TKE_FAULT_BAD_STORE)) ∧
    (s.runs vc w 0x18 → exec (.tld vc) s = .next (s.setChan vc (((v.setTreg (rdOf w) (BitVec.ofNat 64
      ((v.load a).toNat + (v.load (a + 4)).toNat * 2 ^ 32))).goTo (v.pc + 1)).spend 2))) ∧
    (∀ (k : Nat) (x : BitVec 32), s.runs vc w 0x28 → k = (0x400 + 128 * bits w.toNat 6 0) / 4 →
      x = BitVec.ofNat 32 ((v.a w).toNat % 65536 + 65536 * bits w.toNat 24 16) → exec (.emitOp vc) s =
        .next (s.setChan vc ((({ v with outw := Tab.set none v.outw k (some x) } : VChan).goTo (v.pc + 1)).spend 4)))

/-- R66, Table TCK-11: BRF goes IMM32 words on where IMM is 1 or W[RA] is not 0; LOOP with a count of 0 skips its body,
else its counter register is 0 and the body is entered; at the end of a body the innermost LOOP runs it again with its
counter one higher until the count is reached; END and an invalid instruction end the task, the latter with BAD_OP. -/
def Obligations.VmFlow : Prop :=
  ∀ (vc : Fin 3) (w : BitVec 64) (s : State) (v : VChan), v = s.chan vc →
    (s.runs vc w 0x20 → immOf w = true ∨ v.a w ≠ 0 →
      exec (.brf vc) s = .next (s.setChan vc ((v.goTo (v.pc + imm32 w)).spend 1))) ∧
    (s.runs vc w 0x20 → immOf w = false → v.a w = 0 →
      exec (.brf vc) s = .next (s.setChan vc ((v.goTo (v.pc + 1)).spend 1))) ∧
    (s.runs vc w 0x21 → bits w.toNat 15 0 = 0 →
      exec (.loopOp vc) s = .next (s.setChan vc ((v.goTo (v.pc + bits w.toNat 31 24 + 2)).spend 1))) ∧
    (s.runs vc w 0x21 → bits w.toNat 15 0 ≠ 0 → exec (.loopOp vc) s = .next (s.setChan vc (
      ({ v.setReg (rdOf w) 0 with
        pc := v.pc + 1
        loops := { first := v.pc + 1, last := v.pc + bits w.toNat 31 24 + 1, count := bits w.toNat 15 0, index := 0
                   reg := rdOf w } :: v.loops } : VChan).spend 1))) ∧
    (∀ (f : LoopFrame) (fs : List LoopFrame), v.loops = f :: fs → f.index + 1 < f.count →
      v.goTo (f.last + 1) = { v.setReg f.reg (BitVec.ofNat 32 (f.index + 1)) with
        pc := f.first, loops := { f with index := f.index + 1 } :: fs }) ∧
    (s.runs vc w 0x3F → exec (.endOp vc) s = .next ((s.setChan vc (v.spend 1)).endTask vc)) ∧
    (v.phase = .running → v.pc < 65536 → Tab.get 0 v.code v.pc = w → v.valid w = false →
      exec (.invalidInstruction vc) s = .next (((s.setChan vc (v.spend 1)).endTask vc).raise Fd.TKE_FAULT_BAD_OP)) ∧
    (v.phase = .running → 65536 ≤ v.pc →
      exec (.invalidInstruction vc) s = .next (((s.setChan vc (v.spend 1)).endTask vc).raise Fd.TKE_FAULT_BAD_OP))

/-- R43, R44, R46, R47, R48, R200: at a due instant the tick number rises by one, or is the one that a commit has set, and
the outputs of the tick that ends take effect before the inputs are frozen; before the first commit a period of P paces
the module; assembly closes with the image in all three channels; the staging of a tick closes, and the
HEALTH of a pair goes out at that moment. -/
def Obligations.TickClock : Prop :=
  ∀ (t : Nat) (s u : State), u = s.clock t →
    (∀ x : Int, u.tu.atInstant = false → u.sinceInstant = some x → (u.period : Int) ≤ x →
      exec (.tickInstant t) s = .next (({ u.strobeNow with tu := { u.strobeNow.tu with
        tick := (u.tu.tick + 1) % 2 ^ 64, atInstant := false } } : State).latchOutputs.newTick.freeze.restartRound.pairTick)) ∧
    (u.tu.atInstant = true →
      exec (.tickInstant t) s = .next (({ u.strobeNow with tu := { u.strobeNow.tu with
        tick := u.tu.tick, atInstant := false } } : State).latchOutputs.newTick.freeze.restartRound.pairTick)) ∧
    (u.tu.atInstant = false → u.tu.base = none → u.tu.strobe = none →
      exec (.tickInstant t) s = .next (u.strobeNow.newTick.restartRound.pairTick.healthTick)) ∧
    (u.tke.asmOpen = true → u.tickPast 1000 = true →
      ∃ v : State, exec (.imageAssemblyClose t) s = .next v ∧ v.tke.asmOpen = false ∧
        v.tke.vc = ([0, 1, 2].foldl (fun (x : State) c => x.setChan c { x.chan c with image := u.tke.asm.complete }) u).tke.vc ∧
        { v with tke := u.tke } = u) ∧
    (u.tickPast u.stagingNs = true → u.tke.staging = false → u.role ≠ 2 →
      exec (.stagingClose t) s = .next (({ u with tke := { u.tke with staging := true } } : State).healthTick)) ∧
    (u.tickPast u.stagingNs = true → u.tke.staging = false → u.role = 2 → u.asd.lastEnd ≠ some u.tu.tick →
      exec (.stagingClose t) s = .next (({ u.bumpF Fd.ASD_STAT_MISS with tke := { u.tke with staging := true } } : State).healthTick))

/-- R45, R64, R67, R68, R51, R213, R243, R245: the tasks of a tick start in every channel that takes part with 64 cycles
and 2 for each valid task that is skipped; a task beyond its WCET raises TASK_WCET and goes on; a channel short of END
at the deadline is stopped, and with fewer than two channels left the tick overruns and each stop counts as a dissent; OVR_LIMIT overruns in a row halt
the engine; a channel rejoins; a channel sits out for its self-test and resynchronises after it as after a dissent, and a standby, which runs no tasks, tests its
channels (R213); a missing strobe stops the engine and asserts ERR_N. -/
def Obligations.TaskEvents : Prop :=
  ∀ (t : Nat) (vc : Fin 3) (s u : State), u = s.clock t →
    (∀ (a : List Nat × Nat) (v : State), a = u.activeTasks → u.tickPast 2000 = true → u.tke.started = false →
      u.tkeMayRun = true → u.tke.resetTick = false →
      v = [0, 1, 2].foldl (fun (x : State) c => x.setChan c (if (x.chan c).out = .none then
        VChan.begin_ { x.chan c with tasks := a.1, phase := .running, cycles := 64 + 2 * a.2, outw := [], pend := [] }
          u.taskRow else x.chan c)) { u with tke := { u.tke with started := true } } →
      exec (.taskStart t) s = .next (match a.1 with | n :: _ => v.trace 1 n (u.tu.tick % 2 ^ 32) | [] => v)) ∧
    (∀ (n : Nat) (ns : List Nat), (u.chan vc).tasks = n :: ns → (u.chan vc).phase = .running →
      taskWcet (u.taskRow n) < (u.chan vc).taskCycles → (u.chan vc).wcetRaised = false →
      exec (.taskWcet t vc) s =
        .next ((u.setChan vc { u.chan vc with wcetRaised := true }).raise Fd.TKE_FAULT_TASK_WCET [] n)) ∧
    (∀ v : State, u.tickPast u.deadlineNs = true → u.tke.started = true → u.tke.deadline = false →
      u.tke.voteDone = false →
      v = [0, 1, 2].foldl (fun (x : State) c => x.setChan c (if (x.chan c).out = .none ∧ (x.chan c).phase = .running then
        { x.chan c with phase := .stopped, tasks := [] } else x.chan c)) { u with tke := { u.tke with deadline := true } } →
      (2 ≤ v.voters.length → exec (.taskDeadline t) s =
        .next (v.stoppedChans.foldl (fun (x : State) c => x.raise Fd.TKE_FAULT_VC_OVERRUN [] c 0 c) v)) ∧
      (v.voters.length < 2 → ∃ y : State, y = (v.stoppedChans.foldl (fun (x : State) c =>
          x.countDissent c (x.chan c).out (x.chan c).codeCopy) v.recordCycles.overrunTick).raise Fd.TKE_FAULT_OVERRUN ∧
        exec (.taskDeadline t) s = .next ((({ y with tke := { y.tke with consec := y.tke.consec + 1 } } : State).bumpF
          Fd.TKE_OVR_CNT_OVR).assertErr))) ∧
    (max 1 (u.f Fd.TKE_CFG_OVR_LIMIT) ≤ u.tke.consec → u.fb Fd.TKE_STAT_HALT = false →
      exec (.tickEngineHalt t) s =
        .next (((u.set0 Fd.TKE_STAT_HALT 1).raise Fd.TKE_FAULT_HALT_EVT).relinquish 1)) ∧
    (∀ d : Nat, (u.chan vc).out = .resync d → d + u.resyncTicks (u.chan vc) ≤ u.tu.tick → u.tke.started = false →
      exec (.vcRejoin t vc) s = .next (u.rejoin vc)) ∧
    (∀ d : Nat, (u.chan vc).out = .test d → exec (.vcRejoin t vc) s = .next u) ∧
    (∀ (d : Nat) (c : Nat), (s.chan c).out = .test d → d < s.tu.tick → s.afterTest c = s.setChan c { s.chan c with
      out := .resync d, codeCopy := (match s.majority with | some k => (s.chan c).code != (s.chan k).code | none => false) }) ∧
    (u.f Fd.ASD_VC_CFG_TEST_TICKS ≠ 0 → u.tu.tick % u.f Fd.ASD_VC_CFG_TEST_TICKS = 0 → u.tkeMayRun = true →
      u.tke.started = false → (∀ c ∈ [0, 1, 2], (u.chan c).out = .none) → u.role ≠ 2 →
      ∀ (ok : Bool) (v : State),
        v = u.setChan u.tke.testNext { u.chan u.tke.testNext with out := .test u.tu.tick, phase := .idle } →
        exec (.vcSelfTest ⟨t, ok⟩) s = .next { v with
          tke := { v.tke with testNext := (u.tke.testNext + 1) % 3 }, asd := { v.asd with testFail := !ok } }) ∧
    (∀ ok : Bool, u.role = 2 → exec (.vcSelfTest ⟨t, ok⟩) s = .next { u with asd := { u.asd with testFail := !ok } }) ∧
    (∀ (r : Nat) (v : State), u.tu.strobe = some r → u.tu.base.isSome = true → r + 2 * u.period ≤ u.raw →
      u.tke.lost = false →
      v = [0, 1, 2].foldl (fun (x : State) c => if (x.chan c).phase = .running then
        x.setChan c { x.chan c with phase := .stopped, tasks := [] } else x) { u with tke := { u.tke with lost := true } } →
      exec (.tickLost t) s = .next (((v.gaspEntry 0x070A 0 0).raise Fd.TKE_FAULT_TICK_LOST).assertErr))

/-- R24, R25, R38, R67, R73, R124, R162, R182, R243, R443: a word on which two channels agree takes that value and the
third dissents; the vote of a tick whose channels have ended; the command frames of a tick without a vote; an image
frame goes into FAB once, after the vote; the Tick Engine takes an image frame from its queue: a malformed one, one
that arrived outside its tick or after staging close, and one whose entries are staged. -/
def Obligations.TickData : Prop :=
  (∀ x y z : Option (BitVec 32), x ≠ y → x ≠ z → y ≠ z →
    voteWord [(0, x), (1, x), (2, x)] = { agreed := some x, dissent := [] } ∧
    voteWord [(0, y), (1, x), (2, x)] = { agreed := some x, dissent := [0] } ∧
    voteWord [(0, x), (1, y), (2, x)] = { agreed := some x, dissent := [1] } ∧
    voteWord [(0, x), (1, x), (2, y)] = { agreed := some x, dissent := [2] } ∧
    voteWord [(0, x), (1, y), (2, z)] = { agreed := none, dissent := [] }) ∧
  ∀ (t : Nat) (s u : State), u = s.clock t →
    (u.tke.started = true → u.tke.voteDone = false → 2 ≤ u.voters.length → u.tke.deadline = true →
      exec (.vote t) s = .next u.vote) ∧
    (u.tke.started = true → u.tke.voteDone = false → 2 ≤ u.voters.length →
      (∀ c ∈ [0, 1, 2], (u.chan c).out ≠ .none ∨ (u.chan c).phase = .ended) → exec (.vote t) s = .next u.vote) ∧
    (u.tke.started = false → u.tickPast u.voteNs = true → u.tke.framesOut = false →
      exec (.vote t) s = .next (({ u with tke := { u.tke with
        voteDone := true, framesOut := true } } : State).sendTickFrames.sendState [] [])) ∧
    (∀ (frame : Nat) (fr : ExportFrame), u.tke.voteDone = true → u.tke.overrun = false → u.tkeMayRun = true →
      u.fio.linkDown.contains 0 = false → frame ∉ u.tke.sent → (∃ e ∈ u.act.maps.exports, e.frame = frame) →
      fr = Tab.get { dest := 0, vid := 0, pcp := 0, port := 0 } u.act.maps.frames frame →
      exec (.exportSend t frame) s = .next (({ u with tke := { u.tke with sent := frame :: u.tke.sent } } : State).inject
        (imageFrameBytes fr (u.exportPayload frame)) .engine .express)) ∧
    (∀ (q : Fin 504) (ecc : Ecc) (d : Nat) (i : Item) (p : Bytes) (v w : State), u.takeHead (5632 + q.val) ecc = (v, some d) →
      i = v.item d → w = v.releaseCopy d →
      p = (if i.poison = [] then (i.bytes.take (i.bytes.length - 4)).drop (parseFrame i.bytes).body else []) →
      (imagePayload p = none → exec (.imageFrameReceived t q ecc) s =
        .next ((w.bump Reg.TKE_BAD_FRAME).raise Fd.TKE_FAULT_BAD_FRAME)) ∧
      (∀ es : List (Nat × Bytes), imagePayload p = some es →
        (beAt p 4 8 ≠ w.tu.tick ∨ (w.tu.base.isSome = true ∧
            (readNs i.stamp < w.instantNs ∨ w.instantNs + w.stagingNs < readNs i.stamp)) → ∀ y : State,
          y = w.bumpBy Reg.TKE_LATE_CNT [] es.length → exec (.imageFrameReceived t q ecc) s =
          .next { y with tke := { y.tke with lateTick := y.tke.lateTick + es.length } }) ∧
        (beAt p 4 8 = w.tu.tick → w.tu.base.isSome = true → w.instantNs ≤ readNs i.stamp →
          readNs i.stamp ≤ w.instantNs + w.stagingNs → exec (.imageFrameReceived t q ecc) s =
          .next (es.foldl (fun x e => x.importEntry (readNs i.stamp) i.stamp e) w)))) ∧
    (∀ (q : Fin 504) (ecc : Ecc) (v : State), u.takeHead (5632 + q.val) ecc = (v, none) →
      exec (.imageFrameReceived t q ecc) s = .next u)

/-- R76, R77, R87, R88, R92 to R95: TOD_CMD.SET steps to TOD while STATE is FREE and is refused otherwise; the servo's
change of the pair; PPS_IN at a master before and after the first commit; HOLDOVER after two Sync intervals; a ranked
backup becomes master; loss of the recovered clock; a missing PPS_IN edge. -/
def Obligations.TimeSteps : Prop :=
  ∀ (t : Nat) (s u : State), u = s.clock t →
    (∀ (p : Party) (v : State), v = u.hostWrite p →
      (v.f Fd.TU_STAT_STATE = 0 → exec (.todSet t p) s =
        .next (v.regate (fun x => x.timeStep ((v.rd64 Reg.TU_TOD_LO Reg.TU_TOD_HI).toNat * 2 ^ 32) v.raw))) ∧
      (v.f Fd.TU_STAT_STATE ≠ 0 → exec (.todSet t p) s = .next (v.logEvent 0x0580))) ∧
    (∀ (est d : Int) (eff iv : Nat), u.f Fd.TU_STAT_STATE = 1 ∨ u.f Fd.TU_STAT_STATE = 2 → u.tu.syncFresh = true →
      u.tu.lastChange = none ∨ (∃ l : Nat, u.tu.lastChange = some l ∧ l + 976000 ≤ eff) → u.raw + 1000 ≤ eff →
      u.tu.diff = some d → iv = u.f Fd.TU_CFG_SYNC_IV → exec (.servoPairChange t est eff) s =
        .next ((u.setRate (est + clipInt (-addMax) addMax (d * 2 ^ 16 * 2 ^ iv / 1000000000)) eff).set0 Fd.TU_STAT_STATE 2)) ∧
    (∀ (est : Int) (falling : Bool) (v : State) (q target edge : Nat), u.fb Fd.TU_CFG_PPS_IN_EN = true →
      u.fb Fd.TU_CFG_PPS_IN_FALL = falling → edge = u.raw - Config.ppsDelay → q = u.readingAt edge →
      target = nearestSecond q →
      v = { u.wr64 Reg.TU_PPS_IN_LO Reg.TU_PPS_IN_HI [] (BitVec.ofNat 64 (q / 2 ^ 32)) with
        tu := { u.tu with ppsInAt := some u.raw } } →
      (u.tu.committed = false → u.f Fd.TU_STAT_STATE = 4 ∨ u.fb Fd.TU_CFG_GM_CAP = true →
        exec (.ppsInEdge t falling est) s = .next ((v.regate (fun x => x.timeStep target edge)).set0 Fd.TU_STAT_PPS_LOCK 1)) ∧
      (u.tu.committed = true → u.f Fd.TU_STAT_STATE = 4 →
        (u.tu.lastChange = none ∨ (∃ l : Nat, u.tu.lastChange = some l ∧ l + 976000 ≤ u.raw + 1000) →
          exec (.ppsInEdge t falling est) s = .next ((v.setRate (est + clipInt (-addMax) addMax
            (((target : Int) - q) * 2 ^ 16 / 1000000000)) (u.raw + 1000)).set0 Fd.TU_STAT_PPS_LOCK 1)) ∧
        (∀ l : Nat, u.tu.lastChange = some l → u.raw + 1000 < l + 976000 → exec (.ppsInEdge t falling est) s = .next v)) ∧
      (u.tu.committed = true → u.f Fd.TU_STAT_STATE ≠ 4 → exec (.ppsInEdge t falling est) s = .next v)) ∧
    (u.f Fd.TU_STAT_STATE = 1 ∨ u.f Fd.TU_STAT_STATE = 2 →
      2 * 1000000000 ≤ (u.raw - u.tu.syncRef) * 2 ^ u.f Fd.TU_CFG_SYNC_IV →
      exec (.holdover t) s = .next ((u.set0 Fd.TU_STAT_STATE 3).raise Fd.TU_EVT_HOLDOVER)) ∧
    (∀ r : Nat, r = u.f Fd.TU_STAT_RANK → r ≠ 0 → u.f Fd.TU_STAT_STATE ≠ 4 →
      (2 + r) * 1000000000 ≤ (u.raw - u.tu.syncRef) * 2 ^ u.f Fd.TU_CFG_SYNC_IV →
      exec (.masterChg t) s = .next u.becomeMaster) ∧
    (∀ (n : Nat) (v : State), u.tu.yPort = some n →
      v = (((u.sf Fd.TU_PORTn_STAT_RCLK_OK [n] 0).sf Fd.TU_PORTn_STAT_YSRC [n] 0).set0 Fd.TU_STAT_SYNTONISED 0).raise
        Fd.TU_EVT_SYNTON_LOSS [] n →
      exec (.syntonLoss t) s = .next { v with tu := { v.tu with yPort := none, ySource := v.yChoose (some n) } }) ∧
    (∀ a : Nat, u.tu.ppsInAt = some a → u.fb Fd.TU_CFG_PPS_IN_EN = true → a + 1100000000 ≤ u.raw →
      exec (.ppsMiss t) s =
        .next ((({ u with tu := { u.tu with ppsInAt := none } } : State).set0 Fd.TU_STAT_PPS_LOCK 0).raise Fd.TU_EVT_PPS_MISS))

/-- R75, R78, R96, R97: a read of TU_NOW_FRAC, TU_OFS_FRAC or TU_RATE_LO captures the other words for its party and
returns its own; PPS_OUT and TICK_OUT rise when their edges are due, and fall after their widths. -/
def Obligations.TimeReads : Prop :=
  ∀ (t : Nat) (s u : State), u = s.clock t →
    (∀ (p : Party) (q : Nat), q = u.readingAt u.raw → exec (.tuNowCapture t p) s = .next
      (((((u.capture p Reg.TU_NOW_LO.base (wordAt q 1)).capture p Reg.TU_NOW_HI.base (wordAt q 2)).capture p
        Reg.TU_RAW_LO.base (wordAt u.raw 0)).capture p Reg.TU_RAW_HI.base (wordAt u.raw 1)).emit
          (.read p Reg.TU_NOW_FRAC.base (wordAt q 0)))) ∧
    (∀ (p : Party) (o : Nat), o = (pairAt u.tu.pairs u.raw).ofs.toNat → exec (.tuOfsCapture t p) s = .next
      (((u.capture p Reg.TU_OFS_LO.base (wordAt o 1)).capture p Reg.TU_OFS_HI.base (wordAt o 2)).emit
        (.read p Reg.TU_OFS_FRAC.base (wordAt o 0)))) ∧
    (∀ (p : Party) (r : Int), r = (pairAt u.tu.pairs u.raw).rate.toInt → exec (.tuRateCapture t p) s = .next
      ((u.capture p Reg.TU_RATE_HI.base (BitVec.ofInt 32 (r / 2 ^ 32))).emit
        (.read p Reg.TU_RATE_LO.base (BitVec.ofInt 32 r)))) ∧
    (∀ x sec : Int, x = (u.nowNs : Int) + sext 16 (u.f Fd.TU_PPS_OUT_ADJ) → sec = x / 1000000000 →
      (u.tu.ppsFall = none → x % 1000000000 ≤ 1 → u.fb Fd.TU_PPS_OUT_EN = true → u.f Fd.TU_STAT_STATE ≠ 0 →
        u.tu.ppsOut ≠ some sec → exec (.ppsOutEdge t) s = .next { u with
          tu := { u.tu with ppsOut := some sec, ppsFall := some (u.raw + u.f Fd.TU_PPS_OUT_WIDTH * 1000000) }
          out := .pin "PPS_OUT" true u.raw :: u.out }) ∧
      (∀ f : Nat, u.tu.ppsFall = some f → f ≤ u.raw ∨ u.fb Fd.TU_PPS_OUT_EN = false ∨ u.f Fd.TU_STAT_STATE = 0 →
        1 < x % 1000000000 → exec (.ppsOutEdge t) s = .next { u with
          tu := { u.tu with ppsFall := none }, out := .pin "PPS_OUT" false u.raw :: u.out })) ∧
    (∀ (b : BitVec 64) (x n : Int), u.tu.base = some b →
      x = (u.nowNs : Int) + sext 16 (u.f Fd.TU_TICK_OUT_ADJ) - b.toNat → n = x / (u.period : Int) →
      (u.tu.tickFall = none → x % (u.period : Int) ≤ 1 → u.fb Fd.TU_TICK_OUT_EN = true →
        n % 2 ^ u.f Fd.TU_TICK_OUT_DIV = 0 → u.tu.tickOut ≠ some n → exec (.tickOutEdge t) s = .next { u with
          tu := { u.tu with tickOut := some n, tickFall := some (u.raw + u.tickOutWidth) }
          out := .pin "TICK_OUT" true u.raw :: u.out }) ∧
      (∀ f : Nat, u.tu.tickFall = some f → f ≤ u.raw ∨ u.fb Fd.TU_TICK_OUT_EN = false → 1 < x % (u.period : Int) →
        exec (.tickOutEdge t) s = .next { u with
          tu := { u.tu with tickFall := none }, out := .pin "TICK_OUT" false u.raw :: u.out }))

/-- R83 to R86, R90 to R94: a Sync of the domain from a clock that the node takes; a master sends Sync on its time-aware
ports; a peer delay request every interval, with ASCAPABLE cleared where the last one stayed unanswered; a request is
answered over the transport that it came by, and a response measured; a transparent clock writes the residence time, and where the mechanism is
peer-to-peer the ingress link delay, into the event message in transmission, and counts one that it cannot correct. The message layouts are the model's (log entry 126). -/
def Obligations.TimePorts : Prop :=
  ∀ (t : Nat) (s u : State), u = s.clock t →
    (∀ (port : Fin 257) (ingress : Nat) (m : SyncMsg) (v : State),
      v = u.ctlRead 1 port.val (fun f => ptpTypeOf f == 0) → v.ctlCut port.val = false → v.f Fd.TU_PORTn_CFG_ROLE [port.val] = 1 →
      m.domain.toNat = v.f Fd.TU_CFG_DOMAIN →
      (v.takesSync m = true →
        exec (.syncReceived t port ingress m) s = .next (v.sync port.val (v.rxStamp port.val ingress) m)) ∧
      (v.takesSync m = false → exec (.syncReceived t port ingress m) s = .next v)) ∧
    (∀ m : SyncMsg, u.f Fd.TU_STAT_STATE = 4 → u.tu.syncSent = none →
      m = { domain := BitVec.ofNat 8 (u.f Fd.TU_CFG_DOMAIN), master := Config.eui64, origin := BitVec.ofNat 64 u.nowNs
            corr := ((u.readingAt u.raw % 2 ^ 32 / 2 ^ 16 : Nat) : Int), twoStep := false
            suffix := if u.tu.base.isSome then tickRefBytes u.ownTickRef else [] } →
      exec (.syncSend t) s = .next (((List.range 257).filter (fun n => u.f Fd.TU_PORTn_CFG_ROLE [n] == 1)).foldl
        (fun w n => w.sendSync n (w.readingAt w.raw) m) { u with tu := { u.tu with syncSent := some u.raw } })) ∧
    (∀ (port : Fin 257) (v w : State), u.f Fd.TU_PORTn_CFG_ROLE [port.val] ≠ 0 →
      (Tab.get {} u.tu.pdelay port.val).lastSent = none →
      v = (if (Tab.get {} u.tu.pdelay port.val).answered then u else u.sf Fd.TU_PORTn_STAT_ASCAPABLE [port.val] 0) →
      w = { v with
          tu := { v.tu with pdelay := Tab.set {} v.tu.pdelay port.val { lastSent := some u.raw, answered := false } } } →
      exec (.pdelayRequest t port) s = .next ((w.ptpSeq port.val 2).2.ptpSend port.val
        (ptpHeader 2 54 (u.f Fd.TU_CFG_DOMAIN) 0 port.val (w.ptpSeq port.val 2).1 0 Config.eui64
          ++ List.replicate 20 0))) ∧
    (∀ (port : Fin 257) (rx : Nat) (source : BitVec 80) (seq : BitVec 16) (v : State) (like : Bytes),
      u.f Fd.TU_PORTn_CFG_ROLE [port.val] ≠ 0 → u.ctlCut port.val = false →
      like = (u.ctlFind 1 port.val (fun f => ptpTypeOf f == 2)).getD [] →
      v = u.ctlRead 1 port.val (fun f => ptpTypeOf f == 2) →
      exec (.pdelayMessageReceived t port (.request rx source seq)) s = .next (v.sendControl port.val 7 true
        (ptpOver port.val like 319 (v.pdelayResp port.val (v.rxStamp port.val rx) source seq)))) ∧
    (∀ (port : Fin 257) (tx prx ptx rx : Nat) (ratio turn : Int) (v w : State) (pd : PdelayPort),
      u.f Fd.TU_PORTn_CFG_ROLE [port.val] ≠ 0 → u.ctlCut port.val = false →
      v = u.ctlRead 1 port.val (fun f => ptpTypeOf f == 3) →
      turn = (v.rxStamp port.val rx : Int) - v.txStamp port.val tx →
      pd = { Tab.get {} v.tu.pdelay port.val with answered := true } →
      w = ({ v with tu := { v.tu with pdelay := Tab.set {} v.tu.pdelay port.val pd } } : State).sf Fd.TU_PORTn_DELAY_DELAY [port.val]
            (wrapInt 24 ((turn + turn * ratio / 2 ^ 41 - ((ptx : Int) - prx)) / 2)) →
      exec (.pdelayMessageReceived t port (.response tx prx ptx rx ratio)) s =
        .next (if v.f Fd.TU_PORTn_CFG_ROLE [port.val] = 1 then w.sf Fd.TU_PORTn_STAT_ASCAPABLE [port.val] 1 else w)) ∧
    (∀ (p o : Fin 256) (ingress egress : Nat) (p2p : Bool) (transport : PtpTransport) (corr : BitVec 64) (x : TxFrame)
      (delta : Int), (u.egress o.val).tx = some x → u.f Fd.TU_PORTn_CFG_ROLE [p.val] = 2 →
      x.isMessage p.val ingress transport corr = true →
      delta = u.residence ingress (u.txStamp o.val egress) + (if p2p then u.linkDelay p.val else 0) →
      (∀ f, correctPtp (parseFrame x.bytes) x.bytes delta = some f →
        exec (.ptpEventForward t p o ingress egress p2p transport corr) s = .next (u.setEgress o.val
          { u.egress o.val with tx := some { x with bytes := f, corrected := true } })) ∧
      (correctPtp (parseFrame x.bytes) x.bytes delta = none →
        exec (.ptpEventForward t p o ingress egress p2p transport corr) s = .next (((u.setEgress o.val
          { u.egress o.val with tx := some { x with corrected := true } }).wrapW Reg.TU_TC_UNCORR).raise
            Fd.TU_EVT_TC_UNCORR)))

/-- R102, R105, R106, R109, R119, Table PRT-3: the way of a port from CAL to UP, with its timeouts. The end of a group's
calibration stores the latencies of its lanes and takes its ports to WAIT_SIGNAL, or to FAULT with CAL_FAIL and ERR_N; signal
leads to TRAIN or LOCK where the port's module allows it; training, locks and the hold lead on to UP, and each timeout
or break back to WAIT_SIGNAL. -/
def Obligations.PortBringUp : Prop :=
  ∀ (t : Nat) (port : PortRef) (s u : State) (n : Nat), u = s.clock t → n = port.val →
    (u.pst n = 2 → u.moduleOk n = true → exec (.signalDetected t port) s =
      .next ((u.laneFlag n Fd.PGn_Ll_STAT_SIGNAL Fd.ASD_Gg_LSTAT_SIGNAL 1).setPst n (if u.trainEn n then 3 else 4))) ∧
    (u.pst n = 3 → exec (.trainingDone t port) s = .next (u.setPst n 4)) ∧
    (u.pst n = 3 → Tab.get 0 u.prt.since n + 500000000 ≤ u.raw →
      exec (.trainTimeout t port) s = .next ((u.setPst n 2).portCount n 14)) ∧
    (u.pst n = 4 → exec (.lockAchieved t port) s = .next (((u.setLocks n 1).setRclk n 1).setPst n 5)) ∧
    (u.pst n = 4 → Tab.get 0 u.prt.since n + 10000000 ≤ u.raw →
      exec (.lockTimeout t port) s = .next ((u.setPst n 2).portCount n 13)) ∧
    (∀ v : State, u.pst n = 5 → Tab.get 0 u.prt.since n + u.upHoldNs n ≤ u.raw →
      v = (u.setPst n 6).laneFlag n Fd.PGn_Ll_STAT_ADAPT Fd.ASD_Gg_LSTAT_ADAPT 1 →
      (n < 256 → exec (.holdExpiry t port) s = .next ((v.sf Fd.PGn_STAT_UP [n / 8]
        (setBits (v.f Fd.PGn_STAT_UP [n / 8]) (n % 8) (n % 8) 1)).raise Fd.PGn_EVT_PORT_UP [n / 8] (n % 8))) ∧
      (256 ≤ n → u.fb Fd.ASD_Gg_PSTAT_RF [n - 256] = true ∨ u.raw < Tab.get 0 u.prt.rfEnd n →
        exec (.holdExpiry t port) s = .next v) ∧
      (256 ≤ n → u.fb Fd.ASD_Gg_PSTAT_RF [n - 256] = false → Tab.get 0 u.prt.rfEnd n ≤ u.raw →
        exec (.holdExpiry t port) s = .next (v.gableUp (n - 256) 1))) ∧
    (u.pst n = 5 → exec (.holdBreak t port) s = .next (((u.setLocks n 0).setRclk n 0).setPst n 2)) ∧
    (∀ (g : Fin 33) (lat : List (Nat × Nat)) (ps : List Nat) (v w : State),
      ps = (u.groupPorts g.val).filter (fun m => u.pst m == 1) → ps ≠ [] →
      v = ({ u with prt := { u.prt with cal := g.val :: u.prt.cal } } : State).storeLat g.val lat →
      w = ps.foldl (fun x m => x.setPst m 8) { u with prt := { u.prt with faulted := mergeKeys ps u.prt.faulted } } →
      exec (.portGroupCalibrationDone t g (some lat)) s = .next (ps.foldl (fun x m => (x.setPst m 2).laneFlag m
        Fd.PGn_Ll_STAT_CAL_OK Fd.ASD_Gg_LSTAT_CAL_OK 1) (if g.val < 32 then v.sf Fd.PGn_STAT_CAL_OK [g.val] 1 else v)) ∧
      exec (.portGroupCalibrationDone t g none) s =
        .next (if g.val < 32 then w.raise Fd.PGn_EVT_CAL_FAIL [g.val] else w).assertErr)

/-- R107, R109, R110, R112, R113, R118, R119, R192: loss of a port, remote faults, degradation, codewords, the end of a
burst, modules, and a side that HELLO has left. -/
def Obligations.PortEvents : Prop :=
  ∀ (t : Nat) (s u : State), u = s.clock t →
    (∀ (port : PortRef) (n : Nat) (lf : Bool), n = port.val →
      (u.pst n = 6 ∨ u.pst n = 7 → n < 256 → exec (.portDown t port lf) s =
        .next (((u.setLocks n 0).sf Fd.PGn_Pp_STAT_LF [n / 8, n % 8] (b2n lf)).portLost n 2)) ∧
      (u.pst n = 6 ∨ u.pst n = 7 → 256 ≤ n → exec (.portDown t port lf) s =
        .next (((u.setLocks n 0).sf Fd.ASD_Gg_PSTAT_LF [n - 256] (b2n lf)).portLost n 2)) ∧
      (∀ v : State, u.pst n = 5 ∨ u.pst n = 6 ∨ u.pst n = 7 → 256 ≤ n → v = u.sf Fd.ASD_Gg_PSTAT_RF [n - 256] 1 →
        exec (.remoteFaultStart t port) s = .next ((v.gableUp (n - 256) 0).gableLost.abortTx n)) ∧
      (∀ v : State, u.pst n = 5 ∨ u.pst n = 6 ∨ u.pst n = 7 → n < 256 → v = (u.sf Fd.PGn_Pp_STAT_RF [n / 8, n % 8] 1).abortTx n → exec (.remoteFaultStart t port) s =
        .next (match v.sideOf n with | some k => v.sideLost k | none => v))) ∧
    (∀ (port : PortRef) (n : Nat) (x : Fld) (ix : List Nat) (v : State), n = port.val →
      x = (if n < 256 then Fd.PGn_Pp_STAT_RF else Fd.ASD_Gg_PSTAT_RF) → ix = (if n < 256 then [n / 8, n % 8] else [n - 256]) →
      u.fb x ix = true → v = u.sf x ix 0 → exec (.remoteFaultEnd t port) s = .next
        { v with prt := { v.prt with rfEnd := Tab.set 0 v.prt.rfEnd n (u.raw + u.upHoldNs n) } }) ∧
    (∀ (port : Fin 256) (n sym thr good : Nat) (v : State), n = port.val → sym = Tab.get 0 u.prt.winSym n →
      thr = u.f Fd.PGn_Pp_SD_SD_THR [n / 8, n % 8] → good = (if 2 * sym < thr then Tab.get 0 u.prt.good n + 1 else 0) →
      Tab.get 0 u.prt.winEnd n < u.nowNs / 1000000 →
      v = { u with prt := { u.prt with winEnd := Tab.set 0 u.prt.winEnd n (u.nowNs / 1000000)
                                       winSym := Tab.set 0 u.prt.winSym n 0, good := Tab.set 0 u.prt.good n good } } →
      (thr = 0 → exec (.sdWindowEnd t port) s = .next v) ∧
      (thr ≠ 0 → u.pst n = 6 → thr < sym →
        exec (.sdWindowEnd t port) s = .next ((v.setPst n 7).raise Fd.PGn_EVT_DEGRADE [n / 8] (n % 8))) ∧
      (thr ≠ 0 → u.pst n = 7 → 8 ≤ good →
        exec (.sdWindowEnd t port) s = .next ((v.setPst n 6).raise Fd.PGn_EVT_DEGRADE [n / 8] (n % 8)))) ∧
    (∀ (lane : PortRef) (l n c k : Nat) (unc : Bool), l = lane.val → u.portOfLane l = some n → k = (if unc then 0 else c) →
      (u.noFec n = true → exec (.codewordReceived t lane c unc) s = .next (if unc then u.portCount n 12 else u)) ∧
      (∀ v w x : State, u.noFec n = false → v = u.countCodeword l n k unc →
        w = (match v.rx (rxKey n) with
          | some r => if unc then v.setRx (rxKey n) (some { r with bad := true }) else v
          | none => v) →
        x = (if l < 256 ∧ (unc = true ∨ u.f Fd.PGn_BURST_CFG_SYM_THR [l / 8] ≤ k) then w.heavy (l / 8) else w) →
        (Tab.get 0 x.prt.unc l < 8 → exec (.codewordReceived t lane c unc) s = .next x) ∧
        (8 ≤ Tab.get 0 x.prt.unc l → x.pst n = 6 ∨ x.pst n = 7 → exec (.codewordReceived t lane c unc) s =
          .next (({ x with prt := { x.prt with unc := Tab.set 0 x.prt.unc l 0 } } : State).portLost n 2)))) ∧
    (∀ (group : Fin 32) (b : Burst) (start : Nat), b = Tab.get {} u.prt.burst group.val → u.fb Fd.PGn_STAT_BURST [group.val] = true →
      b.lastRaw + 1000 * u.f Fd.PGn_BURST_CFG_QUIET [group.val] ≤ u.raw →
      start = (u.rd64 Reg.PGn_BURST_START_LO Reg.PGn_BURST_START_HI [group.val]).toNat → exec (.burstEnd t group) s =
        .next ((((u.sf Fd.PGn_STAT_BURST [group.val] 0).wr64 Reg.PGn_BURST_END_LO Reg.PGn_BURST_END_HI [group.val]
          (BitVec.ofNat 64 b.last)).bump Reg.PGn_BURST_CNT [group.val]).raise Fd.PGn_EVT_BURST_END [group.val]
          (min 0xFFFF (b.last - start)) start)) ∧
    (∀ (p : Party) (group : Fin 32) (lane : Fin 8) (v : BitVec 32) (n : Nat) (w : State), w = u.hostWrite p →
      w.fb Fd.PGn_Ll_TEST_CHK_EN [group.val, lane.val] = false →
      w.portOfLane (8 * group.val + lane.val) = some n → v.toNat % 32 ≠ 0 → w.pst n ≠ 0 →
      exec (.laneTestWrite t p group lane v) s = .next (((w.wr Reg.PGn_Ll_TEST [group.val, lane.val]
        (v &&& 0x3F#32)).portLost n 0).raise Fd.PGn_EVT_LANE_TEST [group.val] lane.val)) ∧
    (∀ (group : Fin 32) (slot : Fin 8) (g m : Nat) (apps : List ModuleApp), g = group.val → m = slot.val →
      (u.moduleSlots g m = [] → exec (.moduleFound t group slot apps) s = .next u) ∧
      (∀ (v : State) (put : Nat → Nat → State → Nat × Nat → State), u.moduleSlots g m ≠ [] →
        v = (({ u with prt := { u.prt with apps := Tab.set [] u.prt.apps (u.moduleKey g m) apps } } : State).cmis g m appReads) →
        put = (fun (ms app : Nat) (x : State) (y : Nat × Nat) => ((x.sf Fd.PGn_OPTm_STAT_PRESENT [y.1, y.2] 1).sf
          Fd.PGn_OPTm_STAT_APPSEL [y.1, y.2] app).sf Fd.PGn_OPTm_STAT_MODSTATE [y.1, y.2] ms) →
        (∀ a : ModuleApp, v.appFor g m apps = some a → exec (.moduleFound t group slot apps) s =
          .next (((v.moduleSlots g m).foldl (put 2 a.code.toNat) v).cmis g m (appWrites a.code))) ∧
        (v.appFor g m apps = none → exec (.moduleFound t group slot apps) s =
          .next (((v.moduleSlots g m).foldl (put 1 0) v).raise Fd.PGn_EVT_OPT_NO_APP [g] m)))) ∧
    (∀ (group : Fin 32) (slot : Fin 8) (g m k : Nat) (ms : BitVec 3) (dps : List (BitVec 4)) (temp : BitVec 8)
      (slots : List (Nat × Nat)) (v : State), g = group.val → m = slot.val → k = u.moduleKey g m → slots = u.moduleSlots g m →
      u.fb Fd.PGn_OPTm_STAT_PRESENT [g, m] = true → Tab.get 0 u.prt.polled k + 50000000 ≤ u.raw →
      v = (((List.range slots.length).zip slots).foldl (fun x y => ((x.sf Fd.PGn_OPTm_STAT_DPSTATE [y.2.1, y.2.2]
          (dps.getD y.1 0).toNat).sf Fd.PGn_OPTm_STAT_TEMP [y.2.1, y.2.2] temp.toNat).sf
            Fd.PGn_OPTm_STAT_MODSTATE [y.2.1, y.2.2] ms.toNat)
        ({ u with prt := { u.prt with polled := Tab.set 0 u.prt.polled k u.raw } } : State)).cmis g m pollReads →
      exec (.modulePoll t group slot false ⟨ms, dps⟩ temp) s = .next v ∧
      exec (.modulePoll t group slot true ⟨ms, dps⟩ temp) s = .next (v.raise Fd.PGn_EVT_OPT_FLAG [g] m)) ∧
    (∀ (group : Fin 32) (slot : Fin 8) (slots : List (Nat × Nat)), slots = u.moduleSlots group.val slot.val →
      exec (.moduleRemoved t group slot) s = .next
        ((mergeKeys (slots.filterMap (fun x => u.portOfLane (8 * x.1 + x.2))) []).foldl
          (fun x n => if x.pst n = 6 ∨ x.pst n = 7 then x.portLost n 2 else x)
            (slots.foldl (fun x y => x.wr Reg.PGn_OPTm_STAT [y.1, y.2] 0) ({ u with prt := { u.prt with
              apps := Tab.set [] u.prt.apps (u.moduleKey group.val slot.val) [] } } : State)))) ∧
    (∀ side : Fin 8, u.sideUp side.val = true → Tab.get 0 u.cst.hello side.val + u.f Fd.CST_CFG_HELLO_MISS ≤ u.tickCount →
      exec (.helloLost t side) s = .next ((u.sideLost side.val).raise Fd.CST_EVT_HELLO_LOST [] side.val))

/-- R170, R171, R183 to R185: drop-remainder on a queue; a queue whose head stays becomes stale; the scrub of a word; the
rotation of the spare bank, the end of its copy and of its test; a bank that is to be retired. -/
def Obligations.Storage : Prop :=
  ∀ (t : Nat) (s u : State), u = s.clock t →
    (∀ (q : Fin 8192) (n : Nat) (v : State), q.val ≤ 6143 → u.qAssured q.val = false → u.dropRemainder q.val = (v, n) →
      (u.f Fd.LDR_Qq_CFG_CLASS [q.val] = 0 → exec (.dropRemainder t q) s = .next
        ((((v.set0 Fd.LDR_QCMD_STAT_DROPPED (min 0xFFFF n)).bumpBy Reg.LDR_STD_DROP_CNT [] n).set0
          Fd.LDR_QCMD_STAT_STATE 2).set0 Fd.LDR_QCMD_STAT_CODE 0)) ∧
      (u.f Fd.LDR_Qq_CFG_CLASS [q.val] ≠ 0 → exec (.dropRemainder t q) s = .next
        (((v.set0 Fd.LDR_QCMD_STAT_DROPPED (min 0xFFFF n)).set0 Fd.LDR_QCMD_STAT_STATE 2).set0 Fd.LDR_QCMD_STAT_CODE 0))) ∧
    (∀ q : Fin 8192, 6143 < q.val → exec (.dropRemainder t q) s =
      .next ((u.set0 Fd.LDR_QCMD_STAT_STATE 3).set0 Fd.LDR_QCMD_STAT_CODE 2)) ∧
    (∀ q : Fin 8192, q.val ≤ 6143 → u.qAssured q.val = true → exec (.dropRemainder t q) s =
        .next ((u.set0 Fd.LDR_QCMD_STAT_STATE 3).set0 Fd.LDR_QCMD_STAT_CODE 1)) ∧
    (∀ (queue : Fin 6144) (q : Nat) (v : State), q = queue.val → u.f Fd.LDR_Qq_CFG_STALE_TICKS [q] ≠ 0 →
      (u.queue q).entries ≠ [] → u.fb Fd.LDR_Qq_STAT_STALE [q] = false →
      (u.queue q).headTick + u.f Fd.LDR_Qq_CFG_STALE_TICKS [q] ≤ u.strobes →
      v = (u.sf Fd.LDR_Qq_STAT_STALE [q] 1).raise Fd.LDR_EVT_STALE [] q →
      (u.qAssured q = true → exec (.queueStale t queue) s = .next v) ∧
      (u.qAssured q = false → exec (.queueStale t queue) s = .next (v.dropCounted q))) ∧
    (∀ (e : Ecc) (pass : Nat) (v : State), pass = u.f Fd.LDR_CFG_SCRUB_S * 1000000000 → pass ≠ 0 →
      u.fb Fd.POR_STAT_HOLDUP = false → u.ldr.scrubAt + pass * u.ldr.scrub / 1048576 ≤ u.raw →
      v = (match e with | .good => u | .single => u.sec | .double _ => u.dedWord (u.ldr.scrub / 2) (u.ldr.scrub % 2)) →
      (u.ldr.scrub + 1 < 1048576 → exec (.scrubWord t e) s =
        .next { v with ldr := { v.ldr with scrub := u.ldr.scrub + 1, scrubAt := u.ldr.scrubAt } }) ∧
      (u.ldr.scrub + 1 = 1048576 → exec (.scrubWord t e) s =
        .next (({ v with ldr := { v.ldr with scrub := 0, scrubAt := max (u.ldr.scrubAt + pass) u.raw } } :
          State).wrapW Reg.LDR_SCRUB_CNT))) ∧
    (∀ ms : Nat, ms = u.f Fd.LDR_CFG_ROT_MS → ms ≠ 0 → u.ldr.rot = .idle → u.fb Fd.LDR_STAT_SPARE_LOST = false →
      u.ldr.lastRot + ms * 1000000 ≤ u.raw → u.fb Fd.POR_STAT_HOLDUP = false →
      exec (.spareRotation t) s = .next ((({ u with ldr := { u.ldr with
        lastRot := u.raw, nextBank := (u.ldr.nextBank + 1) % 32, rot := .copying u.ldr.nextBank u.raw false } } : State).set0
          Fd.LDR_STAT_ROT 1).set0 Fd.LDR_STAT_ROT_BANK u.ldr.nextBank)) ∧
    (∀ (b since spare old : Nat) (m : Tab (Option Nat)), u.ldr.rot = .copying b since false → spare = u.f Fd.LDR_STAT_SPARE →
      old = u.physBank b → m = Tab.set none u.ldr.bankMap b (some spare) →
      exec (.spareCopyDone t) s = .next (((({ u with ldr := { u.ldr with bankMap := m, rot := .testing old } } : State).set0
        Fd.LDR_STAT_ROT 2).set0 Fd.LDR_STAT_SPARE old).wrapW Reg.LDR_ROT_CNT)) ∧
    (∀ (b since spare old : Nat) (m : Tab (Option Nat)), u.ldr.rot = .copying b since true → spare = u.f Fd.LDR_STAT_SPARE →
      old = u.physBank b → m = Tab.set none u.ldr.bankMap b (some spare) →
      exec (.spareCopyDone t) s = .next ((((({ u with ldr := { u.ldr with
        bankMap := m, failed := old :: u.ldr.failed, rot := .idle } } : State).set0 Fd.LDR_STAT_ROT 3).set0
          Fd.LDR_STAT_SPARE_LOST 1).set0 Fd.LDR_STAT_SPARE old).raise Fd.LDR_EVT_BANK_RETIRED [] old)) ∧
    (∀ p : Nat, u.ldr.rot = .testing p →
      exec (.spareTestDone t true) s =
        .next (({ u with ldr := { u.ldr with rot := .idle } } : State).set0 Fd.LDR_STAT_ROT 0) ∧
      exec (.spareTestDone t false) s = .next (((({ u with ldr := { u.ldr with
        rot := .idle, failed := p :: u.ldr.failed } } : State).set0 Fd.LDR_STAT_ROT 3).set0
          Fd.LDR_STAT_SPARE_LOST 1).raise Fd.LDR_EVT_ROT_FAIL [] p)) ∧
    (∀ (bank : Fin 32) (n : Nat), n = u.f Fd.LDR_CFG_DED_RETIRE → n ≠ 0 → n ≤ u.dedBank (u.physBank bank.val) →
      (u.fb Fd.LDR_STAT_SPARE_LOST = true → exec (.bankRetired t bank) s = .next { u with errN := true }) ∧
      (u.fb Fd.LDR_STAT_SPARE_LOST = false → u.ldr.rot = .idle →
        exec (.bankRetired t bank) s = .next (u.startCopy bank.val true)))

/-- R52, R53, R55, R57, R59, R151, R178, R293: a window opens and closes; the commit of a staged entry while OPEN is 1;
the self-test of the inactive copy. -/
def Obligations.GatesWindows : Prop :=
  ∀ (t : Nat) (s u : State), u = s.clock t →
    (∀ (seg : Fin 288) (entry : Fin 65536) (v : State) (w : Win), v = u.windowTick → v.windowOf seg.val entry.val = some w →
      (w.start ≤ v.phase.2 → v.phase.2 < w.stop → Tab.get 0 v.gng.opened entry.val = 0 → v.fbPowered = true →
        exec (.windowStart t seg entry) s = .next
          (({ v with gng := { v.gng with opened := Tab.set 0 v.gng.opened entry.val 1 } } : State).windowOpens seg.val w)) ∧
      (w.stop ≤ v.phase.2 → Tab.get 0 v.gng.opened entry.val = 1 → seg.val < 256 → exec (.windowStop t seg entry) s =
        .next (({ v with gng := { v.gng with opened := Tab.set 0 v.gng.opened entry.val 2 } } : State).shape seg.val)) ∧
      (w.stop ≤ v.phase.2 → Tab.get 0 v.gng.opened entry.val = 1 → 256 ≤ seg.val → w.kind = 4 →
        exec (.windowStop t seg entry) s = .next
          (({ v with gng := { v.gng with opened := Tab.set 0 v.gng.opened entry.val 2 } } : State).refStop (seg.val - 256)))) ∧
    (∀ (p : Party) (w : BitVec 32) (rows : Tab GngRow) (v : State), v = u.hostWrite p → v.fb Fd.GNG_TBL_ADDR_OPEN = true →
      rows = Tab.set (0, 0, 0) v.shd.gng.rows (v.f Fd.GNG_TBL_ADDR_ENTRY) (v.gng.data0, v.gng.data1, w) →
      exec (.gngTblData2Write t p w) s =
        .next { v with shd := { v.shd with gng := { v.shd.gng with rows := rows } } }) ∧
    (∀ (p : Party) (w : BitVec 32), (u.hostWrite p).fb Fd.GNG_TBL_ADDR_OPEN = false →
      exec (.gngTblData2Write t p w) s = .next (u.hostWrite p)) ∧
    (∀ (p : Party) (entry : BitVec 16) (open_ : Bool), exec (.gngOpenWrite t p entry open_) s =
      .next ((u.hostWrite p).gngAddrWrite (BitVec.ofNat 32 (entry.toNat + 2 ^ 31 * b2n open_)))) ∧
    (u.fb Fd.GNG_TBL_ADDR_OPEN = false →
      exec (.ginghamSelfTestDone t true) s = .next ((u.set0 Fd.GNG_STAT_TEST 2).wrapF Fd.GNG_STAT_TEST_PASSES) ∧
      exec (.ginghamSelfTestDone t false) s = .next ((u.set0 Fd.GNG_STAT_TEST 3).raise Fd.GNG_ERR_TEST_FAIL))

/-- R35, R109, R122, R125, R127, R138, R140, R142, R149, R151, R178, R192, R221: the headers of the frames of one
cycle at ports that carry frames, a control frame and a frame of a Gable lane among them; the checks at its end, and a good control
frame's way to its protocol or through the node; the scheduler starts the first traffic class that may send; a sent frame is counted and its
copy released, or kept for its acknowledgement on a Gable lane; verification; expiry of recovery functions and of learned addresses; a GRANT frame. -/
def Obligations.Frames : Prop :=
  ∀ (t : Nat) (port : PortRef) (s u : State) (n : Nat), u = s.clock t → n = port.val →
    (∀ (vc : Fin 2) (stamp : Nat) (f : Bytes), u.pst n = 6 ∨ u.pst n = 7 →
      (∀ k : Nat, n < 256 → u.fp.ahead = k + 1 → exec (.frameHeaderReceived t port vc stamp f) s =
        .next { u with fp := { u.fp with ahead := k } }) ∧
      (∀ (more : List Header) (v : State), n < 256 → u.fp.ahead = 0 → more = headersAt t u.pending →
        v = u.takeHeaders t ((n, vc.val, stamp, f) :: more) → exec (.frameHeaderReceived t port vc stamp f) s =
          .next { v with fp := { v.fp with ahead := more.length } }) ∧
      (n < 256 → u.takeHeaders t [(n, vc.val, stamp, f)] = u.ingress n vc.val (u.rxStamp n stamp) f) ∧
      (∀ k, n < 256 → (u.dropRx n).ctlProto n (parseFrame f) f = some k → u.ingress n vc.val (u.rxStamp n stamp) f =
        (u.dropRx n).setRx n (some { bytes := f, stamp := u.rxStamp n stamp, cls := .control, control := some k
                                     hop := (match (parseFrame f).rtag with
                                       | some r => if 32768 ≤ r.1 ∧ u.isRingPort n then some (vc.val, r.1 % 32768) else none
                                       | none => none) })) ∧
      (256 ≤ n → (parseFrame f).etype = 0x88B6 →
        exec (.frameHeaderReceived t port vc stamp f) s = .next ((u.dropRx (n + 256)).setRx (n + 256)
          (some { bytes := f, stamp := u.rxStamp n stamp, cls := .control, control := some 2 })))) ∧
    (∀ (r : RxFrame) (reasm : Bool) (k top : Nat) (v : State), k = (if n < 256 then n else n + 256) →
      u.rx k = some r → v = (if reasm then u.fpCount n 13 else u) →
      top = (if n < 256 then v.f Fd.PGn_Pp_CFG_MAXLEN [n / 8, n % 8] else 10240) →
      (exec (.frameEndReceived t port false reasm) s = .next ((v.portCount n 7).dropRx k)) ∧
      (r.bad = false → r.bytes.length < 64 →
        exec (.frameEndReceived t port true reasm) s = .next ((v.portCount n 5).dropRx k)) ∧
      (r.bad = false → 64 ≤ r.bytes.length → top < r.bytes.length →
        exec (.frameEndReceived t port true reasm) s = .next ((v.portCount n 6).dropRx k)) ∧
      (r.bad = false → 64 ≤ r.bytes.length → r.bytes.length ≤ top →
        leAt r.bytes (r.bytes.length - 4) 4 ≠ crc32 (r.bytes.take (r.bytes.length - 4)) →
        exec (.frameEndReceived t port true reasm) s = .next ((v.portCount n 4).dropRx k)) ∧
      (∀ (c : Nat) (w : State), r.bad = false → 64 ≤ r.bytes.length → r.bytes.length ≤ top →
        leAt r.bytes (r.bytes.length - 4) 4 = crc32 (r.bytes.take (r.bytes.length - 4)) → r.control = some c →
        w = ((if v.isEdge n then ((v.portCount n 0).portCount n 1 r.bytes.length).qualify
          else (v.portCount n 0).portCount n 1 r.bytes.length).setRx k none) →
        exec (.frameEndReceived t port true reasm) s =
          .next (if c = 3 then w.relayOn n r.bytes else w.ctlDeliver c n r.bytes))) ∧
    (∀ (tc gate d : Nat) (tcs : List Nat) (v : State), n < 256 → u.linkUp n = true → (u.egress n).tx = none →
      (u.drainControl.shape n).candidates n = (tc :: tcs, gate) →
      v = (tc :: tcs).foldl (fun (x : State) k => x.recoverHead n (8 * n + k) ((x.queue (8 * n + k)).entries.length + 1))
        (u.drainControl.shape n) →
      v.candidates n = (tc :: tcs, gate) → (v.egress n).tx = none → (v.egress n).preempted = none →
      v.relayChoice n = none → v.tcChoice n tc = some (.head d) → v.choiceMay n gate tc (.head d) = true →
      (v.item d).poison = [] → exec (.egressDecision t port .good) s = .next (v.startTx n tc (.head d) false)) ∧
    (∀ (x : TxFrame) (v w : State), (u.egress n).tx = some x → x.ended = true → x.bad = false → x.split = false →
      x.hop = none → x.start ≤ u.raw → v = (u.shape n).setEgress n { (u.shape n).egress n with tx := none } →
      w = ((v.portCount n 2).portCount n 3 x.bytes.length).emit (.frame n x.bytes) →
      (x.item = none → exec (.frameTxComplete t port) s = .next w) ∧
      (∀ q d, n < 256 → x.item = some (q, d) →
        exec (.frameTxComplete t port) s = .next ((w.removeEntry q d).releaseCopy d)) ∧
      (∀ q d, 256 ≤ n → x.resent = false → x.item = some (q, d) →
        exec (.frameTxComplete t port) s = .next ((w.removeEntry q d).gableSent n q d))) ∧
    (∀ (p : Fin 256) (k : Nat), k = p.val → u.fb Fd.FP_PORTn_PREEMPT_VERIFY_EN [k] = true →
      exec (.preemptVerify t p true) s =
        .next ((u.sf Fd.FP_PORTn_PREEMPT_ACTIVE [k] 1).sf Fd.FP_PORTn_PREEMPT_VERIFY_FAIL [k] 0) ∧
      exec (.preemptVerify t p false) s = .next (((u.sf Fd.FP_PORTn_PREEMPT_ACTIVE [k] 0).sf
        Fd.FP_PORTn_PREEMPT_VERIFY_FAIL [k] 1).raise Fd.FP_EVT_VERIFY_FAIL [] k)) ∧
    (∀ (fn : Fin 16384) (i : Nat) (r : Recov) (h e : Nat × Nat × List Nat × Nat)
      (hs : List (Nat × Nat × List Nat × Nat)),
      i = fn.val → r = u.recov i → r.held = h :: hs → e ∈ r.held → (u.recovCfg i).valid = true →
      (u.recovCfg i).resetTicks ≠ 0 → e.2.2.2 + (u.recovCfg i).resetTicks ≤ u.strobes →
      exec (.recoveryHeldTimeout t fn) s =
        .next (((u.setRecov i { r with seq := (h.1 + 65535) % 65536
                                       lost := min 0xFFFF (r.lost + (h.1 + 65535 - r.seq % 65536) % 65536) }).deliverRun
          i).raise Fd.FP_EVT_SEQ_GAP [] i)) ∧
    (∀ (fn : Fin 16384) (i : Nat) (r : Recov), i = fn.val → r = u.recov i → (u.recovCfg i).valid = true →
      (u.recovCfg i).resetTicks ≠ 0 → r.takeAny = false → r.passTick + (u.recovCfg i).resetTicks ≤ u.strobes →
      exec (.recoveryIdleTimeout t fn) s =
        .next (u.setRecov i { r with takeAny := true, resets := (r.resets + 1) % 256 })) ∧
    (∀ (entry : Fin 262144) (i a : Nat) (v : State), i = entry.val → Tab.get none u.fp.seen i = some a →
      u.fdbValid i = true → u.fdbStatic i = false → a + u.f Fd.FP_CFG_AGE_TIME * 1000000000 ≤ u.raw →
      v = u.fdbWrite i (u.fdbShared i) [0, 0, 0, 0] →
      exec (.ageExpiry t entry) s = .next { v with fp := { v.fp with seen := Tab.set none v.fp.seen i none } }) ∧
    (∀ (p : Fin 257) (w : Nat) (b : Bytes), exec (.grantReceived t p w b) s =
      .next (u.consistFrame p.val b (fun x k => x.grant k w b)))

/-- R302 to R309: what reads of UAn_STAT and UAn_DATA give and change by party; a written byte is queued or ignored with
TXOVR (the host's write is qualifying traffic, R395); the clearing of flags; a break; a character or a break that has
been sent; a received character in a host-owned channel and in one that the engine owns, and a start bit that is not
confirmed or comes before the line was high for a bit after a break. -/
def Obligations.Serial : Prop :=
  ∀ (t : Nat) (ch : Fin 32) (s u : State) (c : Nat), u = s.clock t → c = ch.val →
    (∀ (p : Party) (v : State), v = u.emit (.read p (Reg.UAn_STAT.addr [c]) (u.uaStat c)) →
      (partyTakes p = false → exec (.uaStatRead t p ch) s = .next v) ∧
      (partyTakes p = true → exec (.uaStatRead t p ch) s = .next (v.setUa c { v.ua c with
        seen := Tab.set 0 (v.ua c).seen p.ix (v.uaFlags c + 1) }))) ∧
    (∀ (p : Party) (v : State), v = u.emit (.read p (Reg.UAn_DATA.addr [c]) (u.uaData c)) →
      (partyTakes p = false → exec (.uaDataRead t p ch) s = .next v) ∧
      (partyTakes p = true → v.fb Fd.UAn_CFG_OWNER [c] = false → exec (.uaDataRead t p ch) s =
        .next ((v.uaClear c (Tab.get 0 (v.ua c).seen p.ix - 1)).setUa c { v.ua c with
          rx := (v.ua c).rx.tail, seen := Tab.erase (v.ua c).seen p.ix })) ∧
      (partyTakes p = true → v.fb Fd.UAn_CFG_OWNER [c] = true → exec (.uaDataRead t p ch) s =
        .next ((v.uaClear c (Tab.get 0 (v.ua c).seen p.ix - 1)).setUa c { v.ua c with
          seen := Tab.erase (v.ua c).seen p.ix }))) ∧
    (∀ (p : Party) (b : BitVec 8) (v : State), v = u.hostWrite p → v.acting = true → v.operating = true →
      (v.fb Fd.UAn_CFG_OWNER [c] = false → (v.ua c).tx.length < 64 → (v.ua c).fullAt ≠ pclk v.raw + 1 →
        exec (.uaDataWrite t p ch b) s = .next ((v.setUa c { v.ua c with tx := (v.ua c).tx ++ [b] }).uaPump c)) ∧
      (v.fb Fd.UAn_CFG_OWNER [c] = true ∨ 64 ≤ (v.ua c).tx.length ∨ (v.ua c).fullAt = pclk v.raw + 1 →
        exec (.uaDataWrite t p ch b) s = .next (v.uaFlag c Fd.UAn_STAT_TXOVR))) ∧
    (∀ (p : Party) (v : BitVec 32),
      exec (.uaFlagclrWrite t p ch v) s = .next ((u.hostWrite p).uaClear c (v.toNat % 32))) ∧
    (∀ (p : Party) (v : BitVec 32) (w : State), w = (u.hostWrite p).wr Reg.UAn_TXCTL [c] (v &&& 0x00FFFFFF) →
      (v.getLsbD 24 = false → exec (.uaBreak t p ch v) s = .next w) ∧
      (v.getLsbD 24 = true → w.uaLive c = true →
        exec (.uaBreak t p ch v) s = .next ((w.setUa c { w.ua c with brk := true }).uaPump c))) ∧
    (∀ (b : BitVec 8) (due : Nat) (v : State), (u.ua c).sending = some (.char b due) → due ≤ u.raw →
      v = (((u.emit (.uart c (some b))).bump Reg.UAn_CNTc [c, 1]).setUa c { u.ua c with sending := none }).uaPump c →
      exec (.uartCharacterSent t ch) s = .next (if (v.ua c).sending.isNone then v.setUa c { v.ua c with
        lag := u.raw + u.sixteenths c (u.f Fd.UAn_TXCTL_DE_LAG [c]) } else v)) ∧
    (∀ (start idle : Nat) (samples : List (BitVec 3)) (e : UaEntry) (v : State), u.uaHears c = true →
      startConfirmed samples = true → (u.ua c).inBreak = false ∨ u.bitNs c ≤ idle →
      e = u.uaEntry c samples → v = u.uaNote c e →
      (u.fb Fd.UAn_CFG_OWNER [c] = false → exec (.uartCharacterReceived t ch start idle samples) s = .next (v.uaStore c e)) ∧
      (u.fb Fd.UAn_CFG_OWNER [c] = true → exec (.uartCharacterReceived t ch start idle samples) s =
        .next ((v.setUa c { v.ua c with lost := false }).talkerByte c start e))) ∧
    (∀ (start idle : Nat) (samples : List (BitVec 3)),
      startConfirmed samples = false ∨ (u.ua c).inBreak = true ∧ idle < u.bitNs c →
      exec (.uartCharacterReceived t ch start idle samples) s = .next u)

/-- R249, R256, R260, R262, R265, R272, SEN_TBL_DATA7: framing that has timed out; a UDP sentence frame without a
talker, one that is malformed, and a datagram; the earliest sentence of the backlog is processed: its checksum, a
standby that goes no further, a sentence that no filter takes; listeners take their next sentence as the tables of
its end delimiter give them, which stays in its
queue until its frame is accepted; a staged row is committed. -/
def Obligations.SentenceRows : Prop :=
  ∀ (t : Nat) (s u : State), u = s.clock t →
    (∀ (talker : Fin 512) (n : Nat) (f : Framer), n = talker.val → f = u.framer n → (u.talkerGrammar u.act.sen n).tmo ≠ 0 →
      f.mode ≠ .hunt → f.last.getD 0 + (u.talkerGrammar u.act.sen n).tmo * 1000000 ≤ u.raw →
      exec (.sentenceTimeout t talker) s = .next ((u.setFramer n { last := f.last }).frameErr n)) ∧
    (∀ (ecc : Ecc) (v w : State) (d : Nat) (i : Item) (k : Option Nat), u.takeHead 4096 ecc = (v, some d) →
      w = v.releaseCopy d → i = v.item d →
      k = findNat 512 (fun n => u.fb Fd.SEN_TALKt_CFG_VALID [n] && u.f Fd.SEN_TALKt_CFG_SRC [n] == 0x20 &&
        i.hasStream && u.f Fd.SEN_TALKt_LINK_STREAM [n] == i.stream) →
      (k = none → exec (.udpSentenceFrame ⟨t, ecc⟩) s = .next ((w.bump Reg.SEN_NO_TALKER).raise Fd.SEN_EVT_NO_TALKER)) ∧
      (∀ n : Nat, k = some n → i.poison ≠ [] ∨ udpPayload i.bytes = none →
        exec (.udpSentenceFrame ⟨t, ecc⟩) s = .next (w.frameErr n)) ∧
      (∀ (n : Nat) (p : _ × _), k = some n → i.poison = [] → udpPayload i.bytes = some p →
        exec (.udpSentenceFrame ⟨t, ecc⟩) s = .next (w.datagram n i p.1 p.2))) ∧
    (∀ (x : Sentence) (xs : List Sentence) (v : State), u.sen.backlog = x :: xs →
      v = { u with sen := { u.sen with backlog := xs } } →
      exec (.sentenceProcess t) s = .next (v.process x) ∧
      ((v.talkerGrammar x.rows x.talker).ckOk x.body = false → exec (.sentenceProcess t) s =
        .next ((v.bump Reg.SEN_TALKt_CNTc [x.talker, 1]).raise Fd.SEN_EVT_CK_ERR [] x.talker)) ∧
      ((v.talkerGrammar x.rows x.talker).ckOk x.body = true → v.acting = false → exec (.sentenceProcess t) s =
        .next ((v.bump Reg.SEN_TALKt_CNTc [x.talker, 0]).wr64 Reg.SEN_TALKt_STAMP_LO Reg.SEN_TALKt_STAMP_HI [x.talker]
          (BitVec.ofNat 64 (x.stamp / 2 ^ 32))))) ∧
    (∀ (listener : Fin 1023) (ecc : Ecc) (l c d : Nat) (k : LsnCopy) (v w : State) (b : Bytes), l = listener.val →
      c = rowF k.row 0 7 2 →
      (u.headLsn l 0 = some k → c < 32 → u.fb Fd.UAn_CFG_OWNER [c] = true → u.uaLive c = true → (u.ua c).free = true →
        (∀ x : State, u.listenerHead l ecc = (v, some d) → v.listenerBytes k (v.item d) = (b, w) →
          x = w.acceptedBy (.listener (4097 + l) d) →
          exec (.uartListenerSend ⟨t, ecc⟩ listener) s = .next ((x.setUa c { x.ua c with fill := b }).uaPump c)) ∧
        (u.listenerHead l ecc = (v, none) → exec (.uartListenerSend ⟨t, ecc⟩ listener) s = .next v)) ∧
      (u.headLsn l 1 = some k → u.acting = true → u.operating = true →
        (u.listenerHead l ecc = (v, some d) → v.listenerBytes k (v.item d) = (b, w) → exec (.udpListenerSend ⟨t, ecc⟩ listener) s =
          .next ((w.startEntry (4097 + l) d).inject (sentenceFrame k b) (.listener (4097 + l) d))) ∧
        (u.listenerHead l ecc = (v, none) → exec (.udpListenerSend ⟨t, ecc⟩ listener) s = .next v))) ∧
    (∀ (p : Party) (w : BitVec 32) (y v : State) (row : Nat), y = u.hostWrite p → v = y.wr Reg.SEN_TBL_DATAi [7] w →
      row = leNat (bytesOfWords ((List.range 8).map (fun k => v.rd Reg.SEN_TBL_DATAi [k] &&&
        BitVec.ofNat 32 (senMask (y.f Fd.SEN_TBL_ADDR_TABLE) (y.f Fd.SEN_TBL_ADDR_INDEX) k)))) →
      (y.fb Fd.SEN_TBL_ADDR_OPEN = false → exec (.senTblData7Write t p w) s = .next v) ∧
      (y.fb Fd.SEN_TBL_ADDR_OPEN = true → y.f Fd.SEN_TBL_ADDR_INDEX < senSize (y.f Fd.SEN_TBL_ADDR_TABLE) →
        exec (.senTblData7Write t p w) s = .next { v with shd := { v.shd with
          sen := Tab.set 0 v.shd.sen (4096 * y.f Fd.SEN_TBL_ADDR_TABLE + y.f Fd.SEN_TBL_ADDR_INDEX) row } }))

/-- R313 to R315, R317, R319, R321: the engine takes a request and gives it the lowest free tag; a malformed or poisoned
request completes with BAD_REQ; LOCK, UNLOCK and the semaphore operations; with no free tag TAGS_OUT is raised. -/
def Obligations.BridgeRequests : Prop :=
  ∀ (t : Nat) (ecc : Ecc) (s u : State), u = s.clock t →
    (∀ (q tag d : Nat) (v w : State) (x : Txn), u.nextBridgeQueue = some q → u.operating = true → u.freeTag = some tag →
      u.takeHead (5120 + q) ecc = (v, some d) →
      x = { tag := tag, req := requestOf ((v.item d).bytes.drop (u.f Fd.BRG_Qq_CFG_OFS [q])), queue := some q
            header := (v.item d).bytes.take (u.f Fd.BRG_Qq_CFG_OFS [q]), tick := u.strobes, at_ := u.raw } →
      w = ({ v.releaseCopy d with brg := { (v.releaseCopy d).brg with served := q } } : State).setTxns
        ((v.releaseCopy d).brg.txns ++ [x]) →
      (x.req.ok = true → (v.item d).poison = [] → exec (.bridgeRequestTake ⟨t, ecc⟩) s = .next w) ∧
      (x.req.ok = false ∨ (v.item d).poison ≠ [] →
        exec (.bridgeRequestTake ⟨t, ecc⟩) s = .next ((w.raise Fd.BRG_EVT_BAD_REQ [] q).finish x 8))) ∧
    (∀ q : Nat, u.nextBridgeQueue = some q → u.operating = true → u.freeTag = none →
      exec (.bridgeRequestTake ⟨t, ecc⟩) s = .next (u.raise Fd.BRG_EVT_TAGS_OUT)) ∧
    (∀ (bus : Fin 12) (x : Txn) (b : SideBus), b = u.bus bus.val → u.nextOn bus.val = some x →
      (x.req.op = 4 → exec (.bridgeLock t bus) s =
        .next ((u.setBus bus.val { b with lock := x.queue, lease := u.strobes }).finish x 0)) ∧
      (x.req.op = 5 → b.lock.isSome = true → x.queue = b.lock → exec (.bridgeUnlock t bus) s =
        .next (((u.setBus bus.val { b with lock := none, held := none }).emit (.sideBus bus.val .stop)).finish x 0)) ∧
      (x.req.op = 5 → x.queue ≠ b.lock → exec (.bridgeUnlock t bus) s = .next (u.finish x 7))) ∧
    (∀ (x : Txn) (k : Nat) (m : Sema), u.nextUnit 6 = some x → k = x.req.addr % 256 → m = u.sema k →
      (m.owner = none →
        exec (.semAcq t) s = .next ((u.setSema k { m with owner := x.queue, lease := u.strobes }).finish x 0)) ∧
      (m.owner.isSome = true → 16 ≤ m.waiters.length → exec (.semAcq t) s = .next (u.finish x 10)) ∧
      (m.owner.isSome = true → m.waiters.length < 16 → exec (.semAcq t) s = .next ((u.setTxns
        (u.brg.txns.map (fun y => if y.tag = x.tag then { y with listed := true } else y))).setSema k
          { m with waiters := m.waiters ++ [x.tag] }))) ∧
    (∀ (x : Txn) (k : Nat), u.nextUnit 7 = some x → k = x.req.addr % 256 →
      ((u.sema k).owner.isSome = true → (u.sema k).owner = x.queue →
        exec (.semRel t) s = .next ((u.finish x 0).grantNext k)) ∧
      ((u.sema k).owner ≠ x.queue → exec (.semRel t) s = .next (u.finish x 7))) ∧
    (∀ (x : Txn) (k : Nat), u.nextUnit 8 = some x → k = x.req.addr % 256 →
      ((u.sema k).owner.isSome = true → (u.sema k).owner = x.queue → exec (.semRenew t) s =
        .next ((u.setSema k { u.sema k with lease := u.strobes }).finish x 0)) ∧
      ((u.sema k).owner ≠ x.queue → exec (.semRenew t) s = .next (u.finish x 7)))

/-- R311, R312, R315 to R317, R319, R323: a bus starts its next READ, WRITE or WRITE_READ; a transaction ends well, is
not acknowledged, or loses arbitration and is sent again up to three times; it times out on the bus or in a stretched
clock; a wait for a lock ends; a stuck bus is recovered; poll entries run at their interval and at a side-band
line that has been low for 20 ns. -/
def Obligations.BridgeBuses : Prop :=
  ∀ (t : Nat) (s u : State), u = s.clock t →
    (∀ (bus : Fin 12) (x : Txn) (b : Nat) (v : State), b = bus.val → u.nextOn b = some x → (u.bus b).held = none →
      v = u.setBus b { u.bus b with active := some x.tag, since := u.raw, losses := 0, held := none } →
      (x.req.op = 1 → b < 8 → exec (.bridgeRead t bus) s =
        .next (v.emit (.sideBus b (.transfer 1 (x.req.addr % 128) (v.f Fd.SBb_CFG_SPEED [b]) [] x.req.rlen)))) ∧
      (x.req.op = 2 → b < 8 → exec (.bridgeWrite t bus) s =
        .next (v.emit (.sideBus b (.transfer 2 (x.req.addr % 128) (v.f Fd.SBb_CFG_SPEED [b]) x.req.wdata 0)))) ∧
      (x.req.op = 3 → b < 8 → exec (.writeRead t bus) s =
        .next (v.emit (.sideBus b (.transfer 3 (x.req.addr % 128) (v.f Fd.SBb_CFG_SPEED [b]) x.req.wdata x.req.rlen)))) ∧
      (x.req.op = 3 → 8 ≤ b → exec (.writeRead t bus) s = .next (v.emit
        (.sideBus b (.transfer 3 (x.req.addr % 4) (bits (v.rd Reg.SPs_CFG [b - 8]).toNat 10 8) x.req.wdata
          (max x.req.wlen x.req.rlen)))))) ∧
    (∀ (bus : Fin 12) (b : Nat) (x : Txn) (rd : Bytes), b = bus.val → b < 8 → (u.bus b).active.bind u.txn = some x →
      (x.req.op = 1 → exec (.bridgeTransactionDone t bus (.ok rd)) s =
        .next ((u.busCount b 0).busEnd b 0 (rd.take x.req.rlen) false)) ∧
      exec (.bridgeTransactionDone t bus .nackAddr) s = .next ((u.busCount b 1).busEnd b 1 [] false) ∧
      exec (.bridgeTransactionDone t bus .nackData) s = .next ((u.busCount b 1).busEnd b 2 [] false) ∧
      ((u.bus b).losses < 3 → exec (.bridgeTransactionDone t bus .arbLost) s =
        .next (((u.busCount b 2).setBus b { u.bus b with losses := (u.bus b).losses + 1 }).transferOut b x)) ∧
      (3 ≤ (u.bus b).losses → exec (.bridgeTransactionDone t bus .arbLost) s =
        .next ((u.busCount b 2).busEnd b 3 [] false))) ∧
    (∀ (bus : Fin 12) (b : Nat), b = bus.val → (u.bus b).active.isSome = true →
      (u.bus b).since + u.f Fd.BRG_CFG_TMO * 1000000 ≤ u.raw → exec (.bridgeTimeout t bus) s =
        .next ((if 8 ≤ b then u.busCount b 1 else u).busEnd b 4 [] true)) ∧
    (∀ (bus : Fin 8) (held : Nat), (u.bus bus.val).active.isSome = true →
      u.f Fd.SBb_CFG_STRETCH_MAX [bus.val] * 10000 < held →
      exec (.stretchTimeout t bus held) s = .next (u.busEnd bus.val 4 [] false)) ∧
    (∀ (bus : Fin 12) (b : Nat), b = bus.val → (u.bus b).lock.isSome = true → exec (.lockWaitExpiry t bus) s =
      .next (u.finishAll 6 (fun x => x.req.bus == b && !(u.bus b).admits x && (u.bus b).active != some x.tag &&
        decide (x.tick + u.f Fd.BRG_CFG_LOCK_WAIT ≤ u.strobes)))) ∧
    (∀ (bus : Fin 8) (sda : Bool) (since b lease : Nat), b = bus.val → (u.bus b).stuck = false →
      sda = true ∨ (u.bus b).held = none → since + u.f Fd.SBb_CFG_STUCK_MS [b] * 1000000 ≤ u.raw →
      lease = (if ((u.bus b).active.bind u.txn).any (fun x => (u.bus b).lock.isSome && x.queue == (u.bus b).lock) then
        u.strobes else (u.bus b).lease) → exec (.busStuck t bus sda since) s =
        .next (((((u.setBus b { u.bus b with active := none, held := none, stuck := true, lease := lease }).emit (.sideBus b .recover)).finishAll 9
          (fun x => x.req.bus == b)).busCount b 3).raise Fd.BRG_EVT_BUS_STUCK [] b)) ∧
    (∀ (bus : Fin 8) (b : Nat), b = bus.val → (u.bus b).stuck = true → exec (.busRecovered t bus) s =
      .next ((u.setBus b { u.bus b with stuck := false }).raise Fd.BRG_EVT_BUS_RECOVERED [] b)) ∧
    (∀ (poll : Fin 64) (p : Nat), p = poll.val → u.pollValid p = true → bits (u.pollWord p 1) 23 8 ≠ 0 →
      (Tab.get {} u.brg.polls p).ran = none → exec (.pollInterval t poll) s = .next (u.runPoll p 0)) ∧
    (∀ (bus : Fin 12) (since b : Nat), b = bus.val → b < 8 → u.fb Fd.SBb_STAT_LINE [b] = false →
      (since + 20 ≤ u.raw → exec (.sideBandLine t bus true since) s = .next ((List.range 64).foldl (fun x p =>
        if x.pollValid p ∧ bitAt (x.pollWord p 0) 4 ∧ bits (x.pollWord p 0) 3 0 = b then x.runPoll p 1 else x)
          (u.sf Fd.SBb_STAT_LINE [b] 1))) ∧
      (u.raw < since + 20 → exec (.sideBandLine t bus true since) s = .next (u.sf Fd.SBb_STAT_LINE [b] 0)) ∧
      exec (.sideBandLine t bus false since) s = .next (u.sf Fd.SBb_STAT_LINE [b] 0))

/-- R281 to R285, R287, R288: requests and cancels of buffers and of HP with their refusals; FBn_MBSEL with its lock;
the end of a lock; writes through the window; recovery from bus off. -/
def Obligations.CanBuffers : Prop :=
  ∀ (t : Nat) (p : Party) (ch : Fin 32) (s u : State) (n : Nat), u = (s.clock t).hostWrite p → n = ch.val →
    (∀ (buf : Fin 128) (m : Nat), m = buf.val →
      (u.mbTke n m = true → exec (.fbTxRequest t p ch buf) s =
        .next ((u.txStat n 2 1 0).raise Fd.FBn_EVT_TX_REFUSED [n] m)) ∧
      (u.mbTke n m = false → u.mbMode n m ≠ 2 → exec (.fbTxRequest t p ch buf) s =
        .next ((u.txStat n 2 2 0).raise Fd.FBn_EVT_TX_REFUSED [n] m)) ∧
      (u.mbTke n m = false → u.mbMode n m = 2 → u.fbState n = 4 ∨ u.fbState n = 5 → exec (.fbTxRequest t p ch buf) s =
        .next ((u.txStat n 2 3 0).raise Fd.FBn_EVT_TX_REFUSED [n] m)) ∧
      (u.mbTke n m = false → u.mbMode n m = 2 → u.fbState n ≠ 4 → u.fbState n ≠ 5 → exec (.fbTxRequest t p ch buf) s =
        .next ((u.txStat n 1 0 0).sf Fd.FBn_MBm_STAT_PEND [n, m] 1)) ∧
      (u.fb Fd.FBn_MBm_STAT_PEND [n, m] = false → exec (.fbTxCancel t p ch buf) s = .next (u.txStat n 1 0 0)) ∧
      (u.fb Fd.FBn_MBm_STAT_PEND [n, m] = true → u.onBus n m = false → exec (.fbTxCancel t p ch buf) s =
        .next ((((u.sf Fd.FBn_MBm_STAT_PEND [n, m] 0).bump Reg.FBn_CNTc [n, 7]).txStat n 1 0 1).setFlag
          Fd.FBn_MBm_STAT_CANCELLED [n, m])) ∧
      (∀ x : CanTx, u.fb Fd.FBn_MBm_STAT_PEND [n, m] = true → u.onBus n m = true → (u.fbc n).tx = some x →
        exec (.fbTxCancel t p ch buf) s = .next ((u.setFb n { u.fbc n with
          tx := some { x with cancelled := true } }).txStat n 1 0 2))) ∧
    (u.fb Fd.FBn_HP_CFG_OWNER [n] = false → u.fbState n ≠ 4 → u.fbState n ≠ 5 → exec (.fbHpReq t p ch) s =
      .next ((u.txStat n 1 0 0).sf Fd.FBn_HP_STAT_PEND [n] 1)) ∧
    (u.fb Fd.FBn_HP_STAT_PEND [n] = true → u.onBus n 128 = false → exec (.fbHpCancel t p ch) s =
      .next ((((u.sf Fd.FBn_HP_STAT_PEND [n] 0).bump Reg.FBn_CNTc [n, 7]).txStat n 1 0 1).setFlag
        Fd.FBn_HP_STAT_CANCELLED [n])) ∧
    (∀ (v : BitVec 32) (b : Nat) (w : State), b = bits v.toNat 7 0 →
      w = (u.unlock n).wr Reg.FBn_MBSEL [n] (BitVec.ofNat 32 b) →
      (v.getLsbD 31 = false → exec (.fbMbselWrite t p ch v) s = .next w) ∧
      (v.getLsbD 31 = true → b < 128 → u.mbMode n b ≠ 2 → exec (.fbMbselWrite t p ch v) s =
        .next (((w.setFb n { w.fbc n with lock := some (b, u.raw), shadow := (w.fbc n).words b, stored := false }).sf
          Fd.FBn_MBSEL_LOCK [n] 1).sf Fd.FBn_STAT_LOCKED [n] 1))) ∧
    (∀ (l : Nat × Nat) (v : State), v = s.clock t → (v.fbc n).lock = some l → l.2 + 10000 ≤ v.raw →
      exec (.lockTmo t ch) s = .next ((v.unlock n).raise Fd.FBn_EVT_LOCK_TMO [n] l.1)) ∧
    (∀ (word : Fin 32) (v : BitVec 32), u.f Fd.FBn_MBSEL_BUF [n] = 128 → u.fb Fd.FBn_HP_STAT_PEND [n] = false →
      exec (.fbMbwinWrite t p ch word v) s =
        .next (u.setWords n 128 (Tab.set 0 ((u.fbc n).words 128) word.val v))) ∧
    (u.fbState n = 4 → exec (.fbRecover t p ch) s = .next (u.fbEnter n 5))

/-- R278 to R281, R286 to R299: an idle controller offers its winning buffer; a transmission ends, loses arbitration or
meets an error; a message is received; integration, bus-on, rate detection, the TXD time-out, and wake-up by pattern and
by frame. -/
def Obligations.CanBus : Prop :=
  ∀ (t : Nat) (ch : Fin 32) (s u : State) (n : Nat), u = s.clock t → n = ch.val →
    (∀ m : Nat, u.fbState n = 2 → (u.fbc n).tx = none → u.fbPowered = true → (u.fbc n).released = false →
      u.isTt n = false → u.operating = true → u.choose n (u.offers n) = some m →
      exec (.canTxOffer t ch) s = .next (u.sendSof n m ((u.fbc n).words m) (u.oneShot n m))) ∧
    (∀ (sof : Nat) (x : CanTx) (v : State), v = u.stampSof n sof → (v.fbc n).tx = some x → x.buf ≠ 129 →
      exec (.arbLost t ch sof) s = .next ((v.bump Reg.FBn_CNTc [n, 2]).attemptFailed n x)) ∧
    (∀ (sof : Nat) (e f : CanErr) (delay d : Option Nat) (v w : State), u.fbPowered = true → u.fbState n = 2 →
      d = u.tdcOf n delay → f = (match d with | some k => if 127 < k then .transmitter else e | none => e) →
      v = ((u.stampSof n sof).showTdc n d).bump Reg.FBn_CNTc [n, 3] →
      w = (if CanErr.flags f = true ∧ (u.fbc n).released = false then v.emit (.canFlag n false) else v) →
      exec (.canBusError t ch e sof delay) s = .next ((w.txError n f).confine n
        (errStep f (u.fbc n).tec (u.fbc n).recv).1 (errStep f (u.fbc n).tec (u.fbc n).recv).2)) ∧
    (∀ (sof : Nat) (f : CanFrame) (w : Tab (BitVec 32)) (v : State), u.fbPowered = true → u.fbState n = 2 →
      u.isTt n = false → w = messageWords f (u.wireNs n u.raw) (u.sofNs n sof) →
      v = (((if (u.fbc n).released then u.stampSof n sof else (u.stampSof n sof).emit (.canAck n)).bump
        Reg.FBn_CNTc [n, 0])).recGood n →
      (∀ m : Nat, findNat 128 (fun m => u.mbMatches n m w) = some m →
        exec (.canMessageReceived t ch sof f) s = .next (v.mbStore n m w (u.wireNs n u.raw))) ∧
      (findNat 128 (fun m => u.mbMatches n m w) = none → exec (.canMessageReceived t ch sof f) s = .next v)) ∧
    (∀ (sof : Nat) (tdcv : BitVec 7) (x : CanTx) (w : Tab (BitVec 32)) (v : State), (u.fbc n).tx = some x → x.buf < 128 →
      w = Tab.setList 0 x.words 1 ([setBits (msgWord x.words 1) 14 8
        (dlcLen (bits (msgWord x.words 1) 3 0) (bitAt (msgWord x.words 1) 4)), u.wireNs n u.raw, u.wireNs n u.raw / 2 ^ 32, u.sofNs n sof,
          u.sofNs n sof / 2 ^ 32].map (BitVec.ofNat 32)) → bitAt (msgWord x.words 1) 4 = false → u.fbState n = 2 →
      v = ((u.stampSof n sof).bump Reg.FBn_CNTc [n, 1]).confine n ((u.fbc n).tec - 1) (u.fbc n).recv →
      exec (.canTxDone t ch sof tdcv) s = .next ((((v.setWords n x.buf w).setPend n x.buf false).setFlag
        Fd.FBn_MBm_STAT_DONE [n, x.buf]).attemptOver n x.buf)) ∧
    (u.fbState n = 1 → exec (.integrationDone t ch) s = .next (u.fbEnter n 2)) ∧
    (u.fbState n = 6 → exec (.integrationDone t ch) s = .next (u.setFb n { u.fbc n with synced := true })) ∧
    (u.fbState n = 5 → exec (.busOn t ch) s = .next ((((u.setFb n { u.fbc n with
        refWait := u.isTt n, refReq := false }).fbEnter n 2).confine
      n 0 0).raise Fd.FBn_EVT_BUS_ON [n])) ∧
    (u.fbState n = 7 → (u.fbc n).ardSince + u.f Fd.FBn_ARD_CFG_DWELL [n] * 1000000 ≤ u.raw →
      (u.fbc n).ardK < u.f Fd.FBn_ARD_CFG_LAST [n] → exec (.ardDwellExpiry t ch) s = .next (u.setFb n { u.fbc n with
        ardK := (u.fbc n).ardK + 1, ardSince := u.raw, ardGood := 0 })) ∧
    (∀ since : Nat,
      (since + u.nomBitNs n ≤ u.raw → exec (.txdTmo t ch true since) s =
        .next ((u.setFb n { u.fbc n with released := false }).sf Fd.FBn_XCVR_STAT_TXD_TMO [n] 0)) ∧
      (u.raw < since + u.nomBitNs n → exec (.txdTmo t ch true since) s = .next u) ∧
      (since + 2500000 ≤ u.raw → (u.fbc n).released = false → exec (.txdTmo t ch false since) s =
        .next (((u.setFb n { u.fbc n with released := true }).sf Fd.FBn_XCVR_STAT_TXD_TMO [n] 1).raise
          Fd.FBn_EVT_TXD_TMO [n]))) ∧
    (∀ (wk : Fin 8) (k : Nat), k = wk.val → u.fb Fd.FBn_XCVR_WUP_EN [k] = true → u.fbWatches k = true →
      (u.fb Fd.FBn_XCVR_SWK_EN [k] = true → exec (.wakePattern t wk) s = .next { u with
        por := { u.por with armed := insKey k u.por.armed, swkErr := Tab.erase u.por.swkErr k } }) ∧
      (u.fb Fd.FBn_XCVR_SWK_EN [k] = false → exec (.wakePattern t wk) s = .next (u.fbWake k 1))) ∧
    (∀ (wk : Fin 8) (k : Nat) (f : CanFrame) (v : State), k = wk.val → u.por.armed.contains k = true → f.fdf = false →
      u.fbWatches k = true → v = { u with por := { u.por with
        swkErr := Tab.set 0 u.por.swkErr k (Tab.get 0 u.por.swkErr k - 1) } } →
      u.swkMatch k f = true → exec (.selectiveWakeFrame t wk true f) s = .next (v.fbWake k 2))

/-- R24, R25, R113, R338, R339, R442: transfers on the links between dies, in order, repeated or bad, the link down
after 16 retries, and a disturbance record of FLD; refresh frames; a command frame at a power die; the latch symbol; the
watchdog; power-up of a die. While the field link is down CTL learns nothing of a
die: `told` drops what it would show. -/
def Obligations.DieLinks : Prop :=
  ∀ (t : Nat) (s u : State), u = s.clock t →
    (∀ (field : Bool) (seq l : Nat) (burst : Option Bool), l = b2n field → u.fio.linkDown.contains l = false →
      (seq = Tab.get 0 u.fio.linkSeq l → field = false ∨ burst = none →
        exec (.linkTransferReceived t field seq (.good burst)) s = .next { u with
        fio := { u.fio with linkRetries := Tab.set 0 u.fio.linkRetries l 0
                            linkSeq := Tab.set 0 u.fio.linkSeq l (seq + 1) } }) ∧
      (seq ≠ Tab.get 0 u.fio.linkSeq l → exec (.linkTransferReceived t field seq (.good burst)) s = .next { u with
        fio := { u.fio with linkRetries := Tab.set 0 u.fio.linkRetries l 0 } }) ∧
      (Tab.get 0 u.fio.linkRetries l < 16 → exec (.linkTransferReceived t field seq .bad) s = .next { u with
        fio := { u.fio with linkRetries := Tab.set 0 u.fio.linkRetries l (Tab.get 0 u.fio.linkRetries l + 1) } }) ∧
      (16 ≤ Tab.get 0 u.fio.linkRetries l → ∀ v w : State, v = u.drawFree.2 →
        w = ({ v with fio := { v.fio with linkDown := insKey l v.fio.linkDown } } : State).assertErr.logEvent (freeCode u.drawFree.1)
          (BitVec.ofNat 32 l) →
        exec (.linkTransferReceived t field seq .bad) s =
          .next (if l = 0 then { w with asd := { w.asd with linkDown := some w.raw } } else w))) ∧
    (∀ (seq : Nat) (start : Bool), u.fio.linkDown.contains 1 = false → seq = Tab.get 0 u.fio.linkSeq 1 →
      exec (.linkTransferReceived t true seq (.good (some start))) s = .next ((u.transfer 1 seq true).fieldBurst start)) ∧
    (∀ k : Nat, k = u.fio.refreshed + 1 → 500000 < u.period → 500000 * k < u.period → u.tickPast (500000 * k) = true →
      u.framesFlow = true → u.fio.words ≠ [] → exec (.refreshFrameSend t) s =
        .next (({ u with fio := { u.fio with refreshed := k } } : State).sendFrame false u.fio.words false)) ∧
    (∀ (die : Fin 2) (d : Nat) (f : LoadFrame) (v : State), d = die.val → Tab.get none u.fio.flight d = some f →
      (u.die d).powered = true → (u.die d).next = some f.seq →
      v = { u with fio := { u.fio with flight := Tab.set none u.fio.flight d none } } →
      exec (.commandFrameReceived t die true) s = .next ((v.setDie d { u.die d with
        next := some (f.seq + 1), streak := (u.die d).streak + 1, wdt := some u.wall
        got := if f.tick then some (f, (u.die d).streak + 1) else (u.die d).got }).told (fun x => x.set0 (State.linkFld d) 1)) ∧
      exec (.commandFrameReceived t die false) s = .next (v.setDie d { u.die d with streak := 0 })) ∧
    (∀ die : Fin 2, u.fio.latchDue.contains die.val = true → (u.die die.val).powered = true →
      exec (.latchSymbol t die) s = .next (u.latch die.val)) ∧
    (∀ (die : Fin 2) (d w : Nat), d = die.val → (u.die d).wdt = some w → (u.die d).powered = true →
      (u.die d).failsafe = false → w + (u.die d).nvmWdt * 1000000 ≤ u.wall → exec (.watchdogExpiry t die) s =
        .next ((dieChans d).foldl State.toFailsafe ((u.setDie d { u.die d with
          failsafe := true, next := none, streak := 0, wdt := none, got := none }).told (fun x =>
            ((x.set0 (State.failsafeFld d) 1).set0 (State.linkFld d) 0).raise Fd.FIO_EVT_FS_ENTER [] d)))) ∧
    (∀ (die : Fin 2) (d : Nat) (v : State), d = die.val →
      v = ((dieChans d).foldl (fun x n => (x.switch n false x.wall).setLc n {})
        (u.setDie d { powered := true, failsafe := true, nvmFs := (u.die d).nvmFs, nvmWdt := (u.die d).nvmWdt })).told
          (fun x => (x.set0 (State.failsafeFld d) 1).set0 (State.linkFld d) 0) →
      exec (.powerDiePowerUp t die) s = .next ((dieChans d).foldl State.showLs (if v.ctlUp then v.writeCopy d else v)))

/-- R325 to R337, R341, R342: pulse edges and PWM periods; the end of blanking; shorts, retries, thermal shutdown and
restart; group over-current; loss and return of a supply; readings; CLEAR; event inputs. Each first lets the on-phases
that are over end (settle); what CTL shows of a channel comes over the field link (told). -/
def Obligations.LoadEvents : Prop :=
  ∀ (t : Nat) (ls : Fin 24) (s u w : State) (n : Nat), n = ls.val → u = s.clock t → w = u.settle n →
    (∀ p : Nat × Nat, lsOp (u.lc n).word = 3 → u.pulseOf (u.lc n).word = some p → (u.lc n).base + p.1 ≤ u.wall →
      u.wall < (u.lc n).base + p.2 → (u.lc n).want = false → exec (.pulseEdge t ls true) s =
        .next ((u.setLc n { u.lc n with want := true, phaseEnd := some ((u.lc n).base + p.2) }).follow n ((u.lc n).base + p.1))) ∧
    (lsOp (u.lc n).word = 3 → exec (.pulseEdge t ls false) s = .next (w.showLs n)) ∧
    (∀ x : Nat, (u.lc n).pwmNext = some x → lsOp (u.lc n).word = 2 → x ≤ u.wall →
      exec (.pwmPeriodStart t ls) s = .next (w.pwmStart n x)) ∧
    (∀ (x on : Nat), on = dutyOf (w.lc n).word * w.perNs n / 4096 →
      (on = 0 → w.pwmStart n x = (w.setLc n { w.lc n with
        pwmNext := some (x + w.perNs n), want := false, phaseEnd := none }).follow n x) ∧
      (2000 ≤ on → on + 2000 ≤ w.perNs n → w.pwmStart n x = (w.setLc n { w.lc n with
        pwmNext := some (x + w.perNs n), want := true, phaseEnd := some (x + on) }).follow n x)) ∧
    (∀ e : Nat, (w.lc n).blank = some e → (w.lc n).on = true → e ≤ w.wall →
      exec (.blankingEnd t ls true) s = .next ((w.setLc n { w.lc n with blank := none, outAt := e }).declareShort n) ∧
      (∀ v : State, v = w.setLc n { w.lc n with blank := none, outAt := e } →
        exec (.blankingEnd t ls false) s = .next ((v.setLc n { v.lc n with tries := 0 }).showLs n))) ∧
    (∀ since : Nat, (w.lc n).on = true → (w.lc n).blank = none → since + 20000 ≤ w.raw →
      (w.lc n).outAt + (w.raw - since) ≤ w.wall → exec (.short t ls since) s = .next (w.declareShort n)) ∧
    (∀ (due : Nat) (temp : Int), (u.lc n).retry = some due → due ≤ u.wall → temp ≤ 150 →
      exec (.retryIntervalExpiry t ls temp) s =
        .next ((u.setLc n { u.lc n with retry := none, force := true }).follow n u.wall)) ∧
    (∀ (tl : Bool) (v : State), tl = decide (w.lsf n Fd.FIO_LSn_CFG_TLATCH [n] = 1) →
      v = (w.setLc n { w.lc n with tlatched := (w.lc n).tlatched || tl, thermal := (w.lc n).thermal || !tl }).told
        (fun x => (x.bumpF Fd.FIO_LSn_CNT_THERMALS [n]).raise Fd.FIO_EVT_THERMAL [] n) →
      exec (.thermal t ls false) s = .next ((v.diag n 3).follow n (v.diag n 3).wall)) ∧
    ((w.lc n).thermal = true → exec (.thermalRestart t ls) s =
      .next ((w.setLc n { w.lc n with thermal := false, force := true }).follow n w.wall)) ∧
    ((w.lc n).thermal = false → exec (.thermalRestart t ls) s = .next w) ∧
    (∀ (p : Party) (v : State), v = u.hostWrite p →
      exec (.lsClear t p ls) s = .next (v.setLc n { v.lc n with clear := true })) ∧
    (∀ (acq : Nat) (i v : BitVec 12) (temp : BitVec 9), (w.die (n / 12)).powered = true → w.fieldUp = true → acq + 8000 ≤ w.raw →
      (w.die (n / 12)).slotAt (n % 12) (w.wall - (w.raw - acq)) = true →
      exec (.loadReading t ls acq i v temp) s = .next (w.reading n acq i.toNat v.toNat temp))

/-- R81, R329, R334, R341, R342: the step of a group or die above its current limit; loss and return of a group's
supply, and the loss of both supplies of a die; a transition at an event input, whose stamp is the reading of its instant, and its confirmation. -/
def Obligations.SupplyInputs : Prop :=
  ∀ (t : Nat) (s u : State), u = s.clock t →
    (∀ (die : Fin 2) (which : Fin 3) (d n : Nat) (v w : State), d = die.val → v = (dieChans d).foldl State.settle u →
      v.above d which.val = true → Tab.get 0 (v.die d).ocAt which.val = 0 →
      ((ocOf d which.val).1.filter (fun k => (v.lc k).on && (v.lc k).blank.isNone)).reverse.head? = some n →
      w = ((v.setDie d { v.die d with ocAt := Tab.set 0 (v.die d).ocAt which.val (v.wall + 1) }).setLc n
        { v.lc n with groupOff := true }).told (fun x => x.raise Fd.FIO_EVT_GROUP_OC [] n) →
      exec (.groupOc t die which) s = .next ((w.diag n 5).follow n w.wall)) ∧
    (∀ (group : Fin 4) (g : Nat) (v w : State), g = group.val → v = (groupChans g).foldl State.settle u →
      v.fio.uv.contains g = false →
      w = (groupChans g).foldl (fun x n => (x.diag n 7).follow n x.wall)
        (({ v with fio := { v.fio with uv := insKey g v.fio.uv } } : State).told (fun x =>
          (x.set0 Fd.FIO_STAT_VLS (setBits (x.f Fd.FIO_STAT_VLS) g g 0)).raise Fd.FIO_EVT_VLS_UV [] g)) →
      exec (.vlsUv t group false) s = .next w ∧ exec (.vlsUv t group true) s = .next (w.dieOff (g / 2))) ∧
    (∀ (group : Fin 4) (g : Nat) (v w : State), g = group.val → v = (groupChans g).foldl State.settle u →
      w = ({ v with fio := { v.fio with uv := v.fio.uv.filter (· != g) } } : State).told (fun x =>
        x.set0 Fd.FIO_STAT_VLS (setBits (x.f Fd.FIO_STAT_VLS) g g 1)) →
      (v.fio.uv.contains g = false → exec (.vlsRestore t group) s = .next w) ∧
      (v.fio.uv.contains g = true → exec (.vlsRestore t group) s =
        .next ((groupChans g).foldl (fun x n => (x.setLc n { x.lc n with force := true }).follow n x.wall) w))) ∧
    (∀ (ein : Fin 16) (n : Nat) (level : Bool) (v : State), n = ein.val → (u.einCh n).ball ≠ level →
      v = u.setEin n { u.einCh n with ball := level, edgeAt := u.raw, edgeRd := u.readingAt (u.raw - Config.einDelay n) } →
      (v.filtNs n ≠ 0 → exec (.einTransition t ein level) s = .next v) ∧
      (v.filtNs n = 0 → exec (.einTransition t ein level) s = .next (v.einConfirm n))) ∧
    (∀ (ein : Fin 16) (n : Nat), n = ein.val → (u.einCh n).edgeAt + u.filtNs n + b2n (u.filtNs n != 0) ≤ u.raw →
      ((u.einCh n).seen = false → exec (.einConfirm t ein) s =
        .next ((u.setEin n { u.einCh n with seen := true }).sf Fd.FIO_EINn_STAT_LEVEL [n] (b2n (u.einCh n).ball))) ∧
      exec (.einConfirm t ein) s = .next (u.einConfirm n))

/-- R172, R246, R409: a lease that was not renewed for LEASE ticks gives its resource back: ownership of a service queue
is freed, the started copies of a queue are flushed, and an enabled host ring completes its posted descriptors with
LEASE_REVOKED and stops; every revocation is counted and raises LEASE_REVOKED. A lease in force changes nothing. -/
def Obligations.LeaseExpiry : Prop :=
  ∀ (t : Nat) (s u : State), u = s.clock t →
    (∀ (q : Fin 4096) (n v : Nat), n = 2048 + q.val → v = Tab.get 0 u.ldr.owners n →
      (v ≠ 0 → v - 1 + u.leaseTicks ≤ u.strobes → exec (.leaseExpiry t (.service q)) s =
        .next ({ u with ldr := { u.ldr with owners := Tab.set 0 u.ldr.owners n 0 } } : State).leaseRevoked) ∧
      (u.strobes < v - 1 + u.leaseTicks → exec (.leaseExpiry t (.service q)) s = .next u)) ∧
    (∀ q : Fin 6144, (u.expiredCopies q.val = [] → exec (.leaseExpiry t (.copy q)) s = .next u) ∧
      (∀ d : Nat, u.expiredCopies q.val = [d] →
        exec (.leaseExpiry t (.copy q)) s = .next (u.flushCopy q.val d).leaseRevoked)) ∧
    (∀ (k : Fin 2048) (r : Ring) (v : State), r = u.ring k.val →
      (r.en = true → r.lease + u.leaseTicks ≤ u.strobes → v = (u.dropRead k.val).revokePosted k.val r.posted.length →
        u.stopRing k.val = v.setRing k.val { v.ring k.val with
          en := false, stopped := true, off := 0, acc := [], waiting := false } ∧
        exec (.leaseExpiry t (.ring k)) s = .next (u.stopRing k.val).leaseRevoked) ∧
      (u.strobes < r.lease + u.leaseTicks → exec (.leaseExpiry t (.ring k)) s = .next u)) ∧
    (∀ b : Fin 12, exec (.leaseExpiry t (.lock b)) s = .next (u.revokeLock b.val)) ∧
    (∀ k : Fin 256, exec (.leaseExpiry t (.sema k)) s = .next (u.revokeSema k.val))

/-- R347 to R350, R353, R355: a weighing starts, settles, ends its window with a WEIGHT or NO_RESULT record and waits for
the load to clear; zero tracking, by at most half a d and up to the limit; reference checks, when one is due, and their
resumption; LIVE records; beacons and their absence; the next
record goes out signed, and one that is replayed as it was. -/
def Obligations.CellarWeighing : Prop :=
  ∀ (t : Nat) (lc : Fin 4) (cal : Bool) (s u : State) (c : Nat) (x : CelCh), u = s.clock t → c = lc.val → x = u.celCh c →
    (∀ (sample : BitVec 24) (v : State) (y : CelCh), v = u.calApply true → y = (v.celCh c).due v.wall → y.inUse = true →
      y.phase = .idle → (Frac.ofInt (y.p 3 * y.d)).le (y.gross sample.toInt) = true → exec (.weighingStart t lc sample) s =
      .next (v.setCelCh c { y with phase := .settle v.wall, held := y.seg.isSome })) ∧
    (∀ w : Nat, x.phase = .settle w → w + x.p 4 * 1000000 ≤ u.wall →
      exec (.settleEnd t lc) s = .next (u.setCelCh c { x with phase := .window (w + x.p 4 * 1000000) })) ∧
    (∀ (w why : Nat) (sum : Int) (lo hi least most : BitVec 24) (k : BitVec 12), x.phase = .window w → w + x.p 5 * 1000000 ≤ u.wall →
      why = x.reason lo hi least most k.toNat → exec (.weighWindowEnd t lc sum lo hi least most k cal) s =
        .next ((u.celRecord (if why = 0 then 1 else 2) c cal (u.cclkAt (w + x.p 5 * 500000))
          (u.celData c (roundD (x.net sum x.samples) x.d) why (x.p 5)
            (roundD ((x.gross hi.toInt).sub (x.gross lo.toInt)) x.d).toNat)).setCelCh c { x with phase := .clearWait })) ∧
    (∀ sample : BitVec 24, x.phase = .clearWait → (x.gross sample.toInt).lt (.ofInt (x.p 3 * x.d / 2)) = true →
      exec (.loadClear t lc sample) s = .next (u.setCelCh c { x with phase := .idle, idleAt := u.wall })) ∧
    (∀ (sum : Int) (lo hi : BitVec 24) (mean goal z : Frac) (v : State), x.inUse = true → x.p 7 = 1 → x.phase = .idle →
      x.idleAt + 1000000000 ≤ u.wall → x.tracked + 1000000000 ≤ u.wall → x.steady sum 19200 lo hi = true →
      mean = x.gross sum 19200 → goal = x.zeroGoal mean →
      (x.zeroOk goal = true → exec (.zeroTracking t lc sum lo hi cal) s =
        .next (u.setCelCh c { x with zofs := goal, tracked := u.wall, atLimit := false })) ∧
      (x.zeroOk goal = false → x.atLimit = false →
        z = .ofInt (if goal.num < 0 then -x.zeroLimit else x.zeroLimit) →
        v = u.setCelCh c { x with zofs := z, tracked := u.wall, atLimit := true } →
        exec (.zeroTracking t lc sum lo hi cal) s = .next (v.celRecord 4 c cal v.cclk
          (v.celData c (roundD (mean.sub z) x.d) 10 0 0)))) ∧
    (∀ mean : Frac,
      ((x.zofs.addInt (x.d / 2)).lt mean = false → mean.lt (x.zofs.addInt (-(x.d / 2))) = false → x.zeroGoal mean = mean) ∧
      ((x.zofs.addInt (x.d / 2)).lt mean = true → x.zeroGoal mean = x.zofs.addInt (x.d / 2)) ∧
      ((x.zofs.addInt (x.d / 2)).lt mean = false → mean.lt (x.zofs.addInt (-(x.d / 2))) = true →
        x.zeroGoal mean = x.zofs.addInt (-(x.d / 2)))) ∧
    (∀ (y : CelCh) (k : Nat), y = x.due u.wall → y.held = false → y.phase = .idle → y.seg = some k →
      y.segAt + 2000000 ≤ u.wall →
      exec (.referenceCheck t lc none cal) s =
        .next (u.setCelCh c { y with seg := some (k + 1), segAt := y.segAt + 3000000 }) ∧
      exec (.referenceCheck t lc (some true) cal) s = .next (u.setCelCh c { y with seg := none, refFail := false }) ∧
      exec (.referenceCheck t lc (some false) cal) s =
        .next ((u.setCelCh c { y with seg := none, refFail := true }).celRecord 9 c cal u.cclk (u.celOther c [] 8))) ∧
    (x.seg = none → x.phase = .idle → x.checked + 600000000000 ≤ u.wall → x.idleAt ≤ u.wall →
      (x.due u.wall).seg = some 0 ∧ (x.due u.wall).segAt = max (x.checked + 600000000000) x.idleAt) ∧
    (x.held = true → x.phase = .idle → x.idleAt + 1000000000 ≤ u.wall → exec (.referenceCheckResume t lc) s =
      .next (u.setCelCh c { x with held := false, segAt := x.idleAt + 1000000000 })) ∧
    (∀ (sample : BitVec 24) (centre : Nat), x.live ≠ 0 → x.inUse = true → x.liveAt + x.live * 1000000 ≤ u.wall →
      exec (.livePeriod t lc sample centre cal) s = .next ((u.setCelCh c { x with liveAt := u.wall }).celRecord 3 c cal centre
        (u.celData c (roundD (x.net sample.toInt) x.d) 0 0 0))) ∧
    (∀ v : State, u.cel.frameAt + 1000000 ≤ u.wall → u.cel.flight = none →
      v = ({ u with cel := { u.cel with frameAt := u.wall } } : State).emit (.celBeacon u.cclk) →
      (v.operating = true → exec (.beacon t) s = .next (v.symbol v.cclk v.raw).celHeard) ∧
      (v.operating = false → exec (.beacon t) s = .next v)) ∧
    (∀ h : Nat, u.fb Fd.CEL_STAT_PRESENT = true → u.cel.heard = some h → h + 2000000 ≤ u.raw →
      exec (.absent t) s = .next ((u.set0 Fd.CEL_STAT_PRESENT 0).raise Fd.CEL_EVT_ABSENT)) ∧
    (u.cel.flight = none →
      (∀ (r : CelRec) (w : Nat), u.celNext = some r → r.arose + 19660 ≤ u.cclk → u.cel.signedAt = some w →
        w + 800000 ≤ u.wall → exec (.recordSend t) s = .next (u.celSend r)) ∧
      (∀ (b : Bytes) (bs : List Bytes), u.celNext = none → u.cel.replay = b :: bs → exec (.recordSend t) s =
        .next (({ u with cel := { u.cel with replay := bs } } : State).celFrame b)))

/-- R356 to R359, R361: CEL executes the oldest command and answers with its result (0 for done); a frame that fails its
CRC is lost, and a code that Table CEL-4 does not list is answered BAD_CMD (log entry 137); staged changes apply once
their channels are IDLE; CAL_EN falls; the Cellar's reset; CTL's side: no answer in 10 ms, and a record that arrives. -/
def Obligations.CellarCommands : Prop :=
  ∀ (t : Nat) (cal : Bool) (s u v : State) (k : CelCmd) (ks : List CelCmd) (ack : State → Nat → State) (sum : Int)
    (lo hi : BitVec 24) (x : CelCh), u = s.clock t → v = { u with cel := { u.cel with inbox := ks } } → x = v.celCh k.ch →
    (∀ (w : State) (n : Nat), ack w n = w.celRecord 8 k.ch cal w.cclk
      (w.celOther k.ch (beBytes 1 k.code ++ beBytes 1 n ++ beBytes 2 k.tag ++ beBytes 4 0) 0)) →
    (u.cel.inbox = k :: ks →
      (k.code = 0x01 → exec (.celZero t false sum lo hi cal) s = .next v) ∧
      (celCodes.contains k.code = false → ks = [] → exec (.celKeyReq t true cal) s = .next (ack v 5)) ∧
      (k.code = 0x01 → k.plain = true → x.phase = .idle → x.steady sum 1920 lo hi = true →
        x.zeroOk (x.gross sum 1920) = true → ∀ w : State,
        w = v.setCelCh k.ch { x with zofs := x.gross sum 1920, atLimit := false } →
        exec (.celZero t true sum lo hi cal) s =
          .next (ack (w.celRecord 4 k.ch cal w.cclk (w.celData k.ch 0 0 0 0)) 0)) ∧
      (k.code = 0x02 → k.a2 = 0 → k.a1 = 0 ∨ 20 ≤ k.a1 ∧ k.a1 ≤ 1000 → exec (.celLive t true cal) s =
        .next (ack (v.setCelCh k.ch { x with live := k.a1, liveAt := v.wall }) 0)) ∧
      (∀ old : List (Nat × Nat × Bytes), k.code = 0x03 → k.a1 ≤ 65535 → old ≠ [] →
        old = v.cel.alibi.reverse.dropWhile (fun r => r.1 != k.a1 || r.2.1 != k.a2) → exec (.celReplay t true cal) s =
        .next (ack { v with cel := { v.cel with replay := v.cel.replay ++ old.map (fun r => r.2.2) } } 0)) ∧
      (k.code = 0x04 → k.plain = true → exec (.celKeyReq t true cal) s = .next (ack (v.celKeys cal) 0)) ∧
      (k.code = 0x05 → k.plain = true →
        (x.phase = .idle → exec (.celRefCheck t true cal) s =
          .next (ack (v.setCelCh k.ch { x with seg := some 0, segAt := v.wall, held := false }) 0)) ∧
        (x.phase = .clearWait → exec (.celRefCheck t true cal) s = .next (ack v 2))) ∧
      (k.code = 0x10 → cal = true → k.plain = true → x.phase = .idle → x.steady sum 19200 lo hi = true →
        exec (.calZero t true sum lo hi cal) s = .next (ack (v.stage (.zero k.ch { num := sum, den := 19200 })) 0)) ∧
      (k.code = 0x11 → cal = true → k.a1 ≠ 0 → k.a2 = 0 → x.phase = .idle → x.steady sum 19200 lo hi = true →
        ∀ f : Frac, f = ({ num := sum, den := 19200 } : Frac).sub (v.stagedZero k.ch) → 0 < f.num →
        exec (.calSpan t true sum lo hi cal) s = .next (ack (v.stage (.span k.ch (k.a1 * f.den) f.num.toNat)) 0)) ∧
      (k.code = 0x12 → cal = true → k.a1 ≤ 7 → (paramRange k.a1).1 ≤ k.a2 → k.a2 ≤ (paramRange k.a1).2 →
        exec (.setParam t true cal) s = .next (ack (v.stage (.param k.ch k.a1 k.a2)) 0)) ∧
      (k.code = 0x12 → cal = false → exec (.setParam t true cal) s = .next (ack v 1)) ∧
      (k.code = 0x13 → cal = true → k.plain = true →
        exec (.celCommit t true cal) s = .next (ack { v with cel := { v.cel with commit := true } } 0)) ∧
      (k.code = 0x14 → k.plain = true → exec (.celDiscard t true cal) s =
        .next (ack { v with cel := { v.cel with staged := [], commit := false } } 0))) ∧
    (∀ a b : State, u.cel.commit = true → u.cel.staged.all (fun y => u.celIdle (changeCh y)) = true →
      a = (u.cel.staged.foldl State.applyChange u).unstage →
      b = { a with cel := { a.cel with audit := (a.cel.audit + 1) % 2 ^ 32 } } → exec (.calChange t cal) s =
        .next (b.celRecord 5 0 cal b.cclk (b.celOther 0 (beBytes 4 b.paramCrc ++ beBytes 4 u.paramCrc) 0))) ∧
    exec (.calEnFall t) s = .next { u with cel := { u.cel with staged := [], commit := false } } ∧
    exec (.cellarReset t cal) s = .next (u.cellarReset cal) ∧
    (∀ w : Nat × Nat, u.cel.waiting = some w → w.2 + 10000000 ≤ u.raw → exec (.celCmdTimeout t) s =
      .next ((((({ u with cel := { u.cel with waiting := none } } : State).set0 Fd.CEL_CMD_STAT_STATE 3).bump
        Reg.CEL_CNTc [7]).raise Fd.CEL_EVT_CMD_FAIL))) ∧
    (∀ (start : Nat) (f : Nat × Bytes) (w : State), u.cel.flight = some f → w = { u with cel := { u.cel with flight := none } } →
      (w.operating = false → exec (.cellarRecordReceived t start true) s = .next w) ∧
      (w.operating = true → exec (.cellarRecordReceived t start true) s =
        .next ((w.symbol f.1 start).celHeard.celTake start f.1 f.2)) ∧
      (w.operating = true → exec (.cellarRecordReceived t start false) s =
        .next ((({ w with cel := { w.cel with crcGap := true } } : State).celCount 3).raise Fd.CEL_EVT_CRC_ERR)))

/-- R189 to R196, R198, R204, R207: the frame is read from the CTL queue of its protocol; one that arrives elsewhere
than on a ring or branch port, or with a wrong VERSION or SUBTYPE, is counted in CST_BAD_FRAME; a CALL of the present
round covers its port, one that is adopted is followed, one of a worse candidate than this node starts a round of its
own, any other is answered once by a REQ; a REQ is relayed once, waits in PENDING, and starts a head wait or a round of
the head; an ECHO of the round makes its port a child; an IDENT or a RESET is relayed once, as it came. No frame reaches CTL over a fabric-control link that is down. -/
def Obligations.ConsistFrames : Prop :=
  ∀ (t : Nat) (port : Fin 257) (p : Bytes) (s u : State), u = (s.clock t).ctlRead 0 port.val (payloadIs p) →
    ((s.clock t).ctlCut port.val = true → ∀ c ∈ [Instr.helloReceived t port p, .callReceived t port p,
      .reqReceived t port p, .echoReceived t port p, .commitReceived t port p, .identReceived t port p,
      .resetFrameReceived t port p], exec c s = .next (s.clock t)) ∧
    ((s.clock t).ctlCut port.val = false → u.sideOf port.val = none ∨ cfVersion p ≠ 1 → ∀ c ∈ [Instr.helloReceived t port p, .callReceived t port p,
      .reqReceived t port p, .echoReceived t port p, .commitReceived t port p, .identReceived t port p,
      .resetFrameReceived t port p], exec c s = .next (u.bump Reg.CST_BAD_FRAME)) ∧
    (∀ k : Nat, (s.clock t).ctlCut port.val = false → u.sideOf port.val = some k → cfVersion p = 1 →
      (∀ a b v : State, cfSubtype p = 4 → a = { u with cst := { u.cst with hello := Tab.set 0 u.cst.hello k (u.tickCount + 1) } } →
        b = (if u.fb Fd.ASD_CFG_PAIRED = true ∧ BitVec.ofNat 64 (beAt p 16 8) = u.rd64 Reg.ASD_PARTNER_LO Reg.ASD_PARTNER_HI then
          { a with asd := { a.asd with direct := some k } } else a) →
        v = (if (u.sidePort k).elim false u.linkUp = true then b.sideGoesUp k else b) →
        (v.cstState ≠ 3 → v.cstState ≠ 4 → exec (.helloReceived t port p) s = .next v) ∧
        (v.cstState = 3 ∨ v.cstState = 4 → (cfCand p ≠ v.committedHead ∨ beAt p 28 4 ≠ v.inaugNo →
            exec (.helloReceived t port p) s = .next v.trigger) ∧
          (cfCand p = v.committedHead → beAt p 28 4 = v.inaugNo → exec (.helloReceived t port p) s = .next v))) ∧
      (∀ r : CstRound, cfSubtype p = 1 → cfReq p = false → u.cstState = 1 ∨ u.cstState = 2 ∨ u.cstState = 4 →
        u.foreignSelf p = false → u.cst.round = some r →
        (sameRound r p = true → exec (.callReceived t port p) s = .next (u.resolvePort k .covered)) ∧
        (sameRound r p = false → u.adopts p = true → exec (.callReceived t port p) s = .next (u.adopt k p)) ∧
        (sameRound r p = false → u.adopts p = false →
          (better u.headPrio ownEui (cfPrio p) (cfCand p) = true →
            exec (.callReceived t port p) s = .next u.originate) ∧
          (better u.headPrio ownEui (cfPrio p) (cfCand p) = false →
            (r.answered = true → exec (.callReceived t port p) s = .next u) ∧
            (r.answered = false → exec (.callReceived t port p) s =
              .next ((u.setRound { r with answered := true }).sendSide k (u.reqFor r)))))) ∧
      (cfSubtype p = 1 → cfReq p = true → u.cstState ≠ 0 → ∀ (fresh : Bool) (v w : State),
        fresh = !u.cst.reqs.contains (cfNonce p) →
        v = (if fresh then ({ u with cst := { u.cst with reqs := (cfNonce p :: u.cst.reqs).take 16 } } : State).flood (some k) p
          else u) →
        w = (if fresh then v.startHeadWait else v) →
        (v.cstState = 3 → exec (.reqReceived t port p) s =
          .next { v with cst := { v.cst with calls := v.cst.calls ++ [(k, p, fresh)] } }) ∧
        (v.cstState ≠ 3 →
          (w.cstState = 4 → w.fb Fd.CST_STAT_HEAD = true → beAt p 24 4 = w.inaugNo →
            exec (.reqReceived t port p) s = .next w.originate) ∧
          (¬(w.cstState = 4 ∧ w.fb Fd.CST_STAT_HEAD = true ∧ beAt p 24 4 = w.inaugNo) →
            exec (.reqReceived t port p) s = .next w))) ∧
      (∀ r : CstRound, cfSubtype p = 2 → u.cstState ≠ 0 → u.foreignSelf p = false → u.cst.round = some r →
        (sameRound r p = true → exec (.echoReceived t port p) s = .next (u.resolvePort k (.child (echoOf p)))) ∧
        (sameRound r p = false → exec (.echoReceived t port p) s = .next u)) ∧
      (∀ r : CstRound, cfSubtype p = 3 → u.cstState ≠ 0 → u.foreignSelf p = false → u.cst.round = some r →
        (r.parent ≠ some k → exec (.commitReceived t port p) s = .next u) ∧
        (sameRound r p = true → r.parent = some k → r.phase = .echoed → ∃ w : State, ∃ c : CommitPlan,
          exec (.commitReceived t port p) s = .next w ∧ w.cst.plan = some c ∧
          c.pos = (if r.side = 0 then beAt p 24 4 + r.hop - 1 else beAt p 24 4 + beAt p 20 2 - r.hop) ∧
          c.inaug = beAt p 32 4 ∧ c.renum = beAt p 36 4 ∧ c.tick = beAt p 40 8 ∧ c.total = beAt p 100 4)) ∧
      (cfSubtype p = 5 → u.cstState ≠ 0 → ∀ (x : BitVec 64 × BitVec 32) (v : State),
        x = (BitVec.ofNat 64 (beAt p 16 8), BitVec.ofNat 32 (beAt p 24 4)) →
        v = (if x.1 = ownEui ∧ x.2 ≠ u.cst.nonce then u.identityConflict else u) →
        (v.cst.idents.contains x = true → exec (.identReceived t port p) s = .next v) ∧
        (v.cst.idents.contains x = false → exec (.identReceived t port p) s =
          .next { v with cst := { v.cst with idents := (x :: v.cst.idents).take 256, identQ := v.cst.identQ ++
            ((List.range 8).filter (fun j => j != k && (v.sidePort j).isSome)).map (fun j => (j, p)) } })) ∧
      (cfSubtype p = 6 → u.cstState ≠ 0 → ∀ x : BitVec 64 × Nat, x = (BitVec.ofNat 64 (beAt p 16 8), beAt p 24 8) →
        (u.cst.resets.contains x = true → exec (.resetFrameReceived t port p) s = .next u) ∧
        (u.cst.resets.contains x = false → exec (.resetFrameReceived t port p) s = .next
          ((({ u with cst := { u.cst with resets := x :: u.cst.resets } } : State).flood (some k) p).takeReset x.1 x.2))))

/-- R193, R200 to R202, R207: a commit applies at its instant (a node outside the numbering only loses its position); a
head wait ends; a round or a census fails; the two requests of CST_CMD. -/
def Obligations.ConsistTimers : Prop :=
  ∀ (t : Nat) (party : Party) (s u : State), u = s.clock t →
    (∀ c : CommitPlan, u.cst.plan = some c →
      (u.nowNs + c.diff < (c.base.toNat : Int) + c.tick * u.period → exec (.commitInstant t) s = .next u) ∧
      ((c.base.toNat : Int) + c.tick * u.period ≤ u.nowNs + c.diff →
        exec (.commitInstant t) s = .next (u.applyCommit c) ∧
        (c.out = true → exec (.commitInstant t) s =
          .next (({ u with cst := { u.cst with plan := none } } : State).set0 Fd.CST_STAT_POSITION 0)))) ∧
    (∀ w : Nat, u.cst.headWait = some w → w + (2 * u.period + 2000) ≤ u.raw →
      (u.cstState = 4 → exec (.headWaitExpiry t) s = .next u.originate) ∧
      (u.cstState ≠ 4 → exec (.headWaitExpiry t) s = .next { u with cst := { u.cst with headWait := none } })) ∧
    (∀ (r : CstRound) (a : Nat) (v : State), u.cst.round = some r → r.parent = some a → u.cstState = 1 ∨ u.cstState = 2 →
      r.since + (3 * u.period + 2000) ≤ u.raw → v = u.raise Fd.CST_EVT_ROUND_FAIL →
      (u.cst.numbered = true → exec (.roundFail t) s =
        .next ((({ v with cst := { v.cst with round := none } } : State).set0 Fd.CST_STAT_STATE 4).set0 Fd.CST_STAT_HEAD
          (b2n (u.cst.head == ownEui)))) ∧
      (u.cst.numbered = false → exec (.roundFail t) s = .next v.originate)) ∧
    (∀ (r : CstRound) (b : BitVec 64) (v w : State), u.cst.round = some r → r.parent = none → r.phase = .roll →
      u.cstState = 1 → u.cst.restart = false → r.since + (2 * u.period + 2000) ≤ u.raw →
      v = (u.bumpF Fd.CST_FAIL_CNT_FAILS).raise Fd.CST_EVT_ROUND_FAIL → v.tu.base = some b →
      w = { v with cst := { v.cst with fails := u.cst.fails + 1, restart := true } } →
      (u.cst.fails < 3 → exec (.censusTimeout t) s = .next w) ∧
      (3 ≤ u.cst.fails → exec (.censusTimeout t) s = .next w.assertErr)) ∧
    (∀ v : State, v = u.hostWrite party →
      (v.cstState = 4 → ∀ w : State, w = v.floodReq.startHeadWait →
        (v.fb Fd.CST_STAT_HEAD = false → exec (.cstInaug t party) s = .next w) ∧
        (v.fb Fd.CST_STAT_HEAD = true → exec (.cstInaug t party) s = .next w.originate)) ∧
      (v.cstState ≠ 4 → v.cstState ≠ 3 → exec (.cstInaug t party) s = .next v) ∧
      (v.cstState ≠ 4 → exec (.cstReset t party) s = .next (v.raise Fd.CST_EVT_ROUND_FAIL)) ∧
      (v.cstState = 4 → ∀ (a : BitVec 64) (n : Nat), a = v.rd64 Reg.CST_RST_LO Reg.CST_RST_HI → n = v.tu.tick + 2 →
        exec (.cstReset t party) s = .next ((({ v with cst := { v.cst with resets := (a, n) :: v.cst.resets } } : State).flood
          none (v.headFrame 6 (beBytes 8 a.toNat ++ beBytes 8 n))).takeReset a n)))

/-- R215 to R222, R377: CTL reads a pairing frame from its queue; one that is not below this module's EPOCH is heard,
and its records act. A mirror that finds no room, or whose FCS fails, is answered with a NACK; an ACK in time accepts
its item; a NACK refuses it with the later items of its stream; a withdrawn mirror is dropped; items whose write tick
has ended are refused; a FETCH is answered; the partner's log is kept; retries of the Gable MAC. -/
def Obligations.PairItems : Prop :=
  ∀ (t : Nat) (p r : Bytes) (s z u v : State), z = s.clock t → u = z.ctlRead 2 256 (payloadIs p) →
    v = ({ u with asd := { u.asd with heard := some u.tickCount, heardRaw := u.raw } } : State).set0 Fd.ASD_STAT_PARTNER 1 →
    (u.operating = true → u.gableLanes ≠ 0 → u.role ≠ 0 → byteAt p 1 % 16 = 1 → serialAfter 32 u.epoch (beAt p 4 4) = false →
      serialAfter 32 (beAt p 4 4) v.epoch = false → recordsOf p = [r] →
      (byteAt p 0 = 1 → v.role = 2 → beAt r 22 2 = 0 →
        (v.freeIn 4 256 0 < cellsOf (beAt r 8 2 % 16384) → exec (.mirrorReceived t p) s = .next (v.answer (beAt r 0 4) 1 0)) ∧
        (∀ a b : State, (v.mirrorBegin r) = (a, 0) → a.mirrorData r = (b, false) → exec (.mirrorReceived t p) s = .next b) ∧
        (∀ (a b : State) (h : Held), (v.mirrorBegin r) = (a, 0) → a.mirrorData r = (b, true) →
          b.asd.held.find? (fun h => h.mref == beAt r 0 4) = some h →
          (b.mirrorBad h = false → exec (.mirrorReceived t p) s =
            .next ((b.numberHeld (beAt r 0 4) true).1.answer (beAt r 0 4) 0 (b.numberHeld (beAt r 0 4) true).2)) ∧
          (b.mirrorBad h = true → ∀ d : State, d = b.drawFree.2 → exec (.mirrorReceived t p) s =
            .next ((({ d with asd := { d.asd with held := d.asd.held.filter (fun y => y.mref != beAt r 0 4) } } :
              State).dropHeld h).answer (beAt r 0 4) (1 + b.drawFree.1.toNat % 2) 0)))) ∧
      (∀ o : MirrorOut, byteAt p 0 = 2 → v.role = 1 → v.asd.out.find? (fun o => o.mref == beAt r 0 4) = some o →
        (byteAt r 4 = 0 → v.tu.tick ≤ o.wtick → exec (.ackReceived t p) s = .next (v.ackItem o (beAt r 6 2))) ∧
        (o.wtick < v.tu.tick → exec (.ackReceived t p) s = .next v) ∧
        (∀ late : List MirrorOut, byteAt r 4 ≠ 0 →
          late = (v.asd.out.dropWhile (fun x => x.mref != beAt r 0 4)).filter (fun x => x.key == o.key && x.sent) →
          exec (.nackReceived t p) s =
            .next ((v.asdCount 3).refuseOut (fun x => late.any (fun y => y.mref == x.mref))))) ∧
      (byteAt p 0 = 3 → v.role = 2 → beAt r 0 2 = 1 → exec (.withdrawReceived t p) s = .next (v.withdrawOne (beAt r 4 4)) ∧
        (∀ h : Held, v.asd.held.find? (fun h => h.mref == beAt r 4 4) = some h → h.seq = none →
          exec (.withdrawReceived t p) s = .next ((({ v with asd := { v.asd with
            held := v.asd.held.filter (fun x => x.mref != beAt r 4 4) } } : State).dropHeld h).asdCount 4))) ∧
      (byteAt p 0 = 9 → v.byMref (beAt r 0 4) = none → exec (.fetchReceived t p) s =
        .next ((v.pairSend 10 [v.mirrorCell {} (beAt r 0 4) 0 0 0 0 false true]).asdCount 10)) ∧
      (∀ d : Nat, byteAt p 0 = 10 → v.asd.fetching.contains (beAt r 0 4 + 1) = true → v.byMref (beAt r 0 4) = some d →
        bitAt (byteAt r 11) 2 = true → exec (.fetchDataReceived t p) s =
          .next (({ v with asd := { v.asd with fetching := v.asd.fetching.filter (fun x => x != beAt r 0 4 + 1) } } :
            State).losePoisoned d)) ∧
      (byteAt p 0 = 11 → exec (.logReceived t p) s =
        .next { v with evt := { v.evt with plog := (logOf r :: v.evt.plog).take 1024 } })) ∧
    (serialAfter 32 u.epoch (beAt p 4 4) = true → ∀ side : Bool, ∀ c ∈ [Instr.mirrorReceived t p, .ackReceived t p, .nackReceived t p,
      .withdrawReceived t p, .fetchReceived t p, .fetchDataReceived t p, .logReceived t p, .stateReceived t p,
      .tickEndReceived t p, .healthReceived t side p, .relinquishReceived t p, .handoverReceived t p, .resyncReceived t p],
      exec c s = .next u) ∧
    exec (.acceptanceDeadline t) s = .next (z.refuseOut (fun o => decide (o.wtick < z.tu.tick))) ∧
    (∀ (lane : Fin 2) (ok : Bool) (l : GableLane), l = z.gableLane lane.val →
      (bitAt (z.f Fd.ASD_STAT_GABLE) lane.val = false ∨ l.unacked = [] → exec (.gableMacRetry t lane ok) s = .next z) ∧
      (∀ x xs, bitAt (z.f Fd.ASD_STAT_GABLE) lane.val = true → l.unacked = x :: xs →
        exec (.gableMacRetry t lane true) s =
          .next ((z.setGableLane lane.val { l with unacked := xs, again := false, tries := 0 }).releaseCopy x.2.2) ∧
        (l.tries < 16 → exec (.gableMacRetry t lane false) s =
          .next (z.setGableLane lane.val { l with again := true, tries := l.tries + 1 })) ∧
        (16 ≤ l.tries → exec (.gableMacRetry t lane false) s = .next (z.portLost (256 + lane.val) 2))))

/-- R210, R225 to R227, R236 to R242: STATE records wait for the TICK_END of their tick; HEALTH, RELINQUISH, HANDOVER and
RESYNC; a lone module becomes duty after 16 ticks; the partner is declared lost or this module isolated; takeover; the
fences; a handover and its instant. -/
def Obligations.PairRoles : Prop :=
  ∀ (t : Nat) (side : Bool) (p r : Bytes) (party : Party) (s u x v : State), u = s.clock t → x = u.ctlRead 2 256 (payloadIs p) →
    v = ({ x with asd := { x.asd with heard := some x.tickCount, heardRaw := x.raw } } : State).set0 Fd.ASD_STAT_PARTNER 1 →
    (x.operating = true → x.gableLanes ≠ 0 → x.role ≠ 0 → byteAt p 1 % 16 = 1 → serialAfter 32 x.epoch (beAt p 4 4) = false →
      serialAfter 32 (beAt p 4 4) v.epoch = false → recordsOf p = [r] →
      (byteAt p 0 = 4 → v.role = 2 → exec (.stateReceived t p) s =
        .next (({ v with asd := { v.asd with recs := v.asd.recs ++ [(pfTick p, r)] } } : State).asdCount 5 (recordBytes [r]))) ∧
      (byteAt p 0 = 5 → v.role = 2 → exec (.tickEndReceived t p) s = .next (v.tickEnd r)) ∧
      (byteAt p 0 = 6 → exec (.healthReceived t side p) s = .next (v.health side r)) ∧
      (∀ n : Nat, byteAt p 0 = 7 → v.role = 2 → v.asd.takeover = none →
        n = (if v.tickPast (v.period - 1999) then v.tu.tick + 2 else v.tu.tick + 1) →
        exec (.relinquishReceived t p) s = .next { v with asd := { v.asd with takeover := some n } }) ∧
      (byteAt p 0 = 8 → v.role = 2 → exec (.handoverReceived t p) s = .next (({ v with asd := { v.asd with
        handover := some (beAt r 0 8, false) } } : State).set0 Fd.ASD_STAT_HANDOVER_PENDING 1)) ∧
      (byteAt p 0 = 12 → v.role = 2 → exec (.resyncReceived t p) s =
        .next (((if shadowRec r = true ∨ v.f Fd.ASD_STAT_RESYNC = 3 then v else v.set0 Fd.ASD_STAT_RESYNC 1).asdCount 15
          (recordBytes [r])).resyncRecord r))) ∧
    (∀ n : Nat, u.asd.waiting = some n → n + 16 ≤ u.tickCount → u.otherUp = true →
      exec (.dutyTimeout t) s = .next u.becomeDuty) ∧
    (∀ w : State, u.role = 2 → u.tke.staging = true → 2 ≤ u.f Fd.ASD_STAT_MISS → u.noDirectHello 1 = true →
      u.asd.takeover = none → w = u.raise Fd.ASD_EVT_PARTNER_LOST →
      (u.otherUp = true → exec (.partnerLost t) s =
        .next { w with asd := { w.asd with takeover := some (u.tu.tick + 1) } }) ∧
      (u.otherUp = false → u.fb Fd.ASD_STAT_ISOLATED = false → exec (.partnerLost t) s =
        .next ((u.set0 Fd.ASD_STAT_ISOLATED 1).raise Fd.ASD_EVT_ISOLATED))) ∧
    (∀ n : Nat, u.asd.takeover = some n → n ≤ u.tu.tick → u.role = 2 → exec (.takeover t) s =
      .next (((u.redundantDown.newDuty).asdCount 12).raise Fd.ASD_EVT_TAKEOVER)) ∧
    (∀ n : Nat, u.role = 1 → u.asd.roleTick + 3 ≤ u.tickCount → u.asd.health = some n → u.noDirectHello 2 = true →
      u.otherUp = false → (n + 3 ≤ u.tickCount → u.asd.otherTick + 3 ≤ u.tickCount →
        exec (.fenceTimeout t) s = .next ((u.fence.setRole 3).fbSilenceAll.uaHoldAll)) ∧
        (u.tickCount < n + 3 ∨ u.tickCount < u.asd.otherTick + 3 → exec (.fenceTimeout t) s = .next u)) ∧
    (∀ a : Nat, u.asd.linkDown = some a → u.role = 1 → a + u.period ≤ u.raw →
      exec (.fabricLinkDownFence t) s = .next ((u.fence.setRole 3).fbSilenceAll.uaHoldAll)) ∧
    (u.role = 1 → u.preferred = false → u.fb Fd.ASD_CFG_REVERT_EN = true → u.fb Fd.ASD_STAT_REDUNDANT = true →
      u.asd.handover = none → max 64 (u.f Fd.ASD_CFG_REVERT_HOLD) ≤ u.asd.redTicks →
      exec (.revertHoldExpiry t) s = .next (u.startHandover true)) ∧
    (∀ w : State, w = u.hostWrite party → w.asd.handover = none →
      (w.fb Fd.ASD_STAT_REDUNDANT = false →
        exec (.asdHandover t party) s = .next ((w.set0 Fd.ASD_CMD_STAT_STATE 3).set0 Fd.ASD_CMD_STAT_CODE 1)) ∧
      (w.fb Fd.ASD_STAT_REDUNDANT = true → w.role ≠ 1 →
        exec (.asdHandover t party) s = .next ((w.set0 Fd.ASD_CMD_STAT_STATE 3).set0 Fd.ASD_CMD_STAT_CODE 2)) ∧
      (w.fb Fd.ASD_STAT_REDUNDANT = true → w.role = 1 → exec (.asdHandover t party) s =
        .next (((w.set0 Fd.ASD_CMD_STAT_STATE 1).set0 Fd.ASD_CMD_STAT_CODE 0).startHandover false))) ∧
    (∀ (n : Nat) (auto : Bool) (w : State), u.asd.handover = some (n, auto) → n ≤ u.tu.tick →
      w = ({ u with asd := { u.asd with handover := none } } : State).set0 Fd.ASD_STAT_HANDOVER_PENDING 0 →
      (u.role = 2 → (u.asd.applied = some (n - 1) → exec (.handoverInstant t) s = .next w.newDuty.handoverDone) ∧
        (u.asd.applied ≠ some (n - 1) → exec (.handoverInstant t) s = .next w)) ∧
      (u.role = 1 → (u.asd.partnerEnd = some ((n - 1) % 2 ^ 32) → exec (.handoverInstant t) s = .next w.oldDuty) ∧
        (u.asd.partnerEnd ≠ some ((n - 1) % 2 ^ 32) → exec (.handoverInstant t) s = .next (w.handoverAbandoned auto))))

/-- R367, R379, R381: an upload begins (a new copy's header is erased first), takes bytes, and is committed only where
its CRC matches, the header last; a shadow package must name this node; an abort leaves no upload. A write of
CFG_SHR_DATA edits a shadow copy while OPEN is 1; an address without one is refused as a locked write. -/
def Obligations.Uploads : Prop :=
  ∀ (t : Nat) (party : Party) (stage : BitVec 8) (s u v : State), u = (s.clock t).hostWrite party →
    (∀ package : Bool, v = (u.set0 Fd.CFG_UPD_CTL_TARGET (b2n package)).set0 Fd.CFG_UPD_CTL_STAGE_S stage.toNat →
      (∀ w : State, w = { v with cfg := { v.cfg with upd := some { package := package, usb := false } } } →
        (package = true → exec (.cfgUpdStart t party package stage) s = .next (w.updState 1 0)) ∧
        (package = false → exec (.cfgUpdStart t party package stage) s =
          .next ((w.burn (copyBase v.spareCopy) (List.replicate 256 0xFF#8)).updState 1 0))) ∧
      (∀ (x : Upload) (h body : Bytes) (w : State), v.cfg.upd = some x → h = slice x.bytes 0 256 →
        body = (x.bytes.drop 256).take (hdrBody h) →
        w = ({ v with cfg := { v.cfg with upd := none } } : State).set0 Fd.HST_STAT_USB_UPLOAD 0 →
        (imageCrcOk h body = false → exec (.cfgUpdCommit t party package stage) s = .next (w.updState 3 1)) ∧
        (256 ≤ x.bytes.length → hdrBody h ≤ body.length → imageCrcOk h body = true →
          (x.package = false → exec (.cfgUpdCommit t party package stage) s =
            .next ((w.burn (copyBase v.spareCopy) h).updState 2 0)) ∧
          (x.package = true → nodeOk h = true → exec (.cfgUpdCommit t party package stage) s =
            .next ((w.loadPackage h body).updState 2 0)) ∧
          (x.package = true → nodeOk h = false →
            exec (.cfgUpdCommit t party package stage) s = .next (w.updState 3 2))) ∧
        exec (.cfgUpdAbort t party package stage) s = .next (w.updState 3 3)) ∧
      (v.cfg.upd = none → exec (.cfgUpdCommit t party package stage) s = .next v ∧
        exec (.cfgUpdAbort t party package stage) s = .next v)) ∧
    (∀ (x : Upload) (value : BitVec 32), u.cfg.upd = some x → x.package = true →
      exec (.cfgUpdData t party value) s =
        .next { u with cfg := { u.cfg with upd := some { x with bytes := x.bytes ++ leBytes 4 value.toNat } } }) ∧
    (∀ (x : Upload) (value : BitVec 32), u.cfg.upd = some x → x.package = false → 256 ≤ x.bytes.length →
      x.bytes.length + 4 ≤ 0x3000000 → exec (.cfgUpdData t party value) s =
        .next (({ u with cfg := { u.cfg with upd := some { x with bytes := x.bytes ++ leBytes 4 value.toNat } } } :
          State).burn (copyBase u.spareCopy + x.bytes.length) (leBytes 4 value.toNat))) ∧
    (∀ (value : BitVec 32) (a : Nat), a = 4 * u.f Fd.CFG_SHR_ADDR_ADDR →
      (u.fb Fd.CFG_SHR_ADDR_OPEN = false → exec (.cfgShrDataWrite t party value) s = .next u) ∧
      (u.fb Fd.CFG_SHR_ADDR_OPEN = true →
        (∀ x : BitVec 32, Tab.get none u.shd.regs a = some x → exec (.cfgShrDataWrite t party value) s =
          .next { u with shd := { u.shd with regs := Tab.set none u.shd.regs a (some value) } }) ∧
        (∀ x : BitVec 32, Tab.get none u.shd.regs a = none → Tab.get none u.shd.quiesce a = some x →
          exec (.cfgShrDataWrite t party value) s =
            .next { u with shd := { u.shd with quiesce := Tab.set none u.shd.quiesce a (some value) } }) ∧
        (Tab.get none u.shd.regs a = none → Tab.get none u.shd.quiesce a = none →
          exec (.cfgShrDataWrite t party value) s =
            .next ((u.bump Reg.GEN_LOCKED_CNT).logEvent 0x0080 (BitVec.ofNat 32 a)))))

/-- R380, R382 to R385: a swap request clears every OPEN bit and is refused, by the first cause, or taken for its checks;
a cancel; the end of the checks; the swap at its instant; a staged swap and its limit. -/
def Obligations.Swaps : Prop :=
  ∀ (t : Nat) (party : Party) (at_ : Bool) (s u v w : State), u = s.clock t → v = u.hostWrite party → w = v.closeAll →
    (∀ (k : SwapKind) (c : Instr), (c, k) ∈ [(Instr.swap t party at_, SwapKind.live), (.stagedSwap t party at_, .staged),
      (.swapRevert t party at_, .revert)] →
      (w.cfg.check.isSome = true ∨ w.cfg.pending.isSome = true ∨ w.cfg.stage.isSome = true →
        (w.fb Fd.POR_STAT_HOLDUP = true → exec c s = .next ((w.logEvent 0x0181 6).emit (.msix 1))) ∧
        (w.fb Fd.POR_STAT_HOLDUP = false → exec c s = .next ((w.logEvent 0x0181 7).emit (.msix 1)))) ∧
      (w.cfg.check = none → w.cfg.pending = none → w.cfg.stage = none → w.fb Fd.POR_STAT_HOLDUP = true →
        exec c s = .next (w.swapRefused 6)) ∧
      (w.fb Fd.POR_STAT_HOLDUP = false →
        (w.cfg.check = none → w.cfg.pending = none → w.cfg.stage = none →
          (2 ≤ w.role → exec c s = .next (w.swapRefused 8)) ∧
          (w.role < 2 → k = .revert → w.cfg.intact = false → exec c s = .next (w.swapRefused 9)) ∧
          (∀ r : SwapReq, r.kind = k → r.at_ = at_ → r.tick = (w.rd64 Reg.CFG_SWAP_TICK_LO Reg.CFG_SWAP_TICK_HI).toNat →
            r.since = w.raw → w.role < 2 → k ≠ .revert ∨ w.cfg.intact = true → exec c s =
            .next ((({ w with cfg := { w.cfg with check := some r } } : State).set0 Fd.CFG_SWAP_STAT_STATE 1).set0
              Fd.CFG_SWAP_STAT_CODE 0).sendShadow)))) ∧
    (∀ n : Nat, v.cfg.pending = some n →
      (v.tu.tick + 1 < n → exec (.swapCancel t party) s = .next (v.swapRefused 11)) ∧
      (n ≤ v.tu.tick → exec (.swapCancel t party) s = .next v)) ∧
    (∀ r : SwapReq, u.cfg.check = some r →
      (∀ c : Nat, u.swapCheck r = some c → exec (.swapCheckDone t) s = .next (u.swapRefused c)) ∧
      (u.swapCheck r = none → u.shadowSent = false → exec (.swapCheckDone t) s = .next u) ∧
      (u.swapCheck r = none → u.shadowSent = true → r.kind ≠ .staged → exec (.swapCheckDone t) s = .next (u.schedule r)) ∧
      (u.swapCheck r = none → u.shadowSent = true → r.kind = .staged → ∀ gs : List Nat,
        gs = mergeKeys ((u.shd.quiesce.filter u.differs).filterMap (fun e => groupOfAddr e.1)) [] →
        exec (.swapCheckDone t) s = .next (u.stageNext { req := r, since := u.raw, todo := gs }))) ∧
    (∀ (n : Nat) (b : BitVec 64), u.cfg.pending = some n → u.tu.base = some b →
      (n ≤ u.tu.tick → exec (.swapDone t) s = .next (u.regate State.doSwap)) ∧
      (u.tu.tick < n → u.role ≠ 2 → exec (.swapDone t) s = .next u)) ∧
    (∀ st : Stage, u.cfg.stage = some st →
      (st.group = none → exec (.stageGroupDone t) s = .next (u.stagePools st)) ∧
      (∀ g : Nat × BitVec 32, st.group = some g →
        ((u.groupPorts g.1).all (fun p => u.pst p == 6 || u.pst p == 7) = true → u.rd Reg.CST_INAUG ≠ g.2 →
          exec (.stageGroupDone t) s = .next (u.stageNext st)) ∧
        (u.rd Reg.CST_INAUG = g.2 → exec (.stageGroupDone t) s = .next u)) ∧
      (st.undo = none → ∀ n : Nat,
        n = (if u.f Fd.CFG_UPD_CTL_STAGE_S = 0 then 10 else u.f Fd.CFG_UPD_CTL_STAGE_S) →
        (st.since + n * 1000000000 ≤ u.raw → (∀ (g : Nat) (gs : List Nat), mergeKeys st.done [] = g :: gs →
            exec (.stageTmo t) s = .next (u.stageGroup { st with todo := gs, undo := some 10 } g)) ∧
          (st.done = [] → exec (.stageTmo t) s = .next (u.swapRefused 10))) ∧
        (u.raw < st.since + n * 1000000000 → exec (.stageTmo t) s = .next u)))

/-- R371, R373, R374, R376 to R378: a host STORE is taken, or refused as BUSY while another one runs or in hold-up; a
READ fills ATC_BUF; a STORE ends verified, WORN or with FAIL, a page before the host STORE that was written after it; a
block move costs a store cycle and yields to a STORE; the log writer stores a page of at most eight entries; LOG_FAIL is
written 0; reads capture a log entry or a trace record. -/
def Obligations.AtticLog : Prop :=
  ∀ (t : Nat) (party : Party) (slot : Fin 256) (s u v : State), u = s.clock t → v = u.hostWrite party →
    (v.cfg.store = none → v.fb Fd.POR_STAT_HOLDUP = false → exec (.atcStore t party slot) s =
      .next ((({ v with cfg := { v.cfg with store := some (slot.val, v.atcBuf, v.raw) } } : State).set0
        Fd.ATC_STAT_STATE 1).set0 Fd.ATC_STAT_CODE 0)) ∧
    (v.cfg.store = none → v.fb Fd.POR_STAT_HOLDUP = true →
      exec (.atcStore t party slot) s = .next ((v.set0 Fd.ATC_STAT_STATE 3).set0 Fd.ATC_STAT_CODE 1)) ∧
    (∀ x : Nat × Bytes × Nat, v.cfg.store = some x → exec (.atcStore t party slot) s = .next (v.set0 Fd.ATC_STAT_CODE 1)) ∧
    (∀ w : State, v.cfg.store = none →
      w = (List.range 64).foldl (fun s i => s.wr Reg.ATC_BUFi [i] ((wordsOf (v.slotBytes slot.val)).getD i 0)) v →
      w.cfg.store = none →
      (v.fio.linkDown.contains 1 = false →
        exec (.atcRead t party slot) s = .next ((w.set0 Fd.ATC_STAT_STATE 2).set0 Fd.ATC_STAT_CODE 0)) ∧
      (v.fio.linkDown.contains 1 = true →
        exec (.atcRead t party slot) s = .next ((v.set0 Fd.ATC_STAT_STATE 3).set0 Fd.ATC_STAT_CODE 3))) ∧
    (∀ x : Nat × Bytes × Nat, u.cfg.store = some x → u.evt.storing = none →
      (u.fio.linkDown.contains 1 = true → ∀ ok : Bool, exec (.storeDone t ok) s = .next (u.slotStored x.1 x.2.1 3)) ∧
      (u.fio.linkDown.contains 1 = false → u.freshBlock.2 < 100000 → exec (.storeDone t true) s = .next (u.wear.slotStored x.1 x.2.1 0) ∧
        exec (.storeDone t false) s = .next (u.wear.wear.wear.slotStored x.1 x.2.1 3)) ∧
      (u.fio.linkDown.contains 1 = false → 100000 ≤ u.freshBlock.2 → exec (.storeDone t true) s = .next (u.slotStored x.1 x.2.1 2))) ∧
    (∀ x : List (Nat × LogEntry) × Nat, u.evt.storing = some x →
      (u.fio.linkDown.contains 1 = false → u.freshBlock.2 < 100000 →
        exec (.storeDone t true) s = .next (u.wear.pageStored x.1 0) ∧
        exec (.storeDone t false) s = .next (u.wear.wear.wear.logFail)) ∧
      (u.fio.linkDown.contains 1 = true → ∀ ok : Bool, exec (.storeDone t ok) s = .next u.logFail)) ∧
    (u.storeBusy = true ∨ u.fb Fd.POR_STAT_HOLDUP = true → exec (.wearMove t) s = .next u) ∧
    (u.storeBusy = false → u.fb Fd.POR_STAT_HOLDUP = false → exec (.wearMove t) s = .next u.wear) ∧
    (u.pageDue = true → u.storeBusy = false → u.fb Fd.POR_STAT_HOLDUP = false → u.fb Fd.EVT_STAT_LOG_FAIL = false →
      500 ≤ u.bucketNow → u.evt.lostFlag = false → ∃ w : State, exec (.logPageStore t) s = .next w ∧
        w.evt.storing = some (u.evt.unst.reverse.take 8, u.raw) ∧
        w.evt.unst.reverse = u.evt.unst.reverse.drop 8 ∧ w.evt.bucket = u.bucketNow - 500) ∧
    (u.pageDue = false → exec (.logPageStore t) s = .next u) ∧
    exec (.logFailClear t party) s = .next (v.set0 Fd.EVT_STAT_LOG_FAIL 0) ∧
    (∀ (e : LogEntry) (w : State), u.selectedEntry = some e →
      w = { u with evt := { u.evt with cap := Tab.set [] u.evt.cap party.ix (wordsOf e.bytes) } } →
      exec (.evtReadCapture t party) s =
        .next (w.emit (.read party 0x40010 ((Tab.get [] w.evt.cap party.ix).getD 0 0)))) ∧
    (∀ (r : TraceRec) (w : State), u.trc.buf[u.f Fd.TRC_RD_IDX_INDEX]? = some r →
      w = { u with trc := { u.trc with cap := Tab.set [] u.trc.cap party.ix (wordsOf r.bytes) } } →
      exec (.trcReadCapture t party) s =
        .next (w.emit (.read party 0xD0210 ((Tab.get [] w.trc.cap party.ix).getD 0 0))))

/-- R388, R389, R391 to R396: the commands of POR_CMD and their refusals, the entry to a state and its completion, the
wake sources, a false wake, the awake limit, and the end of a mask cycle. A STAY in the cycle in which the awake limit
expires is NOT_ALLOWED, and sources of one cycle are recorded together. -/
def Obligations.PowerStates : Prop :=
  ∀ (t : Nat) (party : Party) (s u v : State), u = s.clock t → v = u.hostWrite party →
    (∀ (c : Instr) (k : Nat), (c, k) ∈ [(Instr.porListen t party, 3), (.porStandby t party, 2), (.porSleep t party, 1)] →
      (v.fb Fd.POR_STAT_HOLDUP = true → exec c s = .next (v.porRefused 1)) ∧
      (v.fb Fd.POR_STAT_HOLDUP = false → v.inTransition = true → exec c s = .next (v.porRefused 3)) ∧
      (v.fb Fd.POR_STAT_HOLDUP = false → v.inTransition = false → v.operating = false → exec c s = .next (v.porRefused 2)) ∧
      (v.fb Fd.POR_STAT_HOLDUP = false → v.inTransition = false → v.operating = true → v.f Fd.CFG_STAT_BOOT = 2 →
        exec c s = .next (((v.set0 Fd.POR_CMD_STAT_STATE 1).set0 Fd.POR_CMD_STAT_CODE 0).leaveTo k))) ∧
    (v.fb Fd.POR_STAT_HOLDUP = false → v.inTransition = false → v.operating = true → v.f Fd.CFG_STAT_BOOT = 2 →
      (v.fb Fd.POR_STAT_PROVISIONAL = true → v.awakeOver = false → v.por.backAt ≠ some v.wall → exec (.porStay t party) s =
        .next (((v.set0 Fd.POR_STAT_PROVISIONAL 0).set0 Fd.POR_CMD_STAT_STATE 2).set0 Fd.POR_CMD_STAT_CODE 0)) ∧
      (v.fb Fd.POR_STAT_PROVISIONAL = false → exec (.porStay t party) s = .next (v.porRefused 2))) ∧
    (v.fb Fd.POR_STAT_HOLDUP = false → v.awakeOver = true ∨ v.por.backAt = some v.wall →
      exec (.porStay t party) s = .next (v.porRefused 2)) ∧
    (∀ x : Nat × Nat, u.por.target = some x →
      (u.f Fd.POR_STAT_STATE ≠ x.1 → x.2 < u.tu.tick → exec (.stateEntry t) s = .next (u.enterState x.1)) ∧
      (u.f Fd.POR_STAT_STATE ≠ x.1 → exec (.stateReached t) s = .next u) ∧
      (∀ w : State, u.f Fd.POR_STAT_STATE = x.1 → x.1 = 2 ∨ x.1 = 3 → u.por.held = 0 → w = u.set0 Fd.POR_STAT_TRANS 0 →
        w.f Fd.POR_CMD_STAT_STATE ≠ 1 → ∀ y : Option Nat, y = (if x.1 = 3 then none else some w.wall) →
        exec (.stateReached t) s =
          .next { w with por := { w.por with target := none, held := 0, entered := w.wall, stay := y } })) ∧
    (∀ level : Bool,
      (level ≠ u.fb Fd.POR_SRCs_CFG_POL [0] → exec (.wakeInLevel t level) s = .next (u.wake 0)) ∧
      (level = u.fb Fd.POR_SRCs_CFG_POL [0] → exec (.wakeInLevel t level) s = .next u)) ∧
    (u.sourceWakes 1 = false → exec (.lwakeHigh t) s = .next u) ∧
    (u.sourceWakes 1 = true → u.por.target = none → u.por.waking = false → exec (.lwakeHigh t) s = .next (u.acceptWake 2)) ∧
    (u.sourceWakes 1 = true → u.por.target = none → u.por.waking = true →
      (u.por.wokeAt ≠ u.wall → exec (.lwakeHigh t) s = .next u) ∧
      (u.por.wokeAt = u.wall → ∀ m : Nat, m = u.por.srcs ||| 2 → exec (.lwakeHigh t) s = .next (({ u with por := { u.por with
        srcs := m, want := u.por.want ||| u.sourceInh 1 } } : State).set0 Fd.POR_STAT_WAKE_SRC m))) ∧
    (u.f Fd.POR_TIMER_SECONDS ≠ 0 → u.operating = false →
      u.por.entered + u.f Fd.POR_TIMER_SECONDS * 1000000000 ≤ u.wall → exec (.wakeTimer t) s = .next (u.wake 10)) ∧
    (u.f Fd.POR_TIMER_SECONDS = 0 → exec (.wakeTimer t) s = .next u) ∧
    (u.fb Fd.POR_STAT_PROVISIONAL = true → u.por.target = none →
      (u.por.qual = false → u.por.readyAt + u.f Fd.POR_CFG_FALSE_T * 100000000 ≤ u.wall → exec (.falseWake t) s =
        .next (((u.bump Reg.POR_FALSE_CNT).leaveTo u.por.from_).raise Fd.POR_EVT_FALSE_WAKE)) ∧
      (u.por.qual = true → exec (.falseWake t) s = .next u) ∧
      (∀ (n : Nat) (w : State), u.awakeLimit = some n → u.por.wokeAt + n * 1000000000 ≤ u.wall →
        w = (sourcesOf u.por.srcs).foldl (fun s k => s.sf Fd.POR_SRCs_CFG_MASKED [k] 1) u →
        exec (.awakeLimit t) s = .next (((({ w with por := { w.por with backAt := some u.wall } } : State).bump
          Reg.POR_FALSE_CNT).leaveTo w.por.from_).raise Fd.POR_EVT_AWAKE_LIMIT))) ∧
    (∀ w : Nat, u.por.stay = some w → w + u.f Fd.POR_CFG_CYCLE_S * 1000000000 ≤ u.wall → exec (.maskCycleEnd t) s =
      .next ((List.range 13).foldl (fun s k => s.sf Fd.POR_SRCs_CFG_MASKED [k] 0) u))

/-- R397 to R399, R402 to R404, R424, R425, R427, R428: hold-up begins and ends; the upstream monitor; the core voltage;
one INH line at a time; rails that do not come; the thermal warning; the loss of the retention RAM. -/
def Obligations.Supplies : Prop :=
  ∀ (t : Nat) (s u : State), u = s.clock t →
    (∀ v : State, u.fb Fd.POR_STAT_HOLDUP = false → v = { u with por := { u.por with warnAt := some (u.wall - 2000) } } →
      (u.operating = true → u.por.inReset = false → exec (.holdupStart t) s =
        .next (((v.set0 Fd.POR_STAT_HOLDUP 1).bump Reg.POR_HOLD_CNT).raise Fd.POR_EVT_HOLDUP_START)) ∧
      (u.f Fd.POR_STAT_STATE = 1 ∨ u.f Fd.POR_STAT_STATE = 2 → u.operating = false → exec (.holdupStart t) s = .next v)) ∧
    (u.fb Fd.POR_STAT_HOLDUP = true → exec (.holdupStart t) s = .next u ∧ exec (.holdupEnd t) s =
      .next (((u.wr Reg.POR_HOLD_LAST [] (BitVec.ofNat 32 u.holdUs)).set0 Fd.POR_STAT_HOLDUP 0).raise
        Fd.POR_EVT_HOLDUP_END)) ∧
    (u.fb Fd.POR_STAT_HOLDUP = false → exec (.holdupEnd t) s = .next u) ∧
    exec (.vmonLow t) s = .next ((({ u with por := { u.por with vmonLow := some u.wall } } : State).set0
      Fd.POR_STAT_VMON_LOW 1).raise Fd.POR_EVT_VMON_LOW) ∧
    exec (.vmonUp t) s = .next (((({ u with por := { u.por with vmonLow := none } } : State).set0
      Fd.POR_STAT_VMON_LOW 0).raise Fd.POR_EVT_VMON_UP).wake 11) ∧
    (∀ w : Nat, u.por.vmonLow = some w → u.fb Fd.POR_VMON_ACT = true → w + u.f Fd.POR_VMON_DLY * 1000000 ≤ u.wall →
      u.inTransition = false → u.f Fd.CFG_STAT_BOOT = 2 → u.operating = true → exec (.vmonAction t) s = .next (u.leaveTo 2)) ∧
    (u.por.vmonLow = none → exec (.vmonAction t) s = .next u) ∧
    (∀ (target : BitVec 10) (p v : State), p = u.regulatorPoll → v = p.avsCommand target.toNat →
      p.f Fd.POR_AVS_CFG_VMIN ≤ target.toNat → target.toNat ≤ p.f Fd.POR_AVS_CFG_VMAX →
      (v.fb Fd.POR_AVS_STAT_FREQ_WAIT = false → exec (.avsUpdate t target false) s = .next v) ∧
      exec (.avsUpdate t target true) s =
        .next (({ v with por := { v.por with avsAt := some v.wall } } : State).set0 Fd.POR_AVS_STAT_FREQ_WAIT 1)) ∧
    (∀ (target : BitVec 10) (p v : State), p = u.regulatorPoll → target.toNat < p.f Fd.POR_AVS_CFG_VMIN →
      v = (p.avsCommand (p.f Fd.POR_AVS_CFG_VMIN)).raise Fd.POR_EVT_AVS_CLIP → v.fb Fd.POR_AVS_STAT_FREQ_WAIT = false →
      exec (.avsUpdate t target false) s = .next v) ∧
    (∀ vout : BitVec 10, exec (.avsGood t vout) s = .next (((({ u with por := { u.por with avsAt := none } } : State).set0
      Fd.POR_AVS_STAT_VOUT vout.toNat).set0 Fd.POR_AVS_STAT_GOOD 1).set0 Fd.POR_AVS_STAT_FREQ_WAIT 0)) ∧
    exec (.avsFault t true) s = .next (u.raise Fd.POR_EVT_AVS_FAULT) ∧
    (∀ (w : Nat) (v : State), u.por.avsAt = some w → w + 5000000 ≤ u.wall →
      v = (u.raise Fd.POR_EVT_AVS_FAULT).assertErr.avsCommand (u.f Fd.POR_AVS_CFG_VMAX) →
      exec (.avsFault t false) s = .next { v with por := { v.por with avsAt := some v.wall } }) ∧
    (∀ (w k : Nat) (up : Bool), u.por.stepAt = some w → u.por.released = none →
      (u.wall < w + 2000000 → exec (.inhStep t) s = .next u) ∧
      (∀ v : State, w + 2000000 ≤ u.wall → u.inhNext = some (k, up) → v = u.setInh k up →
        (up = true → exec (.inhStep t) s = .next { v with por := { v.por with railsAt := some v.wall } }) ∧
        (up = false → exec (.inhStep t) s = .next v)) ∧
      (w + 2000000 ≤ u.wall → u.inhNext = none → exec (.inhStep t) s = .next u)) ∧
    (∀ (mask : BitVec 7) (w : Nat) (v : State), u.por.railsAt = some w → u.por.released = none →
      (w + 200000000 ≤ u.wall → mask ≠ 0 → v = ((List.range 4).filter (bitAt u.drawFree.2.por.inh)).foldl
          (fun s k => s.setInh k false) (u.drawFree.2.gaspEntry (freeCode u.drawFree.1) 0 mask.toNat) →
        u.drawFree.2.por.inh = u.por.inh → exec (.railTimeout t mask) s = .next { v with por := { v.por with
          railsOut := mask.toNat, railsAt := none, released := some v.wall } }) ∧
      (u.wall < w + 200000000 → exec (.railTimeout t mask) s = .next u)) ∧
    (∀ w : Nat, u.por.released = some w → w + 1000000000 ≤ u.wall →
      exec (.railRetry t) s = .next { u with por := { u.por with released := none, stepAt := none } }) ∧
    exec (.thermalWarning t) s = .next u.assertErr ∧
    exec (.belowRetentionLimit t) s = .next { u with gasp := [], por := { u.por with saved := [], seeds := none } }

/-- R15, R16, R207, R365, R368, R388, R401, R424 to R429, R441: every kind of reset and what each keeps (the command
queue, the memories outside the block, the Attic, the retention RAM), with RST_N and the Porch holding the reset until
its release; start-up from the copy that passes, or into the fenced safe state; a per-block reset; READY. -/
def Obligations.Resets : Prop :=
  ∀ (t : Nat) (party : Party) (mode : BitVec 2) (side : Bool) (s u : State), u = s.clock t →
    exec (.powerOnReset t) s = .next (u.afterReset true false false true) ∧
    exec (.rstNLow t) s = .next ((u.relinquish 2).afterReset false false true true) ∧
    (∀ v : State, v = u.hostWrite party → exec (.hostWarmReset t party mode side) s =
      .next (((v.relinquish 2).afterReset false false true false).startUp mode.toNat side)) ∧
    (∀ n : Nat, u.cst.resetAt = some n →
      (∀ b : BitVec 64, u.tu.base = some b → n ≤ u.tu.tick → exec (.consistCommandedReset t mode side) s =
        .next (((u.relinquish 2).afterReset false false true false).startUp mode.toNat side)) ∧
      (u.tu.tick < n → exec (.consistCommandedReset t mode side) s = .next u)) ∧
    (u.por.inReset = false → exec (.resetRelease t mode side) s = .next u) ∧
    (∀ (v : State) (cs : List Nat), u.por.inReset = true → u.f Fd.POR_STAT_STATE ≠ 1 → v = u.resetEnds mode.toNat side →
      cs = v.copyOrder mode.toNat none →
      (∀ c : Nat, cs.find? v.copyOk = some c → exec (.resetRelease t mode side) s =
        .next (v.loadCopy c (cs.head? != some c)).writeDies.startPorts.celKeyReq.gaspCopy) ∧
      (cs = [] → exec (.resetRelease t mode side) s =
        .next ((v.set0 Fd.CFG_STAT_FALLBACK 0).fencedSafe (if mode.toNat = 1 then 2 else 1)))) ∧
    (∀ (b : BitVec 8) (v : State), v = u.hostWrite party →
      (acceptsReset b.toNat = false → exec (.perBlockReset t party b) s = .next v) ∧
      (acceptsReset b.toNat = true → v.cfg.pending = none → v.cfg.check = none → exec (.perBlockReset t party b) s =
        .next (((v.blockClear b.toNat).closeBlock b.toNat).blockRuntime b.toNat))) ∧
    (∀ partner : Option PartnerSeen,
      (u.por.inReset = true ∨ u.calibrated = false → exec (.readyRise t partner) s = .next u) ∧
      (u.por.inReset = false → u.calibrated = true → u.f Fd.CFG_STAT_BOOT = 1 →
        (u.por.waking = false → exec (.readyRise t partner) s = .next (u.readyRise partner true).absentSupplies) ∧
        (u.por.waking = true → exec (.readyRise t partner) s = .next (u.woken.readyRise partner true).absentSupplies))) ∧
    exec (.vkaResetLevel t) s = .next (u.orderly 0 true) ∧
    (∀ mask : BitVec 7, mask ≠ 0 → u.f Fd.POR_STAT_STATE ≠ 1 → u.por.inReset = false →
      exec (.railFault t mask) s = .next (u.orderly mask.toNat false)) ∧
    (u.por.inReset = false → exec (.thermalReset t) s = .next (u.orderly 0 false)) ∧
    (u.por.inReset = true → exec (.thermalReset t) s = .next u) ∧
    (∀ (off sleep rws hold : Bool) (v : State), v = u.afterReset off sleep rws hold →
      v.pending = u.pending ∧ v.wall = u.wall ∧ v.gasp = u.gasp ∧ v.boots = u.boots + 1 ∧ v.cfg.xspi = u.cfg.xspi ∧
      v.cfg.slots = u.cfg.slots ∧ v.cfg.log = u.cfg.log ∧ v.ready = false ∧ v.tke = {} ∧ v.ldr = {} ∧ v.tu = {})

/-- R10 to R13, R316, R405, R420, R421: an access of an address without a register reads 0 and writes nothing; a write
acts by the command of its register, or stores what the access types let it (a sealed field is refused, counted and
logged); the lower word of a written pair waits for its upper word, and both are stored together; a read of a lower word
captures the upper one for the party, or returns the value it was itself captured with; PCIe and the management cluster
clear RC fields, the other parties do not. -/
def Obligations.RegisterAccess : Prop :=
  ∀ (t : Nat) (party : Party) (addr : BitVec 26) (value : BitVec 32) (en : BitVec 4) (s u v z : State) (a : Nat),
    u = s.clock t → v = u.hostWrite party → a = wordAddr addr → z = v.serve party a →
    (v.reaches a = false → exec (.registerWrite t party addr value en) s = .next v) ∧
    (u.reaches a = false → ∀ c : Instr, c = .rcRead t party addr ∨ c = .lowWordCapture t party addr →
      exec c s = .next (u.drawFree.2.emit (.read party a (BitVec.ofNat 32 u.drawFree.1.toNat)))) ∧
    (regAt a = none → a < 0xF0000 ∨ 0xF8000 ≤ a ∧ a < 0x420000 ∨ 0xD80000 ≤ a →
      exec (.registerWrite t party addr value en) s = .next v ∧
      (u.reaches a = true → exec (.rcRead t party addr) s = .next (u.emit (.read party a 0)))) ∧
    (∀ (r : RegDesc) (ix : List Nat) (w : BitVec 32), v.reaches a = true → regAt a = some (r, ix) → w = v.enabledWord r ix (byteMask en) value →
      (∀ x : State, z.commandWrite party r ix a w = some x → exec (.registerWrite t party addr value en) s = .next x) ∧
      (z.commandWrite party r ix a w = none →
        (v.superseded party a = true → v.lockedAt a = false → exec (.registerWrite t party addr value en) s =
          .next (z.wr r ix (z.rd r ix &&& ~~~(w &&& BitVec.ofNat 32 (w1cMask r))))) ∧
        (v.lockedAt a = true → exec (.registerWrite t party addr value en) s =
          .next (((z.wr r ix (writtenWord r true (z.rd r ix) w)).bump Reg.GEN_LOCKED_CNT).logEvent 0x0080
            (BitVec.ofNat 32 a))) ∧
        (v.superseded party a = false → v.lockedAt a = false → r ∈ writtenPairs → exec (.registerWrite t party addr value en) s =
          .next { z with pairLow := Tab.set none z.pairLow (partyKey party a) (some w) }) ∧
        (v.superseded party a = false → v.lockedAt a = false → writtenPairs.any r.is = false →
          (writtenPairs.all (fun q => q.base + 4 != r.base) = true →
            exec (.registerWrite t party addr value en) s = .next (z.wr r ix (writtenWord r false (z.rd r ix) w))) ∧
          (∀ (q : RegDesc) (lo : BitVec 32), q ∈ writtenPairs → q.base + 4 = r.base →
            Tab.get none z.pairLow (partyKey party (a - 4)) = some lo → ∀ y : State,
            y = z.wr r ix (writtenWord r false (z.rd r ix) w) → exec (.registerWrite t party addr value en) s =
            .next (({ y with pairLow := Tab.set none z.pairLow (partyKey party (a - 4)) none } : State).wr q ix lo))))) ∧
    (∀ (r : RegDesc) (ix : List Nat), u.reaches a = true → regAt a = some (r, ix) → r ∈ lowWords →
      (∀ x y : State, u.captured party a = none → x = u.capture party (a + 4) (u.busWord party (a + 4)) →
        x.captured party a = none → y = x.dropCapture party a → exec (.lowWordCapture t party addr) s =
        .next ((if partyTakes party then y.wr r ix (clearRc r (y.rd r ix)) else y).emit (.read party a (x.busWord party a)))) ∧
      (∀ (c : BitVec 32) (y : State), u.captured party a = some c → y = u.dropCapture party a →
        exec (.lowWordCapture t party addr) s =
        .next ((if partyTakes party then y.wr r ix (clearRc r (y.rd r ix)) else y).emit (.read party a c)))) ∧
    (∀ (r : RegDesc) (ix : List Nat), u.reaches a = true → regAt a = some (r, ix) →
      r ∈ [Reg.CST_FAIL_CNT, Reg.CST_BAD_FRAME, Reg.CST_ROUNDS, Reg.ASD_LEASE_CNT, Reg.POR_HOLD_CNT, Reg.GEN_LOCKED_CNT] →
      u.captured party a = none → ∀ y : State, y = u.dropCapture party a →
      (partyTakes party = true → exec (.rcRead t party addr) s =
        .next ((y.wr r ix (clearRc r (y.rd r ix))).emit (.read party a (u.busWord party a)))) ∧
      (partyTakes party = false → exec (.rcRead t party addr) s = .next (y.emit (.read party a (u.busWord party a))))) ∧
    (∀ (x : Txn) (c : Nat) (bs : Bytes) (y : State), u.nextUnit 9 = some x → u.regOp .bridge x.req = (c, bs, y) →
      exec (.regRead t) s = .next (y.finish x c bs)) ∧
    (∀ (x : Txn) (c : Nat) (bs : Bytes) (y : State), u.nextUnit 10 = some x → u.regOp .bridge x.req = (c, bs, y) →
      exec (.regWrite t) s = .next (y.finish x c))

/-- R406 to R410: TAIL posts as many descriptors as it moves on, and renews the lease; a read of HEAD returns it and
renews the lease; an enabled ring starts again from HEAD; the first posted descriptor of an enabled ring takes the next
part of the item that is partly read (the bytes its listener delivers, R264), or else of the item at the head of the queue, or gives its buffer's bytes to the
item from the host; a buffer of length 0 or an item beyond 10,240 bytes is in error. -/
def Obligations.HostQueues : Prop :=
  ∀ (t : Nat) (queue : Fin 2048) (s u : State) (k : Nat) (r : Ring), u = s.clock t → k = queue.val → r = u.ring k →
    (∀ (tail : BitVec 15) (ds : List HostDesc),
      (r.sized = true → tail.toNat < 2 ^ r.size → ds.length = (tail.toNat + 2 ^ r.size - r.tail) % 2 ^ r.size →
        exec (.tailWrite t queue tail ds) s =
          .next (u.setRing k { r with tail := tail.toNat, posted := r.posted ++ ds, lease := u.strobes })) ∧
      (r.sized = false → exec (.tailWrite t queue tail ds) s = .next u)) ∧
    exec (.headRead t queue) s = .next ((u.setRing k { r with lease := u.strobes }).emit (.window k 16 (BitVec.ofNat 32 r.head))) ∧
    (∀ lo hi cfg : BitVec 32, bits cfg.toNat 3 0 = r.size →
      (bitAt cfg.toNat 31 = true → exec (.ringEnable t queue lo hi cfg) s = .next ((u.dropRead k).setRing k { r with
        lo := lo, hi := hi, en := true, stopped := false, off := 0, cur := none, acc := [], waiting := false, lease := u.strobes })) ∧
      (bitAt cfg.toNat 31 = false → exec (.ringEnable t queue lo hi cfg) s =
        .next (u.setRing k { r with lo := lo, hi := hi, en := false }))) ∧
    (∀ ecc : Ecc, r.posted = [] ∨ r.en = false → exec (.descriptorComplete ⟨t, ecc⟩ queue) s = .next u) ∧
    (∀ (d : HostDesc) (ds : List HostDesc) (ecc : Ecc), r.posted = d :: ds → r.en = true → r.sized = true →
      (u.fb Fd.HST_Qs_CFG_DIR [k] = false →
        (∀ (c : Nat) (i : Item) (bs part : Bytes) (x : DescInfo) (v w : State), r.cur.or (u.serviceHead (2048 + k)) = some c →
          d.len ≠ 0 → v = (u.own (2048 + k)).readItem c ecc → i = v.item c →
          (bs, w) = (if r.cur.isSome then (r.acc, v) else v.hostBytes (2048 + k) i) →
          part = bs.take d.len → x.status = 0 → x.len = part.length → x.seq = i.seq →
          x.stream = i.stream → x.stamp = i.stamp / 2 ^ 32 → x.bytes = part →
          (d.len < bs.length → x.flags = 1 + 4 * b2n (!i.poison.isEmpty) + 8 * b2n i.seqValid →
            ∀ y : State, y = w.startEntry (2048 + k) c → exec (.descriptorComplete ⟨t, ecc⟩ queue) s =
              .next ((y.setRing k { y.ring k with off := r.off + part.length, cur := some c, acc := bs.drop d.len }).writeBack
                k x)) ∧
          (bs.length ≤ d.len → x.flags = 3 + 4 * b2n (!i.poison.isEmpty) + 8 * b2n i.seqValid →
            ∀ y : State, y = ((w.removeEntry (2048 + k) c).releaseCopy c).hostDelivered i (2048 + k) →
            exec (.descriptorComplete ⟨t, ecc⟩ queue) s =
              .next ((y.setRing k { y.ring k with off := 0, cur := none, acc := [] }).writeBack k x))) ∧
        (∀ c : Nat, r.cur.or (u.serviceHead (2048 + k)) = some c → d.len = 0 →
          exec (.descriptorComplete ⟨t, ecc⟩ queue) s = .next (u.writeBack k { status := 3 })) ∧
        (r.cur = none → u.serviceHead (2048 + k) = none → exec (.descriptorComplete ⟨t, ecc⟩ queue) s = .next u)) ∧
      (u.fb Fd.HST_Qs_CFG_DIR [k] = true → r.waiting = false →
        (r.off = 0 → d.len ≠ 0 → r.acc.length + d.len ≤ 10240 → d.last = false →
          exec (.descriptorComplete ⟨t, ecc⟩ queue) s =
            .next ((u.setRing k { r with acc := r.acc ++ d.data.take d.len }).writeBack k { len := d.len })) ∧
        (r.off ≠ 0 ∨ d.len = 0 ∨ 10240 < r.acc.length + d.len → exec (.descriptorComplete ⟨t, ecc⟩ queue) s =
          .next ((u.setRing k { r with acc := [], off := b2n (!d.last) }).writeBack k
            { status := 3, flags := 1 + 2 * b2n d.last }))))

/-- R411 to R413: USB register requests within their limits read a snapshot or write, others stall; the image requests and
EP1; a bus reset; ARP and ICMP echo for the port's address; a register datagram from a permitted source. -/
def Obligations.Services : Prop :=
  ∀ (t : Nat) (s u : State), u = s.clock t →
    (∀ (addr : BitVec 32) (len : BitVec 16),
      (usbLimits addr.toNat len.toNat = true → exec (.usbRegRead t addr len) s =
        .next ((u.snapshot .usb addr.toNat (len.toNat / 4)).2.emit (.usb (u.snapshot .usb addr.toNat (len.toNat / 4)).1))) ∧
      (usbLimits addr.toNat len.toNat = false → exec (.usbRegRead t addr len) s = .next (u.emit .usbStall))) ∧
    (∀ (addr : BitVec 32) (data : Bytes),
      (usbLimits addr.toNat data.length = true →
        exec (.usbRegWrite t addr data) s = .next (u.writeWords .usb addr.toNat (wordsOf data))) ∧
      (usbLimits addr.toNat data.length = false → exec (.usbRegWrite t addr data) s = .next (u.emit .usbStall))) ∧
    (∀ target : BitVec 16, exec (.imgStart t target 0) s =
      .next ((u.set0 Fd.CFG_UPD_CTL_TARGET target.toNat).updStart (bitAt target.toNat 0) true).usbUpload) ∧
    exec (.imgCommit t 0) s = .next u.updCommit ∧ exec (.imgAbort t 0) s = .next u.updAbort ∧
    (∀ (target len : BitVec 16), len ≠ 0 → exec (.imgStart t target len) s = .next (u.emit .usbStall) ∧
      exec (.imgCommit t len) s = .next (u.emit .usbStall) ∧ exec (.imgAbort t len) s = .next (u.emit .usbStall)) ∧
    (∀ (a b : BitVec 32) (x y : State), u.readReg .usb true Reg.CFG_UPD_STAT.base = (a, x) →
      x.readReg .usb true Reg.HST_STAT.base = (b, y) → exec (.usbStatus t 8) s = .next (y.emit (.usb [a, b]))) ∧
    (∀ len : BitVec 16, len ≠ 8 → exec (.usbStatus t len) s = .next (u.emit .usbStall)) ∧
    (∀ data : Bytes, u.cfg.upd = none → exec (.ep1Data t data) s = .next u ∧ exec (.usbBusReset t) s = .next u) ∧
    (∀ (x : Upload) (v : State) (data : Bytes), u.cfg.upd = some x →
      (v = ({ u with cfg := { u.cfg with upd := some { x with usb := true } } } : State).set0 Fd.HST_STAT_USB_UPLOAD 1 →
        exec (.ep1Data t data) s = .next (v.updData data)) ∧
      (x.usb = true → exec (.usbBusReset t) s = .next u.updAbort) ∧
      (x.usb = false → exec (.usbBusReset t) s = .next u)) ∧
    (∀ (mac : BitVec 48) (sender target : BitVec 32),
      (target = u.mgtIp → exec (.arpRequest t mac sender target) s = .next (u.emit (.arpReply mac sender))) ∧
      (target ≠ u.mgtIp → exec (.arpRequest t mac sender target) s = .next u)) ∧
    (∀ (src dst : BitVec 32) (id_ n : BitVec 16) (data : Bytes),
      (dst = u.mgtIp → exec (.icmpEcho t src dst id_ n data) s =
        .next (u.emit (.icmpReply src id_.toNat n.toNat data))) ∧
      (dst ≠ u.mgtIp → exec (.icmpEcho t src dst id_ n data) s = .next u)) ∧
    (∀ (src dst : BitVec 32) (p : Bytes),
      (dst ≠ u.mgtIp ∨ u.mgtPermits src = false ∨ p.length < 16 → exec (.mgtRegisterRequest t src dst p) s = .next u) ∧
      (∀ v : State, dst = u.mgtIp → u.mgtPermits src = true → 16 ≤ p.length → u.mgtTake = (true, v) →
        exec (.mgtRegisterRequest t src dst p) s = .next (v.mgtServe src p)))

/-- R416: the instructions of the test access port. BYPASS, IDCODE and SAMPLE/PRELOAD drive no ball; EXTEST, EXTEST_PULSE,
EXTEST_TRAIN, CLAMP and HIGHZ act on the balls while BOOT_MODE is 1h, and select the bypass register otherwise. -/
def Obligations.TestAccess : Prop :=
  ∀ (t : Nat) (levels tdi : List Bool) (s u v : State), u = s.clock t →
    v = { u with hst := { u.hst with driven := none, floating := false } } →
    exec (.bypass t tdi) s = .next (v.bypass .bypass tdi) ∧
    exec (.idcode t) s = .next (({ v with hst := { v.hst with jtag := .idcode } } : State).emit
      (.tdo ((List.range 32).map (bitAt 0x1A5604D3)))) ∧
    exec (.samplePreload t levels tdi) s =
      .next (({ v with hst := { v.hst with jtag := .sample, cells := tdi } } : State).emit (.tdo levels)) ∧
    (∀ (c : Instr) (j : Jtag), (c, j) ∈ [(Instr.extest t levels tdi, Jtag.extest), (.extestPulse t levels tdi, .pulse),
      (.extestTrain t levels tdi, .train)] →
      (u.mayDrive = false → exec c s = .next (v.bypass .bypass tdi)) ∧
      (u.mayDrive = true → ∀ w : State, w = u.emit (.balls j u.hst.cells) → exec c s =
        .next (((({ w with hst := { w.hst with jtag := j, cells := tdi } } : State).balls (some tdi) false).emit
          (.tdo levels)).emit (.balls j tdi)))) ∧
    (u.mayDrive = true →
      exec (.clamp t tdi) s = .next (((u.balls (some u.hst.cells) false).emit (.balls .clamp u.hst.cells)).bypass .clamp tdi) ∧
      exec (.highz t tdi) s = .next (((u.balls none true).emit (.balls .highz [])).bypass .highz tdi)) ∧
    (u.mayDrive = false → exec (.clamp t tdi) s = .next (v.bypass .bypass tdi) ∧
      exec (.highz t tdi) s = .next (v.bypass .bypass tdi))

/-- A step takes the command at the front of the queue and is its exec on the state with the rest of the queue. -/
def Obligations.StepRunsFront : Prop :=
  ∀ (c : Instr) (cs : List Instr) (s : State), s.pending = c :: cs → step s = exec c { s with pending := cs }

/-- R74: with no command waiting, one period of TCLK passes, and nothing else changes. That a step on an empty queue is
one such period is the model's choice (log entry 1). -/
def Obligations.IdleTick : Prop :=
  ∀ s : State, s.pending = [] → step s = .next { s with raw := s.raw + 1, wall := s.wall + 1 }

/-- R13, R15, R74, R368: the state right after power-on reset: no command waits, the raw counter is 0, every register of
the map holds its reset value, the reset is held with READY low, no voter channel runs, and no image byte has been
written; the stores are in order. -/
def Obligations.ResetState : Prop :=
  State.reset.pending = [] ∧ State.reset.raw = 0 ∧ (∀ (r : RegDesc) (ix : List Nat), State.reset.rd r ix = r.reset) ∧
    State.reset.por.inReset = true ∧ State.reset.ready = false ∧ (∀ c : Fin 3, (State.reset.chan c).phase = .idle) ∧
    (∀ a : Nat, Tab.get 0xFF#8 State.reset.cfg.xspi a = 0xFF#8) ∧ State.reset.Sound

/-- R365, Table CFG-1: which image copies are tried and in which order. BOOT_MODE 1h tries none, 2h copy 0 and 3h copy 1
alone; 0h tries the valid header with the higher SEQ first, in serial-number arithmetic, and copy 0 where the difference
is exactly 2^31. Only a copy with a valid header is tried; a wake from Sleep tries the copy of the seeds first. -/
def Obligations.BootChoice : Prop :=
  ∀ (s : State) (seed : Option Nat), s.copyOrder 1 seed = [] ∧
    (∀ c : Nat, c < 2 → s.copyOrder (c + 2) seed = if hdrOk (s.copyHeader c) then [c] else []) ∧
    (hdrOk (s.copyHeader 0) = true → hdrOk (s.copyHeader 1) = true →
      ∀ d : Nat, d = (hdrSeq (s.copyHeader 1) + 2 ^ 32 - hdrSeq (s.copyHeader 0)) % 2 ^ 32 →
        (0 < d → d < 2 ^ 31 → s.copyOrder 0 none = [1, 0]) ∧ (d = 0 ∨ 2 ^ 31 ≤ d → s.copyOrder 0 none = [0, 1]) ∧
        s.copyOrder 0 (some 0) = [0, 1] ∧ s.copyOrder 0 (some 1) = [1, 0]) ∧
    (∀ c : Nat, c < 2 → hdrOk (s.copyHeader c) = true → hdrOk (s.copyHeader (1 - c)) = false →
      s.copyOrder 0 none = [c] ∧ s.copyOrder 0 (some 0) = [c] ∧ s.copyOrder 0 (some 1) = [c])

/-- R420: at an address outside the ranges of the blocks, the unmapped ranges among them, a read by any party returns 0
and changes nothing, a write has no effect, and a request over the bridge or the MGT port completes with status OK. -/
def Obligations.UnmappedAccess : Prop :=
  (∀ a : Nat, 0x128000 ≤ a ∧ a < 0x130000 ∨ 0x150000 ≤ a ∧ a < 0x200000 ∨ 0x1800000 ≤ a → regAt a = none ∧ ∀ s : State, s.reaches a = true) ∧
  ∀ (p : Party) (a : Nat) (s : State), regAt a = none → a < 0xF0000 ∨ 0xF8000 ≤ a ∧ a < 0x420000 ∨ 0xD80000 ≤ a →
    (s.reaches a = true → ∀ snap : Bool, s.readReg p snap a = (0, s)) ∧ (∀ en v : BitVec 32, s.writeReg p a en v = s) ∧
    (∀ r : Request, r.addr = a → r.op = 9 → r.rlen = 4 → s.reaches a = true → s.regOp p r = (0, [0, 0, 0, 0], s)) ∧
    (∀ r : Request, r.addr = a → r.op = 10 → r.wdata.length = 4 → s.regOp p r = (0, [], s))

/-- R12: a read of the lower word of a 64-bit pair by one party captures the upper word for that party (where the lower
word was itself captured with its upper word, as by TU_NOW_FRAC, the capture stands); the next read of the upper word by
that party returns the captured value, whatever the upper word has become, and spends the capture; no read by another
party touches it. A write of the lower word of a pair that is written waits, and the write of the upper word by the same
party stores all 64 bits at once; the word at the lower address holds bits [31:0]. -/
def Obligations.PairReads : Prop :=
  ∀ (p : Party) (snap : Bool) (s : State) (a : Nat) (r : RegDesc) (ix : List Nat), s.Stored → regAt a = some (r, ix) →
    (s.reaches a = true → r ∈ lowWords → s.captured p a = none → (s.readReg p snap a).2.captured p (a + 4) = some (s.busWord p (a + 4))) ∧
    (∀ v : BitVec 32, s.reaches a = true → s.captured p a = some v →
      r ∉ [Reg.TU_NOW_FRAC, Reg.TU_OFS_FRAC, Reg.TU_RATE_LO, Reg.CFG_BIST, Reg.PGn_Ll_PRBS_ERR, Reg.PGn_Ll_STAT,
        Reg.ASD_Gg_LSTAT, Reg.HST_STAT, Reg.EVT_RD_DATAi, Reg.TRC_RD_DATAi] →
      (s.readReg p snap a).1 = v ∧ (s.readReg p snap a).2.captured p a = none) ∧
    (∀ (q : Party) (b : Nat), q ≠ p → (s.readReg p snap a).2.captured q b = s.captured q b) ∧
    (∀ (lo hi : BitVec 32) (q : RegDesc) (t u : State), r ∈ writtenPairs → s.lockedAt a = false → s.lockedAt (a + 4) = false →
      regAt (a + 4) = some (q, ix) → q.base = r.base + 4 → t = s.plainWrite p r ix a lo →
      u = t.plainWrite p q ix (a + 4) hi →
      t.regs = s.regs ∧ u.rd r ix = lo ∧ u.rd q ix = writtenWord q false (s.rd q ix) hi ∧
      u.rd64 r q ix = BitVec.ofNat 64 ((writtenWord q false (s.rd q ix) hi).toNat * 2 ^ 32 + lo.toNat))

/-- R78: a read of TU_NOW_FRAC captures raw and all 96 bits of the reading for its party, a read of TU_OFS_FRAC the rest
of OFFSET, and a read of TU_RATE_LO the rest of RATE; the next reads of the other words by that party return what was
captured, and reads by other parties leave the captures alone. -/
def Obligations.NowCaptures : Prop :=
  ∀ (p : Party) (snap : Bool) (s : State), s.Stored →
    (∀ t : State, t = (s.readReg p snap Reg.TU_NOW_FRAC.base).2 →
      t.captured p Reg.TU_NOW_LO.base = some (wordAt (s.readingAt s.raw) 1) ∧
      t.captured p Reg.TU_NOW_HI.base = some (wordAt (s.readingAt s.raw) 2) ∧
      t.captured p Reg.TU_RAW_LO.base = some (wordAt s.raw 0) ∧ t.captured p Reg.TU_RAW_HI.base = some (wordAt s.raw 1)) ∧
    (∀ t : State, t = (s.readReg p snap Reg.TU_OFS_FRAC.base).2 →
      t.captured p Reg.TU_OFS_LO.base = some (wordAt (pairAt s.tu.pairs s.raw).ofs.toNat 1) ∧
      t.captured p Reg.TU_OFS_HI.base = some (wordAt (pairAt s.tu.pairs s.raw).ofs.toNat 2)) ∧
    (s.readReg p snap Reg.TU_RATE_LO.base).2.captured p Reg.TU_RATE_HI.base = some (BitVec.ofInt 32 (s.rateNow / 2 ^ 32)) ∧
    (∀ (r : RegDesc) (v : BitVec 32), r ∈ [Reg.TU_NOW_LO, Reg.TU_NOW_HI, Reg.TU_RAW_LO, Reg.TU_RAW_HI, Reg.TU_OFS_LO,
        Reg.TU_OFS_HI, Reg.TU_RATE_HI] → s.captured p r.base = some v → (s.readReg p snap r.base).1 = v) ∧
    (∀ (a : Nat) (q : Party) (b : Nat), q ≠ p → (s.readReg p snap a).2.captured q b = s.captured q b)

/-- R75: the reading under RATE and OFFSET is raw + (raw × RATE) / 2^48 + OFFSET modulo 2^64 ns, in units of 2^-32 ns,
with the exact product rounded down; the servo's RATE stays within 250 ppm of 0, and a correction beyond that is clipped
and sets TU_EVT.SERVO_LIMIT. -/
def Obligations.TimeReading : Prop :=
  (∀ (p : TimePair) (raw : Nat), (readingOf p raw : Int) =
    ((raw : Int) * 2 ^ 48 + raw * p.rate.toInt + p.ofs.toNat * 2 ^ 16) / 2 ^ 16 % 2 ^ 96) ∧
  (∀ (s : State) (rate : Int) (e : Nat), s.Stored → ∃ (p : TimePair) (ps : List TimePair),
    (s.setRate rate e).tu.pairs = p :: ps ∧ p.eff = e ∧ -(2 ^ 48) ≤ p.rate.toInt * 4000 ∧ p.rate.toInt * 4000 ≤ 2 ^ 48 ∧
    (-(2 ^ 48) ≤ rate * 4000 ∧ rate * 4000 ≤ 2 ^ 48 → p.rate.toInt = rate ∧ (s.setRate rate e).regs = s.regs) ∧
    (rate * 4000 < -(2 ^ 48) ∨ 2 ^ 48 < rate * 4000 → (s.setRate rate e).fb Fd.TU_EVT_SERVO_LIMIT = true))

/-- R11, R13: in every register of the map, a write changes each bit by the access type of its field: RO, RC and WO
fields keep what they hold, RW and RWS fields take the value written, an RWL field does so until the image is sealed,
and a 1 clears a W1C bit; a read shows every field but a WO one; a clearing read clears the RC fields. A reserved bit
reads 0, and no write or clearing read changes it. -/
def Obligations.MapAccess : Prop :=
  ∀ (r : RegDesc) (isSealed : Bool) (old v : BitVec 32) (k : Nat), r ∈ regTable → k < 32 →
    (∀ f ∈ r.fields, f.lo ≤ k → k ≤ f.hi →
      (f.acc ∈ [Acc.ro, .live, .rc, .wo] → (writtenWord r isSealed old v).getLsbD k = old.getLsbD k) ∧
      (f.acc ∈ [Acc.rw, .rws] → (writtenWord r isSealed old v).getLsbD k = v.getLsbD k) ∧
      (f.acc = .rwl → (writtenWord r isSealed old v).getLsbD k = (if isSealed then old else v).getLsbD k) ∧
      (f.acc = .w1c → (writtenWord r isSealed old v).getLsbD k = (old.getLsbD k && !v.getLsbD k)) ∧
      ((readMask r).testBit k = true ↔ f.acc ≠ .wo) ∧
      (clearRc r old).getLsbD k = (old.getLsbD k && decide (f.acc ≠ .rc))) ∧
    ((∀ f ∈ r.fields, k < f.lo ∨ f.hi < k) →
      (writtenWord r isSealed old v).getLsbD k = old.getLsbD k ∧ (readMask r).testBit k = false ∧
        (clearRc r old).getLsbD k = old.getLsbD k)

/-- R10, R11, R421: a write that acts by its fields alone changes no other register and nothing else of the state, and
in its own register only the enabled bytes. -/
def Obligations.RegisterFrame : Prop :=
  ∀ (t : Nat) (party : Party) (addr : BitVec 26) (value : BitVec 32) (en : BitVec 4) (s u : State) (a : Nat) (r : RegDesc)
    (ix : List Nat), u = (s.clock t).hostWrite party → a = wordAddr addr → s.Stored → regAt a = some (r, ix) →
    (u.serve party a).commandWrite party r ix a (u.enabledWord r ix (byteMask en) value) = none → u.reaches a = true → u.lockedAt a = false →
    writtenPairs.all (fun q => !q.is r && q.base + 4 != r.base) = true →
    ∃ v : State, exec (.registerWrite t party addr value en) s = .next v ∧
      (∀ (q : RegDesc) (jx : List Nat), q.addr jx ≠ a → v.rd q jx = u.rd q jx) ∧
      ({ v with regs := u.regs } : State) = u.serve party a ∧
      (∀ k : Nat, k < 32 → (byteMask en).getLsbD k = false → (v.rd r ix).getLsbD k = (u.rd r ix).getLsbD k)

/-- R76: the servo changes RATE and OFFSET as a pair: the new pair is in force from E on, the reading at E is the old
one, and the last four pairs are kept. -/
def Obligations.RateChange : Prop :=
  ∀ (s : State) (rate : Int) (e : Nat),
    (s.setRate rate e).readingAt e = s.readingAt e ∧ (s.setRate rate e).tu.pairs.length ≤ 4 ∧
    (∀ raw : Nat, e ≤ raw → ∃ p : TimePair, (s.setRate rate e).readingAt raw = readingOf p raw ∧ p.eff = e)

/-- R77: after a time step to q at raw count e the reading at e is q, TU_STEP_CNT has counted it, TU_EVT.STEP is set,
and where TICK_BASE is in force the tick number is that of the latest instant at or below q. -/
def Obligations.StepReadsTime : Prop :=
  ∀ (s : State) (q e : Nat), s.Stored → q < 2 ^ 96 →
    (s.timeStep q e).readingAt e = q ∧
    (s.timeStep q e).f Fd.TU_STEP_CNT_STEPS = (s.f Fd.TU_STEP_CNT_STEPS + 1) % 2 ^ (Fd.TU_STEP_CNT_STEPS.hi + 1) ∧
    (s.timeStep q e).fb Fd.TU_EVT_STEP = true ∧
    (∀ b : BitVec 64, s.tu.base = some b → b.toNat * 2 ^ 32 ≤ q →
      (s.timeStep q e).tu.tick = (q / 2 ^ 32 - b.toNat) / s.period) ∧
    (s.tu.base = none → (s.timeStep q e).tu.tick = s.tu.tick)

/-- R62, R63: an instruction of a voter channel changes nothing outside that channel; ST to the input section, END and
an invalid instruction may besides raise their fault, end the task and write the trace. No instruction changes another
channel, or its own channel's task code, input section or committed state. -/
def Obligations.VoterIsolation : Prop :=
  ∀ (vc : Fin 3) (s : State), s.Stored →
    (∀ c ∈ [Instr.mov vc, .add vc, .sub vc, .andOp vc, .orOp vc, .xorOp vc, .shl vc, .shr vc, .cmp vc, .sel vc, .satadd vc,
        .mul vc, .div vc, .rem vc, .ld vc, .tld vc, .tsub vc, .tcmp vc, .brf vc, .loopOp vc, .emitOp vc],
      ∃ t : State, exec c s = .next t ∧ ({ t with tke := { t.tke with vc := s.tke.vc } } : State) = s) ∧
    (∀ c ∈ [Instr.mov vc, .add vc, .sub vc, .andOp vc, .orOp vc, .xorOp vc, .shl vc, .shr vc, .cmp vc, .sel vc, .satadd vc,
        .mul vc, .div vc, .rem vc, .ld vc, .tld vc, .tsub vc, .tcmp vc, .brf vc, .loopOp vc, .emitOp vc, .st vc, .endOp vc,
        .invalidInstruction vc],
      ∃ t : State, exec c s = .next t ∧ (∀ k : Fin 3, k ≠ vc → t.chan k = s.chan k) ∧
        (t.chan vc).code = (s.chan vc).code ∧ (t.chan vc).image = (s.chan vc).image ∧ (t.chan vc).state = (s.chan vc).state)

/-- R10: in canonical form, two tables that read alike at every key are the same table, so equal register stores and equal
memories are equal data. -/
def Obligations.StoreExtensional : Prop :=
  ∀ (d : BitVec 32) (m n : Tab (BitVec 32)), Tab.wf d m = true → Tab.wf d n = true →
    (∀ k : Nat, Tab.get d m k = Tab.get d n k) → m = n

/-- R362, R367: a write to the xSPI memory stores its bytes at consecutive addresses and leaves every other byte alone;
nothing but that memory changes. -/
def Obligations.FlashBurn : Prop :=
  ∀ (s : State) (off : Nat) (bs : Bytes), s.Sound →
    (∀ i : Nat, i < bs.length → Tab.get 0xFF#8 (s.burn off bs).cfg.xspi (off + i) = bs.getD i 0) ∧
    (∀ a : Nat, a < off ∨ off + bs.length ≤ a →
      Tab.get 0xFF#8 (s.burn off bs).cfg.xspi a = Tab.get 0xFF#8 s.cfg.xspi a) ∧
    ({ s.burn off bs with cfg := { (s.burn off bs).cfg with xspi := s.cfg.xspi } } : State) = s

/-- R410, R418: IRQ_N is low once an event of any block was raised while HST_CFG.IRQ_EN is 1, and high while IRQ_EN is
0. -/
def Obligations.IrqFollows : Prop :=
  ∀ (s : State) (x : Fld) (ix : List Nat) (a0 a1 k : Nat), s.Stored → x.reg ∈ w1cRegs → ⟨x.hi, x.lo, .w1c⟩ ∈ x.reg.fields →
    x.lo + k ≤ x.hi → regAt (x.reg.addr ix) = some (x.reg, ix) →
    (s.fb Fd.HST_CFG_IRQ_EN = true → (s.raise x ix a0 a1 k).irqN = false) ∧
    (s.fb Fd.HST_CFG_IRQ_EN = false → (s.raise x ix a0 a1 k).irqN = true)

/-- R74: no step moves the raw counter back, except to 0 at a reset; the time since the start never goes back. -/
def Obligations.RawCounter : Prop :=
  ∀ s t : State, step s = .next t → (s.raw ≤ t.raw ∨ t.raw = 0) ∧ s.wall ≤ t.wall

/-- Commands run first in, first out, and none stops the block: with a command at the front of the queue every step
answers a next state whose queue is the rest. -/
def Obligations.QueueOrder : Prop :=
  ∀ (s : State) (c : Instr) (cs : List Instr), s.pending = c :: cs → ∃ t : State, step s = .next t ∧ t.pending = cs

/-- Every step keeps the stores in order and within their sizes, and the raw counter at or below the time since the start
(R74, R376 to R378, R414). -/
def Obligations.StepKeepsSound : Prop := ∀ s t : State, s.Sound → step s = .next t → t.Sound
end

