-- ==== Sys2Proof/Laws/Tab.lean ====
section
/-! SUPPORT. What the operations on the sorted sparse table do: a read after a write, and the canonical form. -/

namespace Sys2Proof

variable {α : Type}

/-- A lower bound of the keys may be lowered. -/
theorem Tab.rising_mono {m : Tab α} {a b : Option Nat} (h : Tab.rising b m = true)
    (hab : ∀ x, a = some x → ∃ y, b = some y ∧ x ≤ y) : Tab.rising a m = true := by
  cases m with
  | nil => cases a <;> rfl
  | cons e m =>
    cases a with
    | none => cases b <;> simp_all [Tab.rising]
    | some x =>
      obtain ⟨y, rfl, hxy⟩ := hab x rfl
      simp only [Tab.rising, Bool.and_eq_true, decide_eq_true_eq] at h ⊢
      exact ⟨by omega, h.2⟩

theorem Tab.rising_weaken {m : Tab α} {a b : Nat} (h : Tab.rising (some b) m = true) (hab : a ≤ b) :
    Tab.rising (some a) m = true := Tab.rising_mono h (fun x hx => ⟨b, rfl, by cases hx; exact hab⟩)

theorem Tab.rising_none {m : Tab α} {b : Nat} (h : Tab.rising (some b) m = true) : Tab.rising none m = true :=
  Tab.rising_mono h (fun _ hx => by cases hx)

theorem Tab.rising_erase_some {m : Tab α} {lo : Nat} (k : Nat) (h : Tab.rising (some lo) m = true) :
    Tab.rising (some lo) (Tab.erase m k) = true := by
  induction m generalizing lo with
  | nil => rfl
  | cons e m ih =>
    obtain ⟨j, v⟩ := e
    simp only [Tab.rising, Bool.and_eq_true, decide_eq_true_eq] at h
    unfold Tab.erase
    split
    · exact Tab.rising_weaken h.2 (by omega)
    · split
      · simp only [Tab.rising, Bool.and_eq_true, decide_eq_true_eq]; exact h
      · simp only [Tab.rising, Bool.and_eq_true, decide_eq_true_eq]; exact ⟨h.1, ih h.2⟩

theorem Tab.rising_insert_some {m : Tab α} {lo : Nat} (k : Nat) (w : α) (hk : lo < k)
    (h : Tab.rising (some lo) m = true) : Tab.rising (some lo) (Tab.insert m k w) = true := by
  induction m generalizing lo with
  | nil => simpa [Tab.insert, Tab.rising] using hk
  | cons e m ih =>
    obtain ⟨j, v⟩ := e
    simp only [Tab.rising, Bool.and_eq_true, decide_eq_true_eq] at h
    unfold Tab.insert
    split
    · next hj => subst hj; simp only [Tab.rising, Bool.and_eq_true, decide_eq_true_eq]; exact h
    · split
      · simp only [Tab.rising, Bool.and_eq_true, decide_eq_true_eq]; exact ⟨hk, by omega, h.2⟩
      · simp only [Tab.rising, Bool.and_eq_true, decide_eq_true_eq]; exact ⟨h.1, ih (by omega) h.2⟩

theorem Tab.rising_erase {m : Tab α} (k : Nat) (h : Tab.rising none m = true) :
    Tab.rising none (Tab.erase m k) = true := by
  cases m with
  | nil => rfl
  | cons e m =>
    obtain ⟨j, v⟩ := e
    simp only [Tab.rising] at h
    unfold Tab.erase
    split
    · exact Tab.rising_none h
    · split
      · exact h
      · exact Tab.rising_erase_some k h

theorem Tab.rising_insert {m : Tab α} (k : Nat) (w : α) (h : Tab.rising none m = true) :
    Tab.rising none (Tab.insert m k w) = true := by
  cases m with
  | nil => rfl
  | cons e m =>
    obtain ⟨j, v⟩ := e
    simp only [Tab.rising] at h
    unfold Tab.insert
    split
    · next hj => subst hj; exact h
    · split
      · simp only [Tab.rising, Bool.and_eq_true, decide_eq_true_eq]; exact ⟨by omega, h⟩
      · exact Tab.rising_insert_some k w (by omega) h

/-- A write keeps keys rising. -/
theorem Tab.rising_set [DecidableEq α] {m : Tab α} (d : α) (k : Nat) (v : α) (h : Tab.rising none m = true) :
    Tab.rising none (Tab.set d m k v) = true := by
  unfold Tab.set
  split
  · exact Tab.rising_erase k h
  · exact Tab.rising_insert k v h

theorem Tab.mem_erase {m : Tab α} {k : Nat} {e : Nat × α} (h : e ∈ Tab.erase m k) : e ∈ m := by
  induction m with
  | nil => cases h
  | cons x m ih =>
    obtain ⟨j, v⟩ := x
    unfold Tab.erase at h
    split at h
    · exact List.mem_cons_of_mem _ h
    · split at h
      · exact h
      · rcases List.mem_cons.mp h with rfl | h
        · exact List.mem_cons_self
        · exact List.mem_cons_of_mem _ (ih h)

theorem Tab.mem_insert {m : Tab α} {k : Nat} {w : α} {e : Nat × α} (h : e ∈ Tab.insert m k w) :
    e = (k, w) ∨ e ∈ m := by
  induction m with
  | nil => exact Or.inl (List.mem_singleton.mp h)
  | cons x m ih =>
    obtain ⟨j, v⟩ := x
    unfold Tab.insert at h
    split at h
    · rcases List.mem_cons.mp h with rfl | h
      · exact Or.inl rfl
      · exact Or.inr (List.mem_cons_of_mem _ h)
    · split at h
      · rcases List.mem_cons.mp h with rfl | h
        · exact Or.inl rfl
        · exact Or.inr h
      · rcases List.mem_cons.mp h with rfl | h
        · exact Or.inr List.mem_cons_self
        · rcases ih h with h | h
          · exact Or.inl h
          · exact Or.inr (List.mem_cons_of_mem _ h)

/-- A write keeps the canonical form. -/
theorem Tab.wf_set [DecidableEq α] {m : Tab α} (d : α) (k : Nat) (v : α) (h : Tab.wf d m = true) :
    Tab.wf d (Tab.set d m k v) = true := by
  simp only [Tab.wf, Bool.and_eq_true, List.all_eq_true, decide_eq_true_eq] at h ⊢
  refine ⟨Tab.rising_set d k v h.1, fun e he => ?_⟩
  unfold Tab.set at he
  split at he
  · exact h.2 e (Tab.mem_erase he)
  · next hv =>
    rcases Tab.mem_insert he with rfl | he
    · exact hv
    · exact h.2 e he

theorem Tab.get_below {m : Tab α} {k lo : Nat} (d : α) (hk : k ≤ lo) (h : Tab.rising (some lo) m = true) :
    Tab.get d m k = d := by
  cases m with
  | nil => rfl
  | cons e m =>
    obtain ⟨j, v⟩ := e
    simp only [Tab.rising, Bool.and_eq_true, decide_eq_true_eq] at h
    unfold Tab.get
    rw [if_neg (by omega), if_pos (by omega)]

theorem Tab.get_insert_same {m : Tab α} (d : α) (k : Nat) (w : α) : Tab.get d (Tab.insert m k w) k = w := by
  induction m with
  | nil => simp [Tab.insert, Tab.get]
  | cons e m ih =>
    obtain ⟨j, v⟩ := e
    unfold Tab.insert
    split
    · simp [Tab.get]
    · split
      · simp [Tab.get]
      · next h1 h2 => simp only [Tab.get, if_neg h1, if_neg h2, ih]

theorem Tab.get_insert_ne {m : Tab α} (d : α) {k x : Nat} (w : α) (hx : x ≠ k) :
    Tab.get d (Tab.insert m k w) x = Tab.get d m x := by
  induction m with
  | nil => simp only [Tab.insert, Tab.get, if_neg (Ne.symm hx), ite_self]
  | cons e m ih =>
    obtain ⟨j, v⟩ := e
    unfold Tab.insert
    split
    · next hj => subst hj; simp only [Tab.get, if_neg (Ne.symm hx)]
    · split
      · next h1 h2 =>
        simp only [Tab.get, if_neg (Ne.symm hx)]
        split
        · rw [if_neg (by omega), if_pos (by omega)]
        · rfl
      · simp only [Tab.get, ih]

theorem Tab.get_erase_same {m : Tab α} (d : α) (k : Nat) (h : Tab.rising none m = true) :
    Tab.get d (Tab.erase m k) k = d := by
  induction m with
  | nil => rfl
  | cons e m ih =>
    obtain ⟨j, v⟩ := e
    simp only [Tab.rising] at h
    unfold Tab.erase
    split
    · next hj => subst hj; exact Tab.get_below d (Nat.le_refl _) h
    · split
      · next h1 h2 => simp only [Tab.get, if_neg h1, if_pos h2]
      · next h1 h2 => simp only [Tab.get, if_neg h1, if_neg h2]; exact ih (Tab.rising_none h)

theorem Tab.get_erase_ne {m : Tab α} (d : α) {k x : Nat} (hx : x ≠ k) (h : Tab.rising none m = true) :
    Tab.get d (Tab.erase m k) x = Tab.get d m x := by
  induction m with
  | nil => rfl
  | cons e m ih =>
    obtain ⟨j, v⟩ := e
    simp only [Tab.rising] at h
    unfold Tab.erase
    split
    · next hj =>
      subst hj
      simp only [Tab.get, if_neg (Ne.symm hx)]
      split
      · next hlt => exact Tab.get_below d (by omega) h
      · rfl
    · split
      · rfl
      · simp only [Tab.get, ih (Tab.rising_none h)]

/-- A read after a write of the same key. -/
theorem Tab.get_set_same [DecidableEq α] {m : Tab α} (d : α) (k : Nat) (v : α) (h : Tab.rising none m = true) :
    Tab.get d (Tab.set d m k v) k = v := by
  unfold Tab.set
  split
  · next hv => rw [hv]; exact Tab.get_erase_same d k h
  · exact Tab.get_insert_same d k v

/-- A write leaves every other key alone. -/
theorem Tab.get_set_ne [DecidableEq α] {m : Tab α} (d e : α) {k x : Nat} (v : α) (hx : x ≠ k)
    (h : Tab.rising none m = true) : Tab.get d (Tab.set e m k v) x = Tab.get d m x := by
  unfold Tab.set
  split
  · exact Tab.get_erase_ne d hx h
  · exact Tab.get_insert_ne d v hx

/-- A key that holds a value listed as such is read without any premise. -/
theorem Tab.get_set_listed [DecidableEq α] {m : Tab α} {d : α} (k : Nat) {v : α} (hv : v ≠ d) :
    Tab.get d (Tab.set d m k v) k = v := by
  unfold Tab.set
  rw [if_neg hv]
  exact Tab.get_insert_same d k v

/-- A listed key lies above the bound and reads as its value. -/
theorem Tab.all_listed {m : Tab α} {lo : Nat} {d : α} {e : Nat × α} (h : Tab.rising (some lo) m = true) (he : e ∈ m) :
    lo < e.1 ∧ Tab.get d m e.1 = e.2 := by
  induction m generalizing lo with
  | nil => cases he
  | cons x m ih =>
    obtain ⟨j, v⟩ := x
    simp only [Tab.rising, Bool.and_eq_true, decide_eq_true_eq] at h
    rcases List.mem_cons.mp he with rfl | he
    · exact ⟨h.1, by simp [Tab.get]⟩
    · have r := ih h.2 he
      refine ⟨by omega, ?_⟩
      unfold Tab.get
      rw [if_neg (by omega), if_neg (by omega)]
      exact r.2

end Sys2Proof
end

