-- ==== Sys2Proof/Laws/Kept.lean ====
section
/-! SUPPORT. What every operation of a command keeps: the queue, the time, and the order of the stores (R74, R376 to R378,
R414). -/

namespace Sys2Proof.Machine

open Sys2Proof

/-- t comes from s without a change of the queue or the clock, but for a restart of the raw counter at a reset, and with its
stores still in order. -/
def Kept (s t : State) : Prop :=
  t.pending = s.pending ∧ t.wall = s.wall ∧ (t.raw = s.raw ∨ t.raw = 0) ∧ (s.Stored → t.Stored)

theorem Kept.refl (s : State) : Kept s s := ⟨rfl, rfl, Or.inl rfl, id⟩

theorem Kept.trans {s t u : State} (h : Kept s t) (k : Kept t u) : Kept s u := by
  obtain ⟨h1, h2, h3, h4⟩ := h
  obtain ⟨k1, k2, k3, k4⟩ := k
  refine ⟨k1.trans h1, k2.trans h2, ?_, fun x => k4 (h4 x)⟩
  rcases k3 with k3 | k3
  · rw [k3]; exact h3
  · exact Or.inr k3

/-- A record update of fields that Kept does not speak of. -/
theorem Kept.update {z s : State} (h : Kept z s) {out errN ready boots free act shd evt trc tu tke gng ldr fp cst prt asd sen
    brg fbs fio cel cfg hst por} (hv : evt.vol = s.evt.vol) (hu : evt.unstored = s.evt.unstored) (ht : trc.buf = s.trc.buf)
    (hk : tke.vc = s.tke.vc) (hx : cfg.xspi = s.cfg.xspi) :
    Kept z { pending := s.pending, raw := s.raw, wall := s.wall, regs := s.regs, pairCap := s.pairCap, pairLow := s.pairLow
             gasp := s.gasp, out := out, errN := errN, ready := ready, boots := boots, free := free, act := act, shd := shd
             evt := evt, trc := trc, tu := tu, tke := tke, gng := gng, ldr := ldr, fp := fp, cst := cst, prt := prt
             asd := asd, sen := sen, brg := brg, fbs := fbs, fio := fio, cel := cel, cfg := cfg, hst := hst, por := por } := by
  obtain ⟨h1, h2, h3, h4⟩ := h
  refine ⟨h1, h2, h3, fun x => ?_⟩
  have := h4 x
  simp only [State.Stored, hv, hu, ht, hk, hx] at this ⊢
  exact this

/-- Kept through a step whose own effect is shown from the state before it. -/
theorem Kept.step {z s t : State} (h : Kept z s) (k : Kept s t) : Kept z t := h.trans k

/-- A fold over a list. -/
theorem kept_foldl {α : Type} {z : State} {f : State → α → State} {l : List α} {s : State} (h : Kept z s)
    (hf : ∀ u a, Kept z u → Kept z (f u a)) : Kept z (l.foldl f s) := by
  induction l generalizing s with
  | nil => exact h
  | cons a l ih => exact ih (hf s a h)

/-- A fold whose accumulator holds a state first. -/
theorem kept_foldl_fst {α β : Type} {z : State} {f : State × β → α → State × β} {l : List α} {s : State × β}
    (h : Kept z s.1) (hf : ∀ u a, Kept z u.1 → Kept z (f u a).1) : Kept z (l.foldl f s).1 := by
  induction l generalizing s with
  | nil => exact h
  | cons a l ih => exact ih (hf s a h)

theorem kept_foldl_snd {α β : Type} {z : State} {f : β × State → α → β × State} {l : List α} {s : β × State}
    (h : Kept z s.2) (hf : ∀ u a, Kept z u.2 → Kept z (f u a).2) : Kept z (l.foldl f s).2 := by
  induction l generalizing s with
  | nil => exact h
  | cons a l ih => exact ih (hf s a h)

theorem kept_foldr {α : Type} {z : State} {f : α → State → State} {l : List α} {s : State} (h : Kept z s)
    (hf : ∀ a u, Kept z u → Kept z (f a u)) : Kept z (l.foldr f s) := by
  induction l with
  | nil => exact h
  | cons a l ih => exact hf a _ ih

theorem kept_ite {z : State} {c : Prop} [Decidable c] {a b : State} (ha : Kept z a) (hb : Kept z b) :
    Kept z (if c then a else b) := by
  split
  · exact ha
  · exact hb

theorem kept_ite_fst {β : Type} {z : State} {c : Prop} [Decidable c] {a b : State × β} (ha : Kept z a.1) (hb : Kept z b.1) :
    Kept z (if c then a else b).1 := by
  split
  · exact ha
  · exact hb

theorem kept_ite_snd {β : Type} {z : State} {c : Prop} [Decidable c] {a b : β × State} (ha : Kept z a.2) (hb : Kept z b.2) :
    Kept z (if c then a else b).2 := by
  split
  · exact ha
  · exact hb

theorem kept_ite_third {β γ : Type} {z : State} {c : Prop} [Decidable c] {a b : β × γ × State} (ha : Kept z a.2.2)
    (hb : Kept z b.2.2) : Kept z (if c then a else b).2.2 := by
  split
  · exact ha
  · exact hb

/-- Every state that an option holds comes from z in the way of Kept. -/
def KeptO (z : State) (o : Option State) : Prop := ∀ u, o = some u → Kept z u

theorem keptO_none (z : State) : KeptO z none := fun _ e => by cases e

theorem keptO_some {z u : State} (h : Kept z u) : KeptO z (some u) := fun _ e => by cases e; exact h

theorem keptO_ite {z : State} {c : Prop} [Decidable c] {a b : Option State} (ha : KeptO z a) (hb : KeptO z b) :
    KeptO z (if c then a else b) := by
  split
  · exact ha
  · exact hb

/-- An optional step. -/
theorem kept_getD {z : State} {o : Option State} {s : State} (hz : Kept z s) (ho : KeptO z o) :
    Kept z (o.getD s) := by
  cases o with
  | none => exact hz
  | some u => exact ho u rfl

/-- A command answers a next state, which comes from s in the way of Kept. -/
def Answers (s : State) (o : Out) : Prop := ∃ t, o = .next t ∧ Kept s t

theorem answers_next {s t : State} (h : Kept s t) : Answers s (.next t) := ⟨t, rfl, h⟩

theorem answers_ite {s : State} {c : Prop} [Decidable c] {a b : Out} (ha : Answers s a) (hb : Answers s b) :
    Answers s (if c then a else b) := by
  split
  · exact ha
  · exact hb

/-! The primitive updates -/

theorem State.wr_kept {z s : State} (r : RegDesc) (ix : List Nat) (v : BitVec 32) (h : Kept z s) : Kept z (s.wr r ix v) := by
  refine h.trans ⟨rfl, rfl, Or.inl rfl, fun x => ?_⟩
  obtain ⟨x1, xs⟩ := x
  exact ⟨Tab.rising_set _ _ _ x1, xs⟩

theorem State.capture_kept {z s : State} (p : Party) (a : Nat) (v : BitVec 32) (h : Kept z s) :
    Kept z (s.capture p a v) := by
  refine h.trans ⟨rfl, rfl, Or.inl rfl, fun x => ?_⟩
  obtain ⟨x1, x2, xs⟩ := x
  exact ⟨x1, Tab.rising_set none (partyKey p a) (some v) x2, xs⟩

theorem State.dropCapture_kept {z s : State} (p : Party) (a : Nat) (h : Kept z s) : Kept z (s.dropCapture p a) := by
  refine h.trans ⟨rfl, rfl, Or.inl rfl, fun x => ?_⟩
  obtain ⟨x1, x2, xs⟩ := x
  exact ⟨x1, Tab.rising_set none (partyKey p a) none x2, xs⟩

theorem kept_pairLow {z s : State} (k : Nat) (v : Option (BitVec 32)) (h : Kept z s) :
    Kept z { s with pairLow := Tab.set none s.pairLow k v } := by
  refine h.trans ⟨rfl, rfl, Or.inl rfl, fun x => ?_⟩
  obtain ⟨x1, x2, x3, xs⟩ := x
  exact ⟨x1, x2, Tab.rising_set _ _ _ x3, xs⟩

theorem State.setChan_kept {z s : State} (c : Nat) (v : VChan) (h : Kept z s) : Kept z (s.setChan c v) := by
  refine h.trans ⟨rfl, rfl, Or.inl rfl, fun x => ?_⟩
  obtain ⟨x1, x2, x3, x4, xs⟩ := x
  exact ⟨x1, x2, x3, Tab.rising_set _ _ _ x4, xs⟩

theorem State.drawFree_kept {z s : State} (h : Kept z s) : Kept z s.drawFree.2 := h.update rfl rfl rfl rfl rfl

/-! Lengths of the logs and the trace -/

theorem logInsert_length (raw : Nat) (e : LogEntry) (l : List (Nat × LogEntry)) :
    (logInsert raw e l).length = l.length + 1 := by
  induction l generalizing e with
  | nil => rfl
  | cons x l ih =>
    obtain ⟨d, x⟩ := x
    unfold logInsert
    split
    · simp only [List.length_cons, ih]
    · rfl

theorem dropInfo_length {l r : List (Nat × LogEntry)} (h : dropInfo l = some r) : r.length + 1 = l.length := by
  induction l generalizing r with
  | nil => cases h
  | cons x l ih =>
    unfold dropInfo at h
    split at h
    · next q hq => cases h; simp only [List.length_cons, ih hq]
    · split at h
      · cases h; rfl
      · cases h

theorem markLost_length (l : List (Nat × LogEntry)) : (markLost l).length = l.length := by cases l <;> rfl

theorem coalesce_length {code raw : Nat} {a0 a1 : BitVec 32} {l r : List (Nat × LogEntry)}
    (h : coalesce code a0 a1 raw l = some r) : r.length = l.length := by
  cases l with
  | nil => cases h
  | cons x l =>
    obtain ⟨d, e⟩ := x
    simp only [coalesce] at h
    split at h
    · cases h; rfl
    · cases h

theorem kept_vol {z s : State} (seq : BitVec 32) (l : List (Nat × LogEntry)) (h : Kept z s) :
    Kept z { s with evt := { s.evt with seq := seq, vol := l.take 1024 } } := by
  refine h.trans ⟨rfl, rfl, Or.inl rfl, fun x => ?_⟩
  obtain ⟨x1, x2, x3, x4, x5, x6, xs⟩ := x
  exact ⟨x1, x2, x3, x4, x5, List.length_take_le 1024 l, xs⟩

theorem kept_unst {z s : State} {e : Evt} (hv : s.evt.vol.length ≤ 1024 → e.vol.length ≤ 1024) (hl : s.evt.unstored ≤ 256 → e.unstored ≤ 256)
    (h : Kept z s) : Kept z { s with evt := e } := by
  refine h.trans ⟨rfl, rfl, Or.inl rfl, fun x => ?_⟩
  obtain ⟨x1, x2, x3, x4, x5, x6, x7, xs⟩ := x
  exact ⟨x1, x2, x3, x4, x5, hv x6, hl x7, xs⟩

theorem repeatIn_length (u : Option (Nat × LogEntry)) (l : List (Nat × LogEntry)) : (repeatIn u l).length = l.length := by
  unfold repeatIn
  split
  · exact List.length_map _
  · rfl

theorem kept_buf {z s : State} {t : Trc} (ht : s.trc.buf.length ≤ 16384 → t.buf.length ≤ 16384) (h : Kept z s) :
    Kept z { s with trc := t } := by
  refine h.trans ⟨rfl, rfl, Or.inl rfl, fun x => ?_⟩
  obtain ⟨x1, x2, x3, x4, x5, x6, x7, x8, x9⟩ := x
  exact ⟨x1, x2, x3, x4, x5, x6, x7, x8, ht x9⟩

theorem kept_gasp {z s : State} {l : List (LogEntry × Bool)} (hl : s.gasp.length ≤ 64 → l.length ≤ 64) (h : Kept z s) :
    Kept z { s with gasp := l } := by
  refine h.trans ⟨rfl, rfl, Or.inl rfl, fun x => ?_⟩
  obtain ⟨x1, x2, x3, x4, x5, x6, x7, x8, x9⟩ := x
  exact ⟨x1, x2, x3, x4, x5, x6, x7, hl x8, x9⟩

theorem kept_regs {z s : State} {r : Tab (BitVec 32)} (hr : Tab.rising none s.regs = true → Tab.rising none r = true)
    (h : Kept z s) : Kept z { s with regs := r } := by
  refine h.trans ⟨rfl, rfl, Or.inl rfl, fun x => ?_⟩
  obtain ⟨x1, xs⟩ := x
  exact ⟨hr x1, xs⟩

end Sys2Proof.Machine
end

