-- ==== Sys2Proof/Laws/KeptShared.lean ====
section
/-! SUPPORT. What Kept says holds of the operations on registers and logs, the gates, the Larder, control frames, the time unit, the consist, the I/O image and the UARTs; their commands answer a next state. -/

namespace Sys2Proof.Machine

open Sys2Proof

/-! Machine/Ops.lean -/

theorem State.sf_kept {z : State} (s : State) (x : Fld) (ix : List Nat) (v : Nat) (hz : Kept z s) : Kept z (State.sf s x ix v) := by
  unfold State.sf
  repeat' (first
    | with_reducible assumption
    | intro _
    | with_reducible apply State.wr_kept)

theorem State.set0_kept {z : State} (s : State) (x : Fld) (v : Nat) (hz : Kept z s) : Kept z (State.set0 s x v) := by
  unfold State.set0
  repeat' (first
    | with_reducible assumption
    | intro _
    | with_reducible apply State.sf_kept)

theorem State.wr64_kept {z : State} (s : State) (lo hi : RegDesc) (ix : List Nat) (v : BitVec 64) (hz : Kept z s) : Kept z (State.wr64 s lo hi ix v) := by
  unfold State.wr64
  repeat' (first
    | with_reducible assumption
    | intro _
    | with_reducible apply State.wr_kept)

theorem State.bump_kept {z : State} (s : State) (r : RegDesc) (ix : List Nat) (hz : Kept z s) : Kept z (State.bump s r ix) := by
  unfold State.bump
  repeat' (first
    | with_reducible assumption
    | intro _
    | with_reducible apply State.wr_kept)

theorem State.bumpBy_kept {z : State} (s : State) (r : RegDesc) (ix : List Nat) (n : Nat) (hz : Kept z s) : Kept z (State.bumpBy s r ix n) := by
  unfold State.bumpBy
  repeat' (first
    | with_reducible assumption
    | intro _
    | with_reducible apply State.wr_kept)

theorem State.bumpF_kept {z : State} (s : State) (x : Fld) (ix : List Nat) (hz : Kept z s) : Kept z (State.bumpF s x ix) := by
  unfold State.bumpF
  repeat' (first
    | with_reducible assumption
    | intro _
    | with_reducible apply State.sf_kept)

theorem State.wrapF_kept {z : State} (s : State) (x : Fld) (ix : List Nat) (hz : Kept z s) : Kept z (State.wrapF s x ix) := by
  unfold State.wrapF
  repeat' (first
    | with_reducible assumption
    | intro _
    | with_reducible apply State.sf_kept)

theorem State.wrapW_kept {z : State} (s : State) (r : RegDesc) (ix : List Nat) (hz : Kept z s) : Kept z (State.wrapW s r ix) := by
  unfold State.wrapW
  repeat' (first
    | with_reducible assumption
    | intro _
    | with_reducible apply State.wr_kept)

theorem State.bump64_kept {z : State} (s : State) (lo hi : RegDesc) (ix : List Nat) (n : Nat) (hz : Kept z s) : Kept z (State.bump64 s lo hi ix n) := by
  unfold State.bump64
  repeat' (first
    | with_reducible assumption
    | intro _
    | with_reducible apply State.wr64_kept)

theorem State.peakF_kept {z : State} (s : State) (x : Fld) (ix : List Nat) (v : Nat) (hz : Kept z s) : Kept z (State.peakF s x ix v) := by
  unfold State.peakF
  repeat' (first
    | with_reducible assumption
    | intro _
    | with_reducible apply State.sf_kept)

theorem State.emit_kept {z : State} (s : State) (o : Output) (hz : Kept z s) : Kept z (State.emit s o) := by
  unfold State.emit
  repeat' (first
    | with_reducible assumption
    | intro _
    | with_reducible apply kept_foldl
    | with_reducible apply kept_foldl_fst
    | with_reducible apply kept_foldr
    | with_reducible apply kept_ite
    | with_reducible apply kept_ite_fst
    | with_reducible apply kept_ite_snd
    | with_reducible apply kept_ite_third
    | fail_if_no_progress (with_reducible refine Kept.update ?_ rfl rfl rfl rfl rfl))

theorem State.emitAll_kept {z : State} (s : State) (os : List Output) (hz : Kept z s) : Kept z (State.emitAll s os) := by
  unfold State.emitAll
  repeat' (first
    | with_reducible assumption
    | intro _
    | with_reducible apply State.emit_kept
    | with_reducible apply kept_foldl_snd
    | with_reducible apply kept_foldl)

theorem State.qualify_kept {z : State} (s : State) (hz : Kept z s) : Kept z (State.qualify s) := by
  unfold State.qualify
  repeat' (first
    | with_reducible assumption
    | intro _
    | with_reducible apply kept_foldl
    | with_reducible apply kept_foldl_fst
    | with_reducible apply kept_foldr
    | with_reducible apply kept_ite
    | with_reducible apply kept_ite_fst
    | with_reducible apply kept_ite_snd
    | with_reducible apply kept_ite_third
    | fail_if_no_progress (with_reducible refine Kept.update ?_ rfl rfl rfl rfl rfl))

theorem State.hostWrite_kept {z : State} (s : State) (p : Party) (hz : Kept z s) : Kept z (State.hostWrite s p) := by
  unfold State.hostWrite
  repeat' (first
    | with_reducible assumption
    | intro _
    | with_reducible apply State.qualify_kept
    | with_reducible apply kept_foldl
    | with_reducible apply kept_foldl_fst
    | with_reducible apply kept_foldr
    | with_reducible apply kept_ite)

theorem State.strobeNow_kept {z : State} (s : State) (hz : Kept z s) : Kept z (State.strobeNow s) := by
  unfold State.strobeNow
  repeat' (first
    | with_reducible assumption
    | intro _
    | with_reducible apply kept_foldl
    | with_reducible apply kept_foldl_fst
    | with_reducible apply kept_foldr
    | with_reducible apply kept_ite
    | with_reducible apply kept_ite_fst
    | with_reducible apply kept_ite_snd
    | with_reducible apply kept_ite_third
    | fail_if_no_progress (with_reducible refine Kept.update ?_ rfl rfl rfl rfl rfl))

/-! Machine/Flags.lean -/

theorem State.sumFire_kept {z : State} (old new : State) (b : Nat) (hz : Kept z new) : Kept z (State.sumFire old new b) :=
  kept_ite (State.emit_kept _ _ hz) hz

theorem State.trace_kept {z : State} (s : State) (type src arg : Nat) (hz : Kept z s) : Kept z (s.trace type src arg) := by
  unfold State.trace
  try extract_lets
  split
  · exact hz
  · split
    · exact hz
    · exact kept_buf (fun _ => List.length_take_le _ _) hz

theorem State.keepUnstored_kept {z : State} (s : State) (e : LogEntry) (hz : Kept z s) : Kept z (s.keepUnstored e) := by
  unfold State.keepUnstored
  split
  · next hl =>
    refine kept_unst id (fun _ => ?_) hz
    simp only [State.unstored, Evt.unstored] at hl
    simp only [Evt.unstored, logInsert_length]; omega
  · extract_lets src lost
    have hlost : Kept z lost := State.bump_kept _ _ _ (Kept.update hz rfl rfl rfl rfl rfl)
    split
    · split
      · next us h =>
        refine kept_unst id (fun hl => ?_) hlost
        have key : ∀ l, ({ lost.evt with unst := l } : Evt).unstored =
            l.length + ((s.evt.storing.map (·.1.length)).getD 0) := fun _ => rfl
        have hl2 : s.evt.unstored ≤ 256 := hl
        have := dropInfo_length h
        refine le_of_eq_of_le (key _) ?_
        simp only [Evt.unstored] at hl2
        simp only [logInsert_length]; omega
      · exact hlost
    · exact hlost

theorem State.logEvent_kept {z : State} (s : State) (code : Nat) (a0 a1 : BitVec 32) (hz : Kept z s) :
    Kept z (s.logEvent code a0 a1) := by
  unfold State.logEvent
  extract_lets sev s1 s2 src vol e s3
  have h1 : Kept z s1 := State.trace_kept _ _ _ _ hz
  have h2 : Kept z s2 := kept_ite (State.emit_kept _ _ h1) h1
  split
  · next us h => exact kept_unst (fun hl => by simp only [repeatIn_length]; exact hl) (fun hl => by simpa only [Evt.unstored, coalesce_length h] using hl) h2
  · have h3 : Kept z s3 := kept_vol _ _ h2
    exact kept_ite (kept_ite (Kept.update h3 rfl rfl rfl rfl rfl) h3) (State.keepUnstored_kept _ _ h3)

theorem State.setFlag_kept {z : State} (s : State) (x : Fld) (ix : List Nat) (k : Nat) (hz : Kept z s) : Kept z (State.setFlag s x ix k) := by
  unfold State.setFlag
  repeat' (first
    | with_reducible assumption
    | intro _
    | with_reducible apply State.sumFire_kept
    | with_reducible apply State.sf_kept)

theorem State.raise_kept {z : State} (s : State) (x : Fld) (ix : List Nat) (a0 a1 : Nat) (k : Nat) (hz : Kept z s) : Kept z (State.raise s x ix a0 a1 k) := by
  unfold State.raise
  repeat' (first
    | with_reducible assumption
    | intro _
    | with_reducible apply State.logEvent_kept
    | with_reducible apply State.setFlag_kept)

theorem State.assertErr_kept {z : State} (s : State) (hz : Kept z s) : Kept z (State.assertErr s) := by
  unfold State.assertErr
  repeat' (first
    | with_reducible assumption
    | intro _
    | with_reducible apply kept_foldl
    | with_reducible apply kept_foldl_fst
    | with_reducible apply kept_foldr
    | with_reducible apply kept_ite
    | with_reducible apply kept_ite_fst
    | with_reducible apply kept_ite_snd
    | with_reducible apply kept_ite_third
    | fail_if_no_progress (with_reducible refine Kept.update ?_ rfl rfl rfl rfl rfl))

theorem State.gaspEntry_kept {z : State} (s : State) (code a0 a1 : Nat) (hz : Kept z s) : Kept z (s.gaspEntry code a0 a1) :=
  kept_gasp (fun _ => List.length_take_le _ _) hz

/-! Machine/Gates.lean -/

theorem State.gngCommit_kept {z : State} (s : State) (w : BitVec 32) (hz : Kept z s) : Kept z (State.gngCommit s w) := by
  unfold State.gngCommit
  repeat' (first
    | with_reducible assumption
    | intro _
    | with_reducible apply kept_foldl
    | with_reducible apply kept_foldl_fst
    | with_reducible apply kept_foldr
    | with_reducible apply kept_ite
    | with_reducible apply kept_ite_fst
    | with_reducible apply kept_ite_snd
    | with_reducible apply kept_ite_third
    | fail_if_no_progress (with_reducible refine Kept.update ?_ rfl rfl rfl rfl rfl))

theorem execGngTblData2Write_answers (t : Nat) (party : Party) (value : BitVec 32) (s : State) : Answers (s.clock t) (execGngTblData2Write t party value s) := by
  unfold execGngTblData2Write
  repeat' (first
    | with_reducible exact Kept.refl _
    | intro _
    | with_reducible apply answers_next
    | with_reducible apply State.hostWrite_kept
    | with_reducible apply State.gngCommit_kept)

theorem State.gngAddr_kept {z : State} (s : State) (w : BitVec 32) (hz : Kept z s) : Kept z (State.gngAddr s w) := by
  unfold State.gngAddr
  repeat' (first
    | with_reducible assumption
    | intro _
    | with_reducible apply State.wr_kept
    | with_reducible apply State.set0_kept
    | with_reducible apply kept_foldl
    | with_reducible apply kept_foldl_fst
    | with_reducible apply kept_foldr
    | with_reducible apply kept_ite)

theorem execGinghamSelfTestDone_answers (t : Nat) (ok : Bool) (s : State) : Answers (s.clock t) (execGinghamSelfTestDone t ok s) := by
  unfold execGinghamSelfTestDone
  repeat' (first
    | with_reducible exact Kept.refl _
    | intro _
    | with_reducible apply answers_next
    | with_reducible apply State.wrapF_kept
    | with_reducible apply State.raise_kept
    | with_reducible apply State.clock_kept
    | with_reducible apply State.set0_kept
    | with_reducible apply answers_ite)

/-! Machine/Larder.lean -/

theorem State.fpCount_kept {z : State} (s : State) (n c : Nat) (hz : Kept z s) : Kept z (State.fpCount s n c) := by
  unfold State.fpCount
  repeat' (first
    | with_reducible assumption
    | intro _
    | with_reducible apply State.bump64_kept
    | with_reducible apply kept_foldl
    | with_reducible apply kept_foldl_fst
    | with_reducible apply kept_foldr
    | with_reducible apply kept_ite)

theorem State.charge_kept {z : State} (s : State) (c : Charge) (hz : Kept z s) : Kept z (State.charge s c) := by
  unfold State.charge
  repeat' (first
    | with_reducible assumption
    | intro _
    | with_reducible apply State.peakF_kept
    | with_reducible apply State.sf_kept
    | with_reducible apply State.set0_kept
    | with_reducible apply kept_foldl
    | with_reducible apply kept_foldl_fst
    | with_reducible apply kept_foldr
    | with_reducible apply kept_ite
    | with_reducible apply kept_ite_fst
    | with_reducible apply kept_ite_snd
    | with_reducible apply kept_ite_third
    | fail_if_no_progress (with_reducible refine Kept.update ?_ rfl rfl rfl rfl rfl))

theorem State.uncharge_kept {z : State} (s : State) (c : Charge) (hz : Kept z s) : Kept z (State.uncharge s c) := by
  unfold State.uncharge
  repeat' (first
    | with_reducible assumption
    | intro _
    | with_reducible apply State.sf_kept
    | with_reducible apply State.set0_kept
    | with_reducible apply kept_foldl
    | with_reducible apply kept_foldl_fst
    | with_reducible apply kept_foldr
    | with_reducible apply kept_ite
    | with_reducible apply kept_ite_fst
    | with_reducible apply kept_ite_snd
    | with_reducible apply kept_ite_third
    | fail_if_no_progress (with_reducible refine Kept.update ?_ rfl rfl rfl rfl rfl))

theorem State.pfcCheck_kept {z : State} (s : State) (n : Nat) (hz : Kept z s) : Kept z (State.pfcCheck s n) := by
  unfold State.pfcCheck
  repeat' (first
    | with_reducible assumption
    | intro _
    | with_reducible apply State.fpCount_kept
    | with_reducible apply State.emit_kept
    | with_reducible apply kept_foldl
    | with_reducible apply kept_foldl_fst
    | with_reducible apply kept_foldr
    | with_reducible apply kept_ite
    | with_reducible apply kept_ite_fst
    | with_reducible apply kept_ite_snd
    | with_reducible apply kept_ite_third
    | fail_if_no_progress (with_reducible refine Kept.update ?_ rfl rfl rfl rfl rfl))

theorem State.allocCells_kept {z : State} (s : State) (d n : Nat) (acc : List Nat) (hz : Kept z s) :
    Kept z (s.allocCells d n acc).1 := by
  induction n generalizing s acc with
  | zero => exact hz
  | succ n ih =>
    unfold State.allocCells
    split
    · exact ih _ _ (Kept.update hz rfl rfl rfl rfl rfl)
    · exact hz

theorem State.setItem_kept {z : State} (s : State) (d : Nat) (i : Item) (hz : Kept z s) : Kept z (State.setItem s d i) := by
  unfold State.setItem
  repeat' (first
    | with_reducible assumption
    | intro _
    | with_reducible apply kept_foldl
    | with_reducible apply kept_foldl_fst
    | with_reducible apply kept_foldr
    | with_reducible apply kept_ite
    | with_reducible apply kept_ite_fst
    | with_reducible apply kept_ite_snd
    | with_reducible apply kept_ite_third
    | fail_if_no_progress (with_reducible refine Kept.update ?_ rfl rfl rfl rfl rfl))

theorem State.storeItem_kept {z : State} (s : State) (i : Item) (hz : Kept z s) : Kept z (State.storeItem s i).1 := by
  unfold State.storeItem
  repeat' (first
    | with_reducible assumption
    | intro _
    | with_reducible apply State.charge_kept
    | with_reducible apply State.set0_kept
    | with_reducible apply State.raise_kept
    | with_reducible apply State.allocCells_kept
    | with_reducible apply State.setItem_kept
    | with_reducible apply kept_foldl_snd
    | with_reducible apply kept_foldl
    | with_reducible apply kept_foldl_fst
    | with_reducible apply kept_foldr
    | with_reducible apply kept_ite
    | with_reducible apply kept_ite_fst
    | with_reducible apply kept_ite_snd
    | with_reducible apply kept_ite_third
    | fail_if_no_progress (with_reducible refine Kept.update ?_ rfl rfl rfl rfl rfl)
    | split)

theorem State.countReleased_kept {z : State} (s : State) (c : Charge) (hz : Kept z s) : Kept z (State.countReleased s c) := by
  unfold State.countReleased
  repeat' (first
    | with_reducible assumption
    | intro _
    | with_reducible apply kept_foldl
    | with_reducible apply kept_foldl_fst
    | with_reducible apply kept_foldr
    | with_reducible apply kept_ite
    | with_reducible apply kept_ite_fst
    | with_reducible apply kept_ite_snd
    | with_reducible apply kept_ite_third
    | fail_if_no_progress (with_reducible refine Kept.update ?_ rfl rfl rfl rfl rfl))

theorem State.noteRelease_kept {z : State} (s : State) (d : Nat) (hz : Kept z s) : Kept z (State.noteRelease s d) := by
  unfold State.noteRelease
  repeat' (first
    | with_reducible assumption
    | intro _
    | with_reducible apply kept_foldl
    | with_reducible apply kept_foldl_fst
    | with_reducible apply kept_foldr
    | with_reducible apply kept_ite
    | with_reducible apply kept_ite_fst
    | with_reducible apply kept_ite_snd
    | with_reducible apply kept_ite_third
    | fail_if_no_progress (with_reducible refine Kept.update ?_ rfl rfl rfl rfl rfl)
    | split)

theorem State.setHop_kept {z : State} (s : State) (n vc : Nat) (h : Hop) (hz : Kept z s) : Kept z (State.setHop s n vc h) := by
  unfold State.setHop
  repeat' (first
    | with_reducible assumption
    | intro _
    | with_reducible apply kept_foldl
    | with_reducible apply kept_foldl_fst
    | with_reducible apply kept_foldr
    | with_reducible apply kept_ite
    | with_reducible apply kept_ite_fst
    | with_reducible apply kept_ite_snd
    | with_reducible apply kept_ite_third
    | fail_if_no_progress (with_reducible refine Kept.update ?_ rfl rfl rfl rfl rfl))

theorem State.showCredit_kept {z : State} (s : State) (n : Nat) (hz : Kept z s) : Kept z (State.showCredit s n) := by
  unfold State.showCredit
  repeat' (first
    | with_reducible assumption
    | intro _
    | with_reducible apply State.sf_kept)

theorem State.freeItem_kept {z : State} (s : State) (d : Nat) (hz : Kept z s) : Kept z (State.freeItem s d) := by
  unfold State.freeItem
  repeat' (first
    | with_reducible assumption
    | intro _
    | with_reducible apply State.countReleased_kept
    | with_reducible apply State.pfcCheck_kept
    | with_reducible apply State.uncharge_kept
    | with_reducible apply State.noteRelease_kept
    | with_reducible apply State.set0_kept
    | with_reducible apply kept_foldl_snd
    | with_reducible apply kept_foldl
    | with_reducible apply kept_foldl_fst
    | with_reducible apply kept_foldr
    | with_reducible apply kept_ite
    | with_reducible apply kept_ite_fst
    | with_reducible apply kept_ite_snd
    | with_reducible apply kept_ite_third
    | fail_if_no_progress (with_reducible refine Kept.update ?_ rfl rfl rfl rfl rfl))

theorem State.releaseCopy_kept {z : State} (s : State) (d : Nat) (hz : Kept z s) : Kept z (State.releaseCopy s d) := by
  unfold State.releaseCopy
  repeat' (first
    | with_reducible assumption
    | intro _
    | with_reducible apply State.freeItem_kept
    | with_reducible apply State.setItem_kept
    | with_reducible apply kept_foldl
    | with_reducible apply kept_foldl_fst
    | with_reducible apply kept_foldr
    | with_reducible apply kept_ite)

theorem State.setQueue_kept {z : State} (s : State) (q : Nat) (x : Queue) (hz : Kept z s) : Kept z (State.setQueue s q x) := by
  unfold State.setQueue
  repeat' (first
    | with_reducible assumption
    | intro _
    | with_reducible apply kept_foldl
    | with_reducible apply kept_foldl_fst
    | with_reducible apply kept_foldr
    | with_reducible apply kept_ite
    | with_reducible apply kept_ite_fst
    | with_reducible apply kept_ite_snd
    | with_reducible apply kept_ite_third
    | fail_if_no_progress (with_reducible refine Kept.update ?_ rfl rfl rfl rfl rfl))

theorem State.setEgress_kept {z : State} (s : State) (n : Nat) (e : Egress) (hz : Kept z s) : Kept z (State.setEgress s n e) := by
  unfold State.setEgress
  repeat' (first
    | with_reducible assumption
    | intro _
    | with_reducible apply kept_foldl
    | with_reducible apply kept_foldl_fst
    | with_reducible apply kept_foldr
    | with_reducible apply kept_ite
    | with_reducible apply kept_ite_fst
    | with_reducible apply kept_ite_snd
    | with_reducible apply kept_ite_third
    | fail_if_no_progress (with_reducible refine Kept.update ?_ rfl rfl rfl rfl rfl))

theorem State.shape_kept {z : State} (s : State) (n : Nat) (hz : Kept z s) : Kept z (State.shape s n) := by
  unfold State.shape
  repeat' (first
    | with_reducible assumption
    | intro _
    | with_reducible apply State.setEgress_kept)

theorem State.regate_kept {z : State} (s : State) (f : State → State) (hf : ∀ u, Kept z u → Kept z (f u)) (hz : Kept z s) :
    Kept z (s.regate f) := by
  unfold State.regate
  extract_lets s1
  have h1 : Kept z s1 := hf _ (kept_foldl hz fun u n hu => State.shape_kept _ _ hu)
  exact kept_foldl h1 fun u n hu => State.setEgress_kept _ _ _ hu

theorem State.dropCredit_kept {z : State} (s : State) (n tc : Nat) (hz : Kept z s) : Kept z (State.dropCredit s n tc) := by
  unfold State.dropCredit
  repeat' (first
    | with_reducible assumption
    | intro _
    | with_reducible apply State.setEgress_kept)

theorem State.preempt_kept {z : State} (s : State) (n : Nat) (hz : Kept z s) : Kept z (State.preempt s n) := by
  unfold State.preempt
  repeat' (first
    | with_reducible assumption
    | intro _
    | with_reducible apply State.fpCount_kept
    | with_reducible apply State.shape_kept
    | with_reducible apply State.setEgress_kept
    | with_reducible apply kept_foldl
    | with_reducible apply kept_foldl_fst
    | with_reducible apply kept_foldr
    | with_reducible apply kept_ite
    | with_reducible apply kept_ite_fst
    | with_reducible apply kept_ite_snd
    | with_reducible apply kept_ite_third
    | fail_if_no_progress (with_reducible refine Kept.update ?_ rfl rfl rfl rfl rfl)
    | split)

theorem State.setEntries_kept {z : State} (s : State) (q : Nat) (es : List QEntry) (hz : Kept z s) : Kept z (State.setEntries s q es) := by
  unfold State.setEntries
  repeat' (first
    | with_reducible assumption
    | intro _
    | with_reducible apply State.sf_kept
    | with_reducible apply State.shape_kept
    | with_reducible apply State.setQueue_kept
    | with_reducible apply State.dropCredit_kept
    | with_reducible apply kept_foldl
    | with_reducible apply kept_foldl_fst
    | with_reducible apply kept_foldr
    | with_reducible apply kept_ite)

theorem State.addEntry_kept {z : State} (s : State) (q d : Nat) (hz : Kept z s) : Kept z (State.addEntry s q d) := by
  unfold State.addEntry
  repeat' (first
    | with_reducible assumption
    | intro _
    | with_reducible apply State.set0_kept
    | with_reducible apply State.setItem_kept
    | with_reducible apply State.setEntries_kept
    | with_reducible apply State.sf_kept)

theorem State.pushEntry_kept {z : State} (s : State) (q d : Nat) (hz : Kept z s) : Kept z (State.pushEntry s q d) := by
  unfold State.pushEntry
  repeat' (first
    | with_reducible assumption
    | intro _
    | with_reducible apply State.bump64_kept
    | with_reducible apply State.addEntry_kept
    | with_reducible apply kept_foldl
    | with_reducible apply kept_foldl_fst
    | with_reducible apply kept_foldr
    | with_reducible apply kept_ite)

theorem State.queueOverrun_kept {z : State} (s : State) (q : Nat) (hz : Kept z s) : Kept z (State.queueOverrun s q) := by
  unfold State.queueOverrun
  repeat' (first
    | with_reducible assumption
    | intro _
    | with_reducible apply State.raise_kept
    | with_reducible apply State.setFlag_kept)

theorem State.returnEntry_kept {z : State} (s : State) (d : Nat) (hz : Kept z s) : Kept z (State.returnEntry s d) := by
  unfold State.returnEntry
  repeat' (first
    | with_reducible assumption
    | intro _
    | with_reducible apply State.setItem_kept)

theorem State.enqueue_kept {z : State} (s : State) (q d : Nat) (hz : Kept z s) : Kept z (State.enqueue s q d) := by
  unfold State.enqueue
  repeat' (first
    | with_reducible assumption
    | intro _
    | with_reducible apply State.returnEntry_kept
    | with_reducible apply State.releaseCopy_kept
    | with_reducible apply State.queueOverrun_kept
    | with_reducible apply State.bump_kept
    | with_reducible apply State.pushEntry_kept
    | with_reducible apply kept_foldl
    | with_reducible apply kept_foldl_fst
    | with_reducible apply kept_foldr
    | with_reducible apply kept_ite)

theorem State.enqueueAll_kept {z : State} (s : State) (qs : List Nat) (d : Nat) (hz : Kept z s) : Kept z (State.enqueueAll s qs d) := by
  unfold State.enqueueAll
  repeat' (first
    | with_reducible assumption
    | intro _
    | with_reducible apply State.freeItem_kept
    | with_reducible apply State.enqueue_kept
    | with_reducible apply State.setItem_kept
    | with_reducible apply kept_foldl_snd
    | with_reducible apply kept_foldl
    | with_reducible apply kept_foldl_fst
    | with_reducible apply kept_foldr
    | with_reducible apply kept_ite)

theorem State.removeEntry_kept {z : State} (s : State) (q d : Nat) (hz : Kept z s) : Kept z (State.removeEntry s q d) := by
  unfold State.removeEntry
  repeat' (first
    | with_reducible assumption
    | intro _
    | with_reducible apply State.set0_kept
    | with_reducible apply State.returnEntry_kept
    | with_reducible apply State.setEntries_kept
    | with_reducible apply kept_foldl
    | with_reducible apply kept_foldl_fst
    | with_reducible apply kept_foldr
    | with_reducible apply kept_ite)

theorem State.startEntry_kept {z : State} (s : State) (q d : Nat) (hz : Kept z s) : Kept z (State.startEntry s q d) := by
  unfold State.startEntry
  repeat' (first
    | with_reducible assumption
    | intro _
    | with_reducible apply State.setQueue_kept)

theorem State.unstartEntry_kept {z : State} (s : State) (q d : Nat) (hz : Kept z s) : Kept z (State.unstartEntry s q d) := by
  unfold State.unstartEntry
  repeat' (first
    | with_reducible assumption
    | intro _
    | with_reducible apply State.setQueue_kept)

theorem State.own_kept {z : State} (s : State) (q : Nat) (hz : Kept z s) : Kept z (State.own s q) := by
  unfold State.own
  repeat' (first
    | with_reducible assumption
    | intro _
    | with_reducible apply kept_foldl
    | with_reducible apply kept_foldl_fst
    | with_reducible apply kept_foldr
    | with_reducible apply kept_ite
    | with_reducible apply kept_ite_fst
    | with_reducible apply kept_ite_snd
    | with_reducible apply kept_ite_third
    | fail_if_no_progress (with_reducible refine Kept.update ?_ rfl rfl rfl rfl rfl))

theorem State.dropRemainder_kept {z : State} (s : State) (q : Nat) (hz : Kept z s) : Kept z (State.dropRemainder s q).1 := by
  unfold State.dropRemainder
  repeat' (first
    | with_reducible assumption
    | intro _
    | with_reducible apply State.releaseCopy_kept
    | with_reducible apply State.removeEntry_kept
    | with_reducible apply kept_foldl_snd
    | with_reducible apply kept_foldl)

theorem State.dropCounted_kept {z : State} (s : State) (q : Nat) (hz : Kept z s) : Kept z (State.dropCounted s q) := by
  unfold State.dropCounted
  repeat' (first
    | with_reducible assumption
    | intro _
    | with_reducible apply State.dropRemainder_kept
    | with_reducible apply State.set0_kept
    | with_reducible apply State.bumpBy_kept
    | with_reducible apply kept_foldl
    | with_reducible apply kept_foldl_fst
    | with_reducible apply kept_foldr
    | with_reducible apply kept_ite)

theorem State.qcmd_kept {z : State} (s : State) (w : Nat) (hz : Kept z s) : Kept z (State.qcmd s w) := by
  unfold State.qcmd
  repeat' (first
    | with_reducible assumption
    | intro _
    | with_reducible apply State.set0_kept
    | with_reducible apply State.dropCounted_kept
    | with_reducible apply kept_foldl
    | with_reducible apply kept_foldl_fst
    | with_reducible apply kept_foldr
    | with_reducible apply kept_ite)

theorem execDropRemainder_answers (t : Nat) (queue : Fin 8192) (s : State) : Answers (s.clock t) (execDropRemainder t queue s) := by
  unfold execDropRemainder
  repeat' (first
    | with_reducible exact Kept.refl _
    | intro _
    | with_reducible apply answers_next
    | with_reducible apply State.qcmd_kept)

theorem execQueueStale_answers (t : Nat) (queue : Fin 6144) (s : State) : Answers (s.clock t) (execQueueStale t queue s) := by
  unfold execQueueStale
  repeat' (first
    | with_reducible exact Kept.refl _
    | intro _
    | with_reducible apply answers_next
    | with_reducible apply State.raise_kept
    | with_reducible apply State.clock_kept
    | with_reducible apply State.sf_kept
    | with_reducible apply State.dropCounted_kept
    | with_reducible apply answers_ite
    | with_reducible assumption
    | intro _
    | with_reducible apply kept_foldl
    | with_reducible apply kept_foldl_fst
    | with_reducible apply kept_foldr
    | with_reducible apply kept_ite)

theorem State.sec_kept {z : State} (s : State) (hz : Kept z s) : Kept z (State.sec s) := by
  unfold State.sec
  repeat' (first
    | with_reducible assumption
    | intro _
    | with_reducible apply State.raise_kept
    | with_reducible apply State.bump_kept)

theorem State.dedWord_kept {z : State} (s : State) (ca half : Nat) (hz : Kept z s) : Kept z (State.dedWord s ca half) := by
  unfold State.dedWord
  repeat' (first
    | with_reducible assumption
    | intro _
    | with_reducible apply State.wr_kept
    | with_reducible apply State.bump_kept
    | with_reducible apply State.setItem_kept
    | with_reducible apply State.raise_kept
    | with_reducible apply kept_foldl
    | with_reducible apply kept_foldl_fst
    | with_reducible apply kept_foldr
    | with_reducible apply kept_ite
    | with_reducible apply kept_ite_fst
    | with_reducible apply kept_ite_snd
    | with_reducible apply kept_ite_third
    | fail_if_no_progress (with_reducible refine Kept.update ?_ rfl rfl rfl rfl rfl))

theorem State.readItem_kept {z : State} (s : State) (d : Nat) (ecc : Ecc) (hz : Kept z s) : Kept z (State.readItem s d ecc) := by
  unfold State.readItem
  repeat' (first
    | with_reducible assumption
    | intro _
    | with_reducible apply State.sec_kept
    | with_reducible apply State.dedWord_kept
    | with_reducible apply kept_foldl
    | with_reducible apply kept_foldl_fst
    | with_reducible apply kept_foldr
    | with_reducible apply kept_ite
    | with_reducible apply kept_ite_fst
    | with_reducible apply kept_ite_snd
    | with_reducible apply kept_ite_third
    | fail_if_no_progress (with_reducible refine Kept.update ?_ rfl rfl rfl rfl rfl)
    | split
    | extract_lets)

theorem State.takeHead_kept {z : State} (s : State) (q : Nat) (ecc : Ecc) (hz : Kept z s) : Kept z (State.takeHead s q ecc).1 := by
  unfold State.takeHead
  repeat' (first
    | with_reducible assumption
    | intro _
    | with_reducible apply State.removeEntry_kept
    | with_reducible apply State.readItem_kept
    | with_reducible apply State.own_kept
    | with_reducible apply kept_foldl
    | with_reducible apply kept_foldl_fst
    | with_reducible apply kept_foldr
    | with_reducible apply kept_ite
    | with_reducible apply kept_ite_fst
    | with_reducible apply kept_ite_snd
    | with_reducible apply kept_ite_third
    | fail_if_no_progress (with_reducible refine Kept.update ?_ rfl rfl rfl rfl rfl)
    | split)

theorem execScrubWord_answers (t : Nat) (ecc : Ecc) (s : State) : Answers (s.clock t) (execScrubWord t ecc s) := by
  unfold execScrubWord
  repeat' (first
    | with_reducible exact Kept.refl _
    | intro _
    | with_reducible apply answers_next
    | with_reducible apply State.clock_kept
    | with_reducible apply State.sec_kept
    | with_reducible apply State.dedWord_kept
    | with_reducible apply State.wrapW_kept
    | with_reducible apply answers_ite
    | with_reducible assumption
    | intro _
    | with_reducible apply kept_foldl
    | with_reducible apply kept_foldl_fst
    | with_reducible apply kept_foldr
    | with_reducible apply kept_ite
    | with_reducible apply kept_ite_fst
    | with_reducible apply kept_ite_snd
    | with_reducible apply kept_ite_third
    | fail_if_no_progress (with_reducible refine Kept.update ?_ rfl rfl rfl rfl rfl)
    | split)

theorem State.startCopy_kept {z : State} (s : State) (b : Nat) (retire : Bool) (hz : Kept z s) : Kept z (State.startCopy s b retire) := by
  unfold State.startCopy
  repeat' (first
    | with_reducible assumption
    | intro _
    | with_reducible apply State.set0_kept
    | with_reducible apply kept_foldl
    | with_reducible apply kept_foldl_fst
    | with_reducible apply kept_foldr
    | with_reducible apply kept_ite
    | with_reducible apply kept_ite_fst
    | with_reducible apply kept_ite_snd
    | with_reducible apply kept_ite_third
    | fail_if_no_progress (with_reducible refine Kept.update ?_ rfl rfl rfl rfl rfl))

theorem execSpareRotation_answers (t : Nat) (s : State) : Answers (s.clock t) (execSpareRotation t s) := by
  unfold execSpareRotation
  repeat' (first
    | with_reducible exact Kept.refl _
    | intro _
    | with_reducible apply answers_next
    | with_reducible apply State.startCopy_kept
    | with_reducible apply State.clock_kept
    | with_reducible apply answers_ite
    | with_reducible assumption
    | intro _
    | with_reducible apply kept_foldl
    | with_reducible apply kept_foldl_fst
    | with_reducible apply kept_foldr
    | with_reducible apply kept_ite
    | with_reducible apply kept_ite_fst
    | with_reducible apply kept_ite_snd
    | with_reducible apply kept_ite_third
    | fail_if_no_progress (with_reducible refine Kept.update ?_ rfl rfl rfl rfl rfl))

theorem execSpareCopyDone_answers (t : Nat) (s : State) : Answers (s.clock t) (execSpareCopyDone t s) := by
  unfold execSpareCopyDone
  repeat' (first
    | with_reducible exact Kept.refl _
    | intro _
    | with_reducible apply answers_next
    | with_reducible apply State.set0_kept
    | with_reducible apply State.raise_kept
    | with_reducible apply State.wrapW_kept
    | with_reducible apply State.clock_kept
    | with_reducible apply answers_ite
    | with_reducible assumption
    | intro _
    | with_reducible apply kept_foldl
    | with_reducible apply kept_foldl_fst
    | with_reducible apply kept_foldr
    | with_reducible apply kept_ite
    | with_reducible apply kept_ite_fst
    | with_reducible apply kept_ite_snd
    | with_reducible apply kept_ite_third
    | fail_if_no_progress (with_reducible refine Kept.update ?_ rfl rfl rfl rfl rfl)
    | split
    | extract_lets)

theorem execSpareTestDone_answers (t : Nat) (ok : Bool) (s : State) : Answers (s.clock t) (execSpareTestDone t ok s) := by
  unfold execSpareTestDone
  repeat' (first
    | with_reducible exact Kept.refl _
    | intro _
    | with_reducible apply answers_next
    | with_reducible apply State.set0_kept
    | with_reducible apply State.raise_kept
    | with_reducible apply State.clock_kept
    | with_reducible apply answers_ite
    | with_reducible assumption
    | intro _
    | with_reducible apply kept_foldl
    | with_reducible apply kept_foldl_fst
    | with_reducible apply kept_foldr
    | with_reducible apply kept_ite
    | with_reducible apply kept_ite_fst
    | with_reducible apply kept_ite_snd
    | with_reducible apply kept_ite_third
    | fail_if_no_progress (with_reducible refine Kept.update ?_ rfl rfl rfl rfl rfl)
    | split
    | extract_lets)

theorem execBankRetired_answers (t : Nat) (bank : Fin 32) (s : State) : Answers (s.clock t) (execBankRetired t bank s) := by
  unfold execBankRetired
  repeat' (first
    | with_reducible exact Kept.refl _
    | intro _
    | with_reducible apply answers_next
    | with_reducible apply State.clock_kept
    | with_reducible apply State.assertErr_kept
    | with_reducible apply State.startCopy_kept
    | with_reducible apply answers_ite)

/-! Machine/Control.lean -/

theorem State.placeControl_kept {z : State} (s : State) (c : CtlFrame) (hz : Kept z s) : KeptO z (s.placeControl c) := by
  unfold State.placeControl
  extract_lets k p i w
  have hw : Kept z w.1 := State.storeItem_kept _ _ hz
  split
  · exact keptO_none z
  · intro u hu
    obtain ⟨d, -, rfl⟩ := Option.map_eq_some_iff.mp hu
    exact State.pushEntry_kept _ _ _ hw

theorem State.drainControl_kept {z : State} (s : State) (hz : Kept z s) : Kept z s.drainControl := by
  unfold State.drainControl
  extract_lets r
  split
  · exact hz
  · have hr : Kept z r.1 := by
      refine kept_foldl_fst hz fun u c hu => ?_
      split
      · exact hu
      · split
        · next t ht => exact State.placeControl_kept _ _ hu t ht
        · exact hu
    exact Kept.update hr rfl rfl rfl rfl rfl

theorem State.sendControl_kept {z : State} (s : State) (n tc : Nat) (relay : Bool) (bytes : Bytes) (ptpFrom : Option Nat) (hz : Kept z s) : Kept z (State.sendControl s n tc relay bytes ptpFrom) := by
  unfold State.sendControl
  repeat' (first
    | with_reducible assumption
    | intro _
    | with_reducible apply State.drainControl_kept
    | with_reducible apply State.preempt_kept
    | with_reducible apply kept_foldl
    | with_reducible apply kept_foldl_fst
    | with_reducible apply kept_foldr
    | with_reducible apply kept_ite
    | with_reducible apply kept_ite_fst
    | with_reducible apply kept_ite_snd
    | with_reducible apply kept_ite_third
    | fail_if_no_progress (with_reducible refine Kept.update ?_ rfl rfl rfl rfl rfl))

theorem State.ctlDeliver_kept {z : State} (s : State) (proto n : Nat) (f : Bytes) (hz : Kept z s) : Kept z (State.ctlDeliver s proto n f) := by
  unfold State.ctlDeliver
  repeat' (first
    | with_reducible assumption
    | intro _
    | with_reducible apply State.storeItem_kept
    | with_reducible apply kept_foldl
    | with_reducible apply kept_foldl_fst
    | with_reducible apply kept_foldr
    | with_reducible apply kept_ite
    | with_reducible apply kept_ite_fst
    | with_reducible apply kept_ite_snd
    | with_reducible apply kept_ite_third
    | fail_if_no_progress (with_reducible refine Kept.update ?_ rfl rfl rfl rfl rfl)
    | split
    | extract_lets)

theorem State.ctlRead_kept {z : State} (s : State) (proto n : Nat) (p : Bytes → Bool) (hz : Kept z s) : Kept z (State.ctlRead s proto n p) := by
  unfold State.ctlRead
  repeat' (first
    | with_reducible assumption
    | intro _
    | with_reducible apply State.freeItem_kept
    | with_reducible apply kept_foldl
    | with_reducible apply kept_foldl_fst
    | with_reducible apply kept_foldr
    | with_reducible apply kept_ite
    | with_reducible apply kept_ite_fst
    | with_reducible apply kept_ite_snd
    | with_reducible apply kept_ite_third
    | fail_if_no_progress (with_reducible refine Kept.update ?_ rfl rfl rfl rfl rfl)
    | split
    | extract_lets)

/-! Machine/TimeUnit.lean -/

theorem State.putPair_kept {z : State} (s : State) (p : TimePair) (hz : Kept z s) : Kept z (State.putPair s p) := by
  unfold State.putPair
  repeat' (first
    | with_reducible assumption
    | intro _
    | with_reducible apply kept_foldl
    | with_reducible apply kept_foldl_fst
    | with_reducible apply kept_foldr
    | with_reducible apply kept_ite
    | with_reducible apply kept_ite_fst
    | with_reducible apply kept_ite_snd
    | with_reducible apply kept_ite_third
    | fail_if_no_progress (with_reducible refine Kept.update ?_ rfl rfl rfl rfl rfl))

theorem State.setRate_kept {z : State} (s : State) (rate : Int) (eff : Nat) (hz : Kept z s) : Kept z (State.setRate s rate eff) := by
  unfold State.setRate
  repeat' (first
    | with_reducible assumption
    | intro _
    | with_reducible apply State.raise_kept
    | with_reducible apply State.putPair_kept
    | with_reducible apply kept_foldl
    | with_reducible apply kept_foldl_fst
    | with_reducible apply kept_foldr
    | with_reducible apply kept_ite
    | with_reducible apply kept_ite_fst
    | with_reducible apply kept_ite_snd
    | with_reducible apply kept_ite_third
    | fail_if_no_progress (with_reducible refine Kept.update ?_ rfl rfl rfl rfl rfl))

theorem State.timeStep_kept {z : State} (s : State) (q : Nat) (e : Nat) (hz : Kept z s) : Kept z (State.timeStep s q e) := by
  unfold State.timeStep
  repeat' (first
    | with_reducible assumption
    | intro _
    | with_reducible apply State.raise_kept
    | with_reducible apply State.putPair_kept
    | with_reducible apply State.wrapF_kept
    | with_reducible apply kept_foldl
    | with_reducible apply kept_foldl_fst
    | with_reducible apply kept_foldr
    | with_reducible apply kept_ite
    | with_reducible apply kept_ite_fst
    | with_reducible apply kept_ite_snd
    | with_reducible apply kept_ite_third
    | fail_if_no_progress (with_reducible refine Kept.update ?_ rfl rfl rfl rfl rfl))

theorem State.todSet_kept {z : State} (s : State) (hz : Kept z s) : Kept z (State.todSet s) := by
  unfold State.todSet
  repeat' (first
    | with_reducible assumption
    | intro _
    | with_reducible apply State.regate_kept
    | with_reducible apply State.timeStep_kept
    | with_reducible apply State.logEvent_kept
    | with_reducible apply kept_foldl
    | with_reducible apply kept_foldl_fst
    | with_reducible apply kept_foldr
    | with_reducible apply kept_ite)

theorem execTodSet_answers (t : Nat) (party : Party) (s : State) : Answers (s.clock t) (execTodSet t party s) := by
  unfold execTodSet
  repeat' (first
    | with_reducible exact Kept.refl _
    | intro _
    | with_reducible apply answers_next
    | with_reducible apply State.hostWrite_kept
    | with_reducible apply State.todSet_kept)

theorem State.captureNow_kept {z : State} (s : State) (p : Party) (hz : Kept z s) : Kept z (State.captureNow s p) := by
  unfold State.captureNow
  repeat' (first
    | with_reducible assumption
    | intro _
    | with_reducible apply State.capture_kept)

theorem State.captureOfs_kept {z : State} (s : State) (p : Party) (hz : Kept z s) : Kept z (State.captureOfs s p) := by
  unfold State.captureOfs
  repeat' (first
    | with_reducible assumption
    | intro _
    | with_reducible apply State.capture_kept)

theorem State.captureRate_kept {z : State} (s : State) (p : Party) (hz : Kept z s) : Kept z (State.captureRate s p) := by
  unfold State.captureRate
  repeat' (first
    | with_reducible assumption
    | intro _
    | with_reducible apply State.capture_kept)

theorem State.giveWord_kept {z : State} (s : State) (p : Party) (r : RegDesc) (v : BitVec 32) (hz : Kept z s) : Kept z (State.giveWord s p r v) := by
  unfold State.giveWord
  repeat' (first
    | with_reducible assumption
    | intro _
    | with_reducible apply State.emit_kept)

theorem execTuNowCapture_answers (t : Nat) (party : Party) (s : State) : Answers (s.clock t) (execTuNowCapture t party s) := by
  unfold execTuNowCapture
  repeat' (first
    | with_reducible exact Kept.refl _
    | intro _
    | with_reducible apply answers_next
    | with_reducible apply State.giveWord_kept
    | with_reducible apply State.clock_kept
    | with_reducible apply State.captureNow_kept)

theorem execTuOfsCapture_answers (t : Nat) (party : Party) (s : State) : Answers (s.clock t) (execTuOfsCapture t party s) := by
  unfold execTuOfsCapture
  repeat' (first
    | with_reducible exact Kept.refl _
    | intro _
    | with_reducible apply answers_next
    | with_reducible apply State.giveWord_kept
    | with_reducible apply State.clock_kept
    | with_reducible apply State.captureOfs_kept)

theorem execTuRateCapture_answers (t : Nat) (party : Party) (s : State) : Answers (s.clock t) (execTuRateCapture t party s) := by
  unfold execTuRateCapture
  repeat' (first
    | with_reducible exact Kept.refl _
    | intro _
    | with_reducible apply answers_next
    | with_reducible apply State.giveWord_kept
    | with_reducible apply State.clock_kept
    | with_reducible apply State.captureRate_kept)

theorem execServoPairChange_answers (t : Nat) (est : Int) (eff : Nat) (s : State) : Answers (s.clock t) (execServoPairChange t est eff s) := by
  unfold execServoPairChange
  repeat' (first
    | with_reducible exact Kept.refl _
    | intro _
    | with_reducible apply answers_next
    | with_reducible apply State.set0_kept
    | with_reducible apply State.clock_kept
    | with_reducible apply State.setRate_kept
    | with_reducible apply answers_ite)

theorem State.setMaster_kept {z : State} (s : State) (m : BitVec 64) (hz : Kept z s) : Kept z (State.setMaster s m) := by
  unfold State.setMaster
  repeat' (first
    | with_reducible assumption
    | intro _
    | with_reducible apply State.raise_kept
    | with_reducible apply kept_foldl
    | with_reducible apply kept_foldl_fst
    | with_reducible apply kept_foldr
    | with_reducible apply kept_ite
    | with_reducible apply kept_ite_fst
    | with_reducible apply kept_ite_snd
    | with_reducible apply kept_ite_third
    | fail_if_no_progress (with_reducible refine Kept.update ?_ rfl rfl rfl rfl rfl))

theorem State.sourcePort_kept {z : State} (s : State) (n : Nat) (hz : Kept z s) : Kept z (State.sourcePort s n) := by
  unfold State.sourcePort
  repeat' (first
    | with_reducible assumption
    | intro _
    | with_reducible apply State.sf_kept
    | with_reducible apply State.set0_kept
    | with_reducible apply kept_foldl
    | with_reducible apply kept_foldl_fst
    | with_reducible apply kept_foldr
    | with_reducible apply kept_ite)

theorem State.becomeMaster_kept {z : State} (s : State) (hz : Kept z s) : Kept z (State.becomeMaster s) := by
  unfold State.becomeMaster
  repeat' (first
    | with_reducible assumption
    | intro _
    | with_reducible apply State.set0_kept
    | with_reducible apply State.sourcePort_kept
    | with_reducible apply State.setMaster_kept
    | with_reducible apply kept_foldl
    | with_reducible apply kept_foldl_fst
    | with_reducible apply kept_foldr
    | with_reducible apply kept_ite
    | with_reducible apply kept_ite_fst
    | with_reducible apply kept_ite_snd
    | with_reducible apply kept_ite_third
    | fail_if_no_progress (with_reducible refine Kept.update ?_ rfl rfl rfl rfl rfl))

theorem execHoldover_answers (t : Nat) (s : State) : Answers (s.clock t) (execHoldover t s) := by
  unfold execHoldover
  repeat' (first
    | with_reducible exact Kept.refl _
    | intro _
    | with_reducible apply answers_next
    | with_reducible apply State.raise_kept
    | with_reducible apply State.clock_kept
    | with_reducible apply State.set0_kept
    | with_reducible apply answers_ite)

theorem execMasterChg_answers (t : Nat) (s : State) : Answers (s.clock t) (execMasterChg t s) := by
  unfold execMasterChg
  repeat' (first
    | with_reducible exact Kept.refl _
    | intro _
    | with_reducible apply answers_next
    | with_reducible apply State.clock_kept
    | with_reducible apply State.becomeMaster_kept
    | with_reducible apply answers_ite)

theorem execPpsInEdge_answers (t : Nat) (falling : Bool) (est : Int) (s : State) : Answers (s.clock t) (execPpsInEdge t falling est s) := by
  unfold execPpsInEdge
  repeat' (first
    | with_reducible exact Kept.refl _
    | intro _
    | with_reducible apply answers_next
    | with_reducible apply State.set0_kept
    | with_reducible apply State.clock_kept
    | with_reducible apply State.wr64_kept
    | with_reducible apply State.regate_kept
    | with_reducible apply State.timeStep_kept
    | with_reducible apply State.setRate_kept
    | with_reducible apply answers_ite
    | with_reducible assumption
    | intro _
    | with_reducible apply kept_foldl
    | with_reducible apply kept_foldl_fst
    | with_reducible apply kept_foldr
    | with_reducible apply kept_ite
    | with_reducible apply kept_ite_fst
    | with_reducible apply kept_ite_snd
    | with_reducible apply kept_ite_third
    | fail_if_no_progress (with_reducible refine Kept.update ?_ rfl rfl rfl rfl rfl))

theorem execPpsMiss_answers (t : Nat) (s : State) : Answers (s.clock t) (execPpsMiss t s) := by
  unfold execPpsMiss
  repeat' (first
    | with_reducible exact Kept.refl _
    | intro _
    | with_reducible apply answers_next
    | with_reducible apply State.set0_kept
    | with_reducible apply State.raise_kept
    | with_reducible apply State.clock_kept
    | with_reducible apply answers_ite
    | with_reducible assumption
    | intro _
    | with_reducible apply kept_foldl
    | with_reducible apply kept_foldl_fst
    | with_reducible apply kept_foldr
    | with_reducible apply kept_ite
    | with_reducible apply kept_ite_fst
    | with_reducible apply kept_ite_snd
    | with_reducible apply kept_ite_third
    | fail_if_no_progress (with_reducible refine Kept.update ?_ rfl rfl rfl rfl rfl)
    | split
    | extract_lets)

theorem State.fall_kept {z : State} (s : State) (pin : String) (hz : Kept z s) : Kept z (State.fall s pin) := by
  unfold State.fall
  repeat' (first
    | with_reducible assumption
    | intro _
    | with_reducible apply State.emit_kept)

theorem execPpsOutEdge_answers (t : Nat) (s : State) : Answers (s.clock t) (execPpsOutEdge t s) := by
  unfold execPpsOutEdge
  repeat' (first
    | with_reducible exact Kept.refl _
    | intro _
    | with_reducible apply answers_next
    | with_reducible apply State.fall_kept
    | with_reducible apply State.emit_kept
    | with_reducible apply State.clock_kept
    | with_reducible apply answers_ite
    | with_reducible assumption
    | intro _
    | with_reducible apply kept_foldl
    | with_reducible apply kept_foldl_fst
    | with_reducible apply kept_foldr
    | with_reducible apply kept_ite
    | with_reducible apply kept_ite_fst
    | with_reducible apply kept_ite_snd
    | with_reducible apply kept_ite_third
    | fail_if_no_progress (with_reducible refine Kept.update ?_ rfl rfl rfl rfl rfl)
    | split)

theorem execTickOutEdge_answers (t : Nat) (s : State) : Answers (s.clock t) (execTickOutEdge t s) := by
  unfold execTickOutEdge
  repeat' (first
    | with_reducible exact Kept.refl _
    | intro _
    | with_reducible apply answers_next
    | with_reducible apply State.fall_kept
    | with_reducible apply State.emit_kept
    | with_reducible apply State.clock_kept
    | with_reducible apply answers_ite
    | with_reducible assumption
    | intro _
    | with_reducible apply kept_foldl
    | with_reducible apply kept_foldl_fst
    | with_reducible apply kept_foldr
    | with_reducible apply kept_ite
    | with_reducible apply kept_ite_fst
    | with_reducible apply kept_ite_snd
    | with_reducible apply kept_ite_third
    | fail_if_no_progress (with_reducible refine Kept.update ?_ rfl rfl rfl rfl rfl)
    | split
    | extract_lets
    | dsimp only
    | dsimp +zetaDelta only)

theorem State.ptpSeq_kept {z : State} (s : State) (n type : Nat) (hz : Kept z s) : Kept z (State.ptpSeq s n type).2 := by
  unfold State.ptpSeq
  repeat' (first
    | with_reducible assumption
    | intro _
    | with_reducible apply kept_foldl_snd
    | with_reducible apply kept_foldl
    | with_reducible apply kept_foldl_fst
    | with_reducible apply kept_foldr
    | with_reducible apply kept_ite
    | with_reducible apply kept_ite_fst
    | with_reducible apply kept_ite_snd
    | with_reducible apply kept_ite_third
    | fail_if_no_progress (with_reducible refine Kept.update ?_ rfl rfl rfl rfl rfl))

theorem State.ptpSend_kept {z : State} (s : State) (n : Nat) (msg : Bytes) (from_ : Option Nat) (hz : Kept z s) : Kept z (State.ptpSend s n msg from_) := by
  unfold State.ptpSend
  repeat' (first
    | with_reducible assumption
    | intro _
    | with_reducible apply State.sendControl_kept)

theorem State.sendSync_kept {z : State} (s : State) (n from_ : Nat) (m : SyncMsg) (hz : Kept z s) : Kept z (State.sendSync s n from_ m) := by
  unfold State.sendSync
  repeat' (first
    | with_reducible assumption
    | intro _
    | with_reducible apply State.ptpSeq_kept
    | with_reducible apply State.ptpSend_kept)

theorem execSyncSend_answers (t : Nat) (s : State) : Answers (s.clock t) (execSyncSend t s) := by
  unfold execSyncSend
  repeat' (first
    | with_reducible exact Kept.refl _
    | intro _
    | with_reducible apply answers_next
    | with_reducible apply State.clock_kept
    | with_reducible apply State.sendSync_kept
    | with_reducible apply kept_foldl_snd
    | with_reducible apply answers_ite
    | with_reducible assumption
    | intro _
    | with_reducible apply kept_foldl
    | with_reducible apply kept_foldl_fst
    | with_reducible apply kept_foldr
    | with_reducible apply kept_ite
    | with_reducible apply kept_ite_fst
    | with_reducible apply kept_ite_snd
    | with_reducible apply kept_ite_third
    | fail_if_no_progress (with_reducible refine Kept.update ?_ rfl rfl rfl rfl rfl))

theorem execPdelayRequest_answers (t : Nat) (port : Fin 257) (s : State) : Answers (s.clock t) (execPdelayRequest t port s) := by
  unfold execPdelayRequest
  repeat' (first
    | with_reducible exact Kept.refl _
    | intro _
    | with_reducible apply answers_next
    | with_reducible apply State.clock_kept
    | with_reducible apply State.sf_kept
    | with_reducible apply State.ptpSeq_kept
    | with_reducible apply State.ptpSend_kept
    | with_reducible apply answers_ite
    | with_reducible assumption
    | intro _
    | with_reducible apply kept_foldl
    | with_reducible apply kept_foldl_fst
    | with_reducible apply kept_foldr
    | with_reducible apply kept_ite
    | with_reducible apply kept_ite_fst
    | with_reducible apply kept_ite_snd
    | with_reducible apply kept_ite_third
    | fail_if_no_progress (with_reducible refine Kept.update ?_ rfl rfl rfl rfl rfl))

theorem execPdelayMessageReceived_answers (t : Nat) (port : Fin 257) (msg : PdelayMsg) (s : State) : Answers (s.clock t) (execPdelayMessageReceived t port msg s) := by
  unfold execPdelayMessageReceived
  repeat' (first
    | with_reducible exact Kept.refl _
    | intro _
    | with_reducible apply answers_next
    | with_reducible apply State.clock_kept
    | with_reducible apply State.ctlRead_kept
    | with_reducible apply State.sendControl_kept
    | with_reducible apply State.sf_kept
    | with_reducible apply answers_ite
    | with_reducible assumption
    | intro _
    | with_reducible apply kept_foldl
    | with_reducible apply kept_foldl_fst
    | with_reducible apply kept_foldr
    | with_reducible apply kept_ite
    | with_reducible apply kept_ite_fst
    | with_reducible apply kept_ite_snd
    | with_reducible apply kept_ite_third
    | fail_if_no_progress (with_reducible refine Kept.update ?_ rfl rfl rfl rfl rfl)
    | split)

/-! Machine/Consist.lean -/

theorem State.sendSide_kept {z : State} (s : State) (k : Nat) (p : Bytes) (hz : Kept z s) : Kept z (State.sendSide s k p) := by
  unfold State.sendSide
  repeat' (first
    | with_reducible assumption
    | intro _
    | with_reducible apply State.sendControl_kept
    | with_reducible apply kept_foldl
    | with_reducible apply kept_foldl_fst
    | with_reducible apply kept_foldr
    | with_reducible apply kept_ite
    | with_reducible apply kept_ite_fst
    | with_reducible apply kept_ite_snd
    | with_reducible apply kept_ite_third
    | fail_if_no_progress (with_reducible refine Kept.update ?_ rfl rfl rfl rfl rfl)
    | split)

theorem State.flood_kept {z : State} (s : State) (but : Option Nat) (p : Bytes) (hz : Kept z s) : Kept z (State.flood s but p) := by
  unfold State.flood
  repeat' (first
    | with_reducible assumption
    | intro _
    | with_reducible apply State.sendSide_kept
    | with_reducible apply kept_foldl_snd
    | with_reducible apply kept_foldl)

theorem State.consistFrame_kept {z : State} (s : State) (port : Nat) (p : Bytes) (f : State → Nat → State)
    (hf : ∀ u k, Kept z u → Kept z (f u k)) (hz : Kept z s) : Kept z (s.consistFrame port p f) := by
  unfold State.consistFrame
  extract_lets s0
  have h0 : Kept z s0 := State.ctlRead_kept _ _ _ _ hz
  clear_value s0
  split
  · exact hz
  · split
    · split
      · exact State.bump_kept _ _ _ h0
      · exact hf _ _ h0
    · exact State.bump_kept _ _ _ h0

theorem State.drawResidence_kept {z : State} (s : State) (hz : Kept z s) : Kept z (State.drawResidence s).2 := by
  unfold State.drawResidence
  repeat' (first
    | with_reducible assumption
    | intro _
    | with_reducible apply State.drawFree_kept)

theorem State.sendCalls_kept {z : State} (s : State) (r : CstRound) (hz : Kept z s) : Kept z (State.sendCalls s r) := by
  unfold State.sendCalls
  repeat' (first
    | with_reducible assumption
    | intro _
    | with_reducible apply State.drawResidence_kept
    | with_reducible apply State.sendSide_kept
    | with_reducible apply kept_foldl_snd
    | with_reducible apply kept_foldl)

theorem State.floodReq_kept {z : State} (s : State) (hz : Kept z s) : Kept z (State.floodReq s) := by
  unfold State.floodReq
  repeat' (first
    | with_reducible assumption
    | intro _
    | with_reducible apply State.flood_kept
    | with_reducible apply kept_foldl
    | with_reducible apply kept_foldl_fst
    | with_reducible apply kept_foldr
    | with_reducible apply kept_ite
    | with_reducible apply kept_ite_fst
    | with_reducible apply kept_ite_snd
    | with_reducible apply kept_ite_third
    | fail_if_no_progress (with_reducible refine Kept.update ?_ rfl rfl rfl rfl rfl))

theorem State.startHeadWait_kept {z : State} (s : State) (hz : Kept z s) : Kept z (State.startHeadWait s) := by
  unfold State.startHeadWait
  repeat' (first
    | with_reducible assumption
    | intro _
    | with_reducible apply kept_foldl
    | with_reducible apply kept_foldl_fst
    | with_reducible apply kept_foldr
    | with_reducible apply kept_ite
    | with_reducible apply kept_ite_fst
    | with_reducible apply kept_ite_snd
    | with_reducible apply kept_ite_third
    | fail_if_no_progress (with_reducible refine Kept.update ?_ rfl rfl rfl rfl rfl))

theorem State.sendCommit_kept {z : State} (s : State) (r : CstRound) (c : CommitInfo) (k m side level first acc : Nat) (hz : Kept z s) : Kept z (State.sendCommit s r c k m side level first acc) := by
  unfold State.sendCommit
  repeat' (first
    | with_reducible assumption
    | intro _
    | with_reducible apply State.drawResidence_kept
    | with_reducible apply State.sendSide_kept
    | with_reducible apply kept_foldl
    | with_reducible apply kept_foldl_fst
    | with_reducible apply kept_foldr
    | with_reducible apply kept_ite)

theorem State.commitRings_kept {z : State} (s : State) (r : CstRound) (c : CommitInfo) (bases : List (Nat × Nat)) (hz : Kept z s) : Kept z (State.commitRings s r c bases) := by
  unfold State.commitRings
  repeat' (first
    | with_reducible assumption
    | intro _
    | with_reducible apply State.sendCommit_kept
    | with_reducible apply kept_foldl_snd
    | with_reducible apply kept_foldl)

theorem State.setCstState_kept {z : State} (s : State) (n : Nat) (hz : Kept z s) : Kept z (State.setCstState s n) := by
  unfold State.setCstState
  repeat' (first
    | with_reducible assumption
    | intro _
    | with_reducible apply State.set0_kept
    | with_reducible apply kept_foldl
    | with_reducible apply kept_foldl_fst
    | with_reducible apply kept_foldr
    | with_reducible apply kept_ite)

theorem State.setRound_kept {z : State} (s : State) (r : CstRound) (hz : Kept z s) : Kept z (State.setRound s r) := by
  unfold State.setRound
  repeat' (first
    | with_reducible assumption
    | intro _
    | with_reducible apply kept_foldl
    | with_reducible apply kept_foldl_fst
    | with_reducible apply kept_foldr
    | with_reducible apply kept_ite
    | with_reducible apply kept_ite_fst
    | with_reducible apply kept_ite_snd
    | with_reducible apply kept_ite_third
    | fail_if_no_progress (with_reducible refine Kept.update ?_ rfl rfl rfl rfl rfl))

theorem State.fixBase_kept {z : State} (s : State) (hz : Kept z s) : Kept z (State.fixBase s).2 := by
  unfold State.fixBase
  repeat' (first
    | with_reducible assumption
    | intro _
    | with_reducible apply State.drawFree_kept
    | with_reducible apply State.sec_kept
    | with_reducible apply kept_foldl_snd
    | with_reducible apply kept_foldl
    | with_reducible apply kept_foldl_fst
    | with_reducible apply kept_foldr
    | with_reducible apply kept_ite
    | with_reducible apply kept_ite_fst
    | with_reducible apply kept_ite_snd
    | with_reducible apply kept_ite_third
    | fail_if_no_progress (with_reducible refine Kept.update ?_ rfl rfl rfl rfl rfl)
    | split)

theorem State.census_kept {z : State} (s : State) (r : CstRound) (hz : Kept z s) : Kept z (State.census s r) := by
  unfold State.census
  repeat' (first
    | with_reducible assumption
    | intro _
    | with_reducible apply State.sendCommit_kept
    | with_reducible apply State.commitRings_kept
    | with_reducible apply State.set0_kept
    | with_reducible apply State.wr64_kept
    | with_reducible apply State.fixBase_kept
    | with_reducible apply State.setCstState_kept
    | with_reducible apply State.raise_kept
    | with_reducible apply kept_foldl
    | with_reducible apply kept_foldl_fst
    | with_reducible apply kept_foldr
    | with_reducible apply kept_ite
    | with_reducible apply kept_ite_fst
    | with_reducible apply kept_ite_snd
    | with_reducible apply kept_ite_third
    | fail_if_no_progress (with_reducible refine Kept.update ?_ rfl rfl rfl rfl rfl))

theorem State.resolve_kept {z : State} (s : State) (hz : Kept z s) : Kept z (State.resolve s) := by
  unfold State.resolve
  repeat' (first
    | with_reducible assumption
    | intro _
    | with_reducible apply State.setCstState_kept
    | with_reducible apply State.sendSide_kept
    | with_reducible apply State.census_kept
    | with_reducible apply State.setRound_kept
    | with_reducible apply kept_foldl
    | with_reducible apply kept_foldl_fst
    | with_reducible apply kept_foldr
    | with_reducible apply kept_ite
    | with_reducible apply kept_ite_fst
    | with_reducible apply kept_ite_snd
    | with_reducible apply kept_ite_third
    | fail_if_no_progress (with_reducible refine Kept.update ?_ rfl rfl rfl rfl rfl)
    | split)

theorem State.resolvePort_kept {z : State} (s : State) (k : Nat) (x : PortRes) (hz : Kept z s) : Kept z (State.resolvePort s k x) := by
  unfold State.resolvePort
  repeat' (first
    | with_reducible assumption
    | intro _
    | with_reducible apply State.resolve_kept
    | with_reducible apply State.setRound_kept
    | with_reducible apply kept_foldl
    | with_reducible apply kept_foldl_fst
    | with_reducible apply kept_foldr
    | with_reducible apply kept_ite
    | with_reducible apply kept_ite_fst
    | with_reducible apply kept_ite_snd
    | with_reducible apply kept_ite_third
    | fail_if_no_progress (with_reducible refine Kept.update ?_ rfl rfl rfl rfl rfl)
    | split)

theorem State.originate_kept {z : State} (s : State) (hz : Kept z s) : Kept z (State.originate s) := by
  unfold State.originate
  repeat' (first
    | with_reducible assumption
    | intro _
    | with_reducible apply State.setCstState_kept
    | with_reducible apply State.set0_kept
    | with_reducible apply State.sendCalls_kept
    | with_reducible apply State.resolve_kept
    | with_reducible apply State.bump_kept
    | with_reducible apply kept_foldl
    | with_reducible apply kept_foldl_fst
    | with_reducible apply kept_foldr
    | with_reducible apply kept_ite
    | with_reducible apply kept_ite_fst
    | with_reducible apply kept_ite_snd
    | with_reducible apply kept_ite_third
    | fail_if_no_progress (with_reducible refine Kept.update ?_ rfl rfl rfl rfl rfl))

theorem State.trigger_kept {z : State} (s : State) (hz : Kept z s) : Kept z (State.trigger s) := by
  unfold State.trigger
  repeat' (first
    | with_reducible assumption
    | intro _
    | with_reducible apply State.floodReq_kept
    | with_reducible apply State.startHeadWait_kept
    | with_reducible apply State.originate_kept
    | with_reducible apply kept_foldl
    | with_reducible apply kept_foldl_fst
    | with_reducible apply kept_foldr
    | with_reducible apply kept_ite
    | with_reducible apply kept_ite_fst
    | with_reducible apply kept_ite_snd
    | with_reducible apply kept_ite_third
    | fail_if_no_progress (with_reducible refine Kept.update ?_ rfl rfl rfl rfl rfl))

theorem State.identityConflict_kept {z : State} (s : State) (hz : Kept z s) : Kept z (State.identityConflict s) := by
  unfold State.identityConflict
  repeat' (first
    | with_reducible assumption
    | intro _
    | with_reducible apply State.raise_kept
    | with_reducible apply State.floodReq_kept
    | with_reducible apply State.set0_kept
    | with_reducible apply kept_foldl
    | with_reducible apply kept_foldl_fst
    | with_reducible apply kept_foldr
    | with_reducible apply kept_ite
    | with_reducible apply kept_ite_fst
    | with_reducible apply kept_ite_snd
    | with_reducible apply kept_ite_third
    | fail_if_no_progress (with_reducible refine Kept.update ?_ rfl rfl rfl rfl rfl))

theorem State.sideGoesUp_kept {z : State} (s : State) (k : Nat) (hz : Kept z s) : Kept z (State.sideGoesUp s k) := by
  unfold State.sideGoesUp
  repeat' (first
    | with_reducible assumption
    | intro _
    | with_reducible apply State.trigger_kept
    | with_reducible apply kept_foldl
    | with_reducible apply kept_foldl_fst
    | with_reducible apply kept_foldr
    | with_reducible apply kept_ite
    | with_reducible apply kept_ite_fst
    | with_reducible apply kept_ite_snd
    | with_reducible apply kept_ite_third
    | fail_if_no_progress (with_reducible refine Kept.update ?_ rfl rfl rfl rfl rfl))

theorem State.sideGoesDown_kept {z : State} (s : State) (k : Nat) (hz : Kept z s) : Kept z (State.sideGoesDown s k) := by
  unfold State.sideGoesDown
  repeat' (first
    | with_reducible assumption
    | intro _
    | with_reducible apply State.resolvePort_kept
    | with_reducible apply State.trigger_kept
    | with_reducible apply kept_foldl
    | with_reducible apply kept_foldl_fst
    | with_reducible apply kept_foldr
    | with_reducible apply kept_ite
    | with_reducible apply kept_ite_fst
    | with_reducible apply kept_ite_snd
    | with_reducible apply kept_ite_third
    | fail_if_no_progress (with_reducible refine Kept.update ?_ rfl rfl rfl rfl rfl))

theorem State.hello_kept {z : State} (s : State) (k : Nat) (p : Bytes) (hz : Kept z s) : Kept z (State.hello s k p) := by
  unfold State.hello
  repeat' (first
    | with_reducible assumption
    | intro _
    | with_reducible apply State.sideGoesUp_kept
    | with_reducible apply State.trigger_kept
    | with_reducible apply kept_foldl
    | with_reducible apply kept_foldl_fst
    | with_reducible apply kept_foldr
    | with_reducible apply kept_ite
    | with_reducible apply kept_ite_fst
    | with_reducible apply kept_ite_snd
    | with_reducible apply kept_ite_third
    | fail_if_no_progress (with_reducible refine Kept.update ?_ rfl rfl rfl rfl rfl))

theorem execHelloReceived_answers (t : Nat) (port : Fin 257) (payload : Bytes) (s : State) : Answers (s.clock t) (execHelloReceived t port payload s) := by
  unfold execHelloReceived
  repeat' (first
    | with_reducible exact Kept.refl _
    | intro _
    | with_reducible apply answers_next
    | with_reducible apply State.consistFrame_kept
    | with_reducible apply State.clock_kept
    | with_reducible apply State.hello_kept
    | with_reducible apply answers_ite
    | with_reducible assumption)

theorem State.adopt_kept {z : State} (s : State) (k : Nat) (p : Bytes) (hz : Kept z s) : Kept z (State.adopt s k p) := by
  unfold State.adopt
  repeat' (first
    | with_reducible assumption
    | intro _
    | with_reducible apply State.set0_kept
    | with_reducible apply State.raise_kept
    | with_reducible apply State.resolve_kept
    | with_reducible apply State.bump_kept
    | with_reducible apply State.sendCalls_kept
    | with_reducible apply kept_foldl
    | with_reducible apply kept_foldl_fst
    | with_reducible apply kept_foldr
    | with_reducible apply kept_ite
    | with_reducible apply kept_ite_fst
    | with_reducible apply kept_ite_snd
    | with_reducible apply kept_ite_third
    | fail_if_no_progress (with_reducible refine Kept.update ?_ rfl rfl rfl rfl rfl))

theorem State.call_kept {z : State} (s : State) (k : Nat) (p : Bytes) (hz : Kept z s) : Kept z (State.call s k p) := by
  unfold State.call
  repeat' (first
    | with_reducible assumption
    | intro _
    | with_reducible apply State.sendSide_kept
    | with_reducible apply State.identityConflict_kept
    | with_reducible apply State.resolvePort_kept
    | with_reducible apply State.adopt_kept
    | with_reducible apply State.originate_kept
    | with_reducible apply State.setRound_kept
    | with_reducible apply kept_foldl
    | with_reducible apply kept_foldl_fst
    | with_reducible apply kept_foldr
    | with_reducible apply kept_ite
    | with_reducible apply kept_ite_fst
    | with_reducible apply kept_ite_snd
    | with_reducible apply kept_ite_third
    | fail_if_no_progress (with_reducible refine Kept.update ?_ rfl rfl rfl rfl rfl)
    | split)

theorem execCallReceived_answers (t : Nat) (port : Fin 257) (payload : Bytes) (s : State) : Answers (s.clock t) (execCallReceived t port payload s) := by
  unfold execCallReceived
  repeat' (first
    | with_reducible exact Kept.refl _
    | intro _
    | with_reducible apply answers_next
    | with_reducible apply State.consistFrame_kept
    | with_reducible apply State.clock_kept
    | with_reducible apply State.call_kept
    | with_reducible apply answers_ite
    | with_reducible assumption)

theorem State.reqAct_kept {z : State} (s : State) (p : Bytes) (relayed : Bool) (hz : Kept z s) : Kept z (State.reqAct s p relayed) := by
  unfold State.reqAct
  repeat' (first
    | with_reducible assumption
    | intro _
    | with_reducible apply State.startHeadWait_kept
    | with_reducible apply State.originate_kept
    | with_reducible apply kept_foldl
    | with_reducible apply kept_foldl_fst
    | with_reducible apply kept_foldr
    | with_reducible apply kept_ite)

theorem State.req_kept {z : State} (s : State) (k : Nat) (p : Bytes) (hz : Kept z s) : Kept z (State.req s k p) := by
  unfold State.req
  repeat' (first
    | with_reducible assumption
    | intro _
    | with_reducible apply State.flood_kept
    | with_reducible apply State.reqAct_kept
    | with_reducible apply kept_foldl
    | with_reducible apply kept_foldl_fst
    | with_reducible apply kept_foldr
    | with_reducible apply kept_ite
    | with_reducible apply kept_ite_fst
    | with_reducible apply kept_ite_snd
    | with_reducible apply kept_ite_third
    | fail_if_no_progress (with_reducible refine Kept.update ?_ rfl rfl rfl rfl rfl))

theorem execReqReceived_answers (t : Nat) (port : Fin 257) (payload : Bytes) (s : State) : Answers (s.clock t) (execReqReceived t port payload s) := by
  unfold execReqReceived
  repeat' (first
    | with_reducible exact Kept.refl _
    | intro _
    | with_reducible apply answers_next
    | with_reducible apply State.consistFrame_kept
    | with_reducible apply State.clock_kept
    | with_reducible apply State.req_kept
    | with_reducible apply answers_ite
    | with_reducible assumption)

theorem State.echo_kept {z : State} (s : State) (k : Nat) (p : Bytes) (hz : Kept z s) : Kept z (State.echo s k p) := by
  unfold State.echo
  repeat' (first
    | with_reducible assumption
    | intro _
    | with_reducible apply State.identityConflict_kept
    | with_reducible apply State.resolvePort_kept
    | with_reducible apply kept_foldl
    | with_reducible apply kept_foldl_fst
    | with_reducible apply kept_foldr
    | with_reducible apply kept_ite
    | with_reducible apply kept_ite_fst
    | with_reducible apply kept_ite_snd
    | with_reducible apply kept_ite_third
    | fail_if_no_progress (with_reducible refine Kept.update ?_ rfl rfl rfl rfl rfl)
    | split)

theorem execEchoReceived_answers (t : Nat) (port : Fin 257) (payload : Bytes) (s : State) : Answers (s.clock t) (execEchoReceived t port payload s) := by
  unfold execEchoReceived
  repeat' (first
    | with_reducible exact Kept.refl _
    | intro _
    | with_reducible apply answers_next
    | with_reducible apply State.consistFrame_kept
    | with_reducible apply State.clock_kept
    | with_reducible apply State.echo_kept
    | with_reducible apply answers_ite
    | with_reducible assumption)

theorem State.commit_kept {z : State} (s : State) (k : Nat) (p : Bytes) (hz : Kept z s) : Kept z (State.commit s k p) := by
  unfold State.commit
  repeat' (first
    | with_reducible assumption
    | intro _
    | with_reducible apply State.commitRings_kept
    | with_reducible apply State.setCstState_kept
    | with_reducible apply State.identityConflict_kept
    | with_reducible apply State.sendCommit_kept
    | with_reducible apply State.wr64_kept
    | with_reducible apply kept_foldl
    | with_reducible apply kept_foldl_fst
    | with_reducible apply kept_foldr
    | with_reducible apply kept_ite
    | with_reducible apply kept_ite_fst
    | with_reducible apply kept_ite_snd
    | with_reducible apply kept_ite_third
    | fail_if_no_progress (with_reducible refine Kept.update ?_ rfl rfl rfl rfl rfl)
    | split)

theorem execCommitReceived_answers (t : Nat) (port : Fin 257) (payload : Bytes) (s : State) : Answers (s.clock t) (execCommitReceived t port payload s) := by
  unfold execCommitReceived
  repeat' (first
    | with_reducible exact Kept.refl _
    | intro _
    | with_reducible apply answers_next
    | with_reducible apply State.consistFrame_kept
    | with_reducible apply State.clock_kept
    | with_reducible apply State.commit_kept
    | with_reducible apply answers_ite
    | with_reducible assumption)

theorem State.commitClock_kept {z : State} (s : State) (c : CommitPlan) (hz : Kept z s) : Kept z (State.commitClock s c) := by
  unfold State.commitClock
  repeat' (first
    | with_reducible assumption
    | intro _
    | with_reducible apply State.timeStep_kept
    | with_reducible apply kept_foldl
    | with_reducible apply kept_foldl_fst
    | with_reducible apply kept_foldr
    | with_reducible apply kept_ite
    | with_reducible apply kept_ite_fst
    | with_reducible apply kept_ite_snd
    | with_reducible apply kept_ite_third
    | fail_if_no_progress (with_reducible refine Kept.update ?_ rfl rfl rfl rfl rfl))

theorem State.commitTime_kept {z : State} (s : State) (c : CommitPlan) (hz : Kept z s) : Kept z (State.commitTime s c) := by
  unfold State.commitTime
  repeat' (first
    | with_reducible assumption
    | intro _
    | with_reducible apply State.regate_kept
    | with_reducible apply State.commitClock_kept)

theorem State.commitMaster_kept {z : State} (s : State) (c : CommitPlan) (hz : Kept z s) : Kept z (State.commitMaster s c) := by
  unfold State.commitMaster
  repeat' (first
    | with_reducible assumption
    | intro _
    | with_reducible apply State.set0_kept
    | with_reducible apply State.becomeMaster_kept
    | with_reducible apply State.setMaster_kept
    | with_reducible apply kept_foldl
    | with_reducible apply kept_foldl_fst
    | with_reducible apply kept_foldr
    | with_reducible apply kept_ite
    | with_reducible apply kept_ite_fst
    | with_reducible apply kept_ite_snd
    | with_reducible apply kept_ite_third
    | fail_if_no_progress (with_reducible refine Kept.update ?_ rfl rfl rfl rfl rfl))

theorem State.hopCommit_kept {z : State} (s : State) (hz : Kept z s) : Kept z (State.hopCommit s) := by
  unfold State.hopCommit
  repeat' (first
    | with_reducible assumption
    | intro _
    | with_reducible apply State.showCredit_kept
    | with_reducible apply kept_foldl_snd
    | with_reducible apply kept_foldl
    | with_reducible apply kept_foldl_fst
    | with_reducible apply kept_foldr
    | with_reducible apply kept_ite
    | with_reducible apply kept_ite_fst
    | with_reducible apply kept_ite_snd
    | with_reducible apply kept_ite_third
    | fail_if_no_progress (with_reducible refine Kept.update ?_ rfl rfl rfl rfl rfl))

theorem State.commitNumbers_kept {z : State} (s : State) (c : CommitPlan) (hz : Kept z s) : Kept z (State.commitNumbers s c) := by
  unfold State.commitNumbers
  repeat' (first
    | with_reducible assumption
    | intro _
    | with_reducible apply State.set0_kept
    | with_reducible apply State.wr_kept
    | with_reducible apply State.wr64_kept)

theorem State.commitEvents_kept {z : State} (s : State) (c : CommitPlan) (renum : Nat) (newHead : Bool) (hz : Kept z s) : Kept z (State.commitEvents s c renum newHead) := by
  unfold State.commitEvents
  repeat' (first
    | with_reducible assumption
    | intro _
    | with_reducible apply State.trace_kept
    | with_reducible apply State.emit_kept
    | with_reducible apply State.raise_kept
    | with_reducible apply State.set0_kept
    | with_reducible apply kept_foldl
    | with_reducible apply kept_foldl_fst
    | with_reducible apply kept_foldr
    | with_reducible apply kept_ite
    | with_reducible apply kept_ite_fst
    | with_reducible apply kept_ite_snd
    | with_reducible apply kept_ite_third
    | fail_if_no_progress (with_reducible refine Kept.update ?_ rfl rfl rfl rfl rfl))

theorem State.applyCommit_kept {z : State} (s : State) (c : CommitPlan) (hz : Kept z s) : Kept z (State.applyCommit s c) := by
  unfold State.applyCommit
  repeat' (first
    | with_reducible assumption
    | intro _
    | with_reducible apply State.commitMaster_kept
    | with_reducible apply State.commitNumbers_kept
    | with_reducible apply State.set0_kept
    | with_reducible apply State.commitTime_kept
    | with_reducible apply State.hopCommit_kept
    | with_reducible apply State.commitEvents_kept
    | with_reducible apply State.reqAct_kept
    | with_reducible apply State.call_kept
    | with_reducible apply State.trigger_kept
    | with_reducible apply kept_foldl_snd
    | with_reducible apply kept_foldl
    | with_reducible apply kept_foldl_fst
    | with_reducible apply kept_foldr
    | with_reducible apply kept_ite
    | with_reducible apply kept_ite_fst
    | with_reducible apply kept_ite_snd
    | with_reducible apply kept_ite_third
    | fail_if_no_progress (with_reducible refine Kept.update ?_ rfl rfl rfl rfl rfl))

theorem execCommitInstant_answers (t : Nat) (s : State) : Answers (s.clock t) (execCommitInstant t s) := by
  unfold execCommitInstant
  repeat' (first
    | with_reducible exact Kept.refl _
    | intro _
    | with_reducible apply answers_next
    | with_reducible apply State.clock_kept
    | with_reducible apply State.applyCommit_kept
    | with_reducible apply answers_ite
    | with_reducible assumption
    | intro _
    | with_reducible apply kept_foldl
    | with_reducible apply kept_foldl_fst
    | with_reducible apply kept_foldr
    | with_reducible apply kept_ite
    | with_reducible apply kept_ite_fst
    | with_reducible apply kept_ite_snd
    | with_reducible apply kept_ite_third
    | fail_if_no_progress (with_reducible refine Kept.update ?_ rfl rfl rfl rfl rfl)
    | split
    | extract_lets)

theorem State.ident_kept {z : State} (s : State) (k : Nat) (p : Bytes) (hz : Kept z s) : Kept z (State.ident s k p) := by
  unfold State.ident
  repeat' (first
    | with_reducible assumption
    | intro _
    | with_reducible apply State.identityConflict_kept
    | with_reducible apply kept_foldl
    | with_reducible apply kept_foldl_fst
    | with_reducible apply kept_foldr
    | with_reducible apply kept_ite
    | with_reducible apply kept_ite_fst
    | with_reducible apply kept_ite_snd
    | with_reducible apply kept_ite_third
    | fail_if_no_progress (with_reducible refine Kept.update ?_ rfl rfl rfl rfl rfl))

theorem execIdentReceived_answers (t : Nat) (port : Fin 257) (payload : Bytes) (s : State) : Answers (s.clock t) (execIdentReceived t port payload s) := by
  unfold execIdentReceived
  repeat' (first
    | with_reducible exact Kept.refl _
    | intro _
    | with_reducible apply answers_next
    | with_reducible apply State.consistFrame_kept
    | with_reducible apply State.clock_kept
    | with_reducible apply State.ident_kept
    | with_reducible apply answers_ite
    | with_reducible assumption)

theorem State.sendIdents_kept {z : State} (s : State) (k : Nat) (hz : Kept z s) : Kept z (State.sendIdents s k) := by
  unfold State.sendIdents
  repeat' (first
    | with_reducible assumption
    | intro _
    | with_reducible apply State.sendSide_kept
    | with_reducible apply kept_foldl_snd
    | with_reducible apply kept_foldl
    | with_reducible apply kept_foldl_fst
    | with_reducible apply kept_foldr
    | with_reducible apply kept_ite
    | with_reducible apply kept_ite_fst
    | with_reducible apply kept_ite_snd
    | with_reducible apply kept_ite_third
    | fail_if_no_progress (with_reducible refine Kept.update ?_ rfl rfl rfl rfl rfl))

theorem State.sendHello_kept {z : State} (s : State) (k : Nat) (hz : Kept z s) : Kept z (State.sendHello s k) := by
  unfold State.sendHello
  repeat' (first
    | with_reducible assumption
    | intro _
    | with_reducible apply State.sendSide_kept
    | with_reducible apply kept_foldl
    | with_reducible apply kept_foldl_fst
    | with_reducible apply kept_foldr
    | with_reducible apply kept_ite
    | with_reducible apply kept_ite_fst
    | with_reducible apply kept_ite_snd
    | with_reducible apply kept_ite_third
    | fail_if_no_progress (with_reducible refine Kept.update ?_ rfl rfl rfl rfl rfl))

theorem State.takeReset_kept {z : State} (s : State) (target : BitVec 64) (tick : Nat) (hz : Kept z s) : Kept z (State.takeReset s target tick) := by
  unfold State.takeReset
  repeat' (first
    | with_reducible assumption
    | intro _
    | with_reducible apply kept_foldl
    | with_reducible apply kept_foldl_fst
    | with_reducible apply kept_foldr
    | with_reducible apply kept_ite
    | with_reducible apply kept_ite_fst
    | with_reducible apply kept_ite_snd
    | with_reducible apply kept_ite_third
    | fail_if_no_progress (with_reducible refine Kept.update ?_ rfl rfl rfl rfl rfl))

theorem State.resetFrame_kept {z : State} (s : State) (k : Nat) (p : Bytes) (hz : Kept z s) : Kept z (State.resetFrame s k p) := by
  unfold State.resetFrame
  repeat' (first
    | with_reducible assumption
    | intro _
    | with_reducible apply State.flood_kept
    | with_reducible apply State.takeReset_kept
    | with_reducible apply kept_foldl
    | with_reducible apply kept_foldl_fst
    | with_reducible apply kept_foldr
    | with_reducible apply kept_ite
    | with_reducible apply kept_ite_fst
    | with_reducible apply kept_ite_snd
    | with_reducible apply kept_ite_third
    | fail_if_no_progress (with_reducible refine Kept.update ?_ rfl rfl rfl rfl rfl))

theorem execResetFrameReceived_answers (t : Nat) (port : Fin 257) (payload : Bytes) (s : State) : Answers (s.clock t) (execResetFrameReceived t port payload s) := by
  unfold execResetFrameReceived
  repeat' (first
    | with_reducible exact Kept.refl _
    | intro _
    | with_reducible apply answers_next
    | with_reducible apply State.consistFrame_kept
    | with_reducible apply State.clock_kept
    | with_reducible apply State.resetFrame_kept
    | with_reducible apply answers_ite
    | with_reducible assumption)

theorem State.cmdReset_kept {z : State} (s : State) (hz : Kept z s) : Kept z (State.cmdReset s) := by
  unfold State.cmdReset
  repeat' (first
    | with_reducible assumption
    | intro _
    | with_reducible apply State.flood_kept
    | with_reducible apply State.takeReset_kept
    | with_reducible apply State.raise_kept
    | with_reducible apply kept_foldl
    | with_reducible apply kept_foldl_fst
    | with_reducible apply kept_foldr
    | with_reducible apply kept_ite
    | with_reducible apply kept_ite_fst
    | with_reducible apply kept_ite_snd
    | with_reducible apply kept_ite_third
    | fail_if_no_progress (with_reducible refine Kept.update ?_ rfl rfl rfl rfl rfl))

theorem execCstReset_answers (t : Nat) (party : Party) (s : State) : Answers (s.clock t) (execCstReset t party s) := by
  unfold execCstReset
  repeat' (first
    | with_reducible exact Kept.refl _
    | intro _
    | with_reducible apply answers_next
    | with_reducible apply State.hostWrite_kept
    | with_reducible apply State.cmdReset_kept)

theorem execCstInaug_answers (t : Nat) (party : Party) (s : State) : Answers (s.clock t) (execCstInaug t party s) := by
  unfold execCstInaug
  repeat' (first
    | with_reducible exact Kept.refl _
    | intro _
    | with_reducible apply answers_next
    | with_reducible apply State.hostWrite_kept
    | with_reducible apply State.trigger_kept)

theorem execHeadWaitExpiry_answers (t : Nat) (s : State) : Answers (s.clock t) (execHeadWaitExpiry t s) := by
  unfold execHeadWaitExpiry
  repeat' (first
    | with_reducible exact Kept.refl _
    | intro _
    | with_reducible apply answers_next
    | with_reducible apply State.clock_kept
    | with_reducible apply State.originate_kept
    | with_reducible apply answers_ite
    | with_reducible assumption
    | intro _
    | with_reducible apply kept_foldl
    | with_reducible apply kept_foldl_fst
    | with_reducible apply kept_foldr
    | with_reducible apply kept_ite
    | with_reducible apply kept_ite_fst
    | with_reducible apply kept_ite_snd
    | with_reducible apply kept_ite_third
    | fail_if_no_progress (with_reducible refine Kept.update ?_ rfl rfl rfl rfl rfl)
    | split
    | extract_lets)

theorem execRoundFail_answers (t : Nat) (s : State) : Answers (s.clock t) (execRoundFail t s) := by
  unfold execRoundFail
  repeat' (first
    | with_reducible exact Kept.refl _
    | intro _
    | with_reducible apply answers_next
    | with_reducible apply State.set0_kept
    | with_reducible apply State.clock_kept
    | with_reducible apply State.raise_kept
    | with_reducible apply State.originate_kept
    | with_reducible apply answers_ite
    | with_reducible assumption
    | intro _
    | with_reducible apply kept_foldl
    | with_reducible apply kept_foldl_fst
    | with_reducible apply kept_foldr
    | with_reducible apply kept_ite
    | with_reducible apply kept_ite_fst
    | with_reducible apply kept_ite_snd
    | with_reducible apply kept_ite_third
    | fail_if_no_progress (with_reducible refine Kept.update ?_ rfl rfl rfl rfl rfl)
    | split
    | extract_lets)

theorem execCensusTimeout_answers (t : Nat) (s : State) : Answers (s.clock t) (execCensusTimeout t s) := by
  unfold execCensusTimeout
  repeat' (first
    | with_reducible exact Kept.refl _
    | intro _
    | with_reducible apply answers_next
    | with_reducible apply State.raise_kept
    | with_reducible apply State.clock_kept
    | with_reducible apply State.bumpF_kept
    | with_reducible apply State.assertErr_kept
    | with_reducible apply State.originate_kept
    | with_reducible apply answers_ite
    | with_reducible assumption
    | intro _
    | with_reducible apply kept_foldl
    | with_reducible apply kept_foldl_fst
    | with_reducible apply kept_foldr
    | with_reducible apply kept_ite
    | with_reducible apply kept_ite_fst
    | with_reducible apply kept_ite_snd
    | with_reducible apply kept_ite_third
    | fail_if_no_progress (with_reducible refine Kept.update ?_ rfl rfl rfl rfl rfl)
    | split
    | extract_lets)

/-! Machine/Image.lean -/

theorem State.deposit_kept {z : State} (s : State) (a : Nat) (f : ImageBuf → ImageBuf) (hz : Kept z s) : Kept z (State.deposit s a f) := by
  unfold State.deposit
  repeat' (first
    | with_reducible assumption
    | intro _
    | with_reducible apply kept_foldl
    | with_reducible apply kept_foldl_fst
    | with_reducible apply kept_foldr
    | with_reducible apply kept_ite
    | with_reducible apply kept_ite_fst
    | with_reducible apply kept_ite_snd
    | with_reducible apply kept_ite_third
    | fail_if_no_progress (with_reducible refine Kept.update ?_ rfl rfl rfl rfl rfl))

theorem State.depositOnce_kept {z : State} (s : State) (a : Nat) (f : ImageBuf → ImageBuf) (hz : Kept z s) : Kept z (State.depositOnce s a f) := by
  unfold State.depositOnce
  repeat' (first
    | with_reducible assumption
    | intro _
    | with_reducible apply kept_foldl
    | with_reducible apply kept_foldl_fst
    | with_reducible apply kept_foldr
    | with_reducible apply kept_ite
    | with_reducible apply kept_ite_fst
    | with_reducible apply kept_ite_snd
    | with_reducible apply kept_ite_third
    | fail_if_no_progress (with_reducible refine Kept.update ?_ rfl rfl rfl rfl rfl))

theorem State.countInput_kept {z : State} (s : State) (a : Nat) (c : Capture) (hz : Kept z s) : Kept z (State.countInput s a c) := by
  unfold State.countInput
  repeat' (first
    | with_reducible assumption
    | intro _
    | with_reducible apply State.depositOnce_kept
    | with_reducible apply State.raise_kept
    | with_reducible apply kept_foldl
    | with_reducible apply kept_foldl_fst
    | with_reducible apply kept_foldr
    | with_reducible apply kept_ite)

theorem State.taskEvent_kept {z : State} (s : State) (src : TaskSource) (a time frac kind : Nat) (rising : Bool) (hz : Kept z s) : Kept z (State.taskEvent s src a time frac kind rising) := by
  unfold State.taskEvent
  repeat' (first
    | with_reducible assumption
    | intro _
    | with_reducible apply State.countInput_kept
    | with_reducible apply kept_foldl_snd
    | with_reducible apply kept_foldl)

theorem State.fieldUpdate_kept {z : State} (s : State) (u : FieldUpdate) (hz : Kept z s) : Kept z (State.fieldUpdate s u) := by
  unfold State.fieldUpdate
  repeat' (first
    | with_reducible assumption
    | intro _
    | with_reducible apply kept_foldl
    | with_reducible apply kept_foldl_fst
    | with_reducible apply kept_foldr
    | with_reducible apply kept_ite
    | with_reducible apply kept_ite_fst
    | with_reducible apply kept_ite_snd
    | with_reducible apply kept_ite_third
    | fail_if_no_progress (with_reducible refine Kept.update ?_ rfl rfl rfl rfl rfl))

theorem State.freeze_kept {z : State} (s : State) (hz : Kept z s) : Kept z (State.freeze s) := by
  unfold State.freeze
  repeat' (first
    | with_reducible assumption
    | intro _
    | with_reducible apply kept_foldl
    | with_reducible apply kept_foldl_fst
    | with_reducible apply kept_foldr
    | with_reducible apply kept_ite
    | with_reducible apply kept_ite_fst
    | with_reducible apply kept_ite_snd
    | with_reducible apply kept_ite_third
    | fail_if_no_progress (with_reducible refine Kept.update ?_ rfl rfl rfl rfl rfl))

/-! Machine/Uart.lean -/

theorem State.setUa_kept {z : State} (s : State) (ch : Nat) (u : Ua) (hz : Kept z s) : Kept z (State.setUa s ch u) := by
  unfold State.setUa
  repeat' (first
    | with_reducible assumption
    | intro _
    | with_reducible apply kept_foldl
    | with_reducible apply kept_foldl_fst
    | with_reducible apply kept_foldr
    | with_reducible apply kept_ite
    | with_reducible apply kept_ite_fst
    | with_reducible apply kept_ite_snd
    | with_reducible apply kept_ite_third
    | fail_if_no_progress (with_reducible refine Kept.update ?_ rfl rfl rfl rfl rfl))

theorem State.uaPump_kept {z : State} (s : State) (ch : Nat) (hz : Kept z s) : Kept z (State.uaPump s ch) := by
  unfold State.uaPump
  repeat' (first
    | with_reducible assumption
    | intro _
    | with_reducible apply State.setUa_kept)

theorem State.uaFlag_kept {z : State} (s : State) (ch : Nat) (x : Fld) (hz : Kept z s) : Kept z (State.uaFlag s ch x) := by
  unfold State.uaFlag
  repeat' (first
    | with_reducible assumption
    | intro _
    | with_reducible apply State.sf_kept
    | with_reducible apply State.setUa_kept)

theorem State.uaClear_kept {z : State} (s : State) (ch mask : Nat) (hz : Kept z s) : Kept z (State.uaClear s ch mask) := by
  unfold State.uaClear
  repeat' (first
    | with_reducible assumption
    | intro _
    | with_reducible apply State.wr_kept)

theorem State.uaSawStat_kept {z : State} (s : State) (party : Party) (ch : Nat) (hz : Kept z s) : Kept z (State.uaSawStat s party ch) := by
  unfold State.uaSawStat
  repeat' (first
    | with_reducible assumption
    | intro _
    | with_reducible apply State.setUa_kept)

theorem State.uaTake_kept {z : State} (s : State) (party : Party) (ch : Nat) (hz : Kept z s) : Kept z (State.uaTake s party ch) := by
  unfold State.uaTake
  repeat' (first
    | with_reducible assumption
    | intro _
    | with_reducible apply State.uaClear_kept
    | with_reducible apply State.setUa_kept)

theorem execUaStatRead_answers (t : Nat) (party : Party) (channel : Fin 32) (s : State) : Answers (s.clock t) (execUaStatRead t party channel s) := by
  unfold execUaStatRead
  repeat' (first
    | with_reducible exact Kept.refl _
    | intro _
    | with_reducible apply answers_next
    | with_reducible apply State.clock_kept
    | with_reducible apply State.emit_kept
    | with_reducible apply State.uaSawStat_kept
    | with_reducible apply answers_ite
    | with_reducible assumption
    | intro _
    | with_reducible apply kept_foldl
    | with_reducible apply kept_foldl_fst
    | with_reducible apply kept_foldr
    | with_reducible apply kept_ite)

theorem execUaDataRead_answers (t : Nat) (party : Party) (channel : Fin 32) (s : State) : Answers (s.clock t) (execUaDataRead t party channel s) := by
  unfold execUaDataRead
  repeat' (first
    | with_reducible exact Kept.refl _
    | intro _
    | with_reducible apply answers_next
    | with_reducible apply State.clock_kept
    | with_reducible apply State.emit_kept
    | with_reducible apply State.uaTake_kept
    | with_reducible apply answers_ite
    | with_reducible assumption
    | intro _
    | with_reducible apply kept_foldl
    | with_reducible apply kept_foldl_fst
    | with_reducible apply kept_foldr
    | with_reducible apply kept_ite)

theorem State.uaWrite_kept {z : State} (s : State) (ch : Nat) (b : BitVec 8) (hz : Kept z s) : Kept z (State.uaWrite s ch b) := by
  unfold State.uaWrite
  repeat' (first
    | with_reducible assumption
    | intro _
    | with_reducible apply State.uaPump_kept
    | with_reducible apply State.uaFlag_kept
    | with_reducible apply State.setUa_kept
    | with_reducible apply kept_foldl
    | with_reducible apply kept_foldl_fst
    | with_reducible apply kept_foldr
    | with_reducible apply kept_ite)

theorem execUaDataWrite_answers (t : Nat) (party : Party) (channel : Fin 32) (value : BitVec 8) (s : State) : Answers (s.clock t) (execUaDataWrite t party channel value s) := by
  unfold execUaDataWrite
  repeat' (first
    | with_reducible exact Kept.refl _
    | intro _
    | with_reducible apply answers_next
    | with_reducible apply State.hostWrite_kept
    | with_reducible apply State.uaWrite_kept)

theorem execUaFlagclrWrite_answers (t : Nat) (party : Party) (channel : Fin 32) (value : BitVec 32) (s : State) : Answers (s.clock t) (execUaFlagclrWrite t party channel value s) := by
  unfold execUaFlagclrWrite
  repeat' (first
    | with_reducible exact Kept.refl _
    | intro _
    | with_reducible apply answers_next
    | with_reducible apply State.hostWrite_kept
    | with_reducible apply State.uaClear_kept)

theorem State.uaTxctl_kept {z : State} (s : State) (ch : Nat) (value : BitVec 32) (hz : Kept z s) : Kept z (State.uaTxctl s ch value) := by
  unfold State.uaTxctl
  repeat' (first
    | with_reducible assumption
    | intro _
    | with_reducible apply State.uaPump_kept
    | with_reducible apply State.wr_kept
    | with_reducible apply State.setUa_kept
    | with_reducible apply kept_foldl
    | with_reducible apply kept_foldl_fst
    | with_reducible apply kept_foldr
    | with_reducible apply kept_ite)

theorem execUaBreak_answers (t : Nat) (party : Party) (channel : Fin 32) (value : BitVec 32) (s : State) : Answers (s.clock t) (execUaBreak t party channel value s) := by
  unfold execUaBreak
  repeat' (first
    | with_reducible exact Kept.refl _
    | intro _
    | with_reducible apply answers_next
    | with_reducible apply State.hostWrite_kept
    | with_reducible apply State.uaTxctl_kept)

theorem execUartCharacterSent_answers (t : Nat) (channel : Fin 32) (s : State) : Answers (s.clock t) (execUartCharacterSent t channel s) := by
  unfold execUartCharacterSent
  repeat' (first
    | with_reducible exact Kept.refl _
    | intro _
    | with_reducible apply answers_next
    | with_reducible apply State.uaPump_kept
    | with_reducible apply State.bump_kept
    | with_reducible apply State.clock_kept
    | with_reducible apply State.setUa_kept
    | with_reducible apply State.emit_kept
    | with_reducible apply answers_ite
    | with_reducible assumption
    | intro _
    | with_reducible apply kept_foldl
    | with_reducible apply kept_foldl_fst
    | with_reducible apply kept_foldr
    | with_reducible apply kept_ite
    | with_reducible apply kept_ite_fst
    | with_reducible apply kept_ite_snd
    | with_reducible apply kept_ite_third
    | fail_if_no_progress (with_reducible refine Kept.update ?_ rfl rfl rfl rfl rfl)
    | split
    | extract_lets)

theorem State.uaStopAll_kept {z : State} (s : State) (hz : Kept z s) : Kept z (State.uaStopAll s) := by
  unfold State.uaStopAll
  repeat' (first
    | with_reducible assumption
    | intro _
    | with_reducible apply kept_foldl
    | with_reducible apply kept_foldl_fst
    | with_reducible apply kept_foldr
    | with_reducible apply kept_ite
    | with_reducible apply kept_ite_fst
    | with_reducible apply kept_ite_snd
    | with_reducible apply kept_ite_third
    | fail_if_no_progress (with_reducible refine Kept.update ?_ rfl rfl rfl rfl rfl))

theorem State.uaHoldAll_kept {z : State} (s : State) (hz : Kept z s) : Kept z (State.uaHoldAll s) := by
  unfold State.uaHoldAll
  repeat' (first
    | with_reducible assumption
    | intro _
    | with_reducible apply kept_foldl
    | with_reducible apply kept_foldl_fst
    | with_reducible apply kept_foldr
    | with_reducible apply kept_ite
    | with_reducible apply kept_ite_fst
    | with_reducible apply kept_ite_snd
    | with_reducible apply kept_ite_third
    | fail_if_no_progress (with_reducible refine Kept.update ?_ rfl rfl rfl rfl rfl))

theorem State.uaGoOnAll_kept {z : State} (s : State) (hz : Kept z s) : Kept z (State.uaGoOnAll s) := by
  unfold State.uaGoOnAll
  repeat' (first
    | with_reducible assumption
    | intro _
    | with_reducible apply State.uaPump_kept
    | with_reducible apply kept_foldl_snd
    | with_reducible apply kept_foldl)

theorem State.uaNote_kept {z : State} (s : State) (ch : Nat) (e : UaEntry) (hz : Kept z s) : Kept z (State.uaNote s ch e) := by
  unfold State.uaNote
  repeat' (first
    | with_reducible assumption
    | intro _
    | with_reducible apply State.uaFlag_kept
    | with_reducible apply State.setUa_kept
    | with_reducible apply State.bump_kept
    | with_reducible apply kept_foldl
    | with_reducible apply kept_foldl_fst
    | with_reducible apply kept_foldr
    | with_reducible apply kept_ite)

theorem State.uaStore_kept {z : State} (s : State) (ch : Nat) (e : UaEntry) (hz : Kept z s) : Kept z (State.uaStore s ch e) := by
  unfold State.uaStore
  repeat' (first
    | with_reducible assumption
    | intro _
    | with_reducible apply State.uaFlag_kept
    | with_reducible apply State.bump_kept
    | with_reducible apply State.setUa_kept
    | with_reducible apply kept_foldl
    | with_reducible apply kept_foldl_fst
    | with_reducible apply kept_foldr
    | with_reducible apply kept_ite)

theorem State.refuseTalker_kept {z : State} (s : State) (n stamp : Nat) (hz : Kept z s) : Kept z (State.refuseTalker s n stamp) := by
  unfold State.refuseTalker
  repeat' (first
    | with_reducible assumption
    | intro _
    | with_reducible apply State.raise_kept
    | with_reducible apply State.uaPump_kept
    | with_reducible apply State.bump_kept
    | with_reducible apply State.setUa_kept
    | with_reducible apply kept_foldl
    | with_reducible apply kept_foldl_fst
    | with_reducible apply kept_foldr
    | with_reducible apply kept_ite)

/-! Machine/Accept.lean -/

theorem State.asdCount_kept {z : State} (s : State) (c : Nat) (n : Nat) (hz : Kept z s) : Kept z (State.asdCount s c n) := by
  unfold State.asdCount
  repeat' (first
    | with_reducible assumption
    | intro _
    | with_reducible apply State.bump64_kept)

theorem State.redundantDown_kept {z : State} (s : State) (hz : Kept z s) : Kept z (State.redundantDown s) := by
  unfold State.redundantDown
  repeat' (first
    | with_reducible assumption
    | intro _
    | with_reducible apply State.raise_kept
    | with_reducible apply State.set0_kept
    | with_reducible apply kept_foldl
    | with_reducible apply kept_foldl_fst
    | with_reducible apply kept_foldr
    | with_reducible apply kept_ite
    | with_reducible apply kept_ite_fst
    | with_reducible apply kept_ite_snd
    | with_reducible apply kept_ite_third
    | fail_if_no_progress (with_reducible refine Kept.update ?_ rfl rfl rfl rfl rfl))

theorem State.redundantUp_kept {z : State} (s : State) (hz : Kept z s) : Kept z (State.redundantUp s) := by
  unfold State.redundantUp
  repeat' (first
    | with_reducible assumption
    | intro _
    | with_reducible apply State.raise_kept
    | with_reducible apply State.set0_kept
    | with_reducible apply kept_foldl
    | with_reducible apply kept_foldl_fst
    | with_reducible apply kept_foldr
    | with_reducible apply kept_ite)

theorem State.gableLost_kept {z : State} (s : State) (hz : Kept z s) : Kept z (State.gableLost s) := by
  unfold State.gableLost
  repeat' (first
    | with_reducible assumption
    | intro _
    | with_reducible apply State.redundantDown_kept
    | with_reducible apply kept_foldl
    | with_reducible apply kept_foldl_fst
    | with_reducible apply kept_foldr
    | with_reducible apply kept_ite)

theorem State.fence_kept {z : State} (s : State) (hz : Kept z s) : Kept z (State.fence s) := by
  unfold State.fence
  repeat' (first
    | with_reducible assumption
    | intro _
    | with_reducible apply State.asdCount_kept
    | with_reducible apply State.raise_kept
    | with_reducible apply State.redundantDown_kept
    | with_reducible apply State.set0_kept
    | with_reducible apply kept_foldl
    | with_reducible apply kept_foldl_fst
    | with_reducible apply kept_foldr
    | with_reducible apply kept_ite)

theorem State.pairSend_kept {z : State} (s : State) (kind : Nat) (records : List Bytes) (hz : Kept z s) : Kept z (State.pairSend s kind records) := by
  unfold State.pairSend
  repeat' (first
    | with_reducible assumption
    | intro _
    | with_reducible apply State.sendControl_kept
    | with_reducible apply kept_foldl
    | with_reducible apply kept_foldl_fst
    | with_reducible apply kept_foldr
    | with_reducible apply kept_ite)

theorem State.pairNow_kept {z : State} (s : State) (kind : Nat) (records : List Bytes) (hz : Kept z s) : Kept z (State.pairNow s kind records) := by
  unfold State.pairNow
  repeat' (first
    | with_reducible assumption
    | intro _
    | with_reducible apply State.emit_kept
    | with_reducible apply kept_foldl
    | with_reducible apply kept_foldl_fst
    | with_reducible apply kept_foldr
    | with_reducible apply kept_ite)

theorem State.fetchOrLose_kept {z : State} (s lost : State) (d q : Nat) (hl : Kept z lost) (hz : Kept z s) :
    Kept z (s.fetchOrLose lost d q) := by
  unfold State.fetchOrLose
  split
  · exact State.asdCount_kept _ _ _ (State.pairSend_kept _ _ _ (Kept.update hz rfl rfl rfl rfl rfl))
  · exact State.assertErr_kept _ (State.raise_kept _ _ _ _ _ _ hl)

theorem State.sendMirror_kept {z : State} (s : State) (o : MirrorOut) (hz : Kept z s) : Kept z (State.sendMirror s o) := by
  unfold State.sendMirror
  repeat' (first
    | with_reducible assumption
    | intro _
    | with_reducible apply State.asdCount_kept
    | with_reducible apply State.pairSend_kept
    | with_reducible apply kept_foldl_snd
    | with_reducible apply kept_foldl
    | with_reducible apply kept_foldl_fst
    | with_reducible apply kept_foldr
    | with_reducible apply kept_ite
    | with_reducible apply kept_ite_fst
    | with_reducible apply kept_ite_snd
    | with_reducible apply kept_ite_third
    | fail_if_no_progress (with_reducible refine Kept.update ?_ rfl rfl rfl rfl rfl))

theorem State.setSeqNext_kept {z : State} (s : State) (key n : Nat) (hz : Kept z s) : Kept z (State.setSeqNext s key n) := by
  unfold State.setSeqNext
  repeat' (first
    | with_reducible assumption
    | intro _
    | with_reducible apply kept_foldl
    | with_reducible apply kept_foldl_fst
    | with_reducible apply kept_foldr
    | with_reducible apply kept_ite
    | with_reducible apply kept_ite_fst
    | with_reducible apply kept_ite_snd
    | with_reducible apply kept_ite_third
    | fail_if_no_progress (with_reducible refine Kept.update ?_ rfl rfl rfl rfl rfl))

theorem State.refusedFrame_kept {z : State} (s : State) (port : Nat) (stream : Option Nat) (hz : Kept z s) : Kept z (State.refusedFrame s port stream) := by
  unfold State.refusedFrame
  repeat' (first
    | with_reducible assumption
    | intro _
    | with_reducible apply State.raise_kept
    | with_reducible apply State.fpCount_kept
    | with_reducible apply kept_foldl
    | with_reducible apply kept_foldl_fst
    | with_reducible apply kept_foldr
    | with_reducible apply kept_ite
    | with_reducible apply kept_ite_fst
    | with_reducible apply kept_ite_snd
    | with_reducible apply kept_ite_third
    | fail_if_no_progress (with_reducible refine Kept.update ?_ rfl rfl rfl rfl rfl)
    | split)

theorem State.refusedBy_kept {z : State} (s : State) (src : AsrSrc) (hz : Kept z s) : Kept z (s.refusedBy src) := by
  induction src generalizing s with
  | frame port stream => exact State.refusedFrame_kept _ _ _ hz
  | talker n stamp => exact State.refuseTalker_kept _ _ _ hz
  | host q => exact Kept.update hz rfl rfl rfl rfl rfl
  | listener q d => exact State.unstartEntry_kept _ _ _ hz
  | reply q => exact State.raise_kept _ _ _ _ _ _ (State.bump_kept _ _ _ hz)
  | injected stream src ih => exact ih _ (State.refusedFrame_kept _ _ _ hz)
  | engine => exact hz

theorem State.acceptedBy_kept {z : State} (s : State) (src : AsrSrc) (hz : Kept z s) : Kept z (s.acceptedBy src) := by
  induction src with
  | listener q d => exact State.bump_kept _ _ _ (State.releaseCopy_kept _ _ (State.removeEntry_kept _ _ _ hz))
  | injected stream src ih => exact ih
  | _ => exact hz

theorem State.refuse_kept {z : State} (s : State) (d : Nat) (src : AsrSrc) (hz : Kept z s) : Kept z (State.refuse s d src) := by
  unfold State.refuse
  repeat' (first
    | with_reducible assumption
    | intro _
    | with_reducible apply State.refusedBy_kept
    | with_reducible apply State.freeItem_kept)

theorem State.refuseFull_kept {z : State} (s : State) (full : List Nat) (d : Nat) (src : AsrSrc) (hz : Kept z s) : Kept z (State.refuseFull s full d src) := by
  unfold State.refuseFull
  repeat' (first
    | with_reducible assumption
    | intro _
    | with_reducible apply State.queueOverrun_kept
    | with_reducible apply State.refuse_kept
    | with_reducible apply kept_foldl_snd
    | with_reducible apply kept_foldl)

theorem State.enqueueAccepted_kept {z : State} (s : State) (qs : List Nat) (d : Nat) (hz : Kept z s) : Kept z (State.enqueueAccepted s qs d) := by
  unfold State.enqueueAccepted
  repeat' (first
    | with_reducible assumption
    | intro _
    | with_reducible apply State.freeItem_kept
    | with_reducible apply State.pushEntry_kept
    | with_reducible apply State.setItem_kept
    | with_reducible apply kept_foldl_snd
    | with_reducible apply kept_foldl
    | with_reducible apply kept_foldl_fst
    | with_reducible apply kept_foldr
    | with_reducible apply kept_ite)

theorem State.number_kept {z : State} (s : State) (d key : Nat) (hz : Kept z s) : Kept z (State.number s d key) := by
  unfold State.number
  repeat' (first
    | with_reducible assumption
    | intro _
    | with_reducible apply State.setSeqNext_kept
    | with_reducible apply State.setItem_kept
    | with_reducible apply kept_foldl
    | with_reducible apply kept_foldl_fst
    | with_reducible apply kept_foldr
    | with_reducible apply kept_ite)

theorem State.accept_kept {z : State} (s : State) (d key : Nat) (queues : List Nat) (src : AsrSrc) (hz : Kept z s) : Kept z (State.accept s d key queues src) := by
  unfold State.accept
  repeat' (first
    | with_reducible assumption
    | intro _
    | with_reducible apply State.enqueueAccepted_kept
    | with_reducible apply State.acceptedBy_kept
    | with_reducible apply State.number_kept)

theorem State.offer_kept {z : State} (s : State) (d key : Nat) (queues : List Nat) (src : AsrSrc) (hz : Kept z s) : Kept z (State.offer s d key queues src) := by
  unfold State.offer
  repeat' (first
    | with_reducible assumption
    | intro _
    | with_reducible apply State.refuse_kept
    | with_reducible apply State.refuseFull_kept
    | with_reducible apply State.sendMirror_kept
    | with_reducible apply State.accept_kept
    | with_reducible apply kept_foldl
    | with_reducible apply kept_foldl_fst
    | with_reducible apply kept_foldr
    | with_reducible apply kept_ite
    | with_reducible apply kept_ite_fst
    | with_reducible apply kept_ite_snd
    | with_reducible apply kept_ite_third
    | fail_if_no_progress (with_reducible refine Kept.update ?_ rfl rfl rfl rfl rfl)
    | split)

theorem State.mirrorHeld_kept {z : State} (s : State) (hz : Kept z s) : Kept z (State.mirrorHeld s) := by
  unfold State.mirrorHeld
  repeat' (first
    | with_reducible assumption
    | intro _
    | with_reducible apply State.sendMirror_kept
    | with_reducible apply kept_foldl_snd
    | with_reducible apply kept_foldl
    | with_reducible apply kept_foldl_fst
    | with_reducible apply kept_foldr
    | with_reducible apply kept_ite
    | with_reducible apply kept_ite_fst
    | with_reducible apply kept_ite_snd
    | with_reducible apply kept_ite_third
    | fail_if_no_progress (with_reducible refine Kept.update ?_ rfl rfl rfl rfl rfl))

theorem State.withdraw_kept {z : State} (s : State) (mrefs : List Nat) (hz : Kept z s) : Kept z (State.withdraw s mrefs) := by
  unfold State.withdraw
  repeat' (first
    | with_reducible assumption
    | intro _
    | with_reducible apply State.asdCount_kept
    | with_reducible apply State.pairSend_kept
    | with_reducible apply kept_foldl_snd
    | with_reducible apply kept_foldl
    | with_reducible apply kept_foldl_fst
    | with_reducible apply kept_foldr
    | with_reducible apply kept_ite)

theorem State.refuseOut_kept {z : State} (s : State) (p : MirrorOut → Bool) (hz : Kept z s) : Kept z (State.refuseOut s p) := by
  unfold State.refuseOut
  repeat' (first
    | with_reducible assumption
    | intro _
    | with_reducible apply State.withdraw_kept
    | with_reducible apply State.refuse_kept
    | with_reducible apply kept_foldl_snd
    | with_reducible apply kept_foldl
    | with_reducible apply kept_foldl_fst
    | with_reducible apply kept_foldr
    | with_reducible apply kept_ite
    | with_reducible apply kept_ite_fst
    | with_reducible apply kept_ite_snd
    | with_reducible apply kept_ite_third
    | fail_if_no_progress (with_reducible refine Kept.update ?_ rfl rfl rfl rfl rfl))

theorem State.refuseFrom_kept {z : State} (s : State) (o : MirrorOut) (hz : Kept z s) : Kept z (State.refuseFrom s o) := by
  unfold State.refuseFrom
  repeat' (first
    | with_reducible assumption
    | intro _
    | with_reducible apply State.refuseOut_kept)

theorem State.dropHeld_kept {z : State} (s : State) (h : Held) (hz : Kept z s) : Kept z (State.dropHeld s h) := by
  unfold State.dropHeld
  repeat' (first
    | with_reducible assumption
    | intro _
    | with_reducible apply State.releaseCopy_kept
    | with_reducible apply kept_foldl
    | with_reducible apply kept_foldl_fst
    | with_reducible apply kept_foldr
    | with_reducible apply kept_ite
    | with_reducible apply kept_ite_fst
    | with_reducible apply kept_ite_snd
    | with_reducible apply kept_ite_third
    | fail_if_no_progress (with_reducible refine Kept.update ?_ rfl rfl rfl rfl rfl)
    | split)

end Sys2Proof.Machine
end

