-- ==== Sys2Proof/Laws/KeptPaths.lean ====
section
/-! SUPPORT. What Kept says holds of the field I/O, the Attic, ports, received frames, sentences, bridges and CAN buses; their commands answer a next state. -/

namespace Sys2Proof.Machine

open Sys2Proof

/-! Machine/FieldIo.lean -/

theorem State.transfer_kept {z : State} (s : State) (l seq : Nat) (ok : Bool) (hz : Kept z s) : Kept z (State.transfer s l seq ok) := by
  unfold State.transfer
  repeat' (first
    | with_reducible assumption
    | intro _
    | with_reducible apply State.drawFree_kept
    | with_reducible apply State.assertErr_kept
    | with_reducible apply State.logEvent_kept
    | with_reducible apply kept_foldl
    | with_reducible apply kept_foldl_fst
    | with_reducible apply kept_foldr
    | with_reducible apply kept_ite
    | with_reducible apply kept_ite_fst
    | with_reducible apply kept_ite_snd
    | with_reducible apply kept_ite_third
    | fail_if_no_progress (with_reducible refine Kept.update ?_ rfl rfl rfl rfl rfl))

theorem State.fieldBurst_kept {z : State} (s : State) (start : Bool) (hz : Kept z s) : Kept z (State.fieldBurst s start) := by
  unfold State.fieldBurst
  repeat' (first
    | with_reducible assumption
    | intro _
    | with_reducible apply State.drawFree_kept
    | with_reducible apply State.logEvent_kept)

theorem execLinkTransferReceived_answers (t : Nat) (field : Bool) (seq : Nat) (data : LinkCheck) (s : State) : Answers (s.clock t) (execLinkTransferReceived t field seq data s) := by
  unfold execLinkTransferReceived
  repeat' (first
    | with_reducible exact Kept.refl _
    | intro _
    | with_reducible apply answers_next
    | with_reducible apply State.clock_kept
    | with_reducible apply State.transfer_kept
    | with_reducible apply State.fieldBurst_kept
    | with_reducible apply answers_ite
    | with_reducible assumption
    | intro _
    | with_reducible apply kept_foldl
    | with_reducible apply kept_foldl_fst
    | with_reducible apply kept_foldr
    | with_reducible apply kept_ite
    | with_reducible apply kept_ite_fst
    | with_reducible apply kept_ite_snd
    | with_reducible apply kept_ite_third
    | fail_if_no_progress (with_reducible refine Kept.update ?_ rfl rfl rfl rfl rfl)
    | split)

theorem State.told_kept {z : State} (s : State) (f : State → State) (hf : ∀ u, Kept z u → Kept z (f u)) (hz : Kept z s) :
    Kept z (s.told f) := kept_ite (hf _ hz) hz

theorem State.setDie_kept {z : State} (s : State) (d : Nat) (x : Die) (hz : Kept z s) : Kept z (State.setDie s d x) := by
  unfold State.setDie
  repeat' (first
    | with_reducible assumption
    | intro _
    | with_reducible apply kept_foldl
    | with_reducible apply kept_foldl_fst
    | with_reducible apply kept_foldr
    | with_reducible apply kept_ite
    | with_reducible apply kept_ite_fst
    | with_reducible apply kept_ite_snd
    | with_reducible apply kept_ite_third
    | fail_if_no_progress (with_reducible refine Kept.update ?_ rfl rfl rfl rfl rfl))

theorem State.setLc_kept {z : State} (s : State) (n : Nat) (x : LoadCh) (hz : Kept z s) : Kept z (State.setLc s n x) := by
  unfold State.setLc
  repeat' (first
    | with_reducible assumption
    | intro _
    | with_reducible apply kept_foldl
    | with_reducible apply kept_foldl_fst
    | with_reducible apply kept_foldr
    | with_reducible apply kept_ite
    | with_reducible apply kept_ite_fst
    | with_reducible apply kept_ite_snd
    | with_reducible apply kept_ite_third
    | fail_if_no_progress (with_reducible refine Kept.update ?_ rfl rfl rfl rfl rfl))

theorem State.writeCopy_kept {z : State} (s : State) (d : Nat) (hz : Kept z s) : Kept z (State.writeCopy s d) := by
  unfold State.writeCopy
  repeat' (first
    | with_reducible assumption
    | intro _
    | with_reducible apply State.setDie_kept
    | with_reducible apply kept_foldl
    | with_reducible apply kept_foldl_fst
    | with_reducible apply kept_foldr
    | with_reducible apply kept_ite)

theorem State.showLs_kept {z : State} (s : State) (n : Nat) (hz : Kept z s) : Kept z (State.showLs s n) := by
  unfold State.showLs
  repeat' (first
    | with_reducible assumption
    | intro _
    | with_reducible apply State.sf_kept
    | with_reducible apply State.told_kept)

theorem State.tickFlag_kept {z : State} (s : State) (n b : Nat) (hz : Kept z s) : Kept z (State.tickFlag s n b) := by
  unfold State.tickFlag
  repeat' (first
    | with_reducible assumption
    | intro _
    | with_reducible apply State.depositOnce_kept)

theorem State.diag_kept {z : State} (s : State) (n b : Nat) (hz : Kept z s) : Kept z (State.diag s n b) := by
  unfold State.diag
  repeat' (first
    | with_reducible assumption
    | intro _
    | with_reducible apply State.setLc_kept)

theorem State.diagsRead_kept {z : State} (s : State) (n mtime : Nat) (hz : Kept z s) : Kept z (State.diagsRead s n mtime) := by
  unfold State.diagsRead
  repeat' (first
    | with_reducible assumption
    | intro _
    | with_reducible apply State.taskEvent_kept
    | with_reducible apply State.setLc_kept
    | with_reducible apply kept_foldl_snd
    | with_reducible apply kept_foldl)

theorem State.degenerate_kept {z : State} (s : State) (n : Nat) (hz : Kept z s) : Kept z (State.degenerate s n) := by
  unfold State.degenerate
  repeat' (first
    | with_reducible assumption
    | intro _
    | with_reducible apply State.told_kept
    | with_reducible apply State.raise_kept
    | with_reducible apply State.diag_kept
    | with_reducible apply State.tickFlag_kept
    | with_reducible apply State.setFlag_kept
    | with_reducible apply kept_foldl
    | with_reducible apply kept_foldl_fst
    | with_reducible apply kept_foldr
    | with_reducible apply kept_ite)

theorem State.switch_kept {z : State} (s : State) (n : Nat) (on : Bool) (at_ : Nat) (hz : Kept z s) : Kept z (State.switch s n on at_) := by
  unfold State.switch
  repeat' (first
    | with_reducible assumption
    | intro _
    | with_reducible apply State.emit_kept
    | with_reducible apply State.setLc_kept
    | with_reducible apply kept_foldl
    | with_reducible apply kept_foldl_fst
    | with_reducible apply kept_foldr
    | with_reducible apply kept_ite)

theorem State.settleBy_kept {z : State} (s : State) (n w : Nat) (hz : Kept z s) : Kept z (State.settleBy s n w) := by
  unfold State.settleBy
  repeat' (first
    | with_reducible assumption
    | intro _
    | with_reducible apply State.switch_kept
    | with_reducible apply State.setLc_kept
    | with_reducible apply kept_foldl
    | with_reducible apply kept_foldl_fst
    | with_reducible apply kept_foldr
    | with_reducible apply kept_ite
    | with_reducible apply kept_ite_fst
    | with_reducible apply kept_ite_snd
    | with_reducible apply kept_ite_third
    | fail_if_no_progress (with_reducible refine Kept.update ?_ rfl rfl rfl rfl rfl)
    | split
    | extract_lets)

theorem State.settle_kept {z : State} (s : State) (n : Nat) (hz : Kept z s) : Kept z (State.settle s n) := by
  unfold State.settle
  repeat' (first
    | with_reducible assumption
    | intro _
    | with_reducible apply State.settleBy_kept)

theorem State.follow_kept {z : State} (s : State) (n at_ : Nat) (hz : Kept z s) : Kept z (State.follow s n at_) := by
  unfold State.follow
  repeat' (first
    | with_reducible assumption
    | intro _
    | with_reducible apply State.showLs_kept
    | with_reducible apply State.switch_kept)

theorem State.declareShort_kept {z : State} (s : State) (n : Nat) (hz : Kept z s) : Kept z (State.declareShort s n) := by
  unfold State.declareShort
  repeat' (first
    | with_reducible assumption
    | intro _
    | with_reducible apply State.setFlag_kept
    | with_reducible apply State.bumpF_kept
    | with_reducible apply State.raise_kept
    | with_reducible apply State.follow_kept
    | with_reducible apply State.told_kept
    | with_reducible apply State.tickFlag_kept
    | with_reducible apply State.diag_kept
    | with_reducible apply State.setLc_kept
    | with_reducible apply kept_foldl
    | with_reducible apply kept_foldl_fst
    | with_reducible apply kept_foldr
    | with_reducible apply kept_ite)

theorem State.pwmStart_kept {z : State} (s : State) (n w : Nat) (hz : Kept z s) : Kept z (State.pwmStart s n w) := by
  unfold State.pwmStart
  repeat' (first
    | with_reducible assumption
    | intro _
    | with_reducible apply State.follow_kept
    | with_reducible apply State.degenerate_kept
    | with_reducible apply State.setLc_kept
    | with_reducible apply kept_foldl
    | with_reducible apply kept_foldl_fst
    | with_reducible apply kept_foldr
    | with_reducible apply kept_ite)

theorem State.edgesBefore_kept {z : State} (s : State) (n b : Nat) (hz : Kept z s) : Kept z (State.edgesBefore s n b) := by
  unfold State.edgesBefore
  repeat' (first
    | with_reducible assumption
    | intro _
    | with_reducible apply State.settleBy_kept
    | with_reducible apply State.pwmStart_kept
    | with_reducible apply kept_foldl
    | with_reducible apply kept_foldl_fst
    | with_reducible apply kept_foldr
    | with_reducible apply kept_ite
    | with_reducible apply kept_ite_fst
    | with_reducible apply kept_ite_snd
    | with_reducible apply kept_ite_third
    | fail_if_no_progress (with_reducible refine Kept.update ?_ rfl rfl rfl rfl rfl)
    | split
    | extract_lets)

theorem State.command_kept {z : State} (s : State) (n : Nat) (w : BitVec 32) (b : Nat) (hz : Kept z s) : Kept z (State.command s n w b) := by
  unfold State.command
  repeat' (first
    | with_reducible assumption
    | intro _
    | with_reducible apply State.follow_kept
    | with_reducible apply State.degenerate_kept
    | with_reducible apply State.setLc_kept
    | with_reducible apply kept_foldl
    | with_reducible apply kept_foldl_fst
    | with_reducible apply kept_foldr
    | with_reducible apply kept_ite
    | with_reducible apply kept_ite_fst
    | with_reducible apply kept_ite_snd
    | with_reducible apply kept_ite_third
    | fail_if_no_progress (with_reducible refine Kept.update ?_ rfl rfl rfl rfl rfl)
    | split
    | extract_lets
    | dsimp only
    | dsimp +zetaDelta only)

theorem State.rearm_kept {z : State} (s : State) (n : Nat) (hz : Kept z s) : Kept z (State.rearm s n) := by
  unfold State.rearm
  repeat' (first
    | with_reducible assumption
    | intro _
    | with_reducible apply State.setLc_kept
    | with_reducible apply kept_foldl
    | with_reducible apply kept_foldl_fst
    | with_reducible apply kept_foldr
    | with_reducible apply kept_ite)

theorem State.latchWord_kept {z : State} (s : State) (n : Nat) (w : BitVec 32) (b : Nat) (hz : Kept z s) : Kept z (State.latchWord s n w b) := by
  unfold State.latchWord
  repeat' (first
    | with_reducible assumption
    | intro _
    | with_reducible apply State.raise_kept
    | with_reducible apply State.edgesBefore_kept
    | with_reducible apply State.rearm_kept
    | with_reducible apply State.setLc_kept
    | with_reducible apply State.told_kept
    | with_reducible apply State.command_kept
    | with_reducible apply kept_foldl
    | with_reducible apply kept_foldl_fst
    | with_reducible apply kept_foldr
    | with_reducible apply kept_ite)

theorem State.sendFrame_kept {z : State} (s : State) (tick : Bool) (words : List (BitVec 32)) (copy : Bool) (hz : Kept z s) : Kept z (State.sendFrame s tick words copy) := by
  unfold State.sendFrame
  repeat' (first
    | with_reducible assumption
    | intro _
    | with_reducible apply State.emit_kept
    | with_reducible apply kept_foldl_snd
    | with_reducible apply kept_foldl
    | with_reducible apply kept_foldl_fst
    | with_reducible apply kept_foldr
    | with_reducible apply kept_ite
    | with_reducible apply kept_ite_fst
    | with_reducible apply kept_ite_snd
    | with_reducible apply kept_ite_third
    | fail_if_no_progress (with_reducible refine Kept.update ?_ rfl rfl rfl rfl rfl))

theorem State.sendTickFrames_kept {z : State} (s : State) (hz : Kept z s) : Kept z (State.sendTickFrames s) := by
  unfold State.sendTickFrames
  repeat' (first
    | with_reducible assumption
    | intro _
    | with_reducible apply State.sendFrame_kept
    | with_reducible apply kept_foldl
    | with_reducible apply kept_foldl_fst
    | with_reducible apply kept_foldr
    | with_reducible apply kept_ite
    | with_reducible apply kept_ite_fst
    | with_reducible apply kept_ite_snd
    | with_reducible apply kept_ite_third
    | fail_if_no_progress (with_reducible refine Kept.update ?_ rfl rfl rfl rfl rfl))

theorem execRefreshFrameSend_answers (t : Nat) (s : State) : Answers (s.clock t) (execRefreshFrameSend t s) := by
  unfold execRefreshFrameSend
  repeat' (first
    | with_reducible exact Kept.refl _
    | intro _
    | with_reducible apply answers_next
    | with_reducible apply State.sendFrame_kept
    | with_reducible apply State.clock_kept
    | with_reducible apply answers_ite
    | with_reducible assumption
    | intro _
    | with_reducible apply kept_foldl
    | with_reducible apply kept_foldl_fst
    | with_reducible apply kept_foldr
    | with_reducible apply kept_ite
    | with_reducible apply kept_ite_fst
    | with_reducible apply kept_ite_snd
    | with_reducible apply kept_ite_third
    | fail_if_no_progress (with_reducible refine Kept.update ?_ rfl rfl rfl rfl rfl))

theorem State.dieFrame_kept {z : State} (s : State) (d : Nat) (ok : Bool) (hz : Kept z s) : Kept z (State.dieFrame s d ok) := by
  unfold State.dieFrame
  repeat' (first
    | with_reducible assumption
    | intro _
    | with_reducible apply State.told_kept
    | with_reducible apply State.set0_kept
    | with_reducible apply State.setDie_kept
    | with_reducible apply kept_foldl
    | with_reducible apply kept_foldl_fst
    | with_reducible apply kept_foldr
    | with_reducible apply kept_ite
    | with_reducible apply kept_ite_fst
    | with_reducible apply kept_ite_snd
    | with_reducible apply kept_ite_third
    | fail_if_no_progress (with_reducible refine Kept.update ?_ rfl rfl rfl rfl rfl)
    | split)

theorem execCommandFrameReceived_answers (t : Nat) (die : Fin 2) (crcOk : Bool) (s : State) : Answers (s.clock t) (execCommandFrameReceived t die crcOk s) := by
  unfold execCommandFrameReceived
  repeat' (first
    | with_reducible exact Kept.refl _
    | intro _
    | with_reducible apply answers_next
    | with_reducible apply State.dieFrame_kept)

theorem State.realign_kept {z : State} (s : State) (d : Nat) (hz : Kept z s) : Kept z (State.realign s d) := by
  unfold State.realign
  repeat' (first
    | with_reducible assumption
    | intro _
    | with_reducible apply State.setDie_kept
    | with_reducible apply kept_foldl
    | with_reducible apply kept_foldl_fst
    | with_reducible apply kept_foldr
    | with_reducible apply kept_ite)

theorem State.latch_kept {z : State} (s : State) (d : Nat) (hz : Kept z s) : Kept z (State.latch s d) := by
  unfold State.latch
  repeat' (first
    | with_reducible assumption
    | intro _
    | with_reducible apply State.realign_kept
    | with_reducible apply State.told_kept
    | with_reducible apply State.raise_kept
    | with_reducible apply State.setDie_kept
    | with_reducible apply State.set0_kept
    | with_reducible apply State.drawFree_kept
    | with_reducible apply State.latchWord_kept
    | with_reducible apply kept_foldl_snd
    | with_reducible apply kept_foldl
    | with_reducible apply kept_foldl_fst
    | with_reducible apply kept_foldr
    | with_reducible apply kept_ite
    | with_reducible apply kept_ite_fst
    | with_reducible apply kept_ite_snd
    | with_reducible apply kept_ite_third
    | fail_if_no_progress (with_reducible refine Kept.update ?_ rfl rfl rfl rfl rfl)
    | split
    | extract_lets)

theorem execLatchSymbol_answers (t : Nat) (die : Fin 2) (s : State) : Answers (s.clock t) (execLatchSymbol t die s) := by
  unfold execLatchSymbol
  repeat' (first
    | with_reducible exact Kept.refl _
    | intro _
    | with_reducible apply answers_next
    | with_reducible apply State.clock_kept
    | with_reducible apply State.latch_kept
    | with_reducible apply answers_ite)

theorem State.forceOff_kept {z : State} (s : State) (n : Nat) (hz : Kept z s) : Kept z (State.forceOff s n) := by
  unfold State.forceOff
  repeat' (first
    | with_reducible assumption
    | intro _
    | with_reducible apply State.follow_kept
    | with_reducible apply State.setLc_kept)

theorem State.toFailsafe_kept {z : State} (s : State) (n : Nat) (hz : Kept z s) : Kept z (State.toFailsafe s n) := by
  unfold State.toFailsafe
  repeat' (first
    | with_reducible assumption
    | intro _
    | with_reducible apply State.command_kept
    | with_reducible apply State.settle_kept
    | with_reducible apply State.setLc_kept
    | with_reducible apply State.showLs_kept
    | with_reducible apply State.forceOff_kept
    | with_reducible apply kept_foldl
    | with_reducible apply kept_foldl_fst
    | with_reducible apply kept_foldr
    | with_reducible apply kept_ite
    | with_reducible apply kept_ite_fst
    | with_reducible apply kept_ite_snd
    | with_reducible apply kept_ite_third
    | fail_if_no_progress (with_reducible refine Kept.update ?_ rfl rfl rfl rfl rfl)
    | split
    | extract_lets)

theorem execWatchdogExpiry_answers (t : Nat) (die : Fin 2) (s : State) : Answers (s.clock t) (execWatchdogExpiry t die s) := by
  unfold execWatchdogExpiry
  repeat' (first
    | with_reducible exact Kept.refl _
    | intro _
    | with_reducible apply answers_next
    | with_reducible apply State.set0_kept
    | with_reducible apply State.raise_kept
    | with_reducible apply State.toFailsafe_kept
    | with_reducible apply State.clock_kept
    | with_reducible apply State.setDie_kept
    | with_reducible apply State.told_kept
    | with_reducible apply kept_foldl_snd
    | with_reducible apply answers_ite
    | with_reducible assumption
    | intro _
    | with_reducible apply kept_foldl
    | with_reducible apply kept_foldl_fst
    | with_reducible apply kept_foldr
    | with_reducible apply kept_ite
    | with_reducible apply kept_ite_fst
    | with_reducible apply kept_ite_snd
    | with_reducible apply kept_ite_third
    | fail_if_no_progress (with_reducible refine Kept.update ?_ rfl rfl rfl rfl rfl)
    | split
    | extract_lets)

theorem State.dieOff_kept {z : State} (s : State) (d : Nat) (hz : Kept z s) : Kept z (State.dieOff s d) := by
  unfold State.dieOff
  repeat' (first
    | with_reducible assumption
    | intro _
    | with_reducible apply State.setLc_kept
    | with_reducible apply State.switch_kept
    | with_reducible apply State.setDie_kept
    | with_reducible apply kept_foldl_snd
    | with_reducible apply kept_foldl)

theorem execPowerDiePowerUp_answers (t : Nat) (die : Fin 2) (s : State) : Answers (s.clock t) (execPowerDiePowerUp t die s) := by
  unfold execPowerDiePowerUp
  repeat' (first
    | with_reducible exact Kept.refl _
    | intro _
    | with_reducible apply answers_next
    | with_reducible apply State.setLc_kept
    | with_reducible apply State.set0_kept
    | with_reducible apply State.showLs_kept
    | with_reducible apply State.clock_kept
    | with_reducible apply State.setDie_kept
    | with_reducible apply State.switch_kept
    | with_reducible apply State.told_kept
    | with_reducible apply State.writeCopy_kept
    | with_reducible apply kept_foldl_snd
    | with_reducible apply answers_ite
    | with_reducible assumption
    | intro _
    | with_reducible apply kept_foldl
    | with_reducible apply kept_foldl_fst
    | with_reducible apply kept_foldr
    | with_reducible apply kept_ite)

theorem State.writeDies_kept {z : State} (s : State) (hz : Kept z s) : Kept z (State.writeDies s) := by
  unfold State.writeDies
  repeat' (first
    | with_reducible assumption
    | intro _
    | with_reducible apply State.writeCopy_kept
    | with_reducible apply State.setDie_kept
    | with_reducible apply kept_foldl_snd
    | with_reducible apply kept_foldl
    | with_reducible apply kept_foldl_fst
    | with_reducible apply kept_foldr
    | with_reducible apply kept_ite)

theorem execPulseEdge_answers (t : Nat) (ls : Fin 24) (on : Bool) (s : State) : Answers (s.clock t) (execPulseEdge t ls on s) := by
  unfold execPulseEdge
  repeat' (first
    | with_reducible exact Kept.refl _
    | intro _
    | with_reducible apply answers_next
    | with_reducible apply State.follow_kept
    | with_reducible apply State.showLs_kept
    | with_reducible apply State.clock_kept
    | with_reducible apply State.setLc_kept
    | with_reducible apply State.settle_kept
    | with_reducible apply answers_ite
    | with_reducible assumption
    | intro _
    | with_reducible apply kept_foldl
    | with_reducible apply kept_foldl_fst
    | with_reducible apply kept_foldr
    | with_reducible apply kept_ite
    | with_reducible apply kept_ite_fst
    | with_reducible apply kept_ite_snd
    | with_reducible apply kept_ite_third
    | fail_if_no_progress (with_reducible refine Kept.update ?_ rfl rfl rfl rfl rfl)
    | split
    | extract_lets)

theorem execPwmPeriodStart_answers (t : Nat) (ls : Fin 24) (s : State) : Answers (s.clock t) (execPwmPeriodStart t ls s) := by
  unfold execPwmPeriodStart
  repeat' (first
    | with_reducible exact Kept.refl _
    | intro _
    | with_reducible apply answers_next
    | with_reducible apply State.pwmStart_kept
    | with_reducible apply State.clock_kept
    | with_reducible apply State.settle_kept
    | with_reducible apply answers_ite
    | with_reducible assumption
    | intro _
    | with_reducible apply kept_foldl
    | with_reducible apply kept_foldl_fst
    | with_reducible apply kept_foldr
    | with_reducible apply kept_ite
    | with_reducible apply kept_ite_fst
    | with_reducible apply kept_ite_snd
    | with_reducible apply kept_ite_third
    | fail_if_no_progress (with_reducible refine Kept.update ?_ rfl rfl rfl rfl rfl)
    | split
    | extract_lets)

theorem execBlankingEnd_answers (t : Nat) (ls : Fin 24) (low : Bool) (s : State) : Answers (s.clock t) (execBlankingEnd t ls low s) := by
  unfold execBlankingEnd
  repeat' (first
    | with_reducible exact Kept.refl _
    | intro _
    | with_reducible apply answers_next
    | with_reducible apply State.settle_kept
    | with_reducible apply State.showLs_kept
    | with_reducible apply State.clock_kept
    | with_reducible apply State.setLc_kept
    | with_reducible apply State.declareShort_kept
    | with_reducible apply answers_ite
    | with_reducible assumption
    | intro _
    | with_reducible apply kept_foldl
    | with_reducible apply kept_foldl_fst
    | with_reducible apply kept_foldr
    | with_reducible apply kept_ite
    | with_reducible apply kept_ite_fst
    | with_reducible apply kept_ite_snd
    | with_reducible apply kept_ite_third
    | fail_if_no_progress (with_reducible refine Kept.update ?_ rfl rfl rfl rfl rfl)
    | split
    | extract_lets)

theorem execShort_answers (t : Nat) (ls : Fin 24) (since : Nat) (s : State) : Answers (s.clock t) (execShort t ls since s) := by
  unfold execShort
  repeat' (first
    | with_reducible exact Kept.refl _
    | intro _
    | with_reducible apply answers_next
    | with_reducible apply State.settle_kept
    | with_reducible apply State.clock_kept
    | with_reducible apply State.declareShort_kept
    | with_reducible apply answers_ite)

theorem execRetryIntervalExpiry_answers (t : Nat) (ls : Fin 24) (temp : Int) (s : State) : Answers (s.clock t) (execRetryIntervalExpiry t ls temp s) := by
  unfold execRetryIntervalExpiry
  repeat' (first
    | with_reducible exact Kept.refl _
    | intro _
    | with_reducible apply answers_next
    | with_reducible apply State.follow_kept
    | with_reducible apply State.clock_kept
    | with_reducible apply State.setLc_kept
    | with_reducible apply answers_ite
    | with_reducible assumption
    | intro _
    | with_reducible apply kept_foldl
    | with_reducible apply kept_foldl_fst
    | with_reducible apply kept_foldr
    | with_reducible apply kept_ite
    | with_reducible apply kept_ite_fst
    | with_reducible apply kept_ite_snd
    | with_reducible apply kept_ite_third
    | fail_if_no_progress (with_reducible refine Kept.update ?_ rfl rfl rfl rfl rfl)
    | split
    | extract_lets)

theorem execThermal_answers (t : Nat) (ls : Fin 24) (low : Bool) (s : State) : Answers (s.clock t) (execThermal t ls low s) := by
  unfold execThermal
  repeat' (first
    | with_reducible exact Kept.refl _
    | intro _
    | with_reducible apply answers_next
    | with_reducible apply State.settle_kept
    | with_reducible apply State.told_kept
    | with_reducible apply State.raise_kept
    | with_reducible apply State.clock_kept
    | with_reducible apply State.setLc_kept
    | with_reducible apply State.bumpF_kept
    | with_reducible apply State.diag_kept
    | with_reducible apply State.declareShort_kept
    | with_reducible apply State.follow_kept
    | with_reducible apply answers_ite
    | with_reducible assumption)

theorem execThermalRestart_answers (t : Nat) (ls : Fin 24) (s : State) : Answers (s.clock t) (execThermalRestart t ls s) := by
  unfold execThermalRestart
  repeat' (first
    | with_reducible exact Kept.refl _
    | intro _
    | with_reducible apply answers_next
    | with_reducible apply State.settle_kept
    | with_reducible apply State.follow_kept
    | with_reducible apply State.clock_kept
    | with_reducible apply State.setLc_kept
    | with_reducible apply answers_ite)

theorem execGroupOc_answers (t : Nat) (die : Fin 2) (which : Fin 3) (s : State) : Answers (s.clock t) (execGroupOc t die which s) := by
  unfold execGroupOc
  repeat' (first
    | with_reducible exact Kept.refl _
    | intro _
    | with_reducible apply answers_next
    | with_reducible apply State.settle_kept
    | with_reducible apply State.setLc_kept
    | with_reducible apply State.raise_kept
    | with_reducible apply State.follow_kept
    | with_reducible apply State.clock_kept
    | with_reducible apply State.setDie_kept
    | with_reducible apply State.told_kept
    | with_reducible apply State.diag_kept
    | with_reducible apply kept_foldl_snd
    | with_reducible apply answers_ite
    | with_reducible assumption
    | intro _
    | with_reducible apply kept_foldl
    | with_reducible apply kept_foldl_fst
    | with_reducible apply kept_foldr
    | with_reducible apply kept_ite
    | with_reducible apply kept_ite_fst
    | with_reducible apply kept_ite_snd
    | with_reducible apply kept_ite_third
    | fail_if_no_progress (with_reducible refine Kept.update ?_ rfl rfl rfl rfl rfl)
    | split)

theorem State.vlsLow_kept {z : State} (s : State) (g : Nat) (hz : Kept z s) : Kept z (State.vlsLow s g) := by
  unfold State.vlsLow
  repeat' (first
    | with_reducible assumption
    | intro _
    | with_reducible apply State.told_kept
    | with_reducible apply State.raise_kept
    | with_reducible apply State.follow_kept
    | with_reducible apply State.set0_kept
    | with_reducible apply State.diag_kept
    | with_reducible apply kept_foldl_snd
    | with_reducible apply kept_foldl
    | with_reducible apply kept_foldl_fst
    | with_reducible apply kept_foldr
    | with_reducible apply kept_ite
    | with_reducible apply kept_ite_fst
    | with_reducible apply kept_ite_snd
    | with_reducible apply kept_ite_third
    | fail_if_no_progress (with_reducible refine Kept.update ?_ rfl rfl rfl rfl rfl))

theorem execVlsUv_answers (t : Nat) (group : Fin 4) (lost : Bool) (s : State) : Answers (s.clock t) (execVlsUv t group lost s) := by
  unfold execVlsUv
  repeat' (first
    | with_reducible exact Kept.refl _
    | intro _
    | with_reducible apply answers_next
    | with_reducible apply State.settle_kept
    | with_reducible apply State.vlsLow_kept
    | with_reducible apply State.clock_kept
    | with_reducible apply State.dieOff_kept
    | with_reducible apply kept_foldl_snd
    | with_reducible apply answers_ite
    | with_reducible assumption
    | intro _
    | with_reducible apply kept_foldl
    | with_reducible apply kept_foldl_fst
    | with_reducible apply kept_foldr
    | with_reducible apply kept_ite)

theorem execVlsRestore_answers (t : Nat) (group : Fin 4) (s : State) : Answers (s.clock t) (execVlsRestore t group s) := by
  unfold execVlsRestore
  repeat' (first
    | with_reducible exact Kept.refl _
    | intro _
    | with_reducible apply answers_next
    | with_reducible apply State.settle_kept
    | with_reducible apply State.told_kept
    | with_reducible apply State.follow_kept
    | with_reducible apply State.clock_kept
    | with_reducible apply State.set0_kept
    | with_reducible apply State.setLc_kept
    | with_reducible apply kept_foldl_snd
    | with_reducible apply answers_ite
    | with_reducible assumption
    | intro _
    | with_reducible apply kept_foldl
    | with_reducible apply kept_foldl_fst
    | with_reducible apply kept_foldr
    | with_reducible apply kept_ite
    | with_reducible apply kept_ite_fst
    | with_reducible apply kept_ite_snd
    | with_reducible apply kept_ite_third
    | fail_if_no_progress (with_reducible refine Kept.update ?_ rfl rfl rfl rfl rfl))

theorem State.lsClear_kept {z : State} (s : State) (n : Nat) (hz : Kept z s) : Kept z (State.lsClear s n) := by
  unfold State.lsClear
  repeat' (first
    | with_reducible assumption
    | intro _
    | with_reducible apply State.setLc_kept)

theorem execLsClear_answers (t : Nat) (party : Party) (ls : Fin 24) (s : State) : Answers (s.clock t) (execLsClear t party ls s) := by
  unfold execLsClear
  repeat' (first
    | with_reducible exact Kept.refl _
    | intro _
    | with_reducible apply answers_next
    | with_reducible apply State.hostWrite_kept
    | with_reducible apply State.lsClear_kept)

theorem State.openCheck_kept {z : State} (s : State) (n code thr : Nat) (hz : Kept z s) : Kept z (State.openCheck s n code thr) := by
  unfold State.openCheck
  repeat' (first
    | with_reducible assumption
    | intro _
    | with_reducible apply State.raise_kept
    | with_reducible apply State.diag_kept
    | with_reducible apply State.setLc_kept
    | with_reducible apply State.sf_kept
    | with_reducible apply kept_foldl
    | with_reducible apply kept_foldl_fst
    | with_reducible apply kept_foldr
    | with_reducible apply kept_ite)

theorem State.ocEnds_kept {z : State} (s : State) (d : Nat) (hz : Kept z s) : Kept z (State.ocEnds s d) := by
  unfold State.ocEnds
  repeat' (first
    | with_reducible assumption
    | intro _
    | with_reducible apply State.setDie_kept)

theorem State.depositReading_kept {z : State} (s : State) (f : ImageBuf → ImageBuf) (hz : Kept z s) : Kept z (State.depositReading s f) := by
  unfold State.depositReading
  repeat' (first
    | with_reducible assumption
    | intro _
    | with_reducible apply kept_foldl
    | with_reducible apply kept_foldl_fst
    | with_reducible apply kept_foldr
    | with_reducible apply kept_ite
    | with_reducible apply kept_ite_fst
    | with_reducible apply kept_ite_snd
    | with_reducible apply kept_ite_third
    | fail_if_no_progress (with_reducible refine Kept.update ?_ rfl rfl rfl rfl rfl))

theorem State.reading_kept {z : State} (s : State) (n acq code vout : Nat) (temp : BitVec 9) (hz : Kept z s) : Kept z (State.reading s n acq code vout temp) := by
  unfold State.reading
  repeat' (first
    | with_reducible assumption
    | intro _
    | with_reducible apply State.ocEnds_kept
    | with_reducible apply State.diagsRead_kept
    | with_reducible apply State.set0_kept
    | with_reducible apply State.sf_kept
    | with_reducible apply State.setLc_kept
    | with_reducible apply State.openCheck_kept
    | with_reducible apply State.depositReading_kept
    | with_reducible apply kept_foldl
    | with_reducible apply kept_foldl_fst
    | with_reducible apply kept_foldr
    | with_reducible apply kept_ite)

theorem execLoadReading_answers (t : Nat) (ls : Fin 24) (acq : Nat) (current vout : BitVec 12) (temp : BitVec 9) (s : State) : Answers (s.clock t) (execLoadReading t ls acq current vout temp s) := by
  unfold execLoadReading
  repeat' (first
    | with_reducible exact Kept.refl _
    | intro _
    | with_reducible apply answers_next
    | with_reducible apply State.settle_kept
    | with_reducible apply State.clock_kept
    | with_reducible apply State.reading_kept
    | with_reducible apply answers_ite)

theorem State.setEin_kept {z : State} (s : State) (n : Nat) (x : EinCh) (hz : Kept z s) : Kept z (State.setEin s n x) := by
  unfold State.setEin
  repeat' (first
    | with_reducible assumption
    | intro _
    | with_reducible apply kept_foldl
    | with_reducible apply kept_foldl_fst
    | with_reducible apply kept_foldr
    | with_reducible apply kept_ite
    | with_reducible apply kept_ite_fst
    | with_reducible apply kept_ite_snd
    | with_reducible apply kept_ite_third
    | fail_if_no_progress (with_reducible refine Kept.update ?_ rfl rfl rfl rfl rfl))

theorem State.einRecord_kept {z : State} (s : State) (n a etime seq : Nat) (rising : Bool) (hz : Kept z s) : Kept z (State.einRecord s n a etime seq rising) := by
  unfold State.einRecord
  repeat' (first
    | with_reducible assumption
    | intro _
    | with_reducible apply State.raise_kept
    | with_reducible apply State.depositOnce_kept
    | with_reducible apply State.setFlag_kept
    | with_reducible apply kept_foldl
    | with_reducible apply kept_foldl_fst
    | with_reducible apply kept_foldr
    | with_reducible apply kept_ite)

theorem State.einConfirm_kept {z : State} (s : State) (n : Nat) (hz : Kept z s) : Kept z (State.einConfirm s n) := by
  unfold State.einConfirm
  repeat' (first
    | with_reducible assumption
    | intro _
    | with_reducible apply State.sf_kept
    | with_reducible apply State.wrapF_kept
    | with_reducible apply State.taskEvent_kept
    | with_reducible apply State.setEin_kept
    | with_reducible apply State.wr64_kept
    | with_reducible apply State.einRecord_kept
    | with_reducible apply kept_foldl
    | with_reducible apply kept_foldl_fst
    | with_reducible apply kept_foldr
    | with_reducible apply kept_ite)

theorem execEinTransition_answers (t : Nat) (ein : Fin 16) (level : Bool) (s : State) : Answers (s.clock t) (execEinTransition t ein level s) := by
  unfold execEinTransition
  repeat' (first
    | with_reducible exact Kept.refl _
    | intro _
    | with_reducible apply answers_next
    | with_reducible apply State.clock_kept
    | with_reducible apply State.setEin_kept
    | with_reducible apply State.einConfirm_kept
    | with_reducible apply answers_ite)

theorem execEinConfirm_answers (t : Nat) (ein : Fin 16) (s : State) : Answers (s.clock t) (execEinConfirm t ein s) := by
  unfold execEinConfirm
  repeat' (first
    | with_reducible exact Kept.refl _
    | intro _
    | with_reducible apply answers_next
    | with_reducible apply State.clock_kept
    | with_reducible apply State.einConfirm_kept
    | with_reducible apply answers_ite)

theorem State.einReset_kept {z : State} (s : State) (hz : Kept z s) : Kept z (State.einReset s) := by
  unfold State.einReset
  repeat' (first
    | with_reducible assumption
    | intro _
    | with_reducible apply kept_foldl_snd
    | with_reducible apply kept_foldl
    | with_reducible apply kept_foldl_fst
    | with_reducible apply kept_foldr
    | with_reducible apply kept_ite
    | with_reducible apply kept_ite_fst
    | with_reducible apply kept_ite_snd
    | with_reducible apply kept_ite_third
    | fail_if_no_progress (with_reducible refine Kept.update ?_ rfl rfl rfl rfl rfl))

/-! Machine/Attic.lean -/

theorem State.wear_kept {z : State} (s : State) (hz : Kept z s) : Kept z (State.wear s) := by
  unfold State.wear
  repeat' (first
    | with_reducible assumption
    | intro _
    | with_reducible apply State.set0_kept
    | with_reducible apply kept_foldl_snd
    | with_reducible apply kept_foldl
    | with_reducible apply kept_foldl_fst
    | with_reducible apply kept_foldr
    | with_reducible apply kept_ite
    | with_reducible apply kept_ite_fst
    | with_reducible apply kept_ite_snd
    | with_reducible apply kept_ite_third
    | fail_if_no_progress (with_reducible refine Kept.update ?_ rfl rfl rfl rfl rfl))

theorem State.atcStore_kept {z : State} (s : State) (slot : Nat) (hz : Kept z s) : Kept z (State.atcStore s slot) := by
  unfold State.atcStore
  repeat' (first
    | with_reducible assumption
    | intro _
    | with_reducible apply State.set0_kept
    | with_reducible apply kept_foldl
    | with_reducible apply kept_foldl_fst
    | with_reducible apply kept_foldr
    | with_reducible apply kept_ite
    | with_reducible apply kept_ite_fst
    | with_reducible apply kept_ite_snd
    | with_reducible apply kept_ite_third
    | fail_if_no_progress (with_reducible refine Kept.update ?_ rfl rfl rfl rfl rfl))

theorem State.atcRead_kept {z : State} (s : State) (slot : Nat) (hz : Kept z s) : Kept z (State.atcRead s slot) := by
  unfold State.atcRead
  repeat' (first
    | with_reducible assumption
    | intro _
    | with_reducible apply State.set0_kept
    | with_reducible apply State.wr_kept
    | with_reducible apply kept_foldl_snd
    | with_reducible apply kept_foldl
    | with_reducible apply kept_foldl_fst
    | with_reducible apply kept_foldr
    | with_reducible apply kept_ite)

theorem State.atcCmd_kept {z : State} (s : State) (w : Nat) (hz : Kept z s) : Kept z (State.atcCmd s w) := by
  unfold State.atcCmd
  repeat' (first
    | with_reducible assumption
    | intro _
    | with_reducible apply State.atcStore_kept
    | with_reducible apply State.atcRead_kept
    | with_reducible apply kept_foldl
    | with_reducible apply kept_foldl_fst
    | with_reducible apply kept_foldr
    | with_reducible apply kept_ite
    | with_reducible apply kept_ite_fst
    | with_reducible apply kept_ite_snd
    | with_reducible apply kept_ite_third
    | fail_if_no_progress (with_reducible refine Kept.update ?_ rfl rfl rfl rfl rfl)
    | split)

theorem execAtcStore_answers (t : Nat) (party : Party) (slot : Fin 256) (s : State) : Answers (s.clock t) (execAtcStore t party slot s) := by
  unfold execAtcStore
  repeat' (first
    | with_reducible exact Kept.refl _
    | intro _
    | with_reducible apply answers_next
    | with_reducible apply State.hostWrite_kept
    | with_reducible apply State.atcStore_kept)

theorem execAtcRead_answers (t : Nat) (party : Party) (slot : Fin 256) (s : State) : Answers (s.clock t) (execAtcRead t party slot s) := by
  unfold execAtcRead
  repeat' (first
    | with_reducible exact Kept.refl _
    | intro _
    | with_reducible apply answers_next
    | with_reducible apply State.hostWrite_kept
    | with_reducible apply State.atcRead_kept)

theorem State.logFail_kept {z : State} (s : State) (hz : Kept z s) : Kept z s.logFail := by
  unfold State.logFail
  extract_lets page src s1
  have h1 : Kept z s1 := by
    refine kept_unst (s := s) id (fun hl => ?_) hz
    have hp : page.length = (s.evt.storing.map (·.1.length)).getD 0 := by
      simp only [page]; split <;> next h => simp [h]
    refine le_of_eq_of_le (b := s.evt.unst.length + page.length) ?_ (le_of_eq_of_le (by rw [hp]; rfl) hl)
    change (s.evt.unst ++ page.reverse).length + 0 = _
    simp only [List.length_append, List.length_reverse]
    omega
  exact State.set0_kept _ _ _ (State.logEvent_kept _ _ _ _ (State.assertErr_kept _ (State.gaspEntry_kept _ _ _ _ h1)))

theorem State.storeResult_kept {z : State} (s : State) (verified : Bool) (hz : Kept z s) : Kept z (State.storeResult s verified).2 := by
  unfold State.storeResult
  repeat' (first
    | with_reducible assumption
    | intro _
    | with_reducible apply State.wear_kept
    | with_reducible apply kept_foldl_snd
    | with_reducible apply kept_foldl
    | with_reducible apply kept_foldl_fst
    | with_reducible apply kept_foldr
    | with_reducible apply kept_ite
    | with_reducible apply kept_ite_fst
    | with_reducible apply kept_ite_snd)

theorem State.slotStored_kept {z : State} (s : State) (slot : Nat) (bytes : Bytes) (code : Nat) (hz : Kept z s) : Kept z (State.slotStored s slot bytes code) := by
  unfold State.slotStored
  repeat' (first
    | with_reducible assumption
    | intro _
    | with_reducible apply State.set0_kept
    | with_reducible apply kept_foldl
    | with_reducible apply kept_foldl_fst
    | with_reducible apply kept_foldr
    | with_reducible apply kept_ite
    | with_reducible apply kept_ite_fst
    | with_reducible apply kept_ite_snd
    | with_reducible apply kept_ite_third
    | fail_if_no_progress (with_reducible refine Kept.update ?_ rfl rfl rfl rfl rfl))

theorem State.pageStored_kept {z : State} (s : State) (page : List (Nat × LogEntry)) (code : Nat) (hz : Kept z s) :
    Kept z (s.pageStored page code) := by
  unfold State.pageStored
  split
  · have h1 : Kept z { s with evt := { s.evt with storing := none } } :=
      kept_unst id (fun hl => le_trans (Nat.add_le_add_left (Nat.zero_le _) s.evt.unst.length) hl) hz
    exact Kept.update h1 rfl rfl rfl rfl rfl
  · exact State.logFail_kept _ hz

theorem State.storeDone_kept {z : State} (s : State) (verified : Bool) (hz : Kept z s) : Kept z (State.storeDone s verified) := by
  unfold State.storeDone
  repeat' (first
    | with_reducible assumption
    | intro _
    | with_reducible apply State.logFail_kept
    | with_reducible apply State.storeResult_kept
    | with_reducible apply State.pageStored_kept
    | with_reducible apply State.slotStored_kept
    | with_reducible apply kept_foldl
    | with_reducible apply kept_foldl_fst
    | with_reducible apply kept_foldr
    | with_reducible apply kept_ite
    | with_reducible apply kept_ite_fst
    | with_reducible apply kept_ite_snd
    | with_reducible apply kept_ite_third
    | fail_if_no_progress (with_reducible refine Kept.update ?_ rfl rfl rfl rfl rfl)
    | split)

theorem execStoreDone_answers (t : Nat) (verified : Bool) (s : State) : Answers (s.clock t) (execStoreDone t verified s) := by
  unfold execStoreDone
  repeat' (first
    | with_reducible exact Kept.refl _
    | intro _
    | with_reducible apply answers_next
    | with_reducible apply State.storeDone_kept)

theorem execWearMove_answers (t : Nat) (s : State) : Answers (s.clock t) (execWearMove t s) := by
  unfold execWearMove
  repeat' (first
    | with_reducible exact Kept.refl _
    | intro _
    | with_reducible apply answers_next
    | with_reducible apply State.clock_kept
    | with_reducible apply State.wear_kept
    | with_reducible apply answers_ite)

theorem execLogPageStore_answers (t : Nat) (s : State) : Answers (s.clock t) (execLogPageStore t s) := by
  unfold execLogPageStore
  extract_lets u page page1
  split
  · next h =>
    refine answers_next (kept_unst id (fun hl => ?_) (Kept.refl _))
    have hn : u.evt.storing = none := by
      cases hs : u.evt.storing with
      | none => rfl
      | some x => simp [State.storeBusy, hs] at h
    have hp : page1.length = page.length := by
      simp only [page1]
      split
      · exact markLost_length _
      · rfl
    have hd : page.length = min 8 u.evt.unst.length := by simp only [page, List.length_take, List.length_reverse]
    have hu : u.evt.unst.length ≤ 256 := le_trans (Nat.le_add_right _ _) hl
    change (u.evt.unst.reverse.drop 8).reverse.length + page1.length ≤ 256
    simp only [List.length_reverse, List.length_drop]
    omega
  · exact answers_next (Kept.refl _)

theorem State.evtStat_kept {z : State} (s : State) (w : Nat) (hz : Kept z s) : Kept z (State.evtStat s w) := by
  unfold State.evtStat
  repeat' (first
    | with_reducible assumption
    | intro _
    | with_reducible apply State.set0_kept)

theorem execLogFailClear_answers (t : Nat) (party : Party) (s : State) : Answers (s.clock t) (execLogFailClear t party s) := by
  unfold execLogFailClear
  repeat' (first
    | with_reducible exact Kept.refl _
    | intro _
    | with_reducible apply answers_next
    | with_reducible apply State.hostWrite_kept
    | with_reducible apply State.evtStat_kept)

theorem State.evtRead_kept {z : State} (s : State) (party : Party) (hz : Kept z s) : Kept z (State.evtRead s party) := by
  unfold State.evtRead
  repeat' (first
    | with_reducible assumption
    | intro _
    | with_reducible apply kept_foldl
    | with_reducible apply kept_foldl_fst
    | with_reducible apply kept_foldr
    | with_reducible apply kept_ite
    | with_reducible apply kept_ite_fst
    | with_reducible apply kept_ite_snd
    | with_reducible apply kept_ite_third
    | fail_if_no_progress (with_reducible refine Kept.update ?_ rfl rfl rfl rfl rfl))

theorem execEvtReadCapture_answers (t : Nat) (party : Party) (s : State) : Answers (s.clock t) (execEvtReadCapture t party s) := by
  unfold execEvtReadCapture
  repeat' (first
    | with_reducible exact Kept.refl _
    | intro _
    | with_reducible apply answers_next
    | with_reducible apply State.evtRead_kept
    | with_reducible apply State.clock_kept
    | with_reducible apply State.emit_kept)

theorem State.trcRead_kept {z : State} (s : State) (party : Party) (hz : Kept z s) : Kept z (State.trcRead s party) := by
  unfold State.trcRead
  repeat' (first
    | with_reducible assumption
    | intro _
    | with_reducible apply kept_foldl
    | with_reducible apply kept_foldl_fst
    | with_reducible apply kept_foldr
    | with_reducible apply kept_ite
    | with_reducible apply kept_ite_fst
    | with_reducible apply kept_ite_snd
    | with_reducible apply kept_ite_third
    | fail_if_no_progress (with_reducible refine Kept.update ?_ rfl rfl rfl rfl rfl))

theorem execTrcReadCapture_answers (t : Nat) (party : Party) (s : State) : Answers (s.clock t) (execTrcReadCapture t party s) := by
  unfold execTrcReadCapture
  repeat' (first
    | with_reducible exact Kept.refl _
    | intro _
    | with_reducible apply answers_next
    | with_reducible apply State.trcRead_kept
    | with_reducible apply State.clock_kept
    | with_reducible apply State.emit_kept)

/-! Machine/Ports.lean -/

theorem State.setPst_kept {z : State} (s : State) (n v : Nat) (hz : Kept z s) : Kept z (State.setPst s n v) := by
  unfold State.setPst
  repeat' (first
    | with_reducible assumption
    | intro _
    | with_reducible apply State.sf_kept
    | with_reducible apply kept_foldl
    | with_reducible apply kept_foldl_fst
    | with_reducible apply kept_foldr
    | with_reducible apply kept_ite
    | with_reducible apply kept_ite_fst
    | with_reducible apply kept_ite_snd
    | with_reducible apply kept_ite_third
    | fail_if_no_progress (with_reducible refine Kept.update ?_ rfl rfl rfl rfl rfl))

theorem State.portCount_kept {z : State} (s : State) (n c : Nat) (k : Nat) (hz : Kept z s) : Kept z (State.portCount s n c k) := by
  unfold State.portCount
  repeat' (first
    | with_reducible assumption
    | intro _
    | with_reducible apply State.bump64_kept
    | with_reducible apply kept_foldl
    | with_reducible apply kept_foldl_fst
    | with_reducible apply kept_foldr
    | with_reducible apply kept_ite)

theorem State.laneFlag_kept {z : State} (s : State) (n : Nat) (pg g : Fld) (v : Nat) (hz : Kept z s) : Kept z (State.laneFlag s n pg g v) := by
  unfold State.laneFlag
  repeat' (first
    | with_reducible assumption
    | intro _
    | with_reducible apply State.sf_kept
    | with_reducible apply kept_foldl_snd
    | with_reducible apply kept_foldl
    | with_reducible apply kept_foldl_fst
    | with_reducible apply kept_foldr
    | with_reducible apply kept_ite)

theorem State.portStart_kept {z : State} (s : State) (n : Nat) (hz : Kept z s) : Kept z (State.portStart s n) := by
  unfold State.portStart
  repeat' (first
    | with_reducible assumption
    | intro _
    | with_reducible apply State.raise_kept
    | with_reducible apply State.setPst_kept
    | with_reducible apply kept_foldl
    | with_reducible apply kept_foldl_fst
    | with_reducible apply kept_foldr
    | with_reducible apply kept_ite)

theorem State.setRclk_kept {z : State} (s : State) (n v : Nat) (hz : Kept z s) : Kept z (State.setRclk s n v) := by
  unfold State.setRclk
  repeat' (first
    | with_reducible assumption
    | intro _
    | with_reducible apply State.sf_kept
    | with_reducible apply kept_foldl
    | with_reducible apply kept_foldl_fst
    | with_reducible apply kept_foldr
    | with_reducible apply kept_ite)

theorem State.setRx_kept {z : State} (s : State) (n : Nat) (r : Option RxFrame) (hz : Kept z s) : Kept z (State.setRx s n r) := by
  unfold State.setRx
  repeat' (first
    | with_reducible assumption
    | intro _
    | with_reducible apply kept_foldl
    | with_reducible apply kept_foldl_fst
    | with_reducible apply kept_foldr
    | with_reducible apply kept_ite
    | with_reducible apply kept_ite_fst
    | with_reducible apply kept_ite_snd
    | with_reducible apply kept_ite_third
    | fail_if_no_progress (with_reducible refine Kept.update ?_ rfl rfl rfl rfl rfl))

theorem State.spoilTx_kept {z : State} (s : State) (n : Nat) (hz : Kept z s) : Kept z (State.spoilTx s n) := by
  unfold State.spoilTx
  repeat' (first
    | with_reducible assumption
    | intro _
    | with_reducible apply State.setEgress_kept
    | with_reducible apply kept_foldl
    | with_reducible apply kept_foldl_fst
    | with_reducible apply kept_foldr
    | with_reducible apply kept_ite
    | with_reducible apply kept_ite_fst
    | with_reducible apply kept_ite_snd
    | with_reducible apply kept_ite_third
    | fail_if_no_progress (with_reducible refine Kept.update ?_ rfl rfl rfl rfl rfl)
    | split)

theorem State.dropBuffered_kept {z : State} (s : State) (q d : Nat) (hz : Kept z s) : Kept z (State.dropBuffered s q d) := by
  unfold State.dropBuffered
  repeat' (first
    | with_reducible assumption
    | intro _
    | with_reducible apply State.releaseCopy_kept
    | with_reducible apply State.setItem_kept
    | with_reducible apply State.spoilTx_kept
    | with_reducible apply State.removeEntry_kept
    | with_reducible apply kept_foldl
    | with_reducible apply kept_foldl_fst
    | with_reducible apply kept_foldr
    | with_reducible apply kept_ite)

theorem State.dropRx_kept {z : State} (s : State) (n : Nat) (hz : Kept z s) : Kept z (State.dropRx s n) := by
  unfold State.dropRx
  repeat' (first
    | with_reducible assumption
    | intro _
    | with_reducible apply State.spoilTx_kept
    | with_reducible apply State.setRx_kept
    | with_reducible apply State.freeItem_kept
    | with_reducible apply State.dropBuffered_kept
    | with_reducible apply kept_foldl_snd
    | with_reducible apply kept_foldl
    | with_reducible apply kept_foldl_fst
    | with_reducible apply kept_foldr
    | with_reducible apply kept_ite
    | with_reducible apply kept_ite_fst
    | with_reducible apply kept_ite_snd
    | with_reducible apply kept_ite_third
    | fail_if_no_progress (with_reducible refine Kept.update ?_ rfl rfl rfl rfl rfl)
    | split)

theorem State.abortTx_kept {z : State} (s : State) (n : Nat) (hz : Kept z s) : Kept z (State.abortTx s n) := by
  unfold State.abortTx
  repeat' (first
    | with_reducible assumption
    | intro _
    | with_reducible apply State.portCount_kept
    | with_reducible apply State.emit_kept
    | with_reducible apply State.setEgress_kept
    | with_reducible apply State.unstartEntry_kept
    | with_reducible apply kept_foldl
    | with_reducible apply kept_foldl_fst
    | with_reducible apply kept_foldr
    | with_reducible apply kept_ite
    | with_reducible apply kept_ite_fst
    | with_reducible apply kept_ite_snd
    | with_reducible apply kept_ite_third
    | fail_if_no_progress (with_reducible refine Kept.update ?_ rfl rfl rfl rfl rfl)
    | split)

theorem State.setGableLane_kept {z : State} (s : State) (g : Nat) (l : GableLane) (hz : Kept z s) : Kept z (State.setGableLane s g l) := by
  unfold State.setGableLane
  repeat' (first
    | with_reducible assumption
    | intro _
    | with_reducible apply kept_foldl
    | with_reducible apply kept_foldl_fst
    | with_reducible apply kept_foldr
    | with_reducible apply kept_ite
    | with_reducible apply kept_ite_fst
    | with_reducible apply kept_ite_snd
    | with_reducible apply kept_ite_third
    | fail_if_no_progress (with_reducible refine Kept.update ?_ rfl rfl rfl rfl rfl))

theorem State.pushFront_kept {z : State} (s : State) (q : Nat) (es : List QEntry) (hz : Kept z s) : Kept z (State.pushFront s q es) := by
  unfold State.pushFront
  repeat' (first
    | with_reducible assumption
    | intro _
    | with_reducible apply State.set0_kept
    | with_reducible apply State.setEntries_kept
    | with_reducible apply State.setItem_kept
    | with_reducible apply kept_foldl_snd
    | with_reducible apply kept_foldl
    | with_reducible apply kept_foldl_fst
    | with_reducible apply kept_foldr
    | with_reducible apply kept_ite)

/-! Machine/FrameIn.lean -/

theorem State.meter_kept {z : State} (s : State) (i len stamp : Nat) (yellowIn : Bool) (hz : Kept z s) : Kept z (State.meter s i len stamp yellowIn).2 := by
  unfold State.meter
  repeat' (first
    | with_reducible assumption
    | intro _
    | with_reducible apply State.sumFire_kept
    | with_reducible apply kept_foldl_snd
    | with_reducible apply kept_foldl
    | with_reducible apply kept_foldl_fst
    | with_reducible apply kept_foldr
    | with_reducible apply kept_ite
    | with_reducible apply kept_ite_fst
    | with_reducible apply kept_ite_snd
    | with_reducible apply kept_ite_third
    | fail_if_no_progress (with_reducible refine Kept.update ?_ rfl rfl rfl rfl rfl))

theorem State.setRecov_kept {z : State} (s : State) (i : Nat) (r : Recov) (hz : Kept z s) : Kept z (State.setRecov s i r) := by
  unfold State.setRecov
  repeat' (first
    | with_reducible assumption
    | intro _
    | with_reducible apply kept_foldl
    | with_reducible apply kept_foldl_fst
    | with_reducible apply kept_foldr
    | with_reducible apply kept_ite
    | with_reducible apply kept_ite_fst
    | with_reducible apply kept_ite_snd
    | with_reducible apply kept_ite_third
    | fail_if_no_progress (with_reducible refine Kept.update ?_ rfl rfl rfl rfl rfl))

theorem State.recover_kept {z : State} (s : State) (i q n : Nat) (hz : Kept z s) : Kept z (State.recover s i q n).2 := by
  unfold State.recover
  repeat' (first
    | with_reducible assumption
    | intro _
    | with_reducible apply State.setRecov_kept
    | with_reducible apply State.fpCount_kept
    | with_reducible apply State.raise_kept
    | with_reducible apply kept_foldl_snd
    | with_reducible apply kept_foldl
    | with_reducible apply kept_foldl_fst
    | with_reducible apply kept_foldr
    | with_reducible apply kept_ite
    | with_reducible apply kept_ite_fst
    | with_reducible apply kept_ite_snd
    | with_reducible apply kept_ite_third
    | fail_if_no_progress (with_reducible refine Kept.update ?_ rfl rfl rfl rfl rfl)
    | split
    | extract_lets)

theorem State.holdItem_kept {z : State} (s : State) (i q d : Nat) (queues : List Nat) (hz : Kept z s) : Kept z (State.holdItem s i q d queues) := by
  unfold State.holdItem
  repeat' (first
    | with_reducible assumption
    | intro _
    | with_reducible apply State.setRecov_kept)

theorem State.holdZone_kept {z : State} (s : State) (d : Nat) (queues : List Nat) (hz : Kept z s) : Kept z (State.holdZone s d queues) := by
  unfold State.holdZone
  repeat' (first
    | with_reducible assumption
    | intro _
    | with_reducible apply State.setItem_kept
    | with_reducible apply State.pushEntry_kept
    | with_reducible apply kept_foldl_snd
    | with_reducible apply kept_foldl
    | with_reducible apply kept_foldl_fst
    | with_reducible apply kept_foldr
    | with_reducible apply kept_ite
    | with_reducible apply kept_ite_fst
    | with_reducible apply kept_ite_snd
    | with_reducible apply kept_ite_third
    | fail_if_no_progress (with_reducible refine Kept.update ?_ rfl rfl rfl rfl rfl))

theorem State.expressOut_kept {z : State} (s : State) (d : Nat) (queues : List Nat) (hz : Kept z s) : Kept z (State.expressOut s d queues) := by
  unfold State.expressOut
  repeat' (first
    | with_reducible assumption
    | intro _
    | with_reducible apply State.fpCount_kept
    | with_reducible apply State.raise_kept
    | with_reducible apply State.freeItem_kept
    | with_reducible apply State.storeItem_kept
    | with_reducible apply State.pushEntry_kept
    | with_reducible apply State.bump_kept
    | with_reducible apply kept_foldl_snd
    | with_reducible apply kept_foldl
    | with_reducible apply kept_foldl_fst
    | with_reducible apply kept_foldr
    | with_reducible apply kept_ite
    | with_reducible apply kept_ite_fst
    | with_reducible apply kept_ite_snd
    | with_reducible apply kept_ite_third
    | fail_if_no_progress (with_reducible refine Kept.update ?_ rfl rfl rfl rfl rfl)
    | split
    | extract_lets)

theorem State.noteZone_kept {z : State} (s : State) (d : Nat) (queues : List Nat) (hz : Kept z s) : Kept z (State.noteZone s d queues) := by
  unfold State.noteZone
  repeat' (first
    | with_reducible assumption
    | intro _
    | with_reducible apply kept_foldl
    | with_reducible apply kept_foldl_fst
    | with_reducible apply kept_foldr
    | with_reducible apply kept_ite
    | with_reducible apply kept_ite_fst
    | with_reducible apply kept_ite_snd
    | with_reducible apply kept_ite_third
    | fail_if_no_progress (with_reducible refine Kept.update ?_ rfl rfl rfl rfl rfl))

theorem State.deliverItem_kept {z : State} (s : State) (d : Nat) (queues : List Nat) (src : AsrSrc) (hz : Kept z s) : Kept z (State.deliverItem s d queues src) := by
  unfold State.deliverItem
  repeat' (first
    | with_reducible assumption
    | intro _
    | with_reducible apply State.noteZone_kept
    | with_reducible apply State.enqueueAccepted_kept
    | with_reducible apply State.holdZone_kept
    | with_reducible apply State.number_kept
    | with_reducible apply State.refuseFull_kept
    | with_reducible apply State.offer_kept
    | with_reducible apply State.expressOut_kept
    | with_reducible apply State.enqueueAll_kept
    | with_reducible apply kept_foldl
    | with_reducible apply kept_foldl_fst
    | with_reducible apply kept_foldr
    | with_reducible apply kept_ite
    | with_reducible apply kept_ite_fst
    | with_reducible apply kept_ite_snd
    | with_reducible apply kept_ite_third
    | fail_if_no_progress (with_reducible refine Kept.update ?_ rfl rfl rfl rfl rfl)
    | split
    | extract_lets)

theorem State.deliverRun_kept {z : State} (s : State) (i : Nat) (hz : Kept z s) : Kept z (State.deliverRun s i) := by
  unfold State.deliverRun
  repeat' (first
    | with_reducible assumption
    | intro _
    | with_reducible apply State.setRecov_kept
    | with_reducible apply State.pushFront_kept
    | with_reducible apply State.deliverItem_kept
    | with_reducible apply kept_foldl_snd
    | with_reducible apply kept_foldl
    | with_reducible apply kept_foldl_fst
    | with_reducible apply kept_foldr
    | with_reducible apply kept_ite)

theorem State.recoverIn_kept {z : State} (s : State) (fn d : Nat) (queues : List Nat) (go : State → State)
    (hg : ∀ u, Kept z u → Kept z (go u)) (hz : Kept z s) : Kept z (s.recoverIn fn d queues go) := by
  unfold State.recoverIn
  extract_lets i v
  have hv : Kept z v.2 := State.recover_kept _ _ _ _ hz
  clear_value v
  split
  · exact kept_ite (hg _ hv) (State.deliverRun_kept _ _ (hg _ hv))
  · exact State.holdItem_kept _ _ _ _ _ hv
  · exact State.freeItem_kept _ _ hv

theorem State.recovSwap_kept {z : State} (s : State) (old : RecovCfg) (i : Nat) (hz : Kept z s) : Kept z (State.recovSwap s old i) := by
  unfold State.recovSwap
  repeat' (first
    | with_reducible assumption
    | intro _
    | with_reducible apply State.setRecov_kept
    | with_reducible apply State.releaseCopy_kept
    | with_reducible apply kept_foldl_snd
    | with_reducible apply kept_foldl
    | with_reducible apply kept_foldl_fst
    | with_reducible apply kept_foldr
    | with_reducible apply kept_ite)

theorem execRecoveryHeldTimeout_answers (t : Nat) (fn : Fin 16384) (s : State) : Answers (s.clock t) (execRecoveryHeldTimeout t fn s) := by
  unfold execRecoveryHeldTimeout
  repeat' (first
    | with_reducible exact Kept.refl _
    | intro _
    | with_reducible apply answers_next
    | with_reducible apply State.raise_kept
    | with_reducible apply State.clock_kept
    | with_reducible apply State.setRecov_kept
    | with_reducible apply State.deliverRun_kept
    | with_reducible apply answers_ite
    | with_reducible assumption
    | intro _
    | with_reducible apply kept_foldl
    | with_reducible apply kept_foldl_fst
    | with_reducible apply kept_foldr
    | with_reducible apply kept_ite
    | with_reducible apply kept_ite_fst
    | with_reducible apply kept_ite_snd
    | with_reducible apply kept_ite_third
    | fail_if_no_progress (with_reducible refine Kept.update ?_ rfl rfl rfl rfl rfl)
    | split
    | extract_lets)

theorem execRecoveryIdleTimeout_answers (t : Nat) (fn : Fin 16384) (s : State) : Answers (s.clock t) (execRecoveryIdleTimeout t fn s) := by
  unfold execRecoveryIdleTimeout
  repeat' (first
    | with_reducible exact Kept.refl _
    | intro _
    | with_reducible apply answers_next
    | with_reducible apply State.clock_kept
    | with_reducible apply State.setRecov_kept
    | with_reducible apply answers_ite)

theorem State.fdbWrite_kept {z : State} (s : State) (i : Nat) (both : Bool) (w : List (BitVec 32)) (hz : Kept z s) : Kept z (State.fdbWrite s i both w) := by
  unfold State.fdbWrite
  repeat' (first
    | with_reducible assumption
    | intro _
    | with_reducible apply kept_foldl
    | with_reducible apply kept_foldl_fst
    | with_reducible apply kept_foldr
    | with_reducible apply kept_ite
    | with_reducible apply kept_ite_fst
    | with_reducible apply kept_ite_snd
    | with_reducible apply kept_ite_third
    | fail_if_no_progress (with_reducible refine Kept.update ?_ rfl rfl rfl rfl rfl))

theorem State.learnEntry_kept {z : State} (s : State) (i fid mac port : Nat) (hz : Kept z s) : Kept z (State.learnEntry s i fid mac port) := by
  unfold State.learnEntry
  repeat' (first
    | with_reducible assumption
    | intro _
    | with_reducible apply State.fdbWrite_kept
    | with_reducible apply kept_foldl
    | with_reducible apply kept_foldl_fst
    | with_reducible apply kept_foldr
    | with_reducible apply kept_ite
    | with_reducible apply kept_ite_fst
    | with_reducible apply kept_ite_snd
    | with_reducible apply kept_ite_third
    | fail_if_no_progress (with_reducible refine Kept.update ?_ rfl rfl rfl rfl rfl))

theorem State.learnSlot_kept {z : State} (s : State) (hz : Kept z s) : Kept z (State.learnSlot s).2 := by
  unfold State.learnSlot
  repeat' (first
    | with_reducible assumption
    | intro _
    | with_reducible apply State.sec_kept
    | with_reducible apply State.bump_kept
    | with_reducible apply kept_foldl_snd
    | with_reducible apply kept_foldl
    | with_reducible apply kept_foldl_fst
    | with_reducible apply kept_foldr
    | with_reducible apply kept_ite
    | with_reducible apply kept_ite_fst
    | with_reducible apply kept_ite_snd
    | with_reducible apply kept_ite_third
    | fail_if_no_progress (with_reducible refine Kept.update ?_ rfl rfl rfl rfl rfl))

theorem State.learn_kept {z : State} (s : State) (n fid sa : Nat) (std : Bool) (hz : Kept z s) : Kept z (State.learn s n fid sa std).2 := by
  unfold State.learn
  repeat' (first
    | with_reducible assumption
    | intro _
    | with_reducible apply State.raise_kept
    | with_reducible apply State.fpCount_kept
    | with_reducible apply State.learnSlot_kept
    | with_reducible apply State.learnEntry_kept
    | with_reducible apply kept_foldl_snd
    | with_reducible apply kept_foldl
    | with_reducible apply kept_foldl_fst
    | with_reducible apply kept_foldr
    | with_reducible apply kept_ite
    | with_reducible apply kept_ite_fst
    | with_reducible apply kept_ite_snd
    | with_reducible apply kept_ite_third
    | fail_if_no_progress (with_reducible refine Kept.update ?_ rfl rfl rfl rfl rfl)
    | split)

theorem execAgeExpiry_answers (t : Nat) (entry : Fin 262144) (s : State) : Answers (s.clock t) (execAgeExpiry t entry s) := by
  unfold execAgeExpiry
  repeat' (first
    | with_reducible exact Kept.refl _
    | intro _
    | with_reducible apply answers_next
    | with_reducible apply State.clock_kept
    | with_reducible apply State.fdbWrite_kept
    | with_reducible apply answers_ite
    | with_reducible assumption
    | intro _
    | with_reducible apply kept_foldl
    | with_reducible apply kept_foldl_fst
    | with_reducible apply kept_foldr
    | with_reducible apply kept_ite
    | with_reducible apply kept_ite_fst
    | with_reducible apply kept_ite_snd
    | with_reducible apply kept_ite_third
    | fail_if_no_progress (with_reducible refine Kept.update ?_ rfl rfl rfl rfl rfl)
    | split
    | extract_lets)

theorem State.police_kept {z : State} (s : State) (n len stamp : Nat) (act : Option StreamAct) (cls : Cls) (dei : Bool) (hz : Kept z s) : Kept z (State.police s n len stamp act cls dei).1 := by
  unfold State.police
  repeat' (first
    | with_reducible assumption
    | intro _
    | with_reducible apply State.fpCount_kept
    | with_reducible apply State.meter_kept
    | with_reducible apply kept_foldl
    | with_reducible apply kept_foldl_fst
    | with_reducible apply kept_foldr
    | with_reducible apply kept_ite
    | with_reducible apply kept_ite_fst
    | with_reducible apply kept_ite_snd
    | with_reducible apply kept_ite_third
    | fail_if_no_progress (with_reducible refine Kept.update ?_ rfl rfl rfl rfl rfl)
    | split
    | extract_lets)

theorem State.rxDiscard_kept {z : State} (s : State) (n : Nat) (r : RxFrame) (hz : Kept z s) : Kept z (State.rxDiscard s n r) := by
  unfold State.rxDiscard
  repeat' (first
    | with_reducible assumption
    | intro _
    | with_reducible apply State.setRx_kept)

theorem State.rxRefuse_kept {z : State} (s : State) (n : Nat) (r : RxFrame) (stream : Option Nat) (hz : Kept z s) : Kept z (State.rxRefuse s n r stream) := by
  unfold State.rxRefuse
  repeat' (first
    | with_reducible assumption
    | intro _
    | with_reducible apply State.setRx_kept)

theorem State.expressDrop_kept {z : State} (s : State) (p : Nat) (hz : Kept z s) : Kept z (State.expressDrop s p) := by
  unfold State.expressDrop
  repeat' (first
    | with_reducible assumption
    | intro _
    | with_reducible apply State.raise_kept
    | with_reducible apply State.bump_kept)

theorem State.expressStore_kept {z : State} (s : State) (n : Nat) (f : Bytes) (stamp : Nat) (x : Route) (p q : Nat) (hz : Kept z s) : Kept z (State.expressStore s n f stamp x p q).1 := by
  unfold State.expressStore
  repeat' (first
    | with_reducible assumption
    | intro _
    | with_reducible apply State.expressDrop_kept
    | with_reducible apply State.storeItem_kept
    | with_reducible apply State.pushEntry_kept
    | with_reducible apply kept_foldl
    | with_reducible apply kept_foldl_fst
    | with_reducible apply kept_foldr
    | with_reducible apply kept_ite
    | with_reducible apply kept_ite_fst
    | with_reducible apply kept_ite_snd
    | with_reducible apply kept_ite_third
    | fail_if_no_progress (with_reducible refine Kept.update ?_ rfl rfl rfl rfl rfl)
    | split
    | extract_lets)

theorem State.expressCopy_kept {z : State} (s : State) (n : Nat) (f : Bytes) (stamp : Nat) (x : Route) (p₀ : Nat) (hz : Kept z s) : Kept z (State.expressCopy s n f stamp x p₀).1 := by
  unfold State.expressCopy
  repeat' (first
    | with_reducible assumption
    | intro _
    | with_reducible apply State.fpCount_kept
    | with_reducible apply State.asdCount_kept
    | with_reducible apply State.shape_kept
    | with_reducible apply State.setEgress_kept
    | with_reducible apply State.expressStore_kept
    | with_reducible apply kept_foldl
    | with_reducible apply kept_foldl_fst
    | with_reducible apply kept_foldr
    | with_reducible apply kept_ite
    | with_reducible apply kept_ite_fst)

theorem State.expressSvc_kept {z : State} (s : State) (n : Nat) (f : Bytes) (stamp : Nat) (x : Route) (q : Nat) (hz : Kept z s) : Kept z (State.expressSvc s n f stamp x q).1 := by
  unfold State.expressSvc
  repeat' (first
    | with_reducible assumption
    | intro _
    | with_reducible apply State.expressStore_kept)

theorem State.expressHold_kept {z : State} (s : State) (n : Nat) (r : RxFrame) (x : Route) (long : Bool) (hz : Kept z s) : Kept z (State.expressHold s n r x long) := by
  unfold State.expressHold
  repeat' (first
    | with_reducible assumption
    | intro _
    | with_reducible apply State.rxDiscard_kept
    | with_reducible apply State.expressDrop_kept
    | with_reducible apply State.storeItem_kept
    | with_reducible apply State.setRx_kept
    | with_reducible apply kept_foldl
    | with_reducible apply kept_foldl_fst
    | with_reducible apply kept_foldr
    | with_reducible apply kept_ite
    | with_reducible apply kept_ite_fst
    | with_reducible apply kept_ite_snd
    | with_reducible apply kept_ite_third
    | fail_if_no_progress (with_reducible refine Kept.update ?_ rfl rfl rfl rfl rfl)
    | split
    | extract_lets)

theorem State.stage5x_kept {z : State} (s : State) (n : Nat) (r : RxFrame) (x : Route) (long : Bool) (hz : Kept z s) : Kept z (State.stage5x s n r x long) := by
  unfold State.stage5x
  repeat' (first
    | with_reducible assumption
    | intro _
    | with_reducible apply State.expressCopy_kept
    | with_reducible apply State.expressSvc_kept
    | with_reducible apply State.setRx_kept
    | with_reducible apply kept_foldl_snd
    | with_reducible apply kept_foldl
    | with_reducible apply kept_foldl_fst)

theorem State.stage5s_kept {z : State} (s : State) (n vc : Nat) (r : RxFrame) (x : Route) (zone : List Nat) (hz : Kept z s) : Kept z (State.stage5s s n vc r x zone) := by
  unfold State.stage5s
  repeat' (first
    | with_reducible assumption
    | intro _
    | with_reducible apply State.rxRefuse_kept
    | with_reducible apply State.setRx_kept
    | with_reducible apply State.raise_kept
    | with_reducible apply State.rxDiscard_kept
    | with_reducible apply State.storeItem_kept
    | with_reducible apply State.pfcCheck_kept
    | with_reducible apply State.bump_kept
    | with_reducible apply kept_foldl
    | with_reducible apply kept_foldl_fst
    | with_reducible apply kept_foldr
    | with_reducible apply kept_ite
    | with_reducible apply kept_ite_fst
    | with_reducible apply kept_ite_snd
    | with_reducible apply kept_ite_third
    | fail_if_no_progress (with_reducible refine Kept.update ?_ rfl rfl rfl rfl rfl)
    | split
    | extract_lets)

theorem State.genSeq_kept {z : State} (s : State) (x : Route) (rtag : Option (Nat × Nat)) (hz : Kept z s) : Kept z (State.genSeq s x rtag).1 := by
  unfold State.genSeq
  repeat' (first
    | with_reducible assumption
    | intro _
    | with_reducible apply State.setSeqNext_kept
    | with_reducible apply kept_foldl
    | with_reducible apply kept_foldl_fst
    | with_reducible apply kept_foldr
    | with_reducible apply kept_ite
    | with_reducible apply kept_ite_fst
    | with_reducible apply kept_ite_snd
    | with_reducible apply kept_ite_third
    | fail_if_no_progress (with_reducible refine Kept.update ?_ rfl rfl rfl rfl rfl)
    | split)

theorem State.recoverEarly_kept {z : State} (s : State) (x : Route) (n : Nat) (hz : Kept z s) : Kept z (State.recoverEarly s x n).2 := by
  unfold State.recoverEarly
  repeat' (first
    | with_reducible assumption
    | intro _
    | with_reducible apply State.recover_kept
    | with_reducible apply kept_foldl_snd
    | with_reducible apply kept_foldl
    | with_reducible apply kept_foldl_fst
    | with_reducible apply kept_foldr
    | with_reducible apply kept_ite
    | with_reducible apply kept_ite_fst
    | with_reducible apply kept_ite_snd
    | with_reducible apply kept_ite_third
    | fail_if_no_progress (with_reducible refine Kept.update ?_ rfl rfl rfl rfl rfl)
    | split)

theorem State.stage4_kept {z : State} (s : State) (n vc : Nat) (r : RxFrame) (h : Hdr) (x : Route) (act : Option StreamAct) (fid member : Nat) (hz : Kept z s) : Kept z (State.stage4 s n vc r h x act fid member) := by
  unfold State.stage4
  repeat' (first
    | with_reducible assumption
    | intro _
    | with_reducible apply State.rxDiscard_kept
    | with_reducible apply State.genSeq_kept
    | with_reducible apply State.recoverEarly_kept
    | with_reducible apply State.fpCount_kept
    | with_reducible apply State.asdCount_kept
    | with_reducible apply State.setRx_kept
    | with_reducible apply kept_foldl
    | with_reducible apply kept_foldl_fst
    | with_reducible apply kept_foldr
    | with_reducible apply kept_ite
    | with_reducible apply kept_ite_fst
    | with_reducible apply kept_ite_snd
    | with_reducible apply kept_ite_third
    | fail_if_no_progress (with_reducible refine Kept.update ?_ rfl rfl rfl rfl rfl)
    | split)

theorem State.stage5_kept {z : State} (s : State) (n : Nat) (hz : Kept z s) : Kept z (State.stage5 s n) := by
  unfold State.stage5
  repeat' (first
    | with_reducible assumption
    | intro _
    | with_reducible apply State.expressHold_kept
    | with_reducible apply State.stage5x_kept
    | with_reducible apply State.deliverRun_kept
    | with_reducible apply State.stage5s_kept
    | with_reducible apply kept_foldl
    | with_reducible apply kept_foldl_fst
    | with_reducible apply kept_foldr
    | with_reducible apply kept_ite
    | with_reducible apply kept_ite_fst
    | with_reducible apply kept_ite_snd
    | with_reducible apply kept_ite_third
    | fail_if_no_progress (with_reducible refine Kept.update ?_ rfl rfl rfl rfl rfl)
    | split)

theorem State.stage3_kept {z : State} (s : State) (n vc : Nat) (r : RxFrame) (h : Hdr) (vid pcp fid member : Nat) (st : Option Nat) (own : Cls) (hz : Kept z s) : Kept z (State.stage3 s n vc r h vid pcp fid member st own) := by
  unfold State.stage3
  repeat' (first
    | with_reducible assumption
    | intro _
    | with_reducible apply State.own_kept
    | with_reducible apply State.learn_kept
    | with_reducible apply State.rxDiscard_kept
    | with_reducible apply State.police_kept
    | with_reducible apply State.stage4_kept
    | with_reducible apply State.rxRefuse_kept
    | with_reducible apply kept_foldl
    | with_reducible apply kept_foldl_fst
    | with_reducible apply kept_foldr
    | with_reducible apply kept_ite
    | with_reducible apply kept_ite_fst
    | with_reducible apply kept_ite_snd)

theorem State.stages_kept {z : State} (s : State) (n vc stamp : Nat) (f : Bytes) (own : Cls) (hz : Kept z s) : Kept z (State.stages s n vc stamp f own) := by
  unfold State.stages
  repeat' (first
    | with_reducible assumption
    | intro _
    | with_reducible apply State.rxDiscard_kept
    | with_reducible apply State.raise_kept
    | with_reducible apply State.stage3_kept
    | with_reducible apply State.dropRx_kept
    | with_reducible apply State.setRx_kept
    | with_reducible apply State.asdCount_kept
    | with_reducible apply State.fpCount_kept
    | with_reducible apply State.own_kept
    | with_reducible apply kept_foldl
    | with_reducible apply kept_foldl_fst
    | with_reducible apply kept_foldr
    | with_reducible apply kept_ite
    | with_reducible apply kept_ite_fst
    | with_reducible apply kept_ite_snd
    | with_reducible apply kept_ite_third
    | fail_if_no_progress (with_reducible refine Kept.update ?_ rfl rfl rfl rfl rfl)
    | split
    | extract_lets)

theorem State.ingress_kept {z : State} (s : State) (n vc stamp : Nat) (f : Bytes) (own : Cls) (hz : Kept z s) : Kept z (State.ingress s n vc stamp f own) := by
  unfold State.ingress
  repeat' (first
    | with_reducible assumption
    | intro _
    | with_reducible apply State.stage5_kept
    | with_reducible apply State.stages_kept)

theorem State.takeHeaders_kept {z : State} (s : State) (t : Nat) (hs : List Header) (hz : Kept z s) : Kept z (State.takeHeaders s t hs) := by
  unfold State.takeHeaders
  repeat' (first
    | with_reducible assumption
    | intro _
    | with_reducible apply State.stages_kept
    | with_reducible apply State.stage5_kept
    | with_reducible apply kept_foldl_snd
    | with_reducible apply kept_foldl)

theorem State.gableHeader_kept {z : State} (s : State) (n stamp : Nat) (f : Bytes) (hz : Kept z s) : Kept z (State.gableHeader s n stamp f) := by
  unfold State.gableHeader
  repeat' (first
    | with_reducible assumption
    | intro _
    | with_reducible apply State.setRx_kept
    | with_reducible apply State.dropRx_kept)

theorem execFrameHeaderReceived_answers (t : Nat) (port : PortRef) (vc : Fin 2) (stamp : Nat) (frame : Bytes) (s : State) : Answers (s.clock t) (execFrameHeaderReceived t port vc stamp frame s) := by
  unfold execFrameHeaderReceived
  repeat' (first
    | with_reducible exact Kept.refl _
    | intro _
    | with_reducible apply answers_next
    | with_reducible apply State.clock_kept
    | with_reducible apply State.gableHeader_kept
    | with_reducible apply State.takeHeaders_kept
    | with_reducible apply answers_ite
    | with_reducible assumption
    | intro _
    | with_reducible apply kept_foldl
    | with_reducible apply kept_foldl_fst
    | with_reducible apply kept_foldr
    | with_reducible apply kept_ite
    | with_reducible apply kept_ite_fst
    | with_reducible apply kept_ite_snd
    | with_reducible apply kept_ite_third
    | fail_if_no_progress (with_reducible refine Kept.update ?_ rfl rfl rfl rfl rfl))

theorem State.deliverWhole_kept {z : State} (s : State) (d : Nat) (queues : List Nat) (src : AsrSrc) (hz : Kept z s) : Kept z (State.deliverWhole s d queues src) := by
  unfold State.deliverWhole
  repeat' (first
    | with_reducible assumption
    | intro _
    | with_reducible apply State.recoverIn_kept
    | with_reducible apply State.deliverItem_kept
    | with_reducible apply kept_foldl
    | with_reducible apply kept_foldl_fst
    | with_reducible apply kept_foldr
    | with_reducible apply kept_ite
    | with_reducible apply kept_ite_fst
    | with_reducible apply kept_ite_snd
    | with_reducible apply kept_ite_third
    | fail_if_no_progress (with_reducible refine Kept.update ?_ rfl rfl rfl rfl rfl)
    | split)

theorem State.hopRun_kept {z : State} (s : State) (n vc k : Nat) (hz : Kept z s) : Kept z (s.hopRun n vc k) := by
  induction k generalizing s with
  | zero => exact hz
  | succ k ih =>
    unfold State.hopRun
    try extract_lets
    split
    · split
      · split
        · exact ih _ (State.deliverWhole_kept _ _ _ _ (State.setHop_kept _ _ _ _ hz))
        · exact State.refuseFull_kept _ _ _ _ (State.setHop_kept _ _ _ _ hz)
      · exact hz
    · exact hz

theorem State.hopReceive_kept {z : State} (s : State) (n vc q d : Nat) (queues : List Nat) (hz : Kept z s) : Kept z (State.hopReceive s n vc q d queues) := by
  unfold State.hopReceive
  repeat' (first
    | with_reducible assumption
    | intro _
    | with_reducible apply State.asdCount_kept
    | with_reducible apply State.hopRun_kept
    | with_reducible apply State.freeItem_kept
    | with_reducible apply State.setHop_kept
    | with_reducible apply State.deliverWhole_kept
    | with_reducible apply State.refuseFull_kept
    | with_reducible apply kept_foldl
    | with_reducible apply kept_foldl_fst
    | with_reducible apply kept_foldr
    | with_reducible apply kept_ite
    | with_reducible apply kept_ite_fst
    | with_reducible apply kept_ite_snd
    | with_reducible apply kept_ite_third
    | fail_if_no_progress (with_reducible refine Kept.update ?_ rfl rfl rfl rfl rfl)
    | split)

theorem State.hopSkip_kept {z : State} (s : State) (n vc q : Nat) (hz : Kept z s) : Kept z (State.hopSkip s n vc q) := by
  unfold State.hopSkip
  repeat' (first
    | with_reducible assumption
    | intro _
    | with_reducible apply State.hopRun_kept
    | with_reducible apply State.setHop_kept
    | with_reducible apply kept_foldl
    | with_reducible apply kept_foldl_fst
    | with_reducible apply kept_foldr
    | with_reducible apply kept_ite)

theorem State.endTx_kept {z : State} (s : State) (p : Nat) (d : Option Nat) (hz : Kept z s) : Kept z (State.endTx s p d) := by
  unfold State.endTx
  repeat' (first
    | with_reducible assumption
    | intro _
    | with_reducible apply State.setEgress_kept
    | with_reducible apply kept_foldl
    | with_reducible apply kept_foldl_fst
    | with_reducible apply kept_foldr
    | with_reducible apply kept_ite
    | with_reducible apply kept_ite_fst
    | with_reducible apply kept_ite_snd
    | with_reducible apply kept_ite_third
    | fail_if_no_progress (with_reducible refine Kept.update ?_ rfl rfl rfl rfl rfl)
    | split)

theorem State.setLen_kept {z : State} (s : State) (d : Nat) (hz : Kept z s) : Kept z (State.setLen s d) := by
  unfold State.setLen
  repeat' (first
    | with_reducible assumption
    | intro _
    | with_reducible apply State.setItem_kept)

theorem State.rxGood_kept {z : State} (s : State) (n : Nat) (r : RxFrame) (src : AsrSrc) (hz : Kept z s) : Kept z (State.rxGood s n r src) := by
  unfold State.rxGood
  repeat' (first
    | with_reducible assumption
    | intro _
    | with_reducible apply State.endTx_kept
    | with_reducible apply State.setLen_kept
    | with_reducible apply State.hopReceive_kept
    | with_reducible apply State.deliverWhole_kept
    | with_reducible apply kept_foldl_snd
    | with_reducible apply kept_foldl
    | with_reducible apply kept_foldl_fst
    | with_reducible apply kept_foldr
    | with_reducible apply kept_ite
    | with_reducible apply kept_ite_fst
    | with_reducible apply kept_ite_snd
    | with_reducible apply kept_ite_third
    | fail_if_no_progress (with_reducible refine Kept.update ?_ rfl rfl rfl rfl rfl)
    | split)

theorem State.relayOn_kept {z : State} (s : State) (n : Nat) (f : Bytes) (hz : Kept z s) : Kept z (State.relayOn s n f) := by
  unfold State.relayOn
  repeat' (first
    | with_reducible assumption
    | intro _
    | with_reducible apply State.sendControl_kept
    | with_reducible apply kept_foldl
    | with_reducible apply kept_foldl_fst
    | with_reducible apply kept_foldr
    | with_reducible apply kept_ite
    | with_reducible apply kept_ite_fst
    | with_reducible apply kept_ite_snd
    | with_reducible apply kept_ite_third
    | fail_if_no_progress (with_reducible refine Kept.update ?_ rfl rfl rfl rfl rfl)
    | split)

theorem State.rxEnd_kept {z : State} (s : State) (n : Nat) (cwOk reasm : Bool) (hz : Kept z s) : Kept z (State.rxEnd s n cwOk reasm) := by
  unfold State.rxEnd
  repeat' (first
    | with_reducible assumption
    | intro _
    | with_reducible apply State.dropRx_kept
    | with_reducible apply State.portCount_kept
    | with_reducible apply State.fpCount_kept
    | with_reducible apply State.qualify_kept
    | with_reducible apply State.setRx_kept
    | with_reducible apply State.relayOn_kept
    | with_reducible apply State.ctlDeliver_kept
    | with_reducible apply State.refuse_kept
    | with_reducible apply State.refusedBy_kept
    | with_reducible apply State.hopSkip_kept
    | with_reducible apply State.rxGood_kept
    | with_reducible apply kept_foldl
    | with_reducible apply kept_foldl_fst
    | with_reducible apply kept_foldr
    | with_reducible apply kept_ite
    | with_reducible apply kept_ite_fst
    | with_reducible apply kept_ite_snd
    | with_reducible apply kept_ite_third
    | fail_if_no_progress (with_reducible refine Kept.update ?_ rfl rfl rfl rfl rfl)
    | split
    | extract_lets)

theorem execFrameEndReceived_answers (t : Nat) (port : PortRef) (codewordsOk reassembled : Bool) (s : State) : Answers (s.clock t) (execFrameEndReceived t port codewordsOk reassembled s) := by
  unfold execFrameEndReceived
  repeat' (first
    | with_reducible exact Kept.refl _
    | intro _
    | with_reducible apply answers_next
    | with_reducible apply State.rxEnd_kept)

theorem State.inject_kept {z : State} (s : State) (f : Bytes) (src : AsrSrc) (own : Cls) (hz : Kept z s) : Kept z (State.inject s f src own) := by
  unfold State.inject
  repeat' (first
    | with_reducible assumption
    | intro _
    | with_reducible apply State.acceptedBy_kept
    | with_reducible apply State.refusedBy_kept
    | with_reducible apply State.ingress_kept
    | with_reducible apply State.own_kept
    | with_reducible apply State.dropRx_kept
    | with_reducible apply State.setRx_kept
    | with_reducible apply State.refuse_kept
    | with_reducible apply State.rxGood_kept
    | with_reducible apply kept_foldl
    | with_reducible apply kept_foldl_fst
    | with_reducible apply kept_foldr
    | with_reducible apply kept_ite
    | with_reducible apply kept_ite_fst
    | with_reducible apply kept_ite_snd
    | with_reducible apply kept_ite_third
    | fail_if_no_progress (with_reducible refine Kept.update ?_ rfl rfl rfl rfl rfl)
    | split
    | extract_lets)

/-! Machine/Sentence.lean -/

theorem State.setFramer_kept {z : State} (s : State) (n : Nat) (f : Framer) (hz : Kept z s) : Kept z (State.setFramer s n f) := by
  unfold State.setFramer
  repeat' (first
    | with_reducible assumption
    | intro _
    | with_reducible apply kept_foldl
    | with_reducible apply kept_foldl_fst
    | with_reducible apply kept_foldr
    | with_reducible apply kept_ite
    | with_reducible apply kept_ite_fst
    | with_reducible apply kept_ite_snd
    | with_reducible apply kept_ite_third
    | fail_if_no_progress (with_reducible refine Kept.update ?_ rfl rfl rfl rfl rfl))

theorem State.senCount_kept {z : State} (s : State) (n c : Nat) (hz : Kept z s) : Kept z (State.senCount s n c) := by
  unfold State.senCount
  repeat' (first
    | with_reducible assumption
    | intro _
    | with_reducible apply State.bump_kept)

theorem State.ckErr_kept {z : State} (s : State) (n : Nat) (hz : Kept z s) : Kept z (State.ckErr s n) := by
  unfold State.ckErr
  repeat' (first
    | with_reducible assumption
    | intro _
    | with_reducible apply State.raise_kept
    | with_reducible apply State.senCount_kept)

theorem State.frameErr_kept {z : State} (s : State) (n : Nat) (hz : Kept z s) : Kept z (State.frameErr s n) := by
  unfold State.frameErr
  repeat' (first
    | with_reducible assumption
    | intro _
    | with_reducible apply State.raise_kept
    | with_reducible apply State.senCount_kept)

theorem State.complete_kept {z : State} (s : State) (x : Sentence) (hz : Kept z s) : Kept z (State.complete s x) := by
  unfold State.complete
  repeat' (first
    | with_reducible assumption
    | intro _
    | with_reducible apply State.bump_kept
    | with_reducible apply State.raise_kept
    | with_reducible apply State.refuseTalker_kept
    | with_reducible apply State.senCount_kept
    | with_reducible apply kept_foldl
    | with_reducible apply kept_foldl_fst
    | with_reducible apply kept_foldr
    | with_reducible apply kept_ite
    | with_reducible apply kept_ite_fst
    | with_reducible apply kept_ite_snd
    | with_reducible apply kept_ite_third
    | fail_if_no_progress (with_reducible refine Kept.update ?_ rfl rfl rfl rfl rfl))

theorem State.framed_kept {z : State} (s : State) (n a : Nat) (x : Framed) (hz : Kept z s) : Kept z (State.framed s n a x) := by
  unfold State.framed
  repeat' (first
    | with_reducible assumption
    | intro _
    | with_reducible apply State.ckErr_kept
    | with_reducible apply State.frameErr_kept
    | with_reducible apply State.complete_kept
    | with_reducible apply kept_foldl
    | with_reducible apply kept_foldl_fst
    | with_reducible apply kept_foldr
    | with_reducible apply kept_ite
    | with_reducible apply kept_ite_fst
    | with_reducible apply kept_ite_snd
    | with_reducible apply kept_ite_third
    | fail_if_no_progress (with_reducible refine Kept.update ?_ rfl rfl rfl rfl rfl)
    | split)

theorem State.talkerByte_kept {z : State} (s : State) (ch start : Nat) (e : UaEntry) (hz : Kept z s) : Kept z (State.talkerByte s ch start e) := by
  unfold State.talkerByte
  repeat' (first
    | with_reducible assumption
    | intro _
    | with_reducible apply State.framed_kept
    | with_reducible apply State.setFramer_kept
    | with_reducible apply kept_foldl_snd
    | with_reducible apply kept_foldl
    | with_reducible apply kept_foldl_fst
    | with_reducible apply kept_foldr
    | with_reducible apply kept_ite
    | with_reducible apply kept_ite_fst
    | with_reducible apply kept_ite_snd
    | with_reducible apply kept_ite_third
    | fail_if_no_progress (with_reducible refine Kept.update ?_ rfl rfl rfl rfl rfl)
    | split)

theorem execUartCharacterReceived_answers (t : Nat) (channel : Fin 32) (start idle : Nat) (samples : List (BitVec 3)) (s : State) : Answers (s.clock t) (execUartCharacterReceived t channel start idle samples s) := by
  unfold execUartCharacterReceived
  repeat' (first
    | with_reducible exact Kept.refl _
    | intro _
    | with_reducible apply answers_next
    | with_reducible apply State.talkerByte_kept
    | with_reducible apply State.clock_kept
    | with_reducible apply State.uaNote_kept
    | with_reducible apply State.setUa_kept
    | with_reducible apply State.uaStore_kept
    | with_reducible apply answers_ite
    | with_reducible assumption
    | intro _
    | with_reducible apply kept_foldl
    | with_reducible apply kept_foldl_fst
    | with_reducible apply kept_foldr
    | with_reducible apply kept_ite)

theorem execSentenceTimeout_answers (t : Nat) (talker : Fin 512) (s : State) : Answers (s.clock t) (execSentenceTimeout t talker s) := by
  unfold execSentenceTimeout
  repeat' (first
    | with_reducible exact Kept.refl _
    | intro _
    | with_reducible apply answers_next
    | with_reducible apply State.frameErr_kept
    | with_reducible apply State.clock_kept
    | with_reducible apply State.setFramer_kept
    | with_reducible apply answers_ite)

theorem State.datagram_kept {z : State} (s : State) (n : Nat) (i : Item) (o : Nat) (payload : Bytes) (hz : Kept z s) : Kept z (State.datagram s n i o payload) := by
  unfold State.datagram
  repeat' (first
    | with_reducible assumption
    | intro _
    | with_reducible apply State.frameErr_kept
    | with_reducible apply State.framed_kept
    | with_reducible apply kept_foldl_snd
    | with_reducible apply kept_foldl
    | with_reducible apply kept_foldl_fst
    | with_reducible apply kept_foldr
    | with_reducible apply kept_ite)

theorem execUdpSentenceFrame_answers (rd : At Ecc) (s : State) :
    Answers (s.clock rd.t) (execUdpSentenceFrame rd s) := by
  have h : Kept (s.clock rd.t) ((s.clock rd.t).takeHead 4096 rd.found).1 := State.takeHead_kept _ _ _ (Kept.refl _)
  unfold execUdpSentenceFrame
  dsimp only
  split
  · exact answers_next (Kept.refl _)
  · split
    · exact answers_next (State.raise_kept _ _ _ _ _ _ (State.bump_kept _ _ _ (State.releaseCopy_kept _ _ h)))
    · split
      · exact answers_next (State.datagram_kept _ _ _ _ _ (State.releaseCopy_kept _ _ h))
      · exact answers_next (State.frameErr_kept _ _ (State.releaseCopy_kept _ _ h))

theorem State.decimate_kept {z : State} (s : State) (fi decim : Nat) (hz : Kept z s) : Kept z (State.decimate s fi decim).2 := by
  unfold State.decimate
  repeat' (first
    | with_reducible assumption
    | intro _
    | with_reducible apply kept_foldl_snd
    | with_reducible apply kept_foldl
    | with_reducible apply kept_foldl_fst
    | with_reducible apply kept_foldr
    | with_reducible apply kept_ite
    | with_reducible apply kept_ite_fst
    | with_reducible apply kept_ite_snd
    | with_reducible apply kept_ite_third
    | fail_if_no_progress (with_reducible refine Kept.update ?_ rfl rfl rfl rfl rfl))

theorem State.takeToken_kept {z : State} (s : State) (n a : Nat) (hz : Kept z s) : Kept z (s.takeToken n a).2 := by
  unfold State.takeToken
  try extract_lets
  split
  · exact hz
  · exact Kept.update hz rfl rfl rfl rfl rfl

theorem State.selector_kept {z : State} (s : State) (x : Sentence) (g : Grammar) (i row : Nat) (hz : Kept z s) : Kept z (State.selector s x g i row) := by
  unfold State.selector
  repeat' (first
    | with_reducible assumption
    | intro _
    | with_reducible apply State.taskEvent_kept
    | with_reducible apply State.raise_kept
    | with_reducible apply State.fieldUpdate_kept
    | with_reducible apply kept_foldl
    | with_reducible apply kept_foldl_fst
    | with_reducible apply kept_foldr
    | with_reducible apply kept_ite)

theorem State.selectors_kept {z : State} (s : State) (x : Sentence) (g : Grammar) (fi : Nat) (hz : Kept z s) : Kept z (State.selectors s x g fi) := by
  unfold State.selectors
  repeat' (first
    | with_reducible assumption
    | intro _
    | with_reducible apply State.selector_kept
    | with_reducible apply kept_foldl_snd
    | with_reducible apply kept_foldl
    | with_reducible apply kept_foldl_fst
    | with_reducible apply kept_foldr
    | with_reducible apply kept_ite)

theorem State.replaceEntry_kept {z : State} (s : State) (q old d : Nat) (hz : Kept z s) : Kept z (State.replaceEntry s q old d) := by
  unfold State.replaceEntry
  repeat' (first
    | with_reducible assumption
    | intro _
    | with_reducible apply State.releaseCopy_kept
    | with_reducible apply State.setItem_kept
    | with_reducible apply State.setEntries_kept)

theorem State.insertCopy_kept {z : State} (s : State) (x : Sentence) (fi d : Nat) (lq : Nat × Nat) (hz : Kept z s) : Kept z (State.insertCopy s x fi d lq) := by
  unfold State.insertCopy
  repeat' (first
    | with_reducible assumption
    | intro _
    | with_reducible apply State.bump_kept
    | with_reducible apply State.enqueue_kept
    | with_reducible apply State.replaceEntry_kept
    | with_reducible apply State.senCount_kept
    | with_reducible apply kept_foldl
    | with_reducible apply kept_foldl_fst
    | with_reducible apply kept_foldr
    | with_reducible apply kept_ite
    | with_reducible apply kept_ite_fst
    | with_reducible apply kept_ite_snd
    | with_reducible apply kept_ite_third
    | fail_if_no_progress (with_reducible refine Kept.update ?_ rfl rfl rfl rfl rfl)
    | split
    | extract_lets)

theorem State.route_kept {z : State} (s : State) (x : Sentence) (fi route : Nat) (hz : Kept z s) : Kept z (State.route s x fi route) := by
  unfold State.route
  repeat' (first
    | with_reducible assumption
    | intro _
    | with_reducible apply State.bump_kept
    | with_reducible apply State.storeItem_kept
    | with_reducible apply State.refuseTalker_kept
    | with_reducible apply State.senCount_kept
    | with_reducible apply State.offer_kept
    | with_reducible apply State.insertCopy_kept
    | with_reducible apply State.setItem_kept
    | with_reducible apply kept_foldl_snd
    | with_reducible apply kept_foldl
    | with_reducible apply kept_foldl_fst
    | with_reducible apply kept_foldr
    | with_reducible apply kept_ite
    | with_reducible apply kept_ite_fst
    | with_reducible apply kept_ite_snd
    | with_reducible apply kept_ite_third
    | fail_if_no_progress (with_reducible refine Kept.update ?_ rfl rfl rfl rfl rfl)
    | split
    | extract_lets)

theorem State.process_kept {z : State} (s : State) (x : Sentence) (hz : Kept z s) : Kept z (State.process s x) := by
  unfold State.process
  repeat' (first
    | with_reducible assumption
    | intro _
    | with_reducible apply State.wr64_kept
    | with_reducible apply State.route_kept
    | with_reducible apply State.raise_kept
    | with_reducible apply State.ckErr_kept
    | with_reducible apply State.senCount_kept
    | with_reducible apply State.decimate_kept
    | with_reducible apply State.takeToken_kept
    | with_reducible apply State.selectors_kept
    | with_reducible apply State.refuseTalker_kept
    | with_reducible apply kept_foldl
    | with_reducible apply kept_foldl_fst
    | with_reducible apply kept_foldr
    | with_reducible apply kept_ite
    | with_reducible apply kept_ite_fst
    | with_reducible apply kept_ite_snd
    | with_reducible apply kept_ite_third
    | fail_if_no_progress (with_reducible refine Kept.update ?_ rfl rfl rfl rfl rfl)
    | split)

theorem execSentenceProcess_answers (t : Nat) (s : State) : Answers (s.clock t) (execSentenceProcess t s) := by
  unfold execSentenceProcess
  repeat' (first
    | with_reducible exact Kept.refl _
    | intro _
    | with_reducible apply answers_next
    | with_reducible apply State.process_kept
    | with_reducible apply State.clock_kept
    | with_reducible apply answers_ite
    | with_reducible assumption
    | intro _
    | with_reducible apply kept_foldl
    | with_reducible apply kept_foldl_fst
    | with_reducible apply kept_foldr
    | with_reducible apply kept_ite
    | with_reducible apply kept_ite_fst
    | with_reducible apply kept_ite_snd
    | with_reducible apply kept_ite_third
    | fail_if_no_progress (with_reducible refine Kept.update ?_ rfl rfl rfl rfl rfl)
    | split
    | extract_lets)

theorem State.listenerCount_kept {z : State} (s : State) (l : Nat) (i : Item) (hz : Kept z s) : Kept z (State.listenerCount s l i).2 := by
  unfold State.listenerCount
  repeat' (first
    | with_reducible assumption
    | intro _
    | with_reducible apply kept_foldl_snd
    | with_reducible apply kept_foldl
    | with_reducible apply kept_foldl_fst
    | with_reducible apply kept_foldr
    | with_reducible apply kept_ite
    | with_reducible apply kept_ite_fst
    | with_reducible apply kept_ite_snd
    | with_reducible apply kept_ite_third
    | fail_if_no_progress (with_reducible refine Kept.update ?_ rfl rfl rfl rfl rfl))

theorem State.writeTag_kept {z : State} (s : State) (k : LsnCopy) (i : Item) (hz : Kept z s) : Kept z (State.writeTag s k i).2 := by
  unfold State.writeTag
  repeat' (first
    | with_reducible assumption
    | intro _
    | with_reducible apply State.listenerCount_kept
    | with_reducible apply kept_foldl_snd
    | with_reducible apply kept_foldl
    | with_reducible apply kept_foldl_fst
    | with_reducible apply kept_foldr
    | with_reducible apply kept_ite
    | with_reducible apply kept_ite_fst
    | with_reducible apply kept_ite_snd)

theorem State.listenerBytes_kept {z : State} (s : State) (k : LsnCopy) (i : Item) (hz : Kept z s) : Kept z (State.listenerBytes s k i).2 := by
  unfold State.listenerBytes
  repeat' (first
    | with_reducible assumption
    | intro _
    | with_reducible apply State.writeTag_kept
    | with_reducible apply kept_foldl_snd
    | with_reducible apply kept_foldl
    | with_reducible apply kept_foldl_fst
    | with_reducible apply kept_foldr
    | with_reducible apply kept_ite
    | with_reducible apply kept_ite_fst
    | with_reducible apply kept_ite_snd
    | with_reducible apply kept_ite_third
    | fail_if_no_progress (with_reducible refine Kept.update ?_ rfl rfl rfl rfl rfl)
    | split)

theorem State.listenerHead_kept {z : State} (s : State) (l : Nat) (ecc : Ecc) (hz : Kept z s) : Kept z (State.listenerHead s l ecc).1 := by
  unfold State.listenerHead
  repeat' (first
    | with_reducible assumption
    | intro _
    | with_reducible apply State.readItem_kept
    | with_reducible apply State.releaseCopy_kept
    | with_reducible apply State.own_kept
    | with_reducible apply State.removeEntry_kept
    | with_reducible apply State.fetchOrLose_kept
    | with_reducible apply State.bump_kept
    | with_reducible apply kept_foldl
    | with_reducible apply kept_foldl_fst
    | with_reducible apply kept_foldr
    | with_reducible apply kept_ite
    | with_reducible apply kept_ite_fst
    | with_reducible apply kept_ite_snd
    | with_reducible apply kept_ite_third
    | fail_if_no_progress (with_reducible refine Kept.update ?_ rfl rfl rfl rfl rfl)
    | split
    | extract_lets)

theorem execUartListenerSend_answers (rd : At Ecc) (listener : Fin 1023) (s : State) : Answers (s.clock rd.t) (execUartListenerSend rd listener s) := by
  unfold execUartListenerSend
  repeat' (first
    | with_reducible exact Kept.refl _
    | intro _
    | with_reducible apply answers_next
    | with_reducible apply State.uaPump_kept
    | with_reducible apply State.clock_kept
    | with_reducible apply State.listenerHead_kept
    | with_reducible apply State.listenerBytes_kept
    | with_reducible apply State.acceptedBy_kept
    | with_reducible apply State.setUa_kept
    | with_reducible apply answers_ite
    | with_reducible assumption
    | intro _
    | with_reducible apply kept_foldl
    | with_reducible apply kept_foldl_fst
    | with_reducible apply kept_foldr
    | with_reducible apply kept_ite
    | with_reducible apply kept_ite_fst
    | with_reducible apply kept_ite_snd
    | with_reducible apply kept_ite_third
    | fail_if_no_progress (with_reducible refine Kept.update ?_ rfl rfl rfl rfl rfl)
    | split
    | extract_lets)

theorem execUdpListenerSend_answers (rd : At Ecc) (listener : Fin 1023) (s : State) : Answers (s.clock rd.t) (execUdpListenerSend rd listener s) := by
  unfold execUdpListenerSend
  repeat' (first
    | with_reducible exact Kept.refl _
    | intro _
    | with_reducible apply answers_next
    | with_reducible apply State.inject_kept
    | with_reducible apply State.clock_kept
    | with_reducible apply State.listenerHead_kept
    | with_reducible apply State.listenerBytes_kept
    | with_reducible apply State.startEntry_kept
    | with_reducible apply answers_ite
    | with_reducible assumption
    | intro _
    | with_reducible apply kept_foldl
    | with_reducible apply kept_foldl_fst
    | with_reducible apply kept_foldr
    | with_reducible apply kept_ite
    | with_reducible apply kept_ite_fst
    | with_reducible apply kept_ite_snd
    | with_reducible apply kept_ite_third
    | fail_if_no_progress (with_reducible refine Kept.update ?_ rfl rfl rfl rfl rfl)
    | split
    | extract_lets)

theorem State.outputSlot_kept {z : State} (s : State) (k : Nat) (hz : Kept z s) : Kept z (State.outputSlot s k) := by
  unfold State.outputSlot
  repeat' (first
    | with_reducible assumption
    | intro _
    | with_reducible apply State.raise_kept
    | with_reducible apply State.frameErr_kept
    | with_reducible apply State.complete_kept
    | with_reducible apply kept_foldl
    | with_reducible apply kept_foldl_fst
    | with_reducible apply kept_foldr
    | with_reducible apply kept_ite)

theorem State.outputSentences_kept {z : State} (s : State) (hz : Kept z s) : Kept z (State.outputSentences s) := by
  unfold State.outputSentences
  repeat' (first
    | with_reducible assumption
    | intro _
    | with_reducible apply State.outputSlot_kept
    | with_reducible apply kept_foldl_snd
    | with_reducible apply kept_foldl)

theorem State.senCommit_kept {z : State} (s : State) (value : BitVec 32) (hz : Kept z s) : Kept z (State.senCommit s value) := by
  unfold State.senCommit
  repeat' (first
    | with_reducible assumption
    | intro _
    | with_reducible apply State.wr_kept
    | with_reducible apply kept_foldl
    | with_reducible apply kept_foldl_fst
    | with_reducible apply kept_foldr
    | with_reducible apply kept_ite
    | with_reducible apply kept_ite_fst
    | with_reducible apply kept_ite_snd
    | with_reducible apply kept_ite_third
    | fail_if_no_progress (with_reducible refine Kept.update ?_ rfl rfl rfl rfl rfl))

theorem execSenTblData7Write_answers (t : Nat) (party : Party) (value : BitVec 32) (s : State) : Answers (s.clock t) (execSenTblData7Write t party value s) := by
  unfold execSenTblData7Write
  repeat' (first
    | with_reducible exact Kept.refl _
    | intro _
    | with_reducible apply answers_next
    | with_reducible apply State.hostWrite_kept
    | with_reducible apply State.senCommit_kept)

theorem State.senReset_kept {z : State} (s : State) (hz : Kept z s) : Kept z (State.senReset s) := by
  unfold State.senReset
  repeat' (first
    | with_reducible assumption
    | intro _
    | with_reducible apply State.bump_kept
    | with_reducible apply State.refuseTalker_kept
    | with_reducible apply kept_foldl_snd
    | with_reducible apply kept_foldl
    | with_reducible apply kept_foldl_fst
    | with_reducible apply kept_foldr
    | with_reducible apply kept_ite
    | with_reducible apply kept_ite_fst
    | with_reducible apply kept_ite_snd
    | with_reducible apply kept_ite_third
    | fail_if_no_progress (with_reducible refine Kept.update ?_ rfl rfl rfl rfl rfl))

/-! Machine/Bridge.lean -/

theorem State.setBus_kept {z : State} (s : State) (b : Nat) (x : SideBus) (hz : Kept z s) : Kept z (State.setBus s b x) := by
  unfold State.setBus
  repeat' (first
    | with_reducible assumption
    | intro _
    | with_reducible apply State.wr_kept
    | with_reducible apply kept_foldl
    | with_reducible apply kept_foldl_fst
    | with_reducible apply kept_foldr
    | with_reducible apply kept_ite
    | with_reducible apply kept_ite_fst
    | with_reducible apply kept_ite_snd
    | with_reducible apply kept_ite_third
    | fail_if_no_progress (with_reducible refine Kept.update ?_ rfl rfl rfl rfl rfl))

theorem State.setSema_kept {z : State} (s : State) (k : Nat) (x : Sema) (hz : Kept z s) : Kept z (State.setSema s k x) := by
  unfold State.setSema
  repeat' (first
    | with_reducible assumption
    | intro _
    | with_reducible apply State.wr_kept
    | with_reducible apply kept_foldl
    | with_reducible apply kept_foldl_fst
    | with_reducible apply kept_foldr
    | with_reducible apply kept_ite
    | with_reducible apply kept_ite_fst
    | with_reducible apply kept_ite_snd
    | with_reducible apply kept_ite_third
    | fail_if_no_progress (with_reducible refine Kept.update ?_ rfl rfl rfl rfl rfl))

theorem State.busCount_kept {z : State} (s : State) (b c : Nat) (hz : Kept z s) : Kept z (State.busCount s b c) := by
  unfold State.busCount
  repeat' (first
    | with_reducible assumption
    | intro _
    | with_reducible apply State.bump_kept
    | with_reducible apply kept_foldl
    | with_reducible apply kept_foldl_fst
    | with_reducible apply kept_foldr
    | with_reducible apply kept_ite)

theorem State.setTxns_kept {z : State} (s : State) (ts : List Txn) (hz : Kept z s) : Kept z (State.setTxns s ts) := by
  unfold State.setTxns
  repeat' (first
    | with_reducible assumption
    | intro _
    | with_reducible apply State.set0_kept
    | with_reducible apply kept_foldl
    | with_reducible apply kept_foldl_fst
    | with_reducible apply kept_foldr
    | with_reducible apply kept_ite
    | with_reducible apply kept_ite_fst
    | with_reducible apply kept_ite_snd
    | with_reducible apply kept_ite_third
    | fail_if_no_progress (with_reducible refine Kept.update ?_ rfl rfl rfl rfl rfl))

theorem State.leaseRevoked_kept {z : State} (s : State) (hz : Kept z s) : Kept z (State.leaseRevoked s) := by
  unfold State.leaseRevoked
  repeat' (first
    | with_reducible assumption
    | intro _
    | with_reducible apply State.raise_kept
    | with_reducible apply State.bump_kept)

theorem State.putItem_kept {z : State} (s : State) (q flow : Nat) (bytes : Bytes) (hz : Kept z s) : Kept z (State.putItem s q flow bytes).2 := by
  unfold State.putItem
  repeat' (first
    | with_reducible assumption
    | intro _
    | with_reducible apply State.bump_kept
    | with_reducible apply State.queueOverrun_kept
    | with_reducible apply State.raise_kept
    | with_reducible apply State.storeItem_kept
    | with_reducible apply State.enqueueAll_kept
    | with_reducible apply kept_foldl_snd
    | with_reducible apply kept_foldl
    | with_reducible apply kept_foldl_fst
    | with_reducible apply kept_foldr
    | with_reducible apply kept_ite
    | with_reducible apply kept_ite_fst
    | with_reducible apply kept_ite_snd
    | with_reducible apply kept_ite_third
    | fail_if_no_progress (with_reducible refine Kept.update ?_ rfl rfl rfl rfl rfl)
    | split
    | extract_lets)

theorem State.clusterTakes_kept {z : State} (s : State) (q k : Nat) (hz : Kept z s) : Kept z (State.clusterTakes s q k) := by
  unfold State.clusterTakes
  repeat' (first
    | with_reducible assumption
    | intro _
    | with_reducible apply State.releaseCopy_kept
    | with_reducible apply State.removeEntry_kept
    | with_reducible apply kept_foldl
    | with_reducible apply kept_foldl_fst
    | with_reducible apply kept_foldr
    | with_reducible apply kept_ite
    | with_reducible apply kept_ite_fst
    | with_reducible apply kept_ite_snd
    | with_reducible apply kept_ite_third
    | fail_if_no_progress (with_reducible refine Kept.update ?_ rfl rfl rfl rfl rfl)
    | split)

theorem State.reply_kept {z : State} (s : State) (x : Txn) (q status : Nat) (rdata : Bytes) (hz : Kept z s) : Kept z (State.reply s x q status rdata) := by
  unfold State.reply
  repeat' (first
    | with_reducible assumption
    | intro _
    | with_reducible apply State.raise_kept
    | with_reducible apply State.inject_kept
    | with_reducible apply State.putItem_kept
    | with_reducible apply State.clusterTakes_kept
    | with_reducible apply State.bump_kept
    | with_reducible apply kept_foldl
    | with_reducible apply kept_foldl_fst
    | with_reducible apply kept_foldr
    | with_reducible apply kept_ite)

theorem State.pollDone_kept {z : State} (s : State) (x : Txn) (rdata : Bytes) (hz : Kept z s) : Kept z (State.pollDone s x rdata) := by
  unfold State.pollDone
  repeat' (first
    | with_reducible assumption
    | intro _
    | with_reducible apply State.raise_kept
    | with_reducible apply State.putItem_kept
    | with_reducible apply kept_foldl
    | with_reducible apply kept_foldl_fst
    | with_reducible apply kept_foldr
    | with_reducible apply kept_ite
    | with_reducible apply kept_ite_fst
    | with_reducible apply kept_ite_snd
    | with_reducible apply kept_ite_third
    | fail_if_no_progress (with_reducible refine Kept.update ?_ rfl rfl rfl rfl rfl)
    | split
    | extract_lets)

theorem State.pollFailed_kept {z : State} (s : State) (b status : Nat) (hz : Kept z s) : Kept z (State.pollFailed s b status) := by
  unfold State.pollFailed
  repeat' (first
    | with_reducible assumption
    | intro _
    | with_reducible apply State.busCount_kept
    | with_reducible apply kept_foldl
    | with_reducible apply kept_foldl_fst
    | with_reducible apply kept_foldr
    | with_reducible apply kept_ite)

theorem State.finish_kept {z : State} (s : State) (x : Txn) (status : Nat) (rdata : Bytes) (hz : Kept z s) : Kept z (State.finish s x status rdata) := by
  unfold State.finish
  repeat' (first
    | with_reducible assumption
    | intro _
    | with_reducible apply State.setTxns_kept
    | with_reducible apply State.reply_kept
    | with_reducible apply State.pollDone_kept
    | with_reducible apply State.pollFailed_kept
    | with_reducible apply State.req_kept
    | with_reducible apply kept_foldl
    | with_reducible apply kept_foldl_fst
    | with_reducible apply kept_foldr
    | with_reducible apply kept_ite
    | with_reducible apply kept_ite_fst
    | with_reducible apply kept_ite_snd
    | with_reducible apply kept_ite_third
    | fail_if_no_progress (with_reducible refine Kept.update ?_ rfl rfl rfl rfl rfl)
    | split)

theorem execBridgeRequestTake_answers (rd : At Ecc) (s : State) : Answers (s.clock rd.t) (execBridgeRequestTake rd s) := by
  unfold execBridgeRequestTake
  repeat' (first
    | with_reducible exact Kept.refl _
    | intro _
    | with_reducible apply answers_next
    | with_reducible apply State.finish_kept
    | with_reducible apply State.clock_kept
    | with_reducible apply State.raise_kept
    | with_reducible apply State.takeHead_kept
    | with_reducible apply State.req_kept
    | with_reducible apply State.releaseCopy_kept
    | with_reducible apply State.setTxns_kept
    | with_reducible apply answers_ite
    | with_reducible assumption
    | intro _
    | with_reducible apply kept_foldl
    | with_reducible apply kept_foldl_fst
    | with_reducible apply kept_foldr
    | with_reducible apply kept_ite
    | with_reducible apply kept_ite_fst
    | with_reducible apply kept_ite_snd
    | with_reducible apply kept_ite_third
    | fail_if_no_progress (with_reducible refine Kept.update ?_ rfl rfl rfl rfl rfl)
    | split
    | extract_lets)

theorem State.transferOut_kept {z : State} (s : State) (b : Nat) (x : Txn) (hz : Kept z s) : Kept z (State.transferOut s b x) := by
  unfold State.transferOut
  repeat' (first
    | with_reducible assumption
    | intro _
    | with_reducible apply State.transfer_kept
    | with_reducible apply State.req_kept
    | with_reducible apply State.emit_kept)

theorem State.busStart_kept {z : State} (s : State) (b op : Nat) (hz : Kept z s) : Kept z (State.busStart s b op) := by
  unfold State.busStart
  repeat' (first
    | with_reducible assumption
    | intro _
    | with_reducible apply State.transferOut_kept
    | with_reducible apply State.req_kept
    | with_reducible apply State.emit_kept
    | with_reducible apply State.setBus_kept
    | with_reducible apply kept_foldl
    | with_reducible apply kept_foldl_fst
    | with_reducible apply kept_foldr
    | with_reducible apply kept_ite
    | with_reducible apply kept_ite_fst
    | with_reducible apply kept_ite_snd
    | with_reducible apply kept_ite_third
    | fail_if_no_progress (with_reducible refine Kept.update ?_ rfl rfl rfl rfl rfl)
    | split)

theorem execBridgeRead_answers (t : Nat) (bus : Fin 12) (s : State) : Answers (s.clock t) (execBridgeRead t bus s) := by
  unfold execBridgeRead
  repeat' (first
    | with_reducible exact Kept.refl _
    | intro _
    | with_reducible apply answers_next
    | with_reducible apply State.busStart_kept)

theorem execBridgeWrite_answers (t : Nat) (bus : Fin 12) (s : State) : Answers (s.clock t) (execBridgeWrite t bus s) := by
  unfold execBridgeWrite
  repeat' (first
    | with_reducible exact Kept.refl _
    | intro _
    | with_reducible apply answers_next
    | with_reducible apply State.busStart_kept)

theorem execWriteRead_answers (t : Nat) (bus : Fin 12) (s : State) : Answers (s.clock t) (execWriteRead t bus s) := by
  unfold execWriteRead
  repeat' (first
    | with_reducible exact Kept.refl _
    | intro _
    | with_reducible apply answers_next
    | with_reducible apply State.busStart_kept)

theorem State.busEnd_kept {z : State} (s : State) (b status : Nat) (rdata : Bytes) (stop : Bool) (hz : Kept z s) : Kept z (State.busEnd s b status rdata stop) := by
  unfold State.busEnd
  repeat' (first
    | with_reducible assumption
    | intro _
    | with_reducible apply State.own_kept
    | with_reducible apply State.setBus_kept
    | with_reducible apply State.req_kept
    | with_reducible apply State.emit_kept
    | with_reducible apply State.finish_kept
    | with_reducible apply kept_foldl
    | with_reducible apply kept_foldl_fst
    | with_reducible apply kept_foldr
    | with_reducible apply kept_ite
    | with_reducible apply kept_ite_fst
    | with_reducible apply kept_ite_snd
    | with_reducible apply kept_ite_third
    | fail_if_no_progress (with_reducible refine Kept.update ?_ rfl rfl rfl rfl rfl)
    | split
    | extract_lets)

theorem execBridgeTransactionDone_answers (t : Nat) (bus : Fin 12) (result : BusEnd) (s : State) : Answers (s.clock t) (execBridgeTransactionDone t bus result s) := by
  unfold execBridgeTransactionDone
  repeat' (first
    | with_reducible exact Kept.refl _
    | intro _
    | with_reducible apply answers_next
    | with_reducible apply State.busEnd_kept
    | with_reducible apply State.transferOut_kept
    | with_reducible apply State.clock_kept
    | with_reducible apply State.req_kept
    | with_reducible apply State.busCount_kept
    | with_reducible apply State.setBus_kept
    | with_reducible apply answers_ite
    | with_reducible assumption
    | intro _
    | with_reducible apply kept_foldl
    | with_reducible apply kept_foldl_fst
    | with_reducible apply kept_foldr
    | with_reducible apply kept_ite
    | with_reducible apply kept_ite_fst
    | with_reducible apply kept_ite_snd
    | with_reducible apply kept_ite_third
    | fail_if_no_progress (with_reducible refine Kept.update ?_ rfl rfl rfl rfl rfl)
    | split
    | extract_lets)

theorem execBridgeTimeout_answers (t : Nat) (bus : Fin 12) (s : State) : Answers (s.clock t) (execBridgeTimeout t bus s) := by
  unfold execBridgeTimeout
  repeat' (first
    | with_reducible exact Kept.refl _
    | intro _
    | with_reducible apply answers_next
    | with_reducible apply State.busEnd_kept
    | with_reducible apply State.clock_kept
    | with_reducible apply State.busCount_kept
    | with_reducible apply answers_ite
    | with_reducible assumption
    | intro _
    | with_reducible apply kept_foldl
    | with_reducible apply kept_foldl_fst
    | with_reducible apply kept_foldr
    | with_reducible apply kept_ite)

theorem execStretchTimeout_answers (t : Nat) (bus : Fin 8) (held : Nat) (s : State) : Answers (s.clock t) (execStretchTimeout t bus held s) := by
  unfold execStretchTimeout
  repeat' (first
    | with_reducible exact Kept.refl _
    | intro _
    | with_reducible apply answers_next
    | with_reducible apply State.clock_kept
    | with_reducible apply State.busEnd_kept
    | with_reducible apply answers_ite)

theorem State.finishAll_kept {z : State} (s : State) (status : Nat) (p : Txn → Bool) (hz : Kept z s) : Kept z (State.finishAll s status p) := by
  unfold State.finishAll
  repeat' (first
    | with_reducible assumption
    | intro _
    | with_reducible apply State.finish_kept
    | with_reducible apply kept_foldl_snd
    | with_reducible apply kept_foldl)

theorem execLockWaitExpiry_answers (t : Nat) (bus : Fin 12) (s : State) : Answers (s.clock t) (execLockWaitExpiry t bus s) := by
  unfold execLockWaitExpiry
  repeat' (first
    | with_reducible exact Kept.refl _
    | intro _
    | with_reducible apply answers_next
    | with_reducible apply State.clock_kept
    | with_reducible apply State.finishAll_kept
    | with_reducible apply State.req_kept
    | with_reducible apply answers_ite)

theorem execBusStuck_answers (t : Nat) (bus : Fin 8) (sda : Bool) (since : Nat) (s : State) : Answers (s.clock t) (execBusStuck t bus sda since s) := by
  unfold execBusStuck
  repeat' (first
    | with_reducible exact Kept.refl _
    | intro _
    | with_reducible apply answers_next
    | with_reducible apply State.emit_kept
    | with_reducible apply State.recover_kept
    | with_reducible apply State.busCount_kept
    | with_reducible apply State.raise_kept
    | with_reducible apply State.clock_kept
    | with_reducible apply State.own_kept
    | with_reducible apply State.setBus_kept
    | with_reducible apply State.finishAll_kept
    | with_reducible apply State.req_kept
    | with_reducible apply answers_ite)

theorem execBusRecovered_answers (t : Nat) (bus : Fin 8) (s : State) : Answers (s.clock t) (execBusRecovered t bus s) := by
  unfold execBusRecovered
  repeat' (first
    | with_reducible exact Kept.refl _
    | intro _
    | with_reducible apply answers_next
    | with_reducible apply State.raise_kept
    | with_reducible apply State.clock_kept
    | with_reducible apply State.setBus_kept
    | with_reducible apply answers_ite)

theorem execBridgeLock_answers (t : Nat) (bus : Fin 12) (s : State) : Answers (s.clock t) (execBridgeLock t bus s) := by
  unfold execBridgeLock
  repeat' (first
    | with_reducible exact Kept.refl _
    | intro _
    | with_reducible apply answers_next
    | with_reducible apply State.finish_kept
    | with_reducible apply State.clock_kept
    | with_reducible apply State.req_kept
    | with_reducible apply State.setBus_kept
    | with_reducible apply answers_ite
    | with_reducible assumption
    | intro _
    | with_reducible apply kept_foldl
    | with_reducible apply kept_foldl_fst
    | with_reducible apply kept_foldr
    | with_reducible apply kept_ite
    | with_reducible apply kept_ite_fst
    | with_reducible apply kept_ite_snd
    | with_reducible apply kept_ite_third
    | fail_if_no_progress (with_reducible refine Kept.update ?_ rfl rfl rfl rfl rfl)
    | split
    | extract_lets)

theorem execBridgeUnlock_answers (t : Nat) (bus : Fin 12) (s : State) : Answers (s.clock t) (execBridgeUnlock t bus s) := by
  unfold execBridgeUnlock
  repeat' (first
    | with_reducible exact Kept.refl _
    | intro _
    | with_reducible apply answers_next
    | with_reducible apply State.emit_kept
    | with_reducible apply State.finish_kept
    | with_reducible apply State.clock_kept
    | with_reducible apply State.req_kept
    | with_reducible apply State.setBus_kept
    | with_reducible apply answers_ite
    | with_reducible assumption
    | intro _
    | with_reducible apply kept_foldl
    | with_reducible apply kept_foldl_fst
    | with_reducible apply kept_foldr
    | with_reducible apply kept_ite
    | with_reducible apply kept_ite_fst
    | with_reducible apply kept_ite_snd
    | with_reducible apply kept_ite_third
    | fail_if_no_progress (with_reducible refine Kept.update ?_ rfl rfl rfl rfl rfl)
    | split
    | extract_lets)

theorem State.revokeLock_kept {z : State} (s : State) (b : Nat) (hz : Kept z s) : Kept z (State.revokeLock s b) := by
  unfold State.revokeLock
  repeat' (first
    | with_reducible assumption
    | intro _
    | with_reducible apply State.emit_kept
    | with_reducible apply State.leaseRevoked_kept
    | with_reducible apply State.raise_kept
    | with_reducible apply State.setBus_kept
    | with_reducible apply State.finishAll_kept
    | with_reducible apply State.req_kept
    | with_reducible apply kept_foldl
    | with_reducible apply kept_foldl_fst
    | with_reducible apply kept_foldr
    | with_reducible apply kept_ite)

theorem State.grantNext_kept {z : State} (s : State) (k : Nat) (hz : Kept z s) : Kept z (State.grantNext s k) := by
  unfold State.grantNext
  repeat' (first
    | with_reducible assumption
    | intro _
    | with_reducible apply State.finish_kept
    | with_reducible apply State.setSema_kept
    | with_reducible apply kept_foldl
    | with_reducible apply kept_foldl_fst
    | with_reducible apply kept_foldr
    | with_reducible apply kept_ite
    | with_reducible apply kept_ite_fst
    | with_reducible apply kept_ite_snd
    | with_reducible apply kept_ite_third
    | fail_if_no_progress (with_reducible refine Kept.update ?_ rfl rfl rfl rfl rfl)
    | split
    | extract_lets)

theorem execSemAcq_answers (t : Nat) (s : State) : Answers (s.clock t) (execSemAcq t s) := by
  unfold execSemAcq
  repeat' (first
    | with_reducible exact Kept.refl _
    | intro _
    | with_reducible apply answers_next
    | with_reducible apply State.finish_kept
    | with_reducible apply State.setSema_kept
    | with_reducible apply State.clock_kept
    | with_reducible apply State.req_kept
    | with_reducible apply State.setTxns_kept
    | with_reducible apply answers_ite
    | with_reducible assumption
    | intro _
    | with_reducible apply kept_foldl
    | with_reducible apply kept_foldl_fst
    | with_reducible apply kept_foldr
    | with_reducible apply kept_ite
    | with_reducible apply kept_ite_fst
    | with_reducible apply kept_ite_snd
    | with_reducible apply kept_ite_third
    | fail_if_no_progress (with_reducible refine Kept.update ?_ rfl rfl rfl rfl rfl)
    | split
    | extract_lets)

theorem execSemRel_answers (t : Nat) (s : State) : Answers (s.clock t) (execSemRel t s) := by
  unfold execSemRel
  repeat' (first
    | with_reducible exact Kept.refl _
    | intro _
    | with_reducible apply answers_next
    | with_reducible apply State.grantNext_kept
    | with_reducible apply State.clock_kept
    | with_reducible apply State.req_kept
    | with_reducible apply State.finish_kept
    | with_reducible apply answers_ite
    | with_reducible assumption
    | intro _
    | with_reducible apply kept_foldl
    | with_reducible apply kept_foldl_fst
    | with_reducible apply kept_foldr
    | with_reducible apply kept_ite
    | with_reducible apply kept_ite_fst
    | with_reducible apply kept_ite_snd
    | with_reducible apply kept_ite_third
    | fail_if_no_progress (with_reducible refine Kept.update ?_ rfl rfl rfl rfl rfl)
    | split
    | extract_lets)

theorem execSemRenew_answers (t : Nat) (s : State) : Answers (s.clock t) (execSemRenew t s) := by
  unfold execSemRenew
  repeat' (first
    | with_reducible exact Kept.refl _
    | intro _
    | with_reducible apply answers_next
    | with_reducible apply State.finish_kept
    | with_reducible apply State.clock_kept
    | with_reducible apply State.req_kept
    | with_reducible apply State.setSema_kept
    | with_reducible apply answers_ite
    | with_reducible assumption
    | intro _
    | with_reducible apply kept_foldl
    | with_reducible apply kept_foldl_fst
    | with_reducible apply kept_foldr
    | with_reducible apply kept_ite
    | with_reducible apply kept_ite_fst
    | with_reducible apply kept_ite_snd
    | with_reducible apply kept_ite_third
    | fail_if_no_progress (with_reducible refine Kept.update ?_ rfl rfl rfl rfl rfl)
    | split
    | extract_lets)

theorem State.revokeSema_kept {z : State} (s : State) (k : Nat) (hz : Kept z s) : Kept z (State.revokeSema s k) := by
  unfold State.revokeSema
  repeat' (first
    | with_reducible assumption
    | intro _
    | with_reducible apply State.leaseRevoked_kept
    | with_reducible apply State.raise_kept
    | with_reducible apply State.grantNext_kept
    | with_reducible apply kept_foldl
    | with_reducible apply kept_foldl_fst
    | with_reducible apply kept_foldr
    | with_reducible apply kept_ite)

theorem State.runPoll_kept {z : State} (s : State) (p reason : Nat) (hz : Kept z s) : Kept z (State.runPoll s p reason) := by
  unfold State.runPoll
  repeat' (first
    | with_reducible assumption
    | intro _
    | with_reducible apply State.raise_kept
    | with_reducible apply State.req_kept
    | with_reducible apply State.setTxns_kept
    | with_reducible apply kept_foldl
    | with_reducible apply kept_foldl_fst
    | with_reducible apply kept_foldr
    | with_reducible apply kept_ite
    | with_reducible apply kept_ite_fst
    | with_reducible apply kept_ite_snd
    | with_reducible apply kept_ite_third
    | fail_if_no_progress (with_reducible refine Kept.update ?_ rfl rfl rfl rfl rfl)
    | split)

theorem execPollInterval_answers (t : Nat) (poll : Fin 64) (s : State) : Answers (s.clock t) (execPollInterval t poll s) := by
  unfold execPollInterval
  repeat' (first
    | with_reducible exact Kept.refl _
    | intro _
    | with_reducible apply answers_next
    | with_reducible apply State.clock_kept
    | with_reducible apply State.runPoll_kept
    | with_reducible apply answers_ite)

theorem execSideBandLine_answers (t : Nat) (bus : Fin 12) (low : Bool) (since : Nat) (s : State) : Answers (s.clock t) (execSideBandLine t bus low since s) := by
  unfold execSideBandLine
  repeat' (first
    | with_reducible exact Kept.refl _
    | intro _
    | with_reducible apply answers_next
    | with_reducible apply State.clock_kept
    | with_reducible apply State.sf_kept
    | with_reducible apply State.runPoll_kept
    | with_reducible apply kept_foldl_snd
    | with_reducible apply answers_ite
    | with_reducible assumption
    | intro _
    | with_reducible apply kept_foldl
    | with_reducible apply kept_foldl_fst
    | with_reducible apply kept_foldr
    | with_reducible apply kept_ite)

/-! Machine/Wake.lean -/

theorem State.acceptWake_kept {z : State} (s : State) (mask : Nat) (hz : Kept z s) : Kept z (State.acceptWake s mask) := by
  unfold State.acceptWake
  repeat' (first
    | with_reducible assumption
    | intro _
    | with_reducible apply State.set0_kept
    | with_reducible apply State.emit_kept
    | with_reducible apply State.raise_kept
    | with_reducible apply kept_foldl_snd
    | with_reducible apply kept_foldl
    | with_reducible apply kept_foldl_fst
    | with_reducible apply kept_foldr
    | with_reducible apply kept_ite
    | with_reducible apply kept_ite_fst
    | with_reducible apply kept_ite_snd
    | with_reducible apply kept_ite_third
    | fail_if_no_progress (with_reducible refine Kept.update ?_ rfl rfl rfl rfl rfl))

theorem State.wake_kept {z : State} (s : State) (k : Nat) (hz : Kept z s) : Kept z (State.wake s k) := by
  unfold State.wake
  repeat' (first
    | with_reducible assumption
    | intro _
    | with_reducible apply State.set0_kept
    | with_reducible apply State.acceptWake_kept
    | with_reducible apply kept_foldl
    | with_reducible apply kept_foldl_fst
    | with_reducible apply kept_foldr
    | with_reducible apply kept_ite
    | with_reducible apply kept_ite_fst
    | with_reducible apply kept_ite_snd
    | with_reducible apply kept_ite_third
    | fail_if_no_progress (with_reducible refine Kept.update ?_ rfl rfl rfl rfl rfl))

/-! Machine/Can.lean -/

theorem State.setFb_kept {z : State} (s : State) (n : Nat) (x : Fb) (hz : Kept z s) : Kept z (State.setFb s n x) := by
  unfold State.setFb
  repeat' (first
    | with_reducible assumption
    | intro _
    | with_reducible apply kept_foldl
    | with_reducible apply kept_foldl_fst
    | with_reducible apply kept_foldr
    | with_reducible apply kept_ite
    | with_reducible apply kept_ite_fst
    | with_reducible apply kept_ite_snd
    | with_reducible apply kept_ite_third
    | fail_if_no_progress (with_reducible refine Kept.update ?_ rfl rfl rfl rfl rfl))

theorem State.fbEnter_kept {z : State} (s : State) (n st : Nat) (hz : Kept z s) : Kept z (State.fbEnter s n st) := by
  unfold State.fbEnter
  repeat' (first
    | with_reducible assumption
    | intro _
    | with_reducible apply State.sf_kept)

theorem State.ardStart_kept {z : State} (s : State) (n : Nat) (hz : Kept z s) : Kept z (State.ardStart s n) := by
  unfold State.ardStart
  repeat' (first
    | with_reducible assumption
    | intro _
    | with_reducible apply State.setFb_kept)

theorem State.showErrs_kept {z : State} (s : State) (n tec rec : Nat) (hz : Kept z s) : Kept z (State.showErrs s n tec rec) := by
  unfold State.showErrs
  repeat' (first
    | with_reducible assumption
    | intro _
    | with_reducible apply State.sf_kept)

theorem State.fbStart_kept {z : State} (s : State) (n : Nat) (hz : Kept z s) : Kept z (State.fbStart s n) := by
  unfold State.fbStart
  repeat' (first
    | with_reducible assumption
    | intro _
    | with_reducible apply State.ardStart_kept
    | with_reducible apply State.showErrs_kept
    | with_reducible apply State.raise_kept
    | with_reducible apply State.setFb_kept
    | with_reducible apply State.fbEnter_kept
    | with_reducible apply kept_foldl
    | with_reducible apply kept_foldl_fst
    | with_reducible apply kept_foldr
    | with_reducible apply kept_ite)

theorem State.fbStartAll_kept {z : State} (s : State) (hz : Kept z s) : Kept z (State.fbStartAll s) := by
  unfold State.fbStartAll
  repeat' (first
    | with_reducible assumption
    | intro _
    | with_reducible apply State.fbStart_kept
    | with_reducible apply kept_foldl_snd
    | with_reducible apply kept_foldl)

theorem State.setPend_kept {z : State} (s : State) (n m : Nat) (b : Bool) (hz : Kept z s) : Kept z (State.setPend s n m b) := by
  unfold State.setPend
  repeat' (first
    | with_reducible assumption
    | intro _
    | with_reducible apply State.sf_kept
    | with_reducible apply kept_foldl
    | with_reducible apply kept_foldl_fst
    | with_reducible apply kept_foldr
    | with_reducible apply kept_ite)

theorem State.setWords_kept {z : State} (s : State) (n m : Nat) (w : Tab (BitVec 32)) (hz : Kept z s) : Kept z (State.setWords s n m w) := by
  unfold State.setWords
  repeat' (first
    | with_reducible assumption
    | intro _
    | with_reducible apply State.setFb_kept)

theorem State.mbPut_kept {z : State} (s : State) (n m : Nat) (w : Tab (BitVec 32)) (hz : Kept z s) : Kept z (State.mbPut s n m w) := by
  unfold State.mbPut
  repeat' (first
    | with_reducible assumption
    | intro _
    | with_reducible apply State.setFb_kept
    | with_reducible apply State.setWords_kept
    | with_reducible apply kept_foldl
    | with_reducible apply kept_foldl_fst
    | with_reducible apply kept_foldr
    | with_reducible apply kept_ite
    | with_reducible apply kept_ite_fst
    | with_reducible apply kept_ite_snd
    | with_reducible apply kept_ite_third
    | fail_if_no_progress (with_reducible refine Kept.update ?_ rfl rfl rfl rfl rfl)
    | split
    | extract_lets)

theorem State.mbStore_kept {z : State} (s : State) (n m : Nat) (w : Tab (BitVec 32)) (ns : Nat) (hz : Kept z s) : Kept z (State.mbStore s n m w ns) := by
  unfold State.mbStore
  repeat' (first
    | with_reducible assumption
    | intro _
    | with_reducible apply State.qualify_kept
    | with_reducible apply State.taskEvent_kept
    | with_reducible apply State.bump_kept
    | with_reducible apply State.raise_kept
    | with_reducible apply State.mbPut_kept
    | with_reducible apply State.deposit_kept
    | with_reducible apply State.setFlag_kept
    | with_reducible apply State.wake_kept
    | with_reducible apply kept_foldl
    | with_reducible apply kept_foldl_fst
    | with_reducible apply kept_foldr
    | with_reducible apply kept_ite)

theorem State.unlock_kept {z : State} (s : State) (n : Nat) (hz : Kept z s) : Kept z (State.unlock s n) := by
  unfold State.unlock
  repeat' (first
    | with_reducible assumption
    | intro _
    | with_reducible apply State.sf_kept
    | with_reducible apply State.setFb_kept
    | with_reducible apply kept_foldl
    | with_reducible apply kept_foldl_fst
    | with_reducible apply kept_foldr
    | with_reducible apply kept_ite
    | with_reducible apply kept_ite_fst
    | with_reducible apply kept_ite_snd
    | with_reducible apply kept_ite_third
    | fail_if_no_progress (with_reducible refine Kept.update ?_ rfl rfl rfl rfl rfl)
    | split
    | extract_lets)

theorem State.mbsel_kept {z : State} (s : State) (n : Nat) (v : BitVec 32) (hz : Kept z s) : Kept z (State.mbsel s n v) := by
  unfold State.mbsel
  repeat' (first
    | with_reducible assumption
    | intro _
    | with_reducible apply State.wr_kept
    | with_reducible apply State.sf_kept
    | with_reducible apply State.unlock_kept
    | with_reducible apply State.setFb_kept
    | with_reducible apply kept_foldl
    | with_reducible apply kept_foldl_fst
    | with_reducible apply kept_foldr
    | with_reducible apply kept_ite)

theorem execFbMbselWrite_answers (t : Nat) (party : Party) (channel : Fin 32) (value : BitVec 32) (s : State) : Answers (s.clock t) (execFbMbselWrite t party channel value s) := by
  unfold execFbMbselWrite
  repeat' (first
    | with_reducible exact Kept.refl _
    | intro _
    | with_reducible apply answers_next
    | with_reducible apply State.hostWrite_kept
    | with_reducible apply State.mbsel_kept)

theorem execLockTmo_answers (t : Nat) (channel : Fin 32) (s : State) : Answers (s.clock t) (execLockTmo t channel s) := by
  unfold execLockTmo
  repeat' (first
    | with_reducible exact Kept.refl _
    | intro _
    | with_reducible apply answers_next
    | with_reducible apply State.raise_kept
    | with_reducible apply State.clock_kept
    | with_reducible apply State.unlock_kept
    | with_reducible apply answers_ite
    | with_reducible assumption
    | intro _
    | with_reducible apply kept_foldl
    | with_reducible apply kept_foldl_fst
    | with_reducible apply kept_foldr
    | with_reducible apply kept_ite
    | with_reducible apply kept_ite_fst
    | with_reducible apply kept_ite_snd
    | with_reducible apply kept_ite_third
    | fail_if_no_progress (with_reducible refine Kept.update ?_ rfl rfl rfl rfl rfl)
    | split
    | extract_lets)

theorem State.mbwin_kept {z : State} (s : State) (n k : Nat) (v : BitVec 32) (hz : Kept z s) : Kept z (State.mbwin s n k v) := by
  unfold State.mbwin
  repeat' (first
    | with_reducible assumption
    | intro _
    | with_reducible apply State.raise_kept
    | with_reducible apply State.setWords_kept
    | with_reducible apply kept_foldl
    | with_reducible apply kept_foldl_fst
    | with_reducible apply kept_foldr
    | with_reducible apply kept_ite)

theorem execFbMbwinWrite_answers (t : Nat) (party : Party) (channel : Fin 32) (word : Fin 32) (value : BitVec 32) (s : State) : Answers (s.clock t) (execFbMbwinWrite t party channel word value s) := by
  unfold execFbMbwinWrite
  repeat' (first
    | with_reducible exact Kept.refl _
    | intro _
    | with_reducible apply answers_next
    | with_reducible apply State.hostWrite_kept
    | with_reducible apply State.mbwin_kept)

theorem State.txStat_kept {z : State} (s : State) (n st code result : Nat) (hz : Kept z s) : Kept z (State.txStat s n st code result) := by
  unfold State.txStat
  repeat' (first
    | with_reducible assumption
    | intro _
    | with_reducible apply State.wr_kept)

theorem State.txRefuse_kept {z : State} (s : State) (n m code : Nat) (hz : Kept z s) : Kept z (State.txRefuse s n m code) := by
  unfold State.txRefuse
  repeat' (first
    | with_reducible assumption
    | intro _
    | with_reducible apply State.raise_kept
    | with_reducible apply State.txStat_kept)

theorem State.txRequest_kept {z : State} (s : State) (n m : Nat) (hz : Kept z s) : Kept z (State.txRequest s n m) := by
  unfold State.txRequest
  repeat' (first
    | with_reducible assumption
    | intro _
    | with_reducible apply State.setPend_kept
    | with_reducible apply State.txRefuse_kept
    | with_reducible apply State.txStat_kept
    | with_reducible apply kept_foldl
    | with_reducible apply kept_foldl_fst
    | with_reducible apply kept_foldr
    | with_reducible apply kept_ite)

theorem State.txCancel_kept {z : State} (s : State) (n m : Nat) (hz : Kept z s) : Kept z (State.txCancel s n m) := by
  unfold State.txCancel
  repeat' (first
    | with_reducible assumption
    | intro _
    | with_reducible apply State.txStat_kept
    | with_reducible apply State.bump_kept
    | with_reducible apply State.setFb_kept
    | with_reducible apply State.setPend_kept
    | with_reducible apply State.setFlag_kept
    | with_reducible apply kept_foldl
    | with_reducible apply kept_foldl_fst
    | with_reducible apply kept_foldr
    | with_reducible apply kept_ite)

theorem execFbTxRequest_answers (t : Nat) (party : Party) (channel : Fin 32) (buf : Fin 128) (s : State) : Answers (s.clock t) (execFbTxRequest t party channel buf s) := by
  unfold execFbTxRequest
  repeat' (first
    | with_reducible exact Kept.refl _
    | intro _
    | with_reducible apply answers_next
    | with_reducible apply State.hostWrite_kept
    | with_reducible apply State.txRequest_kept)

theorem execFbTxCancel_answers (t : Nat) (party : Party) (channel : Fin 32) (buf : Fin 128) (s : State) : Answers (s.clock t) (execFbTxCancel t party channel buf s) := by
  unfold execFbTxCancel
  repeat' (first
    | with_reducible exact Kept.refl _
    | intro _
    | with_reducible apply answers_next
    | with_reducible apply State.hostWrite_kept
    | with_reducible apply State.txCancel_kept)

theorem execFbHpReq_answers (t : Nat) (party : Party) (channel : Fin 32) (s : State) : Answers (s.clock t) (execFbHpReq t party channel s) := by
  unfold execFbHpReq
  repeat' (first
    | with_reducible exact Kept.refl _
    | intro _
    | with_reducible apply answers_next
    | with_reducible apply State.hostWrite_kept
    | with_reducible apply State.txRequest_kept)

theorem execFbHpCancel_answers (t : Nat) (party : Party) (channel : Fin 32) (s : State) : Answers (s.clock t) (execFbHpCancel t party channel s) := by
  unfold execFbHpCancel
  repeat' (first
    | with_reducible exact Kept.refl _
    | intro _
    | with_reducible apply answers_next
    | with_reducible apply State.hostWrite_kept
    | with_reducible apply State.txCancel_kept)

theorem State.txAbort_kept {z : State} (s : State) (n m : Nat) (hz : Kept z s) : Kept z (State.txAbort s n m) := by
  unfold State.txAbort
  repeat' (first
    | with_reducible assumption
    | intro _
    | with_reducible apply State.raise_kept
    | with_reducible apply State.emit_kept
    | with_reducible apply State.setPend_kept
    | with_reducible apply State.setFlag_kept
    | with_reducible apply kept_foldl
    | with_reducible apply kept_foldl_fst
    | with_reducible apply kept_foldr
    | with_reducible apply kept_ite)

theorem State.slotCopy_kept {z : State} (s : State) (n m : Nat) (w : Tab (BitVec 32)) (hz : Kept z s) : Kept z (State.slotCopy s n m w) := by
  unfold State.slotCopy
  repeat' (first
    | with_reducible assumption
    | intro _
    | with_reducible apply State.setPend_kept
    | with_reducible apply State.setWords_kept
    | with_reducible apply State.setFb_kept
    | with_reducible apply kept_foldl
    | with_reducible apply kept_foldl_fst
    | with_reducible apply kept_foldr
    | with_reducible apply kept_ite)

theorem State.fbSlots_kept {z : State} (s : State) (hz : Kept z s) : Kept z (State.fbSlots s) := by
  unfold State.fbSlots
  repeat' (first
    | with_reducible assumption
    | intro _
    | with_reducible apply State.slotCopy_kept
    | with_reducible apply kept_foldl_snd
    | with_reducible apply kept_foldl
    | with_reducible apply kept_foldl_fst
    | with_reducible apply kept_foldr
    | with_reducible apply kept_ite
    | with_reducible apply kept_ite_fst
    | with_reducible apply kept_ite_snd
    | with_reducible apply kept_ite_third
    | fail_if_no_progress (with_reducible refine Kept.update ?_ rfl rfl rfl rfl rfl)
    | split)

theorem State.holdBack_kept {z : State} (s : State) (n m : Nat) (hz : Kept z s) : Kept z (State.holdBack s n m) := by
  unfold State.holdBack
  repeat' (first
    | with_reducible assumption
    | intro _
    | with_reducible apply State.raise_kept
    | with_reducible apply State.setFb_kept)

theorem State.stampSof_kept {z : State} (s : State) (n sof : Nat) (hz : Kept z s) : Kept z (State.stampSof s n sof) := by
  unfold State.stampSof
  repeat' (first
    | with_reducible assumption
    | intro _
    | with_reducible apply State.wr64_kept
    | with_reducible apply kept_foldl
    | with_reducible apply kept_foldl_fst
    | with_reducible apply kept_foldr
    | with_reducible apply kept_ite)

theorem State.sendSof_kept {z : State} (s : State) (n m : Nat) (w : Tab (BitVec 32)) (once : Bool) (hz : Kept z s) : Kept z (State.sendSof s n m w once) := by
  unfold State.sendSof
  repeat' (first
    | with_reducible assumption
    | intro _
    | with_reducible apply State.stampSof_kept
    | with_reducible apply State.emit_kept
    | with_reducible apply State.setFb_kept
    | with_reducible apply State.sf_kept)

theorem State.offerIn_kept {z : State} (s : State) (n stop : Nat) (once : Bool) (k : Nat) (ms : List Nat) (hz : Kept z s) :
    Kept z (s.offerIn n stop once k ms) := by
  induction k generalizing s ms with
  | zero => exact hz
  | succ k ih =>
    unfold State.offerIn
    split
    · exact hz
    · try extract_lets
      split
      · exact State.sendSof_kept _ _ _ _ _ hz
      · exact ih _ _ (State.holdBack_kept _ _ _ hz)

theorem State.canOffer_kept {z : State} (s : State) (n : Nat) (hz : Kept z s) : Kept z (State.canOffer s n) := by
  unfold State.canOffer
  repeat' (first
    | with_reducible assumption
    | intro _
    | with_reducible apply State.sendSof_kept
    | with_reducible apply State.offerIn_kept
    | with_reducible apply kept_foldl
    | with_reducible apply kept_foldl_fst
    | with_reducible apply kept_foldr
    | with_reducible apply kept_ite
    | with_reducible apply kept_ite_fst
    | with_reducible apply kept_ite_snd
    | with_reducible apply kept_ite_third
    | fail_if_no_progress (with_reducible refine Kept.update ?_ rfl rfl rfl rfl rfl)
    | split)

theorem execCanTxOffer_answers (t : Nat) (channel : Fin 32) (s : State) : Answers (s.clock t) (execCanTxOffer t channel s) := by
  unfold execCanTxOffer
  repeat' (first
    | with_reducible exact Kept.refl _
    | intro _
    | with_reducible apply answers_next
    | with_reducible apply State.canOffer_kept)

theorem State.confine_kept {z : State} (s : State) (n tec rec : Nat) (hz : Kept z s) : Kept z (State.confine s n tec rec) := by
  unfold State.confine
  repeat' (first
    | with_reducible assumption
    | intro _
    | with_reducible apply State.bump_kept
    | with_reducible apply State.raise_kept
    | with_reducible apply State.sf_kept
    | with_reducible apply State.setFb_kept
    | with_reducible apply State.showErrs_kept
    | with_reducible apply State.fbEnter_kept
    | with_reducible apply State.txAbort_kept
    | with_reducible apply kept_foldl_snd
    | with_reducible apply kept_foldl
    | with_reducible apply kept_foldl_fst
    | with_reducible apply kept_foldr
    | with_reducible apply kept_ite)

theorem State.attemptOver_kept {z : State} (s : State) (n m : Nat) (hz : Kept z s) : Kept z (State.attemptOver s n m) := by
  unfold State.attemptOver
  repeat' (first
    | with_reducible assumption
    | intro _
    | with_reducible apply State.sf_kept
    | with_reducible apply State.setPend_kept
    | with_reducible apply State.setFb_kept
    | with_reducible apply State.setWords_kept
    | with_reducible apply kept_foldl
    | with_reducible apply kept_foldl_fst
    | with_reducible apply kept_foldr
    | with_reducible apply kept_ite
    | with_reducible apply kept_ite_fst
    | with_reducible apply kept_ite_snd
    | with_reducible apply kept_ite_third
    | fail_if_no_progress (with_reducible refine Kept.update ?_ rfl rfl rfl rfl rfl)
    | split
    | extract_lets)

theorem State.attemptFailed_kept {z : State} (s : State) (n : Nat) (x : CanTx) (hz : Kept z s) : Kept z (State.attemptFailed s n x) := by
  unfold State.attemptFailed
  repeat' (first
    | with_reducible assumption
    | intro _
    | with_reducible apply State.attemptOver_kept
    | with_reducible apply State.txAbort_kept
    | with_reducible apply kept_foldl
    | with_reducible apply kept_foldl_fst
    | with_reducible apply kept_foldr
    | with_reducible apply kept_ite)

theorem execArbLost_answers (t : Nat) (channel : Fin 32) (sof : Nat) (s : State) : Answers (s.clock t) (execArbLost t channel sof s) := by
  unfold execArbLost
  repeat' (first
    | with_reducible exact Kept.refl _
    | intro _
    | with_reducible apply answers_next
    | with_reducible apply State.stampSof_kept
    | with_reducible apply State.attemptFailed_kept
    | with_reducible apply State.clock_kept
    | with_reducible apply State.bump_kept
    | with_reducible apply answers_ite
    | with_reducible assumption
    | intro _
    | with_reducible apply kept_foldl
    | with_reducible apply kept_foldl_fst
    | with_reducible apply kept_foldr
    | with_reducible apply kept_ite
    | with_reducible apply kept_ite_fst
    | with_reducible apply kept_ite_snd
    | with_reducible apply kept_ite_third
    | fail_if_no_progress (with_reducible refine Kept.update ?_ rfl rfl rfl rfl rfl)
    | split
    | extract_lets)

theorem State.showTdc_kept {z : State} (s : State) (n : Nat) (delay : Option Nat) (hz : Kept z s) : Kept z (State.showTdc s n delay) := by
  unfold State.showTdc
  repeat' (first
    | with_reducible assumption
    | intro _
    | with_reducible apply State.sf_kept
    | with_reducible apply State.drawFree_kept
    | with_reducible apply kept_foldl
    | with_reducible apply kept_foldl_fst
    | with_reducible apply kept_foldr
    | with_reducible apply kept_ite
    | with_reducible apply kept_ite_fst
    | with_reducible apply kept_ite_snd
    | with_reducible apply kept_ite_third
    | fail_if_no_progress (with_reducible refine Kept.update ?_ rfl rfl rfl rfl rfl)
    | split)

theorem State.txError_kept {z : State} (s : State) (n : Nat) (e : CanErr) (hz : Kept z s) : Kept z (State.txError s n e) := by
  unfold State.txError
  repeat' (first
    | with_reducible assumption
    | intro _
    | with_reducible apply State.attemptFailed_kept
    | with_reducible apply kept_foldl
    | with_reducible apply kept_foldl_fst
    | with_reducible apply kept_foldr
    | with_reducible apply kept_ite
    | with_reducible apply kept_ite_fst
    | with_reducible apply kept_ite_snd
    | with_reducible apply kept_ite_third
    | fail_if_no_progress (with_reducible refine Kept.update ?_ rfl rfl rfl rfl rfl)
    | split)

theorem execCanBusError_answers (t : Nat) (channel : Fin 32) (error : CanErr) (sof : Nat) (delay : Option Nat) (s : State) : Answers (s.clock t) (execCanBusError t channel error sof delay s) := by
  unfold execCanBusError
  repeat' (first
    | with_reducible exact Kept.refl _
    | intro _
    | with_reducible apply answers_next
    | with_reducible apply State.showTdc_kept
    | with_reducible apply State.confine_kept
    | with_reducible apply State.txError_kept
    | with_reducible apply State.clock_kept
    | with_reducible apply State.stampSof_kept
    | with_reducible apply State.bump_kept
    | with_reducible apply State.emit_kept
    | with_reducible apply State.setFb_kept
    | with_reducible apply answers_ite
    | with_reducible assumption
    | intro _
    | with_reducible apply kept_foldl
    | with_reducible apply kept_foldl_fst
    | with_reducible apply kept_foldr
    | with_reducible apply kept_ite)

theorem State.ardFound_kept {z : State} (s : State) (n : Nat) (hz : Kept z s) : Kept z (State.ardFound s n) := by
  unfold State.ardFound
  repeat' (first
    | with_reducible assumption
    | intro _
    | with_reducible apply State.wr_kept
    | with_reducible apply State.sf_kept
    | with_reducible apply State.raise_kept
    | with_reducible apply State.fbEnter_kept
    | with_reducible apply State.setFb_kept)

theorem State.recGood_kept {z : State} (s : State) (n : Nat) (hz : Kept z s) : Kept z (State.recGood s n) := by
  unfold State.recGood
  repeat' (first
    | with_reducible assumption
    | intro _
    | with_reducible apply State.drawFree_kept
    | with_reducible apply State.confine_kept
    | with_reducible apply kept_foldl
    | with_reducible apply kept_foldl_fst
    | with_reducible apply kept_foldr
    | with_reducible apply kept_ite)

theorem execCanMessageReceived_answers (t : Nat) (channel : Fin 32) (sof : Nat) (frame : CanFrame) (s : State) : Answers (s.clock t) (execCanMessageReceived t channel sof frame s) := by
  unfold execCanMessageReceived
  repeat' (first
    | with_reducible exact Kept.refl _
    | intro _
    | with_reducible apply answers_next
    | with_reducible apply State.recGood_kept
    | with_reducible apply State.sf_kept
    | with_reducible apply State.clock_kept
    | with_reducible apply State.stampSof_kept
    | with_reducible apply State.ardFound_kept
    | with_reducible apply State.setFb_kept
    | with_reducible apply State.emit_kept
    | with_reducible apply State.bump_kept
    | with_reducible apply State.mbStore_kept
    | with_reducible apply answers_ite
    | with_reducible assumption
    | intro _
    | with_reducible apply kept_foldl
    | with_reducible apply kept_foldl_fst
    | with_reducible apply kept_foldr
    | with_reducible apply kept_ite
    | with_reducible apply kept_ite_fst
    | with_reducible apply kept_ite_snd
    | with_reducible apply kept_ite_third
    | fail_if_no_progress (with_reducible refine Kept.update ?_ rfl rfl rfl rfl rfl)
    | split
    | extract_lets)

theorem execCanTxDone_answers (t : Nat) (channel : Fin 32) (sof : Nat) (tdcv : BitVec 7) (s : State) : Answers (s.clock t) (execCanTxDone t channel sof tdcv s) := by
  unfold execCanTxDone
  repeat' (first
    | with_reducible exact Kept.refl _
    | intro _
    | with_reducible apply answers_next
    | with_reducible apply State.bump_kept
    | with_reducible apply State.sf_kept
    | with_reducible apply State.attemptOver_kept
    | with_reducible apply State.setPend_kept
    | with_reducible apply State.raise_kept
    | with_reducible apply State.emit_kept
    | with_reducible apply State.clock_kept
    | with_reducible apply State.stampSof_kept
    | with_reducible apply State.showTdc_kept
    | with_reducible apply State.confine_kept
    | with_reducible apply State.setFb_kept
    | with_reducible apply State.setWords_kept
    | with_reducible apply State.setFlag_kept
    | with_reducible apply answers_ite
    | with_reducible assumption
    | intro _
    | with_reducible apply kept_foldl
    | with_reducible apply kept_foldl_fst
    | with_reducible apply kept_foldr
    | with_reducible apply kept_ite
    | with_reducible apply kept_ite_fst
    | with_reducible apply kept_ite_snd
    | with_reducible apply kept_ite_third
    | fail_if_no_progress (with_reducible refine Kept.update ?_ rfl rfl rfl rfl rfl)
    | split
    | extract_lets)

theorem execIntegrationDone_answers (t : Nat) (channel : Fin 32) (s : State) : Answers (s.clock t) (execIntegrationDone t channel s) := by
  unfold execIntegrationDone
  repeat' (first
    | with_reducible exact Kept.refl _
    | intro _
    | with_reducible apply answers_next
    | with_reducible apply State.clock_kept
    | with_reducible apply State.fbEnter_kept
    | with_reducible apply State.setFb_kept
    | with_reducible apply answers_ite)

theorem execBusOn_answers (t : Nat) (channel : Fin 32) (s : State) : Answers (s.clock t) (execBusOn t channel s) := by
  unfold execBusOn
  repeat' (first
    | with_reducible exact Kept.refl _
    | intro _
    | with_reducible apply answers_next
    | with_reducible apply State.confine_kept
    | with_reducible apply State.raise_kept
    | with_reducible apply State.clock_kept
    | with_reducible apply State.setFb_kept
    | with_reducible apply State.fbEnter_kept
    | with_reducible apply answers_ite)

theorem State.fbRecover_kept {z : State} (s : State) (n : Nat) (hz : Kept z s) : Kept z (State.fbRecover s n) := by
  unfold State.fbRecover
  repeat' (first
    | with_reducible assumption
    | intro _
    | with_reducible apply State.fbEnter_kept
    | with_reducible apply kept_foldl
    | with_reducible apply kept_foldl_fst
    | with_reducible apply kept_foldr
    | with_reducible apply kept_ite)

theorem execFbRecover_answers (t : Nat) (party : Party) (channel : Fin 32) (s : State) : Answers (s.clock t) (execFbRecover t party channel s) := by
  unfold execFbRecover
  repeat' (first
    | with_reducible exact Kept.refl _
    | intro _
    | with_reducible apply answers_next
    | with_reducible apply State.hostWrite_kept
    | with_reducible apply State.fbRecover_kept)

theorem execArdDwellExpiry_answers (t : Nat) (channel : Fin 32) (s : State) : Answers (s.clock t) (execArdDwellExpiry t channel s) := by
  unfold execArdDwellExpiry
  repeat' (first
    | with_reducible exact Kept.refl _
    | intro _
    | with_reducible apply answers_next
    | with_reducible apply State.clock_kept
    | with_reducible apply State.setFb_kept
    | with_reducible apply State.raise_kept
    | with_reducible apply answers_ite
    | with_reducible assumption
    | intro _
    | with_reducible apply kept_foldl
    | with_reducible apply kept_foldl_fst
    | with_reducible apply kept_foldr
    | with_reducible apply kept_ite)

theorem execTxdTmo_answers (t : Nat) (channel : Fin 32) (recessive : Bool) (since : Nat) (s : State) : Answers (s.clock t) (execTxdTmo t channel recessive since s) := by
  unfold execTxdTmo
  repeat' (first
    | with_reducible exact Kept.refl _
    | intro _
    | with_reducible apply answers_next
    | with_reducible apply State.sf_kept
    | with_reducible apply State.raise_kept
    | with_reducible apply State.clock_kept
    | with_reducible apply State.setFb_kept
    | with_reducible apply answers_ite
    | with_reducible assumption
    | intro _
    | with_reducible apply kept_foldl
    | with_reducible apply kept_foldl_fst
    | with_reducible apply kept_foldr
    | with_reducible apply kept_ite)

theorem State.refStart_kept {z : State} (s : State) (n : Nat) (hz : Kept z s) : Kept z (State.refStart s n) := by
  unfold State.refStart
  repeat' (first
    | with_reducible assumption
    | intro _
    | with_reducible apply State.setFb_kept
    | with_reducible apply kept_foldl
    | with_reducible apply kept_foldl_fst
    | with_reducible apply kept_foldr
    | with_reducible apply kept_ite)

theorem State.refStop_kept {z : State} (s : State) (n : Nat) (hz : Kept z s) : Kept z (State.refStop s n) := by
  unfold State.refStop
  repeat' (first
    | with_reducible assumption
    | intro _
    | with_reducible apply State.raise_kept
    | with_reducible apply State.setFb_kept
    | with_reducible apply State.bump_kept
    | with_reducible apply kept_foldl
    | with_reducible apply kept_foldl_fst
    | with_reducible apply kept_foldr
    | with_reducible apply kept_ite)

theorem State.fbActivate_kept {z : State} (s : State) (n : Nat) (hz : Kept z s) : Kept z (State.fbActivate s n) := by
  unfold State.fbActivate
  repeat' (first
    | with_reducible assumption
    | intro _
    | with_reducible apply State.fbEnter_kept
    | with_reducible apply State.confine_kept
    | with_reducible apply State.ardStart_kept
    | with_reducible apply kept_foldl
    | with_reducible apply kept_foldl_fst
    | with_reducible apply kept_foldr
    | with_reducible apply kept_ite)

theorem State.fbSilence_kept {z : State} (s : State) (n : Nat) (hz : Kept z s) : Kept z (State.fbSilence s n) := by
  unfold State.fbSilence
  repeat' (first
    | with_reducible assumption
    | intro _
    | with_reducible apply State.fbEnter_kept
    | with_reducible apply State.setFb_kept
    | with_reducible apply State.txAbort_kept
    | with_reducible apply kept_foldl_snd
    | with_reducible apply kept_foldl
    | with_reducible apply kept_foldl_fst
    | with_reducible apply kept_foldr
    | with_reducible apply kept_ite)

theorem State.fbActivateAll_kept {z : State} (s : State) (hz : Kept z s) : Kept z (State.fbActivateAll s) := by
  unfold State.fbActivateAll
  repeat' (first
    | with_reducible assumption
    | intro _
    | with_reducible apply State.fbActivate_kept
    | with_reducible apply kept_foldl_snd
    | with_reducible apply kept_foldl)

theorem State.fbSilenceAll_kept {z : State} (s : State) (hz : Kept z s) : Kept z (State.fbSilenceAll s) := by
  unfold State.fbSilenceAll
  repeat' (first
    | with_reducible assumption
    | intro _
    | with_reducible apply State.fbSilence_kept
    | with_reducible apply kept_foldl_snd
    | with_reducible apply kept_foldl)

theorem State.fbWake_kept {z : State} (s : State) (n src : Nat) (hz : Kept z s) : Kept z (State.fbWake s n src) := by
  unfold State.fbWake
  repeat' (first
    | with_reducible assumption
    | intro _
    | with_reducible apply State.sf_kept
    | with_reducible apply State.wake_kept
    | with_reducible apply kept_foldl_snd
    | with_reducible apply kept_foldl)

theorem execWakePattern_answers (t : Nat) (channel : Fin 8) (s : State) : Answers (s.clock t) (execWakePattern t channel s) := by
  unfold execWakePattern
  repeat' (first
    | with_reducible exact Kept.refl _
    | intro _
    | with_reducible apply answers_next
    | with_reducible apply State.clock_kept
    | with_reducible apply State.fbWake_kept
    | with_reducible apply answers_ite
    | with_reducible assumption
    | intro _
    | with_reducible apply kept_foldl
    | with_reducible apply kept_foldl_fst
    | with_reducible apply kept_foldr
    | with_reducible apply kept_ite
    | with_reducible apply kept_ite_fst
    | with_reducible apply kept_ite_snd
    | with_reducible apply kept_ite_third
    | fail_if_no_progress (with_reducible refine Kept.update ?_ rfl rfl rfl rfl rfl))

theorem execSelectiveWakeFrame_answers (t : Nat) (channel : Fin 8) (good : Bool) (frame : CanFrame) (s : State) : Answers (s.clock t) (execSelectiveWakeFrame t channel good frame s) := by
  unfold execSelectiveWakeFrame
  repeat' (first
    | with_reducible exact Kept.refl _
    | intro _
    | with_reducible apply answers_next
    | with_reducible apply State.fbWake_kept
    | with_reducible apply State.clock_kept
    | with_reducible apply answers_ite
    | with_reducible assumption
    | intro _
    | with_reducible apply kept_foldl
    | with_reducible apply kept_foldl_fst
    | with_reducible apply kept_foldr
    | with_reducible apply kept_ite
    | with_reducible apply kept_ite_fst
    | with_reducible apply kept_ite_snd
    | with_reducible apply kept_ite_third
    | fail_if_no_progress (with_reducible refine Kept.update ?_ rfl rfl rfl rfl rfl))

end Sys2Proof.Machine
end

