-- ==== Sys2Proof/Laws/KeptEngines.lean ====
section
/-! SUPPORT. What Kept says holds of the Cellar, sent frames, image copies, lanes, optical modules, the Tick Engine, host rings and pairing; their commands answer a next state. -/

namespace Sys2Proof.Machine

open Sys2Proof

/-! Machine/Cellar.lean -/

theorem State.setCelCh_kept {z : State} (s : State) (c : Nat) (x : CelCh) (hz : Kept z s) : Kept z (State.setCelCh s c x) := by
  unfold State.setCelCh
  repeat' (first
    | with_reducible assumption
    | intro _
    | with_reducible apply kept_foldl
    | with_reducible apply kept_foldl_fst
    | with_reducible apply kept_foldr
    | with_reducible apply kept_ite
    | with_reducible apply kept_ite_fst
    | with_reducible apply kept_ite_snd
    | with_reducible apply kept_ite_third
    | fail_if_no_progress (with_reducible refine Kept.update ?_ rfl rfl rfl rfl rfl))

theorem State.celQueue_kept {z : State} (s : State) (r : CelRec) (hz : Kept z s) : Kept z (State.celQueue s r) := by
  unfold State.celQueue
  repeat' (first
    | with_reducible assumption
    | intro _
    | with_reducible apply kept_foldl
    | with_reducible apply kept_foldl_fst
    | with_reducible apply kept_foldr
    | with_reducible apply kept_ite
    | with_reducible apply kept_ite_fst
    | with_reducible apply kept_ite_snd
    | with_reducible apply kept_ite_third
    | fail_if_no_progress (with_reducible refine Kept.update ?_ rfl rfl rfl rfl rfl))

theorem State.celRecord_kept {z : State} (s : State) (kind c : Nat) (cal : Bool) (ref : Nat) (data : Bytes) (hz : Kept z s) : Kept z (State.celRecord s kind c cal ref data) := by
  unfold State.celRecord
  repeat' (first
    | with_reducible assumption
    | intro _
    | with_reducible apply State.celQueue_kept)

theorem State.celKeys_kept {z : State} (s : State) (cal : Bool) (hz : Kept z s) : Kept z (State.celKeys s cal) := by
  unfold State.celKeys
  repeat' (first
    | with_reducible assumption
    | intro _
    | with_reducible apply State.celRecord_kept)

theorem State.celFrame_kept {z : State} (s : State) (rec : Bytes) (hz : Kept z s) : Kept z (State.celFrame s rec) := by
  unfold State.celFrame
  repeat' (first
    | with_reducible assumption
    | intro _
    | with_reducible apply State.emit_kept
    | with_reducible apply kept_foldl
    | with_reducible apply kept_foldl_fst
    | with_reducible apply kept_foldr
    | with_reducible apply kept_ite
    | with_reducible apply kept_ite_fst
    | with_reducible apply kept_ite_snd
    | with_reducible apply kept_ite_third
    | fail_if_no_progress (with_reducible refine Kept.update ?_ rfl rfl rfl rfl rfl))

theorem State.celSend_kept {z : State} (s : State) (r : CelRec) (hz : Kept z s) : Kept z (State.celSend s r) := by
  unfold State.celSend
  repeat' (first
    | with_reducible assumption
    | intro _
    | with_reducible apply State.celFrame_kept
    | with_reducible apply kept_foldl
    | with_reducible apply kept_foldl_fst
    | with_reducible apply kept_foldr
    | with_reducible apply kept_ite
    | with_reducible apply kept_ite_fst
    | with_reducible apply kept_ite_snd
    | with_reducible apply kept_ite_third
    | fail_if_no_progress (with_reducible refine Kept.update ?_ rfl rfl rfl rfl rfl))

theorem execRecordSend_answers (t : Nat) (s : State) : Answers (s.clock t) (execRecordSend t s) := by
  unfold execRecordSend
  repeat' (first
    | with_reducible exact Kept.refl _
    | intro _
    | with_reducible apply answers_next
    | with_reducible apply State.celFrame_kept
    | with_reducible apply State.clock_kept
    | with_reducible apply State.celSend_kept
    | with_reducible apply answers_ite
    | with_reducible assumption
    | intro _
    | with_reducible apply kept_foldl
    | with_reducible apply kept_foldl_fst
    | with_reducible apply kept_foldr
    | with_reducible apply kept_ite
    | with_reducible apply kept_ite_fst
    | with_reducible apply kept_ite_snd
    | with_reducible apply kept_ite_third
    | fail_if_no_progress (with_reducible refine Kept.update ?_ rfl rfl rfl rfl rfl)
    | split)

theorem State.unstage_kept {z : State} (s : State) (hz : Kept z s) : Kept z (State.unstage s) := by
  unfold State.unstage
  repeat' (first
    | with_reducible assumption
    | intro _
    | with_reducible apply State.commit_kept
    | with_reducible apply kept_foldl
    | with_reducible apply kept_foldl_fst
    | with_reducible apply kept_foldr
    | with_reducible apply kept_ite
    | with_reducible apply kept_ite_fst
    | with_reducible apply kept_ite_snd
    | with_reducible apply kept_ite_third
    | fail_if_no_progress (with_reducible refine Kept.update ?_ rfl rfl rfl rfl rfl))

theorem State.applyChange_kept {z : State} (s : State) (x : CelChange) (hz : Kept z s) : Kept z (State.applyChange s x) := by
  unfold State.applyChange
  repeat' (first
    | with_reducible assumption
    | intro _
    | with_reducible apply State.setCelCh_kept
    | with_reducible apply kept_foldl
    | with_reducible apply kept_foldl_fst
    | with_reducible apply kept_foldr
    | with_reducible apply kept_ite
    | with_reducible apply kept_ite_fst
    | with_reducible apply kept_ite_snd
    | with_reducible apply kept_ite_third
    | fail_if_no_progress (with_reducible refine Kept.update ?_ rfl rfl rfl rfl rfl)
    | split)

theorem State.calApply_kept {z : State} (s : State) (cal : Bool) (hz : Kept z s) : Kept z (State.calApply s cal) := by
  unfold State.calApply
  repeat' (first
    | with_reducible assumption
    | intro _
    | with_reducible apply State.applyChange_kept
    | with_reducible apply State.unstage_kept
    | with_reducible apply State.commit_kept
    | with_reducible apply State.celRecord_kept
    | with_reducible apply kept_foldl_snd
    | with_reducible apply kept_foldl
    | with_reducible apply kept_foldl_fst
    | with_reducible apply kept_foldr
    | with_reducible apply kept_ite
    | with_reducible apply kept_ite_fst
    | with_reducible apply kept_ite_snd
    | with_reducible apply kept_ite_third
    | fail_if_no_progress (with_reducible refine Kept.update ?_ rfl rfl rfl rfl rfl))

theorem execWeighingStart_answers (t : Nat) (lc : Fin 4) (sample : BitVec 24) (s : State) : Answers (s.clock t) (execWeighingStart t lc sample s) := by
  unfold execWeighingStart
  repeat' (first
    | with_reducible exact Kept.refl _
    | intro _
    | with_reducible apply answers_next
    | with_reducible apply State.calApply_kept
    | with_reducible apply State.settle_kept
    | with_reducible apply State.clock_kept
    | with_reducible apply State.setCelCh_kept
    | with_reducible apply answers_ite)

theorem execSettleEnd_answers (t : Nat) (lc : Fin 4) (s : State) : Answers (s.clock t) (execSettleEnd t lc s) := by
  unfold execSettleEnd
  repeat' (first
    | with_reducible exact Kept.refl _
    | intro _
    | with_reducible apply answers_next
    | with_reducible apply State.settle_kept
    | with_reducible apply State.clock_kept
    | with_reducible apply State.setCelCh_kept
    | with_reducible apply answers_ite
    | with_reducible assumption
    | intro _
    | with_reducible apply kept_foldl
    | with_reducible apply kept_foldl_fst
    | with_reducible apply kept_foldr
    | with_reducible apply kept_ite
    | with_reducible apply kept_ite_fst
    | with_reducible apply kept_ite_snd
    | with_reducible apply kept_ite_third
    | fail_if_no_progress (with_reducible refine Kept.update ?_ rfl rfl rfl rfl rfl)
    | split
    | extract_lets)

theorem execWeighWindowEnd_answers (t : Nat) (lc : Fin 4) (sum : Int) (lo hi least most : BitVec 24) (causes : BitVec 12) (cal : Bool) (s : State) : Answers (s.clock t) (execWeighWindowEnd t lc sum lo hi least most causes cal s) := by
  unfold execWeighWindowEnd
  repeat' (first
    | with_reducible exact Kept.refl _
    | intro _
    | with_reducible apply answers_next
    | with_reducible apply State.clock_kept
    | with_reducible apply State.celRecord_kept
    | with_reducible apply State.setCelCh_kept
    | with_reducible apply answers_ite
    | with_reducible assumption
    | intro _
    | with_reducible apply kept_foldl
    | with_reducible apply kept_foldl_fst
    | with_reducible apply kept_foldr
    | with_reducible apply kept_ite
    | with_reducible apply kept_ite_fst
    | with_reducible apply kept_ite_snd
    | with_reducible apply kept_ite_third
    | fail_if_no_progress (with_reducible refine Kept.update ?_ rfl rfl rfl rfl rfl)
    | split
    | extract_lets)

theorem execLoadClear_answers (t : Nat) (lc : Fin 4) (sample : BitVec 24) (s : State) : Answers (s.clock t) (execLoadClear t lc sample s) := by
  unfold execLoadClear
  repeat' (first
    | with_reducible exact Kept.refl _
    | intro _
    | with_reducible apply answers_next
    | with_reducible apply State.clock_kept
    | with_reducible apply State.setCelCh_kept
    | with_reducible apply answers_ite)

theorem execZeroTracking_answers (t : Nat) (lc : Fin 4) (sum : Int) (lo hi : BitVec 24) (cal : Bool) (s : State) : Answers (s.clock t) (execZeroTracking t lc sum lo hi cal s) := by
  unfold execZeroTracking
  repeat' (first
    | with_reducible exact Kept.refl _
    | intro _
    | with_reducible apply answers_next
    | with_reducible apply State.clock_kept
    | with_reducible apply State.setCelCh_kept
    | with_reducible apply State.celRecord_kept
    | with_reducible apply answers_ite)

theorem State.startCheck_kept {z : State} (s : State) (c : Nat) (hz : Kept z s) : Kept z (State.startCheck s c) := by
  unfold State.startCheck
  repeat' (first
    | with_reducible assumption
    | intro _
    | with_reducible apply State.setCelCh_kept)

theorem execReferenceCheck_answers (t : Nat) (lc : Fin 4) (result : Option Bool) (cal : Bool) (s : State) : Answers (s.clock t) (execReferenceCheck t lc result cal s) := by
  unfold execReferenceCheck
  repeat' (first
    | with_reducible exact Kept.refl _
    | intro _
    | with_reducible apply answers_next
    | with_reducible apply State.celRecord_kept
    | with_reducible apply State.clock_kept
    | with_reducible apply State.setCelCh_kept
    | with_reducible apply answers_ite
    | with_reducible assumption
    | intro _
    | with_reducible apply kept_foldl
    | with_reducible apply kept_foldl_fst
    | with_reducible apply kept_foldr
    | with_reducible apply kept_ite
    | with_reducible apply kept_ite_fst
    | with_reducible apply kept_ite_snd
    | with_reducible apply kept_ite_third
    | fail_if_no_progress (with_reducible refine Kept.update ?_ rfl rfl rfl rfl rfl)
    | split)

theorem execReferenceCheckResume_answers (t : Nat) (lc : Fin 4) (s : State) : Answers (s.clock t) (execReferenceCheckResume t lc s) := by
  unfold execReferenceCheckResume
  repeat' (first
    | with_reducible exact Kept.refl _
    | intro _
    | with_reducible apply answers_next
    | with_reducible apply State.clock_kept
    | with_reducible apply State.setCelCh_kept
    | with_reducible apply answers_ite)

theorem State.symbol_kept {z : State} (s : State) (count raw : Nat) (hz : Kept z s) : Kept z (State.symbol s count raw) := by
  unfold State.symbol
  repeat' (first
    | with_reducible assumption
    | intro _
    | with_reducible apply kept_foldl
    | with_reducible apply kept_foldl_fst
    | with_reducible apply kept_foldr
    | with_reducible apply kept_ite
    | with_reducible apply kept_ite_fst
    | with_reducible apply kept_ite_snd
    | with_reducible apply kept_ite_third
    | fail_if_no_progress (with_reducible refine Kept.update ?_ rfl rfl rfl rfl rfl))

theorem State.celHeard_kept {z : State} (s : State) (hz : Kept z s) : Kept z (State.celHeard s) := by
  unfold State.celHeard
  repeat' (first
    | with_reducible assumption
    | intro _
    | with_reducible apply State.set0_kept
    | with_reducible apply kept_foldl
    | with_reducible apply kept_foldl_fst
    | with_reducible apply kept_foldr
    | with_reducible apply kept_ite
    | with_reducible apply kept_ite_fst
    | with_reducible apply kept_ite_snd
    | with_reducible apply kept_ite_third
    | fail_if_no_progress (with_reducible refine Kept.update ?_ rfl rfl rfl rfl rfl))

theorem execBeacon_answers (t : Nat) (s : State) : Answers (s.clock t) (execBeacon t s) := by
  unfold execBeacon
  repeat' (first
    | with_reducible exact Kept.refl _
    | intro _
    | with_reducible apply answers_next
    | with_reducible apply State.emit_kept
    | with_reducible apply State.celHeard_kept
    | with_reducible apply State.clock_kept
    | with_reducible apply State.symbol_kept
    | with_reducible apply answers_ite
    | with_reducible assumption
    | intro _
    | with_reducible apply kept_foldl
    | with_reducible apply kept_foldl_fst
    | with_reducible apply kept_foldr
    | with_reducible apply kept_ite
    | with_reducible apply kept_ite_fst
    | with_reducible apply kept_ite_snd
    | with_reducible apply kept_ite_third
    | fail_if_no_progress (with_reducible refine Kept.update ?_ rfl rfl rfl rfl rfl))

theorem execAbsent_answers (t : Nat) (s : State) : Answers (s.clock t) (execAbsent t s) := by
  unfold execAbsent
  repeat' (first
    | with_reducible exact Kept.refl _
    | intro _
    | with_reducible apply answers_next
    | with_reducible apply State.raise_kept
    | with_reducible apply State.clock_kept
    | with_reducible apply State.set0_kept
    | with_reducible apply answers_ite)

theorem execLivePeriod_answers (t : Nat) (lc : Fin 4) (sample : BitVec 24) (centre : Nat) (cal : Bool) (s : State) : Answers (s.clock t) (execLivePeriod t lc sample centre cal s) := by
  unfold execLivePeriod
  repeat' (first
    | with_reducible exact Kept.refl _
    | intro _
    | with_reducible apply answers_next
    | with_reducible apply State.celRecord_kept
    | with_reducible apply State.clock_kept
    | with_reducible apply State.setCelCh_kept
    | with_reducible apply answers_ite)

theorem State.cellarReset_kept {z : State} (s : State) (cal : Bool) (hz : Kept z s) : Kept z (State.cellarReset s cal) := by
  unfold State.cellarReset
  repeat' (first
    | with_reducible assumption
    | intro _
    | with_reducible apply State.celKeys_kept
    | with_reducible apply State.commit_kept
    | with_reducible apply State.celRecord_kept
    | with_reducible apply kept_foldl_snd
    | with_reducible apply kept_foldl
    | with_reducible apply kept_foldl_fst
    | with_reducible apply kept_foldr
    | with_reducible apply kept_ite
    | with_reducible apply kept_ite_fst
    | with_reducible apply kept_ite_snd
    | with_reducible apply kept_ite_third
    | fail_if_no_progress (with_reducible refine Kept.update ?_ rfl rfl rfl rfl rfl))

theorem execCellarReset_answers (t : Nat) (cal : Bool) (s : State) : Answers (s.clock t) (execCellarReset t cal s) := by
  unfold execCellarReset
  repeat' (first
    | with_reducible exact Kept.refl _
    | intro _
    | with_reducible apply answers_next
    | with_reducible apply State.cellarReset_kept)

theorem State.celReply_kept {z : State} (s : State) (k : CelCmd) (result : Nat) (cal : Bool) (hz : Kept z s) : Kept z (State.celReply s k result cal) := by
  unfold State.celReply
  repeat' (first
    | with_reducible assumption
    | intro _
    | with_reducible apply State.celRecord_kept)

theorem State.celUnlisted_kept {z : State} (s : State) (cal : Bool) (hz : Kept z s) : Kept z (State.celUnlisted s cal) := by
  unfold State.celUnlisted
  repeat' (first
    | with_reducible assumption
    | intro _
    | with_reducible apply State.celReply_kept
    | with_reducible apply kept_foldl_snd
    | with_reducible apply kept_foldl
    | with_reducible apply kept_foldl_fst
    | with_reducible apply kept_foldr
    | with_reducible apply kept_ite
    | with_reducible apply kept_ite_fst
    | with_reducible apply kept_ite_snd
    | with_reducible apply kept_ite_third
    | fail_if_no_progress (with_reducible refine Kept.update ?_ rfl rfl rfl rfl rfl))

theorem State.celCommand_kept {z : State} (s : State) (code : Nat) (crcOk : Bool) (f : State → CelCmd → State × Nat)
    (cal : Bool) (hf : ∀ u k, Kept z u → Kept z (f u k).1) (hz : Kept z s) : Kept z (s.celCommand code crcOk f cal) := by
  unfold State.celCommand
  extract_lets s0
  have h0 : Kept z s0 := State.celUnlisted_kept _ _ hz
  clear_value s0
  split
  · split
    · exact h0
    · extract_lets s1 r
      have h1 : Kept z s1 := Kept.update h0 rfl rfl rfl rfl rfl
      split
      · exact h1
      · exact State.celReply_kept _ _ _ _ (hf _ _ h1)
  · exact h0

theorem State.celZero_kept {z : State} (s : State) (sum : Int) (lo hi : BitVec 24) (cal : Bool) (k : CelCmd) (hz : Kept z s) : Kept z (State.celZero s sum lo hi cal k).1 := by
  unfold State.celZero
  repeat' (first
    | with_reducible assumption
    | intro _
    | with_reducible apply State.setCelCh_kept
    | with_reducible apply State.celRecord_kept
    | with_reducible apply kept_foldl
    | with_reducible apply kept_foldl_fst
    | with_reducible apply kept_foldr
    | with_reducible apply kept_ite
    | with_reducible apply kept_ite_fst)

theorem execCelZero_answers (t : Nat) (crcOk : Bool) (sum : Int) (lo hi : BitVec 24) (cal : Bool) (s : State) : Answers (s.clock t) (execCelZero t crcOk sum lo hi cal s) := by
  unfold execCelZero
  repeat' (first
    | with_reducible exact Kept.refl _
    | intro _
    | with_reducible apply answers_next
    | with_reducible apply State.celCommand_kept
    | with_reducible apply State.clock_kept
    | with_reducible apply State.celZero_kept
    | with_reducible apply answers_ite
    | with_reducible assumption)

theorem State.celLive_kept {z : State} (s : State) (k : CelCmd) (hz : Kept z s) : Kept z (State.celLive s k).1 := by
  unfold State.celLive
  repeat' (first
    | with_reducible assumption
    | intro _
    | with_reducible apply State.setCelCh_kept
    | with_reducible apply kept_foldl
    | with_reducible apply kept_foldl_fst
    | with_reducible apply kept_foldr
    | with_reducible apply kept_ite
    | with_reducible apply kept_ite_fst)

theorem execCelLive_answers (t : Nat) (crcOk : Bool) (cal : Bool) (s : State) : Answers (s.clock t) (execCelLive t crcOk cal s) := by
  unfold execCelLive
  repeat' (first
    | with_reducible exact Kept.refl _
    | intro _
    | with_reducible apply answers_next
    | with_reducible apply State.celCommand_kept
    | with_reducible apply State.celLive_kept
    | with_reducible apply State.clock_kept
    | with_reducible apply answers_ite
    | with_reducible assumption)

theorem State.celReplay_kept {z : State} (s : State) (k : CelCmd) (hz : Kept z s) : Kept z (State.celReplay s k).1 := by
  unfold State.celReplay
  repeat' (first
    | with_reducible assumption
    | intro _
    | with_reducible apply kept_foldl
    | with_reducible apply kept_foldl_fst
    | with_reducible apply kept_foldr
    | with_reducible apply kept_ite
    | with_reducible apply kept_ite_fst
    | with_reducible apply kept_ite_snd
    | with_reducible apply kept_ite_third
    | fail_if_no_progress (with_reducible refine Kept.update ?_ rfl rfl rfl rfl rfl))

theorem execCelReplay_answers (t : Nat) (crcOk : Bool) (cal : Bool) (s : State) : Answers (s.clock t) (execCelReplay t crcOk cal s) := by
  unfold execCelReplay
  repeat' (first
    | with_reducible exact Kept.refl _
    | intro _
    | with_reducible apply answers_next
    | with_reducible apply State.celCommand_kept
    | with_reducible apply State.celReplay_kept
    | with_reducible apply State.clock_kept
    | with_reducible apply answers_ite
    | with_reducible assumption)

theorem execCelKeyReq_answers (t : Nat) (crcOk : Bool) (cal : Bool) (s : State) : Answers (s.clock t) (execCelKeyReq t crcOk cal s) := by
  unfold execCelKeyReq
  repeat' (first
    | with_reducible exact Kept.refl _
    | intro _
    | with_reducible apply answers_next
    | with_reducible apply State.celCommand_kept
    | with_reducible apply State.clock_kept
    | with_reducible apply State.celKeys_kept
    | with_reducible apply answers_ite
    | with_reducible assumption
    | intro _
    | with_reducible apply kept_foldl
    | with_reducible apply kept_foldl_fst
    | with_reducible apply kept_foldr
    | with_reducible apply kept_ite
    | with_reducible apply kept_ite_fst)

theorem execCelRefCheck_answers (t : Nat) (crcOk : Bool) (cal : Bool) (s : State) : Answers (s.clock t) (execCelRefCheck t crcOk cal s) := by
  unfold execCelRefCheck
  repeat' (first
    | with_reducible exact Kept.refl _
    | intro _
    | with_reducible apply answers_next
    | with_reducible apply State.celCommand_kept
    | with_reducible apply State.clock_kept
    | with_reducible apply State.startCheck_kept
    | with_reducible apply answers_ite
    | with_reducible assumption
    | intro _
    | with_reducible apply kept_foldl
    | with_reducible apply kept_foldl_fst
    | with_reducible apply kept_foldr
    | with_reducible apply kept_ite
    | with_reducible apply kept_ite_fst)

theorem State.stage_kept {z : State} (s : State) (x : CelChange) (hz : Kept z s) : Kept z (State.stage s x) := by
  unfold State.stage
  repeat' (first
    | with_reducible assumption
    | intro _
    | with_reducible apply kept_foldl
    | with_reducible apply kept_foldl_fst
    | with_reducible apply kept_foldr
    | with_reducible apply kept_ite
    | with_reducible apply kept_ite_fst
    | with_reducible apply kept_ite_snd
    | with_reducible apply kept_ite_third
    | fail_if_no_progress (with_reducible refine Kept.update ?_ rfl rfl rfl rfl rfl))

theorem State.calZero_kept {z : State} (s : State) (sum : Int) (lo hi : BitVec 24) (cal : Bool) (k : CelCmd) (hz : Kept z s) : Kept z (State.calZero s sum lo hi cal k).1 := by
  unfold State.calZero
  repeat' (first
    | with_reducible assumption
    | intro _
    | with_reducible apply State.stage_kept
    | with_reducible apply kept_foldl
    | with_reducible apply kept_foldl_fst
    | with_reducible apply kept_foldr
    | with_reducible apply kept_ite
    | with_reducible apply kept_ite_fst)

theorem execCalZero_answers (t : Nat) (crcOk : Bool) (sum : Int) (lo hi : BitVec 24) (cal : Bool) (s : State) : Answers (s.clock t) (execCalZero t crcOk sum lo hi cal s) := by
  unfold execCalZero
  repeat' (first
    | with_reducible exact Kept.refl _
    | intro _
    | with_reducible apply answers_next
    | with_reducible apply State.celCommand_kept
    | with_reducible apply State.clock_kept
    | with_reducible apply State.calZero_kept
    | with_reducible apply answers_ite
    | with_reducible assumption)

theorem State.calSpan_kept {z : State} (s : State) (sum : Int) (lo hi : BitVec 24) (cal : Bool) (k : CelCmd) (hz : Kept z s) : Kept z (State.calSpan s sum lo hi cal k).1 := by
  unfold State.calSpan
  repeat' (first
    | with_reducible assumption
    | intro _
    | with_reducible apply State.stage_kept
    | with_reducible apply kept_foldl
    | with_reducible apply kept_foldl_fst
    | with_reducible apply kept_foldr
    | with_reducible apply kept_ite
    | with_reducible apply kept_ite_fst)

theorem execCalSpan_answers (t : Nat) (crcOk : Bool) (sum : Int) (lo hi : BitVec 24) (cal : Bool) (s : State) : Answers (s.clock t) (execCalSpan t crcOk sum lo hi cal s) := by
  unfold execCalSpan
  repeat' (first
    | with_reducible exact Kept.refl _
    | intro _
    | with_reducible apply answers_next
    | with_reducible apply State.celCommand_kept
    | with_reducible apply State.clock_kept
    | with_reducible apply State.calSpan_kept
    | with_reducible apply answers_ite
    | with_reducible assumption)

theorem State.setParam_kept {z : State} (s : State) (cal : Bool) (k : CelCmd) (hz : Kept z s) : Kept z (State.setParam s cal k).1 := by
  unfold State.setParam
  repeat' (first
    | with_reducible assumption
    | intro _
    | with_reducible apply State.stage_kept
    | with_reducible apply kept_foldl
    | with_reducible apply kept_foldl_fst
    | with_reducible apply kept_foldr
    | with_reducible apply kept_ite
    | with_reducible apply kept_ite_fst)

theorem execSetParam_answers (t : Nat) (crcOk : Bool) (cal : Bool) (s : State) : Answers (s.clock t) (execSetParam t crcOk cal s) := by
  unfold execSetParam
  repeat' (first
    | with_reducible exact Kept.refl _
    | intro _
    | with_reducible apply answers_next
    | with_reducible apply State.celCommand_kept
    | with_reducible apply State.clock_kept
    | with_reducible apply State.setParam_kept
    | with_reducible apply answers_ite
    | with_reducible assumption)

theorem execCelCommit_answers (t : Nat) (crcOk : Bool) (cal : Bool) (s : State) : Answers (s.clock t) (execCelCommit t crcOk cal s) := by
  unfold execCelCommit
  repeat' (first
    | with_reducible exact Kept.refl _
    | intro _
    | with_reducible apply answers_next
    | with_reducible apply State.celCommand_kept
    | with_reducible apply State.clock_kept
    | with_reducible apply State.commit_kept
    | with_reducible apply answers_ite
    | with_reducible assumption
    | intro _
    | with_reducible apply kept_foldl
    | with_reducible apply kept_foldl_fst
    | with_reducible apply kept_foldr
    | with_reducible apply kept_ite
    | with_reducible apply kept_ite_fst
    | with_reducible apply kept_ite_snd
    | with_reducible apply kept_ite_third
    | fail_if_no_progress (with_reducible refine Kept.update ?_ rfl rfl rfl rfl rfl))

theorem execCelDiscard_answers (t : Nat) (crcOk : Bool) (cal : Bool) (s : State) : Answers (s.clock t) (execCelDiscard t crcOk cal s) := by
  unfold execCelDiscard
  repeat' (first
    | with_reducible exact Kept.refl _
    | intro _
    | with_reducible apply answers_next
    | with_reducible apply State.celCommand_kept
    | with_reducible apply State.clock_kept
    | with_reducible apply State.unstage_kept
    | with_reducible apply answers_ite
    | with_reducible assumption
    | intro _
    | with_reducible apply kept_foldl
    | with_reducible apply kept_foldl_fst
    | with_reducible apply kept_foldr
    | with_reducible apply kept_ite
    | with_reducible apply kept_ite_fst)

theorem execCalChange_answers (t : Nat) (cal : Bool) (s : State) : Answers (s.clock t) (execCalChange t cal s) := by
  unfold execCalChange
  repeat' (first
    | with_reducible exact Kept.refl _
    | intro _
    | with_reducible apply answers_next
    | with_reducible apply State.calApply_kept)

theorem execCalEnFall_answers (t : Nat) (s : State) : Answers (s.clock t) (execCalEnFall t s) := by
  unfold execCalEnFall
  repeat' (first
    | with_reducible exact Kept.refl _
    | intro _
    | with_reducible apply answers_next
    | with_reducible apply State.unstage_kept)

theorem State.celSendCmd_kept {z : State} (s : State) (a2 : BitVec 32) (hz : Kept z s) : Kept z (State.celSendCmd s a2) := by
  unfold State.celSendCmd
  repeat' (first
    | with_reducible assumption
    | intro _
    | with_reducible apply State.raise_kept
    | with_reducible apply State.set0_kept
    | with_reducible apply State.bump_kept
    | with_reducible apply kept_foldl
    | with_reducible apply kept_foldl_fst
    | with_reducible apply kept_foldr
    | with_reducible apply kept_ite
    | with_reducible apply kept_ite_fst
    | with_reducible apply kept_ite_snd
    | with_reducible apply kept_ite_third
    | fail_if_no_progress (with_reducible refine Kept.update ?_ rfl rfl rfl rfl rfl))

theorem State.celKeyReq_kept {z : State} (s : State) (hz : Kept z s) : Kept z (State.celKeyReq s) := by
  unfold State.celKeyReq
  repeat' (first
    | with_reducible assumption
    | intro _
    | with_reducible apply kept_foldl
    | with_reducible apply kept_foldl_fst
    | with_reducible apply kept_foldr
    | with_reducible apply kept_ite
    | with_reducible apply kept_ite_fst
    | with_reducible apply kept_ite_snd
    | with_reducible apply kept_ite_third
    | fail_if_no_progress (with_reducible refine Kept.update ?_ rfl rfl rfl rfl rfl))

theorem execCelCmdTimeout_answers (t : Nat) (s : State) : Answers (s.clock t) (execCelCmdTimeout t s) := by
  unfold execCelCmdTimeout
  repeat' (first
    | with_reducible exact Kept.refl _
    | intro _
    | with_reducible apply answers_next
    | with_reducible apply State.bump_kept
    | with_reducible apply State.raise_kept
    | with_reducible apply State.clock_kept
    | with_reducible apply State.set0_kept
    | with_reducible apply answers_ite
    | with_reducible assumption
    | intro _
    | with_reducible apply kept_foldl
    | with_reducible apply kept_foldl_fst
    | with_reducible apply kept_foldr
    | with_reducible apply kept_ite
    | with_reducible apply kept_ite_fst
    | with_reducible apply kept_ite_snd
    | with_reducible apply kept_ite_third
    | fail_if_no_progress (with_reducible refine Kept.update ?_ rfl rfl rfl rfl rfl)
    | split
    | extract_lets)

theorem State.takeKey_kept {z : State} (s : State) (ch : Nat) (data : Bytes) (hz : Kept z s) : Kept z (State.takeKey s ch data) := by
  unfold State.takeKey
  repeat' (first
    | with_reducible assumption
    | intro _
    | with_reducible apply State.set0_kept
    | with_reducible apply State.wr_kept
    | with_reducible apply kept_foldl_snd
    | with_reducible apply kept_foldl
    | with_reducible apply kept_foldl_fst
    | with_reducible apply kept_foldr
    | with_reducible apply kept_ite
    | with_reducible apply kept_ite_fst
    | with_reducible apply kept_ite_snd
    | with_reducible apply kept_ite_third
    | fail_if_no_progress (with_reducible refine Kept.update ?_ rfl rfl rfl rfl rfl))

theorem State.celGap_kept {z : State} (s : State) (boot rseq : Nat) (hz : Kept z s) : Kept z (State.celGap s boot rseq).2 := by
  unfold State.celGap
  repeat' (first
    | with_reducible assumption
    | intro _
    | with_reducible apply kept_foldl_snd
    | with_reducible apply kept_foldl
    | with_reducible apply kept_foldl_fst
    | with_reducible apply kept_foldr
    | with_reducible apply kept_ite
    | with_reducible apply kept_ite_fst
    | with_reducible apply kept_ite_snd
    | with_reducible apply kept_ite_third
    | fail_if_no_progress (with_reducible refine Kept.update ?_ rfl rfl rfl rfl rfl)
    | split)

theorem State.celCount_kept {z : State} (s : State) (c : Nat) (hz : Kept z s) : Kept z (State.celCount s c) := by
  unfold State.celCount
  repeat' (first
    | with_reducible assumption
    | intro _
    | with_reducible apply State.bump_kept)

theorem State.celAnswer_kept {z : State} (s : State) (result tag : Nat) (hz : Kept z s) : Kept z (State.celAnswer s result tag) := by
  unfold State.celAnswer
  repeat' (first
    | with_reducible assumption
    | intro _
    | with_reducible apply State.set0_kept
    | with_reducible apply State.raise_kept
    | with_reducible apply State.celCount_kept
    | with_reducible apply kept_foldl
    | with_reducible apply kept_foldl_fst
    | with_reducible apply kept_foldr
    | with_reducible apply kept_ite
    | with_reducible apply kept_ite_fst
    | with_reducible apply kept_ite_snd
    | with_reducible apply kept_ite_third
    | fail_if_no_progress (with_reducible refine Kept.update ?_ rfl rfl rfl rfl rfl)
    | split)

theorem State.celHost_kept {z : State} (s : State) (bytes : Bytes) (hz : Kept z s) : Kept z (State.celHost s bytes) := by
  unfold State.celHost
  repeat' (first
    | with_reducible assumption
    | intro _
    | with_reducible apply State.raise_kept
    | with_reducible apply State.putItem_kept
    | with_reducible apply State.celCount_kept
    | with_reducible apply kept_foldl
    | with_reducible apply kept_foldl_fst
    | with_reducible apply kept_foldr
    | with_reducible apply kept_ite)

theorem State.celTake_kept {z : State} (s : State) (start count : Nat) (rec : Bytes) (hz : Kept z s) : Kept z (State.celTake s start count rec) := by
  unfold State.celTake
  repeat' (first
    | with_reducible assumption
    | intro _
    | with_reducible apply State.raise_kept
    | with_reducible apply State.wr_kept
    | with_reducible apply State.set0_kept
    | with_reducible apply State.taskEvent_kept
    | with_reducible apply State.takeKey_kept
    | with_reducible apply State.celCount_kept
    | with_reducible apply State.celGap_kept
    | with_reducible apply State.celAnswer_kept
    | with_reducible apply State.deposit_kept
    | with_reducible apply State.celHost_kept
    | with_reducible apply kept_foldl
    | with_reducible apply kept_foldl_fst
    | with_reducible apply kept_foldr
    | with_reducible apply kept_ite
    | with_reducible apply kept_ite_fst
    | with_reducible apply kept_ite_snd
    | with_reducible apply kept_ite_third
    | fail_if_no_progress (with_reducible refine Kept.update ?_ rfl rfl rfl rfl rfl)
    | split)

theorem execCellarRecordReceived_answers (t : Nat) (start : Nat) (crcOk : Bool) (s : State) : Answers (s.clock t) (execCellarRecordReceived t start crcOk s) := by
  unfold execCellarRecordReceived
  repeat' (first
    | with_reducible exact Kept.refl _
    | intro _
    | with_reducible apply answers_next
    | with_reducible apply State.celCount_kept
    | with_reducible apply State.raise_kept
    | with_reducible apply State.celHeard_kept
    | with_reducible apply State.celTake_kept
    | with_reducible apply State.clock_kept
    | with_reducible apply State.symbol_kept
    | with_reducible apply answers_ite
    | with_reducible assumption
    | intro _
    | with_reducible apply kept_foldl
    | with_reducible apply kept_foldl_fst
    | with_reducible apply kept_foldr
    | with_reducible apply kept_ite
    | with_reducible apply kept_ite_fst
    | with_reducible apply kept_ite_snd
    | with_reducible apply kept_ite_third
    | fail_if_no_progress (with_reducible refine Kept.update ?_ rfl rfl rfl rfl rfl)
    | split
    | extract_lets)

/-! Machine/FrameOut.lean -/

theorem State.recoverHead_kept {z : State} (s : State) (n q k : Nat) (hz : Kept z s) : Kept z (s.recoverHead n q k) := by
  induction k generalizing s with
  | zero => exact hz
  | succ k ih =>
    unfold State.recoverHead
    split
    · exact hz
    · extract_lets i
      split
      · exact hz
      · next f =>
        extract_lets c v es src s1 s2
        split
        · exact hz
        · have hv : Kept z v.2 := State.recover_kept _ _ _ _ hz
          have h1 : Kept z s1 := State.setQueue_kept _ _ _ hv
          have h2 : Kept z s2 := State.deliverRun_kept _ _ (State.removeEntry_kept _ _ _ h1)
          clear_value s2 s1 src es v
          split
          · exact kept_ite (State.pushFront_kept _ _ _ h2) h1
          · exact ih _ (State.holdItem_kept _ _ _ _ _ (State.removeEntry_kept _ _ _ hv))
          · exact ih _ (State.releaseCopy_kept _ _ (State.removeEntry_kept _ _ _ hv))

theorem State.followUp_kept {z : State} (s : State) (n : Nat) (i : Item) (hz : Kept z s) : Kept z (State.followUp s n i) := by
  unfold State.followUp
  repeat' (first
    | with_reducible assumption
    | intro _
    | with_reducible apply State.sendControl_kept
    | with_reducible apply kept_foldl
    | with_reducible apply kept_foldl_fst
    | with_reducible apply kept_foldr
    | with_reducible apply kept_ite)

theorem State.startTx_kept {z : State} (s : State) (n tc : Nat) (c : Choice) (bad : Bool) (hz : Kept z s) : Kept z (State.startTx s n tc c bad) := by
  unfold State.startTx
  repeat' (first
    | with_reducible assumption
    | intro _
    | with_reducible apply State.followUp_kept
    | with_reducible apply State.showCredit_kept
    | with_reducible apply State.setEgress_kept
    | with_reducible apply State.setHop_kept
    | with_reducible apply State.asdCount_kept
    | with_reducible apply State.startEntry_kept
    | with_reducible apply kept_foldl
    | with_reducible apply kept_foldl_fst
    | with_reducible apply kept_foldr
    | with_reducible apply kept_ite)

theorem State.dropChoice_kept {z : State} (s : State) (n tc : Nat) (c : Choice) (hz : Kept z s) : Kept z (State.dropChoice s n tc c) := by
  unfold State.dropChoice
  repeat' (first
    | with_reducible assumption
    | intro _
    | with_reducible apply State.releaseCopy_kept
    | with_reducible apply State.removeEntry_kept
    | with_reducible apply State.setHop_kept
    | with_reducible apply kept_foldl
    | with_reducible apply kept_foldl_fst
    | with_reducible apply kept_foldr
    | with_reducible apply kept_ite
    | with_reducible apply kept_ite_fst
    | with_reducible apply kept_ite_snd
    | with_reducible apply kept_ite_third
    | fail_if_no_progress (with_reducible refine Kept.update ?_ rfl rfl rfl rfl rfl)
    | split)

theorem State.poisonHead_kept {z : State} (s : State) (n tc : Nat) (c : Choice) (hz : Kept z s) : Kept z (State.poisonHead s n tc c) := by
  unfold State.poisonHead
  repeat' (first
    | with_reducible assumption
    | intro _
    | with_reducible apply State.startTx_kept
    | with_reducible apply State.fetchOrLose_kept
    | with_reducible apply State.dropChoice_kept
    | with_reducible apply kept_foldl
    | with_reducible apply kept_foldl_fst
    | with_reducible apply kept_foldr
    | with_reducible apply kept_ite)

theorem State.readStart_kept {z : State} (s : State) (n tc : Nat) (c : Choice) (ecc : Ecc) (hz : Kept z s) : Kept z (State.readStart s n tc c ecc) := by
  unfold State.readStart
  repeat' (first
    | with_reducible assumption
    | intro _
    | with_reducible apply State.readItem_kept
    | with_reducible apply State.startTx_kept
    | with_reducible apply State.poisonHead_kept
    | with_reducible apply kept_foldl
    | with_reducible apply kept_foldl_fst
    | with_reducible apply kept_foldr
    | with_reducible apply kept_ite)

theorem State.decide__kept {z : State} (s : State) (n : Nat) (ecc : Ecc) (hz : Kept z s) : Kept z (s.decide_ n ecc) := by
  unfold State.decide_
  extract_lets busy s1 g s2
  have h1 : Kept z s1 := State.shape_kept _ _ (State.drainControl_kept _ hz)
  have h2 : Kept z s2 := kept_foldl h1 (fun u tc hu => State.recoverHead_kept _ _ _ _ hu)
  clear_value s1 s2 g
  split
  · exact hz
  · split
    · exact State.readStart_kept _ _ _ _ _ (State.preempt_kept _ _ h2)
    · split
      · exact kept_ite (State.setEgress_kept _ _ _ h2) h2
      · exact h2

theorem State.gableAgain_kept {z : State} (s : State) (n : Nat) (q d : Nat) (hz : Kept z s) : Kept z (State.gableAgain s n q d) := by
  unfold State.gableAgain
  repeat' (first
    | with_reducible assumption
    | intro _
    | with_reducible apply State.setEgress_kept)

theorem State.gableDecide_kept {z : State} (s : State) (n : Nat) (ecc : Ecc) (hz : Kept z s) : Kept z (State.gableDecide s n ecc) := by
  unfold State.gableDecide
  repeat' (first
    | with_reducible assumption
    | intro _
    | with_reducible apply State.gableAgain_kept
    | with_reducible apply State.mirrorHeld_kept
    | with_reducible apply State.drainControl_kept
    | with_reducible apply State.readStart_kept
    | with_reducible apply kept_foldl
    | with_reducible apply kept_foldl_fst
    | with_reducible apply kept_foldr
    | with_reducible apply kept_ite
    | with_reducible apply kept_ite_fst
    | with_reducible apply kept_ite_snd
    | with_reducible apply kept_ite_third
    | fail_if_no_progress (with_reducible refine Kept.update ?_ rfl rfl rfl rfl rfl)
    | split
    | extract_lets)

theorem execEgressDecision_answers (t : Nat) (port : PortRef) (ecc : Ecc) (s : State) : Answers (s.clock t) (execEgressDecision t port ecc s) := by
  unfold execEgressDecision
  repeat' (first
    | with_reducible exact Kept.refl _
    | intro _
    | with_reducible apply answers_next
    | with_reducible apply State.clock_kept
    | with_reducible apply State.decide__kept
    | with_reducible apply State.gableDecide_kept
    | with_reducible apply answers_ite
    | with_reducible assumption
    | intro _
    | with_reducible apply kept_foldl
    | with_reducible apply kept_foldl_fst
    | with_reducible apply kept_foldr
    | with_reducible apply kept_ite)

theorem execPtpEventForward_answers (t : Nat) (inPort outPort : Fin 256) (ingress egress : Nat) (p2p : Bool) (transport : PtpTransport) (corr : BitVec 64) (s : State) : Answers (s.clock t) (execPtpEventForward t inPort outPort ingress egress p2p transport corr s) := by
  unfold execPtpEventForward
  repeat' (first
    | with_reducible exact Kept.refl _
    | intro _
    | with_reducible apply answers_next
    | with_reducible apply State.wrapW_kept
    | with_reducible apply State.raise_kept
    | with_reducible apply State.clock_kept
    | with_reducible apply State.ingress_kept
    | with_reducible apply State.setEgress_kept
    | with_reducible apply answers_ite
    | with_reducible assumption
    | intro _
    | with_reducible apply kept_foldl
    | with_reducible apply kept_foldl_fst
    | with_reducible apply kept_foldr
    | with_reducible apply kept_ite
    | with_reducible apply kept_ite_fst
    | with_reducible apply kept_ite_snd
    | with_reducible apply kept_ite_third
    | fail_if_no_progress (with_reducible refine Kept.update ?_ rfl rfl rfl rfl rfl)
    | split
    | extract_lets)

theorem State.toReplay_kept {z : State} (s : State) (n vc q d : Nat) (resent : Bool) (hz : Kept z s) : Kept z (State.toReplay s n vc q d resent) := by
  unfold State.toReplay
  repeat' (first
    | with_reducible assumption
    | intro _
    | with_reducible apply State.setHop_kept)

theorem State.gableSent_kept {z : State} (s : State) (n q d : Nat) (hz : Kept z s) : Kept z (State.gableSent s n q d) := by
  unfold State.gableSent
  repeat' (first
    | with_reducible assumption
    | intro _
    | with_reducible apply State.setGableLane_kept)

theorem State.gableResent_kept {z : State} (s : State) (n : Nat) (hz : Kept z s) : Kept z (State.gableResent s n) := by
  unfold State.gableResent
  repeat' (first
    | with_reducible assumption
    | intro _
    | with_reducible apply State.setGableLane_kept)

theorem State.txDone_kept {z : State} (s : State) (n : Nat) (hz : Kept z s) : Kept z (State.txDone s n) := by
  unfold State.txDone
  repeat' (first
    | with_reducible assumption
    | intro _
    | with_reducible apply State.emit_kept
    | with_reducible apply State.portCount_kept
    | with_reducible apply State.toReplay_kept
    | with_reducible apply State.gableSent_kept
    | with_reducible apply State.releaseCopy_kept
    | with_reducible apply State.shape_kept
    | with_reducible apply State.setEgress_kept
    | with_reducible apply State.fpCount_kept
    | with_reducible apply State.removeEntry_kept
    | with_reducible apply State.gableResent_kept
    | with_reducible apply kept_foldl
    | with_reducible apply kept_foldl_fst
    | with_reducible apply kept_foldr
    | with_reducible apply kept_ite
    | with_reducible apply kept_ite_fst
    | with_reducible apply kept_ite_snd
    | with_reducible apply kept_ite_third
    | fail_if_no_progress (with_reducible refine Kept.update ?_ rfl rfl rfl rfl rfl)
    | split)

theorem execFrameTxComplete_answers (t : Nat) (port : PortRef) (s : State) : Answers (s.clock t) (execFrameTxComplete t port s) := by
  unfold execFrameTxComplete
  repeat' (first
    | with_reducible exact Kept.refl _
    | intro _
    | with_reducible apply answers_next
    | with_reducible apply State.txDone_kept)

theorem execPreemptVerify_answers (t : Nat) (port : Fin 256) (ok : Bool) (s : State) : Answers (s.clock t) (execPreemptVerify t port ok s) := by
  unfold execPreemptVerify
  repeat' (first
    | with_reducible exact Kept.refl _
    | intro _
    | with_reducible apply answers_next
    | with_reducible apply State.sf_kept
    | with_reducible apply State.raise_kept
    | with_reducible apply State.clock_kept
    | with_reducible apply answers_ite)

theorem State.ackHop_kept {z : State} (s : State) (n vc a windowAt : Nat) (hz : Kept z s) : Kept z (State.ackHop s n vc a windowAt) := by
  unfold State.ackHop
  repeat' (first
    | with_reducible assumption
    | intro _
    | with_reducible apply State.setHop_kept
    | with_reducible apply State.releaseCopy_kept
    | with_reducible apply kept_foldl_snd
    | with_reducible apply kept_foldl)

theorem State.grantVc_kept {z : State} (s : State) (n vc grant ackw windowAt : Nat) (hz : Kept z s) : Kept z (State.grantVc s n vc grant ackw windowAt) := by
  unfold State.grantVc
  repeat' (first
    | with_reducible assumption
    | intro _
    | with_reducible apply State.setHop_kept
    | with_reducible apply State.ackHop_kept
    | with_reducible apply kept_foldl
    | with_reducible apply kept_foldl_fst
    | with_reducible apply kept_foldr
    | with_reducible apply kept_ite)

theorem State.grant_kept {z : State} (s : State) (k windowAt : Nat) (p : Bytes) (hz : Kept z s) : Kept z (State.grant s k windowAt p) := by
  unfold State.grant
  repeat' (first
    | with_reducible assumption
    | intro _
    | with_reducible apply State.grantVc_kept
    | with_reducible apply State.showCredit_kept
    | with_reducible apply kept_foldl
    | with_reducible apply kept_foldl_fst
    | with_reducible apply kept_foldr
    | with_reducible apply kept_ite
    | with_reducible apply kept_ite_fst
    | with_reducible apply kept_ite_snd
    | with_reducible apply kept_ite_third
    | fail_if_no_progress (with_reducible refine Kept.update ?_ rfl rfl rfl rfl rfl)
    | split)

theorem execGrantReceived_answers (t : Nat) (port : Fin 257) (windowAt : Nat) (payload : Bytes) (s : State) : Answers (s.clock t) (execGrantReceived t port windowAt payload s) := by
  unfold execGrantReceived
  repeat' (first
    | with_reducible exact Kept.refl _
    | intro _
    | with_reducible apply answers_next
    | with_reducible apply State.consistFrame_kept
    | with_reducible apply State.clock_kept
    | with_reducible apply State.grant_kept
    | with_reducible apply answers_ite
    | with_reducible assumption)

theorem State.sendGrant_kept {z : State} (s : State) (k : Nat) (hz : Kept z s) : Kept z (State.sendGrant s k) := by
  unfold State.sendGrant
  repeat' (first
    | with_reducible assumption
    | intro _
    | with_reducible apply State.sendSide_kept
    | with_reducible apply kept_foldl
    | with_reducible apply kept_foldl_fst
    | with_reducible apply kept_foldr
    | with_reducible apply kept_ite
    | with_reducible apply kept_ite_fst
    | with_reducible apply kept_ite_snd
    | with_reducible apply kept_ite_third
    | fail_if_no_progress (with_reducible refine Kept.update ?_ rfl rfl rfl rfl rfl)
    | split)

/-! Machine/ImageLoad.lean -/

theorem Tab.wf_setList {α : Type} [DecidableEq α] (d : α) (l : List α) : ∀ (m : Tab α) (k : Nat), Tab.wf d m = true →
    Tab.wf d (Tab.setList d m k l) = true := by
  induction l with
  | nil => exact fun _ _ h => h
  | cons v l ih => exact fun m k h => ih _ _ (Tab.wf_set d k v h)

theorem State.burn_kept {z : State} (s : State) (off : Nat) (bs : Bytes) (hz : Kept z s) : Kept z (s.burn off bs) := by
  refine hz.trans ⟨rfl, rfl, Or.inl rfl, fun x => ?_⟩
  obtain ⟨x1, x2, x3, x4, x5, xs⟩ := x
  exact ⟨x1, x2, x3, x4, Tab.wf_setList _ _ _ _ x5, xs⟩

theorem State.setConfig_kept {z : State} (s : State) (addr : Nat) (v : BitVec 32) (hz : Kept z s) : Kept z (State.setConfig s addr v) := by
  unfold State.setConfig
  repeat' (first
    | with_reducible assumption
    | intro _
    | with_reducible apply State.wr_kept
    | with_reducible apply kept_foldl
    | with_reducible apply kept_foldl_fst
    | with_reducible apply kept_foldr
    | with_reducible apply kept_ite
    | with_reducible apply kept_ite_fst
    | with_reducible apply kept_ite_snd
    | with_reducible apply kept_ite_third
    | fail_if_no_progress (with_reducible refine Kept.update ?_ rfl rfl rfl rfl rfl)
    | split)

theorem State.setConfigs_kept {z : State} (s : State) (t : Tab (Option (BitVec 32))) (hz : Kept z s) : Kept z (State.setConfigs s t) := by
  unfold State.setConfigs
  repeat' (first
    | with_reducible assumption
    | intro _
    | with_reducible apply State.setConfig_kept
    | with_reducible apply kept_foldl_snd
    | with_reducible apply kept_foldl)

/-! Machine/Lanes.lean -/

theorem State.abandonGaps_kept {z : State} (s : State) (n vc : Nat) (hz : Kept z s) : Kept z (State.abandonGaps s n vc) := by
  unfold State.abandonGaps
  repeat' (first
    | with_reducible assumption
    | intro _
    | with_reducible apply State.setHop_kept
    | with_reducible apply State.deliverWhole_kept
    | with_reducible apply kept_foldl_snd
    | with_reducible apply kept_foldl
    | with_reducible apply kept_foldl_fst
    | with_reducible apply kept_foldr
    | with_reducible apply kept_ite
    | with_reducible apply kept_ite_fst
    | with_reducible apply kept_ite_snd
    | with_reducible apply kept_ite_third
    | fail_if_no_progress (with_reducible refine Kept.update ?_ rfl rfl rfl rfl rfl)
    | split
    | extract_lets)

theorem State.abandonPort_kept {z : State} (s : State) (n : Nat) (hz : Kept z s) : Kept z (State.abandonPort s n) := by
  unfold State.abandonPort
  repeat' (first
    | with_reducible assumption
    | intro _
    | with_reducible apply State.abandonGaps_kept)

theorem State.wrapReplay_kept {z : State} (s : State) (n m vc : Nat) (hz : Kept z s) : Kept z (State.wrapReplay s n m vc) := by
  unfold State.wrapReplay
  repeat' (first
    | with_reducible assumption
    | intro _
    | with_reducible apply State.asdCount_kept
    | with_reducible apply State.setHop_kept
    | with_reducible apply State.pushFront_kept
    | with_reducible apply kept_foldl
    | with_reducible apply kept_foldl_fst
    | with_reducible apply kept_foldr)

theorem State.wrapQueue_kept {z : State} (s : State) (n m tc : Nat) (hz : Kept z s) : Kept z (State.wrapQueue s n m tc) := by
  unfold State.wrapQueue
  repeat' (first
    | with_reducible assumption
    | intro _
    | with_reducible apply State.asdCount_kept
    | with_reducible apply State.setEntries_kept
    | with_reducible apply kept_foldl
    | with_reducible apply kept_foldl_fst
    | with_reducible apply kept_foldr
    | with_reducible apply kept_ite)

theorem State.wrapSide_kept {z : State} (s : State) (k : Nat) (hz : Kept z s) : Kept z (State.wrapSide s k) := by
  unfold State.wrapSide
  repeat' (first
    | with_reducible assumption
    | intro _
    | with_reducible apply State.wrapReplay_kept
    | with_reducible apply State.wrapQueue_kept
    | with_reducible apply kept_foldl_snd
    | with_reducible apply kept_foldl
    | with_reducible apply kept_foldl_fst
    | with_reducible apply kept_foldr
    | with_reducible apply kept_ite
    | with_reducible apply kept_ite_fst
    | with_reducible apply kept_ite_snd
    | with_reducible apply kept_ite_third
    | fail_if_no_progress (with_reducible refine Kept.update ?_ rfl rfl rfl rfl rfl)
    | split)

theorem State.sideLost_kept {z : State} (s : State) (k : Nat) (hz : Kept z s) : Kept z (State.sideLost s k) := by
  unfold State.sideLost
  repeat' (first
    | with_reducible assumption
    | intro _
    | with_reducible apply State.sideGoesDown_kept
    | with_reducible apply State.abandonPort_kept
    | with_reducible apply State.wrapSide_kept
    | with_reducible apply kept_foldl
    | with_reducible apply kept_foldl_fst
    | with_reducible apply kept_foldr
    | with_reducible apply kept_ite
    | with_reducible apply kept_ite_fst
    | with_reducible apply kept_ite_snd
    | with_reducible apply kept_ite_third
    | fail_if_no_progress (with_reducible refine Kept.update ?_ rfl rfl rfl rfl rfl)
    | split)

theorem State.gableReturn_kept {z : State} (s : State) (g : Nat) (hz : Kept z s) : Kept z (State.gableReturn s g) := by
  unfold State.gableReturn
  repeat' (first
    | with_reducible assumption
    | intro _
    | with_reducible apply State.pushFront_kept
    | with_reducible apply State.setGableLane_kept
    | with_reducible apply kept_foldl
    | with_reducible apply kept_foldl_fst
    | with_reducible apply kept_foldr)

theorem State.reportLoss_kept {z : State} (s : State) (n : Nat) (hz : Kept z s) : Kept z (State.reportLoss s n) := by
  unfold State.reportLoss
  repeat' (first
    | with_reducible assumption
    | intro _
    | with_reducible apply State.set0_kept
    | with_reducible apply State.raise_kept
    | with_reducible apply State.gableLost_kept
    | with_reducible apply State.gableReturn_kept
    | with_reducible apply State.sideLost_kept
    | with_reducible apply kept_foldl
    | with_reducible apply kept_foldl_fst
    | with_reducible apply kept_foldr
    | with_reducible apply kept_ite
    | with_reducible apply kept_ite_fst
    | with_reducible apply kept_ite_snd
    | with_reducible apply kept_ite_third
    | fail_if_no_progress (with_reducible refine Kept.update ?_ rfl rfl rfl rfl rfl)
    | split)

theorem State.portLost_kept {z : State} (s : State) (n to_ : Nat) (hz : Kept z s) : Kept z (State.portLost s n to_) := by
  unfold State.portLost
  repeat' (first
    | with_reducible assumption
    | intro _
    | with_reducible apply State.raise_kept
    | with_reducible apply State.dropRx_kept
    | with_reducible apply State.abortTx_kept
    | with_reducible apply State.reportLoss_kept
    | with_reducible apply State.setPst_kept
    | with_reducible apply State.portCount_kept
    | with_reducible apply State.sf_kept
    | with_reducible apply State.setRclk_kept
    | with_reducible apply kept_foldl
    | with_reducible apply kept_foldl_fst
    | with_reducible apply kept_foldr
    | with_reducible apply kept_ite)

theorem State.storeLat_kept {z : State} (s : State) (g : Nat) (lat : List (Nat × Nat)) (hz : Kept z s) : Kept z (State.storeLat s g lat) := by
  unfold State.storeLat
  repeat' (first
    | with_reducible assumption
    | intro _
    | with_reducible apply kept_foldl_snd
    | with_reducible apply kept_foldl
    | with_reducible apply kept_foldl_fst
    | with_reducible apply kept_foldr
    | with_reducible apply kept_ite
    | with_reducible apply kept_ite_fst
    | with_reducible apply kept_ite_snd
    | with_reducible apply kept_ite_third
    | fail_if_no_progress (with_reducible refine Kept.update ?_ rfl rfl rfl rfl rfl))

theorem execPortGroupCalibrationDone_answers (t : Nat) (group : Fin 33) (lat : Option (List (Nat × Nat))) (s : State) : Answers (s.clock t) (execPortGroupCalibrationDone t group lat s) := by
  unfold execPortGroupCalibrationDone
  repeat' (first
    | with_reducible exact Kept.refl _
    | intro _
    | with_reducible apply answers_next
    | with_reducible apply State.storeLat_kept
    | with_reducible apply State.laneFlag_kept
    | with_reducible apply State.assertErr_kept
    | with_reducible apply State.clock_kept
    | with_reducible apply State.sf_kept
    | with_reducible apply State.setPst_kept
    | with_reducible apply State.raise_kept
    | with_reducible apply kept_foldl_snd
    | with_reducible apply answers_ite
    | with_reducible assumption
    | intro _
    | with_reducible apply kept_foldl
    | with_reducible apply kept_foldl_fst
    | with_reducible apply kept_foldr
    | with_reducible apply kept_ite
    | with_reducible apply kept_ite_fst
    | with_reducible apply kept_ite_snd
    | with_reducible apply kept_ite_third
    | fail_if_no_progress (with_reducible refine Kept.update ?_ rfl rfl rfl rfl rfl)
    | split)

theorem execSignalDetected_answers (t : Nat) (port : PortRef) (s : State) : Answers (s.clock t) (execSignalDetected t port s) := by
  unfold execSignalDetected
  repeat' (first
    | with_reducible exact Kept.refl _
    | intro _
    | with_reducible apply answers_next
    | with_reducible apply State.setPst_kept
    | with_reducible apply State.clock_kept
    | with_reducible apply State.laneFlag_kept
    | with_reducible apply answers_ite)

theorem execTrainingDone_answers (t : Nat) (port : PortRef) (s : State) : Answers (s.clock t) (execTrainingDone t port s) := by
  unfold execTrainingDone
  repeat' (first
    | with_reducible exact Kept.refl _
    | intro _
    | with_reducible apply answers_next
    | with_reducible apply State.clock_kept
    | with_reducible apply State.setPst_kept
    | with_reducible apply answers_ite)

theorem execTrainTimeout_answers (t : Nat) (port : PortRef) (s : State) : Answers (s.clock t) (execTrainTimeout t port s) := by
  unfold execTrainTimeout
  repeat' (first
    | with_reducible exact Kept.refl _
    | intro _
    | with_reducible apply answers_next
    | with_reducible apply State.portCount_kept
    | with_reducible apply State.clock_kept
    | with_reducible apply State.setPst_kept
    | with_reducible apply answers_ite)

theorem State.setLocks_kept {z : State} (s : State) (n v : Nat) (hz : Kept z s) : Kept z (State.setLocks s n v) := by
  unfold State.setLocks
  repeat' (first
    | with_reducible assumption
    | intro _
    | with_reducible apply State.sf_kept
    | with_reducible apply State.laneFlag_kept
    | with_reducible apply kept_foldl
    | with_reducible apply kept_foldl_fst
    | with_reducible apply kept_foldr
    | with_reducible apply kept_ite)

theorem execLockAchieved_answers (t : Nat) (port : PortRef) (s : State) : Answers (s.clock t) (execLockAchieved t port s) := by
  unfold execLockAchieved
  repeat' (first
    | with_reducible exact Kept.refl _
    | intro _
    | with_reducible apply answers_next
    | with_reducible apply State.setRclk_kept
    | with_reducible apply State.setPst_kept
    | with_reducible apply State.clock_kept
    | with_reducible apply State.setLocks_kept
    | with_reducible apply answers_ite)

theorem execLockTimeout_answers (t : Nat) (port : PortRef) (s : State) : Answers (s.clock t) (execLockTimeout t port s) := by
  unfold execLockTimeout
  repeat' (first
    | with_reducible exact Kept.refl _
    | intro _
    | with_reducible apply answers_next
    | with_reducible apply State.portCount_kept
    | with_reducible apply State.clock_kept
    | with_reducible apply State.setPst_kept
    | with_reducible apply answers_ite)

theorem State.gableUp_kept {z : State} (s : State) (g v : Nat) (hz : Kept z s) : Kept z (State.gableUp s g v) := by
  unfold State.gableUp
  repeat' (first
    | with_reducible assumption
    | intro _
    | with_reducible apply State.set0_kept)

theorem execHoldExpiry_answers (t : Nat) (port : PortRef) (s : State) : Answers (s.clock t) (execHoldExpiry t port s) := by
  unfold execHoldExpiry
  repeat' (first
    | with_reducible exact Kept.refl _
    | intro _
    | with_reducible apply answers_next
    | with_reducible apply State.laneFlag_kept
    | with_reducible apply State.raise_kept
    | with_reducible apply State.clock_kept
    | with_reducible apply State.setPst_kept
    | with_reducible apply State.sf_kept
    | with_reducible apply State.gableUp_kept
    | with_reducible apply answers_ite
    | with_reducible assumption
    | intro _
    | with_reducible apply kept_foldl
    | with_reducible apply kept_foldl_fst
    | with_reducible apply kept_foldr
    | with_reducible apply kept_ite)

theorem execHoldBreak_answers (t : Nat) (port : PortRef) (s : State) : Answers (s.clock t) (execHoldBreak t port s) := by
  unfold execHoldBreak
  repeat' (first
    | with_reducible exact Kept.refl _
    | intro _
    | with_reducible apply answers_next
    | with_reducible apply State.setRclk_kept
    | with_reducible apply State.setPst_kept
    | with_reducible apply State.clock_kept
    | with_reducible apply State.setLocks_kept
    | with_reducible apply answers_ite)

theorem execPortDown_answers (t : Nat) (port : PortRef) (localFault : Bool) (s : State) : Answers (s.clock t) (execPortDown t port localFault s) := by
  unfold execPortDown
  repeat' (first
    | with_reducible exact Kept.refl _
    | intro _
    | with_reducible apply answers_next
    | with_reducible apply State.clock_kept
    | with_reducible apply State.setLocks_kept
    | with_reducible apply State.sf_kept
    | with_reducible apply State.portLost_kept
    | with_reducible apply answers_ite
    | with_reducible assumption
    | intro _
    | with_reducible apply kept_foldl
    | with_reducible apply kept_foldl_fst
    | with_reducible apply kept_foldr
    | with_reducible apply kept_ite)

theorem execRemoteFaultStart_answers (t : Nat) (port : PortRef) (s : State) : Answers (s.clock t) (execRemoteFaultStart t port s) := by
  unfold execRemoteFaultStart
  repeat' (first
    | with_reducible exact Kept.refl _
    | intro _
    | with_reducible apply answers_next
    | with_reducible apply State.abortTx_kept
    | with_reducible apply State.gableUp_kept
    | with_reducible apply State.gableLost_kept
    | with_reducible apply State.clock_kept
    | with_reducible apply State.sf_kept
    | with_reducible apply State.sideLost_kept
    | with_reducible apply answers_ite
    | with_reducible assumption
    | intro _
    | with_reducible apply kept_foldl
    | with_reducible apply kept_foldl_fst
    | with_reducible apply kept_foldr
    | with_reducible apply kept_ite
    | with_reducible apply kept_ite_fst
    | with_reducible apply kept_ite_snd
    | with_reducible apply kept_ite_third
    | fail_if_no_progress (with_reducible refine Kept.update ?_ rfl rfl rfl rfl rfl)
    | split)

theorem execRemoteFaultEnd_answers (t : Nat) (port : PortRef) (s : State) : Answers (s.clock t) (execRemoteFaultEnd t port s) := by
  unfold execRemoteFaultEnd
  repeat' (first
    | with_reducible exact Kept.refl _
    | intro _
    | with_reducible apply answers_next
    | with_reducible apply State.clock_kept
    | with_reducible apply State.sf_kept
    | with_reducible apply answers_ite
    | with_reducible assumption
    | intro _
    | with_reducible apply kept_foldl
    | with_reducible apply kept_foldl_fst
    | with_reducible apply kept_foldr
    | with_reducible apply kept_ite
    | with_reducible apply kept_ite_fst
    | with_reducible apply kept_ite_snd
    | with_reducible apply kept_ite_third
    | fail_if_no_progress (with_reducible refine Kept.update ?_ rfl rfl rfl rfl rfl))

theorem execSdWindowEnd_answers (t : Nat) (port : Fin 256) (s : State) : Answers (s.clock t) (execSdWindowEnd t port s) := by
  unfold execSdWindowEnd
  repeat' (first
    | with_reducible exact Kept.refl _
    | intro _
    | with_reducible apply answers_next
    | with_reducible apply State.raise_kept
    | with_reducible apply State.clock_kept
    | with_reducible apply State.setPst_kept
    | with_reducible apply answers_ite
    | with_reducible assumption
    | intro _
    | with_reducible apply kept_foldl
    | with_reducible apply kept_foldl_fst
    | with_reducible apply kept_foldr
    | with_reducible apply kept_ite
    | with_reducible apply kept_ite_fst
    | with_reducible apply kept_ite_snd
    | with_reducible apply kept_ite_third
    | fail_if_no_progress (with_reducible refine Kept.update ?_ rfl rfl rfl rfl rfl))

theorem State.heavy_kept {z : State} (s : State) (g : Nat) (hz : Kept z s) : Kept z (State.heavy s g) := by
  unfold State.heavy
  repeat' (first
    | with_reducible assumption
    | intro _
    | with_reducible apply State.wr64_kept
    | with_reducible apply State.raise_kept
    | with_reducible apply State.sf_kept
    | with_reducible apply kept_foldl
    | with_reducible apply kept_foldl_fst
    | with_reducible apply kept_foldr
    | with_reducible apply kept_ite
    | with_reducible apply kept_ite_fst
    | with_reducible apply kept_ite_snd
    | with_reducible apply kept_ite_third
    | fail_if_no_progress (with_reducible refine Kept.update ?_ rfl rfl rfl rfl rfl))

theorem State.countCodeword_kept {z : State} (s : State) (l n corrected : Nat) (unc : Bool) (hz : Kept z s) : Kept z (State.countCodeword s l n corrected unc) := by
  unfold State.countCodeword
  repeat' (first
    | with_reducible assumption
    | intro _
    | with_reducible apply State.portCount_kept
    | with_reducible apply State.drawFree_kept
    | with_reducible apply State.bumpBy_kept
    | with_reducible apply State.peakF_kept
    | with_reducible apply kept_foldl
    | with_reducible apply kept_foldl_fst
    | with_reducible apply kept_foldr
    | with_reducible apply kept_ite
    | with_reducible apply kept_ite_fst
    | with_reducible apply kept_ite_snd
    | with_reducible apply kept_ite_third
    | fail_if_no_progress (with_reducible refine Kept.update ?_ rfl rfl rfl rfl rfl))

theorem execCodewordReceived_answers (t : Nat) (lane : PortRef) (corrected : Nat) (uncorrectable : Bool) (s : State) : Answers (s.clock t) (execCodewordReceived t lane corrected uncorrectable s) := by
  unfold execCodewordReceived
  repeat' (first
    | with_reducible exact Kept.refl _
    | intro _
    | with_reducible apply answers_next
    | with_reducible apply State.clock_kept
    | with_reducible apply State.portCount_kept
    | with_reducible apply State.countCodeword_kept
    | with_reducible apply State.setRx_kept
    | with_reducible apply State.heavy_kept
    | with_reducible apply State.portLost_kept
    | with_reducible apply answers_ite
    | with_reducible assumption
    | intro _
    | with_reducible apply kept_foldl
    | with_reducible apply kept_foldl_fst
    | with_reducible apply kept_foldr
    | with_reducible apply kept_ite
    | with_reducible apply kept_ite_fst
    | with_reducible apply kept_ite_snd
    | with_reducible apply kept_ite_third
    | fail_if_no_progress (with_reducible refine Kept.update ?_ rfl rfl rfl rfl rfl)
    | split
    | extract_lets)

theorem execBurstEnd_answers (t : Nat) (group : Fin 32) (s : State) : Answers (s.clock t) (execBurstEnd t group s) := by
  unfold execBurstEnd
  repeat' (first
    | with_reducible exact Kept.refl _
    | intro _
    | with_reducible apply answers_next
    | with_reducible apply State.wr64_kept
    | with_reducible apply State.bump_kept
    | with_reducible apply State.raise_kept
    | with_reducible apply State.clock_kept
    | with_reducible apply State.sf_kept
    | with_reducible apply answers_ite)

theorem State.prbsCount_kept {z : State} (s : State) (g l : Nat) (hz : Kept z s) : Kept z (State.prbsCount s g l) := by
  unfold State.prbsCount
  repeat' (first
    | with_reducible assumption
    | intro _
    | with_reducible apply State.drawFree_kept
    | with_reducible apply State.bumpBy_kept
    | with_reducible apply kept_foldl
    | with_reducible apply kept_foldl_fst
    | with_reducible apply kept_foldr
    | with_reducible apply kept_ite)

theorem State.laneTest_kept {z : State} (s : State) (g l : Nat) (v : BitVec 32) (hz : Kept z s) : Kept z (State.laneTest s g l v) := by
  unfold State.laneTest
  repeat' (first
    | with_reducible assumption
    | intro _
    | with_reducible apply State.raise_kept
    | with_reducible apply State.prbsCount_kept
    | with_reducible apply State.wr_kept
    | with_reducible apply State.portLost_kept
    | with_reducible apply State.portStart_kept
    | with_reducible apply kept_foldl
    | with_reducible apply kept_foldl_fst
    | with_reducible apply kept_foldr
    | with_reducible apply kept_ite
    | with_reducible apply kept_ite_fst
    | with_reducible apply kept_ite_snd
    | with_reducible apply kept_ite_third
    | fail_if_no_progress (with_reducible refine Kept.update ?_ rfl rfl rfl rfl rfl)
    | split
    | extract_lets)

theorem execLaneTestWrite_answers (t : Nat) (party : Party) (group : Fin 32) (lane : Fin 8) (value : BitVec 32) (s : State) : Answers (s.clock t) (execLaneTestWrite t party group lane value s) := by
  unfold execLaneTestWrite
  repeat' (first
    | with_reducible exact Kept.refl _
    | intro _
    | with_reducible apply answers_next
    | with_reducible apply State.hostWrite_kept
    | with_reducible apply State.laneTest_kept)

theorem execHelloLost_answers (t : Nat) (side : Fin 8) (s : State) : Answers (s.clock t) (execHelloLost t side s) := by
  unfold execHelloLost
  repeat' (first
    | with_reducible exact Kept.refl _
    | intro _
    | with_reducible apply answers_next
    | with_reducible apply State.raise_kept
    | with_reducible apply State.clock_kept
    | with_reducible apply State.hello_kept
    | with_reducible apply State.sideLost_kept
    | with_reducible apply answers_ite)

/-! Machine/Modules.lean -/

theorem State.clusterPut_kept {z : State} (s : State) (b : Nat) (r : Bytes) (hz : Kept z s) : Kept z (State.clusterPut s b r) := by
  unfold State.clusterPut
  repeat' (first
    | with_reducible assumption
    | intro _
    | with_reducible apply State.putItem_kept)

theorem State.regulatorPoll_kept {z : State} (s : State) (hz : Kept z s) : Kept z (State.regulatorPoll s) := by
  unfold State.regulatorPoll
  repeat' (first
    | with_reducible assumption
    | intro _
    | with_reducible apply State.clusterPut_kept
    | with_reducible apply kept_foldl_snd
    | with_reducible apply kept_foldl
    | with_reducible apply kept_foldl_fst
    | with_reducible apply kept_foldr
    | with_reducible apply kept_ite)

theorem State.cmis_kept {z : State} (s : State) (g m : Nat) (acc : List (Option Nat × Nat × Nat × Bytes)) (hz : Kept z s) : Kept z (State.cmis s g m acc) := by
  unfold State.cmis
  repeat' (first
    | with_reducible assumption
    | intro _
    | with_reducible apply State.clusterPut_kept
    | with_reducible apply kept_foldl_snd
    | with_reducible apply kept_foldl)

theorem State.selectApp_kept {z : State} (s : State) (g m : Nat) (apps : List ModuleApp) (hz : Kept z s) : Kept z (State.selectApp s g m apps) := by
  unfold State.selectApp
  repeat' (first
    | with_reducible assumption
    | intro _
    | with_reducible apply State.sf_kept
    | with_reducible apply State.cmis_kept
    | with_reducible apply State.raise_kept
    | with_reducible apply kept_foldl_snd
    | with_reducible apply kept_foldl
    | with_reducible apply kept_foldl_fst
    | with_reducible apply kept_foldr
    | with_reducible apply kept_ite
    | with_reducible apply kept_ite_fst
    | with_reducible apply kept_ite_snd
    | with_reducible apply kept_ite_third
    | fail_if_no_progress (with_reducible refine Kept.update ?_ rfl rfl rfl rfl rfl)
    | split)

theorem execModuleFound_answers (t : Nat) (group : Fin 32) (slot : Fin 8) (apps : List ModuleApp) (s : State) : Answers (s.clock t) (execModuleFound t group slot apps s) := by
  unfold execModuleFound
  repeat' (first
    | with_reducible exact Kept.refl _
    | intro _
    | with_reducible apply answers_next
    | with_reducible apply State.selectApp_kept
    | with_reducible apply State.clock_kept
    | with_reducible apply State.cmis_kept
    | with_reducible apply answers_ite
    | with_reducible assumption
    | intro _
    | with_reducible apply kept_foldl
    | with_reducible apply kept_foldl_fst
    | with_reducible apply kept_foldr
    | with_reducible apply kept_ite
    | with_reducible apply kept_ite_fst
    | with_reducible apply kept_ite_snd
    | with_reducible apply kept_ite_third
    | fail_if_no_progress (with_reducible refine Kept.update ?_ rfl rfl rfl rfl rfl))

theorem State.reselectApps_kept {z : State} (s : State) (g : Nat) (hz : Kept z s) : Kept z (State.reselectApps s g) := by
  unfold State.reselectApps
  repeat' (first
    | with_reducible assumption
    | intro _
    | with_reducible apply State.selectApp_kept
    | with_reducible apply kept_foldl_snd
    | with_reducible apply kept_foldl)

theorem execModulePoll_answers (t : Nat) (group : Fin 32) (slot : Fin 8) (alarm : Bool) (states : ModuleStates) (temp : BitVec 8) (s : State) : Answers (s.clock t) (execModulePoll t group slot alarm states temp s) := by
  unfold execModulePoll
  repeat' (first
    | with_reducible exact Kept.refl _
    | intro _
    | with_reducible apply answers_next
    | with_reducible apply State.sf_kept
    | with_reducible apply State.cmis_kept
    | with_reducible apply State.clock_kept
    | with_reducible apply State.raise_kept
    | with_reducible apply kept_foldl_snd
    | with_reducible apply answers_ite
    | with_reducible assumption
    | intro _
    | with_reducible apply kept_foldl
    | with_reducible apply kept_foldl_fst
    | with_reducible apply kept_foldr
    | with_reducible apply kept_ite
    | with_reducible apply kept_ite_fst
    | with_reducible apply kept_ite_snd
    | with_reducible apply kept_ite_third
    | fail_if_no_progress (with_reducible refine Kept.update ?_ rfl rfl rfl rfl rfl))

theorem execModuleRemoved_answers (t : Nat) (group : Fin 32) (slot : Fin 8) (s : State) : Answers (s.clock t) (execModuleRemoved t group slot s) := by
  unfold execModuleRemoved
  repeat' (first
    | with_reducible exact Kept.refl _
    | intro _
    | with_reducible apply answers_next
    | with_reducible apply State.clock_kept
    | with_reducible apply State.wr_kept
    | with_reducible apply State.portLost_kept
    | with_reducible apply kept_foldl_snd
    | with_reducible apply answers_ite
    | with_reducible assumption
    | intro _
    | with_reducible apply kept_foldl
    | with_reducible apply kept_foldl_fst
    | with_reducible apply kept_foldr
    | with_reducible apply kept_ite
    | with_reducible apply kept_ite_fst
    | with_reducible apply kept_ite_snd
    | with_reducible apply kept_ite_third
    | fail_if_no_progress (with_reducible refine Kept.update ?_ rfl rfl rfl rfl rfl))

/-! Machine/TickEngine.lean -/

theorem State.endTask_kept {z : State} (s : State) (c : Nat) (hz : Kept z s) : Kept z (State.endTask s c) := by
  unfold State.endTask
  repeat' (first
    | with_reducible assumption
    | intro _
    | with_reducible apply State.trace_kept
    | with_reducible apply State.setChan_kept
    | with_reducible apply kept_foldl
    | with_reducible apply kept_foldl_fst
    | with_reducible apply kept_foldr
    | with_reducible apply kept_ite
    | with_reducible apply kept_ite_fst
    | with_reducible apply kept_ite_snd
    | with_reducible apply kept_ite_third
    | fail_if_no_progress (with_reducible refine Kept.update ?_ rfl rfl rfl rfl rfl)
    | split)

theorem State.vexec_kept {z : State} (s : State) (c op : Nat) (f : VChan → BitVec 64 → VChan) (hz : Kept z s) : Kept z (State.vexec s c op f) := by
  unfold State.vexec
  repeat' (first
    | with_reducible assumption
    | intro _
    | with_reducible apply State.setChan_kept
    | with_reducible apply kept_foldl
    | with_reducible apply kept_foldl_fst
    | with_reducible apply kept_foldr
    | with_reducible apply kept_ite
    | with_reducible apply kept_ite_fst
    | with_reducible apply kept_ite_snd
    | with_reducible apply kept_ite_third
    | fail_if_no_progress (with_reducible refine Kept.update ?_ rfl rfl rfl rfl rfl)
    | split
    | extract_lets)

theorem State.vreg_kept {z : State} (s : State) (c op : Nat) (f : VChan → BitVec 64 → BitVec 32) (hz : Kept z s) : Kept z (State.vreg s c op f) := by
  unfold State.vreg
  repeat' (first
    | with_reducible assumption
    | intro _
    | with_reducible apply State.vexec_kept)

theorem execMov_answers (vc : Fin 3) (s : State) : Answers s (execMov vc s) := by
  unfold execMov
  repeat' (first
    | with_reducible exact Kept.refl _
    | intro _
    | with_reducible apply answers_next
    | with_reducible apply State.vreg_kept)

theorem execAdd_answers (vc : Fin 3) (s : State) : Answers s (execAdd vc s) := by
  unfold execAdd
  repeat' (first
    | with_reducible exact Kept.refl _
    | intro _
    | with_reducible apply answers_next
    | with_reducible apply State.vreg_kept)

theorem execSub_answers (vc : Fin 3) (s : State) : Answers s (execSub vc s) := by
  unfold execSub
  repeat' (first
    | with_reducible exact Kept.refl _
    | intro _
    | with_reducible apply answers_next
    | with_reducible apply State.vreg_kept)

theorem execAndOp_answers (vc : Fin 3) (s : State) : Answers s (execAndOp vc s) := by
  unfold execAndOp
  repeat' (first
    | with_reducible exact Kept.refl _
    | intro _
    | with_reducible apply answers_next
    | with_reducible apply State.vreg_kept)

theorem execOrOp_answers (vc : Fin 3) (s : State) : Answers s (execOrOp vc s) := by
  unfold execOrOp
  repeat' (first
    | with_reducible exact Kept.refl _
    | intro _
    | with_reducible apply answers_next
    | with_reducible apply State.vreg_kept)

theorem execXorOp_answers (vc : Fin 3) (s : State) : Answers s (execXorOp vc s) := by
  unfold execXorOp
  repeat' (first
    | with_reducible exact Kept.refl _
    | intro _
    | with_reducible apply answers_next
    | with_reducible apply State.vreg_kept)

theorem execShl_answers (vc : Fin 3) (s : State) : Answers s (execShl vc s) := by
  unfold execShl
  repeat' (first
    | with_reducible exact Kept.refl _
    | intro _
    | with_reducible apply answers_next
    | with_reducible apply State.vreg_kept)

theorem execShr_answers (vc : Fin 3) (s : State) : Answers s (execShr vc s) := by
  unfold execShr
  repeat' (first
    | with_reducible exact Kept.refl _
    | intro _
    | with_reducible apply answers_next
    | with_reducible apply State.vreg_kept)

theorem execCmp_answers (vc : Fin 3) (s : State) : Answers s (execCmp vc s) := by
  unfold execCmp
  repeat' (first
    | with_reducible exact Kept.refl _
    | intro _
    | with_reducible apply answers_next
    | with_reducible apply State.vreg_kept)

theorem execSel_answers (vc : Fin 3) (s : State) : Answers s (execSel vc s) := by
  unfold execSel
  repeat' (first
    | with_reducible exact Kept.refl _
    | intro _
    | with_reducible apply answers_next
    | with_reducible apply State.vreg_kept)

theorem execSatadd_answers (vc : Fin 3) (s : State) : Answers s (execSatadd vc s) := by
  unfold execSatadd
  repeat' (first
    | with_reducible exact Kept.refl _
    | intro _
    | with_reducible apply answers_next
    | with_reducible apply State.vreg_kept)

theorem execMul_answers (vc : Fin 3) (s : State) : Answers s (execMul vc s) := by
  unfold execMul
  repeat' (first
    | with_reducible exact Kept.refl _
    | intro _
    | with_reducible apply answers_next
    | with_reducible apply State.vreg_kept)

theorem execDiv_answers (vc : Fin 3) (s : State) : Answers s (execDiv vc s) := by
  unfold execDiv
  repeat' (first
    | with_reducible exact Kept.refl _
    | intro _
    | with_reducible apply answers_next
    | with_reducible apply State.vreg_kept)

theorem execRem_answers (vc : Fin 3) (s : State) : Answers s (execRem vc s) := by
  unfold execRem
  repeat' (first
    | with_reducible exact Kept.refl _
    | intro _
    | with_reducible apply answers_next
    | with_reducible apply State.vreg_kept)

theorem execLd_answers (vc : Fin 3) (s : State) : Answers s (execLd vc s) := by
  unfold execLd
  repeat' (first
    | with_reducible exact Kept.refl _
    | intro _
    | with_reducible apply answers_next
    | with_reducible apply State.vreg_kept)

theorem execSt_answers (vc : Fin 3) (s : State) : Answers s (execSt vc s) := by
  unfold execSt
  repeat' (first
    | with_reducible exact Kept.refl _
    | intro _
    | with_reducible apply answers_next
    | with_reducible apply State.vexec_kept
    | with_reducible apply State.raise_kept
    | with_reducible apply answers_ite
    | with_reducible assumption
    | intro _
    | with_reducible apply kept_foldl
    | with_reducible apply kept_foldl_fst
    | with_reducible apply kept_foldr
    | with_reducible apply kept_ite)

theorem execTld_answers (vc : Fin 3) (s : State) : Answers s (execTld vc s) := by
  unfold execTld
  repeat' (first
    | with_reducible exact Kept.refl _
    | intro _
    | with_reducible apply answers_next
    | with_reducible apply State.vexec_kept)

theorem execTsub_answers (vc : Fin 3) (s : State) : Answers s (execTsub vc s) := by
  unfold execTsub
  repeat' (first
    | with_reducible exact Kept.refl _
    | intro _
    | with_reducible apply answers_next
    | with_reducible apply State.vreg_kept)

theorem execTcmp_answers (vc : Fin 3) (s : State) : Answers s (execTcmp vc s) := by
  unfold execTcmp
  repeat' (first
    | with_reducible exact Kept.refl _
    | intro _
    | with_reducible apply answers_next
    | with_reducible apply State.vreg_kept)

theorem execBrf_answers (vc : Fin 3) (s : State) : Answers s (execBrf vc s) := by
  unfold execBrf
  repeat' (first
    | with_reducible exact Kept.refl _
    | intro _
    | with_reducible apply answers_next
    | with_reducible apply State.vexec_kept)

theorem execLoopOp_answers (vc : Fin 3) (s : State) : Answers s (execLoopOp vc s) := by
  unfold execLoopOp
  repeat' (first
    | with_reducible exact Kept.refl _
    | intro _
    | with_reducible apply answers_next
    | with_reducible apply State.vexec_kept)

theorem execEmitOp_answers (vc : Fin 3) (s : State) : Answers s (execEmitOp vc s) := by
  unfold execEmitOp
  repeat' (first
    | with_reducible exact Kept.refl _
    | intro _
    | with_reducible apply answers_next
    | with_reducible apply State.vexec_kept)

theorem execEndOp_answers (vc : Fin 3) (s : State) : Answers s (execEndOp vc s) := by
  unfold execEndOp
  repeat' (first
    | with_reducible exact Kept.refl _
    | intro _
    | with_reducible apply answers_next
    | with_reducible apply State.endTask_kept
    | with_reducible apply State.setChan_kept
    | with_reducible apply answers_ite
    | with_reducible assumption
    | intro _
    | with_reducible apply kept_foldl
    | with_reducible apply kept_foldl_fst
    | with_reducible apply kept_foldr
    | with_reducible apply kept_ite
    | with_reducible apply kept_ite_fst
    | with_reducible apply kept_ite_snd
    | with_reducible apply kept_ite_third
    | fail_if_no_progress (with_reducible refine Kept.update ?_ rfl rfl rfl rfl rfl)
    | split
    | extract_lets)

theorem execInvalidInstruction_answers (vc : Fin 3) (s : State) : Answers s (execInvalidInstruction vc s) := by
  unfold execInvalidInstruction
  repeat' (first
    | with_reducible exact Kept.refl _
    | intro _
    | with_reducible apply answers_next
    | with_reducible apply State.endTask_kept
    | with_reducible apply State.raise_kept
    | with_reducible apply State.setChan_kept
    | with_reducible apply answers_ite)

theorem execTaskStart_answers (t : Nat) (s : State) : Answers (s.clock t) (execTaskStart t s) := by
  unfold execTaskStart
  repeat' (first
    | with_reducible exact Kept.refl _
    | intro _
    | with_reducible apply answers_next
    | with_reducible apply State.clock_kept
    | with_reducible apply State.setChan_kept
    | with_reducible apply State.trace_kept
    | with_reducible apply kept_foldl_snd
    | with_reducible apply answers_ite
    | with_reducible assumption
    | intro _
    | with_reducible apply kept_foldl
    | with_reducible apply kept_foldl_fst
    | with_reducible apply kept_foldr
    | with_reducible apply kept_ite
    | with_reducible apply kept_ite_fst
    | with_reducible apply kept_ite_snd
    | with_reducible apply kept_ite_third
    | fail_if_no_progress (with_reducible refine Kept.update ?_ rfl rfl rfl rfl rfl)
    | split)

theorem execTaskWcet_answers (t : Nat) (vc : Fin 3) (s : State) : Answers (s.clock t) (execTaskWcet t vc s) := by
  unfold execTaskWcet
  repeat' (first
    | with_reducible exact Kept.refl _
    | intro _
    | with_reducible apply answers_next
    | with_reducible apply State.raise_kept
    | with_reducible apply State.clock_kept
    | with_reducible apply State.setChan_kept
    | with_reducible apply answers_ite
    | with_reducible assumption
    | intro _
    | with_reducible apply kept_foldl
    | with_reducible apply kept_foldl_fst
    | with_reducible apply kept_foldr
    | with_reducible apply kept_ite
    | with_reducible apply kept_ite_fst
    | with_reducible apply kept_ite_snd
    | with_reducible apply kept_ite_third
    | fail_if_no_progress (with_reducible refine Kept.update ?_ rfl rfl rfl rfl rfl)
    | split
    | extract_lets)

theorem State.recordCycles_kept {z : State} (s : State) (hz : Kept z s) : Kept z (State.recordCycles s) := by
  unfold State.recordCycles
  repeat' (first
    | with_reducible assumption
    | intro _
    | with_reducible apply State.peakF_kept
    | with_reducible apply State.set0_kept)

theorem State.overrunTick_kept {z : State} (s : State) (hz : Kept z s) : Kept z (State.overrunTick s) := by
  unfold State.overrunTick
  repeat' (first
    | with_reducible assumption
    | intro _
    | with_reducible apply State.setChan_kept
    | with_reducible apply kept_foldl_snd
    | with_reducible apply kept_foldl
    | with_reducible apply kept_foldl_fst
    | with_reducible apply kept_foldr
    | with_reducible apply kept_ite
    | with_reducible apply kept_ite_fst
    | with_reducible apply kept_ite_snd
    | with_reducible apply kept_ite_third
    | fail_if_no_progress (with_reducible refine Kept.update ?_ rfl rfl rfl rfl rfl))

theorem State.countDissent_kept {z : State} (s : State) (c : Nat) (out : VOut) (copy : Bool) (hz : Kept z s) : Kept z (State.countDissent s c out copy) := by
  unfold State.countDissent
  repeat' (first
    | with_reducible assumption
    | intro _
    | with_reducible apply State.raise_kept
    | with_reducible apply State.assertErr_kept
    | with_reducible apply State.setChan_kept
    | with_reducible apply kept_foldl
    | with_reducible apply kept_foldl_fst
    | with_reducible apply kept_foldr
    | with_reducible apply kept_ite)

theorem State.stopCounts_kept {z : State} (s : State) (c : Nat) (hz : Kept z s) : Kept z (State.stopCounts s c) := by
  unfold State.stopCounts
  repeat' (first
    | with_reducible assumption
    | intro _
    | with_reducible apply State.countDissent_kept)

theorem execTaskDeadline_answers (t : Nat) (s : State) : Answers (s.clock t) (execTaskDeadline t s) := by
  unfold execTaskDeadline
  repeat' (first
    | with_reducible exact Kept.refl _
    | intro _
    | with_reducible apply answers_next
    | with_reducible apply State.stopCounts_kept
    | with_reducible apply State.raise_kept
    | with_reducible apply State.bumpF_kept
    | with_reducible apply State.assertErr_kept
    | with_reducible apply State.clock_kept
    | with_reducible apply State.setChan_kept
    | with_reducible apply State.recordCycles_kept
    | with_reducible apply State.overrunTick_kept
    | with_reducible apply kept_foldl_snd
    | with_reducible apply answers_ite
    | with_reducible assumption
    | intro _
    | with_reducible apply kept_foldl
    | with_reducible apply kept_foldl_fst
    | with_reducible apply kept_foldr
    | with_reducible apply kept_ite
    | with_reducible apply kept_ite_fst
    | with_reducible apply kept_ite_snd
    | with_reducible apply kept_ite_third
    | fail_if_no_progress (with_reducible refine Kept.update ?_ rfl rfl rfl rfl rfl))

theorem State.dissent_kept {z : State} (s : State) (c : Nat) (hz : Kept z s) : Kept z (State.dissent s c) := by
  unfold State.dissent
  repeat' (first
    | with_reducible assumption
    | intro _
    | with_reducible apply State.countDissent_kept)

theorem State.rejoin_kept {z : State} (s : State) (c : Nat) (hz : Kept z s) : Kept z (State.rejoin s c) := by
  unfold State.rejoin
  repeat' (first
    | with_reducible assumption
    | intro _
    | with_reducible apply State.bump_kept
    | with_reducible apply State.setChan_kept
    | with_reducible apply State.raise_kept
    | with_reducible apply kept_foldl
    | with_reducible apply kept_foldl_fst
    | with_reducible apply kept_foldr
    | with_reducible apply kept_ite
    | with_reducible apply kept_ite_fst
    | with_reducible apply kept_ite_snd
    | with_reducible apply kept_ite_third
    | fail_if_no_progress (with_reducible refine Kept.update ?_ rfl rfl rfl rfl rfl)
    | split)

theorem State.afterTest_kept {z : State} (s : State) (c : Nat) (hz : Kept z s) : Kept z (State.afterTest s c) := by
  unfold State.afterTest
  repeat' (first
    | with_reducible assumption
    | intro _
    | with_reducible apply State.setChan_kept
    | with_reducible apply kept_foldl
    | with_reducible apply kept_foldl_fst
    | with_reducible apply kept_foldr
    | with_reducible apply kept_ite
    | with_reducible apply kept_ite_fst
    | with_reducible apply kept_ite_snd
    | with_reducible apply kept_ite_third
    | fail_if_no_progress (with_reducible refine Kept.update ?_ rfl rfl rfl rfl rfl)
    | split)

theorem execVcRejoin_answers (t : Nat) (vc : Fin 3) (s : State) : Answers (s.clock t) (execVcRejoin t vc s) := by
  unfold execVcRejoin
  repeat' (first
    | with_reducible exact Kept.refl _
    | intro _
    | with_reducible apply answers_next
    | with_reducible apply State.clock_kept
    | with_reducible apply State.rejoin_kept
    | with_reducible apply answers_ite
    | with_reducible assumption
    | intro _
    | with_reducible apply kept_foldl
    | with_reducible apply kept_foldl_fst
    | with_reducible apply kept_foldr
    | with_reducible apply kept_ite
    | with_reducible apply kept_ite_fst
    | with_reducible apply kept_ite_snd
    | with_reducible apply kept_ite_third
    | fail_if_no_progress (with_reducible refine Kept.update ?_ rfl rfl rfl rfl rfl)
    | split
    | extract_lets)

theorem execVcSelfTest_answers (test : At Bool) (s : State) : Answers (s.clock test.t) (execVcSelfTest test s) := by
  unfold execVcSelfTest
  repeat' (first
    | with_reducible exact Kept.refl _
    | intro _
    | with_reducible apply answers_next
    | with_reducible apply State.clock_kept
    | with_reducible apply State.setChan_kept
    | with_reducible apply answers_ite
    | with_reducible assumption
    | intro _
    | with_reducible apply kept_foldl
    | with_reducible apply kept_foldl_fst
    | with_reducible apply kept_foldr
    | with_reducible apply kept_ite
    | with_reducible apply kept_ite_fst
    | with_reducible apply kept_ite_snd
    | with_reducible apply kept_ite_third
    | fail_if_no_progress (with_reducible refine Kept.update ?_ rfl rfl rfl rfl rfl))

theorem State.countMiss_kept {z : State} (s : State) (hz : Kept z s) : Kept z (State.countMiss s) := by
  unfold State.countMiss
  repeat' (first
    | with_reducible assumption
    | intro _
    | with_reducible apply State.bumpF_kept
    | with_reducible apply kept_foldl
    | with_reducible apply kept_foldl_fst
    | with_reducible apply kept_foldr
    | with_reducible apply kept_ite)

theorem execImageAssemblyClose_answers (t : Nat) (s : State) : Answers (s.clock t) (execImageAssemblyClose t s) := by
  unfold execImageAssemblyClose
  repeat' (first
    | with_reducible exact Kept.refl _
    | intro _
    | with_reducible apply answers_next
    | with_reducible apply State.clock_kept
    | with_reducible apply State.complete_kept
    | with_reducible apply State.setChan_kept
    | with_reducible apply kept_foldl_snd
    | with_reducible apply answers_ite
    | with_reducible assumption
    | intro _
    | with_reducible apply kept_foldl
    | with_reducible apply kept_foldl_fst
    | with_reducible apply kept_foldr
    | with_reducible apply kept_ite
    | with_reducible apply kept_ite_fst
    | with_reducible apply kept_ite_snd
    | with_reducible apply kept_ite_third
    | fail_if_no_progress (with_reducible refine Kept.update ?_ rfl rfl rfl rfl rfl))

theorem State.importEntry_kept {z : State} (s : State) (a stamp : Nat) (e : Nat × Bytes) (hz : Kept z s) : Kept z (State.importEntry s a stamp e) := by
  unfold State.importEntry
  repeat' (first
    | with_reducible assumption
    | intro _
    | with_reducible apply State.raise_kept
    | with_reducible apply State.taskEvent_kept
    | with_reducible apply kept_foldl
    | with_reducible apply kept_foldl_fst
    | with_reducible apply kept_foldr
    | with_reducible apply kept_ite
    | with_reducible apply kept_ite_fst
    | with_reducible apply kept_ite_snd
    | with_reducible apply kept_ite_third
    | fail_if_no_progress (with_reducible refine Kept.update ?_ rfl rfl rfl rfl rfl))

theorem State.imageFrame_kept {z : State} (s : State) (stamp : Nat) (payload : Bytes) (hz : Kept z s) : Kept z (State.imageFrame s stamp payload) := by
  unfold State.imageFrame
  repeat' (first
    | with_reducible assumption
    | intro _
    | with_reducible apply State.raise_kept
    | with_reducible apply State.bump_kept
    | with_reducible apply State.importEntry_kept
    | with_reducible apply State.bumpBy_kept
    | with_reducible apply kept_foldl_snd
    | with_reducible apply kept_foldl
    | with_reducible apply kept_foldl_fst
    | with_reducible apply kept_foldr
    | with_reducible apply kept_ite
    | with_reducible apply kept_ite_fst
    | with_reducible apply kept_ite_snd
    | with_reducible apply kept_ite_third
    | fail_if_no_progress (with_reducible refine Kept.update ?_ rfl rfl rfl rfl rfl)
    | split)

theorem execImageFrameReceived_answers (t : Nat) (queue : Fin 504) (ecc : Ecc) (s : State) : Answers (s.clock t) (execImageFrameReceived t queue ecc s) := by
  unfold execImageFrameReceived
  repeat' (first
    | with_reducible exact Kept.refl _
    | intro _
    | with_reducible apply answers_next
    | with_reducible apply State.imageFrame_kept
    | with_reducible apply State.clock_kept
    | with_reducible apply State.takeHead_kept
    | with_reducible apply State.releaseCopy_kept
    | with_reducible apply answers_ite
    | with_reducible assumption
    | intro _
    | with_reducible apply kept_foldl
    | with_reducible apply kept_foldl_fst
    | with_reducible apply kept_foldr
    | with_reducible apply kept_ite
    | with_reducible apply kept_ite_fst
    | with_reducible apply kept_ite_snd
    | with_reducible apply kept_ite_third
    | fail_if_no_progress (with_reducible refine Kept.update ?_ rfl rfl rfl rfl rfl)
    | split
    | extract_lets)

theorem execExportSend_answers (t : Nat) (frame : Nat) (s : State) : Answers (s.clock t) (execExportSend t frame s) := by
  unfold execExportSend
  repeat' (first
    | with_reducible exact Kept.refl _
    | intro _
    | with_reducible apply answers_next
    | with_reducible apply State.clock_kept
    | with_reducible apply State.inject_kept
    | with_reducible apply answers_ite
    | with_reducible assumption
    | intro _
    | with_reducible apply kept_foldl
    | with_reducible apply kept_foldl_fst
    | with_reducible apply kept_foldr
    | with_reducible apply kept_ite
    | with_reducible apply kept_ite_fst
    | with_reducible apply kept_ite_snd
    | with_reducible apply kept_ite_third
    | fail_if_no_progress (with_reducible refine Kept.update ?_ rfl rfl rfl rfl rfl))

/-! Machine/Rings.lean -/

theorem State.setRing_kept {z : State} (s : State) (k : Nat) (r : Ring) (hz : Kept z s) : Kept z (State.setRing s k r) := by
  unfold State.setRing
  repeat' (first
    | with_reducible assumption
    | intro _
    | with_reducible apply kept_foldl
    | with_reducible apply kept_foldl_fst
    | with_reducible apply kept_foldr
    | with_reducible apply kept_ite
    | with_reducible apply kept_ite_fst
    | with_reducible apply kept_ite_snd
    | with_reducible apply kept_ite_third
    | fail_if_no_progress (with_reducible refine Kept.update ?_ rfl rfl rfl rfl rfl))

theorem State.dropRead_kept {z : State} (s : State) (k : Nat) (hz : Kept z s) : Kept z (State.dropRead s k) := by
  unfold State.dropRead
  repeat' (first
    | with_reducible assumption
    | intro _
    | with_reducible apply State.setRing_kept
    | with_reducible apply State.unstartEntry_kept
    | with_reducible apply kept_foldl
    | with_reducible apply kept_foldl_fst
    | with_reducible apply kept_foldr
    | with_reducible apply kept_ite
    | with_reducible apply kept_ite_fst
    | with_reducible apply kept_ite_snd
    | with_reducible apply kept_ite_third
    | fail_if_no_progress (with_reducible refine Kept.update ?_ rfl rfl rfl rfl rfl)
    | split)

theorem State.ringIrq_kept {z : State} (s : State) (k : Nat) (hz : Kept z s) : Kept z (State.ringIrq s k) := by
  unfold State.ringIrq
  repeat' (first
    | with_reducible assumption
    | intro _
    | with_reducible apply State.emit_kept
    | with_reducible apply State.setRing_kept
    | with_reducible apply kept_foldl
    | with_reducible apply kept_foldl_fst
    | with_reducible apply kept_foldr
    | with_reducible apply kept_ite)

theorem State.writeBack_kept {z : State} (s : State) (k : Nat) (i : DescInfo) (hz : Kept z s) : Kept z (State.writeBack s k i) := by
  unfold State.writeBack
  repeat' (first
    | with_reducible assumption
    | intro _
    | with_reducible apply State.ringIrq_kept
    | with_reducible apply State.setRing_kept
    | with_reducible apply State.emit_kept)

theorem State.revokePosted_kept {z : State} (s : State) (k n : Nat) (hz : Kept z s) : Kept z (s.revokePosted k n) := by
  induction n generalizing s with
  | zero => exact hz
  | succ n ih => exact ih _ (State.writeBack_kept _ _ _ hz)

theorem State.stopRing_kept {z : State} (s : State) (k : Nat) (hz : Kept z s) : Kept z (State.stopRing s k) := by
  unfold State.stopRing
  repeat' (first
    | with_reducible assumption
    | intro _
    | with_reducible apply State.revokePosted_kept
    | with_reducible apply State.dropRead_kept
    | with_reducible apply State.setRing_kept)

/-! Machine/Pairing.lean -/

theorem State.setRole_kept {z : State} (s : State) (r : Nat) (hz : Kept z s) : Kept z (State.setRole s r) := by
  unfold State.setRole
  repeat' (first
    | with_reducible assumption
    | intro _
    | with_reducible apply State.set0_kept
    | with_reducible apply kept_foldl
    | with_reducible apply kept_foldl_fst
    | with_reducible apply kept_foldr
    | with_reducible apply kept_ite
    | with_reducible apply kept_ite_fst
    | with_reducible apply kept_ite_snd
    | with_reducible apply kept_ite_third
    | fail_if_no_progress (with_reducible refine Kept.update ?_ rfl rfl rfl rfl rfl))

theorem State.becomeDuty_kept {z : State} (s : State) (hz : Kept z s) : Kept z (State.becomeDuty s) := by
  unfold State.becomeDuty
  repeat' (first
    | with_reducible assumption
    | intro _
    | with_reducible apply State.fbActivateAll_kept
    | with_reducible apply State.setRole_kept
    | with_reducible apply State.uaGoOnAll_kept)

theorem State.dropWaiting_kept {z : State} (s : State) (q d : Nat) (hz : Kept z s) : Kept z (State.dropWaiting s q d) := by
  unfold State.dropWaiting
  repeat' (first
    | with_reducible assumption
    | intro _
    | with_reducible apply State.set0_kept
    | with_reducible apply State.setEntries_kept
    | with_reducible apply State.setItem_kept
    | with_reducible apply kept_foldl
    | with_reducible apply kept_foldl_fst
    | with_reducible apply kept_foldr
    | with_reducible apply kept_ite)

theorem State.dropRecovHeld_kept {z : State} (s : State) (d : Nat) (hz : Kept z s) : Kept z (State.dropRecovHeld s d) := by
  unfold State.dropRecovHeld
  repeat' (first
    | with_reducible assumption
    | intro _
    | with_reducible apply kept_foldl
    | with_reducible apply kept_foldl_fst
    | with_reducible apply kept_foldr
    | with_reducible apply kept_ite
    | with_reducible apply kept_ite_fst
    | with_reducible apply kept_ite_snd
    | with_reducible apply kept_ite_third
    | fail_if_no_progress (with_reducible refine Kept.update ?_ rfl rfl rfl rfl rfl))

theorem State.withdrawCopies_kept {z : State} (s : State) (d k : Nat) (hz : Kept z s) : Kept z (State.withdrawCopies s d k) := by
  unfold State.withdrawCopies
  repeat' (first
    | with_reducible assumption
    | intro _
    | with_reducible apply State.dropWaiting_kept
    | with_reducible apply State.dropRecovHeld_kept
    | with_reducible apply State.freeItem_kept
    | with_reducible apply State.setItem_kept
    | with_reducible apply kept_foldl_snd
    | with_reducible apply kept_foldl
    | with_reducible apply kept_foldl_fst
    | with_reducible apply kept_foldr
    | with_reducible apply kept_ite)

theorem State.forgetMirrored_kept {z : State} (s : State) (hz : Kept z s) : Kept z (State.forgetMirrored s) := by
  unfold State.forgetMirrored
  repeat' (first
    | with_reducible assumption
    | intro _
    | with_reducible apply State.withdrawCopies_kept
    | with_reducible apply kept_foldl_snd
    | with_reducible apply kept_foldl
    | with_reducible apply kept_foldl_fst
    | with_reducible apply kept_foldr
    | with_reducible apply kept_ite
    | with_reducible apply kept_ite_fst
    | with_reducible apply kept_ite_snd
    | with_reducible apply kept_ite_third
    | fail_if_no_progress (with_reducible refine Kept.update ?_ rfl rfl rfl rfl rfl))

theorem State.becomeStandby_kept {z : State} (s : State) (hz : Kept z s) : Kept z (State.becomeStandby s) := by
  unfold State.becomeStandby
  repeat' (first
    | with_reducible assumption
    | intro _
    | with_reducible apply State.set0_kept
    | with_reducible apply State.fbSilenceAll_kept
    | with_reducible apply State.forgetMirrored_kept
    | with_reducible apply State.setRole_kept
    | with_reducible apply State.uaHoldAll_kept
    | with_reducible apply kept_foldl
    | with_reducible apply kept_foldl_fst
    | with_reducible apply kept_foldr
    | with_reducible apply kept_ite)

theorem State.fenceNow_kept {z : State} (s : State) (hz : Kept z s) : Kept z (State.fenceNow s) := by
  unfold State.fenceNow
  repeat' (first
    | with_reducible assumption
    | intro _
    | with_reducible apply State.fbSilenceAll_kept
    | with_reducible apply State.fence_kept
    | with_reducible apply State.setRole_kept
    | with_reducible apply State.uaHoldAll_kept
    | with_reducible apply kept_foldl
    | with_reducible apply kept_foldl_fst
    | with_reducible apply kept_foldr
    | with_reducible apply kept_ite)

theorem State.hearEpoch_kept {z : State} (s : State) (e : Nat) (hz : Kept z s) : Kept z (State.hearEpoch s e) := by
  unfold State.hearEpoch
  repeat' (first
    | with_reducible assumption
    | intro _
    | with_reducible apply State.fenceNow_kept
    | with_reducible apply State.wr_kept
    | with_reducible apply kept_foldl
    | with_reducible apply kept_foldl_fst
    | with_reducible apply kept_foldr
    | with_reducible apply kept_ite)

theorem State.pairFrame_kept {z : State} (s : State) (kind : Nat) (p : Bytes) (f : State → State)
    (hf : ∀ u, Kept z u → Kept z (f u)) (hz : Kept z s) : Kept z (s.pairFrame kind p f) := by
  unfold State.pairFrame
  extract_lets e s0 s1
  have h0 : Kept z s0 := State.ctlRead_kept _ _ _ _ hz
  clear_value s0
  split
  · exact h0
  · exact hf _ (State.hearEpoch_kept _ _ (State.set0_kept _ _ _ (Kept.update h0 rfl rfl rfl rfl rfl)))

theorem State.applyRecord_kept {z : State} (s : State) (r : Bytes) (hz : Kept z s) : Kept z (State.applyRecord s r) := by
  unfold State.applyRecord
  repeat' (first
    | with_reducible assumption
    | intro _
    | with_reducible apply State.dropHeld_kept
    | with_reducible apply State.setChan_kept
    | with_reducible apply State.setSeqNext_kept
    | with_reducible apply kept_foldl_snd
    | with_reducible apply kept_foldl
    | with_reducible apply kept_foldl_fst
    | with_reducible apply kept_foldr
    | with_reducible apply kept_ite
    | with_reducible apply kept_ite_fst
    | with_reducible apply kept_ite_snd
    | with_reducible apply kept_ite_third
    | fail_if_no_progress (with_reducible refine Kept.update ?_ rfl rfl rfl rfl rfl)
    | split)

theorem State.mirrorBegin_kept {z : State} (s : State) (r : Bytes) (hz : Kept z s) : Kept z (State.mirrorBegin s r).1 := by
  unfold State.mirrorBegin
  repeat' (first
    | with_reducible assumption
    | intro _
    | with_reducible apply State.storeItem_kept
    | with_reducible apply kept_foldl
    | with_reducible apply kept_foldl_fst
    | with_reducible apply kept_foldr
    | with_reducible apply kept_ite
    | with_reducible apply kept_ite_fst
    | with_reducible apply kept_ite_snd
    | with_reducible apply kept_ite_third
    | fail_if_no_progress (with_reducible refine Kept.update ?_ rfl rfl rfl rfl rfl)
    | split
    | extract_lets)

theorem State.mapHeld_kept {z : State} (s : State) (m : Nat) (y : Held) (hz : Kept z s) : Kept z (State.mapHeld s m y) := by
  unfold State.mapHeld
  repeat' (first
    | with_reducible assumption
    | intro _
    | with_reducible apply kept_foldl
    | with_reducible apply kept_foldl_fst
    | with_reducible apply kept_foldr
    | with_reducible apply kept_ite
    | with_reducible apply kept_ite_fst
    | with_reducible apply kept_ite_snd
    | with_reducible apply kept_ite_third
    | fail_if_no_progress (with_reducible refine Kept.update ?_ rfl rfl rfl rfl rfl))

theorem State.mirrorData_kept {z : State} (s : State) (r : Bytes) (hz : Kept z s) : Kept z (State.mirrorData s r).1 := by
  unfold State.mirrorData
  repeat' (first
    | with_reducible assumption
    | intro _
    | with_reducible apply State.setItem_kept
    | with_reducible apply State.mapHeld_kept
    | with_reducible apply kept_foldl
    | with_reducible apply kept_foldl_fst
    | with_reducible apply kept_foldr
    | with_reducible apply kept_ite
    | with_reducible apply kept_ite_fst
    | with_reducible apply kept_ite_snd
    | with_reducible apply kept_ite_third
    | fail_if_no_progress (with_reducible refine Kept.update ?_ rfl rfl rfl rfl rfl)
    | split
    | extract_lets)

theorem State.numberHeld_kept {z : State} (s : State) (m : Nat) (advance : Bool) (hz : Kept z s) : Kept z (State.numberHeld s m advance).1 := by
  unfold State.numberHeld
  repeat' (first
    | with_reducible assumption
    | intro _
    | with_reducible apply State.mapHeld_kept
    | with_reducible apply State.setItem_kept
    | with_reducible apply State.setSeqNext_kept
    | with_reducible apply kept_foldl
    | with_reducible apply kept_foldl_fst
    | with_reducible apply kept_foldr
    | with_reducible apply kept_ite
    | with_reducible apply kept_ite_fst
    | with_reducible apply kept_ite_snd
    | with_reducible apply kept_ite_third
    | fail_if_no_progress (with_reducible refine Kept.update ?_ rfl rfl rfl rfl rfl)
    | split)

theorem State.answer_kept {z : State} (s : State) (m result seq : Nat) (hz : Kept z s) : Kept z (State.answer s m result seq) := by
  unfold State.answer
  repeat' (first
    | with_reducible assumption
    | intro _
    | with_reducible apply State.pairSend_kept
    | with_reducible apply State.asdCount_kept
    | with_reducible apply kept_foldl
    | with_reducible apply kept_foldl_fst
    | with_reducible apply kept_foldr
    | with_reducible apply kept_ite)

theorem State.mirrorWhole_kept {z : State} (s : State) (m : Nat) (hz : Kept z s) : Kept z (State.mirrorWhole s m) := by
  unfold State.mirrorWhole
  repeat' (first
    | with_reducible assumption
    | intro _
    | with_reducible apply State.answer_kept
    | with_reducible apply State.drawFree_kept
    | with_reducible apply State.dropHeld_kept
    | with_reducible apply State.numberHeld_kept
    | with_reducible apply kept_foldl
    | with_reducible apply kept_foldl_fst
    | with_reducible apply kept_foldr
    | with_reducible apply kept_ite
    | with_reducible apply kept_ite_fst
    | with_reducible apply kept_ite_snd
    | with_reducible apply kept_ite_third
    | fail_if_no_progress (with_reducible refine Kept.update ?_ rfl rfl rfl rfl rfl)
    | split)

theorem State.mirror_kept {z : State} (s : State) (r : Bytes) (hz : Kept z s) : Kept z (State.mirror s r) := by
  unfold State.mirror
  repeat' (first
    | with_reducible assumption
    | intro _
    | with_reducible apply State.mirrorBegin_kept
    | with_reducible apply State.answer_kept
    | with_reducible apply State.mirrorData_kept
    | with_reducible apply State.mirrorWhole_kept
    | with_reducible apply kept_foldl
    | with_reducible apply kept_foldl_fst
    | with_reducible apply kept_foldr
    | with_reducible apply kept_ite
    | with_reducible apply kept_ite_fst)

theorem execMirrorReceived_answers (t : Nat) (payload : Bytes) (s : State) : Answers (s.clock t) (execMirrorReceived t payload s) := by
  unfold execMirrorReceived
  repeat' (first
    | with_reducible exact Kept.refl _
    | intro _
    | with_reducible apply answers_next
    | with_reducible apply State.pairFrame_kept
    | with_reducible apply State.mirror_kept
    | with_reducible apply State.clock_kept
    | with_reducible apply kept_foldl_snd
    | with_reducible apply answers_ite
    | with_reducible assumption
    | intro _
    | with_reducible apply kept_foldl
    | with_reducible apply kept_foldl_fst
    | with_reducible apply kept_foldr
    | with_reducible apply kept_ite)

theorem State.takeAck_kept {z : State} (s : State) (o : MirrorOut) (seq : Nat) (hz : Kept z s) : Kept z (State.takeAck s o seq) := by
  unfold State.takeAck
  repeat' (first
    | with_reducible assumption
    | intro _
    | with_reducible apply State.asdCount_kept
    | with_reducible apply State.redundantDown_kept
    | with_reducible apply State.accept_kept
    | with_reducible apply State.raise_kept
    | with_reducible apply kept_foldl
    | with_reducible apply kept_foldl_fst
    | with_reducible apply kept_foldr
    | with_reducible apply kept_ite
    | with_reducible apply kept_ite_fst
    | with_reducible apply kept_ite_snd
    | with_reducible apply kept_ite_third
    | fail_if_no_progress (with_reducible refine Kept.update ?_ rfl rfl rfl rfl rfl))

theorem State.ackItem_kept {z : State} (s : State) (o : MirrorOut) (seq : Nat) (hz : Kept z s) : Kept z (State.ackItem s o seq) := by
  unfold State.ackItem
  repeat' (first
    | with_reducible assumption
    | intro _
    | with_reducible apply State.queueOverrun_kept
    | with_reducible apply State.refuseFrom_kept
    | with_reducible apply State.takeAck_kept
    | with_reducible apply kept_foldl_snd
    | with_reducible apply kept_foldl
    | with_reducible apply kept_foldl_fst
    | with_reducible apply kept_foldr
    | with_reducible apply kept_ite
    | with_reducible apply kept_ite_fst
    | with_reducible apply kept_ite_snd
    | with_reducible apply kept_ite_third
    | fail_if_no_progress (with_reducible refine Kept.update ?_ rfl rfl rfl rfl rfl)
    | split)

theorem State.ackRecord_kept {z : State} (s : State) (r : Bytes) (hz : Kept z s) : Kept z (State.ackRecord s r) := by
  unfold State.ackRecord
  repeat' (first
    | with_reducible assumption
    | intro _
    | with_reducible apply State.ackItem_kept
    | with_reducible apply kept_foldl
    | with_reducible apply kept_foldl_fst
    | with_reducible apply kept_foldr
    | with_reducible apply kept_ite
    | with_reducible apply kept_ite_fst
    | with_reducible apply kept_ite_snd
    | with_reducible apply kept_ite_third
    | fail_if_no_progress (with_reducible refine Kept.update ?_ rfl rfl rfl rfl rfl)
    | split)

theorem execAckReceived_answers (t : Nat) (payload : Bytes) (s : State) : Answers (s.clock t) (execAckReceived t payload s) := by
  unfold execAckReceived
  repeat' (first
    | with_reducible exact Kept.refl _
    | intro _
    | with_reducible apply answers_next
    | with_reducible apply State.pairFrame_kept
    | with_reducible apply State.ackRecord_kept
    | with_reducible apply State.clock_kept
    | with_reducible apply kept_foldl_snd
    | with_reducible apply answers_ite
    | with_reducible assumption
    | intro _
    | with_reducible apply kept_foldl
    | with_reducible apply kept_foldl_fst
    | with_reducible apply kept_foldr
    | with_reducible apply kept_ite)

theorem State.nackRecord_kept {z : State} (s : State) (r : Bytes) (hz : Kept z s) : Kept z (State.nackRecord s r) := by
  unfold State.nackRecord
  repeat' (first
    | with_reducible assumption
    | intro _
    | with_reducible apply State.refuseFrom_kept
    | with_reducible apply State.asdCount_kept
    | with_reducible apply kept_foldl
    | with_reducible apply kept_foldl_fst
    | with_reducible apply kept_foldr
    | with_reducible apply kept_ite
    | with_reducible apply kept_ite_fst
    | with_reducible apply kept_ite_snd
    | with_reducible apply kept_ite_third
    | fail_if_no_progress (with_reducible refine Kept.update ?_ rfl rfl rfl rfl rfl)
    | split)

theorem execNackReceived_answers (t : Nat) (payload : Bytes) (s : State) : Answers (s.clock t) (execNackReceived t payload s) := by
  unfold execNackReceived
  repeat' (first
    | with_reducible exact Kept.refl _
    | intro _
    | with_reducible apply answers_next
    | with_reducible apply State.pairFrame_kept
    | with_reducible apply State.nackRecord_kept
    | with_reducible apply State.clock_kept
    | with_reducible apply kept_foldl_snd
    | with_reducible apply answers_ite
    | with_reducible assumption
    | intro _
    | with_reducible apply kept_foldl
    | with_reducible apply kept_foldl_fst
    | with_reducible apply kept_foldr
    | with_reducible apply kept_ite)

theorem State.withdrawOne_kept {z : State} (s : State) (m : Nat) (hz : Kept z s) : Kept z (State.withdrawOne s m) := by
  unfold State.withdrawOne
  repeat' (first
    | with_reducible assumption
    | intro _
    | with_reducible apply State.asdCount_kept
    | with_reducible apply State.setSeqNext_kept
    | with_reducible apply State.dropHeld_kept
    | with_reducible apply kept_foldl
    | with_reducible apply kept_foldl_fst
    | with_reducible apply kept_foldr
    | with_reducible apply kept_ite
    | with_reducible apply kept_ite_fst
    | with_reducible apply kept_ite_snd
    | with_reducible apply kept_ite_third
    | fail_if_no_progress (with_reducible refine Kept.update ?_ rfl rfl rfl rfl rfl)
    | split)

theorem State.withdrawRecord_kept {z : State} (s : State) (r : Bytes) (hz : Kept z s) : Kept z (State.withdrawRecord s r) := by
  unfold State.withdrawRecord
  repeat' (first
    | with_reducible assumption
    | intro _
    | with_reducible apply State.withdrawOne_kept
    | with_reducible apply kept_foldl_snd
    | with_reducible apply kept_foldl)

theorem execWithdrawReceived_answers (t : Nat) (payload : Bytes) (s : State) : Answers (s.clock t) (execWithdrawReceived t payload s) := by
  unfold execWithdrawReceived
  repeat' (first
    | with_reducible exact Kept.refl _
    | intro _
    | with_reducible apply answers_next
    | with_reducible apply State.pairFrame_kept
    | with_reducible apply State.withdrawRecord_kept
    | with_reducible apply State.clock_kept
    | with_reducible apply kept_foldl_snd
    | with_reducible apply answers_ite
    | with_reducible assumption
    | intro _
    | with_reducible apply kept_foldl
    | with_reducible apply kept_foldl_fst
    | with_reducible apply kept_foldr
    | with_reducible apply kept_ite)

theorem execAcceptanceDeadline_answers (t : Nat) (s : State) : Answers (s.clock t) (execAcceptanceDeadline t s) := by
  unfold execAcceptanceDeadline
  repeat' (first
    | with_reducible exact Kept.refl _
    | intro _
    | with_reducible apply answers_next
    | with_reducible apply State.clock_kept
    | with_reducible apply State.refuseOut_kept)

theorem execStateReceived_answers (t : Nat) (payload : Bytes) (s : State) : Answers (s.clock t) (execStateReceived t payload s) := by
  unfold execStateReceived
  repeat' (first
    | with_reducible exact Kept.refl _
    | intro _
    | with_reducible apply answers_next
    | with_reducible apply State.pairFrame_kept
    | with_reducible apply State.asdCount_kept
    | with_reducible apply State.clock_kept
    | with_reducible apply answers_ite
    | with_reducible assumption
    | intro _
    | with_reducible apply kept_foldl
    | with_reducible apply kept_foldl_fst
    | with_reducible apply kept_foldr
    | with_reducible apply kept_ite
    | with_reducible apply kept_ite_fst
    | with_reducible apply kept_ite_snd
    | with_reducible apply kept_ite_third
    | fail_if_no_progress (with_reducible refine Kept.update ?_ rfl rfl rfl rfl rfl))

theorem State.resyncDone_kept {z : State} (s : State) (hz : Kept z s) : Kept z (State.resyncDone s) := by
  unfold State.resyncDone
  repeat' (first
    | with_reducible assumption
    | intro _
    | with_reducible apply State.redundantUp_kept
    | with_reducible apply State.set0_kept
    | with_reducible apply kept_foldl
    | with_reducible apply kept_foldl_fst
    | with_reducible apply kept_foldr
    | with_reducible apply kept_ite)

theorem State.tickEnd_kept {z : State} (s : State) (r : Bytes) (hz : Kept z s) : Kept z (State.tickEnd s r) := by
  unfold State.tickEnd
  repeat' (first
    | with_reducible assumption
    | intro _
    | with_reducible apply State.set0_kept
    | with_reducible apply State.redundantDown_kept
    | with_reducible apply State.applyRecord_kept
    | with_reducible apply State.resyncDone_kept
    | with_reducible apply State.raise_kept
    | with_reducible apply kept_foldl_snd
    | with_reducible apply kept_foldl
    | with_reducible apply kept_foldl_fst
    | with_reducible apply kept_foldr
    | with_reducible apply kept_ite
    | with_reducible apply kept_ite_fst
    | with_reducible apply kept_ite_snd
    | with_reducible apply kept_ite_third
    | fail_if_no_progress (with_reducible refine Kept.update ?_ rfl rfl rfl rfl rfl))

theorem execTickEndReceived_answers (t : Nat) (payload : Bytes) (s : State) : Answers (s.clock t) (execTickEndReceived t payload s) := by
  unfold execTickEndReceived
  repeat' (first
    | with_reducible exact Kept.refl _
    | intro _
    | with_reducible apply answers_next
    | with_reducible apply State.pairFrame_kept
    | with_reducible apply State.tickEnd_kept
    | with_reducible apply State.clock_kept
    | with_reducible apply kept_foldl_snd
    | with_reducible apply answers_ite
    | with_reducible assumption
    | intro _
    | with_reducible apply kept_foldl
    | with_reducible apply kept_foldl_fst
    | with_reducible apply kept_foldr
    | with_reducible apply kept_ite)

theorem State.resyncItem_kept {z : State} (s : State) (d : Nat) (hz : Kept z s) : Kept z (State.resyncItem s d).1 := by
  unfold State.resyncItem
  repeat' (first
    | with_reducible assumption
    | intro _
    | with_reducible apply kept_foldl
    | with_reducible apply kept_foldl_fst
    | with_reducible apply kept_foldr
    | with_reducible apply kept_ite
    | with_reducible apply kept_ite_fst
    | with_reducible apply kept_ite_snd
    | with_reducible apply kept_ite_third
    | fail_if_no_progress (with_reducible refine Kept.update ?_ rfl rfl rfl rfl rfl)
    | split)

theorem State.sendResync_kept {z : State} (s : State) (hz : Kept z s) : Kept z (State.sendResync s) := by
  unfold State.sendResync
  repeat' (first
    | with_reducible assumption
    | intro _
    | with_reducible apply State.set0_kept
    | with_reducible apply State.resyncItem_kept
    | with_reducible apply State.pairSend_kept
    | with_reducible apply State.asdCount_kept
    | with_reducible apply kept_foldl_snd
    | with_reducible apply kept_foldl
    | with_reducible apply kept_foldl_fst
    | with_reducible apply kept_foldr
    | with_reducible apply kept_ite
    | with_reducible apply kept_ite_fst
    | with_reducible apply kept_ite_snd
    | with_reducible apply kept_ite_third
    | fail_if_no_progress (with_reducible refine Kept.update ?_ rfl rfl rfl rfl rfl))

theorem State.shadowRecord_kept {z : State} (s : State) (r : Bytes) (hz : Kept z s) : Kept z (State.shadowRecord s r) := by
  unfold State.shadowRecord
  repeat' (first
    | with_reducible assumption
    | intro _
    | with_reducible apply kept_foldl
    | with_reducible apply kept_foldl_fst
    | with_reducible apply kept_foldr
    | with_reducible apply kept_ite
    | with_reducible apply kept_ite_fst
    | with_reducible apply kept_ite_snd
    | with_reducible apply kept_ite_third
    | fail_if_no_progress (with_reducible refine Kept.update ?_ rfl rfl rfl rfl rfl)
    | split)

theorem State.sendShadow_kept {z : State} (s : State) (hz : Kept z s) : Kept z (State.sendShadow s) := by
  unfold State.sendShadow
  repeat' (first
    | with_reducible assumption
    | intro _
    | with_reducible apply State.pairSend_kept
    | with_reducible apply State.asdCount_kept
    | with_reducible apply kept_foldl_snd
    | with_reducible apply kept_foldl
    | with_reducible apply kept_foldl_fst
    | with_reducible apply kept_foldr
    | with_reducible apply kept_ite)

theorem State.resyncMark_kept {z : State} (s : State) (r : Bytes) (hz : Kept z s) : Kept z (State.resyncMark s r) := by
  unfold State.resyncMark
  repeat' (first
    | with_reducible assumption
    | intro _
    | with_reducible apply State.set0_kept
    | with_reducible apply kept_foldl
    | with_reducible apply kept_foldl_fst
    | with_reducible apply kept_foldr
    | with_reducible apply kept_ite
    | with_reducible apply kept_ite_fst
    | with_reducible apply kept_ite_snd
    | with_reducible apply kept_ite_third
    | fail_if_no_progress (with_reducible refine Kept.update ?_ rfl rfl rfl rfl rfl))

theorem State.resyncRecord_kept {z : State} (s : State) (r : Bytes) (hz : Kept z s) : Kept z (State.resyncRecord s r) := by
  unfold State.resyncRecord
  repeat' (first
    | with_reducible assumption
    | intro _
    | with_reducible apply State.dropHeld_kept
    | with_reducible apply State.asdCount_kept
    | with_reducible apply State.applyRecord_kept
    | with_reducible apply State.mirrorBegin_kept
    | with_reducible apply State.set0_kept
    | with_reducible apply State.mirrorData_kept
    | with_reducible apply State.numberHeld_kept
    | with_reducible apply State.shadowRecord_kept
    | with_reducible apply State.resyncMark_kept
    | with_reducible apply kept_foldl_snd
    | with_reducible apply kept_foldl
    | with_reducible apply kept_foldl_fst
    | with_reducible apply kept_foldr
    | with_reducible apply kept_ite
    | with_reducible apply kept_ite_fst
    | with_reducible apply kept_ite_snd
    | with_reducible apply kept_ite_third
    | fail_if_no_progress (with_reducible refine Kept.update ?_ rfl rfl rfl rfl rfl))

theorem execResyncReceived_answers (t : Nat) (payload : Bytes) (s : State) : Answers (s.clock t) (execResyncReceived t payload s) := by
  unfold execResyncReceived
  repeat' (first
    | with_reducible exact Kept.refl _
    | intro _
    | with_reducible apply answers_next
    | with_reducible apply State.pairFrame_kept
    | with_reducible apply State.resyncRecord_kept
    | with_reducible apply State.clock_kept
    | with_reducible apply State.set0_kept
    | with_reducible apply State.asdCount_kept
    | with_reducible apply kept_foldl_snd
    | with_reducible apply answers_ite
    | with_reducible assumption
    | intro _
    | with_reducible apply kept_foldl
    | with_reducible apply kept_foldl_fst
    | with_reducible apply kept_foldr
    | with_reducible apply kept_ite)

theorem State.settleWith_kept {z : State} (s : State) (role : Nat) (side : Bool) (eui : BitVec 64) (hz : Kept z s) : Kept z (State.settleWith s role side eui) := by
  unfold State.settleWith
  repeat' (first
    | with_reducible assumption
    | intro _
    | with_reducible apply State.raise_kept
    | with_reducible apply State.becomeDuty_kept
    | with_reducible apply State.becomeStandby_kept
    | with_reducible apply kept_foldl
    | with_reducible apply kept_foldl_fst
    | with_reducible apply kept_foldr
    | with_reducible apply kept_ite)

theorem State.healthRole_kept {z : State} (s : State) (role epoch : Nat) (side : Bool) (hz : Kept z s) : Kept z (State.healthRole s role epoch side) := by
  unfold State.healthRole
  repeat' (first
    | with_reducible assumption
    | intro _
    | with_reducible apply State.becomeStandby_kept
    | with_reducible apply State.settleWith_kept
    | with_reducible apply State.wr_kept
    | with_reducible apply State.fenceNow_kept
    | with_reducible apply kept_foldl
    | with_reducible apply kept_foldl_fst
    | with_reducible apply kept_foldr
    | with_reducible apply kept_ite)

theorem State.healthRedundancy_kept {z : State} (s : State) (role tests resync : Nat) (hz : Kept z s) : Kept z (State.healthRedundancy s role tests resync) := by
  unfold State.healthRedundancy
  repeat' (first
    | with_reducible assumption
    | intro _
    | with_reducible apply State.redundantUp_kept
    | with_reducible apply State.redundantDown_kept
    | with_reducible apply State.sendResync_kept
    | with_reducible apply State.set0_kept
    | with_reducible apply kept_foldl
    | with_reducible apply kept_foldl_fst
    | with_reducible apply kept_foldr
    | with_reducible apply kept_ite)

theorem State.health_kept {z : State} (s : State) (side : Bool) (r : Bytes) (hz : Kept z s) : Kept z (State.health s side r) := by
  unfold State.health
  repeat' (first
    | with_reducible assumption
    | intro _
    | with_reducible apply State.healthRedundancy_kept
    | with_reducible apply State.set0_kept
    | with_reducible apply State.healthRole_kept
    | with_reducible apply kept_foldl
    | with_reducible apply kept_foldl_fst
    | with_reducible apply kept_foldr
    | with_reducible apply kept_ite
    | with_reducible apply kept_ite_fst
    | with_reducible apply kept_ite_snd
    | with_reducible apply kept_ite_third
    | fail_if_no_progress (with_reducible refine Kept.update ?_ rfl rfl rfl rfl rfl))

theorem execHealthReceived_answers (t : Nat) (side : Bool) (payload : Bytes) (s : State) : Answers (s.clock t) (execHealthReceived t side payload s) := by
  unfold execHealthReceived
  repeat' (first
    | with_reducible exact Kept.refl _
    | intro _
    | with_reducible apply answers_next
    | with_reducible apply State.pairFrame_kept
    | with_reducible apply State.clock_kept
    | with_reducible apply State.health_kept
    | with_reducible apply kept_foldl_snd
    | with_reducible apply answers_ite
    | with_reducible assumption
    | intro _
    | with_reducible apply kept_foldl)

theorem execDutyTimeout_answers (t : Nat) (s : State) : Answers (s.clock t) (execDutyTimeout t s) := by
  unfold execDutyTimeout
  repeat' (first
    | with_reducible exact Kept.refl _
    | intro _
    | with_reducible apply answers_next
    | with_reducible apply State.clock_kept
    | with_reducible apply State.becomeDuty_kept
    | with_reducible apply answers_ite
    | with_reducible assumption
    | intro _
    | with_reducible apply kept_foldl
    | with_reducible apply kept_foldl_fst
    | with_reducible apply kept_foldr
    | with_reducible apply kept_ite
    | with_reducible apply kept_ite_fst
    | with_reducible apply kept_ite_snd
    | with_reducible apply kept_ite_third
    | fail_if_no_progress (with_reducible refine Kept.update ?_ rfl rfl rfl rfl rfl)
    | split
    | extract_lets)

theorem State.relinquished_kept {z : State} (s : State) (hz : Kept z s) : Kept z (State.relinquished s) := by
  unfold State.relinquished
  repeat' (first
    | with_reducible assumption
    | intro _
    | with_reducible apply kept_foldl
    | with_reducible apply kept_foldl_fst
    | with_reducible apply kept_foldr
    | with_reducible apply kept_ite
    | with_reducible apply kept_ite_fst
    | with_reducible apply kept_ite_snd
    | with_reducible apply kept_ite_third
    | fail_if_no_progress (with_reducible refine Kept.update ?_ rfl rfl rfl rfl rfl))

theorem execRelinquishReceived_answers (t : Nat) (payload : Bytes) (s : State) : Answers (s.clock t) (execRelinquishReceived t payload s) := by
  unfold execRelinquishReceived
  repeat' (first
    | with_reducible exact Kept.refl _
    | intro _
    | with_reducible apply answers_next
    | with_reducible apply State.pairFrame_kept
    | with_reducible apply State.relinquished_kept
    | with_reducible apply State.clock_kept
    | with_reducible apply answers_ite
    | with_reducible assumption)

theorem execPartnerLost_answers (t : Nat) (s : State) : Answers (s.clock t) (execPartnerLost t s) := by
  unfold execPartnerLost
  repeat' (first
    | with_reducible exact Kept.refl _
    | intro _
    | with_reducible apply answers_next
    | with_reducible apply State.raise_kept
    | with_reducible apply State.clock_kept
    | with_reducible apply State.set0_kept
    | with_reducible apply answers_ite
    | with_reducible assumption
    | intro _
    | with_reducible apply kept_foldl
    | with_reducible apply kept_foldl_fst
    | with_reducible apply kept_foldr
    | with_reducible apply kept_ite
    | with_reducible apply kept_ite_fst
    | with_reducible apply kept_ite_snd
    | with_reducible apply kept_ite_third
    | fail_if_no_progress (with_reducible refine Kept.update ?_ rfl rfl rfl rfl rfl))

theorem State.enqueueHeld_kept {z : State} (s : State) (h : Held) (hz : Kept z s) : Kept z (State.enqueueHeld s h) := by
  unfold State.enqueueHeld
  repeat' (first
    | with_reducible assumption
    | intro _
    | with_reducible apply State.setItem_kept
    | with_reducible apply State.pushEntry_kept
    | with_reducible apply State.dropHeld_kept
    | with_reducible apply kept_foldl_snd
    | with_reducible apply kept_foldl
    | with_reducible apply kept_foldl_fst
    | with_reducible apply kept_foldr
    | with_reducible apply kept_ite
    | with_reducible apply kept_ite_fst
    | with_reducible apply kept_ite_snd
    | with_reducible apply kept_ite_third
    | fail_if_no_progress (with_reducible refine Kept.update ?_ rfl rfl rfl rfl rfl)
    | split)

theorem State.freeLeases_kept {z : State} (s : State) (hz : Kept z s) : Kept z (State.freeLeases s) := by
  unfold State.freeLeases
  repeat' (first
    | with_reducible assumption
    | intro _
    | with_reducible apply State.unlock_kept
    | with_reducible apply State.setBus_kept
    | with_reducible apply State.emit_kept
    | with_reducible apply State.grantNext_kept
    | with_reducible apply State.stopRing_kept
    | with_reducible apply kept_foldl_snd
    | with_reducible apply kept_foldl
    | with_reducible apply kept_foldl_fst
    | with_reducible apply kept_foldr
    | with_reducible apply kept_ite
    | with_reducible apply kept_ite_fst
    | with_reducible apply kept_ite_snd
    | with_reducible apply kept_ite_third
    | fail_if_no_progress (with_reducible refine Kept.update ?_ rfl rfl rfl rfl rfl))

theorem newDuty_s4 {z s : State} (hz : Kept z s) :
    Kept z { s with tke := { s.tke with voted := [] }, fio := { s.fio with latchDue := [0, 1] } } :=
  Kept.update hz rfl rfl rfl rfl rfl

theorem newDuty_s2 {z s : State} (m : Tab (BitVec 32)) (v : Tab (Option (BitVec 32))) (a : ImageBuf) (hz : Kept z s) :
    Kept z { s with
      tke := { s.tke with force := m, voted := v, asm := a }, asd := { s.asd with takeover := none, held := [], out := [] } } :=
  Kept.update hz rfl rfl rfl rfl rfl

theorem State.newDuty_kept {z : State} (s : State) (hz : Kept z s) : Kept z s.newDuty := by
  have h1 : Kept z ((s.freeLeases.wr Reg.ASD_EPOCH [] (BitVec.ofNat 32 (s.epoch + 1))).setRole 1) :=
    State.setRole_kept _ _ (State.wr_kept _ _ _ (State.freeLeases_kept _ hz))
  exact State.wr_kept _ _ _ (State.wr64_kept _ _ _ _ _ (kept_foldl (kept_foldl (State.sendTickFrames_kept _ (newDuty_s4
    (State.outputSentences_kept _ (State.fbSlots_kept _ (State.uaGoOnAll_kept _ (State.fbActivateAll_kept _ (newDuty_s2 _ _ _ h1)))))))
    (fun _ _ hu => State.enqueueHeld_kept _ _ hu)) (fun _ _ hu => State.setSeqNext_kept _ _ _ hu)))

theorem execTakeover_answers (t : Nat) (s : State) : Answers (s.clock t) (execTakeover t s) := by
  unfold execTakeover
  repeat' (first
    | with_reducible exact Kept.refl _
    | intro _
    | with_reducible apply answers_next
    | with_reducible apply State.newDuty_kept
    | with_reducible apply State.asdCount_kept
    | with_reducible apply State.raise_kept
    | with_reducible apply State.clock_kept
    | with_reducible apply State.redundantDown_kept
    | with_reducible apply answers_ite
    | with_reducible assumption
    | intro _
    | with_reducible apply kept_foldl
    | with_reducible apply kept_foldl_fst
    | with_reducible apply kept_foldr
    | with_reducible apply kept_ite
    | with_reducible apply kept_ite_fst
    | with_reducible apply kept_ite_snd
    | with_reducible apply kept_ite_third
    | fail_if_no_progress (with_reducible refine Kept.update ?_ rfl rfl rfl rfl rfl)
    | split
    | extract_lets)

theorem execFenceTimeout_answers (t : Nat) (s : State) : Answers (s.clock t) (execFenceTimeout t s) := by
  unfold execFenceTimeout
  repeat' (first
    | with_reducible exact Kept.refl _
    | intro _
    | with_reducible apply answers_next
    | with_reducible apply State.clock_kept
    | with_reducible apply State.health_kept
    | with_reducible apply State.fenceNow_kept
    | with_reducible apply answers_ite)

theorem execFabricLinkDownFence_answers (t : Nat) (s : State) : Answers (s.clock t) (execFabricLinkDownFence t s) := by
  unfold execFabricLinkDownFence
  repeat' (first
    | with_reducible exact Kept.refl _
    | intro _
    | with_reducible apply answers_next
    | with_reducible apply State.clock_kept
    | with_reducible apply State.fenceNow_kept
    | with_reducible apply answers_ite
    | with_reducible assumption
    | intro _
    | with_reducible apply kept_foldl
    | with_reducible apply kept_foldl_fst
    | with_reducible apply kept_foldr
    | with_reducible apply kept_ite
    | with_reducible apply kept_ite_fst
    | with_reducible apply kept_ite_snd
    | with_reducible apply kept_ite_third
    | fail_if_no_progress (with_reducible refine Kept.update ?_ rfl rfl rfl rfl rfl)
    | split
    | extract_lets)

theorem State.startHandover_kept {z : State} (s : State) (auto : Bool) (hz : Kept z s) : Kept z (State.startHandover s auto) := by
  unfold State.startHandover
  repeat' (first
    | with_reducible assumption
    | intro _
    | with_reducible apply State.set0_kept
    | with_reducible apply State.pairSend_kept
    | with_reducible apply kept_foldl
    | with_reducible apply kept_foldl_fst
    | with_reducible apply kept_foldr
    | with_reducible apply kept_ite
    | with_reducible apply kept_ite_fst
    | with_reducible apply kept_ite_snd
    | with_reducible apply kept_ite_third
    | fail_if_no_progress (with_reducible refine Kept.update ?_ rfl rfl rfl rfl rfl))

theorem execRevertHoldExpiry_answers (t : Nat) (s : State) : Answers (s.clock t) (execRevertHoldExpiry t s) := by
  unfold execRevertHoldExpiry
  repeat' (first
    | with_reducible exact Kept.refl _
    | intro _
    | with_reducible apply answers_next
    | with_reducible apply State.clock_kept
    | with_reducible apply State.startHandover_kept
    | with_reducible apply answers_ite)

theorem State.cmdHandover_kept {z : State} (s : State) (hz : Kept z s) : Kept z (State.cmdHandover s) := by
  unfold State.cmdHandover
  repeat' (first
    | with_reducible assumption
    | intro _
    | with_reducible apply State.set0_kept
    | with_reducible apply State.startHandover_kept
    | with_reducible apply kept_foldl
    | with_reducible apply kept_foldl_fst
    | with_reducible apply kept_foldr
    | with_reducible apply kept_ite)

theorem execAsdHandover_answers (t : Nat) (party : Party) (s : State) : Answers (s.clock t) (execAsdHandover t party s) := by
  unfold execAsdHandover
  repeat' (first
    | with_reducible exact Kept.refl _
    | intro _
    | with_reducible apply answers_next
    | with_reducible apply State.hostWrite_kept
    | with_reducible apply State.cmdHandover_kept)

theorem execHandoverReceived_answers (t : Nat) (payload : Bytes) (s : State) : Answers (s.clock t) (execHandoverReceived t payload s) := by
  unfold execHandoverReceived
  repeat' (first
    | with_reducible exact Kept.refl _
    | intro _
    | with_reducible apply answers_next
    | with_reducible apply State.pairFrame_kept
    | with_reducible apply State.set0_kept
    | with_reducible apply State.clock_kept
    | with_reducible apply kept_foldl_snd
    | with_reducible apply answers_ite
    | with_reducible assumption
    | intro _
    | with_reducible apply kept_foldl
    | with_reducible apply kept_foldl_fst
    | with_reducible apply kept_foldr
    | with_reducible apply kept_ite
    | with_reducible apply kept_ite_fst
    | with_reducible apply kept_ite_snd
    | with_reducible apply kept_ite_third
    | fail_if_no_progress (with_reducible refine Kept.update ?_ rfl rfl rfl rfl rfl))

theorem State.holdAccepted_kept {z : State} (s : State) (d : Nat) (hz : Kept z s) : Kept z (State.holdAccepted s d) := by
  unfold State.holdAccepted
  repeat' (first
    | with_reducible assumption
    | intro _
    | with_reducible apply State.withdrawCopies_kept
    | with_reducible apply kept_foldl
    | with_reducible apply kept_foldl_fst
    | with_reducible apply kept_foldr
    | with_reducible apply kept_ite
    | with_reducible apply kept_ite_fst
    | with_reducible apply kept_ite_snd
    | with_reducible apply kept_ite_third
    | fail_if_no_progress (with_reducible refine Kept.update ?_ rfl rfl rfl rfl rfl)
    | split)

theorem State.handoverDone_kept {z : State} (s : State) (hz : Kept z s) : Kept z (State.handoverDone s) := by
  unfold State.handoverDone
  repeat' (first
    | with_reducible assumption
    | intro _
    | with_reducible apply State.raise_kept
    | with_reducible apply State.asdCount_kept
    | with_reducible apply State.set0_kept
    | with_reducible apply kept_foldl
    | with_reducible apply kept_foldl_fst
    | with_reducible apply kept_foldr
    | with_reducible apply kept_ite)

theorem State.oldDuty_kept {z : State} (s : State) (hz : Kept z s) : Kept z (State.oldDuty s) := by
  unfold State.oldDuty
  repeat' (first
    | with_reducible assumption
    | intro _
    | with_reducible apply State.holdAccepted_kept
    | with_reducible apply State.setRole_kept
    | with_reducible apply State.set0_kept
    | with_reducible apply State.wr64_kept
    | with_reducible apply State.fbSilenceAll_kept
    | with_reducible apply State.refuseOut_kept
    | with_reducible apply State.wr_kept
    | with_reducible apply State.uaHoldAll_kept
    | with_reducible apply State.handoverDone_kept
    | with_reducible apply kept_foldl_snd
    | with_reducible apply kept_foldl
    | with_reducible apply kept_foldl_fst
    | with_reducible apply kept_foldr
    | with_reducible apply kept_ite
    | with_reducible apply kept_ite_fst
    | with_reducible apply kept_ite_snd
    | with_reducible apply kept_ite_third
    | fail_if_no_progress (with_reducible refine Kept.update ?_ rfl rfl rfl rfl rfl))

theorem State.handoverAbandoned_kept {z : State} (s : State) (auto : Bool) (hz : Kept z s) : Kept z (State.handoverAbandoned s auto) := by
  unfold State.handoverAbandoned
  repeat' (first
    | with_reducible assumption
    | intro _
    | with_reducible apply State.set0_kept
    | with_reducible apply kept_foldl
    | with_reducible apply kept_foldl_fst
    | with_reducible apply kept_foldr
    | with_reducible apply kept_ite
    | with_reducible apply kept_ite_fst
    | with_reducible apply kept_ite_snd
    | with_reducible apply kept_ite_third
    | fail_if_no_progress (with_reducible refine Kept.update ?_ rfl rfl rfl rfl rfl))

theorem execHandoverInstant_answers (t : Nat) (s : State) : Answers (s.clock t) (execHandoverInstant t s) := by
  unfold execHandoverInstant
  repeat' (first
    | with_reducible exact Kept.refl _
    | intro _
    | with_reducible apply answers_next
    | with_reducible apply State.set0_kept
    | with_reducible apply State.clock_kept
    | with_reducible apply State.newDuty_kept
    | with_reducible apply State.handoverDone_kept
    | with_reducible apply State.oldDuty_kept
    | with_reducible apply State.handoverAbandoned_kept
    | with_reducible apply answers_ite
    | with_reducible assumption
    | intro _
    | with_reducible apply kept_foldl
    | with_reducible apply kept_foldl_fst
    | with_reducible apply kept_foldr
    | with_reducible apply kept_ite
    | with_reducible apply kept_ite_fst
    | with_reducible apply kept_ite_snd
    | with_reducible apply kept_ite_third
    | fail_if_no_progress (with_reducible refine Kept.update ?_ rfl rfl rfl rfl rfl)
    | split
    | extract_lets)

theorem State.fetch_kept {z : State} (s : State) (r : Bytes) (hz : Kept z s) : Kept z (State.fetch s r) := by
  unfold State.fetch
  repeat' (first
    | with_reducible assumption
    | intro _
    | with_reducible apply State.asdCount_kept
    | with_reducible apply State.pairSend_kept
    | with_reducible apply kept_foldl_snd
    | with_reducible apply kept_foldl
    | with_reducible apply kept_foldl_fst
    | with_reducible apply kept_foldr
    | with_reducible apply kept_ite
    | with_reducible apply kept_ite_fst
    | with_reducible apply kept_ite_snd
    | with_reducible apply kept_ite_third
    | fail_if_no_progress (with_reducible refine Kept.update ?_ rfl rfl rfl rfl rfl)
    | split
    | extract_lets)

theorem execFetchReceived_answers (t : Nat) (payload : Bytes) (s : State) : Answers (s.clock t) (execFetchReceived t payload s) := by
  unfold execFetchReceived
  repeat' (first
    | with_reducible exact Kept.refl _
    | intro _
    | with_reducible apply answers_next
    | with_reducible apply State.pairFrame_kept
    | with_reducible apply State.fetch_kept
    | with_reducible apply State.clock_kept
    | with_reducible apply kept_foldl_snd
    | with_reducible apply answers_ite
    | with_reducible assumption
    | intro _
    | with_reducible apply kept_foldl)

theorem State.losePoisoned_kept {z : State} (s : State) (d : Nat) (hz : Kept z s) : Kept z (State.losePoisoned s d) := by
  unfold State.losePoisoned
  repeat' (first
    | with_reducible assumption
    | intro _
    | with_reducible apply State.raise_kept
    | with_reducible apply State.assertErr_kept
    | with_reducible apply State.removeEntry_kept
    | with_reducible apply State.freeItem_kept
    | with_reducible apply kept_foldl_snd
    | with_reducible apply kept_foldl)

theorem State.fetchData_kept {z : State} (s : State) (r : Bytes) (hz : Kept z s) : Kept z (State.fetchData s r) := by
  unfold State.fetchData
  repeat' (first
    | with_reducible assumption
    | intro _
    | with_reducible apply State.losePoisoned_kept
    | with_reducible apply State.setItem_kept
    | with_reducible apply kept_foldl
    | with_reducible apply kept_foldl_fst
    | with_reducible apply kept_foldr
    | with_reducible apply kept_ite
    | with_reducible apply kept_ite_fst
    | with_reducible apply kept_ite_snd
    | with_reducible apply kept_ite_third
    | fail_if_no_progress (with_reducible refine Kept.update ?_ rfl rfl rfl rfl rfl)
    | split)

theorem execFetchDataReceived_answers (t : Nat) (payload : Bytes) (s : State) : Answers (s.clock t) (execFetchDataReceived t payload s) := by
  unfold execFetchDataReceived
  repeat' (first
    | with_reducible exact Kept.refl _
    | intro _
    | with_reducible apply answers_next
    | with_reducible apply State.pairFrame_kept
    | with_reducible apply State.fetchData_kept
    | with_reducible apply State.clock_kept
    | with_reducible apply kept_foldl_snd
    | with_reducible apply answers_ite
    | with_reducible assumption
    | intro _
    | with_reducible apply kept_foldl)

theorem execLogReceived_answers (t : Nat) (payload : Bytes) (s : State) : Answers (s.clock t) (execLogReceived t payload s) := by
  unfold execLogReceived
  repeat' (first
    | with_reducible exact Kept.refl _
    | intro _
    | with_reducible apply answers_next
    | with_reducible apply State.pairFrame_kept
    | with_reducible apply State.clock_kept
    | with_reducible apply kept_foldl_snd
    | with_reducible apply answers_ite
    | with_reducible assumption
    | intro _
    | with_reducible apply kept_foldl
    | with_reducible apply kept_foldl_fst
    | with_reducible apply kept_foldr
    | with_reducible apply kept_ite
    | with_reducible apply kept_ite_fst
    | with_reducible apply kept_ite_snd
    | with_reducible apply kept_ite_third
    | fail_if_no_progress (with_reducible refine Kept.update ?_ rfl rfl rfl rfl rfl))

theorem execGableMacRetry_answers (t : Nat) (lane : Fin 2) (ok : Bool) (s : State) : Answers (s.clock t) (execGableMacRetry t lane ok s) := by
  unfold execGableMacRetry
  repeat' (first
    | with_reducible exact Kept.refl _
    | intro _
    | with_reducible apply answers_next
    | with_reducible apply State.releaseCopy_kept
    | with_reducible apply State.clock_kept
    | with_reducible apply State.setGableLane_kept
    | with_reducible apply State.portLost_kept
    | with_reducible apply answers_ite
    | with_reducible assumption
    | intro _
    | with_reducible apply kept_foldl
    | with_reducible apply kept_foldl_fst
    | with_reducible apply kept_foldr
    | with_reducible apply kept_ite
    | with_reducible apply kept_ite_fst
    | with_reducible apply kept_ite_snd
    | with_reducible apply kept_ite_third
    | fail_if_no_progress (with_reducible refine Kept.update ?_ rfl rfl rfl rfl rfl)
    | split)

end Sys2Proof.Machine
end

