-- ==== Sys2Proof/Laws/KeptModule.lean ====
section
/-! SUPPORT. What Kept says holds of swaps, leases, power states, the tick, resets, register access, the host and windows; their commands answer a next state. -/

namespace Sys2Proof.Machine

open Sys2Proof

/-! Machine/Swap.lean -/

theorem State.lockedWrite_kept {z : State} (s : State) (addr : Nat) (hz : Kept z s) : Kept z (State.lockedWrite s addr) := by
  unfold State.lockedWrite
  repeat' (first
    | with_reducible assumption
    | intro _
    | with_reducible apply State.logEvent_kept
    | with_reducible apply State.bump_kept)

theorem State.swapRefused_kept {z : State} (s : State) (code : Nat) (hz : Kept z s) : Kept z (State.swapRefused s code) := by
  unfold State.swapRefused
  repeat' (first
    | with_reducible assumption
    | intro _
    | with_reducible apply State.set0_kept
    | with_reducible apply State.logEvent_kept
    | with_reducible apply State.emit_kept
    | with_reducible apply State.stage_kept
    | with_reducible apply kept_foldl
    | with_reducible apply kept_foldl_fst
    | with_reducible apply kept_foldr
    | with_reducible apply kept_ite
    | with_reducible apply kept_ite_fst
    | with_reducible apply kept_ite_snd
    | with_reducible apply kept_ite_third
    | fail_if_no_progress (with_reducible refine Kept.update ?_ rfl rfl rfl rfl rfl))

theorem State.requestRefused_kept {z : State} (s : State) (code : Nat) (hz : Kept z s) : Kept z (State.requestRefused s code) := by
  unfold State.requestRefused
  repeat' (first
    | with_reducible assumption
    | intro _
    | with_reducible apply State.emit_kept
    | with_reducible apply State.stage_kept
    | with_reducible apply State.logEvent_kept
    | with_reducible apply State.swapRefused_kept
    | with_reducible apply kept_foldl
    | with_reducible apply kept_foldl_fst
    | with_reducible apply kept_foldr
    | with_reducible apply kept_ite)

theorem State.openSet_kept {z : State} (s : State) (hz : Kept z s) : Kept z (State.openSet s) := by
  unfold State.openSet
  repeat' (first
    | with_reducible assumption
    | intro _
    | with_reducible apply State.swapRefused_kept
    | with_reducible apply kept_foldl
    | with_reducible apply kept_foldl_fst
    | with_reducible apply kept_foldr
    | with_reducible apply kept_ite
    | with_reducible apply kept_ite_fst
    | with_reducible apply kept_ite_snd
    | with_reducible apply kept_ite_third
    | fail_if_no_progress (with_reducible refine Kept.update ?_ rfl rfl rfl rfl rfl))

theorem State.gngAddrWrite_kept {z : State} (s : State) (w : BitVec 32) (hz : Kept z s) : Kept z (State.gngAddrWrite s w) := by
  unfold State.gngAddrWrite
  repeat' (first
    | with_reducible assumption
    | intro _
    | with_reducible apply State.openSet_kept
    | with_reducible apply State.gngAddr_kept
    | with_reducible apply kept_foldl
    | with_reducible apply kept_foldl_fst
    | with_reducible apply kept_foldr
    | with_reducible apply kept_ite)

theorem execGngOpenWrite_answers (t : Nat) (party : Party) (entry : BitVec 16) (open_ : Bool) (s : State) : Answers (s.clock t) (execGngOpenWrite t party entry open_ s) := by
  unfold execGngOpenWrite
  repeat' (first
    | with_reducible exact Kept.refl _
    | intro _
    | with_reducible apply answers_next
    | with_reducible apply State.hostWrite_kept
    | with_reducible apply State.gngAddrWrite_kept)

theorem State.closeAll_kept {z : State} (s : State) (hz : Kept z s) : Kept z (State.closeAll s) := by
  unfold State.closeAll
  repeat' (first
    | with_reducible assumption
    | intro _
    | with_reducible apply State.set0_kept
    | with_reducible apply State.gngAddr_kept
    | with_reducible apply kept_foldl
    | with_reducible apply kept_foldl_fst
    | with_reducible apply kept_foldr
    | with_reducible apply kept_ite)

theorem State.shrWrite_kept {z : State} (s : State) (v : BitVec 32) (hz : Kept z s) : Kept z (State.shrWrite s v) := by
  unfold State.shrWrite
  repeat' (first
    | with_reducible assumption
    | intro _
    | with_reducible apply State.lockedWrite_kept
    | with_reducible apply kept_foldl
    | with_reducible apply kept_foldl_fst
    | with_reducible apply kept_foldr
    | with_reducible apply kept_ite
    | with_reducible apply kept_ite_fst
    | with_reducible apply kept_ite_snd
    | with_reducible apply kept_ite_third
    | fail_if_no_progress (with_reducible refine Kept.update ?_ rfl rfl rfl rfl rfl))

theorem execCfgShrDataWrite_answers (t : Nat) (party : Party) (value : BitVec 32) (s : State) : Answers (s.clock t) (execCfgShrDataWrite t party value s) := by
  unfold execCfgShrDataWrite
  repeat' (first
    | with_reducible exact Kept.refl _
    | intro _
    | with_reducible apply answers_next
    | with_reducible apply State.hostWrite_kept
    | with_reducible apply State.shrWrite_kept)

theorem State.updState_kept {z : State} (s : State) (st code : Nat) (hz : Kept z s) : Kept z (State.updState s st code) := by
  unfold State.updState
  repeat' (first
    | with_reducible assumption
    | intro _
    | with_reducible apply State.set0_kept)

theorem State.updStart_kept {z : State} (s : State) (package usb : Bool) (hz : Kept z s) : Kept z (State.updStart s package usb) := by
  unfold State.updStart
  repeat' (first
    | with_reducible assumption
    | intro _
    | with_reducible apply State.burn_kept
    | with_reducible apply State.updState_kept
    | with_reducible apply kept_foldl
    | with_reducible apply kept_foldl_fst
    | with_reducible apply kept_foldr
    | with_reducible apply kept_ite
    | with_reducible apply kept_ite_fst
    | with_reducible apply kept_ite_snd
    | with_reducible apply kept_ite_third
    | fail_if_no_progress (with_reducible refine Kept.update ?_ rfl rfl rfl rfl rfl))

theorem State.updData_kept {z : State} (s : State) (bs : Bytes) (hz : Kept z s) : Kept z (State.updData s bs) := by
  unfold State.updData
  repeat' (first
    | with_reducible assumption
    | intro _
    | with_reducible apply State.burn_kept
    | with_reducible apply kept_foldl
    | with_reducible apply kept_foldl_fst
    | with_reducible apply kept_foldr
    | with_reducible apply kept_ite
    | with_reducible apply kept_ite_fst
    | with_reducible apply kept_ite_snd
    | with_reducible apply kept_ite_third
    | fail_if_no_progress (with_reducible refine Kept.update ?_ rfl rfl rfl rfl rfl)
    | split)

theorem State.loadPackage_kept {z : State} (s : State) (h body : Bytes) (hz : Kept z s) : Kept z (State.loadPackage s h body) := by
  unfold State.loadPackage
  repeat' (first
    | with_reducible assumption
    | intro _
    | with_reducible apply kept_foldl
    | with_reducible apply kept_foldl_fst
    | with_reducible apply kept_foldr
    | with_reducible apply kept_ite
    | with_reducible apply kept_ite_fst
    | with_reducible apply kept_ite_snd
    | with_reducible apply kept_ite_third
    | fail_if_no_progress (with_reducible refine Kept.update ?_ rfl rfl rfl rfl rfl))

theorem State.updCommit_kept {z : State} (s : State) (hz : Kept z s) : Kept z (State.updCommit s) := by
  unfold State.updCommit
  repeat' (first
    | with_reducible assumption
    | intro _
    | with_reducible apply State.set0_kept
    | with_reducible apply State.updState_kept
    | with_reducible apply State.loadPackage_kept
    | with_reducible apply State.burn_kept
    | with_reducible apply kept_foldl
    | with_reducible apply kept_foldl_fst
    | with_reducible apply kept_foldr
    | with_reducible apply kept_ite
    | with_reducible apply kept_ite_fst
    | with_reducible apply kept_ite_snd
    | with_reducible apply kept_ite_third
    | fail_if_no_progress (with_reducible refine Kept.update ?_ rfl rfl rfl rfl rfl)
    | split)

theorem State.updAbort_kept {z : State} (s : State) (hz : Kept z s) : Kept z (State.updAbort s) := by
  unfold State.updAbort
  repeat' (first
    | with_reducible assumption
    | intro _
    | with_reducible apply State.set0_kept
    | with_reducible apply State.updState_kept
    | with_reducible apply kept_foldl
    | with_reducible apply kept_foldl_fst
    | with_reducible apply kept_foldr
    | with_reducible apply kept_ite
    | with_reducible apply kept_ite_fst
    | with_reducible apply kept_ite_snd
    | with_reducible apply kept_ite_third
    | fail_if_no_progress (with_reducible refine Kept.update ?_ rfl rfl rfl rfl rfl)
    | split)

theorem State.updKeep_kept {z : State} (s : State) (package : Bool) (stage : Nat) (hz : Kept z s) : Kept z (State.updKeep s package stage) := by
  unfold State.updKeep
  repeat' (first
    | with_reducible assumption
    | intro _
    | with_reducible apply State.set0_kept)

theorem State.updCtl_kept {z : State} (s : State) (w : Nat) (hz : Kept z s) : Kept z (State.updCtl s w) := by
  unfold State.updCtl
  repeat' (first
    | with_reducible assumption
    | intro _
    | with_reducible apply State.updKeep_kept
    | with_reducible apply State.updStart_kept
    | with_reducible apply State.updCommit_kept
    | with_reducible apply State.updAbort_kept
    | with_reducible apply kept_foldl
    | with_reducible apply kept_foldl_fst
    | with_reducible apply kept_foldr
    | with_reducible apply kept_ite)

theorem execCfgUpdStart_answers (t : Nat) (party : Party) (package : Bool) (stageS : BitVec 8) (s : State) : Answers (s.clock t) (execCfgUpdStart t party package stageS s) := by
  unfold execCfgUpdStart
  repeat' (first
    | with_reducible exact Kept.refl _
    | intro _
    | with_reducible apply answers_next
    | with_reducible apply State.hostWrite_kept
    | with_reducible apply State.updKeep_kept
    | with_reducible apply State.updStart_kept)

theorem execCfgUpdData_answers (t : Nat) (party : Party) (value : BitVec 32) (s : State) : Answers (s.clock t) (execCfgUpdData t party value s) := by
  unfold execCfgUpdData
  repeat' (first
    | with_reducible exact Kept.refl _
    | intro _
    | with_reducible apply answers_next
    | with_reducible apply State.hostWrite_kept
    | with_reducible apply State.updData_kept)

theorem execCfgUpdCommit_answers (t : Nat) (party : Party) (package : Bool) (stageS : BitVec 8) (s : State) : Answers (s.clock t) (execCfgUpdCommit t party package stageS s) := by
  unfold execCfgUpdCommit
  repeat' (first
    | with_reducible exact Kept.refl _
    | intro _
    | with_reducible apply answers_next
    | with_reducible apply State.hostWrite_kept
    | with_reducible apply State.updKeep_kept
    | with_reducible apply State.updCommit_kept)

theorem execCfgUpdAbort_answers (t : Nat) (party : Party) (package : Bool) (stageS : BitVec 8) (s : State) : Answers (s.clock t) (execCfgUpdAbort t party package stageS s) := by
  unfold execCfgUpdAbort
  repeat' (first
    | with_reducible exact Kept.refl _
    | intro _
    | with_reducible apply answers_next
    | with_reducible apply State.hostWrite_kept
    | with_reducible apply State.updKeep_kept
    | with_reducible apply State.updAbort_kept)

theorem State.asSwapped_kept {z : State} (s : State) (staged : Bool) (hz : Kept z s) : Kept z (State.asSwapped s staged) := by
  unfold State.asSwapped
  repeat' (first
    | with_reducible assumption
    | intro _
    | with_reducible apply State.setConfigs_kept
    | with_reducible apply kept_foldl
    | with_reducible apply kept_foldl_fst
    | with_reducible apply kept_foldr
    | with_reducible apply kept_ite
    | with_reducible apply kept_ite_fst
    | with_reducible apply kept_ite_snd
    | with_reducible apply kept_ite_third
    | fail_if_no_progress (with_reducible refine Kept.update ?_ rfl rfl rfl rfl rfl))

theorem State.schedule_kept {z : State} (s : State) (r : SwapReq) (hz : Kept z s) : Kept z (State.schedule s r) := by
  unfold State.schedule
  repeat' (first
    | with_reducible assumption
    | intro _
    | with_reducible apply State.wr64_kept
    | with_reducible apply State.stage_kept
    | with_reducible apply State.set0_kept
    | with_reducible apply kept_foldl
    | with_reducible apply kept_foldl_fst
    | with_reducible apply kept_foldr
    | with_reducible apply kept_ite
    | with_reducible apply kept_ite_fst
    | with_reducible apply kept_ite_snd
    | with_reducible apply kept_ite_third
    | fail_if_no_progress (with_reducible refine Kept.update ?_ rfl rfl rfl rfl rfl))

theorem State.swapRequest_kept {z : State} (s : State) (kind : SwapKind) (at_ : Bool) (hz : Kept z s) : Kept z (State.swapRequest s kind at_) := by
  unfold State.swapRequest
  repeat' (first
    | with_reducible assumption
    | intro _
    | with_reducible apply State.set0_kept
    | with_reducible apply State.sendShadow_kept
    | with_reducible apply State.closeAll_kept
    | with_reducible apply State.requestRefused_kept
    | with_reducible apply State.stage_kept
    | with_reducible apply State.swapRefused_kept
    | with_reducible apply kept_foldl
    | with_reducible apply kept_foldl_fst
    | with_reducible apply kept_foldr
    | with_reducible apply kept_ite
    | with_reducible apply kept_ite_fst
    | with_reducible apply kept_ite_snd
    | with_reducible apply kept_ite_third
    | fail_if_no_progress (with_reducible refine Kept.update ?_ rfl rfl rfl rfl rfl))

theorem State.swapCancel_kept {z : State} (s : State) (hz : Kept z s) : Kept z (State.swapCancel s) := by
  unfold State.swapCancel
  repeat' (first
    | with_reducible assumption
    | intro _
    | with_reducible apply State.swapRefused_kept
    | with_reducible apply kept_foldl
    | with_reducible apply kept_foldl_fst
    | with_reducible apply kept_foldr
    | with_reducible apply kept_ite
    | with_reducible apply kept_ite_fst
    | with_reducible apply kept_ite_snd
    | with_reducible apply kept_ite_third
    | fail_if_no_progress (with_reducible refine Kept.update ?_ rfl rfl rfl rfl rfl)
    | split)

theorem State.cfgSwap_kept {z : State} (s : State) (w : Nat) (hz : Kept z s) : Kept z (State.cfgSwap s w) := by
  unfold State.cfgSwap
  repeat' (first
    | with_reducible assumption
    | intro _
    | with_reducible apply State.swapRequest_kept
    | with_reducible apply State.swapCancel_kept
    | with_reducible apply kept_foldl
    | with_reducible apply kept_foldl_fst
    | with_reducible apply kept_foldr
    | with_reducible apply kept_ite
    | with_reducible apply kept_ite_fst
    | with_reducible apply kept_ite_snd
    | with_reducible apply kept_ite_third
    | fail_if_no_progress (with_reducible refine Kept.update ?_ rfl rfl rfl rfl rfl)
    | split)

theorem execSwap_answers (t : Nat) (party : Party) (at_ : Bool) (s : State) : Answers (s.clock t) (execSwap t party at_ s) := by
  unfold execSwap
  repeat' (first
    | with_reducible exact Kept.refl _
    | intro _
    | with_reducible apply answers_next
    | with_reducible apply State.hostWrite_kept
    | with_reducible apply State.swapRequest_kept)

theorem execStagedSwap_answers (t : Nat) (party : Party) (at_ : Bool) (s : State) : Answers (s.clock t) (execStagedSwap t party at_ s) := by
  unfold execStagedSwap
  repeat' (first
    | with_reducible exact Kept.refl _
    | intro _
    | with_reducible apply answers_next
    | with_reducible apply State.hostWrite_kept
    | with_reducible apply State.swapRequest_kept)

theorem execSwapRevert_answers (t : Nat) (party : Party) (at_ : Bool) (s : State) : Answers (s.clock t) (execSwapRevert t party at_ s) := by
  unfold execSwapRevert
  repeat' (first
    | with_reducible exact Kept.refl _
    | intro _
    | with_reducible apply answers_next
    | with_reducible apply State.hostWrite_kept
    | with_reducible apply State.swapRequest_kept)

theorem execSwapCancel_answers (t : Nat) (party : Party) (s : State) : Answers (s.clock t) (execSwapCancel t party s) := by
  unfold execSwapCancel
  repeat' (first
    | with_reducible exact Kept.refl _
    | intro _
    | with_reducible apply answers_next
    | with_reducible apply State.hostWrite_kept
    | with_reducible apply State.swapCancel_kept)

theorem State.exchange_kept {z : State} (s : State) (t : Tab (Option (BitVec 32))) (hz : Kept z s) : Kept z (State.exchange s t).1 := by
  unfold State.exchange
  repeat' (first
    | with_reducible assumption
    | intro _
    | with_reducible apply State.setConfig_kept
    | with_reducible apply kept_foldl_snd
    | with_reducible apply kept_foldl
    | with_reducible apply kept_foldl_fst)

theorem State.fbRestart_kept {z : State} (old new : State) (hz : Kept z new) : Kept z (State.fbRestart old new) := by
  unfold State.fbRestart
  repeat' (first
    | with_reducible assumption
    | intro _
    | with_reducible apply State.fbStart_kept
    | with_reducible apply kept_foldl_snd
    | with_reducible apply kept_foldl
    | with_reducible apply kept_foldl_fst
    | with_reducible apply kept_foldr
    | with_reducible apply kept_ite)

theorem State.doSwap_kept {z : State} (s : State) (hz : Kept z s) : Kept z (State.doSwap s) := by
  unfold State.doSwap
  repeat' (first
    | with_reducible assumption
    | intro _
    | with_reducible apply State.set0_kept
    | with_reducible apply State.wr64_kept
    | with_reducible apply State.logEvent_kept
    | with_reducible apply State.trace_kept
    | with_reducible apply State.emit_kept
    | with_reducible apply State.exchange_kept
    | with_reducible apply State.setChan_kept
    | with_reducible apply State.recovSwap_kept
    | with_reducible apply State.fbRestart_kept
    | with_reducible apply kept_foldl_snd
    | with_reducible apply kept_foldl
    | with_reducible apply kept_foldl_fst
    | with_reducible apply kept_foldr
    | with_reducible apply kept_ite
    | with_reducible apply kept_ite_fst
    | with_reducible apply kept_ite_snd
    | with_reducible apply kept_ite_third
    | fail_if_no_progress (with_reducible refine Kept.update ?_ rfl rfl rfl rfl rfl))

theorem execSwapDone_answers (t : Nat) (s : State) : Answers (s.clock t) (execSwapDone t s) := by
  unfold execSwapDone
  repeat' (first
    | with_reducible exact Kept.refl _
    | intro _
    | with_reducible apply answers_next
    | with_reducible apply State.doSwap_kept
    | with_reducible apply State.clock_kept
    | with_reducible apply State.told_kept
    | with_reducible apply State.regate_kept
    | with_reducible apply answers_ite
    | with_reducible assumption
    | intro _
    | with_reducible apply kept_foldl
    | with_reducible apply kept_foldl_fst
    | with_reducible apply kept_foldr
    | with_reducible apply kept_ite
    | with_reducible apply kept_ite_fst
    | with_reducible apply kept_ite_snd
    | with_reducible apply kept_ite_third
    | fail_if_no_progress (with_reducible refine Kept.update ?_ rfl rfl rfl rfl rfl))

theorem State.slotIdle_kept {z : State} (s : State) (n : Nat) (hz : Kept z s) : Kept z (State.slotIdle s n) := by
  unfold State.slotIdle
  repeat' (first
    | with_reducible assumption
    | intro _
    | with_reducible apply State.wr64_kept
    | with_reducible apply State.sf_kept
    | with_reducible apply State.dropCounted_kept
    | with_reducible apply kept_foldl_snd
    | with_reducible apply kept_foldl
    | with_reducible apply kept_foldl_fst
    | with_reducible apply kept_foldr
    | with_reducible apply kept_ite)

theorem State.applyGroup_kept {z : State} (s : State) (g : Nat) (hz : Kept z s) : Kept z (State.applyGroup s g) := by
  unfold State.applyGroup
  repeat' (first
    | with_reducible assumption
    | intro _
    | with_reducible apply State.reselectApps_kept
    | with_reducible apply State.slotIdle_kept
    | with_reducible apply State.portLost_kept
    | with_reducible apply State.exchange_kept
    | with_reducible apply State.sf_kept
    | with_reducible apply State.portStart_kept
    | with_reducible apply kept_foldl_snd
    | with_reducible apply kept_foldl
    | with_reducible apply kept_foldl_fst
    | with_reducible apply kept_foldr
    | with_reducible apply kept_ite
    | with_reducible apply kept_ite_fst
    | with_reducible apply kept_ite_snd
    | with_reducible apply kept_ite_third
    | fail_if_no_progress (with_reducible refine Kept.update ?_ rfl rfl rfl rfl rfl))

theorem State.stageGroup_kept {z : State} (s : State) (st : Stage) (g : Nat) (hz : Kept z s) : Kept z (State.stageGroup s st g) := by
  unfold State.stageGroup
  repeat' (first
    | with_reducible assumption
    | intro _
    | with_reducible apply State.applyGroup_kept
    | with_reducible apply State.set0_kept
    | with_reducible apply State.stage_kept
    | with_reducible apply kept_foldl
    | with_reducible apply kept_foldl_fst
    | with_reducible apply kept_foldr
    | with_reducible apply kept_ite
    | with_reducible apply kept_ite_fst
    | with_reducible apply kept_ite_snd
    | with_reducible apply kept_ite_third
    | fail_if_no_progress (with_reducible refine Kept.update ?_ rfl rfl rfl rfl rfl))

theorem State.stageUndo_kept {z : State} (s : State) (st : Stage) (code : Nat) (hz : Kept z s) : Kept z (State.stageUndo s st code) := by
  unfold State.stageUndo
  repeat' (first
    | with_reducible assumption
    | intro _
    | with_reducible apply State.stageGroup_kept
    | with_reducible apply State.swapRefused_kept
    | with_reducible apply kept_foldl
    | with_reducible apply kept_foldl_fst
    | with_reducible apply kept_foldr
    | with_reducible apply kept_ite
    | with_reducible apply kept_ite_fst
    | with_reducible apply kept_ite_snd
    | with_reducible apply kept_ite_third
    | fail_if_no_progress (with_reducible refine Kept.update ?_ rfl rfl rfl rfl rfl)
    | split)

theorem State.stagePools_kept {z : State} (s : State) (st : Stage) (hz : Kept z s) : Kept z (State.stagePools s st) := by
  unfold State.stagePools
  repeat' (first
    | with_reducible assumption
    | intro _
    | with_reducible apply State.schedule_kept
    | with_reducible apply State.exchange_kept
    | with_reducible apply State.req_kept
    | with_reducible apply State.stageUndo_kept
    | with_reducible apply kept_foldl_snd
    | with_reducible apply kept_foldl
    | with_reducible apply kept_foldl_fst
    | with_reducible apply kept_foldr
    | with_reducible apply kept_ite
    | with_reducible apply kept_ite_fst
    | with_reducible apply kept_ite_snd
    | with_reducible apply kept_ite_third
    | fail_if_no_progress (with_reducible refine Kept.update ?_ rfl rfl rfl rfl rfl))

theorem State.stageNext_kept {z : State} (s : State) (st : Stage) (hz : Kept z s) : Kept z (State.stageNext s st) := by
  unfold State.stageNext
  repeat' (first
    | with_reducible assumption
    | intro _
    | with_reducible apply State.set0_kept
    | with_reducible apply State.stagePools_kept
    | with_reducible apply State.stageGroup_kept
    | with_reducible apply State.swapRefused_kept
    | with_reducible apply State.stage_kept
    | with_reducible apply kept_foldl
    | with_reducible apply kept_foldl_fst
    | with_reducible apply kept_foldr
    | with_reducible apply kept_ite
    | with_reducible apply kept_ite_fst
    | with_reducible apply kept_ite_snd
    | with_reducible apply kept_ite_third
    | fail_if_no_progress (with_reducible refine Kept.update ?_ rfl rfl rfl rfl rfl)
    | split)

theorem execSwapCheckDone_answers (t : Nat) (s : State) : Answers (s.clock t) (execSwapCheckDone t s) := by
  unfold execSwapCheckDone
  repeat' (first
    | with_reducible exact Kept.refl _
    | intro _
    | with_reducible apply answers_next
    | with_reducible apply State.clock_kept
    | with_reducible apply State.swapRefused_kept
    | with_reducible apply State.stageNext_kept
    | with_reducible apply State.req_kept
    | with_reducible apply State.schedule_kept
    | with_reducible apply answers_ite
    | with_reducible assumption
    | intro _
    | with_reducible apply kept_foldl
    | with_reducible apply kept_foldl_fst
    | with_reducible apply kept_foldr
    | with_reducible apply kept_ite
    | with_reducible apply kept_ite_fst
    | with_reducible apply kept_ite_snd
    | with_reducible apply kept_ite_third
    | fail_if_no_progress (with_reducible refine Kept.update ?_ rfl rfl rfl rfl rfl)
    | split
    | extract_lets)

theorem execStageGroupDone_answers (t : Nat) (s : State) : Answers (s.clock t) (execStageGroupDone t s) := by
  unfold execStageGroupDone
  repeat' (first
    | with_reducible exact Kept.refl _
    | intro _
    | with_reducible apply answers_next
    | with_reducible apply State.clock_kept
    | with_reducible apply State.stage_kept
    | with_reducible apply State.stageNext_kept
    | with_reducible apply State.stagePools_kept
    | with_reducible apply answers_ite
    | with_reducible assumption
    | intro _
    | with_reducible apply kept_foldl
    | with_reducible apply kept_foldl_fst
    | with_reducible apply kept_foldr
    | with_reducible apply kept_ite
    | with_reducible apply kept_ite_fst
    | with_reducible apply kept_ite_snd
    | with_reducible apply kept_ite_third
    | fail_if_no_progress (with_reducible refine Kept.update ?_ rfl rfl rfl rfl rfl)
    | split
    | extract_lets)

theorem execStageTmo_answers (t : Nat) (s : State) : Answers (s.clock t) (execStageTmo t s) := by
  unfold execStageTmo
  repeat' (first
    | with_reducible exact Kept.refl _
    | intro _
    | with_reducible apply answers_next
    | with_reducible apply State.clock_kept
    | with_reducible apply State.stage_kept
    | with_reducible apply State.stageUndo_kept
    | with_reducible apply answers_ite
    | with_reducible assumption
    | intro _
    | with_reducible apply kept_foldl
    | with_reducible apply kept_foldl_fst
    | with_reducible apply kept_foldr
    | with_reducible apply kept_ite
    | with_reducible apply kept_ite_fst
    | with_reducible apply kept_ite_snd
    | with_reducible apply kept_ite_third
    | fail_if_no_progress (with_reducible refine Kept.update ?_ rfl rfl rfl rfl rfl)
    | split
    | extract_lets)

/-! Machine/Lease.lean -/

theorem State.giveUpRead_kept {z : State} (s : State) (q d : Nat) (hz : Kept z s) : Kept z (State.giveUpRead s q d) := by
  unfold State.giveUpRead
  repeat' (first
    | with_reducible assumption
    | intro _
    | with_reducible apply State.toReplay_kept
    | with_reducible apply State.removeEntry_kept
    | with_reducible apply State.setQueue_kept
    | with_reducible apply kept_foldl
    | with_reducible apply kept_foldl_fst
    | with_reducible apply kept_foldr
    | with_reducible apply kept_ite)

theorem State.flushCopy_kept {z : State} (s : State) (q d : Nat) (hz : Kept z s) : Kept z (State.flushCopy s q d) := by
  unfold State.flushCopy
  repeat' (first
    | with_reducible assumption
    | intro _
    | with_reducible apply State.releaseCopy_kept
    | with_reducible apply State.giveUpRead_kept
    | with_reducible apply State.removeEntry_kept
    | with_reducible apply kept_foldl
    | with_reducible apply kept_foldl_fst
    | with_reducible apply kept_foldr
    | with_reducible apply kept_ite
    | with_reducible apply kept_ite_fst
    | with_reducible apply kept_ite_snd
    | with_reducible apply kept_ite_third
    | fail_if_no_progress (with_reducible refine Kept.update ?_ rfl rfl rfl rfl rfl))

theorem State.revokeCopies_kept {z : State} (s : State) (q : Nat) (hz : Kept z s) : Kept z (State.revokeCopies s q) := by
  unfold State.revokeCopies
  repeat' (first
    | with_reducible assumption
    | intro _
    | with_reducible apply State.leaseRevoked_kept
    | with_reducible apply State.flushCopy_kept
    | with_reducible apply kept_foldl_snd
    | with_reducible apply kept_foldl)

theorem State.revokeService_kept {z : State} (s : State) (q : Nat) (hz : Kept z s) : Kept z (State.revokeService s q) := by
  unfold State.revokeService
  repeat' (first
    | with_reducible assumption
    | intro _
    | with_reducible apply State.leaseRevoked_kept
    | with_reducible apply kept_foldl
    | with_reducible apply kept_foldl_fst
    | with_reducible apply kept_foldr
    | with_reducible apply kept_ite
    | with_reducible apply kept_ite_fst
    | with_reducible apply kept_ite_snd
    | with_reducible apply kept_ite_third
    | fail_if_no_progress (with_reducible refine Kept.update ?_ rfl rfl rfl rfl rfl))

theorem State.revokeRing_kept {z : State} (s : State) (k : Nat) (hz : Kept z s) : Kept z (State.revokeRing s k) := by
  unfold State.revokeRing
  repeat' (first
    | with_reducible assumption
    | intro _
    | with_reducible apply State.leaseRevoked_kept
    | with_reducible apply State.stopRing_kept
    | with_reducible apply kept_foldl
    | with_reducible apply kept_foldl_fst
    | with_reducible apply kept_foldr
    | with_reducible apply kept_ite)

theorem execLeaseExpiry_answers (t : Nat) (res : LeaseRes) (s : State) : Answers (s.clock t) (execLeaseExpiry t res s) := by
  unfold execLeaseExpiry
  repeat' (first
    | with_reducible exact Kept.refl _
    | intro _
    | with_reducible apply answers_next
    | with_reducible apply State.clock_kept
    | with_reducible apply State.revokeLock_kept
    | with_reducible apply State.revokeSema_kept
    | with_reducible apply State.revokeCopies_kept
    | with_reducible apply State.revokeService_kept
    | with_reducible apply State.revokeRing_kept
    | with_reducible apply answers_ite
    | with_reducible assumption
    | intro _
    | with_reducible apply kept_foldl
    | with_reducible apply kept_foldl_fst
    | with_reducible apply kept_foldr
    | with_reducible apply kept_ite
    | with_reducible apply kept_ite_fst
    | with_reducible apply kept_ite_snd
    | with_reducible apply kept_ite_third
    | fail_if_no_progress (with_reducible refine Kept.update ?_ rfl rfl rfl rfl rfl)
    | split)

/-! Machine/Porch.lean -/

theorem State.relinquish_kept {z : State} (s : State) (reason : Nat) (hz : Kept z s) : Kept z (State.relinquish s reason) := by
  unfold State.relinquish
  repeat' (first
    | with_reducible assumption
    | intro _
    | with_reducible apply State.fenceNow_kept
    | with_reducible apply State.pairNow_kept
    | with_reducible apply State.pairSend_kept
    | with_reducible apply kept_foldl
    | with_reducible apply kept_foldl_fst
    | with_reducible apply kept_foldr
    | with_reducible apply kept_ite)

theorem State.porRefused_kept {z : State} (s : State) (code : Nat) (hz : Kept z s) : Kept z (State.porRefused s code) := by
  unfold State.porRefused
  repeat' (first
    | with_reducible assumption
    | intro _
    | with_reducible apply State.set0_kept)

theorem State.leaveTo_kept {z : State} (s : State) (st : Nat) (hz : Kept z s) : Kept z (State.leaveTo s st) := by
  unfold State.leaveTo
  repeat' (first
    | with_reducible assumption
    | intro _
    | with_reducible apply State.set0_kept
    | with_reducible apply State.relinquish_kept
    | with_reducible apply kept_foldl
    | with_reducible apply kept_foldl_fst
    | with_reducible apply kept_foldr
    | with_reducible apply kept_ite
    | with_reducible apply kept_ite_fst
    | with_reducible apply kept_ite_snd
    | with_reducible apply kept_ite_third
    | fail_if_no_progress (with_reducible refine Kept.update ?_ rfl rfl rfl rfl rfl))

theorem State.porCmd_kept {z : State} (s : State) (w : Nat) (hz : Kept z s) : Kept z (State.porCmd s w) := by
  unfold State.porCmd
  repeat' (first
    | with_reducible assumption
    | intro _
    | with_reducible apply State.set0_kept
    | with_reducible apply State.leaveTo_kept
    | with_reducible apply State.porRefused_kept
    | with_reducible apply kept_foldl
    | with_reducible apply kept_foldl_fst
    | with_reducible apply kept_foldr
    | with_reducible apply kept_ite)

theorem execPorListen_answers (t : Nat) (party : Party) (s : State) : Answers (s.clock t) (execPorListen t party s) := by
  unfold execPorListen
  repeat' (first
    | with_reducible exact Kept.refl _
    | intro _
    | with_reducible apply answers_next
    | with_reducible apply State.hostWrite_kept
    | with_reducible apply State.porCmd_kept)

theorem execPorStandby_answers (t : Nat) (party : Party) (s : State) : Answers (s.clock t) (execPorStandby t party s) := by
  unfold execPorStandby
  repeat' (first
    | with_reducible exact Kept.refl _
    | intro _
    | with_reducible apply answers_next
    | with_reducible apply State.hostWrite_kept
    | with_reducible apply State.porCmd_kept)

theorem execPorSleep_answers (t : Nat) (party : Party) (s : State) : Answers (s.clock t) (execPorSleep t party s) := by
  unfold execPorSleep
  repeat' (first
    | with_reducible exact Kept.refl _
    | intro _
    | with_reducible apply answers_next
    | with_reducible apply State.hostWrite_kept
    | with_reducible apply State.porCmd_kept)

theorem execPorStay_answers (t : Nat) (party : Party) (s : State) : Answers (s.clock t) (execPorStay t party s) := by
  unfold execPorStay
  repeat' (first
    | with_reducible exact Kept.refl _
    | intro _
    | with_reducible apply answers_next
    | with_reducible apply State.hostWrite_kept
    | with_reducible apply State.porCmd_kept)

theorem State.traceDown_kept {z : State} (s : State) (st : Nat) (hz : Kept z s) : Kept z (s.traceDown st) := by
  unfold State.traceDown
  extract_lets s1 saved buf
  have h1 : Kept z s1 := State.trace_kept _ _ _ _ hz
  have hb : s1.trc.buf.length ≤ 16384 → buf.length ≤ 16384 := fun hl => by
    by_cases h : st = 2
    · simp only [buf, if_pos h]; exact hl
    · simp only [buf, if_neg h]; exact Nat.zero_le _
  exact Kept.update (kept_buf (t := { s1.trc with running := false, buf := buf, wrapped := s1.trc.wrapped && st == 2 }) hb h1)
    rfl rfl rfl rfl rfl

theorem State.groupsOff_kept {z : State} (s : State) (st : Nat) (hz : Kept z s) : Kept z (State.groupsOff s st) := by
  unfold State.groupsOff
  repeat' (first
    | with_reducible assumption
    | intro _
    | with_reducible apply State.portLost_kept
    | with_reducible apply kept_foldl_snd
    | with_reducible apply kept_foldl
    | with_reducible apply kept_foldl_fst
    | with_reducible apply kept_foldr
    | with_reducible apply kept_ite)

theorem State.busesDown_kept {z : State} (s : State) (st : Nat) (hz : Kept z s) : Kept z (State.busesDown s st) := by
  unfold State.busesDown
  repeat' (first
    | with_reducible assumption
    | intro _
    | with_reducible apply State.fbEnter_kept
    | with_reducible apply kept_foldl_snd
    | with_reducible apply kept_foldl)

theorem State.listenConsist_kept {z : State} (s : State) (hz : Kept z s) : Kept z (State.listenConsist s) := by
  unfold State.listenConsist
  repeat' (first
    | with_reducible assumption
    | intro _
    | with_reducible apply State.set0_kept
    | with_reducible apply kept_foldl
    | with_reducible apply kept_foldl_fst
    | with_reducible apply kept_foldr
    | with_reducible apply kept_ite
    | with_reducible apply kept_ite_fst
    | with_reducible apply kept_ite_snd
    | with_reducible apply kept_ite_third
    | fail_if_no_progress (with_reducible refine Kept.update ?_ rfl rfl rfl rfl rfl))

theorem State.setReady_kept {z : State} (s : State) (up : Bool) (hz : Kept z s) : Kept z (State.setReady s up) := by
  unfold State.setReady
  repeat' (first
    | with_reducible assumption
    | intro _
    | with_reducible apply State.emit_kept
    | with_reducible apply kept_foldl
    | with_reducible apply kept_foldl_fst
    | with_reducible apply kept_foldr
    | with_reducible apply kept_ite
    | with_reducible apply kept_ite_fst
    | with_reducible apply kept_ite_snd
    | with_reducible apply kept_ite_third
    | fail_if_no_progress (with_reducible refine Kept.update ?_ rfl rfl rfl rfl rfl))

theorem State.enterState_kept {z : State} (s : State) (st : Nat) (hz : Kept z s) : Kept z (State.enterState s st) := by
  unfold State.enterState
  repeat' (first
    | with_reducible assumption
    | intro _
    | with_reducible apply State.redundantDown_kept
    | with_reducible apply State.traceDown_kept
    | with_reducible apply State.set0_kept
    | with_reducible apply State.emit_kept
    | with_reducible apply State.busesDown_kept
    | with_reducible apply State.uaStopAll_kept
    | with_reducible apply State.setReady_kept
    | with_reducible apply State.groupsOff_kept
    | with_reducible apply State.listenConsist_kept
    | with_reducible apply kept_foldl
    | with_reducible apply kept_foldl_fst
    | with_reducible apply kept_foldr
    | with_reducible apply kept_ite
    | with_reducible apply kept_ite_fst
    | with_reducible apply kept_ite_snd
    | with_reducible apply kept_ite_third
    | fail_if_no_progress (with_reducible refine Kept.update ?_ rfl rfl rfl rfl rfl))

theorem execStateEntry_answers (t : Nat) (s : State) : Answers (s.clock t) (execStateEntry t s) := by
  unfold execStateEntry
  repeat' (first
    | with_reducible exact Kept.refl _
    | intro _
    | with_reducible apply answers_next
    | with_reducible apply State.clock_kept
    | with_reducible apply State.enterState_kept
    | with_reducible apply answers_ite
    | with_reducible assumption
    | intro _
    | with_reducible apply kept_foldl
    | with_reducible apply kept_foldl_fst
    | with_reducible apply kept_foldr
    | with_reducible apply kept_ite
    | with_reducible apply kept_ite_fst
    | with_reducible apply kept_ite_snd
    | with_reducible apply kept_ite_third
    | fail_if_no_progress (with_reducible refine Kept.update ?_ rfl rfl rfl rfl rfl)
    | split
    | extract_lets)

theorem execWakeInLevel_answers (t : Nat) (level : Bool) (s : State) : Answers (s.clock t) (execWakeInLevel t level s) := by
  unfold execWakeInLevel
  repeat' (first
    | with_reducible exact Kept.refl _
    | intro _
    | with_reducible apply answers_next
    | with_reducible apply State.clock_kept
    | with_reducible apply State.wake_kept
    | with_reducible apply answers_ite
    | with_reducible assumption
    | intro _
    | with_reducible apply kept_foldl
    | with_reducible apply kept_foldl_fst
    | with_reducible apply kept_foldr
    | with_reducible apply kept_ite)

theorem execLwakeHigh_answers (t : Nat) (s : State) : Answers (s.clock t) (execLwakeHigh t s) := by
  unfold execLwakeHigh
  repeat' (first
    | with_reducible exact Kept.refl _
    | intro _
    | with_reducible apply answers_next
    | with_reducible apply State.wake_kept)

theorem execWakeTimer_answers (t : Nat) (s : State) : Answers (s.clock t) (execWakeTimer t s) := by
  unfold execWakeTimer
  repeat' (first
    | with_reducible exact Kept.refl _
    | intro _
    | with_reducible apply answers_next
    | with_reducible apply State.clock_kept
    | with_reducible apply State.wake_kept
    | with_reducible apply answers_ite
    | with_reducible assumption
    | intro _
    | with_reducible apply kept_foldl
    | with_reducible apply kept_foldl_fst
    | with_reducible apply kept_foldr
    | with_reducible apply kept_ite)

theorem State.goBack_kept {z : State} (s : State) (hz : Kept z s) : Kept z (State.goBack s) := by
  unfold State.goBack
  repeat' (first
    | with_reducible assumption
    | intro _
    | with_reducible apply State.leaveTo_kept
    | with_reducible apply State.bump_kept)

theorem execFalseWake_answers (t : Nat) (s : State) : Answers (s.clock t) (execFalseWake t s) := by
  unfold execFalseWake
  repeat' (first
    | with_reducible exact Kept.refl _
    | intro _
    | with_reducible apply answers_next
    | with_reducible apply State.clock_kept
    | with_reducible apply State.goBack_kept
    | with_reducible apply State.raise_kept
    | with_reducible apply answers_ite)

theorem execAwakeLimit_answers (t : Nat) (s : State) : Answers (s.clock t) (execAwakeLimit t s) := by
  unfold execAwakeLimit
  repeat' (first
    | with_reducible exact Kept.refl _
    | intro _
    | with_reducible apply answers_next
    | with_reducible apply State.goBack_kept
    | with_reducible apply State.clock_kept
    | with_reducible apply State.sf_kept
    | with_reducible apply State.raise_kept
    | with_reducible apply kept_foldl_snd
    | with_reducible apply answers_ite
    | with_reducible assumption
    | intro _
    | with_reducible apply kept_foldl
    | with_reducible apply kept_foldl_fst
    | with_reducible apply kept_foldr
    | with_reducible apply kept_ite
    | with_reducible apply kept_ite_fst
    | with_reducible apply kept_ite_snd
    | with_reducible apply kept_ite_third
    | fail_if_no_progress (with_reducible refine Kept.update ?_ rfl rfl rfl rfl rfl))

theorem execMaskCycleEnd_answers (t : Nat) (s : State) : Answers (s.clock t) (execMaskCycleEnd t s) := by
  unfold execMaskCycleEnd
  repeat' (first
    | with_reducible exact Kept.refl _
    | intro _
    | with_reducible apply answers_next
    | with_reducible apply State.clock_kept
    | with_reducible apply State.sf_kept
    | with_reducible apply kept_foldl_snd
    | with_reducible apply answers_ite
    | with_reducible assumption
    | intro _
    | with_reducible apply kept_foldl
    | with_reducible apply kept_foldl_fst
    | with_reducible apply kept_foldr
    | with_reducible apply kept_ite
    | with_reducible apply kept_ite_fst
    | with_reducible apply kept_ite_snd
    | with_reducible apply kept_ite_third
    | fail_if_no_progress (with_reducible refine Kept.update ?_ rfl rfl rfl rfl rfl)
    | split
    | extract_lets)

theorem execHoldupStart_answers (t : Nat) (s : State) : Answers (s.clock t) (execHoldupStart t s) := by
  unfold execHoldupStart
  repeat' (first
    | with_reducible exact Kept.refl _
    | intro _
    | with_reducible apply answers_next
    | with_reducible apply State.bump_kept
    | with_reducible apply State.raise_kept
    | with_reducible apply State.clock_kept
    | with_reducible apply State.set0_kept
    | with_reducible apply answers_ite
    | with_reducible assumption
    | intro _
    | with_reducible apply kept_foldl
    | with_reducible apply kept_foldl_fst
    | with_reducible apply kept_foldr
    | with_reducible apply kept_ite
    | with_reducible apply kept_ite_fst
    | with_reducible apply kept_ite_snd
    | with_reducible apply kept_ite_third
    | fail_if_no_progress (with_reducible refine Kept.update ?_ rfl rfl rfl rfl rfl))

theorem execHoldupEnd_answers (t : Nat) (s : State) : Answers (s.clock t) (execHoldupEnd t s) := by
  unfold execHoldupEnd
  repeat' (first
    | with_reducible exact Kept.refl _
    | intro _
    | with_reducible apply answers_next
    | with_reducible apply State.raise_kept
    | with_reducible apply State.clock_kept
    | with_reducible apply State.wr_kept
    | with_reducible apply State.set0_kept
    | with_reducible apply answers_ite)

theorem execVmonLow_answers (t : Nat) (s : State) : Answers (s.clock t) (execVmonLow t s) := by
  unfold execVmonLow
  repeat' (first
    | with_reducible exact Kept.refl _
    | intro _
    | with_reducible apply answers_next
    | with_reducible apply State.raise_kept
    | with_reducible apply State.clock_kept
    | with_reducible apply State.set0_kept
    | with_reducible apply answers_ite
    | with_reducible assumption
    | intro _
    | with_reducible apply kept_foldl
    | with_reducible apply kept_foldl_fst
    | with_reducible apply kept_foldr
    | with_reducible apply kept_ite
    | with_reducible apply kept_ite_fst
    | with_reducible apply kept_ite_snd
    | with_reducible apply kept_ite_third
    | fail_if_no_progress (with_reducible refine Kept.update ?_ rfl rfl rfl rfl rfl))

theorem execVmonAction_answers (t : Nat) (s : State) : Answers (s.clock t) (execVmonAction t s) := by
  unfold execVmonAction
  repeat' (first
    | with_reducible exact Kept.refl _
    | intro _
    | with_reducible apply answers_next
    | with_reducible apply State.clock_kept
    | with_reducible apply State.leaveTo_kept
    | with_reducible apply answers_ite
    | with_reducible assumption
    | intro _
    | with_reducible apply kept_foldl
    | with_reducible apply kept_foldl_fst
    | with_reducible apply kept_foldr
    | with_reducible apply kept_ite
    | with_reducible apply kept_ite_fst
    | with_reducible apply kept_ite_snd
    | with_reducible apply kept_ite_third
    | fail_if_no_progress (with_reducible refine Kept.update ?_ rfl rfl rfl rfl rfl)
    | split
    | extract_lets)

theorem execVmonUp_answers (t : Nat) (s : State) : Answers (s.clock t) (execVmonUp t s) := by
  unfold execVmonUp
  repeat' (first
    | with_reducible exact Kept.refl _
    | intro _
    | with_reducible apply answers_next
    | with_reducible apply State.raise_kept
    | with_reducible apply State.wake_kept
    | with_reducible apply State.clock_kept
    | with_reducible apply State.set0_kept
    | with_reducible apply answers_ite
    | with_reducible assumption
    | intro _
    | with_reducible apply kept_foldl
    | with_reducible apply kept_foldl_fst
    | with_reducible apply kept_foldr
    | with_reducible apply kept_ite
    | with_reducible apply kept_ite_fst
    | with_reducible apply kept_ite_snd
    | with_reducible apply kept_ite_third
    | fail_if_no_progress (with_reducible refine Kept.update ?_ rfl rfl rfl rfl rfl))

theorem State.avsCommand_kept {z : State} (s : State) (mv : Nat) (hz : Kept z s) : Kept z (State.avsCommand s mv) := by
  unfold State.avsCommand
  repeat' (first
    | with_reducible assumption
    | intro _
    | with_reducible apply State.set0_kept
    | with_reducible apply State.emit_kept)

theorem execAvsUpdate_answers (t : Nat) (target : BitVec 10) (waits : Bool) (s : State) : Answers (s.clock t) (execAvsUpdate t target waits s) := by
  unfold execAvsUpdate
  repeat' (first
    | with_reducible exact Kept.refl _
    | intro _
    | with_reducible apply answers_next
    | with_reducible apply State.regulatorPoll_kept
    | with_reducible apply State.set0_kept
    | with_reducible apply State.clock_kept
    | with_reducible apply State.avsCommand_kept
    | with_reducible apply State.raise_kept
    | with_reducible apply answers_ite
    | with_reducible assumption
    | intro _
    | with_reducible apply kept_foldl
    | with_reducible apply kept_foldl_fst
    | with_reducible apply kept_foldr
    | with_reducible apply kept_ite
    | with_reducible apply kept_ite_fst
    | with_reducible apply kept_ite_snd
    | with_reducible apply kept_ite_third
    | fail_if_no_progress (with_reducible refine Kept.update ?_ rfl rfl rfl rfl rfl))

theorem execAvsGood_answers (t : Nat) (vout : BitVec 10) (s : State) : Answers (s.clock t) (execAvsGood t vout s) := by
  unfold execAvsGood
  repeat' (first
    | with_reducible exact Kept.refl _
    | intro _
    | with_reducible apply answers_next
    | with_reducible apply State.set0_kept
    | with_reducible apply State.clock_kept
    | with_reducible apply answers_ite
    | with_reducible assumption
    | intro _
    | with_reducible apply kept_foldl
    | with_reducible apply kept_foldl_fst
    | with_reducible apply kept_foldr
    | with_reducible apply kept_ite
    | with_reducible apply kept_ite_fst
    | with_reducible apply kept_ite_snd
    | with_reducible apply kept_ite_third
    | fail_if_no_progress (with_reducible refine Kept.update ?_ rfl rfl rfl rfl rfl))

theorem execAvsFault_answers (t : Nat) (pmbus : Bool) (s : State) : Answers (s.clock t) (execAvsFault t pmbus s) := by
  unfold execAvsFault
  repeat' (first
    | with_reducible exact Kept.refl _
    | intro _
    | with_reducible apply answers_next
    | with_reducible apply State.assertErr_kept
    | with_reducible apply State.clock_kept
    | with_reducible apply State.raise_kept
    | with_reducible apply State.avsCommand_kept
    | with_reducible apply answers_ite
    | with_reducible assumption
    | intro _
    | with_reducible apply kept_foldl
    | with_reducible apply kept_foldl_fst
    | with_reducible apply kept_foldr
    | with_reducible apply kept_ite
    | with_reducible apply kept_ite_fst
    | with_reducible apply kept_ite_snd
    | with_reducible apply kept_ite_third
    | fail_if_no_progress (with_reducible refine Kept.update ?_ rfl rfl rfl rfl rfl)
    | split)

theorem State.setInh_kept {z : State} (s : State) (k : Nat) (up : Bool) (hz : Kept z s) : Kept z (State.setInh s k up) := by
  unfold State.setInh
  repeat' (first
    | with_reducible assumption
    | intro _
    | with_reducible apply State.emit_kept
    | with_reducible apply kept_foldl
    | with_reducible apply kept_foldl_fst
    | with_reducible apply kept_foldr
    | with_reducible apply kept_ite
    | with_reducible apply kept_ite_fst
    | with_reducible apply kept_ite_snd
    | with_reducible apply kept_ite_third
    | fail_if_no_progress (with_reducible refine Kept.update ?_ rfl rfl rfl rfl rfl))

theorem execInhStep_answers (t : Nat) (s : State) : Answers (s.clock t) (execInhStep t s) := by
  unfold execInhStep
  repeat' (first
    | with_reducible exact Kept.refl _
    | intro _
    | with_reducible apply answers_next
    | with_reducible apply State.clock_kept
    | with_reducible apply State.setInh_kept
    | with_reducible apply answers_ite
    | with_reducible assumption
    | intro _
    | with_reducible apply kept_foldl
    | with_reducible apply kept_foldl_fst
    | with_reducible apply kept_foldr
    | with_reducible apply kept_ite
    | with_reducible apply kept_ite_fst
    | with_reducible apply kept_ite_snd
    | with_reducible apply kept_ite_third
    | fail_if_no_progress (with_reducible refine Kept.update ?_ rfl rfl rfl rfl rfl)
    | split)

theorem execRailTimeout_answers (t : Nat) (mask : BitVec 7) (s : State) : Answers (s.clock t) (execRailTimeout t mask s) := by
  unfold execRailTimeout
  repeat' (first
    | with_reducible exact Kept.refl _
    | intro _
    | with_reducible apply answers_next
    | with_reducible apply State.clock_kept
    | with_reducible apply State.drawFree_kept
    | with_reducible apply State.gaspEntry_kept
    | with_reducible apply State.setInh_kept
    | with_reducible apply kept_foldl_snd
    | with_reducible apply answers_ite
    | with_reducible assumption
    | intro _
    | with_reducible apply kept_foldl
    | with_reducible apply kept_foldl_fst
    | with_reducible apply kept_foldr
    | with_reducible apply kept_ite
    | with_reducible apply kept_ite_fst
    | with_reducible apply kept_ite_snd
    | with_reducible apply kept_ite_third
    | fail_if_no_progress (with_reducible refine Kept.update ?_ rfl rfl rfl rfl rfl)
    | split
    | extract_lets)

theorem execRailRetry_answers (t : Nat) (s : State) : Answers (s.clock t) (execRailRetry t s) := by
  unfold execRailRetry
  repeat' (first
    | with_reducible exact Kept.refl _
    | intro _
    | with_reducible apply answers_next
    | with_reducible apply State.clock_kept
    | with_reducible apply answers_ite
    | with_reducible assumption
    | intro _
    | with_reducible apply kept_foldl
    | with_reducible apply kept_foldl_fst
    | with_reducible apply kept_foldr
    | with_reducible apply kept_ite
    | with_reducible apply kept_ite_fst
    | with_reducible apply kept_ite_snd
    | with_reducible apply kept_ite_third
    | fail_if_no_progress (with_reducible refine Kept.update ?_ rfl rfl rfl rfl rfl)
    | split
    | extract_lets)

theorem execThermalWarning_answers (t : Nat) (s : State) : Answers (s.clock t) (execThermalWarning t s) := by
  unfold execThermalWarning
  repeat' (first
    | with_reducible exact Kept.refl _
    | intro _
    | with_reducible apply answers_next
    | with_reducible apply State.assertErr_kept)

theorem execBelowRetentionLimit_answers (t : Nat) (s : State) : Answers (s.clock t) (execBelowRetentionLimit t s) :=
  answers_next (Kept.update (kept_gasp (l := []) (fun _ => Nat.zero_le _) (Kept.refl _)) rfl rfl rfl rfl rfl)

/-! Machine/Sync.lean -/

theorem execSyntonLoss_answers (t : Nat) (s : State) : Answers (s.clock t) (execSyntonLoss t s) := by
  unfold execSyntonLoss
  repeat' (first
    | with_reducible exact Kept.refl _
    | intro _
    | with_reducible apply answers_next
    | with_reducible apply State.sf_kept
    | with_reducible apply State.raise_kept
    | with_reducible apply State.clock_kept
    | with_reducible apply State.set0_kept
    | with_reducible apply answers_ite
    | with_reducible assumption
    | intro _
    | with_reducible apply kept_foldl
    | with_reducible apply kept_foldl_fst
    | with_reducible apply kept_foldr
    | with_reducible apply kept_ite
    | with_reducible apply kept_ite_fst
    | with_reducible apply kept_ite_snd
    | with_reducible apply kept_ite_third
    | fail_if_no_progress (with_reducible refine Kept.update ?_ rfl rfl rfl rfl rfl)
    | split
    | extract_lets)

theorem State.applyYSource_kept {z : State} (s : State) (hz : Kept z s) : Kept z (State.applyYSource s) := by
  unfold State.applyYSource
  repeat' (first
    | with_reducible assumption
    | intro _
    | with_reducible apply State.set0_kept
    | with_reducible apply State.sf_kept
    | with_reducible apply kept_foldl
    | with_reducible apply kept_foldl_fst
    | with_reducible apply kept_foldr
    | with_reducible apply kept_ite
    | with_reducible apply kept_ite_fst
    | with_reducible apply kept_ite_snd
    | with_reducible apply kept_ite_third
    | fail_if_no_progress (with_reducible refine Kept.update ?_ rfl rfl rfl rfl rfl)
    | split)

theorem State.setSource_kept {z : State} (s : State) (n : Nat) (hz : Kept z s) : Kept z (State.setSource s n) := by
  unfold State.setSource
  repeat' (first
    | with_reducible assumption
    | intro _
    | with_reducible apply State.sourcePort_kept
    | with_reducible apply kept_foldl
    | with_reducible apply kept_foldl_fst
    | with_reducible apply kept_foldr
    | with_reducible apply kept_ite
    | with_reducible apply kept_ite_fst
    | with_reducible apply kept_ite_snd
    | with_reducible apply kept_ite_third
    | fail_if_no_progress (with_reducible refine Kept.update ?_ rfl rfl rfl rfl rfl))

theorem State.checkRef_kept {z : State} (s : State) (m : SyncMsg) (hz : Kept z s) : Kept z (State.checkRef s m) := by
  unfold State.checkRef
  repeat' (first
    | with_reducible assumption
    | intro _
    | with_reducible apply State.assertErr_kept
    | with_reducible apply State.trigger_kept
    | with_reducible apply State.raise_kept
    | with_reducible apply kept_foldl
    | with_reducible apply kept_foldl_fst
    | with_reducible apply kept_foldr
    | with_reducible apply kept_ite
    | with_reducible apply kept_ite_fst
    | with_reducible apply kept_ite_snd
    | with_reducible apply kept_ite_third
    | fail_if_no_progress (with_reducible refine Kept.update ?_ rfl rfl rfl rfl rfl)
    | split)

theorem State.sync_kept {z : State} (s : State) (n ingress : Nat) (m : SyncMsg) (hz : Kept z s) : Kept z (State.sync s n ingress m) := by
  unfold State.sync
  repeat' (first
    | with_reducible assumption
    | intro _
    | with_reducible apply State.setSource_kept
    | with_reducible apply State.setMaster_kept
    | with_reducible apply State.ingress_kept
    | with_reducible apply State.wr_kept
    | with_reducible apply State.set0_kept
    | with_reducible apply State.checkRef_kept
    | with_reducible apply State.sendSync_kept
    | with_reducible apply kept_foldl_snd
    | with_reducible apply kept_foldl
    | with_reducible apply kept_foldl_fst
    | with_reducible apply kept_foldr
    | with_reducible apply kept_ite
    | with_reducible apply kept_ite_fst
    | with_reducible apply kept_ite_snd
    | with_reducible apply kept_ite_third
    | fail_if_no_progress (with_reducible refine Kept.update ?_ rfl rfl rfl rfl rfl))

theorem execSyncReceived_answers (t : Nat) (port : Fin 257) (ingress : Nat) (msg : SyncMsg) (s : State) : Answers (s.clock t) (execSyncReceived t port ingress msg s) := by
  unfold execSyncReceived
  repeat' (first
    | with_reducible exact Kept.refl _
    | intro _
    | with_reducible apply answers_next
    | with_reducible apply State.clock_kept
    | with_reducible apply State.ctlRead_kept
    | with_reducible apply State.sync_kept
    | with_reducible apply State.ingress_kept
    | with_reducible apply answers_ite)

/-! Machine/TickFlow.lean -/

theorem State.latchOutputs_kept {z : State} (s : State) (hz : Kept z s) : Kept z (State.latchOutputs s) := by
  unfold State.latchOutputs
  repeat' (first
    | with_reducible assumption
    | intro _
    | with_reducible apply State.applyYSource_kept
    | with_reducible apply State.fbSlots_kept
    | with_reducible apply State.outputSentences_kept
    | with_reducible apply kept_foldl_snd
    | with_reducible apply kept_foldl
    | with_reducible apply kept_foldl_fst
    | with_reducible apply kept_foldr
    | with_reducible apply kept_ite
    | with_reducible apply kept_ite_fst
    | with_reducible apply kept_ite_snd
    | with_reducible apply kept_ite_third
    | fail_if_no_progress (with_reducible refine Kept.update ?_ rfl rfl rfl rfl rfl))

theorem State.newTick_kept {z : State} (s : State) (hz : Kept z s) : Kept z (State.newTick s) := by
  unfold State.newTick
  repeat' (first
    | with_reducible assumption
    | intro _
    | with_reducible apply State.afterTest_kept
    | with_reducible apply State.bump_kept
    | with_reducible apply State.setChan_kept
    | with_reducible apply kept_foldl_snd
    | with_reducible apply kept_foldl
    | with_reducible apply kept_foldl_fst
    | with_reducible apply kept_foldr
    | with_reducible apply kept_ite
    | with_reducible apply kept_ite_fst
    | with_reducible apply kept_ite_snd
    | with_reducible apply kept_ite_third
    | fail_if_no_progress (with_reducible refine Kept.update ?_ rfl rfl rfl rfl rfl))

theorem State.sendLog_kept {z : State} (s : State) (hz : Kept z s) : Kept z (State.sendLog s) := by
  unfold State.sendLog
  repeat' (first
    | with_reducible assumption
    | intro _
    | with_reducible apply State.pairSend_kept
    | with_reducible apply kept_foldl_snd
    | with_reducible apply kept_foldl
    | with_reducible apply kept_foldl_fst
    | with_reducible apply kept_foldr
    | with_reducible apply kept_ite
    | with_reducible apply kept_ite_fst
    | with_reducible apply kept_ite_snd
    | with_reducible apply kept_ite_third
    | fail_if_no_progress (with_reducible refine Kept.update ?_ rfl rfl rfl rfl rfl))

theorem State.pairTick_kept {z : State} (s : State) (hz : Kept z s) : Kept z (State.pairTick s) := by
  unfold State.pairTick
  repeat' (first
    | with_reducible assumption
    | intro _
    | with_reducible apply State.sendLog_kept
    | with_reducible apply State.set0_kept
    | with_reducible apply State.redundantDown_kept
    | with_reducible apply kept_foldl
    | with_reducible apply kept_foldl_fst
    | with_reducible apply kept_foldr
    | with_reducible apply kept_ite)

theorem State.healthTick_kept {z : State} (s : State) (hz : Kept z s) : Kept z (State.healthTick s) := by
  unfold State.healthTick
  repeat' (first
    | with_reducible assumption
    | intro _
    | with_reducible apply State.drawFree_kept
    | with_reducible apply State.pairSend_kept
    | with_reducible apply kept_foldl
    | with_reducible apply kept_foldl_fst
    | with_reducible apply kept_foldr
    | with_reducible apply kept_ite)

theorem State.restartRound_kept {z : State} (s : State) (hz : Kept z s) : Kept z (State.restartRound s) := by
  unfold State.restartRound
  repeat' (first
    | with_reducible assumption
    | intro _
    | with_reducible apply State.originate_kept
    | with_reducible apply kept_foldl
    | with_reducible apply kept_foldl_fst
    | with_reducible apply kept_foldr
    | with_reducible apply kept_ite)

theorem State.instant_kept {z : State} (s : State) (hz : Kept z s) : Kept z (State.instant s) := by
  unfold State.instant
  repeat' (first
    | with_reducible assumption
    | intro _
    | with_reducible apply State.restartRound_kept
    | with_reducible apply State.pairTick_kept
    | with_reducible apply State.strobeNow_kept
    | with_reducible apply State.latchOutputs_kept
    | with_reducible apply State.newTick_kept
    | with_reducible apply State.freeze_kept
    | with_reducible apply kept_foldl
    | with_reducible apply kept_foldl_fst
    | with_reducible apply kept_foldr
    | with_reducible apply kept_ite
    | with_reducible apply kept_ite_fst
    | with_reducible apply kept_ite_snd
    | with_reducible apply kept_ite_third
    | fail_if_no_progress (with_reducible refine Kept.update ?_ rfl rfl rfl rfl rfl))

theorem execTickInstant_answers (t : Nat) (s : State) : Answers (s.clock t) (execTickInstant t s) := by
  unfold execTickInstant
  repeat' (first
    | with_reducible exact Kept.refl _
    | intro _
    | with_reducible apply answers_next
    | with_reducible apply State.clock_kept
    | with_reducible apply State.instant_kept
    | with_reducible apply State.strobeNow_kept
    | with_reducible apply State.newTick_kept
    | with_reducible apply State.restartRound_kept
    | with_reducible apply State.pairTick_kept
    | with_reducible apply State.healthTick_kept
    | with_reducible apply answers_ite)

theorem State.countMiss_tke (s : State) : s.countMiss.tke = s.tke := by
  unfold State.countMiss
  split
  · rfl
  · rfl

theorem execStagingClose_answers (t : Nat) (s : State) : Answers (s.clock t) (execStagingClose t s) := by
  refine answers_ite (answers_next (State.healthTick_kept _ ?_)) (answers_next (Kept.refl _))
  refine Kept.update (State.countMiss_kept _ (Kept.refl _)) rfl rfl rfl ?_ rfl
  rw [State.countMiss_tke]

theorem State.sendState_kept {z : State} (s : State) (outs pends : List Nat) (hz : Kept z s) : Kept z (State.sendState s outs pends) := by
  unfold State.sendState
  repeat' (first
    | with_reducible assumption
    | intro _
    | with_reducible apply State.pairSend_kept
    | with_reducible apply State.asdCount_kept
    | with_reducible apply kept_foldl_snd
    | with_reducible apply kept_foldl
    | with_reducible apply kept_foldl_fst
    | with_reducible apply kept_foldr
    | with_reducible apply kept_ite
    | with_reducible apply kept_ite_fst
    | with_reducible apply kept_ite_snd
    | with_reducible apply kept_ite_third
    | fail_if_no_progress (with_reducible refine Kept.update ?_ rfl rfl rfl rfl rfl))

theorem State.closeTick_kept {z : State} (s : State) (outs pends : List Nat) (hz : Kept z s) : Kept z (State.closeTick s outs pends) := by
  unfold State.closeTick
  repeat' (first
    | with_reducible assumption
    | intro _
    | with_reducible apply State.sendTickFrames_kept
    | with_reducible apply State.sendState_kept
    | with_reducible apply kept_foldl
    | with_reducible apply kept_foldl_fst
    | with_reducible apply kept_foldr
    | with_reducible apply kept_ite
    | with_reducible apply kept_ite_fst
    | with_reducible apply kept_ite_snd
    | with_reducible apply kept_ite_third
    | fail_if_no_progress (with_reducible refine Kept.update ?_ rfl rfl rfl rfl rfl))

theorem State.vote_kept {z : State} (s : State) (hz : Kept z s) : Kept z (State.vote s) := by
  unfold State.vote
  repeat' (first
    | with_reducible assumption
    | intro _
    | with_reducible apply State.assertErr_kept
    | with_reducible apply State.dissent_kept
    | with_reducible apply State.commit_kept
    | with_reducible apply State.setChan_kept
    | with_reducible apply State.recordCycles_kept
    | with_reducible apply State.trace_kept
    | with_reducible apply State.raise_kept
    | with_reducible apply State.closeTick_kept
    | with_reducible apply kept_foldl_snd
    | with_reducible apply kept_foldl
    | with_reducible apply kept_foldl_fst
    | with_reducible apply kept_foldr
    | with_reducible apply kept_ite
    | with_reducible apply kept_ite_fst
    | with_reducible apply kept_ite_snd
    | with_reducible apply kept_ite_third
    | fail_if_no_progress (with_reducible refine Kept.update ?_ rfl rfl rfl rfl rfl))

theorem execVote_answers (t : Nat) (s : State) : Answers (s.clock t) (execVote t s) := by
  unfold execVote
  repeat' (first
    | with_reducible exact Kept.refl _
    | intro _
    | with_reducible apply answers_next
    | with_reducible apply State.clock_kept
    | with_reducible apply State.vote_kept
    | with_reducible apply State.closeTick_kept
    | with_reducible apply answers_ite)

theorem execTickEngineHalt_answers (t : Nat) (s : State) : Answers (s.clock t) (execTickEngineHalt t s) := by
  unfold execTickEngineHalt
  repeat' (first
    | with_reducible exact Kept.refl _
    | intro _
    | with_reducible apply answers_next
    | with_reducible apply State.raise_kept
    | with_reducible apply State.relinquish_kept
    | with_reducible apply State.clock_kept
    | with_reducible apply State.set0_kept
    | with_reducible apply answers_ite)

theorem execTickLost_answers (t : Nat) (s : State) : Answers (s.clock t) (execTickLost t s) := by
  unfold execTickLost
  repeat' (first
    | with_reducible exact Kept.refl _
    | intro _
    | with_reducible apply answers_next
    | with_reducible apply State.assertErr_kept
    | with_reducible apply State.clock_kept
    | with_reducible apply State.setChan_kept
    | with_reducible apply State.gaspEntry_kept
    | with_reducible apply State.raise_kept
    | with_reducible apply kept_foldl_snd
    | with_reducible apply answers_ite
    | with_reducible assumption
    | intro _
    | with_reducible apply kept_foldl
    | with_reducible apply kept_foldl_fst
    | with_reducible apply kept_foldr
    | with_reducible apply kept_ite
    | with_reducible apply kept_ite_fst
    | with_reducible apply kept_ite_snd
    | with_reducible apply kept_ite_third
    | fail_if_no_progress (with_reducible refine Kept.update ?_ rfl rfl rfl rfl rfl)
    | split
    | extract_lets)

/-! Machine/Resets.lean -/

/-- A change to every stored word leaves the store in order. -/
theorem State.mapRegs_rising (s : State) (f : RegDesc → List Nat → BitVec 32 → BitVec 32) :
    Tab.rising none (s.mapRegs f) = true := by
  unfold State.mapRegs
  generalize s.regs = l
  induction l with
  | nil => rfl
  | cons e l ih =>
    simp only [List.foldr_cons]
    split
    · exact Tab.rising_set _ _ _ ih
    · exact ih

/-- A reset keeps the queue and the clock, and starts the raw counter at 0. -/
theorem State.afterReset_kept {z : State} (s : State) (off sleep rws hold : Bool) (hz : Kept z s) :
    Kept z (s.afterReset off sleep rws hold) := by
  unfold State.afterReset
  extract_lets s0 s1 fresh s2 s3 s3' s4
  have hf : Kept z fresh := by
    refine hz.trans ⟨rfl, rfl, Or.inr rfl, fun x => ?_⟩
    obtain ⟨x1, x2, x3, x4, x5, x6, x7, x8, x9⟩ := x
    exact ⟨State.mapRegs_rising _ _, rfl, rfl, rfl, x5, Nat.zero_le _, Nat.zero_le _, x8, Nat.zero_le _⟩
  have h2 : Kept z s2 := State.set0_kept _ _ _ (State.set0_kept _ _ _ (State.set0_kept _ _ _ hf))
  have h3 : Kept z s3 := State.set0_kept _ _ _ (State.set0_kept _ _ _ h2)
  have h3' : Kept z s3' := kept_foldl h3 (fun u a hu => State.showLs_kept _ _ hu)
  have h4 : Kept z s4 := State.set0_kept _ _ _ (State.set0_kept _ _ _ (State.set0_kept _ _ _ h3'))
  exact kept_ite (State.einReset_kept _ h3') (State.einReset_kept _ (kept_ite (State.set0_kept _ _ _ h4) h4))

theorem State.fencedSafe_kept {z : State} (s : State) (reason : Nat) (hz : Kept z s) : Kept z (State.fencedSafe s reason) := by
  unfold State.fencedSafe
  repeat' (first
    | with_reducible assumption
    | intro _
    | with_reducible apply State.set0_kept
    | with_reducible apply State.logEvent_kept
    | with_reducible apply State.sf_kept
    | with_reducible apply State.assertErr_kept
    | with_reducible apply State.gaspEntry_kept
    | with_reducible apply kept_foldl_snd
    | with_reducible apply kept_foldl
    | with_reducible apply kept_foldl_fst
    | with_reducible apply kept_foldr
    | with_reducible apply kept_ite
    | with_reducible apply kept_ite_fst
    | with_reducible apply kept_ite_snd
    | with_reducible apply kept_ite_third
    | fail_if_no_progress (with_reducible refine Kept.update ?_ rfl rfl rfl rfl rfl))

theorem State.failSafes_kept {z : State} (s : State) (xs : List Section) (hz : Kept z s) : Kept z (State.failSafes s xs) := by
  unfold State.failSafes
  repeat' (first
    | with_reducible assumption
    | intro _
    | with_reducible apply State.sf_kept
    | with_reducible apply State.set0_kept
    | with_reducible apply kept_foldl_snd
    | with_reducible apply kept_foldl)

theorem State.settingTriple_kept {z : State} (s : State) (addr mask value : Nat) (hz : Kept z s) : Kept z (State.settingTriple s addr mask value) := by
  unfold State.settingTriple
  repeat' (first
    | with_reducible assumption
    | intro _
    | with_reducible apply State.setConfig_kept
    | with_reducible apply State.logEvent_kept
    | with_reducible apply kept_foldl
    | with_reducible apply kept_foldl_fst
    | with_reducible apply kept_foldr
    | with_reducible apply kept_ite
    | with_reducible apply kept_ite_fst
    | with_reducible apply kept_ite_snd
    | with_reducible apply kept_ite_third
    | fail_if_no_progress (with_reducible refine Kept.update ?_ rfl rfl rfl rfl rfl)
    | split)

theorem State.applySettings_kept {z : State} (s : State) (hz : Kept z s) : Kept z (State.applySettings s) := by
  unfold State.applySettings
  repeat' (first
    | with_reducible assumption
    | intro _
    | with_reducible apply State.settingTriple_kept
    | with_reducible apply kept_foldl_snd
    | with_reducible apply kept_foldl
    | with_reducible apply kept_foldl_fst
    | with_reducible apply kept_foldr
    | with_reducible apply kept_ite)

theorem State.gaspCopy_kept {z : State} (s : State) (hz : Kept z s) : Kept z s.gaspCopy := by
  unfold State.gaspCopy
  extract_lets unread s1
  have h1 : Kept z s1 := kept_gasp (fun hl => by rw [List.length_map]; exact hl) hz
  refine kept_foldl h1 (fun u a hu => ?_)
  exact State.keepUnstored_kept _ _ (kept_vol _ _ hu)

theorem State.loadCopy_kept {z : State} (s : State) (c : Nat) (fallback : Bool) (hz : Kept z s) : Kept z (State.loadCopy s c fallback) := by
  unfold State.loadCopy
  repeat' (first
    | with_reducible assumption
    | intro _
    | with_reducible apply State.setConfigs_kept
    | with_reducible apply State.failSafes_kept
    | with_reducible apply State.applySettings_kept
    | with_reducible apply State.set0_kept
    | with_reducible apply State.wr_kept
    | with_reducible apply State.setChan_kept
    | with_reducible apply State.wr64_kept
    | with_reducible apply kept_foldl_snd
    | with_reducible apply kept_foldl
    | with_reducible apply kept_foldl_fst
    | with_reducible apply kept_foldr
    | with_reducible apply kept_ite
    | with_reducible apply kept_ite_fst
    | with_reducible apply kept_ite_snd
    | with_reducible apply kept_ite_third
    | fail_if_no_progress (with_reducible refine Kept.update ?_ rfl rfl rfl rfl rfl))

theorem State.startPorts_kept {z : State} (s : State) (hz : Kept z s) : Kept z (State.startPorts s) := by
  unfold State.startPorts
  repeat' (first
    | with_reducible assumption
    | intro _
    | with_reducible apply State.portStart_kept
    | with_reducible apply kept_foldl_snd
    | with_reducible apply kept_foldl)

theorem State.rawStarts_kept {z : State} (s : State) (mode : Nat) (hz : Kept z s) : Kept z (s.rawStarts mode) :=
  hz.trans ⟨rfl, rfl, Or.inr rfl, id⟩

theorem State.xcvrsStart_kept {z : State} (s : State) (hz : Kept z s) : Kept z (State.xcvrsStart s) := by
  unfold State.xcvrsStart
  repeat' (first
    | with_reducible assumption
    | intro _
    | with_reducible apply State.fbEnter_kept
    | with_reducible apply kept_foldl_snd
    | with_reducible apply kept_foldl)

theorem State.resetEnds_kept {z : State} (s : State) (mode : Nat) (side : Bool) (hz : Kept z s) : Kept z (State.resetEnds s mode side) := by
  unfold State.resetEnds
  repeat' (first
    | with_reducible assumption
    | intro _
    | with_reducible apply State.set0_kept
    | with_reducible apply State.einReset_kept
    | with_reducible apply State.xcvrsStart_kept
    | with_reducible apply State.rawStarts_kept)

theorem State.bootFrom_kept {z : State} (s : State) (mode : Nat) (cs : List Nat) (hz : Kept z s) : Kept z (State.bootFrom s mode cs) := by
  unfold State.bootFrom
  repeat' (first
    | with_reducible assumption
    | intro _
    | with_reducible apply State.writeDies_kept
    | with_reducible apply State.fencedSafe_kept
    | with_reducible apply State.loadCopy_kept
    | with_reducible apply State.startPorts_kept
    | with_reducible apply State.celKeyReq_kept
    | with_reducible apply State.gaspCopy_kept
    | with_reducible apply State.set0_kept
    | with_reducible apply kept_foldl
    | with_reducible apply kept_foldl_fst
    | with_reducible apply kept_foldr
    | with_reducible apply kept_ite
    | with_reducible apply kept_ite_fst
    | with_reducible apply kept_ite_snd
    | with_reducible apply kept_ite_third
    | fail_if_no_progress (with_reducible refine Kept.update ?_ rfl rfl rfl rfl rfl)
    | split)

theorem State.startUp_kept {z : State} (s : State) (mode : Nat) (side : Bool) (hz : Kept z s) : Kept z (State.startUp s mode side) := by
  unfold State.startUp
  repeat' (first
    | with_reducible assumption
    | intro _
    | with_reducible apply State.bootFrom_kept
    | with_reducible apply State.resetEnds_kept)

theorem execPowerOnReset_answers (t : Nat) (s : State) : Answers (s.clock t) (execPowerOnReset t s) := by
  unfold execPowerOnReset
  repeat' (first
    | with_reducible exact Kept.refl _
    | intro _
    | with_reducible apply answers_next
    | with_reducible apply State.afterReset_kept)

theorem execRstNLow_answers (t : Nat) (s : State) : Answers (s.clock t) (execRstNLow t s) := by
  unfold execRstNLow
  repeat' (first
    | with_reducible exact Kept.refl _
    | intro _
    | with_reducible apply answers_next
    | with_reducible apply State.relinquish_kept
    | with_reducible apply State.afterReset_kept)

theorem State.warmReset_kept {z : State} (s : State) (mode : Nat) (side : Bool) (hz : Kept z s) : Kept z (State.warmReset s mode side) := by
  unfold State.warmReset
  repeat' (first
    | with_reducible assumption
    | intro _
    | with_reducible apply State.afterReset_kept
    | with_reducible apply State.startUp_kept
    | with_reducible apply State.relinquish_kept)

theorem execHostWarmReset_answers (t : Nat) (party : Party) (bootMode : BitVec 2) (pairSide : Bool) (s : State) : Answers (s.clock t) (execHostWarmReset t party bootMode pairSide s) := by
  unfold execHostWarmReset
  repeat' (first
    | with_reducible exact Kept.refl _
    | intro _
    | with_reducible apply answers_next
    | with_reducible apply State.hostWrite_kept
    | with_reducible apply State.warmReset_kept)

theorem execConsistCommandedReset_answers (t : Nat) (bootMode : BitVec 2) (pairSide : Bool) (s : State) : Answers (s.clock t) (execConsistCommandedReset t bootMode pairSide s) := by
  unfold execConsistCommandedReset
  repeat' (first
    | with_reducible exact Kept.refl _
    | intro _
    | with_reducible apply answers_next
    | with_reducible apply State.clock_kept
    | with_reducible apply State.warmReset_kept
    | with_reducible apply answers_ite
    | with_reducible assumption
    | intro _
    | with_reducible apply kept_foldl
    | with_reducible apply kept_foldl_fst
    | with_reducible apply kept_foldr
    | with_reducible apply kept_ite
    | with_reducible apply kept_ite_fst
    | with_reducible apply kept_ite_snd
    | with_reducible apply kept_ite_third
    | fail_if_no_progress (with_reducible refine Kept.update ?_ rfl rfl rfl rfl rfl)
    | split
    | extract_lets)

theorem execResetRelease_answers (t : Nat) (bootMode : BitVec 2) (pairSide : Bool) (s : State) : Answers (s.clock t) (execResetRelease t bootMode pairSide s) := by
  unfold execResetRelease
  repeat' (first
    | with_reducible exact Kept.refl _
    | intro _
    | with_reducible apply answers_next
    | with_reducible apply State.clock_kept
    | with_reducible apply State.startUp_kept
    | with_reducible apply answers_ite)

theorem State.orderly_kept {z : State} (s : State) (mask : Nat) (off : Bool) (hz : Kept z s) : Kept z (State.orderly s mask off) := by
  unfold State.orderly
  repeat' (first
    | with_reducible assumption
    | intro _
    | with_reducible apply State.drawFree_kept
    | with_reducible apply State.relinquish_kept
    | with_reducible apply State.gaspEntry_kept
    | with_reducible apply State.afterReset_kept
    | with_reducible apply kept_foldl
    | with_reducible apply kept_foldl_fst
    | with_reducible apply kept_foldr
    | with_reducible apply kept_ite
    | with_reducible apply kept_ite_fst
    | with_reducible apply kept_ite_snd
    | with_reducible apply kept_ite_third
    | fail_if_no_progress (with_reducible refine Kept.update ?_ rfl rfl rfl rfl rfl))

theorem execVkaResetLevel_answers (t : Nat) (s : State) : Answers (s.clock t) (execVkaResetLevel t s) := by
  unfold execVkaResetLevel
  repeat' (first
    | with_reducible exact Kept.refl _
    | intro _
    | with_reducible apply answers_next
    | with_reducible apply State.orderly_kept)

theorem execRailFault_answers (t : Nat) (mask : BitVec 7) (s : State) : Answers (s.clock t) (execRailFault t mask s) := by
  unfold execRailFault
  repeat' (first
    | with_reducible exact Kept.refl _
    | intro _
    | with_reducible apply answers_next
    | with_reducible apply State.clock_kept
    | with_reducible apply State.orderly_kept
    | with_reducible apply answers_ite)

theorem execThermalReset_answers (t : Nat) (s : State) : Answers (s.clock t) (execThermalReset t s) := by
  unfold execThermalReset
  repeat' (first
    | with_reducible exact Kept.refl _
    | intro _
    | with_reducible apply answers_next
    | with_reducible apply State.clock_kept
    | with_reducible apply State.orderly_kept
    | with_reducible apply answers_ite)

theorem State.closeBlock_kept {z : State} (s : State) (b : Nat) (hz : Kept z s) : Kept z (State.closeBlock s b) := by
  unfold State.closeBlock
  repeat' (first
    | with_reducible assumption
    | intro _
    | with_reducible apply State.set0_kept
    | with_reducible apply kept_foldl
    | with_reducible apply kept_foldl_fst
    | with_reducible apply kept_foldr
    | with_reducible apply kept_ite
    | with_reducible apply kept_ite_fst
    | with_reducible apply kept_ite_snd
    | with_reducible apply kept_ite_third
    | fail_if_no_progress (with_reducible refine Kept.update ?_ rfl rfl rfl rfl rfl)
    | split)

theorem State.pgReset_kept {z : State} (s : State) (hz : Kept z s) : Kept z (State.pgReset s) := by
  unfold State.pgReset
  repeat' (first
    | with_reducible assumption
    | intro _
    | with_reducible apply State.setPst_kept
    | with_reducible apply kept_foldl_snd
    | with_reducible apply kept_foldl
    | with_reducible apply kept_foldl_fst
    | with_reducible apply kept_foldr
    | with_reducible apply kept_ite
    | with_reducible apply kept_ite_fst
    | with_reducible apply kept_ite_snd
    | with_reducible apply kept_ite_third
    | fail_if_no_progress (with_reducible refine Kept.update ?_ rfl rfl rfl rfl rfl))

theorem State.blockRuntime_kept {z : State} (s : State) (b : Nat) (hz : Kept z s) : Kept z (State.blockRuntime s b) := by
  unfold State.blockRuntime
  repeat' (first
    | with_reducible assumption
    | intro _
    | with_reducible apply State.set0_kept
    | with_reducible apply State.overrunTick_kept
    | with_reducible apply State.senReset_kept
    | with_reducible apply State.einReset_kept
    | with_reducible apply State.pgReset_kept
    | with_reducible apply kept_foldl
    | with_reducible apply kept_foldl_fst
    | with_reducible apply kept_foldr
    | with_reducible apply kept_ite
    | with_reducible apply kept_ite_fst
    | with_reducible apply kept_ite_snd
    | with_reducible apply kept_ite_third
    | fail_if_no_progress (with_reducible refine Kept.update ?_ rfl rfl rfl rfl rfl)
    | split)

theorem State.blockClear_kept {z : State} (s : State) (b : Nat) (hz : Kept z s) : Kept z (s.blockClear b) := by
  refine hz.trans ⟨rfl, rfl, Or.inl rfl, fun x => ?_⟩
  obtain ⟨x1, x2, x3, x4, x5, x6, x7, x8, x9⟩ := x
  exact ⟨State.mapRegs_rising s (fun r _ w => if r.block = b then blockWord r w else w), x2, x3, x4, x5, x6, x7, x8, x9⟩

theorem State.blockReset_kept {z : State} (s : State) (b : Nat) (hz : Kept z s) : Kept z (State.blockReset s b) := by
  unfold State.blockReset
  repeat' (first
    | with_reducible assumption
    | intro _
    | with_reducible apply State.closeBlock_kept
    | with_reducible apply State.blockRuntime_kept
    | with_reducible apply State.swapRefused_kept
    | with_reducible apply State.blockClear_kept
    | with_reducible apply kept_foldl
    | with_reducible apply kept_foldl_fst
    | with_reducible apply kept_foldr
    | with_reducible apply kept_ite)

theorem execPerBlockReset_answers (t : Nat) (party : Party) (block : BitVec 8) (s : State) : Answers (s.clock t) (execPerBlockReset t party block s) := by
  unfold execPerBlockReset
  repeat' (first
    | with_reducible exact Kept.refl _
    | intro _
    | with_reducible apply answers_next
    | with_reducible apply State.hostWrite_kept
    | with_reducible apply State.blockReset_kept)

theorem execStateReached_answers (t : Nat) (s : State) : Answers (s.clock t) (execStateReached t s) := by
  unfold execStateReached
  repeat' (first
    | with_reducible exact Kept.refl _
    | intro _
    | with_reducible apply answers_next
    | with_reducible apply State.clock_kept
    | with_reducible apply State.set0_kept
    | with_reducible apply State.afterReset_kept
    | with_reducible apply State.acceptWake_kept
    | with_reducible apply answers_ite
    | with_reducible assumption
    | intro _
    | with_reducible apply kept_foldl
    | with_reducible apply kept_foldl_fst
    | with_reducible apply kept_foldr
    | with_reducible apply kept_ite
    | with_reducible apply kept_ite_fst
    | with_reducible apply kept_ite_snd
    | with_reducible apply kept_ite_third
    | fail_if_no_progress (with_reducible refine Kept.update ?_ rfl rfl rfl rfl rfl)
    | split
    | extract_lets)

theorem State.unpaired_kept {z : State} (s : State) (hz : Kept z s) : Kept z (State.unpaired s) := by
  unfold State.unpaired
  repeat' (first
    | with_reducible assumption
    | intro _
    | with_reducible apply State.setRole_kept)

theorem State.settleRoles_kept {z : State} (s : State) (partner : Option PartnerSeen) (hz : Kept z s) : Kept z (State.settleRoles s partner) := by
  unfold State.settleRoles
  repeat' (first
    | with_reducible assumption
    | intro _
    | with_reducible apply State.settleWith_kept
    | with_reducible apply State.unpaired_kept
    | with_reducible apply State.raise_kept
    | with_reducible apply State.becomeDuty_kept
    | with_reducible apply State.setRole_kept
    | with_reducible apply State.set0_kept
    | with_reducible apply State.wr_kept
    | with_reducible apply kept_foldl
    | with_reducible apply kept_foldl_fst
    | with_reducible apply kept_foldr
    | with_reducible apply kept_ite
    | with_reducible apply kept_ite_fst
    | with_reducible apply kept_ite_snd
    | with_reducible apply kept_ite_third
    | fail_if_no_progress (with_reducible refine Kept.update ?_ rfl rfl rfl rfl rfl)
    | split)

theorem State.traceUp_kept {z : State} (s : State) (hz : Kept z s) : Kept z s.traceUp := by
  unfold State.traceUp
  split
  · extract_lets gap saved src1 src2 s1
    have h1 : Kept z s1 := Kept.update (kept_buf (t := { s.trc with running := true, buf := (s.trc.buf ++ saved).take 16384 })
      (fun _ => List.length_take_le _ _) hz) rfl rfl rfl rfl rfl
    exact State.trace_kept _ _ _ _ h1
  · exact hz

theorem State.reloadControl_kept {z : State} (s : State) (hz : Kept z s) : Kept z s.reloadControl := by
  unfold State.reloadControl
  extract_lets set mine side src1 src2 s1 s2 s3
  have h1 : Kept z s1 := by
    refine hz.trans ⟨rfl, rfl, Or.inl rfl, fun x => ?_⟩
    obtain ⟨x1, x2, x3, x4, x5, x6, x7, x8, x9⟩ := x
    exact ⟨State.mapRegs_rising _ _, x2, x3, rfl, x5, Nat.zero_le _, Nat.zero_le _, x8, x9⟩
  have h2 : Kept z s2 := State.setConfigs_kept _ _ (State.setConfigs_kept _ _ (State.setConfigs_kept _ _ h1))
  have h3 : Kept z s3 := kept_foldl h2 (fun u k hu => State.setChan_kept _ _ hu)
  exact State.celKeyReq_kept _ (State.set0_kept _ _ _ (State.set0_kept _ _ _ h3))

theorem State.absentSupplies_kept {z : State} (s : State) (hz : Kept z s) : Kept z (State.absentSupplies s) := by
  unfold State.absentSupplies
  repeat' (first
    | with_reducible assumption
    | intro _
    | with_reducible apply State.assertErr_kept
    | with_reducible apply State.raise_kept
    | with_reducible apply State.vlsLow_kept
    | with_reducible apply kept_foldl_snd
    | with_reducible apply kept_foldl
    | with_reducible apply kept_foldl_fst
    | with_reducible apply kept_foldr
    | with_reducible apply kept_ite)

theorem State.readyRise_kept {z : State} (s : State) (partner : Option PartnerSeen) (buses : Bool) (hz : Kept z s) : Kept z (State.readyRise s partner buses) := by
  unfold State.readyRise
  repeat' (first
    | with_reducible assumption
    | intro _
    | with_reducible apply State.set0_kept
    | with_reducible apply State.setReady_kept
    | with_reducible apply State.originate_kept
    | with_reducible apply State.traceUp_kept
    | with_reducible apply State.writeDies_kept
    | with_reducible apply State.settleRoles_kept
    | with_reducible apply State.fbStartAll_kept
    | with_reducible apply State.raise_kept
    | with_reducible apply kept_foldl
    | with_reducible apply kept_foldl_fst
    | with_reducible apply kept_foldr
    | with_reducible apply kept_ite
    | with_reducible apply kept_ite_fst
    | with_reducible apply kept_ite_snd
    | with_reducible apply kept_ite_third
    | fail_if_no_progress (with_reducible refine Kept.update ?_ rfl rfl rfl rfl rfl))

theorem State.woken_kept {z : State} (s : State) (hz : Kept z s) : Kept z (State.woken s) := by
  unfold State.woken
  repeat' (first
    | with_reducible assumption
    | intro _
    | with_reducible apply State.set0_kept
    | with_reducible apply State.emit_kept
    | with_reducible apply kept_foldl
    | with_reducible apply kept_foldl_fst
    | with_reducible apply kept_foldr
    | with_reducible apply kept_ite
    | with_reducible apply kept_ite_fst
    | with_reducible apply kept_ite_snd
    | with_reducible apply kept_ite_third
    | fail_if_no_progress (with_reducible refine Kept.update ?_ rfl rfl rfl rfl rfl))

theorem execReadyRise_answers (t : Nat) (partner : Option PartnerSeen) (s : State) : Answers (s.clock t) (execReadyRise t partner s) := by
  unfold execReadyRise
  repeat' (first
    | with_reducible exact Kept.refl _
    | intro _
    | with_reducible apply answers_next
    | with_reducible apply State.absentSupplies_kept
    | with_reducible apply State.clock_kept
    | with_reducible apply State.woken_kept
    | with_reducible apply State.readyRise_kept
    | with_reducible apply State.reloadControl_kept
    | with_reducible apply State.startPorts_kept
    | with_reducible apply answers_ite
    | with_reducible assumption
    | intro _
    | with_reducible apply kept_foldl
    | with_reducible apply kept_foldl_fst
    | with_reducible apply kept_foldr
    | with_reducible apply kept_ite)

/-! Machine/RegAccess.lean -/

theorem State.measure_kept {z : State} (s : State) (r : RegDesc) (ix : List Nat) (hz : Kept z s) : Kept z (State.measure s r ix) := by
  unfold State.measure
  repeat' (first
    | with_reducible assumption
    | intro _
    | with_reducible apply State.set0_kept
    | with_reducible apply State.drawFree_kept
    | with_reducible apply State.prbsCount_kept
    | with_reducible apply State.sf_kept
    | with_reducible apply kept_foldl
    | with_reducible apply kept_foldl_fst
    | with_reducible apply kept_foldr
    | with_reducible apply kept_ite)

theorem State.readCaptures_kept {z : State} (s : State) (p : Party) (r : RegDesc) (ix : List Nat) (a : Nat) (hz : Kept z s) : Kept z (State.readCaptures s p r ix a) := by
  unfold State.readCaptures
  repeat' (first
    | with_reducible assumption
    | intro _
    | with_reducible apply State.captureNow_kept
    | with_reducible apply State.captureOfs_kept
    | with_reducible apply State.captureRate_kept
    | with_reducible apply State.evtRead_kept
    | with_reducible apply State.trcRead_kept
    | with_reducible apply State.capture_kept
    | with_reducible apply kept_foldl
    | with_reducible apply kept_foldl_fst
    | with_reducible apply kept_foldr
    | with_reducible apply kept_ite)

theorem State.readClears_kept {z : State} (s : State) (p : Party) (r : RegDesc) (ix : List Nat) (hz : Kept z s) : Kept z (State.readClears s p r ix) := by
  unfold State.readClears
  repeat' (first
    | with_reducible assumption
    | intro _
    | with_reducible apply State.uaSawStat_kept
    | with_reducible apply State.uaTake_kept
    | with_reducible apply State.wr_kept
    | with_reducible apply kept_foldl
    | with_reducible apply kept_foldl_fst
    | with_reducible apply kept_foldr
    | with_reducible apply kept_ite)

theorem State.readReg_kept {z : State} (s : State) (p : Party) (snap : Bool) (a : Nat) (hz : Kept z s) : Kept z (State.readReg s p snap a).2 := by
  unfold State.readReg
  repeat' (first
    | with_reducible assumption
    | intro _
    | with_reducible apply State.readCaptures_kept
    | with_reducible apply State.drawFree_kept
    | with_reducible apply State.measure_kept
    | with_reducible apply State.dropCapture_kept
    | with_reducible apply State.readClears_kept
    | with_reducible apply kept_foldl_snd
    | with_reducible apply kept_foldl
    | with_reducible apply kept_foldl_fst
    | with_reducible apply kept_foldr
    | with_reducible apply kept_ite
    | with_reducible apply kept_ite_fst
    | with_reducible apply kept_ite_snd
    | with_reducible apply kept_ite_third
    | fail_if_no_progress (with_reducible refine Kept.update ?_ rfl rfl rfl rfl rfl)
    | split)

theorem State.partyRead_kept {z : State} (s : State) (p : Party) (a : Nat) (hz : Kept z s) : Kept z (State.partyRead s p a) := by
  unfold State.partyRead
  repeat' (first
    | with_reducible assumption
    | intro _
    | with_reducible apply State.readReg_kept
    | with_reducible apply State.emit_kept)

theorem State.snapshot_kept {z : State} (s : State) (p : Party) (a n : Nat) (hz : Kept z s) : Kept z (s.snapshot p a n).2 := by
  induction n generalizing s a with
  | zero => exact hz
  | succ n ih => exact ih _ _ (State.readReg_kept _ _ _ _ hz)

theorem State.plainWrite_kept {z : State} (s : State) (p : Party) (r : RegDesc) (ix : List Nat) (a : Nat) (v : BitVec 32)
    (hz : Kept z s) : Kept z (s.plainWrite p r ix a v) := by
  unfold State.plainWrite
  split
  · exact State.lockedWrite_kept _ _ (State.wr_kept _ _ _ hz)
  · split
    · exact kept_pairLow _ _ hz
    · extract_lets s1
      have h1 : Kept z s1 := State.wr_kept _ _ _ hz
      split
      · try extract_lets k
        split
        · exact State.wr_kept _ _ _ (kept_pairLow _ _ h1)
        · exact h1
      · exact h1

theorem State.openWrite_kept {z : State} (s : State) (x : Fld) (w : State) (hz : Kept z w) : Kept z (s.openWrite x w) :=
  kept_ite (State.openSet_kept _ hz) hz

theorem State.fpWrite_kept {z : State} (s : State) (off : Nat) (en v : BitVec 32) (hz : Kept z s) : Kept z (State.fpWrite s off en v) := by
  unfold State.fpWrite
  repeat' (first
    | with_reducible assumption
    | intro _
    | with_reducible apply kept_foldl
    | with_reducible apply kept_foldl_fst
    | with_reducible apply kept_foldr
    | with_reducible apply kept_ite
    | with_reducible apply kept_ite_fst
    | with_reducible apply kept_ite_snd
    | with_reducible apply kept_ite_third
    | fail_if_no_progress (with_reducible refine Kept.update ?_ rfl rfl rfl rfl rfl))

theorem State.commandWrite_kept {z : State} (s : State) (p : Party) (r : RegDesc) (ix : List Nat) (a : Nat) (v : BitVec 32)
    (hz : Kept z s) : KeptO z (s.commandWrite p r ix a v) := by
  unfold State.commandWrite
  repeat' (first
    | with_reducible assumption
    | with_reducible exact keptO_none _
    | with_reducible apply keptO_some
    | with_reducible apply State.cfgSwap_kept
    | with_reducible apply State.updCtl_kept
    | with_reducible apply State.updData_kept
    | with_reducible apply State.openWrite_kept
    | with_reducible apply State.plainWrite_kept
    | with_reducible apply State.shrWrite_kept
    | with_reducible apply State.atcCmd_kept
    | with_reducible apply State.porCmd_kept
    | with_reducible apply State.evtStat_kept
    | with_reducible apply State.todSet_kept
    | with_reducible apply State.gngAddrWrite_kept
    | with_reducible apply State.gngCommit_kept
    | with_reducible apply State.trigger_kept
    | with_reducible apply State.cmdReset_kept
    | with_reducible apply State.cmdHandover_kept
    | with_reducible apply State.senCommit_kept
    | with_reducible apply State.warmReset_kept
    | with_reducible apply State.blockReset_kept
    | with_reducible apply State.fbRecover_kept
    | with_reducible apply State.txRequest_kept
    | with_reducible apply State.txCancel_kept
    | with_reducible apply State.mbsel_kept
    | with_reducible apply State.mbwin_kept
    | with_reducible apply State.uaWrite_kept
    | with_reducible apply State.uaTxctl_kept
    | with_reducible apply State.uaClear_kept
    | with_reducible apply State.lsClear_kept
    | with_reducible apply State.wr_kept
    | with_reducible apply State.celSendCmd_kept
    | with_reducible apply State.laneTest_kept
    | with_reducible apply State.qcmd_kept
    | with_reducible apply keptO_ite
    | with_reducible apply kept_ite
    | fail_if_no_progress (with_reducible refine Kept.update ?_ rfl rfl rfl rfl rfl)
    | split)

theorem State.serve_kept {z : State} (s : State) (p : Party) (a : Nat) (hz : Kept z s) : Kept z (State.serve s p a) := by
  unfold State.serve
  repeat' (first
    | with_reducible assumption
    | intro _
    | with_reducible apply kept_foldl
    | with_reducible apply kept_foldl_fst
    | with_reducible apply kept_foldr
    | with_reducible apply kept_ite
    | with_reducible apply kept_ite_fst
    | with_reducible apply kept_ite_snd
    | with_reducible apply kept_ite_third
    | fail_if_no_progress (with_reducible refine Kept.update ?_ rfl rfl rfl rfl rfl))

theorem State.earlierWrite_kept {z : State} (s : State) (r : RegDesc) (ix : List Nat) (v : BitVec 32) (hz : Kept z s) : Kept z (State.earlierWrite s r ix v) := by
  unfold State.earlierWrite
  repeat' (first
    | with_reducible assumption
    | intro _
    | with_reducible apply State.wr_kept)

theorem State.writeReg_kept {z : State} (s : State) (p : Party) (a : Nat) (en v : BitVec 32) (hz : Kept z s) :
    Kept z (s.writeReg p a en v) := by
  unfold State.writeReg
  split
  · exact hz
  · split
    · extract_lets w s1
      have h1 : Kept z s1 := State.serve_kept _ _ _ hz
      exact kept_getD (kept_ite (State.earlierWrite_kept _ _ _ _ h1) (State.plainWrite_kept _ _ _ _ _ _ h1))
        (State.commandWrite_kept _ _ _ _ _ _ h1)
    · refine kept_ite (State.fpWrite_kept _ _ _ _ hz) (kept_ite ?_ hz)
      exact Kept.update hz rfl rfl rfl rfl rfl

theorem State.writeWords_kept {z : State} (s : State) (p : Party) (a : Nat) (ws : List (BitVec 32)) (hz : Kept z s) :
    Kept z (s.writeWords p a ws) := by
  induction ws generalizing s a with
  | nil => exact hz
  | cons w ws ih => exact ih _ _ (State.writeReg_kept _ _ _ _ _ hz)

theorem execRegisterWrite_answers (t : Nat) (party : Party) (addr : BitVec 26) (value : BitVec 32) (enables : BitVec 4) (s : State) : Answers (s.clock t) (execRegisterWrite t party addr value enables s) := by
  unfold execRegisterWrite
  repeat' (first
    | with_reducible exact Kept.refl _
    | intro _
    | with_reducible apply answers_next
    | with_reducible apply State.hostWrite_kept
    | with_reducible apply State.writeReg_kept)

theorem execRcRead_answers (t : Nat) (party : Party) (addr : BitVec 26) (s : State) : Answers (s.clock t) (execRcRead t party addr s) := by
  unfold execRcRead
  repeat' (first
    | with_reducible exact Kept.refl _
    | intro _
    | with_reducible apply answers_next
    | with_reducible apply State.partyRead_kept)

theorem execLowWordCapture_answers (t : Nat) (party : Party) (addr : BitVec 26) (s : State) : Answers (s.clock t) (execLowWordCapture t party addr s) := by
  unfold execLowWordCapture
  repeat' (first
    | with_reducible exact Kept.refl _
    | intro _
    | with_reducible apply answers_next
    | with_reducible apply State.clock_kept
    | with_reducible apply State.partyRead_kept)

theorem State.regOp_kept {z : State} (s : State) (p : Party) (r : Request) (hz : Kept z s) : Kept z (s.regOp p r).2.2 := by
  unfold State.regOp
  try extract_lets
  exact kept_ite_third (State.snapshot_kept _ _ _ _ hz) (State.writeWords_kept _ _ _ _ hz)

theorem execRegRead_answers (t : Nat) (s : State) : Answers (s.clock t) (execRegRead t s) := by
  unfold execRegRead
  repeat' (first
    | with_reducible exact Kept.refl _
    | intro _
    | with_reducible apply answers_next
    | with_reducible apply State.clock_kept
    | with_reducible apply State.regOp_kept
    | with_reducible apply State.req_kept
    | with_reducible apply State.finish_kept
    | with_reducible apply answers_ite
    | with_reducible assumption
    | intro _
    | with_reducible apply kept_foldl
    | with_reducible apply kept_foldl_fst
    | with_reducible apply kept_foldr
    | with_reducible apply kept_ite
    | with_reducible apply kept_ite_fst
    | with_reducible apply kept_ite_snd
    | with_reducible apply kept_ite_third
    | fail_if_no_progress (with_reducible refine Kept.update ?_ rfl rfl rfl rfl rfl)
    | split
    | extract_lets)

theorem execRegWrite_answers (t : Nat) (s : State) : Answers (s.clock t) (execRegWrite t s) := by
  unfold execRegWrite
  repeat' (first
    | with_reducible exact Kept.refl _
    | intro _
    | with_reducible apply answers_next
    | with_reducible apply State.clock_kept
    | with_reducible apply State.regOp_kept
    | with_reducible apply State.req_kept
    | with_reducible apply State.finish_kept
    | with_reducible apply answers_ite
    | with_reducible assumption
    | intro _
    | with_reducible apply kept_foldl
    | with_reducible apply kept_foldl_fst
    | with_reducible apply kept_foldr
    | with_reducible apply kept_ite
    | with_reducible apply kept_ite_fst
    | with_reducible apply kept_ite_snd
    | with_reducible apply kept_ite_third
    | fail_if_no_progress (with_reducible refine Kept.update ?_ rfl rfl rfl rfl rfl)
    | split
    | extract_lets)

/-! Machine/Host.lean -/

theorem execTailWrite_answers (t : Nat) (queue : Fin 2048) (tail : BitVec 15) (descs : List HostDesc) (s : State) : Answers (s.clock t) (execTailWrite t queue tail descs s) := by
  unfold execTailWrite
  repeat' (first
    | with_reducible exact Kept.refl _
    | intro _
    | with_reducible apply answers_next
    | with_reducible apply State.clock_kept
    | with_reducible apply State.setRing_kept
    | with_reducible apply answers_ite)

theorem execHeadRead_answers (t : Nat) (queue : Fin 2048) (s : State) : Answers (s.clock t) (execHeadRead t queue s) := by
  unfold execHeadRead
  repeat' (first
    | with_reducible exact Kept.refl _
    | intro _
    | with_reducible apply answers_next
    | with_reducible apply State.emit_kept
    | with_reducible apply State.clock_kept
    | with_reducible apply State.setRing_kept)

theorem execRingEnable_answers (t : Nat) (queue : Fin 2048) (lo hi cfg : BitVec 32) (s : State) : Answers (s.clock t) (execRingEnable t queue lo hi cfg s) := by
  unfold execRingEnable
  repeat' (first
    | with_reducible exact Kept.refl _
    | intro _
    | with_reducible apply answers_next
    | with_reducible apply State.setRing_kept
    | with_reducible apply State.clock_kept
    | with_reducible apply State.dropRead_kept
    | with_reducible apply answers_ite
    | with_reducible assumption
    | intro _
    | with_reducible apply kept_foldl
    | with_reducible apply kept_foldl_fst
    | with_reducible apply kept_foldr
    | with_reducible apply kept_ite)

theorem State.hostBytes_kept {z : State} (s : State) (q : Nat) (i : Item) (hz : Kept z s) : Kept z (State.hostBytes s q i).2 := by
  unfold State.hostBytes
  repeat' (first
    | with_reducible assumption
    | intro _
    | with_reducible apply State.listenerBytes_kept
    | with_reducible apply kept_foldl_snd
    | with_reducible apply kept_foldl
    | with_reducible apply kept_foldl_fst
    | with_reducible apply kept_foldr
    | with_reducible apply kept_ite
    | with_reducible apply kept_ite_fst
    | with_reducible apply kept_ite_snd
    | with_reducible apply kept_ite_third
    | fail_if_no_progress (with_reducible refine Kept.update ?_ rfl rfl rfl rfl rfl)
    | split)

theorem State.hostDelivered_kept {z : State} (s : State) (i : Item) (q : Nat) (hz : Kept z s) : Kept z (State.hostDelivered s i q) := by
  unfold State.hostDelivered
  repeat' (first
    | with_reducible assumption
    | intro _
    | with_reducible apply State.bump_kept
    | with_reducible apply kept_foldl
    | with_reducible apply kept_foldl_fst
    | with_reducible apply kept_foldr
    | with_reducible apply kept_ite
    | with_reducible apply kept_ite_fst
    | with_reducible apply kept_ite_snd
    | with_reducible apply kept_ite_third
    | fail_if_no_progress (with_reducible refine Kept.update ?_ rfl rfl rfl rfl rfl)
    | split)

theorem State.toHost_kept {z : State} (s : State) (k : Nat) (d : Desc) (ecc : Ecc) (hz : Kept z s) : Kept z (State.toHost s k d ecc) := by
  unfold State.toHost
  repeat' (first
    | with_reducible assumption
    | intro _
    | with_reducible apply State.readItem_kept
    | with_reducible apply State.releaseCopy_kept
    | with_reducible apply State.hostDelivered_kept
    | with_reducible apply State.writeBack_kept
    | with_reducible apply State.own_kept
    | with_reducible apply State.hostBytes_kept
    | with_reducible apply State.removeEntry_kept
    | with_reducible apply State.setRing_kept
    | with_reducible apply State.startEntry_kept
    | with_reducible apply kept_foldl
    | with_reducible apply kept_foldl_fst
    | with_reducible apply kept_foldr
    | with_reducible apply kept_ite
    | with_reducible apply kept_ite_fst
    | with_reducible apply kept_ite_snd
    | with_reducible apply kept_ite_third
    | fail_if_no_progress (with_reducible refine Kept.update ?_ rfl rfl rfl rfl rfl)
    | split
    | extract_lets)

theorem State.fromItem_kept {z : State} (s : State) (k : Nat) (b : Bytes) (hz : Kept z s) : Kept z (State.fromItem s k b).2 := by
  unfold State.fromItem
  repeat' (first
    | with_reducible assumption
    | intro _
    | with_reducible apply State.inject_kept
    | with_reducible apply State.putItem_kept
    | with_reducible apply State.updData_kept
    | with_reducible apply kept_foldl_snd
    | with_reducible apply kept_foldl
    | with_reducible apply kept_foldl_fst
    | with_reducible apply kept_foldr
    | with_reducible apply kept_ite
    | with_reducible apply kept_ite_fst
    | with_reducible apply kept_ite_snd
    | with_reducible apply kept_ite_third
    | fail_if_no_progress (with_reducible refine Kept.update ?_ rfl rfl rfl rfl rfl)
    | split)

theorem State.lastDone_kept {z : State} (s : State) (k : Nat) (d : Desc) (stored : Bool) (hz : Kept z s) : Kept z (State.lastDone s k d stored) := by
  unfold State.lastDone
  repeat' (first
    | with_reducible assumption
    | intro _
    | with_reducible apply State.writeBack_kept
    | with_reducible apply State.setRing_kept
    | with_reducible apply kept_foldl
    | with_reducible apply kept_foldl_fst
    | with_reducible apply kept_foldr
    | with_reducible apply kept_ite
    | with_reducible apply kept_ite_fst
    | with_reducible apply kept_ite_snd
    | with_reducible apply kept_ite_third
    | fail_if_no_progress (with_reducible refine Kept.update ?_ rfl rfl rfl rfl rfl))

theorem State.fromHost_kept {z : State} (s : State) (k : Nat) (d : Desc) (hz : Kept z s) : Kept z (State.fromHost s k d) := by
  unfold State.fromHost
  repeat' (first
    | with_reducible assumption
    | intro _
    | with_reducible apply State.writeBack_kept
    | with_reducible apply State.fromItem_kept
    | with_reducible apply State.lastDone_kept
    | with_reducible apply State.setRing_kept
    | with_reducible apply kept_foldl
    | with_reducible apply kept_foldl_fst
    | with_reducible apply kept_foldr
    | with_reducible apply kept_ite)

theorem execDescriptorComplete_answers (rd : At Ecc) (queue : Fin 2048) (s : State) : Answers (s.clock rd.t) (execDescriptorComplete rd queue s) := by
  unfold execDescriptorComplete
  repeat' (first
    | with_reducible exact Kept.refl _
    | intro _
    | with_reducible apply answers_next
    | with_reducible apply State.clock_kept
    | with_reducible apply State.fromHost_kept
    | with_reducible apply State.toHost_kept
    | with_reducible apply answers_ite
    | with_reducible assumption
    | intro _
    | with_reducible apply kept_foldl
    | with_reducible apply kept_foldl_fst
    | with_reducible apply kept_foldr
    | with_reducible apply kept_ite
    | with_reducible apply kept_ite_fst
    | with_reducible apply kept_ite_snd
    | with_reducible apply kept_ite_third
    | fail_if_no_progress (with_reducible refine Kept.update ?_ rfl rfl rfl rfl rfl)
    | split
    | extract_lets)

theorem State.usbOut_kept {z : State} (s : State) (ws : List (BitVec 32)) (hz : Kept z s) : Kept z (State.usbOut s ws) := by
  unfold State.usbOut
  repeat' (first
    | with_reducible assumption
    | intro _
    | with_reducible apply State.emit_kept)

theorem State.stall_kept {z : State} (s : State) (hz : Kept z s) : Kept z (State.stall s) := by
  unfold State.stall
  repeat' (first
    | with_reducible assumption
    | intro _
    | with_reducible apply State.emit_kept)

theorem execUsbRegRead_answers (t : Nat) (addr : BitVec 32) (len : BitVec 16) (s : State) : Answers (s.clock t) (execUsbRegRead t addr len s) := by
  unfold execUsbRegRead
  repeat' (first
    | with_reducible exact Kept.refl _
    | intro _
    | with_reducible apply answers_next
    | with_reducible apply State.clock_kept
    | with_reducible apply State.snapshot_kept
    | with_reducible apply State.usbOut_kept
    | with_reducible apply State.stall_kept
    | with_reducible apply answers_ite)

theorem execUsbRegWrite_answers (t : Nat) (addr : BitVec 32) (data : Bytes) (s : State) : Answers (s.clock t) (execUsbRegWrite t addr data s) := by
  unfold execUsbRegWrite
  repeat' (first
    | with_reducible exact Kept.refl _
    | intro _
    | with_reducible apply answers_next
    | with_reducible apply State.clock_kept
    | with_reducible apply State.writeWords_kept
    | with_reducible apply State.stall_kept
    | with_reducible apply answers_ite)

theorem State.usbUpload_kept {z : State} (s : State) (hz : Kept z s) : Kept z (State.usbUpload s) := by
  unfold State.usbUpload
  repeat' (first
    | with_reducible assumption
    | intro _
    | with_reducible apply State.set0_kept
    | with_reducible apply kept_foldl
    | with_reducible apply kept_foldl_fst
    | with_reducible apply kept_foldr
    | with_reducible apply kept_ite
    | with_reducible apply kept_ite_fst
    | with_reducible apply kept_ite_snd
    | with_reducible apply kept_ite_third
    | fail_if_no_progress (with_reducible refine Kept.update ?_ rfl rfl rfl rfl rfl)
    | split)

theorem execImgStart_answers (t : Nat) (target : BitVec 16) (len : BitVec 16) (s : State) : Answers (s.clock t) (execImgStart t target len s) := by
  unfold execImgStart
  repeat' (first
    | with_reducible exact Kept.refl _
    | intro _
    | with_reducible apply answers_next
    | with_reducible apply State.updStart_kept
    | with_reducible apply State.usbUpload_kept
    | with_reducible apply State.clock_kept
    | with_reducible apply State.stall_kept
    | with_reducible apply State.set0_kept
    | with_reducible apply answers_ite)

theorem execImgCommit_answers (t : Nat) (len : BitVec 16) (s : State) : Answers (s.clock t) (execImgCommit t len s) := by
  unfold execImgCommit
  repeat' (first
    | with_reducible exact Kept.refl _
    | intro _
    | with_reducible apply answers_next
    | with_reducible apply State.clock_kept
    | with_reducible apply State.stall_kept
    | with_reducible apply State.updCommit_kept
    | with_reducible apply answers_ite)

theorem execImgAbort_answers (t : Nat) (len : BitVec 16) (s : State) : Answers (s.clock t) (execImgAbort t len s) := by
  unfold execImgAbort
  repeat' (first
    | with_reducible exact Kept.refl _
    | intro _
    | with_reducible apply answers_next
    | with_reducible apply State.clock_kept
    | with_reducible apply State.stall_kept
    | with_reducible apply State.updAbort_kept
    | with_reducible apply answers_ite)

theorem execUsbStatus_answers (t : Nat) (len : BitVec 16) (s : State) : Answers (s.clock t) (execUsbStatus t len s) := by
  unfold execUsbStatus
  repeat' (first
    | with_reducible exact Kept.refl _
    | intro _
    | with_reducible apply answers_next
    | with_reducible apply State.clock_kept
    | with_reducible apply State.stall_kept
    | with_reducible apply State.readReg_kept
    | with_reducible apply State.usbOut_kept
    | with_reducible apply answers_ite)

theorem execEp1Data_answers (t : Nat) (data : Bytes) (s : State) : Answers (s.clock t) (execEp1Data t data s) := by
  unfold execEp1Data
  repeat' (first
    | with_reducible exact Kept.refl _
    | intro _
    | with_reducible apply answers_next
    | with_reducible apply State.usbUpload_kept
    | with_reducible apply State.clock_kept
    | with_reducible apply State.updData_kept)

theorem execUsbBusReset_answers (t : Nat) (s : State) : Answers (s.clock t) (execUsbBusReset t s) := by
  unfold execUsbBusReset
  repeat' (first
    | with_reducible exact Kept.refl _
    | intro _
    | with_reducible apply answers_next
    | with_reducible apply State.clock_kept
    | with_reducible apply State.updAbort_kept
    | with_reducible apply answers_ite
    | with_reducible assumption
    | intro _
    | with_reducible apply kept_foldl
    | with_reducible apply kept_foldl_fst
    | with_reducible apply kept_foldr
    | with_reducible apply kept_ite
    | with_reducible apply kept_ite_fst
    | with_reducible apply kept_ite_snd
    | with_reducible apply kept_ite_third
    | fail_if_no_progress (with_reducible refine Kept.update ?_ rfl rfl rfl rfl rfl)
    | split
    | extract_lets)

theorem execArpRequest_answers (t : Nat) (mac : BitVec 48) (sender target : BitVec 32) (s : State) : Answers (s.clock t) (execArpRequest t mac sender target s) := by
  unfold execArpRequest
  repeat' (first
    | with_reducible exact Kept.refl _
    | intro _
    | with_reducible apply answers_next
    | with_reducible apply State.clock_kept
    | with_reducible apply State.emit_kept
    | with_reducible apply answers_ite)

theorem execIcmpEcho_answers (t : Nat) (src dst : BitVec 32) (ident seq : BitVec 16) (data : Bytes) (s : State) : Answers (s.clock t) (execIcmpEcho t src dst ident seq data s) := by
  unfold execIcmpEcho
  repeat' (first
    | with_reducible exact Kept.refl _
    | intro _
    | with_reducible apply answers_next
    | with_reducible apply State.clock_kept
    | with_reducible apply State.emit_kept
    | with_reducible apply State.ident_kept
    | with_reducible apply answers_ite)

theorem State.mgtTake_kept {z : State} (s : State) (hz : Kept z s) : Kept z (State.mgtTake s).2 := by
  unfold State.mgtTake
  repeat' (first
    | with_reducible assumption
    | intro _
    | with_reducible apply State.sec_kept
    | with_reducible apply kept_foldl_snd
    | with_reducible apply kept_foldl
    | with_reducible apply kept_foldl_fst
    | with_reducible apply kept_foldr
    | with_reducible apply kept_ite
    | with_reducible apply kept_ite_fst
    | with_reducible apply kept_ite_snd
    | with_reducible apply kept_ite_third
    | fail_if_no_progress (with_reducible refine Kept.update ?_ rfl rfl rfl rfl rfl))

theorem State.mgtServe_kept {z : State} (s : State) (src : BitVec 32) (payload : Bytes) (hz : Kept z s) : Kept z (State.mgtServe s src payload) := by
  unfold State.mgtServe
  repeat' (first
    | with_reducible assumption
    | intro _
    | with_reducible apply State.regOp_kept
    | with_reducible apply State.drawFree_kept
    | with_reducible apply State.req_kept
    | with_reducible apply State.emit_kept
    | with_reducible apply kept_foldl
    | with_reducible apply kept_foldl_fst
    | with_reducible apply kept_foldr
    | with_reducible apply kept_ite
    | with_reducible apply kept_ite_fst
    | with_reducible apply kept_ite_snd
    | with_reducible apply kept_ite_third)

theorem execMgtRegisterRequest_answers (t : Nat) (src dst : BitVec 32) (payload : Bytes) (s : State) : Answers (s.clock t) (execMgtRegisterRequest t src dst payload s) := by
  unfold execMgtRegisterRequest
  repeat' (first
    | with_reducible exact Kept.refl _
    | intro _
    | with_reducible apply answers_next
    | with_reducible apply State.clock_kept
    | with_reducible apply State.mgtTake_kept
    | with_reducible apply State.mgtServe_kept
    | with_reducible apply answers_ite
    | with_reducible assumption
    | intro _
    | with_reducible apply kept_foldl
    | with_reducible apply kept_foldl_fst
    | with_reducible apply kept_foldr
    | with_reducible apply kept_ite)

theorem State.bypass_kept {z : State} (s : State) (i : Jtag) (tdi : List Bool) (hz : Kept z s) : Kept z (State.bypass s i tdi) := by
  unfold State.bypass
  repeat' (first
    | with_reducible assumption
    | intro _
    | with_reducible apply State.emit_kept
    | with_reducible apply kept_foldl
    | with_reducible apply kept_foldl_fst
    | with_reducible apply kept_foldr
    | with_reducible apply kept_ite
    | with_reducible apply kept_ite_fst
    | with_reducible apply kept_ite_snd
    | with_reducible apply kept_ite_third
    | fail_if_no_progress (with_reducible refine Kept.update ?_ rfl rfl rfl rfl rfl))

theorem State.balls_kept {z : State} (s : State) (driven : Option (List Bool)) (floating : Bool) (hz : Kept z s) : Kept z (State.balls s driven floating) := by
  unfold State.balls
  repeat' (first
    | with_reducible assumption
    | intro _
    | with_reducible apply kept_foldl
    | with_reducible apply kept_foldl_fst
    | with_reducible apply kept_foldr
    | with_reducible apply kept_ite
    | with_reducible apply kept_ite_fst
    | with_reducible apply kept_ite_snd
    | with_reducible apply kept_ite_third
    | fail_if_no_progress (with_reducible refine Kept.update ?_ rfl rfl rfl rfl rfl))

theorem execBypass_answers (t : Nat) (tdi : List Bool) (s : State) : Answers (s.clock t) (execBypass t tdi s) := by
  unfold execBypass
  repeat' (first
    | with_reducible exact Kept.refl _
    | intro _
    | with_reducible apply answers_next
    | with_reducible apply State.balls_kept
    | with_reducible apply State.bypass_kept)

theorem execIdcode_answers (t : Nat) (s : State) : Answers (s.clock t) (execIdcode t s) := by
  unfold execIdcode
  repeat' (first
    | with_reducible exact Kept.refl _
    | intro _
    | with_reducible apply answers_next
    | with_reducible apply State.balls_kept
    | with_reducible apply State.emit_kept
    | with_reducible apply State.clock_kept
    | with_reducible apply answers_ite
    | with_reducible assumption
    | intro _
    | with_reducible apply kept_foldl
    | with_reducible apply kept_foldl_fst
    | with_reducible apply kept_foldr
    | with_reducible apply kept_ite
    | with_reducible apply kept_ite_fst
    | with_reducible apply kept_ite_snd
    | with_reducible apply kept_ite_third
    | fail_if_no_progress (with_reducible refine Kept.update ?_ rfl rfl rfl rfl rfl))

theorem execSamplePreload_answers (t : Nat) (levels tdi : List Bool) (s : State) : Answers (s.clock t) (execSamplePreload t levels tdi s) := by
  unfold execSamplePreload
  repeat' (first
    | with_reducible exact Kept.refl _
    | intro _
    | with_reducible apply answers_next
    | with_reducible apply State.balls_kept
    | with_reducible apply State.emit_kept
    | with_reducible apply State.clock_kept
    | with_reducible apply answers_ite
    | with_reducible assumption
    | intro _
    | with_reducible apply kept_foldl
    | with_reducible apply kept_foldl_fst
    | with_reducible apply kept_foldr
    | with_reducible apply kept_ite
    | with_reducible apply kept_ite_fst
    | with_reducible apply kept_ite_snd
    | with_reducible apply kept_ite_third
    | fail_if_no_progress (with_reducible refine Kept.update ?_ rfl rfl rfl rfl rfl))

theorem State.extest_kept {z : State} (s : State) (i : Jtag) (levels tdi : List Bool) (hz : Kept z s) : Kept z (State.extest s i levels tdi) := by
  unfold State.extest
  repeat' (first
    | with_reducible assumption
    | intro _
    | with_reducible apply State.balls_kept
    | with_reducible apply State.emit_kept
    | with_reducible apply State.bypass_kept
    | with_reducible apply kept_foldl
    | with_reducible apply kept_foldl_fst
    | with_reducible apply kept_foldr
    | with_reducible apply kept_ite
    | with_reducible apply kept_ite_fst
    | with_reducible apply kept_ite_snd
    | with_reducible apply kept_ite_third
    | fail_if_no_progress (with_reducible refine Kept.update ?_ rfl rfl rfl rfl rfl))

theorem execExtest_answers (t : Nat) (levels tdi : List Bool) (s : State) : Answers (s.clock t) (execExtest t levels tdi s) := by
  unfold execExtest
  repeat' (first
    | with_reducible exact Kept.refl _
    | intro _
    | with_reducible apply answers_next
    | with_reducible apply State.extest_kept)

theorem execExtestPulse_answers (t : Nat) (levels tdi : List Bool) (s : State) : Answers (s.clock t) (execExtestPulse t levels tdi s) := by
  unfold execExtestPulse
  repeat' (first
    | with_reducible exact Kept.refl _
    | intro _
    | with_reducible apply answers_next
    | with_reducible apply State.extest_kept)

theorem execExtestTrain_answers (t : Nat) (levels tdi : List Bool) (s : State) : Answers (s.clock t) (execExtestTrain t levels tdi s) := by
  unfold execExtestTrain
  repeat' (first
    | with_reducible exact Kept.refl _
    | intro _
    | with_reducible apply answers_next
    | with_reducible apply State.extest_kept)

theorem execClamp_answers (t : Nat) (tdi : List Bool) (s : State) : Answers (s.clock t) (execClamp t tdi s) := by
  unfold execClamp
  repeat' (first
    | with_reducible exact Kept.refl _
    | intro _
    | with_reducible apply answers_next
    | with_reducible apply State.emit_kept
    | with_reducible apply State.balls_kept
    | with_reducible apply State.bypass_kept
    | with_reducible apply State.clock_kept
    | with_reducible apply answers_ite)

theorem execHighz_answers (t : Nat) (tdi : List Bool) (s : State) : Answers (s.clock t) (execHighz t tdi s) := by
  unfold execHighz
  repeat' (first
    | with_reducible exact Kept.refl _
    | intro _
    | with_reducible apply answers_next
    | with_reducible apply State.emit_kept
    | with_reducible apply State.balls_kept
    | with_reducible apply State.bypass_kept
    | with_reducible apply State.clock_kept
    | with_reducible apply answers_ite)

/-! Machine/Windows.lean -/

theorem State.endSlots_kept {z : State} (s : State) (hz : Kept z s) : Kept z (State.endSlots s) := by
  unfold State.endSlots
  repeat' (first
    | with_reducible assumption
    | intro _
    | with_reducible apply State.refStop_kept
    | with_reducible apply kept_foldl_snd
    | with_reducible apply kept_foldl
    | with_reducible apply kept_foldl_fst
    | with_reducible apply kept_foldr
    | with_reducible apply kept_ite)

theorem State.windowTick_kept {z : State} (s : State) (hz : Kept z s) : Kept z (State.windowTick s) := by
  unfold State.windowTick
  repeat' (first
    | with_reducible assumption
    | intro _
    | with_reducible apply State.endSlots_kept
    | with_reducible apply kept_foldl
    | with_reducible apply kept_foldl_fst
    | with_reducible apply kept_foldr
    | with_reducible apply kept_ite
    | with_reducible apply kept_ite_fst
    | with_reducible apply kept_ite_snd
    | with_reducible apply kept_ite_third
    | fail_if_no_progress (with_reducible refine Kept.update ?_ rfl rfl rfl rfl rfl))

theorem State.markWindow_kept {z : State} (s : State) (entry v : Nat) (hz : Kept z s) : Kept z (State.markWindow s entry v) := by
  unfold State.markWindow
  repeat' (first
    | with_reducible assumption
    | intro _
    | with_reducible apply kept_foldl
    | with_reducible apply kept_foldl_fst
    | with_reducible apply kept_foldr
    | with_reducible apply kept_ite
    | with_reducible apply kept_ite_fst
    | with_reducible apply kept_ite_snd
    | with_reducible apply kept_ite_third
    | fail_if_no_progress (with_reducible refine Kept.update ?_ rfl rfl rfl rfl rfl))

theorem State.controlWindow_kept {z : State} (s : State) (n : Nat) (hz : Kept z s) : Kept z (State.controlWindow s n) := by
  unfold State.controlWindow
  repeat' (first
    | with_reducible assumption
    | intro _
    | with_reducible apply State.sendHello_kept
    | with_reducible apply State.sendIdents_kept
    | with_reducible apply State.sendGrant_kept
    | with_reducible apply kept_foldl
    | with_reducible apply kept_foldl_fst
    | with_reducible apply kept_foldr
    | with_reducible apply kept_ite
    | with_reducible apply kept_ite_fst
    | with_reducible apply kept_ite_snd
    | with_reducible apply kept_ite_third
    | fail_if_no_progress (with_reducible refine Kept.update ?_ rfl rfl rfl rfl rfl)
    | split)

theorem State.windowOpens_kept {z : State} (s : State) (seg : Nat) (w : Win) (hz : Kept z s) : Kept z (State.windowOpens s seg w) := by
  unfold State.windowOpens
  repeat' (first
    | with_reducible assumption
    | intro _
    | with_reducible apply State.controlWindow_kept
    | with_reducible apply State.shape_kept
    | with_reducible apply State.preempt_kept
    | with_reducible apply State.refStart_kept
    | with_reducible apply kept_foldl
    | with_reducible apply kept_foldl_fst
    | with_reducible apply kept_foldr
    | with_reducible apply kept_ite
    | with_reducible apply kept_ite_fst
    | with_reducible apply kept_ite_snd
    | with_reducible apply kept_ite_third
    | fail_if_no_progress (with_reducible refine Kept.update ?_ rfl rfl rfl rfl rfl)
    | split)

theorem execWindowStart_answers (t : Nat) (seg : Fin 288) (entry : Fin 65536) (s : State) : Answers (s.clock t) (execWindowStart t seg entry s) := by
  unfold execWindowStart
  repeat' (first
    | with_reducible exact Kept.refl _
    | intro _
    | with_reducible apply answers_next
    | with_reducible apply State.windowTick_kept
    | with_reducible apply State.windowOpens_kept
    | with_reducible apply State.clock_kept
    | with_reducible apply State.markWindow_kept
    | with_reducible apply answers_ite
    | with_reducible assumption
    | intro _
    | with_reducible apply kept_foldl
    | with_reducible apply kept_foldl_fst
    | with_reducible apply kept_foldr
    | with_reducible apply kept_ite
    | with_reducible apply kept_ite_fst
    | with_reducible apply kept_ite_snd
    | with_reducible apply kept_ite_third
    | fail_if_no_progress (with_reducible refine Kept.update ?_ rfl rfl rfl rfl rfl)
    | split
    | extract_lets)

theorem execWindowStop_answers (t : Nat) (seg : Fin 288) (entry : Fin 65536) (s : State) : Answers (s.clock t) (execWindowStop t seg entry s) := by
  unfold execWindowStop
  repeat' (first
    | with_reducible exact Kept.refl _
    | intro _
    | with_reducible apply answers_next
    | with_reducible apply State.windowTick_kept
    | with_reducible apply State.clock_kept
    | with_reducible apply State.markWindow_kept
    | with_reducible apply State.shape_kept
    | with_reducible apply State.refStop_kept
    | with_reducible apply answers_ite
    | with_reducible assumption
    | intro _
    | with_reducible apply kept_foldl
    | with_reducible apply kept_foldl_fst
    | with_reducible apply kept_foldr
    | with_reducible apply kept_ite
    | with_reducible apply kept_ite_fst
    | with_reducible apply kept_ite_snd
    | with_reducible apply kept_ite_third
    | fail_if_no_progress (with_reducible refine Kept.update ?_ rfl rfl rfl rfl rfl)
    | split
    | extract_lets)

end Sys2Proof.Machine
end

