-- ==== Sys2Proof/Laws/Captures.lean ====
section
/-! SUPPORT. What the captures of a read are to each party (R12, R78). -/

namespace Sys2Proof.Machine

open Sys2Proof

/-- Each party and address has a key of its own. -/
theorem partyKey_inj {p q : Party} {a b : Nat} (h : partyKey p a = partyKey q b) : p = q ∧ a = b := by
  unfold partyKey at h
  have hp : p.ix < 4 := by cases p <;> decide
  have hq : q.ix < 4 := by cases q <;> decide
  have : p.ix = q.ix := by omega
  refine ⟨?_, by omega⟩
  cases p <;> cases q <;> first | rfl | (simp [Party.ix] at this)

/-- A capture is what the next read of its word returns. -/
theorem captured_capture (s : State) (p : Party) (a : Nat) (v : BitVec 32) : (s.capture p a v).captured p a = some v :=
  Tab.get_set_listed (m := s.pairCap) (d := none) (partyKey p a) (v := some v) (by simp)

/-- A capture leaves the other captures alone. -/
theorem captured_capture_ne (s : State) (p q : Party) (a b : Nat) (v : BitVec 32) (h : Tab.rising none s.pairCap = true)
    (hn : p ≠ q ∨ a ≠ b) : (s.capture p a v).captured q b = s.captured q b :=
  Tab.get_set_ne (m := s.pairCap) none none (k := partyKey p a) (x := partyKey q b) (some v)
    (fun e => by have := partyKey_inj e; rcases hn with hn | hn <;> [exact hn this.1.symm; exact hn this.2.symm]) h

/-- A capture that was read is spent. -/
theorem captured_drop (s : State) (p : Party) (a : Nat) (h : Tab.rising none s.pairCap = true) :
    (s.dropCapture p a).captured p a = none := Tab.get_set_same (m := s.pairCap) none (partyKey p a) none h

/-- Spending a capture leaves the others alone. -/
theorem captured_drop_ne (s : State) (p q : Party) (a b : Nat) (h : Tab.rising none s.pairCap = true)
    (hn : p ≠ q ∨ a ≠ b) : (s.dropCapture p a).captured q b = s.captured q b :=
  Tab.get_set_ne (m := s.pairCap) none none (k := partyKey p a) (x := partyKey q b) none
    (fun e => by have := partyKey_inj e; rcases hn with hn | hn <;> [exact hn this.1.symm; exact hn this.2.symm]) h

theorem captured_cap {s t : State} (h : t.pairCap = s.pairCap) (p : Party) (a : Nat) : t.captured p a = s.captured p a := by
  unfold State.captured; rw [h]

/-- Drawing a value that the spec leaves open captures nothing. -/
theorem measure_cap (s : State) (r : RegDesc) (ix : List Nat) : (s.measure r ix).pairCap = s.pairCap := by
  unfold State.measure
  extract_lets
  split
  · rfl
  · split
    · unfold State.prbsCount; split <;> rfl
    · split
      · rfl
      · split
        · rfl
        · split <;> rfl

/-- Logging captures nothing. -/
theorem logEvent_cap (s : State) (c : Nat) (a b : BitVec 32) : (s.logEvent c a b).pairCap = s.pairCap := by
  have h1 : ∀ (s : State) (a b c : Nat), (s.trace a b c).pairCap = s.pairCap := by
    intro s a b c
    unfold State.trace
    extract_lets
    split
    · rfl
    · split <;> rfl
  have h2 : ∀ (s : State) (e : LogEntry), (s.keepUnstored e).pairCap = s.pairCap := by
    intro s e
    unfold State.keepUnstored
    split
    · rfl
    · split
      · split <;> rfl
      · rfl
  unfold State.logEvent
  extract_lets sev s1 s2 src vol e s3
  have q2 : s2.pairCap = s.pairCap := by
    show (if sev ≥ 2 then s1.emit _ else s1).pairCap = _
    split
    · exact h1 s 4 c _
    · exact h1 s 4 c _
  split
  · exact q2
  · split
    · split
      · exact q2
      · exact q2
    · exact (h2 s3 e).trans q2

/-- What a clearing read changes captures nothing. -/
theorem readClears_cap (s : State) (p : Party) (r : RegDesc) (ix : List Nat) : (s.readClears p r ix).pairCap = s.pairCap := by
  unfold State.readClears
  extract_lets
  split
  · rfl
  · split
    · rfl
    · rfl

/-- The captures stay in order. -/
theorem readCaptures_rising (s : State) (p : Party) (r : RegDesc) (ix : List Nat) (a : Nat) (h : s.Stored) :
    Tab.rising none (s.readCaptures p r ix a).pairCap = true :=
  ((State.readCaptures_kept (z := s) s p r ix a (Kept.refl _)).2.2.2 h).2.1

/-- What a read captures for one party leaves the captures of the others alone (R12, R78). -/
theorem readCaptures_other (s : State) (p q : Party) (r : RegDesc) (ix : List Nat) (a b : Nat) (h : Tab.rising none s.pairCap = true)
    (hq : q ≠ p) : (s.readCaptures p r ix a).captured q b = s.captured q b := by
  have step : ∀ (s : State) (a : Nat) (v : BitVec 32), Tab.rising none s.pairCap = true →
      (s.capture p a v).captured q b = s.captured q b ∧ Tab.rising none (s.capture p a v).pairCap = true := fun s a v hs =>
    ⟨captured_capture_ne s p q a b v hs (Or.inl (Ne.symm hq)), Tab.rising_set none (partyKey p a) (some v) hs⟩
  unfold State.readCaptures
  split
  · unfold State.captureNow
    extract_lets
    have h1 := step s Reg.TU_NOW_LO.base (wordAt (s.readingAt s.raw) 1) h
    have h2 := step _ Reg.TU_NOW_HI.base (wordAt (s.readingAt s.raw) 2) h1.2
    have h3 := step _ Reg.TU_RAW_LO.base (wordAt s.raw 0) h2.2
    have h4 := step _ Reg.TU_RAW_HI.base (wordAt s.raw 1) h3.2
    exact h4.1.trans (h3.1.trans (h2.1.trans h1.1))
  · split
    · unfold State.captureOfs
      extract_lets o
      have h1 := step s Reg.TU_OFS_LO.base (wordAt o 1) h
      have h2 := step _ Reg.TU_OFS_HI.base (wordAt o 2) h1.2
      exact h2.1.trans h1.1
    · split
      · exact (step s _ _ h).1
      · split
        · rfl
        · split
          · rfl
          · split
            · exact (step s _ _ h).1
            · rfl

/-- Registers at different bases differ. -/
theorem is_eq_false {r q : RegDesc} (h : r.base ≠ q.base) : r.is q = false := by
  unfold RegDesc.is; simp [h]

end Sys2Proof.Machine
end

