-- ==== Sys2Proof/Laws/Raise.lean ====
section
/-! SUPPORT. What logging and raising an event do to the register store (R375, R376, R418). -/

namespace Sys2Proof.Machine

open Sys2Proof

theorem emit_regs (s : State) (o : Output) : (s.emit o).regs = s.regs := rfl

theorem trace_regs (s : State) (a b c : Nat) : (s.trace a b c).regs = s.regs := by
  unfold State.trace
  extract_lets
  split
  · rfl
  · split <;> rfl

/-- An entry that is kept changes no register but EVT_LOST. -/
theorem keepUnstored_regs (s : State) (e : LogEntry) :
    (s.keepUnstored e).regs = s.regs ∨ ∃ v, (s.keepUnstored e).regs = (s.wr Reg.EVT_LOST [] v).regs := by
  unfold State.keepUnstored
  split
  · exact Or.inl rfl
  · split
    · split <;> exact Or.inr ⟨_, rfl⟩
    · exact Or.inr ⟨_, rfl⟩

/-- Logging an event changes no register but EVT_LOST. -/
theorem logEvent_regs (s : State) (c : Nat) (a b : BitVec 32) :
    (s.logEvent c a b).regs = s.regs ∨ ∃ v, (s.logEvent c a b).regs = (s.wr Reg.EVT_LOST [] v).regs := by
  unfold State.logEvent
  extract_lets sev s1 s2 src vol e s3
  have h2 : s2.regs = s.regs := by
    show (if sev ≥ 2 then s1.emit _ else s1).regs = _
    split
    · exact trace_regs s 4 c _
    · exact trace_regs s 4 c _
  split
  · exact Or.inl h2
  · split
    · split
      · exact Or.inl h2
      · exact Or.inl h2
    · have h3 : s3.regs = s.regs := h2
      rcases keepUnstored_regs s3 e with h | ⟨v, h⟩
      · left; rw [h, h3]
      · right; refine ⟨v, ?_⟩
        rw [h]
        simp only [State.wr, h3]

theorem sumFire_regs (o n : State) (b : Nat) : (State.sumFire o n b).regs = n.regs := by
  unfold State.sumFire; split <;> rfl

/-- Raising an event changes no register but its own and EVT_LOST. -/
theorem raise_rd_ne (s : State) (x : Fld) (ix : List Nat) (a0 a1 k : Nat) (r : RegDesc) (jx : List Nat)
    (hs : Tab.rising none s.regs = true) (h1 : r.addr jx ≠ x.reg.addr ix) (h2 : r.addr jx ≠ Reg.EVT_LOST.addr []) :
    (s.raise x ix a0 a1 k).rd r jx = s.rd r jx := by
  unfold State.raise
  extract_lets arg0
  have hf : (s.setFlag x ix k).regs = (s.wr x.reg ix (BitVec.ofNat 32 (setBits (s.rd x.reg ix).toNat x.hi x.lo (setBits (s.f x ix) k k 1)))).regs := by
    unfold State.setFlag; rw [sumFire_regs]; rfl
  have hr : Tab.rising none (s.setFlag x ix k).regs = true := by rw [hf]; exact Tab.rising_set _ _ _ hs
  have base : (s.setFlag x ix k).rd r jx = s.rd r jx := by
    unfold State.rd; rw [hf]; exact Tab.get_set_ne r.reset x.reg.reset _ h1 hs
  rcases logEvent_regs (s.setFlag x ix k) (x.reg.block * 256 + x.lo + k + 1) (BitVec.ofNat 32 arg0) (BitVec.ofNat 32 a1) with h | ⟨v, h⟩
  · unfold State.rd at *; rw [h]; exact base
  · have : Tab.get r.reset (Tab.set Reg.EVT_LOST.reset (s.setFlag x ix k).regs (Reg.EVT_LOST.addr []) v) (r.addr jx) = s.rd r jx := by
      rw [Tab.get_set_ne _ _ _ h2 hr]; exact base
    unfold State.rd at *; rw [h]; exact this

/-- The event register after an event was raised. -/
theorem raise_rd_eq (s : State) (x : Fld) (ix : List Nat) (a0 a1 k : Nat)
    (hs : Tab.rising none s.regs = true) (h2 : x.reg.addr ix ≠ Reg.EVT_LOST.addr []) :
    (s.raise x ix a0 a1 k).rd x.reg ix = BitVec.ofNat 32 (setBits (s.rd x.reg ix).toNat x.hi x.lo (setBits (s.f x ix) k k 1)) := by
  unfold State.raise
  extract_lets arg0
  have hf : (s.setFlag x ix k).regs = (s.wr x.reg ix (BitVec.ofNat 32 (setBits (s.rd x.reg ix).toNat x.hi x.lo (setBits (s.f x ix) k k 1)))).regs := by
    unfold State.setFlag; rw [sumFire_regs]; rfl
  have hr : Tab.rising none (s.setFlag x ix k).regs = true := by rw [hf]; exact Tab.rising_set _ _ _ hs
  have base : (s.setFlag x ix k).rd x.reg ix = BitVec.ofNat 32 (setBits (s.rd x.reg ix).toNat x.hi x.lo (setBits (s.f x ix) k k 1)) := by
    unfold State.rd; rw [hf]; exact Tab.get_set_same _ _ _ hs
  rcases logEvent_regs (s.setFlag x ix k) (x.reg.block * 256 + x.lo + k + 1) (BitVec.ofNat 32 arg0) (BitVec.ofNat 32 a1) with h | ⟨v, h⟩
  · unfold State.rd at *; rw [h]; exact base
  · have : Tab.get x.reg.reset (Tab.set Reg.EVT_LOST.reset (s.setFlag x ix k).regs (Reg.EVT_LOST.addr []) v) (x.reg.addr ix) = BitVec.ofNat 32 (setBits (s.rd x.reg ix).toNat x.hi x.lo (setBits (s.f x ix) k k 1)) := by
      rw [Tab.get_set_ne _ _ _ h2 hr]; exact base
    unfold State.rd at *; rw [h]; exact this

/-- A bit that was set reads 1 in a 32-bit word. -/
theorem bits_one (n k : Nat) : bits (BitVec.ofNat 32 (setBits n k k 1)).toNat k k = 1 ∨ 32 ≤ k := by
  by_cases hk : 32 ≤ k
  · exact Or.inr hk
  · left
    have hp : 2 ^ 32 = 2 ^ k * 2 ^ (32 - k) := by rw [← Nat.pow_add]; congr 1; omega
    have h2 : 2 ^ (32 - k) = 2 * 2 ^ (31 - k) := by rw [← Nat.pow_succ']; congr 1; omega
    have e1 : k + 1 - k = 1 := by omega
    simp only [bits, setBits, BitVec.toNat_ofNat, e1, Nat.pow_one]
    generalize hX : n - n / 2 ^ k % 2 * 2 ^ k + 1 % 2 * 2 ^ k = X
    have hX2 : X / 2 ^ k % 2 = 1 := by
      have hpos : 0 < 2 ^ k := Nat.two_pow_pos k
      have hn := Nat.div_add_mod n (2 ^ k)
      generalize hq : n / 2 ^ k = q at *
      generalize hr : n % 2 ^ k = r at *
      have hrl : r < 2 ^ k := hr ▸ Nat.mod_lt _ hpos
      have : X = 2 ^ k * (q - q % 2 + 1) + r := by
        rw [← hX, ← hn, Nat.mul_add, Nat.mul_sub]
        have : q % 2 * 2 ^ k ≤ 2 ^ k * q := by rw [Nat.mul_comm]; exact Nat.mul_le_mul_left _ (Nat.mod_le _ _)
        rw [Nat.mul_comm (q % 2)] at *
        omega
      rw [this, Nat.mul_add_div hpos, Nat.div_eq_of_lt hrl]
      omega
    rw [hp, Nat.mod_mul_right_div_self]
    rw [h2, Nat.mod_mul_right_mod]; exact hX2

/-- A flag of one bit is set once it was raised. -/
theorem raise_fb (s : State) (x : Fld) (hs : Tab.rising none s.regs = true) (h2 : x.reg.addr [] ≠ Reg.EVT_LOST.addr [])
    (hx : x.hi = x.lo) (hl : x.lo < 32) : (s.raise x).fb x = true := by
  unfold State.fb State.f
  rw [raise_rd_eq s x [] 0 0 0 hs h2, hx]
  have : setBits (s.f x) 0 0 1 % 2 ^ (x.lo + 1 - x.lo) = 1 := by
    rw [show x.lo + 1 - x.lo = 1 by omega]
    simp only [setBits, bits]; omega
  have e : setBits (s.rd x.reg []).toNat x.lo x.lo (setBits (s.f x) 0 0 1) = setBits (s.rd x.reg []).toNat x.lo x.lo 1 := by
    simp only [setBits] at this ⊢
    rw [this]
    rw [show x.lo + 1 - x.lo = 1 by omega]
    rfl
  rw [e]
  rcases bits_one (s.rd x.reg []).toNat x.lo with h | h
  · rw [h]; rfl
  · omega

/-- Raising an event does not touch the time unit. -/
theorem raise_tu (s : State) (x : Fld) (ix : List Nat) (a b k : Nat) : (s.raise x ix a b k).tu = s.tu := by
  have h1 : ∀ (s : State) (a b c : Nat), (s.trace a b c).tu = s.tu := by
    intro s a b c
    unfold State.trace
    extract_lets
    split
    · rfl
    · split <;> rfl
  have h2 : ∀ (s : State) (e : LogEntry), (s.keepUnstored e).tu = s.tu := by
    intro s e
    unfold State.keepUnstored
    split
    · rfl
    · split
      · split <;> rfl
      · rfl
  have h3 : ∀ (s : State) (c : Nat) (a b : BitVec 32), (s.logEvent c a b).tu = s.tu := by
    intro s c a b
    unfold State.logEvent
    extract_lets sev s1 s2 src vol e s3
    have q2 : s2.tu = s.tu := by
      show (if sev ≥ 2 then s1.emit _ else s1).tu = _
      split
      · exact h1 s 4 c _
      · exact h1 s 4 c _
    split
    · exact q2
    · split
      · split
        · exact q2
        · exact q2
      · exact (h2 s3 e).trans q2
  unfold State.raise
  rw [h3]
  unfold State.setFlag State.sumFire
  split <;> rfl

end Sys2Proof.Machine
end

