-- ==== Sys2Proof/Laws/RegMap.lean ====
section
/-! SUPPORT. The register map: addresses and indices, the bits that a field covers, and that the fields of a register do not
overlap (R10, R13, R419). -/

namespace Sys2Proof.Machine

open Sys2Proof

/-! Addresses -/

theorem regIndices_addr (ds : List (Nat × Nat)) : ∀ (b d : Nat) (ix : List Nat), regIndices ds d = some ix →
    regAddr b ds ix = b + d := by
  induction ds with
  | nil =>
    intro b d ix h
    simp only [regIndices] at h
    split at h
    · next hd => cases h; subst hd; rfl
    · cases h
  | cons e ds ih =>
    intro b d ix h
    obtain ⟨n, st⟩ := e
    simp only [regIndices] at h
    split at h
    · cases hr : regIndices ds (d % st) with
      | none => rw [hr] at h; cases h
      | some is =>
        rw [hr] at h; cases h
        simp only [regAddr, ih _ _ _ hr]
        have := Nat.div_add_mod d st
        rw [Nat.mul_comm] at this
        omega
    · cases h

/-- How far the last instance of a family lies from its base. -/
def reach : List (Nat × Nat) → Nat
  | [] => 0
  | (n, st) :: ds => (n - 1) * st + reach ds

theorem regIndices_reach (ds : List (Nat × Nat)) : ∀ (d : Nat) (ix : List Nat), regIndices ds d = some ix → d ≤ reach ds := by
  induction ds with
  | nil =>
    intro d ix h
    simp only [regIndices] at h
    split at h
    · next hd => rw [hd]; exact Nat.le_refl _
    · cases h
  | cons e ds ih =>
    intro d ix h
    obtain ⟨n, st⟩ := e
    simp only [regIndices] at h
    split at h
    · next hn =>
      cases hr : regIndices ds (d % st) with
      | none => rw [hr] at h; cases h
      | some is =>
        have h1 := ih _ _ hr
        have h2 := Nat.div_add_mod d st
        have h3 : st * (d / st) ≤ (n - 1) * st := by
          rw [Nat.mul_comm]; exact Nat.mul_le_mul_right _ (by omega)
        simp only [reach]
        omega
    · cases h

/-- The indices of an address lead back to it. -/
theorem RegDesc.addr_of_indices {r : RegDesc} {a : Nat} {ix : List Nat} (h : r.indices a = some ix) : r.addr ix = a := by
  unfold RegDesc.indices at h
  split at h
  · have := regIndices_addr r.dims r.base (a - r.base) ix h
    unfold RegDesc.addr
    omega
  · cases h

theorem findReg_some {rs : List RegDesc} {a : Nat} {r : RegDesc} {ix : List Nat} (h : findReg rs a = some (r, ix)) :
    r ∈ rs ∧ r.indices a = some ix := by
  induction rs with
  | nil => cases h
  | cons q rs ih =>
    unfold findReg at h
    split at h
    · next is hq => cases h; exact ⟨List.mem_cons_self, hq⟩
    · exact ⟨List.mem_cons_of_mem _ (ih h).1, (ih h).2⟩

theorem findReg_none {rs : List RegDesc} {a : Nat} (h : ∀ r ∈ rs, r.indices a = none) : findReg rs a = none := by
  induction rs with
  | nil => rfl
  | cons q rs ih =>
    unfold findReg
    rw [h q List.mem_cons_self]
    exact ih (fun r hr => h r (List.mem_cons_of_mem _ hr))

theorem regAt_mem {a : Nat} {r : RegDesc} {ix : List Nat} (h : regAt a = some (r, ix)) : r ∈ regTable := (findReg_some h).1

/-- The register at an address has an instance there. -/
theorem regAt_addr {a : Nat} {r : RegDesc} {ix : List Nat} (h : regAt a = some (r, ix)) : r.addr ix = a :=
  RegDesc.addr_of_indices (findReg_some h).2

/-- An address of a register family lies between its first and its last instance. -/
theorem RegDesc.in_reach {r : RegDesc} {a : Nat} {ix : List Nat} (h : r.indices a = some ix) :
    r.base ≤ a ∧ a ≤ r.base + reach r.dims := by
  unfold RegDesc.indices at h
  split at h
  · next hb =>
    have := regIndices_reach _ _ _ h
    omega
  · cases h

/-! Bits of fields -/

/-- Bit k of a number whose bits hi to lo were replaced. -/
theorem setBits_testBit {n hi lo v k : Nat} (h : lo ≤ hi) : (setBits n hi lo v).testBit k =
    if lo ≤ k ∧ k ≤ hi then v.testBit (k - lo) else n.testBit k := by
  have e : setBits n hi lo v = 2 ^ lo * (2 ^ (hi + 1 - lo) * (n / 2 ^ (hi + 1)) + v % 2 ^ (hi + 1 - lo)) + n % 2 ^ lo := by
    unfold setBits bits
    have h1 := Nat.div_add_mod n (2 ^ lo)
    have h2 := Nat.div_add_mod (n / 2 ^ lo) (2 ^ (hi + 1 - lo))
    have h3 : n / 2 ^ lo / 2 ^ (hi + 1 - lo) = n / 2 ^ (hi + 1) := by
      rw [Nat.div_div_eq_div_mul, ← Nat.pow_add]; congr 2; omega
    rw [h3] at h2
    generalize n / 2 ^ (hi + 1) = q at *
    generalize n / 2 ^ lo = m at *
    generalize n % 2 ^ lo = r at *
    generalize v % 2 ^ (hi + 1 - lo) = w
    generalize m % 2 ^ (hi + 1 - lo) = x at *
    generalize 2 ^ (hi + 1 - lo) = W at *
    generalize 2 ^ lo = L at *
    rw [← h1, ← h2, Nat.mul_add, Nat.mul_add, Nat.mul_comm x L, Nat.mul_comm w L]
    omega
  have hr : n % 2 ^ lo < 2 ^ lo := Nat.mod_lt _ (Nat.two_pow_pos _)
  have hv : v % 2 ^ (hi + 1 - lo) < 2 ^ (hi + 1 - lo) := Nat.mod_lt _ (Nat.two_pow_pos _)
  rw [e, Nat.testBit_two_pow_mul_add _ hr, Nat.testBit_two_pow_mul_add _ hv]
  by_cases h1 : k < lo
  · rw [if_pos h1, if_neg (by omega), Nat.testBit_mod_two_pow]
    simp [h1]
  · rw [if_neg h1]
    by_cases h2 : k ≤ hi
    · rw [if_pos (by omega), if_pos (by omega), Nat.testBit_mod_two_pow]
      simp [show k - lo < hi + 1 - lo by omega]
    · rw [if_neg (by omega), if_neg (by omega), Nat.testBit_div_two_pow]
      congr 1; omega

/-- Bit k of a number whose bits in the fields of some access types were set. -/
theorem foldl_setBits_testBit (p : FieldRow → Prop) [DecidablePred p] (fs : List FieldRow) (h : ∀ f ∈ fs, f.lo ≤ f.hi)
    (m k : Nat) :
    (fs.foldl (fun m f => if p f then setBits m f.hi f.lo (2 ^ (f.hi + 1 - f.lo) - 1) else m) m).testBit k =
      (m.testBit k || fs.any (fun f => decide (p f) && decide (f.lo ≤ k ∧ k ≤ f.hi))) := by
  induction fs generalizing m with
  | nil => simp
  | cons f fs ih =>
    simp only [List.foldl_cons, List.any_cons]
    rw [ih (fun g hg => h g (List.mem_cons_of_mem _ hg))]
    by_cases hp : p f
    · rw [if_pos hp, setBits_testBit (h f List.mem_cons_self), Nat.testBit_two_pow_sub_one]
      by_cases hk : f.lo ≤ k ∧ k ≤ f.hi
      · simp [hp, hk, show k - f.lo < f.hi + 1 - f.lo by omega]
      · simp [hp, hk]
    · simp [hp]

/-- Bit k of a number whose bits in the fields of some access types were cleared. -/
theorem foldl_clearBits_testBit (p : FieldRow → Prop) [DecidablePred p] (fs : List FieldRow) (h : ∀ f ∈ fs, f.lo ≤ f.hi)
    (m k : Nat) :
    (fs.foldl (fun m f => if p f then setBits m f.hi f.lo 0 else m) m).testBit k =
      (m.testBit k && !fs.any (fun f => decide (p f) && decide (f.lo ≤ k ∧ k ≤ f.hi))) := by
  induction fs generalizing m with
  | nil => simp
  | cons f fs ih =>
    simp only [List.foldl_cons, List.any_cons]
    rw [ih (fun g hg => h g (List.mem_cons_of_mem _ hg))]
    by_cases hp : p f
    · rw [if_pos hp, setBits_testBit (h f List.mem_cons_self)]
      by_cases hk : f.lo ≤ k ∧ k ≤ f.hi
      · simp [hp, hk]
      · simp [hp, hk]
    · simp [hp]

/-- Fields lie within 32 bits and do not overlap. -/
def fieldsOk : List FieldRow → Bool
  | [] => true
  | f :: fs => decide (f.lo ≤ f.hi) && decide (f.hi < 32) && fs.all (fun g => decide (g.hi < f.lo ∨ f.hi < g.lo)) && fieldsOk fs

theorem fieldsOk_bounds {fs : List FieldRow} (h : fieldsOk fs = true) : ∀ f ∈ fs, f.lo ≤ f.hi ∧ f.hi < 32 := by
  induction fs with
  | nil => intro f hf; cases hf
  | cons g fs ih =>
    simp only [fieldsOk, Bool.and_eq_true, decide_eq_true_eq] at h
    intro f hf
    rcases List.mem_cons.mp hf with rfl | hf
    · exact h.1.1
    · exact ih h.2 f hf

theorem fieldsOk_apart {fs : List FieldRow} (h : fieldsOk fs = true) {f g : FieldRow} (hf : f ∈ fs) (hg : g ∈ fs) {k : Nat}
    (h1 : f.lo ≤ k ∧ k ≤ f.hi) (h2 : g.lo ≤ k ∧ k ≤ g.hi) : f = g := by
  induction fs with
  | nil => cases hf
  | cons x fs ih =>
    simp only [fieldsOk, Bool.and_eq_true, decide_eq_true_eq, List.all_eq_true] at h
    rcases List.mem_cons.mp hf with rfl | hf <;> rcases List.mem_cons.mp hg with rfl | hg
    · rfl
    · have := h.1.2 g hg; omega
    · have := h.1.2 f (by assumption); omega
    · exact ih h.2 hf hg

/-- No register has overlapping fields. -/
def RegDesc.ok (r : RegDesc) : Bool := fieldsOk r.fields

theorem regTable0_ok : regTable0.all RegDesc.ok = true := by decide

theorem regTable1_ok : regTable1.all RegDesc.ok = true := by decide

theorem regTable2_ok : regTable2.all RegDesc.ok = true := by decide

theorem regTable3_ok : regTable3.all RegDesc.ok = true := by decide

theorem regTable4_ok : regTable4.all RegDesc.ok = true := by decide

theorem regTable5_ok : regTable5.all RegDesc.ok = true := by decide

theorem regTable6_ok : regTable6.all RegDesc.ok = true := by decide

theorem regTable7_ok : regTable7.all RegDesc.ok = true := by decide

theorem regTable8_ok : regTable8.all RegDesc.ok = true := by decide

theorem regTable9_ok : regTable9.all RegDesc.ok = true := by decide

theorem regTable_ok {r : RegDesc} (h : r ∈ regTable) : r.ok = true := by
  simp only [regTable, List.mem_append] at h
  rcases h with ((((((((h | h) | h) | h) | h) | h) | h) | h) | h) | h
  · exact List.all_eq_true.mp regTable0_ok r h
  · exact List.all_eq_true.mp regTable1_ok r h
  · exact List.all_eq_true.mp regTable2_ok r h
  · exact List.all_eq_true.mp regTable3_ok r h
  · exact List.all_eq_true.mp regTable4_ok r h
  · exact List.all_eq_true.mp regTable5_ok r h
  · exact List.all_eq_true.mp regTable6_ok r h
  · exact List.all_eq_true.mp regTable7_ok r h
  · exact List.all_eq_true.mp regTable8_ok r h
  · exact List.all_eq_true.mp regTable9_ok r h

theorem regTable_fields {r : RegDesc} (h : r ∈ regTable) : fieldsOk r.fields = true := regTable_ok h

/-- Of the fields that a bit lies in there is one. -/
theorem any_field {fs : List FieldRow} (ok : fieldsOk fs = true) {f : FieldRow} (hf : f ∈ fs) {k : Nat} (hk : f.lo ≤ k ∧ k ≤ f.hi)
    (p : FieldRow → Prop) [DecidablePred p] :
    fs.any (fun g => decide (p g) && decide (g.lo ≤ k ∧ k ≤ g.hi)) = decide (p f) := by
  by_cases hp : p f
  · simp only [hp, decide_true, List.any_eq_true, Bool.and_eq_true, decide_eq_true_eq]
    exact ⟨f, hf, hp, hk⟩
  · simp only [hp, decide_false]
    rw [List.any_eq_false]
    intro g hg
    simp only [Bool.and_eq_true, decide_eq_true_eq, not_and]
    intro hpg k1 k2
    exact hp (fieldsOk_apart ok hf hg hk ⟨k1, k2⟩ ▸ hpg)

/-- A reserved bit lies in no field. -/
theorem any_none {fs : List FieldRow} {k : Nat} (h : ∀ f ∈ fs, k < f.lo ∨ f.hi < k) (p : FieldRow → Prop) [DecidablePred p] :
    fs.any (fun g => decide (p g) && decide (g.lo ≤ k ∧ k ≤ g.hi)) = false := by
  rw [List.any_eq_false]
  intro g hg
  simp only [Bool.and_eq_true, decide_eq_true_eq, not_and]
  intro _
  have := h g hg
  omega

theorem readMask_eq (r : RegDesc) : readMask r = r.fields.foldl (fun m f => if f.acc ≠ .wo then setBits m f.hi f.lo (2 ^ (f.hi + 1 - f.lo) - 1) else m) 0 := by
  unfold readMask
  congr 1
  funext m f
  by_cases h : f.acc = .wo <;> simp [h]

/-- Bit k of the word that a write leaves. -/
theorem writtenWord_bit (r : RegDesc) (sl : Bool) (old v : BitVec 32) (k : Nat) (hk : k < 32) (h : ∀ f ∈ r.fields, f.lo ≤ f.hi) :
    (writtenWord r sl old v).getLsbD k =
      (((old.getLsbD k && !r.fields.any (fun f => decide (f.acc = .rw ∨ f.acc = .rws ∨ (f.acc = .rwl ∧ (!sl) = true)) && decide (f.lo ≤ k ∧ k ≤ f.hi))) ||
        (v.getLsbD k && r.fields.any (fun f => decide (f.acc = .rw ∨ f.acc = .rws ∨ (f.acc = .rwl ∧ (!sl) = true)) && decide (f.lo ≤ k ∧ k ≤ f.hi)))) &&
      !(v.getLsbD k && r.fields.any (fun f => decide (f.acc = .w1c) && decide (f.lo ≤ k ∧ k ≤ f.hi)))) := by
  unfold writtenWord storedBits w1cMask
  simp only [BitVec.getLsbD_and, BitVec.getLsbD_or, BitVec.getLsbD_not, BitVec.getLsbD_ofNat, hk, decide_true, Bool.true_and]
  rw [foldl_setBits_testBit _ _ h, foldl_setBits_testBit _ _ h]
  simp

/-- Bit k of the word that a clearing read leaves. -/
theorem clearRc_bit (r : RegDesc) (w : BitVec 32) (k : Nat) (hk : k < 32) (h : ∀ f ∈ r.fields, f.lo ≤ f.hi) :
    (clearRc r w).getLsbD k = (w.getLsbD k && !r.fields.any (fun f => decide (f.acc = .rc) && decide (f.lo ≤ k ∧ k ≤ f.hi))) := by
  unfold clearRc
  simp only [BitVec.getLsbD_ofNat, hk, decide_true, Bool.true_and]
  rw [foldl_clearBits_testBit _ _ h]
  rfl

end Sys2Proof.Machine
end

