-- ==== Sys2Proof/Laws/State.lean ====
section
/-! SUPPORT. What each update of the state leaves as it was: one lemma per field per update. A lemma about an update of
one field is proved for any new value of it, so that no check compares that value with the old one. -/

namespace Sys2Proof.Machine

open Sys2Proof

theorem with_regs_pending (s : State) (x : Tab (BitVec 32)) : ({ s with regs := x } : State).pending = s.pending := rfl
theorem with_regs_raw (s : State) (x : Tab (BitVec 32)) : ({ s with regs := x } : State).raw = s.raw := rfl
theorem with_regs_wall (s : State) (x : Tab (BitVec 32)) : ({ s with regs := x } : State).wall = s.wall := rfl
theorem with_regs_pairCap (s : State) (x : Tab (BitVec 32)) : ({ s with regs := x } : State).pairCap = s.pairCap := rfl
theorem with_regs_pairLow (s : State) (x : Tab (BitVec 32)) : ({ s with regs := x } : State).pairLow = s.pairLow := rfl
theorem with_regs_out (s : State) (x : Tab (BitVec 32)) : ({ s with regs := x } : State).out = s.out := rfl
theorem with_regs_errN (s : State) (x : Tab (BitVec 32)) : ({ s with regs := x } : State).errN = s.errN := rfl
theorem with_regs_ready (s : State) (x : Tab (BitVec 32)) : ({ s with regs := x } : State).ready = s.ready := rfl
theorem with_regs_boots (s : State) (x : Tab (BitVec 32)) : ({ s with regs := x } : State).boots = s.boots := rfl
theorem with_regs_gasp (s : State) (x : Tab (BitVec 32)) : ({ s with regs := x } : State).gasp = s.gasp := rfl
theorem with_regs_free (s : State) (x : Tab (BitVec 32)) : ({ s with regs := x } : State).free = s.free := rfl
theorem with_regs_act (s : State) (x : Tab (BitVec 32)) : ({ s with regs := x } : State).act = s.act := rfl
theorem with_regs_shd (s : State) (x : Tab (BitVec 32)) : ({ s with regs := x } : State).shd = s.shd := rfl
theorem with_regs_evt (s : State) (x : Tab (BitVec 32)) : ({ s with regs := x } : State).evt = s.evt := rfl
theorem with_regs_trc (s : State) (x : Tab (BitVec 32)) : ({ s with regs := x } : State).trc = s.trc := rfl
theorem with_regs_tu (s : State) (x : Tab (BitVec 32)) : ({ s with regs := x } : State).tu = s.tu := rfl
theorem with_regs_tke (s : State) (x : Tab (BitVec 32)) : ({ s with regs := x } : State).tke = s.tke := rfl
theorem with_regs_gng (s : State) (x : Tab (BitVec 32)) : ({ s with regs := x } : State).gng = s.gng := rfl
theorem with_regs_ldr (s : State) (x : Tab (BitVec 32)) : ({ s with regs := x } : State).ldr = s.ldr := rfl
theorem with_regs_fp (s : State) (x : Tab (BitVec 32)) : ({ s with regs := x } : State).fp = s.fp := rfl
theorem with_regs_cst (s : State) (x : Tab (BitVec 32)) : ({ s with regs := x } : State).cst = s.cst := rfl
theorem with_regs_prt (s : State) (x : Tab (BitVec 32)) : ({ s with regs := x } : State).prt = s.prt := rfl
theorem with_regs_asd (s : State) (x : Tab (BitVec 32)) : ({ s with regs := x } : State).asd = s.asd := rfl
theorem with_regs_sen (s : State) (x : Tab (BitVec 32)) : ({ s with regs := x } : State).sen = s.sen := rfl
theorem with_regs_brg (s : State) (x : Tab (BitVec 32)) : ({ s with regs := x } : State).brg = s.brg := rfl
theorem with_regs_fbs (s : State) (x : Tab (BitVec 32)) : ({ s with regs := x } : State).fbs = s.fbs := rfl
theorem with_regs_fio (s : State) (x : Tab (BitVec 32)) : ({ s with regs := x } : State).fio = s.fio := rfl
theorem with_regs_cel (s : State) (x : Tab (BitVec 32)) : ({ s with regs := x } : State).cel = s.cel := rfl
theorem with_regs_cfg (s : State) (x : Tab (BitVec 32)) : ({ s with regs := x } : State).cfg = s.cfg := rfl
theorem with_regs_hst (s : State) (x : Tab (BitVec 32)) : ({ s with regs := x } : State).hst = s.hst := rfl
theorem with_regs_por (s : State) (x : Tab (BitVec 32)) : ({ s with regs := x } : State).por = s.por := rfl

theorem with_out_pending (s : State) (x : List Output) : ({ s with out := x } : State).pending = s.pending := rfl
theorem with_out_raw (s : State) (x : List Output) : ({ s with out := x } : State).raw = s.raw := rfl
theorem with_out_wall (s : State) (x : List Output) : ({ s with out := x } : State).wall = s.wall := rfl
theorem with_out_regs (s : State) (x : List Output) : ({ s with out := x } : State).regs = s.regs := rfl
theorem with_out_pairCap (s : State) (x : List Output) : ({ s with out := x } : State).pairCap = s.pairCap := rfl
theorem with_out_pairLow (s : State) (x : List Output) : ({ s with out := x } : State).pairLow = s.pairLow := rfl
theorem with_out_errN (s : State) (x : List Output) : ({ s with out := x } : State).errN = s.errN := rfl
theorem with_out_ready (s : State) (x : List Output) : ({ s with out := x } : State).ready = s.ready := rfl
theorem with_out_boots (s : State) (x : List Output) : ({ s with out := x } : State).boots = s.boots := rfl
theorem with_out_gasp (s : State) (x : List Output) : ({ s with out := x } : State).gasp = s.gasp := rfl
theorem with_out_free (s : State) (x : List Output) : ({ s with out := x } : State).free = s.free := rfl
theorem with_out_act (s : State) (x : List Output) : ({ s with out := x } : State).act = s.act := rfl
theorem with_out_shd (s : State) (x : List Output) : ({ s with out := x } : State).shd = s.shd := rfl
theorem with_out_evt (s : State) (x : List Output) : ({ s with out := x } : State).evt = s.evt := rfl
theorem with_out_trc (s : State) (x : List Output) : ({ s with out := x } : State).trc = s.trc := rfl
theorem with_out_tu (s : State) (x : List Output) : ({ s with out := x } : State).tu = s.tu := rfl
theorem with_out_tke (s : State) (x : List Output) : ({ s with out := x } : State).tke = s.tke := rfl
theorem with_out_gng (s : State) (x : List Output) : ({ s with out := x } : State).gng = s.gng := rfl
theorem with_out_ldr (s : State) (x : List Output) : ({ s with out := x } : State).ldr = s.ldr := rfl
theorem with_out_fp (s : State) (x : List Output) : ({ s with out := x } : State).fp = s.fp := rfl
theorem with_out_cst (s : State) (x : List Output) : ({ s with out := x } : State).cst = s.cst := rfl
theorem with_out_prt (s : State) (x : List Output) : ({ s with out := x } : State).prt = s.prt := rfl
theorem with_out_asd (s : State) (x : List Output) : ({ s with out := x } : State).asd = s.asd := rfl
theorem with_out_sen (s : State) (x : List Output) : ({ s with out := x } : State).sen = s.sen := rfl
theorem with_out_brg (s : State) (x : List Output) : ({ s with out := x } : State).brg = s.brg := rfl
theorem with_out_fbs (s : State) (x : List Output) : ({ s with out := x } : State).fbs = s.fbs := rfl
theorem with_out_fio (s : State) (x : List Output) : ({ s with out := x } : State).fio = s.fio := rfl
theorem with_out_cel (s : State) (x : List Output) : ({ s with out := x } : State).cel = s.cel := rfl
theorem with_out_cfg (s : State) (x : List Output) : ({ s with out := x } : State).cfg = s.cfg := rfl
theorem with_out_hst (s : State) (x : List Output) : ({ s with out := x } : State).hst = s.hst := rfl
theorem with_out_por (s : State) (x : List Output) : ({ s with out := x } : State).por = s.por := rfl

theorem with_por_pending (s : State) (x : Por) : ({ s with por := x } : State).pending = s.pending := rfl
theorem with_por_raw (s : State) (x : Por) : ({ s with por := x } : State).raw = s.raw := rfl
theorem with_por_wall (s : State) (x : Por) : ({ s with por := x } : State).wall = s.wall := rfl
theorem with_por_regs (s : State) (x : Por) : ({ s with por := x } : State).regs = s.regs := rfl
theorem with_por_pairCap (s : State) (x : Por) : ({ s with por := x } : State).pairCap = s.pairCap := rfl
theorem with_por_pairLow (s : State) (x : Por) : ({ s with por := x } : State).pairLow = s.pairLow := rfl
theorem with_por_out (s : State) (x : Por) : ({ s with por := x } : State).out = s.out := rfl
theorem with_por_errN (s : State) (x : Por) : ({ s with por := x } : State).errN = s.errN := rfl
theorem with_por_ready (s : State) (x : Por) : ({ s with por := x } : State).ready = s.ready := rfl
theorem with_por_boots (s : State) (x : Por) : ({ s with por := x } : State).boots = s.boots := rfl
theorem with_por_gasp (s : State) (x : Por) : ({ s with por := x } : State).gasp = s.gasp := rfl
theorem with_por_free (s : State) (x : Por) : ({ s with por := x } : State).free = s.free := rfl
theorem with_por_act (s : State) (x : Por) : ({ s with por := x } : State).act = s.act := rfl
theorem with_por_shd (s : State) (x : Por) : ({ s with por := x } : State).shd = s.shd := rfl
theorem with_por_evt (s : State) (x : Por) : ({ s with por := x } : State).evt = s.evt := rfl
theorem with_por_trc (s : State) (x : Por) : ({ s with por := x } : State).trc = s.trc := rfl
theorem with_por_tu (s : State) (x : Por) : ({ s with por := x } : State).tu = s.tu := rfl
theorem with_por_tke (s : State) (x : Por) : ({ s with por := x } : State).tke = s.tke := rfl
theorem with_por_gng (s : State) (x : Por) : ({ s with por := x } : State).gng = s.gng := rfl
theorem with_por_ldr (s : State) (x : Por) : ({ s with por := x } : State).ldr = s.ldr := rfl
theorem with_por_fp (s : State) (x : Por) : ({ s with por := x } : State).fp = s.fp := rfl
theorem with_por_cst (s : State) (x : Por) : ({ s with por := x } : State).cst = s.cst := rfl
theorem with_por_prt (s : State) (x : Por) : ({ s with por := x } : State).prt = s.prt := rfl
theorem with_por_asd (s : State) (x : Por) : ({ s with por := x } : State).asd = s.asd := rfl
theorem with_por_sen (s : State) (x : Por) : ({ s with por := x } : State).sen = s.sen := rfl
theorem with_por_brg (s : State) (x : Por) : ({ s with por := x } : State).brg = s.brg := rfl
theorem with_por_fbs (s : State) (x : Por) : ({ s with por := x } : State).fbs = s.fbs := rfl
theorem with_por_fio (s : State) (x : Por) : ({ s with por := x } : State).fio = s.fio := rfl
theorem with_por_cel (s : State) (x : Por) : ({ s with por := x } : State).cel = s.cel := rfl
theorem with_por_cfg (s : State) (x : Por) : ({ s with por := x } : State).cfg = s.cfg := rfl
theorem with_por_hst (s : State) (x : Por) : ({ s with por := x } : State).hst = s.hst := rfl

theorem with_pairCap_pending (s : State) (x : Tab (Option (BitVec 32))) : ({ s with pairCap := x } : State).pending = s.pending := rfl
theorem with_pairCap_raw (s : State) (x : Tab (Option (BitVec 32))) : ({ s with pairCap := x } : State).raw = s.raw := rfl
theorem with_pairCap_wall (s : State) (x : Tab (Option (BitVec 32))) : ({ s with pairCap := x } : State).wall = s.wall := rfl
theorem with_pairCap_regs (s : State) (x : Tab (Option (BitVec 32))) : ({ s with pairCap := x } : State).regs = s.regs := rfl
theorem with_pairCap_pairLow (s : State) (x : Tab (Option (BitVec 32))) : ({ s with pairCap := x } : State).pairLow = s.pairLow := rfl
theorem with_pairCap_out (s : State) (x : Tab (Option (BitVec 32))) : ({ s with pairCap := x } : State).out = s.out := rfl
theorem with_pairCap_errN (s : State) (x : Tab (Option (BitVec 32))) : ({ s with pairCap := x } : State).errN = s.errN := rfl
theorem with_pairCap_ready (s : State) (x : Tab (Option (BitVec 32))) : ({ s with pairCap := x } : State).ready = s.ready := rfl
theorem with_pairCap_boots (s : State) (x : Tab (Option (BitVec 32))) : ({ s with pairCap := x } : State).boots = s.boots := rfl
theorem with_pairCap_gasp (s : State) (x : Tab (Option (BitVec 32))) : ({ s with pairCap := x } : State).gasp = s.gasp := rfl
theorem with_pairCap_free (s : State) (x : Tab (Option (BitVec 32))) : ({ s with pairCap := x } : State).free = s.free := rfl
theorem with_pairCap_act (s : State) (x : Tab (Option (BitVec 32))) : ({ s with pairCap := x } : State).act = s.act := rfl
theorem with_pairCap_shd (s : State) (x : Tab (Option (BitVec 32))) : ({ s with pairCap := x } : State).shd = s.shd := rfl
theorem with_pairCap_evt (s : State) (x : Tab (Option (BitVec 32))) : ({ s with pairCap := x } : State).evt = s.evt := rfl
theorem with_pairCap_trc (s : State) (x : Tab (Option (BitVec 32))) : ({ s with pairCap := x } : State).trc = s.trc := rfl
theorem with_pairCap_tu (s : State) (x : Tab (Option (BitVec 32))) : ({ s with pairCap := x } : State).tu = s.tu := rfl
theorem with_pairCap_tke (s : State) (x : Tab (Option (BitVec 32))) : ({ s with pairCap := x } : State).tke = s.tke := rfl
theorem with_pairCap_gng (s : State) (x : Tab (Option (BitVec 32))) : ({ s with pairCap := x } : State).gng = s.gng := rfl
theorem with_pairCap_ldr (s : State) (x : Tab (Option (BitVec 32))) : ({ s with pairCap := x } : State).ldr = s.ldr := rfl
theorem with_pairCap_fp (s : State) (x : Tab (Option (BitVec 32))) : ({ s with pairCap := x } : State).fp = s.fp := rfl
theorem with_pairCap_cst (s : State) (x : Tab (Option (BitVec 32))) : ({ s with pairCap := x } : State).cst = s.cst := rfl
theorem with_pairCap_prt (s : State) (x : Tab (Option (BitVec 32))) : ({ s with pairCap := x } : State).prt = s.prt := rfl
theorem with_pairCap_asd (s : State) (x : Tab (Option (BitVec 32))) : ({ s with pairCap := x } : State).asd = s.asd := rfl
theorem with_pairCap_sen (s : State) (x : Tab (Option (BitVec 32))) : ({ s with pairCap := x } : State).sen = s.sen := rfl
theorem with_pairCap_brg (s : State) (x : Tab (Option (BitVec 32))) : ({ s with pairCap := x } : State).brg = s.brg := rfl
theorem with_pairCap_fbs (s : State) (x : Tab (Option (BitVec 32))) : ({ s with pairCap := x } : State).fbs = s.fbs := rfl
theorem with_pairCap_fio (s : State) (x : Tab (Option (BitVec 32))) : ({ s with pairCap := x } : State).fio = s.fio := rfl
theorem with_pairCap_cel (s : State) (x : Tab (Option (BitVec 32))) : ({ s with pairCap := x } : State).cel = s.cel := rfl
theorem with_pairCap_cfg (s : State) (x : Tab (Option (BitVec 32))) : ({ s with pairCap := x } : State).cfg = s.cfg := rfl
theorem with_pairCap_hst (s : State) (x : Tab (Option (BitVec 32))) : ({ s with pairCap := x } : State).hst = s.hst := rfl
theorem with_pairCap_por (s : State) (x : Tab (Option (BitVec 32))) : ({ s with pairCap := x } : State).por = s.por := rfl

theorem with_tu_pending (s : State) (x : Tu) : ({ s with tu := x } : State).pending = s.pending := rfl
theorem with_tu_raw (s : State) (x : Tu) : ({ s with tu := x } : State).raw = s.raw := rfl
theorem with_tu_wall (s : State) (x : Tu) : ({ s with tu := x } : State).wall = s.wall := rfl
theorem with_tu_regs (s : State) (x : Tu) : ({ s with tu := x } : State).regs = s.regs := rfl
theorem with_tu_pairCap (s : State) (x : Tu) : ({ s with tu := x } : State).pairCap = s.pairCap := rfl
theorem with_tu_pairLow (s : State) (x : Tu) : ({ s with tu := x } : State).pairLow = s.pairLow := rfl
theorem with_tu_out (s : State) (x : Tu) : ({ s with tu := x } : State).out = s.out := rfl
theorem with_tu_errN (s : State) (x : Tu) : ({ s with tu := x } : State).errN = s.errN := rfl
theorem with_tu_ready (s : State) (x : Tu) : ({ s with tu := x } : State).ready = s.ready := rfl
theorem with_tu_boots (s : State) (x : Tu) : ({ s with tu := x } : State).boots = s.boots := rfl
theorem with_tu_gasp (s : State) (x : Tu) : ({ s with tu := x } : State).gasp = s.gasp := rfl
theorem with_tu_free (s : State) (x : Tu) : ({ s with tu := x } : State).free = s.free := rfl
theorem with_tu_act (s : State) (x : Tu) : ({ s with tu := x } : State).act = s.act := rfl
theorem with_tu_shd (s : State) (x : Tu) : ({ s with tu := x } : State).shd = s.shd := rfl
theorem with_tu_evt (s : State) (x : Tu) : ({ s with tu := x } : State).evt = s.evt := rfl
theorem with_tu_trc (s : State) (x : Tu) : ({ s with tu := x } : State).trc = s.trc := rfl
theorem with_tu_tke (s : State) (x : Tu) : ({ s with tu := x } : State).tke = s.tke := rfl
theorem with_tu_gng (s : State) (x : Tu) : ({ s with tu := x } : State).gng = s.gng := rfl
theorem with_tu_ldr (s : State) (x : Tu) : ({ s with tu := x } : State).ldr = s.ldr := rfl
theorem with_tu_fp (s : State) (x : Tu) : ({ s with tu := x } : State).fp = s.fp := rfl
theorem with_tu_cst (s : State) (x : Tu) : ({ s with tu := x } : State).cst = s.cst := rfl
theorem with_tu_prt (s : State) (x : Tu) : ({ s with tu := x } : State).prt = s.prt := rfl
theorem with_tu_asd (s : State) (x : Tu) : ({ s with tu := x } : State).asd = s.asd := rfl
theorem with_tu_sen (s : State) (x : Tu) : ({ s with tu := x } : State).sen = s.sen := rfl
theorem with_tu_brg (s : State) (x : Tu) : ({ s with tu := x } : State).brg = s.brg := rfl
theorem with_tu_fbs (s : State) (x : Tu) : ({ s with tu := x } : State).fbs = s.fbs := rfl
theorem with_tu_fio (s : State) (x : Tu) : ({ s with tu := x } : State).fio = s.fio := rfl
theorem with_tu_cel (s : State) (x : Tu) : ({ s with tu := x } : State).cel = s.cel := rfl
theorem with_tu_cfg (s : State) (x : Tu) : ({ s with tu := x } : State).cfg = s.cfg := rfl
theorem with_tu_hst (s : State) (x : Tu) : ({ s with tu := x } : State).hst = s.hst := rfl
theorem with_tu_por (s : State) (x : Tu) : ({ s with tu := x } : State).por = s.por := rfl

theorem with_tke_pending (s : State) (x : Tke) : ({ s with tke := x } : State).pending = s.pending := rfl
theorem with_tke_raw (s : State) (x : Tke) : ({ s with tke := x } : State).raw = s.raw := rfl
theorem with_tke_wall (s : State) (x : Tke) : ({ s with tke := x } : State).wall = s.wall := rfl
theorem with_tke_regs (s : State) (x : Tke) : ({ s with tke := x } : State).regs = s.regs := rfl
theorem with_tke_pairCap (s : State) (x : Tke) : ({ s with tke := x } : State).pairCap = s.pairCap := rfl
theorem with_tke_pairLow (s : State) (x : Tke) : ({ s with tke := x } : State).pairLow = s.pairLow := rfl
theorem with_tke_out (s : State) (x : Tke) : ({ s with tke := x } : State).out = s.out := rfl
theorem with_tke_errN (s : State) (x : Tke) : ({ s with tke := x } : State).errN = s.errN := rfl
theorem with_tke_ready (s : State) (x : Tke) : ({ s with tke := x } : State).ready = s.ready := rfl
theorem with_tke_boots (s : State) (x : Tke) : ({ s with tke := x } : State).boots = s.boots := rfl
theorem with_tke_gasp (s : State) (x : Tke) : ({ s with tke := x } : State).gasp = s.gasp := rfl
theorem with_tke_free (s : State) (x : Tke) : ({ s with tke := x } : State).free = s.free := rfl
theorem with_tke_act (s : State) (x : Tke) : ({ s with tke := x } : State).act = s.act := rfl
theorem with_tke_shd (s : State) (x : Tke) : ({ s with tke := x } : State).shd = s.shd := rfl
theorem with_tke_evt (s : State) (x : Tke) : ({ s with tke := x } : State).evt = s.evt := rfl
theorem with_tke_trc (s : State) (x : Tke) : ({ s with tke := x } : State).trc = s.trc := rfl
theorem with_tke_tu (s : State) (x : Tke) : ({ s with tke := x } : State).tu = s.tu := rfl
theorem with_tke_gng (s : State) (x : Tke) : ({ s with tke := x } : State).gng = s.gng := rfl
theorem with_tke_ldr (s : State) (x : Tke) : ({ s with tke := x } : State).ldr = s.ldr := rfl
theorem with_tke_fp (s : State) (x : Tke) : ({ s with tke := x } : State).fp = s.fp := rfl
theorem with_tke_cst (s : State) (x : Tke) : ({ s with tke := x } : State).cst = s.cst := rfl
theorem with_tke_prt (s : State) (x : Tke) : ({ s with tke := x } : State).prt = s.prt := rfl
theorem with_tke_asd (s : State) (x : Tke) : ({ s with tke := x } : State).asd = s.asd := rfl
theorem with_tke_sen (s : State) (x : Tke) : ({ s with tke := x } : State).sen = s.sen := rfl
theorem with_tke_brg (s : State) (x : Tke) : ({ s with tke := x } : State).brg = s.brg := rfl
theorem with_tke_fbs (s : State) (x : Tke) : ({ s with tke := x } : State).fbs = s.fbs := rfl
theorem with_tke_fio (s : State) (x : Tke) : ({ s with tke := x } : State).fio = s.fio := rfl
theorem with_tke_cel (s : State) (x : Tke) : ({ s with tke := x } : State).cel = s.cel := rfl
theorem with_tke_cfg (s : State) (x : Tke) : ({ s with tke := x } : State).cfg = s.cfg := rfl
theorem with_tke_hst (s : State) (x : Tke) : ({ s with tke := x } : State).hst = s.hst := rfl
theorem with_tke_por (s : State) (x : Tke) : ({ s with tke := x } : State).por = s.por := rfl

theorem with_fbs_pending (s : State) (x : Tab Fb) : ({ s with fbs := x } : State).pending = s.pending := rfl
theorem with_fbs_raw (s : State) (x : Tab Fb) : ({ s with fbs := x } : State).raw = s.raw := rfl
theorem with_fbs_wall (s : State) (x : Tab Fb) : ({ s with fbs := x } : State).wall = s.wall := rfl
theorem with_fbs_regs (s : State) (x : Tab Fb) : ({ s with fbs := x } : State).regs = s.regs := rfl
theorem with_fbs_pairCap (s : State) (x : Tab Fb) : ({ s with fbs := x } : State).pairCap = s.pairCap := rfl
theorem with_fbs_pairLow (s : State) (x : Tab Fb) : ({ s with fbs := x } : State).pairLow = s.pairLow := rfl
theorem with_fbs_out (s : State) (x : Tab Fb) : ({ s with fbs := x } : State).out = s.out := rfl
theorem with_fbs_errN (s : State) (x : Tab Fb) : ({ s with fbs := x } : State).errN = s.errN := rfl
theorem with_fbs_ready (s : State) (x : Tab Fb) : ({ s with fbs := x } : State).ready = s.ready := rfl
theorem with_fbs_boots (s : State) (x : Tab Fb) : ({ s with fbs := x } : State).boots = s.boots := rfl
theorem with_fbs_gasp (s : State) (x : Tab Fb) : ({ s with fbs := x } : State).gasp = s.gasp := rfl
theorem with_fbs_free (s : State) (x : Tab Fb) : ({ s with fbs := x } : State).free = s.free := rfl
theorem with_fbs_act (s : State) (x : Tab Fb) : ({ s with fbs := x } : State).act = s.act := rfl
theorem with_fbs_shd (s : State) (x : Tab Fb) : ({ s with fbs := x } : State).shd = s.shd := rfl
theorem with_fbs_evt (s : State) (x : Tab Fb) : ({ s with fbs := x } : State).evt = s.evt := rfl
theorem with_fbs_trc (s : State) (x : Tab Fb) : ({ s with fbs := x } : State).trc = s.trc := rfl
theorem with_fbs_tu (s : State) (x : Tab Fb) : ({ s with fbs := x } : State).tu = s.tu := rfl
theorem with_fbs_tke (s : State) (x : Tab Fb) : ({ s with fbs := x } : State).tke = s.tke := rfl
theorem with_fbs_gng (s : State) (x : Tab Fb) : ({ s with fbs := x } : State).gng = s.gng := rfl
theorem with_fbs_ldr (s : State) (x : Tab Fb) : ({ s with fbs := x } : State).ldr = s.ldr := rfl
theorem with_fbs_fp (s : State) (x : Tab Fb) : ({ s with fbs := x } : State).fp = s.fp := rfl
theorem with_fbs_cst (s : State) (x : Tab Fb) : ({ s with fbs := x } : State).cst = s.cst := rfl
theorem with_fbs_prt (s : State) (x : Tab Fb) : ({ s with fbs := x } : State).prt = s.prt := rfl
theorem with_fbs_asd (s : State) (x : Tab Fb) : ({ s with fbs := x } : State).asd = s.asd := rfl
theorem with_fbs_sen (s : State) (x : Tab Fb) : ({ s with fbs := x } : State).sen = s.sen := rfl
theorem with_fbs_brg (s : State) (x : Tab Fb) : ({ s with fbs := x } : State).brg = s.brg := rfl
theorem with_fbs_fio (s : State) (x : Tab Fb) : ({ s with fbs := x } : State).fio = s.fio := rfl
theorem with_fbs_cel (s : State) (x : Tab Fb) : ({ s with fbs := x } : State).cel = s.cel := rfl
theorem with_fbs_cfg (s : State) (x : Tab Fb) : ({ s with fbs := x } : State).cfg = s.cfg := rfl
theorem with_fbs_hst (s : State) (x : Tab Fb) : ({ s with fbs := x } : State).hst = s.hst := rfl
theorem with_fbs_por (s : State) (x : Tab Fb) : ({ s with fbs := x } : State).por = s.por := rfl

theorem with_cel_pending (s : State) (x : Cel) : ({ s with cel := x } : State).pending = s.pending := rfl
theorem with_cel_raw (s : State) (x : Cel) : ({ s with cel := x } : State).raw = s.raw := rfl
theorem with_cel_wall (s : State) (x : Cel) : ({ s with cel := x } : State).wall = s.wall := rfl
theorem with_cel_regs (s : State) (x : Cel) : ({ s with cel := x } : State).regs = s.regs := rfl
theorem with_cel_pairCap (s : State) (x : Cel) : ({ s with cel := x } : State).pairCap = s.pairCap := rfl
theorem with_cel_pairLow (s : State) (x : Cel) : ({ s with cel := x } : State).pairLow = s.pairLow := rfl
theorem with_cel_out (s : State) (x : Cel) : ({ s with cel := x } : State).out = s.out := rfl
theorem with_cel_errN (s : State) (x : Cel) : ({ s with cel := x } : State).errN = s.errN := rfl
theorem with_cel_ready (s : State) (x : Cel) : ({ s with cel := x } : State).ready = s.ready := rfl
theorem with_cel_boots (s : State) (x : Cel) : ({ s with cel := x } : State).boots = s.boots := rfl
theorem with_cel_gasp (s : State) (x : Cel) : ({ s with cel := x } : State).gasp = s.gasp := rfl
theorem with_cel_free (s : State) (x : Cel) : ({ s with cel := x } : State).free = s.free := rfl
theorem with_cel_act (s : State) (x : Cel) : ({ s with cel := x } : State).act = s.act := rfl
theorem with_cel_shd (s : State) (x : Cel) : ({ s with cel := x } : State).shd = s.shd := rfl
theorem with_cel_evt (s : State) (x : Cel) : ({ s with cel := x } : State).evt = s.evt := rfl
theorem with_cel_trc (s : State) (x : Cel) : ({ s with cel := x } : State).trc = s.trc := rfl
theorem with_cel_tu (s : State) (x : Cel) : ({ s with cel := x } : State).tu = s.tu := rfl
theorem with_cel_tke (s : State) (x : Cel) : ({ s with cel := x } : State).tke = s.tke := rfl
theorem with_cel_gng (s : State) (x : Cel) : ({ s with cel := x } : State).gng = s.gng := rfl
theorem with_cel_ldr (s : State) (x : Cel) : ({ s with cel := x } : State).ldr = s.ldr := rfl
theorem with_cel_fp (s : State) (x : Cel) : ({ s with cel := x } : State).fp = s.fp := rfl
theorem with_cel_cst (s : State) (x : Cel) : ({ s with cel := x } : State).cst = s.cst := rfl
theorem with_cel_prt (s : State) (x : Cel) : ({ s with cel := x } : State).prt = s.prt := rfl
theorem with_cel_asd (s : State) (x : Cel) : ({ s with cel := x } : State).asd = s.asd := rfl
theorem with_cel_sen (s : State) (x : Cel) : ({ s with cel := x } : State).sen = s.sen := rfl
theorem with_cel_brg (s : State) (x : Cel) : ({ s with cel := x } : State).brg = s.brg := rfl
theorem with_cel_fbs (s : State) (x : Cel) : ({ s with cel := x } : State).fbs = s.fbs := rfl
theorem with_cel_fio (s : State) (x : Cel) : ({ s with cel := x } : State).fio = s.fio := rfl
theorem with_cel_cfg (s : State) (x : Cel) : ({ s with cel := x } : State).cfg = s.cfg := rfl
theorem with_cel_hst (s : State) (x : Cel) : ({ s with cel := x } : State).hst = s.hst := rfl
theorem with_cel_por (s : State) (x : Cel) : ({ s with cel := x } : State).por = s.por := rfl

theorem with_fio_pending (s : State) (x : Fio) : ({ s with fio := x } : State).pending = s.pending := rfl
theorem with_fio_raw (s : State) (x : Fio) : ({ s with fio := x } : State).raw = s.raw := rfl
theorem with_fio_wall (s : State) (x : Fio) : ({ s with fio := x } : State).wall = s.wall := rfl
theorem with_fio_regs (s : State) (x : Fio) : ({ s with fio := x } : State).regs = s.regs := rfl
theorem with_fio_pairCap (s : State) (x : Fio) : ({ s with fio := x } : State).pairCap = s.pairCap := rfl
theorem with_fio_pairLow (s : State) (x : Fio) : ({ s with fio := x } : State).pairLow = s.pairLow := rfl
theorem with_fio_out (s : State) (x : Fio) : ({ s with fio := x } : State).out = s.out := rfl
theorem with_fio_errN (s : State) (x : Fio) : ({ s with fio := x } : State).errN = s.errN := rfl
theorem with_fio_ready (s : State) (x : Fio) : ({ s with fio := x } : State).ready = s.ready := rfl
theorem with_fio_boots (s : State) (x : Fio) : ({ s with fio := x } : State).boots = s.boots := rfl
theorem with_fio_gasp (s : State) (x : Fio) : ({ s with fio := x } : State).gasp = s.gasp := rfl
theorem with_fio_free (s : State) (x : Fio) : ({ s with fio := x } : State).free = s.free := rfl
theorem with_fio_act (s : State) (x : Fio) : ({ s with fio := x } : State).act = s.act := rfl
theorem with_fio_shd (s : State) (x : Fio) : ({ s with fio := x } : State).shd = s.shd := rfl
theorem with_fio_evt (s : State) (x : Fio) : ({ s with fio := x } : State).evt = s.evt := rfl
theorem with_fio_trc (s : State) (x : Fio) : ({ s with fio := x } : State).trc = s.trc := rfl
theorem with_fio_tu (s : State) (x : Fio) : ({ s with fio := x } : State).tu = s.tu := rfl
theorem with_fio_tke (s : State) (x : Fio) : ({ s with fio := x } : State).tke = s.tke := rfl
theorem with_fio_gng (s : State) (x : Fio) : ({ s with fio := x } : State).gng = s.gng := rfl
theorem with_fio_ldr (s : State) (x : Fio) : ({ s with fio := x } : State).ldr = s.ldr := rfl
theorem with_fio_fp (s : State) (x : Fio) : ({ s with fio := x } : State).fp = s.fp := rfl
theorem with_fio_cst (s : State) (x : Fio) : ({ s with fio := x } : State).cst = s.cst := rfl
theorem with_fio_prt (s : State) (x : Fio) : ({ s with fio := x } : State).prt = s.prt := rfl
theorem with_fio_asd (s : State) (x : Fio) : ({ s with fio := x } : State).asd = s.asd := rfl
theorem with_fio_sen (s : State) (x : Fio) : ({ s with fio := x } : State).sen = s.sen := rfl
theorem with_fio_brg (s : State) (x : Fio) : ({ s with fio := x } : State).brg = s.brg := rfl
theorem with_fio_fbs (s : State) (x : Fio) : ({ s with fio := x } : State).fbs = s.fbs := rfl
theorem with_fio_cel (s : State) (x : Fio) : ({ s with fio := x } : State).cel = s.cel := rfl
theorem with_fio_cfg (s : State) (x : Fio) : ({ s with fio := x } : State).cfg = s.cfg := rfl
theorem with_fio_hst (s : State) (x : Fio) : ({ s with fio := x } : State).hst = s.hst := rfl
theorem with_fio_por (s : State) (x : Fio) : ({ s with fio := x } : State).por = s.por := rfl

theorem with_errN_pending (s : State) (x : Bool) : ({ s with errN := x } : State).pending = s.pending := rfl
theorem with_errN_raw (s : State) (x : Bool) : ({ s with errN := x } : State).raw = s.raw := rfl
theorem with_errN_wall (s : State) (x : Bool) : ({ s with errN := x } : State).wall = s.wall := rfl
theorem with_errN_regs (s : State) (x : Bool) : ({ s with errN := x } : State).regs = s.regs := rfl
theorem with_errN_pairCap (s : State) (x : Bool) : ({ s with errN := x } : State).pairCap = s.pairCap := rfl
theorem with_errN_pairLow (s : State) (x : Bool) : ({ s with errN := x } : State).pairLow = s.pairLow := rfl
theorem with_errN_out (s : State) (x : Bool) : ({ s with errN := x } : State).out = s.out := rfl
theorem with_errN_ready (s : State) (x : Bool) : ({ s with errN := x } : State).ready = s.ready := rfl
theorem with_errN_boots (s : State) (x : Bool) : ({ s with errN := x } : State).boots = s.boots := rfl
theorem with_errN_gasp (s : State) (x : Bool) : ({ s with errN := x } : State).gasp = s.gasp := rfl
theorem with_errN_free (s : State) (x : Bool) : ({ s with errN := x } : State).free = s.free := rfl
theorem with_errN_act (s : State) (x : Bool) : ({ s with errN := x } : State).act = s.act := rfl
theorem with_errN_shd (s : State) (x : Bool) : ({ s with errN := x } : State).shd = s.shd := rfl
theorem with_errN_evt (s : State) (x : Bool) : ({ s with errN := x } : State).evt = s.evt := rfl
theorem with_errN_trc (s : State) (x : Bool) : ({ s with errN := x } : State).trc = s.trc := rfl
theorem with_errN_tu (s : State) (x : Bool) : ({ s with errN := x } : State).tu = s.tu := rfl
theorem with_errN_tke (s : State) (x : Bool) : ({ s with errN := x } : State).tke = s.tke := rfl
theorem with_errN_gng (s : State) (x : Bool) : ({ s with errN := x } : State).gng = s.gng := rfl
theorem with_errN_ldr (s : State) (x : Bool) : ({ s with errN := x } : State).ldr = s.ldr := rfl
theorem with_errN_fp (s : State) (x : Bool) : ({ s with errN := x } : State).fp = s.fp := rfl
theorem with_errN_cst (s : State) (x : Bool) : ({ s with errN := x } : State).cst = s.cst := rfl
theorem with_errN_prt (s : State) (x : Bool) : ({ s with errN := x } : State).prt = s.prt := rfl
theorem with_errN_asd (s : State) (x : Bool) : ({ s with errN := x } : State).asd = s.asd := rfl
theorem with_errN_sen (s : State) (x : Bool) : ({ s with errN := x } : State).sen = s.sen := rfl
theorem with_errN_brg (s : State) (x : Bool) : ({ s with errN := x } : State).brg = s.brg := rfl
theorem with_errN_fbs (s : State) (x : Bool) : ({ s with errN := x } : State).fbs = s.fbs := rfl
theorem with_errN_fio (s : State) (x : Bool) : ({ s with errN := x } : State).fio = s.fio := rfl
theorem with_errN_cel (s : State) (x : Bool) : ({ s with errN := x } : State).cel = s.cel := rfl
theorem with_errN_cfg (s : State) (x : Bool) : ({ s with errN := x } : State).cfg = s.cfg := rfl
theorem with_errN_hst (s : State) (x : Bool) : ({ s with errN := x } : State).hst = s.hst := rfl
theorem with_errN_por (s : State) (x : Bool) : ({ s with errN := x } : State).por = s.por := rfl

theorem with_fp_pending (s : State) (x : Fp) : ({ s with fp := x } : State).pending = s.pending := rfl
theorem with_fp_raw (s : State) (x : Fp) : ({ s with fp := x } : State).raw = s.raw := rfl
theorem with_fp_wall (s : State) (x : Fp) : ({ s with fp := x } : State).wall = s.wall := rfl
theorem with_fp_regs (s : State) (x : Fp) : ({ s with fp := x } : State).regs = s.regs := rfl
theorem with_fp_pairCap (s : State) (x : Fp) : ({ s with fp := x } : State).pairCap = s.pairCap := rfl
theorem with_fp_pairLow (s : State) (x : Fp) : ({ s with fp := x } : State).pairLow = s.pairLow := rfl
theorem with_fp_out (s : State) (x : Fp) : ({ s with fp := x } : State).out = s.out := rfl
theorem with_fp_errN (s : State) (x : Fp) : ({ s with fp := x } : State).errN = s.errN := rfl
theorem with_fp_ready (s : State) (x : Fp) : ({ s with fp := x } : State).ready = s.ready := rfl
theorem with_fp_boots (s : State) (x : Fp) : ({ s with fp := x } : State).boots = s.boots := rfl
theorem with_fp_gasp (s : State) (x : Fp) : ({ s with fp := x } : State).gasp = s.gasp := rfl
theorem with_fp_free (s : State) (x : Fp) : ({ s with fp := x } : State).free = s.free := rfl
theorem with_fp_act (s : State) (x : Fp) : ({ s with fp := x } : State).act = s.act := rfl
theorem with_fp_shd (s : State) (x : Fp) : ({ s with fp := x } : State).shd = s.shd := rfl
theorem with_fp_evt (s : State) (x : Fp) : ({ s with fp := x } : State).evt = s.evt := rfl
theorem with_fp_trc (s : State) (x : Fp) : ({ s with fp := x } : State).trc = s.trc := rfl
theorem with_fp_tu (s : State) (x : Fp) : ({ s with fp := x } : State).tu = s.tu := rfl
theorem with_fp_tke (s : State) (x : Fp) : ({ s with fp := x } : State).tke = s.tke := rfl
theorem with_fp_gng (s : State) (x : Fp) : ({ s with fp := x } : State).gng = s.gng := rfl
theorem with_fp_ldr (s : State) (x : Fp) : ({ s with fp := x } : State).ldr = s.ldr := rfl
theorem with_fp_cst (s : State) (x : Fp) : ({ s with fp := x } : State).cst = s.cst := rfl
theorem with_fp_prt (s : State) (x : Fp) : ({ s with fp := x } : State).prt = s.prt := rfl
theorem with_fp_asd (s : State) (x : Fp) : ({ s with fp := x } : State).asd = s.asd := rfl
theorem with_fp_sen (s : State) (x : Fp) : ({ s with fp := x } : State).sen = s.sen := rfl
theorem with_fp_brg (s : State) (x : Fp) : ({ s with fp := x } : State).brg = s.brg := rfl
theorem with_fp_fbs (s : State) (x : Fp) : ({ s with fp := x } : State).fbs = s.fbs := rfl
theorem with_fp_fio (s : State) (x : Fp) : ({ s with fp := x } : State).fio = s.fio := rfl
theorem with_fp_cel (s : State) (x : Fp) : ({ s with fp := x } : State).cel = s.cel := rfl
theorem with_fp_cfg (s : State) (x : Fp) : ({ s with fp := x } : State).cfg = s.cfg := rfl
theorem with_fp_hst (s : State) (x : Fp) : ({ s with fp := x } : State).hst = s.hst := rfl
theorem with_fp_por (s : State) (x : Fp) : ({ s with fp := x } : State).por = s.por := rfl

theorem with_ldr_pending (s : State) (x : Ldr) : ({ s with ldr := x } : State).pending = s.pending := rfl
theorem with_ldr_raw (s : State) (x : Ldr) : ({ s with ldr := x } : State).raw = s.raw := rfl
theorem with_ldr_wall (s : State) (x : Ldr) : ({ s with ldr := x } : State).wall = s.wall := rfl
theorem with_ldr_regs (s : State) (x : Ldr) : ({ s with ldr := x } : State).regs = s.regs := rfl
theorem with_ldr_pairCap (s : State) (x : Ldr) : ({ s with ldr := x } : State).pairCap = s.pairCap := rfl
theorem with_ldr_pairLow (s : State) (x : Ldr) : ({ s with ldr := x } : State).pairLow = s.pairLow := rfl
theorem with_ldr_out (s : State) (x : Ldr) : ({ s with ldr := x } : State).out = s.out := rfl
theorem with_ldr_errN (s : State) (x : Ldr) : ({ s with ldr := x } : State).errN = s.errN := rfl
theorem with_ldr_ready (s : State) (x : Ldr) : ({ s with ldr := x } : State).ready = s.ready := rfl
theorem with_ldr_boots (s : State) (x : Ldr) : ({ s with ldr := x } : State).boots = s.boots := rfl
theorem with_ldr_gasp (s : State) (x : Ldr) : ({ s with ldr := x } : State).gasp = s.gasp := rfl
theorem with_ldr_free (s : State) (x : Ldr) : ({ s with ldr := x } : State).free = s.free := rfl
theorem with_ldr_act (s : State) (x : Ldr) : ({ s with ldr := x } : State).act = s.act := rfl
theorem with_ldr_shd (s : State) (x : Ldr) : ({ s with ldr := x } : State).shd = s.shd := rfl
theorem with_ldr_evt (s : State) (x : Ldr) : ({ s with ldr := x } : State).evt = s.evt := rfl
theorem with_ldr_trc (s : State) (x : Ldr) : ({ s with ldr := x } : State).trc = s.trc := rfl
theorem with_ldr_tu (s : State) (x : Ldr) : ({ s with ldr := x } : State).tu = s.tu := rfl
theorem with_ldr_tke (s : State) (x : Ldr) : ({ s with ldr := x } : State).tke = s.tke := rfl
theorem with_ldr_gng (s : State) (x : Ldr) : ({ s with ldr := x } : State).gng = s.gng := rfl
theorem with_ldr_fp (s : State) (x : Ldr) : ({ s with ldr := x } : State).fp = s.fp := rfl
theorem with_ldr_cst (s : State) (x : Ldr) : ({ s with ldr := x } : State).cst = s.cst := rfl
theorem with_ldr_prt (s : State) (x : Ldr) : ({ s with ldr := x } : State).prt = s.prt := rfl
theorem with_ldr_asd (s : State) (x : Ldr) : ({ s with ldr := x } : State).asd = s.asd := rfl
theorem with_ldr_sen (s : State) (x : Ldr) : ({ s with ldr := x } : State).sen = s.sen := rfl
theorem with_ldr_brg (s : State) (x : Ldr) : ({ s with ldr := x } : State).brg = s.brg := rfl
theorem with_ldr_fbs (s : State) (x : Ldr) : ({ s with ldr := x } : State).fbs = s.fbs := rfl
theorem with_ldr_fio (s : State) (x : Ldr) : ({ s with ldr := x } : State).fio = s.fio := rfl
theorem with_ldr_cel (s : State) (x : Ldr) : ({ s with ldr := x } : State).cel = s.cel := rfl
theorem with_ldr_cfg (s : State) (x : Ldr) : ({ s with ldr := x } : State).cfg = s.cfg := rfl
theorem with_ldr_hst (s : State) (x : Ldr) : ({ s with ldr := x } : State).hst = s.hst := rfl
theorem with_ldr_por (s : State) (x : Ldr) : ({ s with ldr := x } : State).por = s.por := rfl

theorem with_hst_pending (s : State) (x : Hst) : ({ s with hst := x } : State).pending = s.pending := rfl
theorem with_hst_raw (s : State) (x : Hst) : ({ s with hst := x } : State).raw = s.raw := rfl
theorem with_hst_wall (s : State) (x : Hst) : ({ s with hst := x } : State).wall = s.wall := rfl
theorem with_hst_regs (s : State) (x : Hst) : ({ s with hst := x } : State).regs = s.regs := rfl
theorem with_hst_pairCap (s : State) (x : Hst) : ({ s with hst := x } : State).pairCap = s.pairCap := rfl
theorem with_hst_pairLow (s : State) (x : Hst) : ({ s with hst := x } : State).pairLow = s.pairLow := rfl
theorem with_hst_out (s : State) (x : Hst) : ({ s with hst := x } : State).out = s.out := rfl
theorem with_hst_errN (s : State) (x : Hst) : ({ s with hst := x } : State).errN = s.errN := rfl
theorem with_hst_ready (s : State) (x : Hst) : ({ s with hst := x } : State).ready = s.ready := rfl
theorem with_hst_boots (s : State) (x : Hst) : ({ s with hst := x } : State).boots = s.boots := rfl
theorem with_hst_gasp (s : State) (x : Hst) : ({ s with hst := x } : State).gasp = s.gasp := rfl
theorem with_hst_free (s : State) (x : Hst) : ({ s with hst := x } : State).free = s.free := rfl
theorem with_hst_act (s : State) (x : Hst) : ({ s with hst := x } : State).act = s.act := rfl
theorem with_hst_shd (s : State) (x : Hst) : ({ s with hst := x } : State).shd = s.shd := rfl
theorem with_hst_evt (s : State) (x : Hst) : ({ s with hst := x } : State).evt = s.evt := rfl
theorem with_hst_trc (s : State) (x : Hst) : ({ s with hst := x } : State).trc = s.trc := rfl
theorem with_hst_tu (s : State) (x : Hst) : ({ s with hst := x } : State).tu = s.tu := rfl
theorem with_hst_tke (s : State) (x : Hst) : ({ s with hst := x } : State).tke = s.tke := rfl
theorem with_hst_gng (s : State) (x : Hst) : ({ s with hst := x } : State).gng = s.gng := rfl
theorem with_hst_ldr (s : State) (x : Hst) : ({ s with hst := x } : State).ldr = s.ldr := rfl
theorem with_hst_fp (s : State) (x : Hst) : ({ s with hst := x } : State).fp = s.fp := rfl
theorem with_hst_cst (s : State) (x : Hst) : ({ s with hst := x } : State).cst = s.cst := rfl
theorem with_hst_prt (s : State) (x : Hst) : ({ s with hst := x } : State).prt = s.prt := rfl
theorem with_hst_asd (s : State) (x : Hst) : ({ s with hst := x } : State).asd = s.asd := rfl
theorem with_hst_sen (s : State) (x : Hst) : ({ s with hst := x } : State).sen = s.sen := rfl
theorem with_hst_brg (s : State) (x : Hst) : ({ s with hst := x } : State).brg = s.brg := rfl
theorem with_hst_fbs (s : State) (x : Hst) : ({ s with hst := x } : State).fbs = s.fbs := rfl
theorem with_hst_fio (s : State) (x : Hst) : ({ s with hst := x } : State).fio = s.fio := rfl
theorem with_hst_cel (s : State) (x : Hst) : ({ s with hst := x } : State).cel = s.cel := rfl
theorem with_hst_cfg (s : State) (x : Hst) : ({ s with hst := x } : State).cfg = s.cfg := rfl
theorem with_hst_por (s : State) (x : Hst) : ({ s with hst := x } : State).por = s.por := rfl

theorem with_sen_pending (s : State) (x : Sen) : ({ s with sen := x } : State).pending = s.pending := rfl
theorem with_sen_raw (s : State) (x : Sen) : ({ s with sen := x } : State).raw = s.raw := rfl
theorem with_sen_wall (s : State) (x : Sen) : ({ s with sen := x } : State).wall = s.wall := rfl
theorem with_sen_regs (s : State) (x : Sen) : ({ s with sen := x } : State).regs = s.regs := rfl
theorem with_sen_pairCap (s : State) (x : Sen) : ({ s with sen := x } : State).pairCap = s.pairCap := rfl
theorem with_sen_pairLow (s : State) (x : Sen) : ({ s with sen := x } : State).pairLow = s.pairLow := rfl
theorem with_sen_out (s : State) (x : Sen) : ({ s with sen := x } : State).out = s.out := rfl
theorem with_sen_errN (s : State) (x : Sen) : ({ s with sen := x } : State).errN = s.errN := rfl
theorem with_sen_ready (s : State) (x : Sen) : ({ s with sen := x } : State).ready = s.ready := rfl
theorem with_sen_boots (s : State) (x : Sen) : ({ s with sen := x } : State).boots = s.boots := rfl
theorem with_sen_gasp (s : State) (x : Sen) : ({ s with sen := x } : State).gasp = s.gasp := rfl
theorem with_sen_free (s : State) (x : Sen) : ({ s with sen := x } : State).free = s.free := rfl
theorem with_sen_act (s : State) (x : Sen) : ({ s with sen := x } : State).act = s.act := rfl
theorem with_sen_shd (s : State) (x : Sen) : ({ s with sen := x } : State).shd = s.shd := rfl
theorem with_sen_evt (s : State) (x : Sen) : ({ s with sen := x } : State).evt = s.evt := rfl
theorem with_sen_trc (s : State) (x : Sen) : ({ s with sen := x } : State).trc = s.trc := rfl
theorem with_sen_tu (s : State) (x : Sen) : ({ s with sen := x } : State).tu = s.tu := rfl
theorem with_sen_tke (s : State) (x : Sen) : ({ s with sen := x } : State).tke = s.tke := rfl
theorem with_sen_gng (s : State) (x : Sen) : ({ s with sen := x } : State).gng = s.gng := rfl
theorem with_sen_ldr (s : State) (x : Sen) : ({ s with sen := x } : State).ldr = s.ldr := rfl
theorem with_sen_fp (s : State) (x : Sen) : ({ s with sen := x } : State).fp = s.fp := rfl
theorem with_sen_cst (s : State) (x : Sen) : ({ s with sen := x } : State).cst = s.cst := rfl
theorem with_sen_prt (s : State) (x : Sen) : ({ s with sen := x } : State).prt = s.prt := rfl
theorem with_sen_asd (s : State) (x : Sen) : ({ s with sen := x } : State).asd = s.asd := rfl
theorem with_sen_brg (s : State) (x : Sen) : ({ s with sen := x } : State).brg = s.brg := rfl
theorem with_sen_fbs (s : State) (x : Sen) : ({ s with sen := x } : State).fbs = s.fbs := rfl
theorem with_sen_fio (s : State) (x : Sen) : ({ s with sen := x } : State).fio = s.fio := rfl
theorem with_sen_cel (s : State) (x : Sen) : ({ s with sen := x } : State).cel = s.cel := rfl
theorem with_sen_cfg (s : State) (x : Sen) : ({ s with sen := x } : State).cfg = s.cfg := rfl
theorem with_sen_hst (s : State) (x : Sen) : ({ s with sen := x } : State).hst = s.hst := rfl
theorem with_sen_por (s : State) (x : Sen) : ({ s with sen := x } : State).por = s.por := rfl

theorem with_clock_pending (s : State) (x y : Nat) : ({ s with raw := x, wall := y } : State).pending = s.pending := rfl
theorem with_clock_regs (s : State) (x y : Nat) : ({ s with raw := x, wall := y } : State).regs = s.regs := rfl
theorem with_clock_pairCap (s : State) (x y : Nat) : ({ s with raw := x, wall := y } : State).pairCap = s.pairCap := rfl
theorem with_clock_pairLow (s : State) (x y : Nat) : ({ s with raw := x, wall := y } : State).pairLow = s.pairLow := rfl
theorem with_clock_out (s : State) (x y : Nat) : ({ s with raw := x, wall := y } : State).out = s.out := rfl
theorem with_clock_errN (s : State) (x y : Nat) : ({ s with raw := x, wall := y } : State).errN = s.errN := rfl
theorem with_clock_ready (s : State) (x y : Nat) : ({ s with raw := x, wall := y } : State).ready = s.ready := rfl
theorem with_clock_boots (s : State) (x y : Nat) : ({ s with raw := x, wall := y } : State).boots = s.boots := rfl
theorem with_clock_gasp (s : State) (x y : Nat) : ({ s with raw := x, wall := y } : State).gasp = s.gasp := rfl
theorem with_clock_free (s : State) (x y : Nat) : ({ s with raw := x, wall := y } : State).free = s.free := rfl
theorem with_clock_act (s : State) (x y : Nat) : ({ s with raw := x, wall := y } : State).act = s.act := rfl
theorem with_clock_shd (s : State) (x y : Nat) : ({ s with raw := x, wall := y } : State).shd = s.shd := rfl
theorem with_clock_evt (s : State) (x y : Nat) : ({ s with raw := x, wall := y } : State).evt = s.evt := rfl
theorem with_clock_trc (s : State) (x y : Nat) : ({ s with raw := x, wall := y } : State).trc = s.trc := rfl
theorem with_clock_tu (s : State) (x y : Nat) : ({ s with raw := x, wall := y } : State).tu = s.tu := rfl
theorem with_clock_tke (s : State) (x y : Nat) : ({ s with raw := x, wall := y } : State).tke = s.tke := rfl
theorem with_clock_gng (s : State) (x y : Nat) : ({ s with raw := x, wall := y } : State).gng = s.gng := rfl
theorem with_clock_ldr (s : State) (x y : Nat) : ({ s with raw := x, wall := y } : State).ldr = s.ldr := rfl
theorem with_clock_fp (s : State) (x y : Nat) : ({ s with raw := x, wall := y } : State).fp = s.fp := rfl
theorem with_clock_cst (s : State) (x y : Nat) : ({ s with raw := x, wall := y } : State).cst = s.cst := rfl
theorem with_clock_prt (s : State) (x y : Nat) : ({ s with raw := x, wall := y } : State).prt = s.prt := rfl
theorem with_clock_asd (s : State) (x y : Nat) : ({ s with raw := x, wall := y } : State).asd = s.asd := rfl
theorem with_clock_sen (s : State) (x y : Nat) : ({ s with raw := x, wall := y } : State).sen = s.sen := rfl
theorem with_clock_brg (s : State) (x y : Nat) : ({ s with raw := x, wall := y } : State).brg = s.brg := rfl
theorem with_clock_fbs (s : State) (x y : Nat) : ({ s with raw := x, wall := y } : State).fbs = s.fbs := rfl
theorem with_clock_fio (s : State) (x y : Nat) : ({ s with raw := x, wall := y } : State).fio = s.fio := rfl
theorem with_clock_cel (s : State) (x y : Nat) : ({ s with raw := x, wall := y } : State).cel = s.cel := rfl
theorem with_clock_cfg (s : State) (x y : Nat) : ({ s with raw := x, wall := y } : State).cfg = s.cfg := rfl
theorem with_clock_hst (s : State) (x y : Nat) : ({ s with raw := x, wall := y } : State).hst = s.hst := rfl
theorem with_clock_por (s : State) (x y : Nat) : ({ s with raw := x, wall := y } : State).por = s.por := rfl

@[simp] theorem State.clock_pending (s : State) (t : Nat) : (s.clock t).pending = s.pending := with_clock_pending s _ _
@[simp] theorem State.clock_regs (s : State) (t : Nat) : (s.clock t).regs = s.regs := with_clock_regs s _ _
@[simp] theorem State.clock_pairCap (s : State) (t : Nat) : (s.clock t).pairCap = s.pairCap := with_clock_pairCap s _ _
@[simp] theorem State.clock_pairLow (s : State) (t : Nat) : (s.clock t).pairLow = s.pairLow := with_clock_pairLow s _ _
@[simp] theorem State.clock_out (s : State) (t : Nat) : (s.clock t).out = s.out := with_clock_out s _ _
@[simp] theorem State.clock_errN (s : State) (t : Nat) : (s.clock t).errN = s.errN := with_clock_errN s _ _
@[simp] theorem State.clock_ready (s : State) (t : Nat) : (s.clock t).ready = s.ready := with_clock_ready s _ _
@[simp] theorem State.clock_boots (s : State) (t : Nat) : (s.clock t).boots = s.boots := with_clock_boots s _ _
@[simp] theorem State.clock_gasp (s : State) (t : Nat) : (s.clock t).gasp = s.gasp := with_clock_gasp s _ _
@[simp] theorem State.clock_free (s : State) (t : Nat) : (s.clock t).free = s.free := with_clock_free s _ _
@[simp] theorem State.clock_act (s : State) (t : Nat) : (s.clock t).act = s.act := with_clock_act s _ _
@[simp] theorem State.clock_shd (s : State) (t : Nat) : (s.clock t).shd = s.shd := with_clock_shd s _ _
@[simp] theorem State.clock_evt (s : State) (t : Nat) : (s.clock t).evt = s.evt := with_clock_evt s _ _
@[simp] theorem State.clock_trc (s : State) (t : Nat) : (s.clock t).trc = s.trc := with_clock_trc s _ _
@[simp] theorem State.clock_tu (s : State) (t : Nat) : (s.clock t).tu = s.tu := with_clock_tu s _ _
@[simp] theorem State.clock_tke (s : State) (t : Nat) : (s.clock t).tke = s.tke := with_clock_tke s _ _
@[simp] theorem State.clock_gng (s : State) (t : Nat) : (s.clock t).gng = s.gng := with_clock_gng s _ _
@[simp] theorem State.clock_ldr (s : State) (t : Nat) : (s.clock t).ldr = s.ldr := with_clock_ldr s _ _
@[simp] theorem State.clock_fp (s : State) (t : Nat) : (s.clock t).fp = s.fp := with_clock_fp s _ _
@[simp] theorem State.clock_cst (s : State) (t : Nat) : (s.clock t).cst = s.cst := with_clock_cst s _ _
@[simp] theorem State.clock_prt (s : State) (t : Nat) : (s.clock t).prt = s.prt := with_clock_prt s _ _
@[simp] theorem State.clock_asd (s : State) (t : Nat) : (s.clock t).asd = s.asd := with_clock_asd s _ _
@[simp] theorem State.clock_sen (s : State) (t : Nat) : (s.clock t).sen = s.sen := with_clock_sen s _ _
@[simp] theorem State.clock_brg (s : State) (t : Nat) : (s.clock t).brg = s.brg := with_clock_brg s _ _
@[simp] theorem State.clock_fbs (s : State) (t : Nat) : (s.clock t).fbs = s.fbs := with_clock_fbs s _ _
@[simp] theorem State.clock_fio (s : State) (t : Nat) : (s.clock t).fio = s.fio := with_clock_fio s _ _
@[simp] theorem State.clock_cel (s : State) (t : Nat) : (s.clock t).cel = s.cel := with_clock_cel s _ _
@[simp] theorem State.clock_cfg (s : State) (t : Nat) : (s.clock t).cfg = s.cfg := with_clock_cfg s _ _
@[simp] theorem State.clock_hst (s : State) (t : Nat) : (s.clock t).hst = s.hst := with_clock_hst s _ _
@[simp] theorem State.clock_por (s : State) (t : Nat) : (s.clock t).por = s.por := with_clock_por s _ _

@[simp] theorem State.wr_pending (s : State) (r : RegDesc) (ix : List Nat) (v : BitVec 32) : (s.wr r ix v).pending = s.pending := with_regs_pending s _
@[simp] theorem State.wr_raw (s : State) (r : RegDesc) (ix : List Nat) (v : BitVec 32) : (s.wr r ix v).raw = s.raw := with_regs_raw s _
@[simp] theorem State.wr_wall (s : State) (r : RegDesc) (ix : List Nat) (v : BitVec 32) : (s.wr r ix v).wall = s.wall := with_regs_wall s _
@[simp] theorem State.wr_pairCap (s : State) (r : RegDesc) (ix : List Nat) (v : BitVec 32) : (s.wr r ix v).pairCap = s.pairCap := with_regs_pairCap s _
@[simp] theorem State.wr_pairLow (s : State) (r : RegDesc) (ix : List Nat) (v : BitVec 32) : (s.wr r ix v).pairLow = s.pairLow := with_regs_pairLow s _
@[simp] theorem State.wr_out (s : State) (r : RegDesc) (ix : List Nat) (v : BitVec 32) : (s.wr r ix v).out = s.out := with_regs_out s _
@[simp] theorem State.wr_errN (s : State) (r : RegDesc) (ix : List Nat) (v : BitVec 32) : (s.wr r ix v).errN = s.errN := with_regs_errN s _
@[simp] theorem State.wr_ready (s : State) (r : RegDesc) (ix : List Nat) (v : BitVec 32) : (s.wr r ix v).ready = s.ready := with_regs_ready s _
@[simp] theorem State.wr_boots (s : State) (r : RegDesc) (ix : List Nat) (v : BitVec 32) : (s.wr r ix v).boots = s.boots := with_regs_boots s _
@[simp] theorem State.wr_gasp (s : State) (r : RegDesc) (ix : List Nat) (v : BitVec 32) : (s.wr r ix v).gasp = s.gasp := with_regs_gasp s _
@[simp] theorem State.wr_free (s : State) (r : RegDesc) (ix : List Nat) (v : BitVec 32) : (s.wr r ix v).free = s.free := with_regs_free s _
@[simp] theorem State.wr_act (s : State) (r : RegDesc) (ix : List Nat) (v : BitVec 32) : (s.wr r ix v).act = s.act := with_regs_act s _
@[simp] theorem State.wr_shd (s : State) (r : RegDesc) (ix : List Nat) (v : BitVec 32) : (s.wr r ix v).shd = s.shd := with_regs_shd s _
@[simp] theorem State.wr_evt (s : State) (r : RegDesc) (ix : List Nat) (v : BitVec 32) : (s.wr r ix v).evt = s.evt := with_regs_evt s _
@[simp] theorem State.wr_trc (s : State) (r : RegDesc) (ix : List Nat) (v : BitVec 32) : (s.wr r ix v).trc = s.trc := with_regs_trc s _
@[simp] theorem State.wr_tu (s : State) (r : RegDesc) (ix : List Nat) (v : BitVec 32) : (s.wr r ix v).tu = s.tu := with_regs_tu s _
@[simp] theorem State.wr_tke (s : State) (r : RegDesc) (ix : List Nat) (v : BitVec 32) : (s.wr r ix v).tke = s.tke := with_regs_tke s _
@[simp] theorem State.wr_gng (s : State) (r : RegDesc) (ix : List Nat) (v : BitVec 32) : (s.wr r ix v).gng = s.gng := with_regs_gng s _
@[simp] theorem State.wr_ldr (s : State) (r : RegDesc) (ix : List Nat) (v : BitVec 32) : (s.wr r ix v).ldr = s.ldr := with_regs_ldr s _
@[simp] theorem State.wr_fp (s : State) (r : RegDesc) (ix : List Nat) (v : BitVec 32) : (s.wr r ix v).fp = s.fp := with_regs_fp s _
@[simp] theorem State.wr_cst (s : State) (r : RegDesc) (ix : List Nat) (v : BitVec 32) : (s.wr r ix v).cst = s.cst := with_regs_cst s _
@[simp] theorem State.wr_prt (s : State) (r : RegDesc) (ix : List Nat) (v : BitVec 32) : (s.wr r ix v).prt = s.prt := with_regs_prt s _
@[simp] theorem State.wr_asd (s : State) (r : RegDesc) (ix : List Nat) (v : BitVec 32) : (s.wr r ix v).asd = s.asd := with_regs_asd s _
@[simp] theorem State.wr_sen (s : State) (r : RegDesc) (ix : List Nat) (v : BitVec 32) : (s.wr r ix v).sen = s.sen := with_regs_sen s _
@[simp] theorem State.wr_brg (s : State) (r : RegDesc) (ix : List Nat) (v : BitVec 32) : (s.wr r ix v).brg = s.brg := with_regs_brg s _
@[simp] theorem State.wr_fbs (s : State) (r : RegDesc) (ix : List Nat) (v : BitVec 32) : (s.wr r ix v).fbs = s.fbs := with_regs_fbs s _
@[simp] theorem State.wr_fio (s : State) (r : RegDesc) (ix : List Nat) (v : BitVec 32) : (s.wr r ix v).fio = s.fio := with_regs_fio s _
@[simp] theorem State.wr_cel (s : State) (r : RegDesc) (ix : List Nat) (v : BitVec 32) : (s.wr r ix v).cel = s.cel := with_regs_cel s _
@[simp] theorem State.wr_cfg (s : State) (r : RegDesc) (ix : List Nat) (v : BitVec 32) : (s.wr r ix v).cfg = s.cfg := with_regs_cfg s _
@[simp] theorem State.wr_hst (s : State) (r : RegDesc) (ix : List Nat) (v : BitVec 32) : (s.wr r ix v).hst = s.hst := with_regs_hst s _
@[simp] theorem State.wr_por (s : State) (r : RegDesc) (ix : List Nat) (v : BitVec 32) : (s.wr r ix v).por = s.por := with_regs_por s _

@[simp] theorem State.sf_pending (s : State) (x : Fld) (ix : List Nat) (v : Nat) : (s.sf x ix v).pending = s.pending := State.wr_pending _ _ _ _
@[simp] theorem State.sf_raw (s : State) (x : Fld) (ix : List Nat) (v : Nat) : (s.sf x ix v).raw = s.raw := State.wr_raw _ _ _ _
@[simp] theorem State.sf_wall (s : State) (x : Fld) (ix : List Nat) (v : Nat) : (s.sf x ix v).wall = s.wall := State.wr_wall _ _ _ _
@[simp] theorem State.sf_pairCap (s : State) (x : Fld) (ix : List Nat) (v : Nat) : (s.sf x ix v).pairCap = s.pairCap := State.wr_pairCap _ _ _ _
@[simp] theorem State.sf_pairLow (s : State) (x : Fld) (ix : List Nat) (v : Nat) : (s.sf x ix v).pairLow = s.pairLow := State.wr_pairLow _ _ _ _
@[simp] theorem State.sf_out (s : State) (x : Fld) (ix : List Nat) (v : Nat) : (s.sf x ix v).out = s.out := State.wr_out _ _ _ _
@[simp] theorem State.sf_errN (s : State) (x : Fld) (ix : List Nat) (v : Nat) : (s.sf x ix v).errN = s.errN := State.wr_errN _ _ _ _
@[simp] theorem State.sf_ready (s : State) (x : Fld) (ix : List Nat) (v : Nat) : (s.sf x ix v).ready = s.ready := State.wr_ready _ _ _ _
@[simp] theorem State.sf_boots (s : State) (x : Fld) (ix : List Nat) (v : Nat) : (s.sf x ix v).boots = s.boots := State.wr_boots _ _ _ _
@[simp] theorem State.sf_gasp (s : State) (x : Fld) (ix : List Nat) (v : Nat) : (s.sf x ix v).gasp = s.gasp := State.wr_gasp _ _ _ _
@[simp] theorem State.sf_free (s : State) (x : Fld) (ix : List Nat) (v : Nat) : (s.sf x ix v).free = s.free := State.wr_free _ _ _ _
@[simp] theorem State.sf_act (s : State) (x : Fld) (ix : List Nat) (v : Nat) : (s.sf x ix v).act = s.act := State.wr_act _ _ _ _
@[simp] theorem State.sf_shd (s : State) (x : Fld) (ix : List Nat) (v : Nat) : (s.sf x ix v).shd = s.shd := State.wr_shd _ _ _ _
@[simp] theorem State.sf_evt (s : State) (x : Fld) (ix : List Nat) (v : Nat) : (s.sf x ix v).evt = s.evt := State.wr_evt _ _ _ _
@[simp] theorem State.sf_trc (s : State) (x : Fld) (ix : List Nat) (v : Nat) : (s.sf x ix v).trc = s.trc := State.wr_trc _ _ _ _
@[simp] theorem State.sf_tu (s : State) (x : Fld) (ix : List Nat) (v : Nat) : (s.sf x ix v).tu = s.tu := State.wr_tu _ _ _ _
@[simp] theorem State.sf_tke (s : State) (x : Fld) (ix : List Nat) (v : Nat) : (s.sf x ix v).tke = s.tke := State.wr_tke _ _ _ _
@[simp] theorem State.sf_gng (s : State) (x : Fld) (ix : List Nat) (v : Nat) : (s.sf x ix v).gng = s.gng := State.wr_gng _ _ _ _
@[simp] theorem State.sf_ldr (s : State) (x : Fld) (ix : List Nat) (v : Nat) : (s.sf x ix v).ldr = s.ldr := State.wr_ldr _ _ _ _
@[simp] theorem State.sf_fp (s : State) (x : Fld) (ix : List Nat) (v : Nat) : (s.sf x ix v).fp = s.fp := State.wr_fp _ _ _ _
@[simp] theorem State.sf_cst (s : State) (x : Fld) (ix : List Nat) (v : Nat) : (s.sf x ix v).cst = s.cst := State.wr_cst _ _ _ _
@[simp] theorem State.sf_prt (s : State) (x : Fld) (ix : List Nat) (v : Nat) : (s.sf x ix v).prt = s.prt := State.wr_prt _ _ _ _
@[simp] theorem State.sf_asd (s : State) (x : Fld) (ix : List Nat) (v : Nat) : (s.sf x ix v).asd = s.asd := State.wr_asd _ _ _ _
@[simp] theorem State.sf_sen (s : State) (x : Fld) (ix : List Nat) (v : Nat) : (s.sf x ix v).sen = s.sen := State.wr_sen _ _ _ _
@[simp] theorem State.sf_brg (s : State) (x : Fld) (ix : List Nat) (v : Nat) : (s.sf x ix v).brg = s.brg := State.wr_brg _ _ _ _
@[simp] theorem State.sf_fbs (s : State) (x : Fld) (ix : List Nat) (v : Nat) : (s.sf x ix v).fbs = s.fbs := State.wr_fbs _ _ _ _
@[simp] theorem State.sf_fio (s : State) (x : Fld) (ix : List Nat) (v : Nat) : (s.sf x ix v).fio = s.fio := State.wr_fio _ _ _ _
@[simp] theorem State.sf_cel (s : State) (x : Fld) (ix : List Nat) (v : Nat) : (s.sf x ix v).cel = s.cel := State.wr_cel _ _ _ _
@[simp] theorem State.sf_cfg (s : State) (x : Fld) (ix : List Nat) (v : Nat) : (s.sf x ix v).cfg = s.cfg := State.wr_cfg _ _ _ _
@[simp] theorem State.sf_hst (s : State) (x : Fld) (ix : List Nat) (v : Nat) : (s.sf x ix v).hst = s.hst := State.wr_hst _ _ _ _
@[simp] theorem State.sf_por (s : State) (x : Fld) (ix : List Nat) (v : Nat) : (s.sf x ix v).por = s.por := State.wr_por _ _ _ _

@[simp] theorem State.set0_pending (s : State) (x : Fld) (v : Nat) : (s.set0 x v).pending = s.pending := State.sf_pending _ _ _ _
@[simp] theorem State.set0_raw (s : State) (x : Fld) (v : Nat) : (s.set0 x v).raw = s.raw := State.sf_raw _ _ _ _
@[simp] theorem State.set0_wall (s : State) (x : Fld) (v : Nat) : (s.set0 x v).wall = s.wall := State.sf_wall _ _ _ _
@[simp] theorem State.set0_pairCap (s : State) (x : Fld) (v : Nat) : (s.set0 x v).pairCap = s.pairCap := State.sf_pairCap _ _ _ _
@[simp] theorem State.set0_pairLow (s : State) (x : Fld) (v : Nat) : (s.set0 x v).pairLow = s.pairLow := State.sf_pairLow _ _ _ _
@[simp] theorem State.set0_out (s : State) (x : Fld) (v : Nat) : (s.set0 x v).out = s.out := State.sf_out _ _ _ _
@[simp] theorem State.set0_errN (s : State) (x : Fld) (v : Nat) : (s.set0 x v).errN = s.errN := State.sf_errN _ _ _ _
@[simp] theorem State.set0_ready (s : State) (x : Fld) (v : Nat) : (s.set0 x v).ready = s.ready := State.sf_ready _ _ _ _
@[simp] theorem State.set0_boots (s : State) (x : Fld) (v : Nat) : (s.set0 x v).boots = s.boots := State.sf_boots _ _ _ _
@[simp] theorem State.set0_gasp (s : State) (x : Fld) (v : Nat) : (s.set0 x v).gasp = s.gasp := State.sf_gasp _ _ _ _
@[simp] theorem State.set0_free (s : State) (x : Fld) (v : Nat) : (s.set0 x v).free = s.free := State.sf_free _ _ _ _
@[simp] theorem State.set0_act (s : State) (x : Fld) (v : Nat) : (s.set0 x v).act = s.act := State.sf_act _ _ _ _
@[simp] theorem State.set0_shd (s : State) (x : Fld) (v : Nat) : (s.set0 x v).shd = s.shd := State.sf_shd _ _ _ _
@[simp] theorem State.set0_evt (s : State) (x : Fld) (v : Nat) : (s.set0 x v).evt = s.evt := State.sf_evt _ _ _ _
@[simp] theorem State.set0_trc (s : State) (x : Fld) (v : Nat) : (s.set0 x v).trc = s.trc := State.sf_trc _ _ _ _
@[simp] theorem State.set0_tu (s : State) (x : Fld) (v : Nat) : (s.set0 x v).tu = s.tu := State.sf_tu _ _ _ _
@[simp] theorem State.set0_tke (s : State) (x : Fld) (v : Nat) : (s.set0 x v).tke = s.tke := State.sf_tke _ _ _ _
@[simp] theorem State.set0_gng (s : State) (x : Fld) (v : Nat) : (s.set0 x v).gng = s.gng := State.sf_gng _ _ _ _
@[simp] theorem State.set0_ldr (s : State) (x : Fld) (v : Nat) : (s.set0 x v).ldr = s.ldr := State.sf_ldr _ _ _ _
@[simp] theorem State.set0_fp (s : State) (x : Fld) (v : Nat) : (s.set0 x v).fp = s.fp := State.sf_fp _ _ _ _
@[simp] theorem State.set0_cst (s : State) (x : Fld) (v : Nat) : (s.set0 x v).cst = s.cst := State.sf_cst _ _ _ _
@[simp] theorem State.set0_prt (s : State) (x : Fld) (v : Nat) : (s.set0 x v).prt = s.prt := State.sf_prt _ _ _ _
@[simp] theorem State.set0_asd (s : State) (x : Fld) (v : Nat) : (s.set0 x v).asd = s.asd := State.sf_asd _ _ _ _
@[simp] theorem State.set0_sen (s : State) (x : Fld) (v : Nat) : (s.set0 x v).sen = s.sen := State.sf_sen _ _ _ _
@[simp] theorem State.set0_brg (s : State) (x : Fld) (v : Nat) : (s.set0 x v).brg = s.brg := State.sf_brg _ _ _ _
@[simp] theorem State.set0_fbs (s : State) (x : Fld) (v : Nat) : (s.set0 x v).fbs = s.fbs := State.sf_fbs _ _ _ _
@[simp] theorem State.set0_fio (s : State) (x : Fld) (v : Nat) : (s.set0 x v).fio = s.fio := State.sf_fio _ _ _ _
@[simp] theorem State.set0_cel (s : State) (x : Fld) (v : Nat) : (s.set0 x v).cel = s.cel := State.sf_cel _ _ _ _
@[simp] theorem State.set0_cfg (s : State) (x : Fld) (v : Nat) : (s.set0 x v).cfg = s.cfg := State.sf_cfg _ _ _ _
@[simp] theorem State.set0_hst (s : State) (x : Fld) (v : Nat) : (s.set0 x v).hst = s.hst := State.sf_hst _ _ _ _
@[simp] theorem State.set0_por (s : State) (x : Fld) (v : Nat) : (s.set0 x v).por = s.por := State.sf_por _ _ _ _

@[simp] theorem State.wr64_pending (s : State) (l h : RegDesc) (ix : List Nat) (v : BitVec 64) : (s.wr64 l h ix v).pending = s.pending := (State.wr_pending _ _ _ _).trans (State.wr_pending _ _ _ _)
@[simp] theorem State.wr64_raw (s : State) (l h : RegDesc) (ix : List Nat) (v : BitVec 64) : (s.wr64 l h ix v).raw = s.raw := (State.wr_raw _ _ _ _).trans (State.wr_raw _ _ _ _)
@[simp] theorem State.wr64_wall (s : State) (l h : RegDesc) (ix : List Nat) (v : BitVec 64) : (s.wr64 l h ix v).wall = s.wall := (State.wr_wall _ _ _ _).trans (State.wr_wall _ _ _ _)
@[simp] theorem State.wr64_pairCap (s : State) (l h : RegDesc) (ix : List Nat) (v : BitVec 64) : (s.wr64 l h ix v).pairCap = s.pairCap := (State.wr_pairCap _ _ _ _).trans (State.wr_pairCap _ _ _ _)
@[simp] theorem State.wr64_pairLow (s : State) (l h : RegDesc) (ix : List Nat) (v : BitVec 64) : (s.wr64 l h ix v).pairLow = s.pairLow := (State.wr_pairLow _ _ _ _).trans (State.wr_pairLow _ _ _ _)
@[simp] theorem State.wr64_out (s : State) (l h : RegDesc) (ix : List Nat) (v : BitVec 64) : (s.wr64 l h ix v).out = s.out := (State.wr_out _ _ _ _).trans (State.wr_out _ _ _ _)
@[simp] theorem State.wr64_errN (s : State) (l h : RegDesc) (ix : List Nat) (v : BitVec 64) : (s.wr64 l h ix v).errN = s.errN := (State.wr_errN _ _ _ _).trans (State.wr_errN _ _ _ _)
@[simp] theorem State.wr64_ready (s : State) (l h : RegDesc) (ix : List Nat) (v : BitVec 64) : (s.wr64 l h ix v).ready = s.ready := (State.wr_ready _ _ _ _).trans (State.wr_ready _ _ _ _)
@[simp] theorem State.wr64_boots (s : State) (l h : RegDesc) (ix : List Nat) (v : BitVec 64) : (s.wr64 l h ix v).boots = s.boots := (State.wr_boots _ _ _ _).trans (State.wr_boots _ _ _ _)
@[simp] theorem State.wr64_gasp (s : State) (l h : RegDesc) (ix : List Nat) (v : BitVec 64) : (s.wr64 l h ix v).gasp = s.gasp := (State.wr_gasp _ _ _ _).trans (State.wr_gasp _ _ _ _)
@[simp] theorem State.wr64_free (s : State) (l h : RegDesc) (ix : List Nat) (v : BitVec 64) : (s.wr64 l h ix v).free = s.free := (State.wr_free _ _ _ _).trans (State.wr_free _ _ _ _)
@[simp] theorem State.wr64_act (s : State) (l h : RegDesc) (ix : List Nat) (v : BitVec 64) : (s.wr64 l h ix v).act = s.act := (State.wr_act _ _ _ _).trans (State.wr_act _ _ _ _)
@[simp] theorem State.wr64_shd (s : State) (l h : RegDesc) (ix : List Nat) (v : BitVec 64) : (s.wr64 l h ix v).shd = s.shd := (State.wr_shd _ _ _ _).trans (State.wr_shd _ _ _ _)
@[simp] theorem State.wr64_evt (s : State) (l h : RegDesc) (ix : List Nat) (v : BitVec 64) : (s.wr64 l h ix v).evt = s.evt := (State.wr_evt _ _ _ _).trans (State.wr_evt _ _ _ _)
@[simp] theorem State.wr64_trc (s : State) (l h : RegDesc) (ix : List Nat) (v : BitVec 64) : (s.wr64 l h ix v).trc = s.trc := (State.wr_trc _ _ _ _).trans (State.wr_trc _ _ _ _)
@[simp] theorem State.wr64_tu (s : State) (l h : RegDesc) (ix : List Nat) (v : BitVec 64) : (s.wr64 l h ix v).tu = s.tu := (State.wr_tu _ _ _ _).trans (State.wr_tu _ _ _ _)
@[simp] theorem State.wr64_tke (s : State) (l h : RegDesc) (ix : List Nat) (v : BitVec 64) : (s.wr64 l h ix v).tke = s.tke := (State.wr_tke _ _ _ _).trans (State.wr_tke _ _ _ _)
@[simp] theorem State.wr64_gng (s : State) (l h : RegDesc) (ix : List Nat) (v : BitVec 64) : (s.wr64 l h ix v).gng = s.gng := (State.wr_gng _ _ _ _).trans (State.wr_gng _ _ _ _)
@[simp] theorem State.wr64_ldr (s : State) (l h : RegDesc) (ix : List Nat) (v : BitVec 64) : (s.wr64 l h ix v).ldr = s.ldr := (State.wr_ldr _ _ _ _).trans (State.wr_ldr _ _ _ _)
@[simp] theorem State.wr64_fp (s : State) (l h : RegDesc) (ix : List Nat) (v : BitVec 64) : (s.wr64 l h ix v).fp = s.fp := (State.wr_fp _ _ _ _).trans (State.wr_fp _ _ _ _)
@[simp] theorem State.wr64_cst (s : State) (l h : RegDesc) (ix : List Nat) (v : BitVec 64) : (s.wr64 l h ix v).cst = s.cst := (State.wr_cst _ _ _ _).trans (State.wr_cst _ _ _ _)
@[simp] theorem State.wr64_prt (s : State) (l h : RegDesc) (ix : List Nat) (v : BitVec 64) : (s.wr64 l h ix v).prt = s.prt := (State.wr_prt _ _ _ _).trans (State.wr_prt _ _ _ _)
@[simp] theorem State.wr64_asd (s : State) (l h : RegDesc) (ix : List Nat) (v : BitVec 64) : (s.wr64 l h ix v).asd = s.asd := (State.wr_asd _ _ _ _).trans (State.wr_asd _ _ _ _)
@[simp] theorem State.wr64_sen (s : State) (l h : RegDesc) (ix : List Nat) (v : BitVec 64) : (s.wr64 l h ix v).sen = s.sen := (State.wr_sen _ _ _ _).trans (State.wr_sen _ _ _ _)
@[simp] theorem State.wr64_brg (s : State) (l h : RegDesc) (ix : List Nat) (v : BitVec 64) : (s.wr64 l h ix v).brg = s.brg := (State.wr_brg _ _ _ _).trans (State.wr_brg _ _ _ _)
@[simp] theorem State.wr64_fbs (s : State) (l h : RegDesc) (ix : List Nat) (v : BitVec 64) : (s.wr64 l h ix v).fbs = s.fbs := (State.wr_fbs _ _ _ _).trans (State.wr_fbs _ _ _ _)
@[simp] theorem State.wr64_fio (s : State) (l h : RegDesc) (ix : List Nat) (v : BitVec 64) : (s.wr64 l h ix v).fio = s.fio := (State.wr_fio _ _ _ _).trans (State.wr_fio _ _ _ _)
@[simp] theorem State.wr64_cel (s : State) (l h : RegDesc) (ix : List Nat) (v : BitVec 64) : (s.wr64 l h ix v).cel = s.cel := (State.wr_cel _ _ _ _).trans (State.wr_cel _ _ _ _)
@[simp] theorem State.wr64_cfg (s : State) (l h : RegDesc) (ix : List Nat) (v : BitVec 64) : (s.wr64 l h ix v).cfg = s.cfg := (State.wr_cfg _ _ _ _).trans (State.wr_cfg _ _ _ _)
@[simp] theorem State.wr64_hst (s : State) (l h : RegDesc) (ix : List Nat) (v : BitVec 64) : (s.wr64 l h ix v).hst = s.hst := (State.wr_hst _ _ _ _).trans (State.wr_hst _ _ _ _)
@[simp] theorem State.wr64_por (s : State) (l h : RegDesc) (ix : List Nat) (v : BitVec 64) : (s.wr64 l h ix v).por = s.por := (State.wr_por _ _ _ _).trans (State.wr_por _ _ _ _)

@[simp] theorem State.bump_pending (s : State) (r : RegDesc) (ix : List Nat) : (s.bump r ix).pending = s.pending := State.wr_pending _ _ _ _
@[simp] theorem State.bump_raw (s : State) (r : RegDesc) (ix : List Nat) : (s.bump r ix).raw = s.raw := State.wr_raw _ _ _ _
@[simp] theorem State.bump_wall (s : State) (r : RegDesc) (ix : List Nat) : (s.bump r ix).wall = s.wall := State.wr_wall _ _ _ _
@[simp] theorem State.bump_pairCap (s : State) (r : RegDesc) (ix : List Nat) : (s.bump r ix).pairCap = s.pairCap := State.wr_pairCap _ _ _ _
@[simp] theorem State.bump_pairLow (s : State) (r : RegDesc) (ix : List Nat) : (s.bump r ix).pairLow = s.pairLow := State.wr_pairLow _ _ _ _
@[simp] theorem State.bump_out (s : State) (r : RegDesc) (ix : List Nat) : (s.bump r ix).out = s.out := State.wr_out _ _ _ _
@[simp] theorem State.bump_errN (s : State) (r : RegDesc) (ix : List Nat) : (s.bump r ix).errN = s.errN := State.wr_errN _ _ _ _
@[simp] theorem State.bump_ready (s : State) (r : RegDesc) (ix : List Nat) : (s.bump r ix).ready = s.ready := State.wr_ready _ _ _ _
@[simp] theorem State.bump_boots (s : State) (r : RegDesc) (ix : List Nat) : (s.bump r ix).boots = s.boots := State.wr_boots _ _ _ _
@[simp] theorem State.bump_gasp (s : State) (r : RegDesc) (ix : List Nat) : (s.bump r ix).gasp = s.gasp := State.wr_gasp _ _ _ _
@[simp] theorem State.bump_free (s : State) (r : RegDesc) (ix : List Nat) : (s.bump r ix).free = s.free := State.wr_free _ _ _ _
@[simp] theorem State.bump_act (s : State) (r : RegDesc) (ix : List Nat) : (s.bump r ix).act = s.act := State.wr_act _ _ _ _
@[simp] theorem State.bump_shd (s : State) (r : RegDesc) (ix : List Nat) : (s.bump r ix).shd = s.shd := State.wr_shd _ _ _ _
@[simp] theorem State.bump_evt (s : State) (r : RegDesc) (ix : List Nat) : (s.bump r ix).evt = s.evt := State.wr_evt _ _ _ _
@[simp] theorem State.bump_trc (s : State) (r : RegDesc) (ix : List Nat) : (s.bump r ix).trc = s.trc := State.wr_trc _ _ _ _
@[simp] theorem State.bump_tu (s : State) (r : RegDesc) (ix : List Nat) : (s.bump r ix).tu = s.tu := State.wr_tu _ _ _ _
@[simp] theorem State.bump_tke (s : State) (r : RegDesc) (ix : List Nat) : (s.bump r ix).tke = s.tke := State.wr_tke _ _ _ _
@[simp] theorem State.bump_gng (s : State) (r : RegDesc) (ix : List Nat) : (s.bump r ix).gng = s.gng := State.wr_gng _ _ _ _
@[simp] theorem State.bump_ldr (s : State) (r : RegDesc) (ix : List Nat) : (s.bump r ix).ldr = s.ldr := State.wr_ldr _ _ _ _
@[simp] theorem State.bump_fp (s : State) (r : RegDesc) (ix : List Nat) : (s.bump r ix).fp = s.fp := State.wr_fp _ _ _ _
@[simp] theorem State.bump_cst (s : State) (r : RegDesc) (ix : List Nat) : (s.bump r ix).cst = s.cst := State.wr_cst _ _ _ _
@[simp] theorem State.bump_prt (s : State) (r : RegDesc) (ix : List Nat) : (s.bump r ix).prt = s.prt := State.wr_prt _ _ _ _
@[simp] theorem State.bump_asd (s : State) (r : RegDesc) (ix : List Nat) : (s.bump r ix).asd = s.asd := State.wr_asd _ _ _ _
@[simp] theorem State.bump_sen (s : State) (r : RegDesc) (ix : List Nat) : (s.bump r ix).sen = s.sen := State.wr_sen _ _ _ _
@[simp] theorem State.bump_brg (s : State) (r : RegDesc) (ix : List Nat) : (s.bump r ix).brg = s.brg := State.wr_brg _ _ _ _
@[simp] theorem State.bump_fbs (s : State) (r : RegDesc) (ix : List Nat) : (s.bump r ix).fbs = s.fbs := State.wr_fbs _ _ _ _
@[simp] theorem State.bump_fio (s : State) (r : RegDesc) (ix : List Nat) : (s.bump r ix).fio = s.fio := State.wr_fio _ _ _ _
@[simp] theorem State.bump_cel (s : State) (r : RegDesc) (ix : List Nat) : (s.bump r ix).cel = s.cel := State.wr_cel _ _ _ _
@[simp] theorem State.bump_cfg (s : State) (r : RegDesc) (ix : List Nat) : (s.bump r ix).cfg = s.cfg := State.wr_cfg _ _ _ _
@[simp] theorem State.bump_hst (s : State) (r : RegDesc) (ix : List Nat) : (s.bump r ix).hst = s.hst := State.wr_hst _ _ _ _
@[simp] theorem State.bump_por (s : State) (r : RegDesc) (ix : List Nat) : (s.bump r ix).por = s.por := State.wr_por _ _ _ _

@[simp] theorem State.bumpBy_pending (s : State) (r : RegDesc) (ix : List Nat) (n : Nat) : (s.bumpBy r ix n).pending = s.pending := State.wr_pending _ _ _ _
@[simp] theorem State.bumpBy_raw (s : State) (r : RegDesc) (ix : List Nat) (n : Nat) : (s.bumpBy r ix n).raw = s.raw := State.wr_raw _ _ _ _
@[simp] theorem State.bumpBy_wall (s : State) (r : RegDesc) (ix : List Nat) (n : Nat) : (s.bumpBy r ix n).wall = s.wall := State.wr_wall _ _ _ _
@[simp] theorem State.bumpBy_pairCap (s : State) (r : RegDesc) (ix : List Nat) (n : Nat) : (s.bumpBy r ix n).pairCap = s.pairCap := State.wr_pairCap _ _ _ _
@[simp] theorem State.bumpBy_pairLow (s : State) (r : RegDesc) (ix : List Nat) (n : Nat) : (s.bumpBy r ix n).pairLow = s.pairLow := State.wr_pairLow _ _ _ _
@[simp] theorem State.bumpBy_out (s : State) (r : RegDesc) (ix : List Nat) (n : Nat) : (s.bumpBy r ix n).out = s.out := State.wr_out _ _ _ _
@[simp] theorem State.bumpBy_errN (s : State) (r : RegDesc) (ix : List Nat) (n : Nat) : (s.bumpBy r ix n).errN = s.errN := State.wr_errN _ _ _ _
@[simp] theorem State.bumpBy_ready (s : State) (r : RegDesc) (ix : List Nat) (n : Nat) : (s.bumpBy r ix n).ready = s.ready := State.wr_ready _ _ _ _
@[simp] theorem State.bumpBy_boots (s : State) (r : RegDesc) (ix : List Nat) (n : Nat) : (s.bumpBy r ix n).boots = s.boots := State.wr_boots _ _ _ _
@[simp] theorem State.bumpBy_gasp (s : State) (r : RegDesc) (ix : List Nat) (n : Nat) : (s.bumpBy r ix n).gasp = s.gasp := State.wr_gasp _ _ _ _
@[simp] theorem State.bumpBy_free (s : State) (r : RegDesc) (ix : List Nat) (n : Nat) : (s.bumpBy r ix n).free = s.free := State.wr_free _ _ _ _
@[simp] theorem State.bumpBy_act (s : State) (r : RegDesc) (ix : List Nat) (n : Nat) : (s.bumpBy r ix n).act = s.act := State.wr_act _ _ _ _
@[simp] theorem State.bumpBy_shd (s : State) (r : RegDesc) (ix : List Nat) (n : Nat) : (s.bumpBy r ix n).shd = s.shd := State.wr_shd _ _ _ _
@[simp] theorem State.bumpBy_evt (s : State) (r : RegDesc) (ix : List Nat) (n : Nat) : (s.bumpBy r ix n).evt = s.evt := State.wr_evt _ _ _ _
@[simp] theorem State.bumpBy_trc (s : State) (r : RegDesc) (ix : List Nat) (n : Nat) : (s.bumpBy r ix n).trc = s.trc := State.wr_trc _ _ _ _
@[simp] theorem State.bumpBy_tu (s : State) (r : RegDesc) (ix : List Nat) (n : Nat) : (s.bumpBy r ix n).tu = s.tu := State.wr_tu _ _ _ _
@[simp] theorem State.bumpBy_tke (s : State) (r : RegDesc) (ix : List Nat) (n : Nat) : (s.bumpBy r ix n).tke = s.tke := State.wr_tke _ _ _ _
@[simp] theorem State.bumpBy_gng (s : State) (r : RegDesc) (ix : List Nat) (n : Nat) : (s.bumpBy r ix n).gng = s.gng := State.wr_gng _ _ _ _
@[simp] theorem State.bumpBy_ldr (s : State) (r : RegDesc) (ix : List Nat) (n : Nat) : (s.bumpBy r ix n).ldr = s.ldr := State.wr_ldr _ _ _ _
@[simp] theorem State.bumpBy_fp (s : State) (r : RegDesc) (ix : List Nat) (n : Nat) : (s.bumpBy r ix n).fp = s.fp := State.wr_fp _ _ _ _
@[simp] theorem State.bumpBy_cst (s : State) (r : RegDesc) (ix : List Nat) (n : Nat) : (s.bumpBy r ix n).cst = s.cst := State.wr_cst _ _ _ _
@[simp] theorem State.bumpBy_prt (s : State) (r : RegDesc) (ix : List Nat) (n : Nat) : (s.bumpBy r ix n).prt = s.prt := State.wr_prt _ _ _ _
@[simp] theorem State.bumpBy_asd (s : State) (r : RegDesc) (ix : List Nat) (n : Nat) : (s.bumpBy r ix n).asd = s.asd := State.wr_asd _ _ _ _
@[simp] theorem State.bumpBy_sen (s : State) (r : RegDesc) (ix : List Nat) (n : Nat) : (s.bumpBy r ix n).sen = s.sen := State.wr_sen _ _ _ _
@[simp] theorem State.bumpBy_brg (s : State) (r : RegDesc) (ix : List Nat) (n : Nat) : (s.bumpBy r ix n).brg = s.brg := State.wr_brg _ _ _ _
@[simp] theorem State.bumpBy_fbs (s : State) (r : RegDesc) (ix : List Nat) (n : Nat) : (s.bumpBy r ix n).fbs = s.fbs := State.wr_fbs _ _ _ _
@[simp] theorem State.bumpBy_fio (s : State) (r : RegDesc) (ix : List Nat) (n : Nat) : (s.bumpBy r ix n).fio = s.fio := State.wr_fio _ _ _ _
@[simp] theorem State.bumpBy_cel (s : State) (r : RegDesc) (ix : List Nat) (n : Nat) : (s.bumpBy r ix n).cel = s.cel := State.wr_cel _ _ _ _
@[simp] theorem State.bumpBy_cfg (s : State) (r : RegDesc) (ix : List Nat) (n : Nat) : (s.bumpBy r ix n).cfg = s.cfg := State.wr_cfg _ _ _ _
@[simp] theorem State.bumpBy_hst (s : State) (r : RegDesc) (ix : List Nat) (n : Nat) : (s.bumpBy r ix n).hst = s.hst := State.wr_hst _ _ _ _
@[simp] theorem State.bumpBy_por (s : State) (r : RegDesc) (ix : List Nat) (n : Nat) : (s.bumpBy r ix n).por = s.por := State.wr_por _ _ _ _

@[simp] theorem State.wrapW_pending (s : State) (r : RegDesc) (ix : List Nat) : (s.wrapW r ix).pending = s.pending := State.wr_pending _ _ _ _
@[simp] theorem State.wrapW_raw (s : State) (r : RegDesc) (ix : List Nat) : (s.wrapW r ix).raw = s.raw := State.wr_raw _ _ _ _
@[simp] theorem State.wrapW_wall (s : State) (r : RegDesc) (ix : List Nat) : (s.wrapW r ix).wall = s.wall := State.wr_wall _ _ _ _
@[simp] theorem State.wrapW_pairCap (s : State) (r : RegDesc) (ix : List Nat) : (s.wrapW r ix).pairCap = s.pairCap := State.wr_pairCap _ _ _ _
@[simp] theorem State.wrapW_pairLow (s : State) (r : RegDesc) (ix : List Nat) : (s.wrapW r ix).pairLow = s.pairLow := State.wr_pairLow _ _ _ _
@[simp] theorem State.wrapW_out (s : State) (r : RegDesc) (ix : List Nat) : (s.wrapW r ix).out = s.out := State.wr_out _ _ _ _
@[simp] theorem State.wrapW_errN (s : State) (r : RegDesc) (ix : List Nat) : (s.wrapW r ix).errN = s.errN := State.wr_errN _ _ _ _
@[simp] theorem State.wrapW_ready (s : State) (r : RegDesc) (ix : List Nat) : (s.wrapW r ix).ready = s.ready := State.wr_ready _ _ _ _
@[simp] theorem State.wrapW_boots (s : State) (r : RegDesc) (ix : List Nat) : (s.wrapW r ix).boots = s.boots := State.wr_boots _ _ _ _
@[simp] theorem State.wrapW_gasp (s : State) (r : RegDesc) (ix : List Nat) : (s.wrapW r ix).gasp = s.gasp := State.wr_gasp _ _ _ _
@[simp] theorem State.wrapW_free (s : State) (r : RegDesc) (ix : List Nat) : (s.wrapW r ix).free = s.free := State.wr_free _ _ _ _
@[simp] theorem State.wrapW_act (s : State) (r : RegDesc) (ix : List Nat) : (s.wrapW r ix).act = s.act := State.wr_act _ _ _ _
@[simp] theorem State.wrapW_shd (s : State) (r : RegDesc) (ix : List Nat) : (s.wrapW r ix).shd = s.shd := State.wr_shd _ _ _ _
@[simp] theorem State.wrapW_evt (s : State) (r : RegDesc) (ix : List Nat) : (s.wrapW r ix).evt = s.evt := State.wr_evt _ _ _ _
@[simp] theorem State.wrapW_trc (s : State) (r : RegDesc) (ix : List Nat) : (s.wrapW r ix).trc = s.trc := State.wr_trc _ _ _ _
@[simp] theorem State.wrapW_tu (s : State) (r : RegDesc) (ix : List Nat) : (s.wrapW r ix).tu = s.tu := State.wr_tu _ _ _ _
@[simp] theorem State.wrapW_tke (s : State) (r : RegDesc) (ix : List Nat) : (s.wrapW r ix).tke = s.tke := State.wr_tke _ _ _ _
@[simp] theorem State.wrapW_gng (s : State) (r : RegDesc) (ix : List Nat) : (s.wrapW r ix).gng = s.gng := State.wr_gng _ _ _ _
@[simp] theorem State.wrapW_ldr (s : State) (r : RegDesc) (ix : List Nat) : (s.wrapW r ix).ldr = s.ldr := State.wr_ldr _ _ _ _
@[simp] theorem State.wrapW_fp (s : State) (r : RegDesc) (ix : List Nat) : (s.wrapW r ix).fp = s.fp := State.wr_fp _ _ _ _
@[simp] theorem State.wrapW_cst (s : State) (r : RegDesc) (ix : List Nat) : (s.wrapW r ix).cst = s.cst := State.wr_cst _ _ _ _
@[simp] theorem State.wrapW_prt (s : State) (r : RegDesc) (ix : List Nat) : (s.wrapW r ix).prt = s.prt := State.wr_prt _ _ _ _
@[simp] theorem State.wrapW_asd (s : State) (r : RegDesc) (ix : List Nat) : (s.wrapW r ix).asd = s.asd := State.wr_asd _ _ _ _
@[simp] theorem State.wrapW_sen (s : State) (r : RegDesc) (ix : List Nat) : (s.wrapW r ix).sen = s.sen := State.wr_sen _ _ _ _
@[simp] theorem State.wrapW_brg (s : State) (r : RegDesc) (ix : List Nat) : (s.wrapW r ix).brg = s.brg := State.wr_brg _ _ _ _
@[simp] theorem State.wrapW_fbs (s : State) (r : RegDesc) (ix : List Nat) : (s.wrapW r ix).fbs = s.fbs := State.wr_fbs _ _ _ _
@[simp] theorem State.wrapW_fio (s : State) (r : RegDesc) (ix : List Nat) : (s.wrapW r ix).fio = s.fio := State.wr_fio _ _ _ _
@[simp] theorem State.wrapW_cel (s : State) (r : RegDesc) (ix : List Nat) : (s.wrapW r ix).cel = s.cel := State.wr_cel _ _ _ _
@[simp] theorem State.wrapW_cfg (s : State) (r : RegDesc) (ix : List Nat) : (s.wrapW r ix).cfg = s.cfg := State.wr_cfg _ _ _ _
@[simp] theorem State.wrapW_hst (s : State) (r : RegDesc) (ix : List Nat) : (s.wrapW r ix).hst = s.hst := State.wr_hst _ _ _ _
@[simp] theorem State.wrapW_por (s : State) (r : RegDesc) (ix : List Nat) : (s.wrapW r ix).por = s.por := State.wr_por _ _ _ _

@[simp] theorem State.bumpF_pending (s : State) (x : Fld) (ix : List Nat) : (s.bumpF x ix).pending = s.pending := State.sf_pending _ _ _ _
@[simp] theorem State.bumpF_raw (s : State) (x : Fld) (ix : List Nat) : (s.bumpF x ix).raw = s.raw := State.sf_raw _ _ _ _
@[simp] theorem State.bumpF_wall (s : State) (x : Fld) (ix : List Nat) : (s.bumpF x ix).wall = s.wall := State.sf_wall _ _ _ _
@[simp] theorem State.bumpF_pairCap (s : State) (x : Fld) (ix : List Nat) : (s.bumpF x ix).pairCap = s.pairCap := State.sf_pairCap _ _ _ _
@[simp] theorem State.bumpF_pairLow (s : State) (x : Fld) (ix : List Nat) : (s.bumpF x ix).pairLow = s.pairLow := State.sf_pairLow _ _ _ _
@[simp] theorem State.bumpF_out (s : State) (x : Fld) (ix : List Nat) : (s.bumpF x ix).out = s.out := State.sf_out _ _ _ _
@[simp] theorem State.bumpF_errN (s : State) (x : Fld) (ix : List Nat) : (s.bumpF x ix).errN = s.errN := State.sf_errN _ _ _ _
@[simp] theorem State.bumpF_ready (s : State) (x : Fld) (ix : List Nat) : (s.bumpF x ix).ready = s.ready := State.sf_ready _ _ _ _
@[simp] theorem State.bumpF_boots (s : State) (x : Fld) (ix : List Nat) : (s.bumpF x ix).boots = s.boots := State.sf_boots _ _ _ _
@[simp] theorem State.bumpF_gasp (s : State) (x : Fld) (ix : List Nat) : (s.bumpF x ix).gasp = s.gasp := State.sf_gasp _ _ _ _
@[simp] theorem State.bumpF_free (s : State) (x : Fld) (ix : List Nat) : (s.bumpF x ix).free = s.free := State.sf_free _ _ _ _
@[simp] theorem State.bumpF_act (s : State) (x : Fld) (ix : List Nat) : (s.bumpF x ix).act = s.act := State.sf_act _ _ _ _
@[simp] theorem State.bumpF_shd (s : State) (x : Fld) (ix : List Nat) : (s.bumpF x ix).shd = s.shd := State.sf_shd _ _ _ _
@[simp] theorem State.bumpF_evt (s : State) (x : Fld) (ix : List Nat) : (s.bumpF x ix).evt = s.evt := State.sf_evt _ _ _ _
@[simp] theorem State.bumpF_trc (s : State) (x : Fld) (ix : List Nat) : (s.bumpF x ix).trc = s.trc := State.sf_trc _ _ _ _
@[simp] theorem State.bumpF_tu (s : State) (x : Fld) (ix : List Nat) : (s.bumpF x ix).tu = s.tu := State.sf_tu _ _ _ _
@[simp] theorem State.bumpF_tke (s : State) (x : Fld) (ix : List Nat) : (s.bumpF x ix).tke = s.tke := State.sf_tke _ _ _ _
@[simp] theorem State.bumpF_gng (s : State) (x : Fld) (ix : List Nat) : (s.bumpF x ix).gng = s.gng := State.sf_gng _ _ _ _
@[simp] theorem State.bumpF_ldr (s : State) (x : Fld) (ix : List Nat) : (s.bumpF x ix).ldr = s.ldr := State.sf_ldr _ _ _ _
@[simp] theorem State.bumpF_fp (s : State) (x : Fld) (ix : List Nat) : (s.bumpF x ix).fp = s.fp := State.sf_fp _ _ _ _
@[simp] theorem State.bumpF_cst (s : State) (x : Fld) (ix : List Nat) : (s.bumpF x ix).cst = s.cst := State.sf_cst _ _ _ _
@[simp] theorem State.bumpF_prt (s : State) (x : Fld) (ix : List Nat) : (s.bumpF x ix).prt = s.prt := State.sf_prt _ _ _ _
@[simp] theorem State.bumpF_asd (s : State) (x : Fld) (ix : List Nat) : (s.bumpF x ix).asd = s.asd := State.sf_asd _ _ _ _
@[simp] theorem State.bumpF_sen (s : State) (x : Fld) (ix : List Nat) : (s.bumpF x ix).sen = s.sen := State.sf_sen _ _ _ _
@[simp] theorem State.bumpF_brg (s : State) (x : Fld) (ix : List Nat) : (s.bumpF x ix).brg = s.brg := State.sf_brg _ _ _ _
@[simp] theorem State.bumpF_fbs (s : State) (x : Fld) (ix : List Nat) : (s.bumpF x ix).fbs = s.fbs := State.sf_fbs _ _ _ _
@[simp] theorem State.bumpF_fio (s : State) (x : Fld) (ix : List Nat) : (s.bumpF x ix).fio = s.fio := State.sf_fio _ _ _ _
@[simp] theorem State.bumpF_cel (s : State) (x : Fld) (ix : List Nat) : (s.bumpF x ix).cel = s.cel := State.sf_cel _ _ _ _
@[simp] theorem State.bumpF_cfg (s : State) (x : Fld) (ix : List Nat) : (s.bumpF x ix).cfg = s.cfg := State.sf_cfg _ _ _ _
@[simp] theorem State.bumpF_hst (s : State) (x : Fld) (ix : List Nat) : (s.bumpF x ix).hst = s.hst := State.sf_hst _ _ _ _
@[simp] theorem State.bumpF_por (s : State) (x : Fld) (ix : List Nat) : (s.bumpF x ix).por = s.por := State.sf_por _ _ _ _

@[simp] theorem State.wrapF_pending (s : State) (x : Fld) (ix : List Nat) : (s.wrapF x ix).pending = s.pending := State.sf_pending _ _ _ _
@[simp] theorem State.wrapF_raw (s : State) (x : Fld) (ix : List Nat) : (s.wrapF x ix).raw = s.raw := State.sf_raw _ _ _ _
@[simp] theorem State.wrapF_wall (s : State) (x : Fld) (ix : List Nat) : (s.wrapF x ix).wall = s.wall := State.sf_wall _ _ _ _
@[simp] theorem State.wrapF_pairCap (s : State) (x : Fld) (ix : List Nat) : (s.wrapF x ix).pairCap = s.pairCap := State.sf_pairCap _ _ _ _
@[simp] theorem State.wrapF_pairLow (s : State) (x : Fld) (ix : List Nat) : (s.wrapF x ix).pairLow = s.pairLow := State.sf_pairLow _ _ _ _
@[simp] theorem State.wrapF_out (s : State) (x : Fld) (ix : List Nat) : (s.wrapF x ix).out = s.out := State.sf_out _ _ _ _
@[simp] theorem State.wrapF_errN (s : State) (x : Fld) (ix : List Nat) : (s.wrapF x ix).errN = s.errN := State.sf_errN _ _ _ _
@[simp] theorem State.wrapF_ready (s : State) (x : Fld) (ix : List Nat) : (s.wrapF x ix).ready = s.ready := State.sf_ready _ _ _ _
@[simp] theorem State.wrapF_boots (s : State) (x : Fld) (ix : List Nat) : (s.wrapF x ix).boots = s.boots := State.sf_boots _ _ _ _
@[simp] theorem State.wrapF_gasp (s : State) (x : Fld) (ix : List Nat) : (s.wrapF x ix).gasp = s.gasp := State.sf_gasp _ _ _ _
@[simp] theorem State.wrapF_free (s : State) (x : Fld) (ix : List Nat) : (s.wrapF x ix).free = s.free := State.sf_free _ _ _ _
@[simp] theorem State.wrapF_act (s : State) (x : Fld) (ix : List Nat) : (s.wrapF x ix).act = s.act := State.sf_act _ _ _ _
@[simp] theorem State.wrapF_shd (s : State) (x : Fld) (ix : List Nat) : (s.wrapF x ix).shd = s.shd := State.sf_shd _ _ _ _
@[simp] theorem State.wrapF_evt (s : State) (x : Fld) (ix : List Nat) : (s.wrapF x ix).evt = s.evt := State.sf_evt _ _ _ _
@[simp] theorem State.wrapF_trc (s : State) (x : Fld) (ix : List Nat) : (s.wrapF x ix).trc = s.trc := State.sf_trc _ _ _ _
@[simp] theorem State.wrapF_tu (s : State) (x : Fld) (ix : List Nat) : (s.wrapF x ix).tu = s.tu := State.sf_tu _ _ _ _
@[simp] theorem State.wrapF_tke (s : State) (x : Fld) (ix : List Nat) : (s.wrapF x ix).tke = s.tke := State.sf_tke _ _ _ _
@[simp] theorem State.wrapF_gng (s : State) (x : Fld) (ix : List Nat) : (s.wrapF x ix).gng = s.gng := State.sf_gng _ _ _ _
@[simp] theorem State.wrapF_ldr (s : State) (x : Fld) (ix : List Nat) : (s.wrapF x ix).ldr = s.ldr := State.sf_ldr _ _ _ _
@[simp] theorem State.wrapF_fp (s : State) (x : Fld) (ix : List Nat) : (s.wrapF x ix).fp = s.fp := State.sf_fp _ _ _ _
@[simp] theorem State.wrapF_cst (s : State) (x : Fld) (ix : List Nat) : (s.wrapF x ix).cst = s.cst := State.sf_cst _ _ _ _
@[simp] theorem State.wrapF_prt (s : State) (x : Fld) (ix : List Nat) : (s.wrapF x ix).prt = s.prt := State.sf_prt _ _ _ _
@[simp] theorem State.wrapF_asd (s : State) (x : Fld) (ix : List Nat) : (s.wrapF x ix).asd = s.asd := State.sf_asd _ _ _ _
@[simp] theorem State.wrapF_sen (s : State) (x : Fld) (ix : List Nat) : (s.wrapF x ix).sen = s.sen := State.sf_sen _ _ _ _
@[simp] theorem State.wrapF_brg (s : State) (x : Fld) (ix : List Nat) : (s.wrapF x ix).brg = s.brg := State.sf_brg _ _ _ _
@[simp] theorem State.wrapF_fbs (s : State) (x : Fld) (ix : List Nat) : (s.wrapF x ix).fbs = s.fbs := State.sf_fbs _ _ _ _
@[simp] theorem State.wrapF_fio (s : State) (x : Fld) (ix : List Nat) : (s.wrapF x ix).fio = s.fio := State.sf_fio _ _ _ _
@[simp] theorem State.wrapF_cel (s : State) (x : Fld) (ix : List Nat) : (s.wrapF x ix).cel = s.cel := State.sf_cel _ _ _ _
@[simp] theorem State.wrapF_cfg (s : State) (x : Fld) (ix : List Nat) : (s.wrapF x ix).cfg = s.cfg := State.sf_cfg _ _ _ _
@[simp] theorem State.wrapF_hst (s : State) (x : Fld) (ix : List Nat) : (s.wrapF x ix).hst = s.hst := State.sf_hst _ _ _ _
@[simp] theorem State.wrapF_por (s : State) (x : Fld) (ix : List Nat) : (s.wrapF x ix).por = s.por := State.sf_por _ _ _ _

@[simp] theorem State.peakF_pending (s : State) (x : Fld) (ix : List Nat) (v : Nat) : (s.peakF x ix v).pending = s.pending := State.sf_pending _ _ _ _
@[simp] theorem State.peakF_raw (s : State) (x : Fld) (ix : List Nat) (v : Nat) : (s.peakF x ix v).raw = s.raw := State.sf_raw _ _ _ _
@[simp] theorem State.peakF_wall (s : State) (x : Fld) (ix : List Nat) (v : Nat) : (s.peakF x ix v).wall = s.wall := State.sf_wall _ _ _ _
@[simp] theorem State.peakF_pairCap (s : State) (x : Fld) (ix : List Nat) (v : Nat) : (s.peakF x ix v).pairCap = s.pairCap := State.sf_pairCap _ _ _ _
@[simp] theorem State.peakF_pairLow (s : State) (x : Fld) (ix : List Nat) (v : Nat) : (s.peakF x ix v).pairLow = s.pairLow := State.sf_pairLow _ _ _ _
@[simp] theorem State.peakF_out (s : State) (x : Fld) (ix : List Nat) (v : Nat) : (s.peakF x ix v).out = s.out := State.sf_out _ _ _ _
@[simp] theorem State.peakF_errN (s : State) (x : Fld) (ix : List Nat) (v : Nat) : (s.peakF x ix v).errN = s.errN := State.sf_errN _ _ _ _
@[simp] theorem State.peakF_ready (s : State) (x : Fld) (ix : List Nat) (v : Nat) : (s.peakF x ix v).ready = s.ready := State.sf_ready _ _ _ _
@[simp] theorem State.peakF_boots (s : State) (x : Fld) (ix : List Nat) (v : Nat) : (s.peakF x ix v).boots = s.boots := State.sf_boots _ _ _ _
@[simp] theorem State.peakF_gasp (s : State) (x : Fld) (ix : List Nat) (v : Nat) : (s.peakF x ix v).gasp = s.gasp := State.sf_gasp _ _ _ _
@[simp] theorem State.peakF_free (s : State) (x : Fld) (ix : List Nat) (v : Nat) : (s.peakF x ix v).free = s.free := State.sf_free _ _ _ _
@[simp] theorem State.peakF_act (s : State) (x : Fld) (ix : List Nat) (v : Nat) : (s.peakF x ix v).act = s.act := State.sf_act _ _ _ _
@[simp] theorem State.peakF_shd (s : State) (x : Fld) (ix : List Nat) (v : Nat) : (s.peakF x ix v).shd = s.shd := State.sf_shd _ _ _ _
@[simp] theorem State.peakF_evt (s : State) (x : Fld) (ix : List Nat) (v : Nat) : (s.peakF x ix v).evt = s.evt := State.sf_evt _ _ _ _
@[simp] theorem State.peakF_trc (s : State) (x : Fld) (ix : List Nat) (v : Nat) : (s.peakF x ix v).trc = s.trc := State.sf_trc _ _ _ _
@[simp] theorem State.peakF_tu (s : State) (x : Fld) (ix : List Nat) (v : Nat) : (s.peakF x ix v).tu = s.tu := State.sf_tu _ _ _ _
@[simp] theorem State.peakF_tke (s : State) (x : Fld) (ix : List Nat) (v : Nat) : (s.peakF x ix v).tke = s.tke := State.sf_tke _ _ _ _
@[simp] theorem State.peakF_gng (s : State) (x : Fld) (ix : List Nat) (v : Nat) : (s.peakF x ix v).gng = s.gng := State.sf_gng _ _ _ _
@[simp] theorem State.peakF_ldr (s : State) (x : Fld) (ix : List Nat) (v : Nat) : (s.peakF x ix v).ldr = s.ldr := State.sf_ldr _ _ _ _
@[simp] theorem State.peakF_fp (s : State) (x : Fld) (ix : List Nat) (v : Nat) : (s.peakF x ix v).fp = s.fp := State.sf_fp _ _ _ _
@[simp] theorem State.peakF_cst (s : State) (x : Fld) (ix : List Nat) (v : Nat) : (s.peakF x ix v).cst = s.cst := State.sf_cst _ _ _ _
@[simp] theorem State.peakF_prt (s : State) (x : Fld) (ix : List Nat) (v : Nat) : (s.peakF x ix v).prt = s.prt := State.sf_prt _ _ _ _
@[simp] theorem State.peakF_asd (s : State) (x : Fld) (ix : List Nat) (v : Nat) : (s.peakF x ix v).asd = s.asd := State.sf_asd _ _ _ _
@[simp] theorem State.peakF_sen (s : State) (x : Fld) (ix : List Nat) (v : Nat) : (s.peakF x ix v).sen = s.sen := State.sf_sen _ _ _ _
@[simp] theorem State.peakF_brg (s : State) (x : Fld) (ix : List Nat) (v : Nat) : (s.peakF x ix v).brg = s.brg := State.sf_brg _ _ _ _
@[simp] theorem State.peakF_fbs (s : State) (x : Fld) (ix : List Nat) (v : Nat) : (s.peakF x ix v).fbs = s.fbs := State.sf_fbs _ _ _ _
@[simp] theorem State.peakF_fio (s : State) (x : Fld) (ix : List Nat) (v : Nat) : (s.peakF x ix v).fio = s.fio := State.sf_fio _ _ _ _
@[simp] theorem State.peakF_cel (s : State) (x : Fld) (ix : List Nat) (v : Nat) : (s.peakF x ix v).cel = s.cel := State.sf_cel _ _ _ _
@[simp] theorem State.peakF_cfg (s : State) (x : Fld) (ix : List Nat) (v : Nat) : (s.peakF x ix v).cfg = s.cfg := State.sf_cfg _ _ _ _
@[simp] theorem State.peakF_hst (s : State) (x : Fld) (ix : List Nat) (v : Nat) : (s.peakF x ix v).hst = s.hst := State.sf_hst _ _ _ _
@[simp] theorem State.peakF_por (s : State) (x : Fld) (ix : List Nat) (v : Nat) : (s.peakF x ix v).por = s.por := State.sf_por _ _ _ _

@[simp] theorem State.bump64_pending (s : State) (l h : RegDesc) (ix : List Nat) (n : Nat) : (s.bump64 l h ix n).pending = s.pending := State.wr64_pending _ _ _ _ _
@[simp] theorem State.bump64_raw (s : State) (l h : RegDesc) (ix : List Nat) (n : Nat) : (s.bump64 l h ix n).raw = s.raw := State.wr64_raw _ _ _ _ _
@[simp] theorem State.bump64_wall (s : State) (l h : RegDesc) (ix : List Nat) (n : Nat) : (s.bump64 l h ix n).wall = s.wall := State.wr64_wall _ _ _ _ _
@[simp] theorem State.bump64_pairCap (s : State) (l h : RegDesc) (ix : List Nat) (n : Nat) : (s.bump64 l h ix n).pairCap = s.pairCap := State.wr64_pairCap _ _ _ _ _
@[simp] theorem State.bump64_pairLow (s : State) (l h : RegDesc) (ix : List Nat) (n : Nat) : (s.bump64 l h ix n).pairLow = s.pairLow := State.wr64_pairLow _ _ _ _ _
@[simp] theorem State.bump64_out (s : State) (l h : RegDesc) (ix : List Nat) (n : Nat) : (s.bump64 l h ix n).out = s.out := State.wr64_out _ _ _ _ _
@[simp] theorem State.bump64_errN (s : State) (l h : RegDesc) (ix : List Nat) (n : Nat) : (s.bump64 l h ix n).errN = s.errN := State.wr64_errN _ _ _ _ _
@[simp] theorem State.bump64_ready (s : State) (l h : RegDesc) (ix : List Nat) (n : Nat) : (s.bump64 l h ix n).ready = s.ready := State.wr64_ready _ _ _ _ _
@[simp] theorem State.bump64_boots (s : State) (l h : RegDesc) (ix : List Nat) (n : Nat) : (s.bump64 l h ix n).boots = s.boots := State.wr64_boots _ _ _ _ _
@[simp] theorem State.bump64_gasp (s : State) (l h : RegDesc) (ix : List Nat) (n : Nat) : (s.bump64 l h ix n).gasp = s.gasp := State.wr64_gasp _ _ _ _ _
@[simp] theorem State.bump64_free (s : State) (l h : RegDesc) (ix : List Nat) (n : Nat) : (s.bump64 l h ix n).free = s.free := State.wr64_free _ _ _ _ _
@[simp] theorem State.bump64_act (s : State) (l h : RegDesc) (ix : List Nat) (n : Nat) : (s.bump64 l h ix n).act = s.act := State.wr64_act _ _ _ _ _
@[simp] theorem State.bump64_shd (s : State) (l h : RegDesc) (ix : List Nat) (n : Nat) : (s.bump64 l h ix n).shd = s.shd := State.wr64_shd _ _ _ _ _
@[simp] theorem State.bump64_evt (s : State) (l h : RegDesc) (ix : List Nat) (n : Nat) : (s.bump64 l h ix n).evt = s.evt := State.wr64_evt _ _ _ _ _
@[simp] theorem State.bump64_trc (s : State) (l h : RegDesc) (ix : List Nat) (n : Nat) : (s.bump64 l h ix n).trc = s.trc := State.wr64_trc _ _ _ _ _
@[simp] theorem State.bump64_tu (s : State) (l h : RegDesc) (ix : List Nat) (n : Nat) : (s.bump64 l h ix n).tu = s.tu := State.wr64_tu _ _ _ _ _
@[simp] theorem State.bump64_tke (s : State) (l h : RegDesc) (ix : List Nat) (n : Nat) : (s.bump64 l h ix n).tke = s.tke := State.wr64_tke _ _ _ _ _
@[simp] theorem State.bump64_gng (s : State) (l h : RegDesc) (ix : List Nat) (n : Nat) : (s.bump64 l h ix n).gng = s.gng := State.wr64_gng _ _ _ _ _
@[simp] theorem State.bump64_ldr (s : State) (l h : RegDesc) (ix : List Nat) (n : Nat) : (s.bump64 l h ix n).ldr = s.ldr := State.wr64_ldr _ _ _ _ _
@[simp] theorem State.bump64_fp (s : State) (l h : RegDesc) (ix : List Nat) (n : Nat) : (s.bump64 l h ix n).fp = s.fp := State.wr64_fp _ _ _ _ _
@[simp] theorem State.bump64_cst (s : State) (l h : RegDesc) (ix : List Nat) (n : Nat) : (s.bump64 l h ix n).cst = s.cst := State.wr64_cst _ _ _ _ _
@[simp] theorem State.bump64_prt (s : State) (l h : RegDesc) (ix : List Nat) (n : Nat) : (s.bump64 l h ix n).prt = s.prt := State.wr64_prt _ _ _ _ _
@[simp] theorem State.bump64_asd (s : State) (l h : RegDesc) (ix : List Nat) (n : Nat) : (s.bump64 l h ix n).asd = s.asd := State.wr64_asd _ _ _ _ _
@[simp] theorem State.bump64_sen (s : State) (l h : RegDesc) (ix : List Nat) (n : Nat) : (s.bump64 l h ix n).sen = s.sen := State.wr64_sen _ _ _ _ _
@[simp] theorem State.bump64_brg (s : State) (l h : RegDesc) (ix : List Nat) (n : Nat) : (s.bump64 l h ix n).brg = s.brg := State.wr64_brg _ _ _ _ _
@[simp] theorem State.bump64_fbs (s : State) (l h : RegDesc) (ix : List Nat) (n : Nat) : (s.bump64 l h ix n).fbs = s.fbs := State.wr64_fbs _ _ _ _ _
@[simp] theorem State.bump64_fio (s : State) (l h : RegDesc) (ix : List Nat) (n : Nat) : (s.bump64 l h ix n).fio = s.fio := State.wr64_fio _ _ _ _ _
@[simp] theorem State.bump64_cel (s : State) (l h : RegDesc) (ix : List Nat) (n : Nat) : (s.bump64 l h ix n).cel = s.cel := State.wr64_cel _ _ _ _ _
@[simp] theorem State.bump64_cfg (s : State) (l h : RegDesc) (ix : List Nat) (n : Nat) : (s.bump64 l h ix n).cfg = s.cfg := State.wr64_cfg _ _ _ _ _
@[simp] theorem State.bump64_hst (s : State) (l h : RegDesc) (ix : List Nat) (n : Nat) : (s.bump64 l h ix n).hst = s.hst := State.wr64_hst _ _ _ _ _
@[simp] theorem State.bump64_por (s : State) (l h : RegDesc) (ix : List Nat) (n : Nat) : (s.bump64 l h ix n).por = s.por := State.wr64_por _ _ _ _ _

@[simp] theorem State.emit_pending (s : State) (o : Output) : (s.emit o).pending = s.pending := with_out_pending s _
@[simp] theorem State.emit_raw (s : State) (o : Output) : (s.emit o).raw = s.raw := with_out_raw s _
@[simp] theorem State.emit_wall (s : State) (o : Output) : (s.emit o).wall = s.wall := with_out_wall s _
@[simp] theorem State.emit_regs (s : State) (o : Output) : (s.emit o).regs = s.regs := with_out_regs s _
@[simp] theorem State.emit_pairCap (s : State) (o : Output) : (s.emit o).pairCap = s.pairCap := with_out_pairCap s _
@[simp] theorem State.emit_pairLow (s : State) (o : Output) : (s.emit o).pairLow = s.pairLow := with_out_pairLow s _
@[simp] theorem State.emit_errN (s : State) (o : Output) : (s.emit o).errN = s.errN := with_out_errN s _
@[simp] theorem State.emit_ready (s : State) (o : Output) : (s.emit o).ready = s.ready := with_out_ready s _
@[simp] theorem State.emit_boots (s : State) (o : Output) : (s.emit o).boots = s.boots := with_out_boots s _
@[simp] theorem State.emit_gasp (s : State) (o : Output) : (s.emit o).gasp = s.gasp := with_out_gasp s _
@[simp] theorem State.emit_free (s : State) (o : Output) : (s.emit o).free = s.free := with_out_free s _
@[simp] theorem State.emit_act (s : State) (o : Output) : (s.emit o).act = s.act := with_out_act s _
@[simp] theorem State.emit_shd (s : State) (o : Output) : (s.emit o).shd = s.shd := with_out_shd s _
@[simp] theorem State.emit_evt (s : State) (o : Output) : (s.emit o).evt = s.evt := with_out_evt s _
@[simp] theorem State.emit_trc (s : State) (o : Output) : (s.emit o).trc = s.trc := with_out_trc s _
@[simp] theorem State.emit_tu (s : State) (o : Output) : (s.emit o).tu = s.tu := with_out_tu s _
@[simp] theorem State.emit_tke (s : State) (o : Output) : (s.emit o).tke = s.tke := with_out_tke s _
@[simp] theorem State.emit_gng (s : State) (o : Output) : (s.emit o).gng = s.gng := with_out_gng s _
@[simp] theorem State.emit_ldr (s : State) (o : Output) : (s.emit o).ldr = s.ldr := with_out_ldr s _
@[simp] theorem State.emit_fp (s : State) (o : Output) : (s.emit o).fp = s.fp := with_out_fp s _
@[simp] theorem State.emit_cst (s : State) (o : Output) : (s.emit o).cst = s.cst := with_out_cst s _
@[simp] theorem State.emit_prt (s : State) (o : Output) : (s.emit o).prt = s.prt := with_out_prt s _
@[simp] theorem State.emit_asd (s : State) (o : Output) : (s.emit o).asd = s.asd := with_out_asd s _
@[simp] theorem State.emit_sen (s : State) (o : Output) : (s.emit o).sen = s.sen := with_out_sen s _
@[simp] theorem State.emit_brg (s : State) (o : Output) : (s.emit o).brg = s.brg := with_out_brg s _
@[simp] theorem State.emit_fbs (s : State) (o : Output) : (s.emit o).fbs = s.fbs := with_out_fbs s _
@[simp] theorem State.emit_fio (s : State) (o : Output) : (s.emit o).fio = s.fio := with_out_fio s _
@[simp] theorem State.emit_cel (s : State) (o : Output) : (s.emit o).cel = s.cel := with_out_cel s _
@[simp] theorem State.emit_cfg (s : State) (o : Output) : (s.emit o).cfg = s.cfg := with_out_cfg s _
@[simp] theorem State.emit_hst (s : State) (o : Output) : (s.emit o).hst = s.hst := with_out_hst s _
@[simp] theorem State.emit_por (s : State) (o : Output) : (s.emit o).por = s.por := with_out_por s _

@[simp] theorem State.qualify_pending (s : State) : (s.qualify).pending = s.pending := with_por_pending s _
@[simp] theorem State.qualify_raw (s : State) : (s.qualify).raw = s.raw := with_por_raw s _
@[simp] theorem State.qualify_wall (s : State) : (s.qualify).wall = s.wall := with_por_wall s _
@[simp] theorem State.qualify_regs (s : State) : (s.qualify).regs = s.regs := with_por_regs s _
@[simp] theorem State.qualify_pairCap (s : State) : (s.qualify).pairCap = s.pairCap := with_por_pairCap s _
@[simp] theorem State.qualify_pairLow (s : State) : (s.qualify).pairLow = s.pairLow := with_por_pairLow s _
@[simp] theorem State.qualify_out (s : State) : (s.qualify).out = s.out := with_por_out s _
@[simp] theorem State.qualify_errN (s : State) : (s.qualify).errN = s.errN := with_por_errN s _
@[simp] theorem State.qualify_ready (s : State) : (s.qualify).ready = s.ready := with_por_ready s _
@[simp] theorem State.qualify_boots (s : State) : (s.qualify).boots = s.boots := with_por_boots s _
@[simp] theorem State.qualify_gasp (s : State) : (s.qualify).gasp = s.gasp := with_por_gasp s _
@[simp] theorem State.qualify_free (s : State) : (s.qualify).free = s.free := with_por_free s _
@[simp] theorem State.qualify_act (s : State) : (s.qualify).act = s.act := with_por_act s _
@[simp] theorem State.qualify_shd (s : State) : (s.qualify).shd = s.shd := with_por_shd s _
@[simp] theorem State.qualify_evt (s : State) : (s.qualify).evt = s.evt := with_por_evt s _
@[simp] theorem State.qualify_trc (s : State) : (s.qualify).trc = s.trc := with_por_trc s _
@[simp] theorem State.qualify_tu (s : State) : (s.qualify).tu = s.tu := with_por_tu s _
@[simp] theorem State.qualify_tke (s : State) : (s.qualify).tke = s.tke := with_por_tke s _
@[simp] theorem State.qualify_gng (s : State) : (s.qualify).gng = s.gng := with_por_gng s _
@[simp] theorem State.qualify_ldr (s : State) : (s.qualify).ldr = s.ldr := with_por_ldr s _
@[simp] theorem State.qualify_fp (s : State) : (s.qualify).fp = s.fp := with_por_fp s _
@[simp] theorem State.qualify_cst (s : State) : (s.qualify).cst = s.cst := with_por_cst s _
@[simp] theorem State.qualify_prt (s : State) : (s.qualify).prt = s.prt := with_por_prt s _
@[simp] theorem State.qualify_asd (s : State) : (s.qualify).asd = s.asd := with_por_asd s _
@[simp] theorem State.qualify_sen (s : State) : (s.qualify).sen = s.sen := with_por_sen s _
@[simp] theorem State.qualify_brg (s : State) : (s.qualify).brg = s.brg := with_por_brg s _
@[simp] theorem State.qualify_fbs (s : State) : (s.qualify).fbs = s.fbs := with_por_fbs s _
@[simp] theorem State.qualify_fio (s : State) : (s.qualify).fio = s.fio := with_por_fio s _
@[simp] theorem State.qualify_cel (s : State) : (s.qualify).cel = s.cel := with_por_cel s _
@[simp] theorem State.qualify_cfg (s : State) : (s.qualify).cfg = s.cfg := with_por_cfg s _
@[simp] theorem State.qualify_hst (s : State) : (s.qualify).hst = s.hst := with_por_hst s _

@[simp] theorem State.capture_pending (s : State) (p : Party) (a : Nat) (v : BitVec 32) : (s.capture p a v).pending = s.pending := with_pairCap_pending s _
@[simp] theorem State.capture_raw (s : State) (p : Party) (a : Nat) (v : BitVec 32) : (s.capture p a v).raw = s.raw := with_pairCap_raw s _
@[simp] theorem State.capture_wall (s : State) (p : Party) (a : Nat) (v : BitVec 32) : (s.capture p a v).wall = s.wall := with_pairCap_wall s _
@[simp] theorem State.capture_regs (s : State) (p : Party) (a : Nat) (v : BitVec 32) : (s.capture p a v).regs = s.regs := with_pairCap_regs s _
@[simp] theorem State.capture_pairLow (s : State) (p : Party) (a : Nat) (v : BitVec 32) : (s.capture p a v).pairLow = s.pairLow := with_pairCap_pairLow s _
@[simp] theorem State.capture_out (s : State) (p : Party) (a : Nat) (v : BitVec 32) : (s.capture p a v).out = s.out := with_pairCap_out s _
@[simp] theorem State.capture_errN (s : State) (p : Party) (a : Nat) (v : BitVec 32) : (s.capture p a v).errN = s.errN := with_pairCap_errN s _
@[simp] theorem State.capture_ready (s : State) (p : Party) (a : Nat) (v : BitVec 32) : (s.capture p a v).ready = s.ready := with_pairCap_ready s _
@[simp] theorem State.capture_boots (s : State) (p : Party) (a : Nat) (v : BitVec 32) : (s.capture p a v).boots = s.boots := with_pairCap_boots s _
@[simp] theorem State.capture_gasp (s : State) (p : Party) (a : Nat) (v : BitVec 32) : (s.capture p a v).gasp = s.gasp := with_pairCap_gasp s _
@[simp] theorem State.capture_free (s : State) (p : Party) (a : Nat) (v : BitVec 32) : (s.capture p a v).free = s.free := with_pairCap_free s _
@[simp] theorem State.capture_act (s : State) (p : Party) (a : Nat) (v : BitVec 32) : (s.capture p a v).act = s.act := with_pairCap_act s _
@[simp] theorem State.capture_shd (s : State) (p : Party) (a : Nat) (v : BitVec 32) : (s.capture p a v).shd = s.shd := with_pairCap_shd s _
@[simp] theorem State.capture_evt (s : State) (p : Party) (a : Nat) (v : BitVec 32) : (s.capture p a v).evt = s.evt := with_pairCap_evt s _
@[simp] theorem State.capture_trc (s : State) (p : Party) (a : Nat) (v : BitVec 32) : (s.capture p a v).trc = s.trc := with_pairCap_trc s _
@[simp] theorem State.capture_tu (s : State) (p : Party) (a : Nat) (v : BitVec 32) : (s.capture p a v).tu = s.tu := with_pairCap_tu s _
@[simp] theorem State.capture_tke (s : State) (p : Party) (a : Nat) (v : BitVec 32) : (s.capture p a v).tke = s.tke := with_pairCap_tke s _
@[simp] theorem State.capture_gng (s : State) (p : Party) (a : Nat) (v : BitVec 32) : (s.capture p a v).gng = s.gng := with_pairCap_gng s _
@[simp] theorem State.capture_ldr (s : State) (p : Party) (a : Nat) (v : BitVec 32) : (s.capture p a v).ldr = s.ldr := with_pairCap_ldr s _
@[simp] theorem State.capture_fp (s : State) (p : Party) (a : Nat) (v : BitVec 32) : (s.capture p a v).fp = s.fp := with_pairCap_fp s _
@[simp] theorem State.capture_cst (s : State) (p : Party) (a : Nat) (v : BitVec 32) : (s.capture p a v).cst = s.cst := with_pairCap_cst s _
@[simp] theorem State.capture_prt (s : State) (p : Party) (a : Nat) (v : BitVec 32) : (s.capture p a v).prt = s.prt := with_pairCap_prt s _
@[simp] theorem State.capture_asd (s : State) (p : Party) (a : Nat) (v : BitVec 32) : (s.capture p a v).asd = s.asd := with_pairCap_asd s _
@[simp] theorem State.capture_sen (s : State) (p : Party) (a : Nat) (v : BitVec 32) : (s.capture p a v).sen = s.sen := with_pairCap_sen s _
@[simp] theorem State.capture_brg (s : State) (p : Party) (a : Nat) (v : BitVec 32) : (s.capture p a v).brg = s.brg := with_pairCap_brg s _
@[simp] theorem State.capture_fbs (s : State) (p : Party) (a : Nat) (v : BitVec 32) : (s.capture p a v).fbs = s.fbs := with_pairCap_fbs s _
@[simp] theorem State.capture_fio (s : State) (p : Party) (a : Nat) (v : BitVec 32) : (s.capture p a v).fio = s.fio := with_pairCap_fio s _
@[simp] theorem State.capture_cel (s : State) (p : Party) (a : Nat) (v : BitVec 32) : (s.capture p a v).cel = s.cel := with_pairCap_cel s _
@[simp] theorem State.capture_cfg (s : State) (p : Party) (a : Nat) (v : BitVec 32) : (s.capture p a v).cfg = s.cfg := with_pairCap_cfg s _
@[simp] theorem State.capture_hst (s : State) (p : Party) (a : Nat) (v : BitVec 32) : (s.capture p a v).hst = s.hst := with_pairCap_hst s _
@[simp] theorem State.capture_por (s : State) (p : Party) (a : Nat) (v : BitVec 32) : (s.capture p a v).por = s.por := with_pairCap_por s _

@[simp] theorem State.dropCapture_pending (s : State) (p : Party) (a : Nat) : (s.dropCapture p a).pending = s.pending := with_pairCap_pending s _
@[simp] theorem State.dropCapture_raw (s : State) (p : Party) (a : Nat) : (s.dropCapture p a).raw = s.raw := with_pairCap_raw s _
@[simp] theorem State.dropCapture_wall (s : State) (p : Party) (a : Nat) : (s.dropCapture p a).wall = s.wall := with_pairCap_wall s _
@[simp] theorem State.dropCapture_regs (s : State) (p : Party) (a : Nat) : (s.dropCapture p a).regs = s.regs := with_pairCap_regs s _
@[simp] theorem State.dropCapture_pairLow (s : State) (p : Party) (a : Nat) : (s.dropCapture p a).pairLow = s.pairLow := with_pairCap_pairLow s _
@[simp] theorem State.dropCapture_out (s : State) (p : Party) (a : Nat) : (s.dropCapture p a).out = s.out := with_pairCap_out s _
@[simp] theorem State.dropCapture_errN (s : State) (p : Party) (a : Nat) : (s.dropCapture p a).errN = s.errN := with_pairCap_errN s _
@[simp] theorem State.dropCapture_ready (s : State) (p : Party) (a : Nat) : (s.dropCapture p a).ready = s.ready := with_pairCap_ready s _
@[simp] theorem State.dropCapture_boots (s : State) (p : Party) (a : Nat) : (s.dropCapture p a).boots = s.boots := with_pairCap_boots s _
@[simp] theorem State.dropCapture_gasp (s : State) (p : Party) (a : Nat) : (s.dropCapture p a).gasp = s.gasp := with_pairCap_gasp s _
@[simp] theorem State.dropCapture_free (s : State) (p : Party) (a : Nat) : (s.dropCapture p a).free = s.free := with_pairCap_free s _
@[simp] theorem State.dropCapture_act (s : State) (p : Party) (a : Nat) : (s.dropCapture p a).act = s.act := with_pairCap_act s _
@[simp] theorem State.dropCapture_shd (s : State) (p : Party) (a : Nat) : (s.dropCapture p a).shd = s.shd := with_pairCap_shd s _
@[simp] theorem State.dropCapture_evt (s : State) (p : Party) (a : Nat) : (s.dropCapture p a).evt = s.evt := with_pairCap_evt s _
@[simp] theorem State.dropCapture_trc (s : State) (p : Party) (a : Nat) : (s.dropCapture p a).trc = s.trc := with_pairCap_trc s _
@[simp] theorem State.dropCapture_tu (s : State) (p : Party) (a : Nat) : (s.dropCapture p a).tu = s.tu := with_pairCap_tu s _
@[simp] theorem State.dropCapture_tke (s : State) (p : Party) (a : Nat) : (s.dropCapture p a).tke = s.tke := with_pairCap_tke s _
@[simp] theorem State.dropCapture_gng (s : State) (p : Party) (a : Nat) : (s.dropCapture p a).gng = s.gng := with_pairCap_gng s _
@[simp] theorem State.dropCapture_ldr (s : State) (p : Party) (a : Nat) : (s.dropCapture p a).ldr = s.ldr := with_pairCap_ldr s _
@[simp] theorem State.dropCapture_fp (s : State) (p : Party) (a : Nat) : (s.dropCapture p a).fp = s.fp := with_pairCap_fp s _
@[simp] theorem State.dropCapture_cst (s : State) (p : Party) (a : Nat) : (s.dropCapture p a).cst = s.cst := with_pairCap_cst s _
@[simp] theorem State.dropCapture_prt (s : State) (p : Party) (a : Nat) : (s.dropCapture p a).prt = s.prt := with_pairCap_prt s _
@[simp] theorem State.dropCapture_asd (s : State) (p : Party) (a : Nat) : (s.dropCapture p a).asd = s.asd := with_pairCap_asd s _
@[simp] theorem State.dropCapture_sen (s : State) (p : Party) (a : Nat) : (s.dropCapture p a).sen = s.sen := with_pairCap_sen s _
@[simp] theorem State.dropCapture_brg (s : State) (p : Party) (a : Nat) : (s.dropCapture p a).brg = s.brg := with_pairCap_brg s _
@[simp] theorem State.dropCapture_fbs (s : State) (p : Party) (a : Nat) : (s.dropCapture p a).fbs = s.fbs := with_pairCap_fbs s _
@[simp] theorem State.dropCapture_fio (s : State) (p : Party) (a : Nat) : (s.dropCapture p a).fio = s.fio := with_pairCap_fio s _
@[simp] theorem State.dropCapture_cel (s : State) (p : Party) (a : Nat) : (s.dropCapture p a).cel = s.cel := with_pairCap_cel s _
@[simp] theorem State.dropCapture_cfg (s : State) (p : Party) (a : Nat) : (s.dropCapture p a).cfg = s.cfg := with_pairCap_cfg s _
@[simp] theorem State.dropCapture_hst (s : State) (p : Party) (a : Nat) : (s.dropCapture p a).hst = s.hst := with_pairCap_hst s _
@[simp] theorem State.dropCapture_por (s : State) (p : Party) (a : Nat) : (s.dropCapture p a).por = s.por := with_pairCap_por s _

@[simp] theorem State.strobeNow_pending (s : State) : (s.strobeNow).pending = s.pending := with_tu_pending s _
@[simp] theorem State.strobeNow_raw (s : State) : (s.strobeNow).raw = s.raw := with_tu_raw s _
@[simp] theorem State.strobeNow_wall (s : State) : (s.strobeNow).wall = s.wall := with_tu_wall s _
@[simp] theorem State.strobeNow_regs (s : State) : (s.strobeNow).regs = s.regs := with_tu_regs s _
@[simp] theorem State.strobeNow_pairCap (s : State) : (s.strobeNow).pairCap = s.pairCap := with_tu_pairCap s _
@[simp] theorem State.strobeNow_pairLow (s : State) : (s.strobeNow).pairLow = s.pairLow := with_tu_pairLow s _
@[simp] theorem State.strobeNow_out (s : State) : (s.strobeNow).out = s.out := with_tu_out s _
@[simp] theorem State.strobeNow_errN (s : State) : (s.strobeNow).errN = s.errN := with_tu_errN s _
@[simp] theorem State.strobeNow_ready (s : State) : (s.strobeNow).ready = s.ready := with_tu_ready s _
@[simp] theorem State.strobeNow_boots (s : State) : (s.strobeNow).boots = s.boots := with_tu_boots s _
@[simp] theorem State.strobeNow_gasp (s : State) : (s.strobeNow).gasp = s.gasp := with_tu_gasp s _
@[simp] theorem State.strobeNow_free (s : State) : (s.strobeNow).free = s.free := with_tu_free s _
@[simp] theorem State.strobeNow_act (s : State) : (s.strobeNow).act = s.act := with_tu_act s _
@[simp] theorem State.strobeNow_shd (s : State) : (s.strobeNow).shd = s.shd := with_tu_shd s _
@[simp] theorem State.strobeNow_evt (s : State) : (s.strobeNow).evt = s.evt := with_tu_evt s _
@[simp] theorem State.strobeNow_trc (s : State) : (s.strobeNow).trc = s.trc := with_tu_trc s _
@[simp] theorem State.strobeNow_tke (s : State) : (s.strobeNow).tke = s.tke := with_tu_tke s _
@[simp] theorem State.strobeNow_gng (s : State) : (s.strobeNow).gng = s.gng := with_tu_gng s _
@[simp] theorem State.strobeNow_ldr (s : State) : (s.strobeNow).ldr = s.ldr := with_tu_ldr s _
@[simp] theorem State.strobeNow_fp (s : State) : (s.strobeNow).fp = s.fp := with_tu_fp s _
@[simp] theorem State.strobeNow_cst (s : State) : (s.strobeNow).cst = s.cst := with_tu_cst s _
@[simp] theorem State.strobeNow_prt (s : State) : (s.strobeNow).prt = s.prt := with_tu_prt s _
@[simp] theorem State.strobeNow_asd (s : State) : (s.strobeNow).asd = s.asd := with_tu_asd s _
@[simp] theorem State.strobeNow_sen (s : State) : (s.strobeNow).sen = s.sen := with_tu_sen s _
@[simp] theorem State.strobeNow_brg (s : State) : (s.strobeNow).brg = s.brg := with_tu_brg s _
@[simp] theorem State.strobeNow_fbs (s : State) : (s.strobeNow).fbs = s.fbs := with_tu_fbs s _
@[simp] theorem State.strobeNow_fio (s : State) : (s.strobeNow).fio = s.fio := with_tu_fio s _
@[simp] theorem State.strobeNow_cel (s : State) : (s.strobeNow).cel = s.cel := with_tu_cel s _
@[simp] theorem State.strobeNow_cfg (s : State) : (s.strobeNow).cfg = s.cfg := with_tu_cfg s _
@[simp] theorem State.strobeNow_hst (s : State) : (s.strobeNow).hst = s.hst := with_tu_hst s _
@[simp] theorem State.strobeNow_por (s : State) : (s.strobeNow).por = s.por := with_tu_por s _

@[simp] theorem State.setChan_pending (s : State) (c : Nat) (v : VChan) : (s.setChan c v).pending = s.pending := with_tke_pending s _
@[simp] theorem State.setChan_raw (s : State) (c : Nat) (v : VChan) : (s.setChan c v).raw = s.raw := with_tke_raw s _
@[simp] theorem State.setChan_wall (s : State) (c : Nat) (v : VChan) : (s.setChan c v).wall = s.wall := with_tke_wall s _
@[simp] theorem State.setChan_regs (s : State) (c : Nat) (v : VChan) : (s.setChan c v).regs = s.regs := with_tke_regs s _
@[simp] theorem State.setChan_pairCap (s : State) (c : Nat) (v : VChan) : (s.setChan c v).pairCap = s.pairCap := with_tke_pairCap s _
@[simp] theorem State.setChan_pairLow (s : State) (c : Nat) (v : VChan) : (s.setChan c v).pairLow = s.pairLow := with_tke_pairLow s _
@[simp] theorem State.setChan_out (s : State) (c : Nat) (v : VChan) : (s.setChan c v).out = s.out := with_tke_out s _
@[simp] theorem State.setChan_errN (s : State) (c : Nat) (v : VChan) : (s.setChan c v).errN = s.errN := with_tke_errN s _
@[simp] theorem State.setChan_ready (s : State) (c : Nat) (v : VChan) : (s.setChan c v).ready = s.ready := with_tke_ready s _
@[simp] theorem State.setChan_boots (s : State) (c : Nat) (v : VChan) : (s.setChan c v).boots = s.boots := with_tke_boots s _
@[simp] theorem State.setChan_gasp (s : State) (c : Nat) (v : VChan) : (s.setChan c v).gasp = s.gasp := with_tke_gasp s _
@[simp] theorem State.setChan_free (s : State) (c : Nat) (v : VChan) : (s.setChan c v).free = s.free := with_tke_free s _
@[simp] theorem State.setChan_act (s : State) (c : Nat) (v : VChan) : (s.setChan c v).act = s.act := with_tke_act s _
@[simp] theorem State.setChan_shd (s : State) (c : Nat) (v : VChan) : (s.setChan c v).shd = s.shd := with_tke_shd s _
@[simp] theorem State.setChan_evt (s : State) (c : Nat) (v : VChan) : (s.setChan c v).evt = s.evt := with_tke_evt s _
@[simp] theorem State.setChan_trc (s : State) (c : Nat) (v : VChan) : (s.setChan c v).trc = s.trc := with_tke_trc s _
@[simp] theorem State.setChan_tu (s : State) (c : Nat) (v : VChan) : (s.setChan c v).tu = s.tu := with_tke_tu s _
@[simp] theorem State.setChan_gng (s : State) (c : Nat) (v : VChan) : (s.setChan c v).gng = s.gng := with_tke_gng s _
@[simp] theorem State.setChan_ldr (s : State) (c : Nat) (v : VChan) : (s.setChan c v).ldr = s.ldr := with_tke_ldr s _
@[simp] theorem State.setChan_fp (s : State) (c : Nat) (v : VChan) : (s.setChan c v).fp = s.fp := with_tke_fp s _
@[simp] theorem State.setChan_cst (s : State) (c : Nat) (v : VChan) : (s.setChan c v).cst = s.cst := with_tke_cst s _
@[simp] theorem State.setChan_prt (s : State) (c : Nat) (v : VChan) : (s.setChan c v).prt = s.prt := with_tke_prt s _
@[simp] theorem State.setChan_asd (s : State) (c : Nat) (v : VChan) : (s.setChan c v).asd = s.asd := with_tke_asd s _
@[simp] theorem State.setChan_sen (s : State) (c : Nat) (v : VChan) : (s.setChan c v).sen = s.sen := with_tke_sen s _
@[simp] theorem State.setChan_brg (s : State) (c : Nat) (v : VChan) : (s.setChan c v).brg = s.brg := with_tke_brg s _
@[simp] theorem State.setChan_fbs (s : State) (c : Nat) (v : VChan) : (s.setChan c v).fbs = s.fbs := with_tke_fbs s _
@[simp] theorem State.setChan_fio (s : State) (c : Nat) (v : VChan) : (s.setChan c v).fio = s.fio := with_tke_fio s _
@[simp] theorem State.setChan_cel (s : State) (c : Nat) (v : VChan) : (s.setChan c v).cel = s.cel := with_tke_cel s _
@[simp] theorem State.setChan_cfg (s : State) (c : Nat) (v : VChan) : (s.setChan c v).cfg = s.cfg := with_tke_cfg s _
@[simp] theorem State.setChan_hst (s : State) (c : Nat) (v : VChan) : (s.setChan c v).hst = s.hst := with_tke_hst s _
@[simp] theorem State.setChan_por (s : State) (c : Nat) (v : VChan) : (s.setChan c v).por = s.por := with_tke_por s _

@[simp] theorem State.setFb_pending (s : State) (n : Nat) (x : Fb) : (s.setFb n x).pending = s.pending := with_fbs_pending s _
@[simp] theorem State.setFb_raw (s : State) (n : Nat) (x : Fb) : (s.setFb n x).raw = s.raw := with_fbs_raw s _
@[simp] theorem State.setFb_wall (s : State) (n : Nat) (x : Fb) : (s.setFb n x).wall = s.wall := with_fbs_wall s _
@[simp] theorem State.setFb_regs (s : State) (n : Nat) (x : Fb) : (s.setFb n x).regs = s.regs := with_fbs_regs s _
@[simp] theorem State.setFb_pairCap (s : State) (n : Nat) (x : Fb) : (s.setFb n x).pairCap = s.pairCap := with_fbs_pairCap s _
@[simp] theorem State.setFb_pairLow (s : State) (n : Nat) (x : Fb) : (s.setFb n x).pairLow = s.pairLow := with_fbs_pairLow s _
@[simp] theorem State.setFb_out (s : State) (n : Nat) (x : Fb) : (s.setFb n x).out = s.out := with_fbs_out s _
@[simp] theorem State.setFb_errN (s : State) (n : Nat) (x : Fb) : (s.setFb n x).errN = s.errN := with_fbs_errN s _
@[simp] theorem State.setFb_ready (s : State) (n : Nat) (x : Fb) : (s.setFb n x).ready = s.ready := with_fbs_ready s _
@[simp] theorem State.setFb_boots (s : State) (n : Nat) (x : Fb) : (s.setFb n x).boots = s.boots := with_fbs_boots s _
@[simp] theorem State.setFb_gasp (s : State) (n : Nat) (x : Fb) : (s.setFb n x).gasp = s.gasp := with_fbs_gasp s _
@[simp] theorem State.setFb_free (s : State) (n : Nat) (x : Fb) : (s.setFb n x).free = s.free := with_fbs_free s _
@[simp] theorem State.setFb_act (s : State) (n : Nat) (x : Fb) : (s.setFb n x).act = s.act := with_fbs_act s _
@[simp] theorem State.setFb_shd (s : State) (n : Nat) (x : Fb) : (s.setFb n x).shd = s.shd := with_fbs_shd s _
@[simp] theorem State.setFb_evt (s : State) (n : Nat) (x : Fb) : (s.setFb n x).evt = s.evt := with_fbs_evt s _
@[simp] theorem State.setFb_trc (s : State) (n : Nat) (x : Fb) : (s.setFb n x).trc = s.trc := with_fbs_trc s _
@[simp] theorem State.setFb_tu (s : State) (n : Nat) (x : Fb) : (s.setFb n x).tu = s.tu := with_fbs_tu s _
@[simp] theorem State.setFb_tke (s : State) (n : Nat) (x : Fb) : (s.setFb n x).tke = s.tke := with_fbs_tke s _
@[simp] theorem State.setFb_gng (s : State) (n : Nat) (x : Fb) : (s.setFb n x).gng = s.gng := with_fbs_gng s _
@[simp] theorem State.setFb_ldr (s : State) (n : Nat) (x : Fb) : (s.setFb n x).ldr = s.ldr := with_fbs_ldr s _
@[simp] theorem State.setFb_fp (s : State) (n : Nat) (x : Fb) : (s.setFb n x).fp = s.fp := with_fbs_fp s _
@[simp] theorem State.setFb_cst (s : State) (n : Nat) (x : Fb) : (s.setFb n x).cst = s.cst := with_fbs_cst s _
@[simp] theorem State.setFb_prt (s : State) (n : Nat) (x : Fb) : (s.setFb n x).prt = s.prt := with_fbs_prt s _
@[simp] theorem State.setFb_asd (s : State) (n : Nat) (x : Fb) : (s.setFb n x).asd = s.asd := with_fbs_asd s _
@[simp] theorem State.setFb_sen (s : State) (n : Nat) (x : Fb) : (s.setFb n x).sen = s.sen := with_fbs_sen s _
@[simp] theorem State.setFb_brg (s : State) (n : Nat) (x : Fb) : (s.setFb n x).brg = s.brg := with_fbs_brg s _
@[simp] theorem State.setFb_fio (s : State) (n : Nat) (x : Fb) : (s.setFb n x).fio = s.fio := with_fbs_fio s _
@[simp] theorem State.setFb_cel (s : State) (n : Nat) (x : Fb) : (s.setFb n x).cel = s.cel := with_fbs_cel s _
@[simp] theorem State.setFb_cfg (s : State) (n : Nat) (x : Fb) : (s.setFb n x).cfg = s.cfg := with_fbs_cfg s _
@[simp] theorem State.setFb_hst (s : State) (n : Nat) (x : Fb) : (s.setFb n x).hst = s.hst := with_fbs_hst s _
@[simp] theorem State.setFb_por (s : State) (n : Nat) (x : Fb) : (s.setFb n x).por = s.por := with_fbs_por s _

@[simp] theorem State.setCelCh_pending (s : State) (c : Nat) (x : CelCh) : (s.setCelCh c x).pending = s.pending := with_cel_pending s _
@[simp] theorem State.setCelCh_raw (s : State) (c : Nat) (x : CelCh) : (s.setCelCh c x).raw = s.raw := with_cel_raw s _
@[simp] theorem State.setCelCh_wall (s : State) (c : Nat) (x : CelCh) : (s.setCelCh c x).wall = s.wall := with_cel_wall s _
@[simp] theorem State.setCelCh_regs (s : State) (c : Nat) (x : CelCh) : (s.setCelCh c x).regs = s.regs := with_cel_regs s _
@[simp] theorem State.setCelCh_pairCap (s : State) (c : Nat) (x : CelCh) : (s.setCelCh c x).pairCap = s.pairCap := with_cel_pairCap s _
@[simp] theorem State.setCelCh_pairLow (s : State) (c : Nat) (x : CelCh) : (s.setCelCh c x).pairLow = s.pairLow := with_cel_pairLow s _
@[simp] theorem State.setCelCh_out (s : State) (c : Nat) (x : CelCh) : (s.setCelCh c x).out = s.out := with_cel_out s _
@[simp] theorem State.setCelCh_errN (s : State) (c : Nat) (x : CelCh) : (s.setCelCh c x).errN = s.errN := with_cel_errN s _
@[simp] theorem State.setCelCh_ready (s : State) (c : Nat) (x : CelCh) : (s.setCelCh c x).ready = s.ready := with_cel_ready s _
@[simp] theorem State.setCelCh_boots (s : State) (c : Nat) (x : CelCh) : (s.setCelCh c x).boots = s.boots := with_cel_boots s _
@[simp] theorem State.setCelCh_gasp (s : State) (c : Nat) (x : CelCh) : (s.setCelCh c x).gasp = s.gasp := with_cel_gasp s _
@[simp] theorem State.setCelCh_free (s : State) (c : Nat) (x : CelCh) : (s.setCelCh c x).free = s.free := with_cel_free s _
@[simp] theorem State.setCelCh_act (s : State) (c : Nat) (x : CelCh) : (s.setCelCh c x).act = s.act := with_cel_act s _
@[simp] theorem State.setCelCh_shd (s : State) (c : Nat) (x : CelCh) : (s.setCelCh c x).shd = s.shd := with_cel_shd s _
@[simp] theorem State.setCelCh_evt (s : State) (c : Nat) (x : CelCh) : (s.setCelCh c x).evt = s.evt := with_cel_evt s _
@[simp] theorem State.setCelCh_trc (s : State) (c : Nat) (x : CelCh) : (s.setCelCh c x).trc = s.trc := with_cel_trc s _
@[simp] theorem State.setCelCh_tu (s : State) (c : Nat) (x : CelCh) : (s.setCelCh c x).tu = s.tu := with_cel_tu s _
@[simp] theorem State.setCelCh_tke (s : State) (c : Nat) (x : CelCh) : (s.setCelCh c x).tke = s.tke := with_cel_tke s _
@[simp] theorem State.setCelCh_gng (s : State) (c : Nat) (x : CelCh) : (s.setCelCh c x).gng = s.gng := with_cel_gng s _
@[simp] theorem State.setCelCh_ldr (s : State) (c : Nat) (x : CelCh) : (s.setCelCh c x).ldr = s.ldr := with_cel_ldr s _
@[simp] theorem State.setCelCh_fp (s : State) (c : Nat) (x : CelCh) : (s.setCelCh c x).fp = s.fp := with_cel_fp s _
@[simp] theorem State.setCelCh_cst (s : State) (c : Nat) (x : CelCh) : (s.setCelCh c x).cst = s.cst := with_cel_cst s _
@[simp] theorem State.setCelCh_prt (s : State) (c : Nat) (x : CelCh) : (s.setCelCh c x).prt = s.prt := with_cel_prt s _
@[simp] theorem State.setCelCh_asd (s : State) (c : Nat) (x : CelCh) : (s.setCelCh c x).asd = s.asd := with_cel_asd s _
@[simp] theorem State.setCelCh_sen (s : State) (c : Nat) (x : CelCh) : (s.setCelCh c x).sen = s.sen := with_cel_sen s _
@[simp] theorem State.setCelCh_brg (s : State) (c : Nat) (x : CelCh) : (s.setCelCh c x).brg = s.brg := with_cel_brg s _
@[simp] theorem State.setCelCh_fbs (s : State) (c : Nat) (x : CelCh) : (s.setCelCh c x).fbs = s.fbs := with_cel_fbs s _
@[simp] theorem State.setCelCh_fio (s : State) (c : Nat) (x : CelCh) : (s.setCelCh c x).fio = s.fio := with_cel_fio s _
@[simp] theorem State.setCelCh_cfg (s : State) (c : Nat) (x : CelCh) : (s.setCelCh c x).cfg = s.cfg := with_cel_cfg s _
@[simp] theorem State.setCelCh_hst (s : State) (c : Nat) (x : CelCh) : (s.setCelCh c x).hst = s.hst := with_cel_hst s _
@[simp] theorem State.setCelCh_por (s : State) (c : Nat) (x : CelCh) : (s.setCelCh c x).por = s.por := with_cel_por s _

@[simp] theorem State.setDie_pending (s : State) (d : Nat) (x : Die) : (s.setDie d x).pending = s.pending := with_fio_pending s _
@[simp] theorem State.setDie_raw (s : State) (d : Nat) (x : Die) : (s.setDie d x).raw = s.raw := with_fio_raw s _
@[simp] theorem State.setDie_wall (s : State) (d : Nat) (x : Die) : (s.setDie d x).wall = s.wall := with_fio_wall s _
@[simp] theorem State.setDie_regs (s : State) (d : Nat) (x : Die) : (s.setDie d x).regs = s.regs := with_fio_regs s _
@[simp] theorem State.setDie_pairCap (s : State) (d : Nat) (x : Die) : (s.setDie d x).pairCap = s.pairCap := with_fio_pairCap s _
@[simp] theorem State.setDie_pairLow (s : State) (d : Nat) (x : Die) : (s.setDie d x).pairLow = s.pairLow := with_fio_pairLow s _
@[simp] theorem State.setDie_out (s : State) (d : Nat) (x : Die) : (s.setDie d x).out = s.out := with_fio_out s _
@[simp] theorem State.setDie_errN (s : State) (d : Nat) (x : Die) : (s.setDie d x).errN = s.errN := with_fio_errN s _
@[simp] theorem State.setDie_ready (s : State) (d : Nat) (x : Die) : (s.setDie d x).ready = s.ready := with_fio_ready s _
@[simp] theorem State.setDie_boots (s : State) (d : Nat) (x : Die) : (s.setDie d x).boots = s.boots := with_fio_boots s _
@[simp] theorem State.setDie_gasp (s : State) (d : Nat) (x : Die) : (s.setDie d x).gasp = s.gasp := with_fio_gasp s _
@[simp] theorem State.setDie_free (s : State) (d : Nat) (x : Die) : (s.setDie d x).free = s.free := with_fio_free s _
@[simp] theorem State.setDie_act (s : State) (d : Nat) (x : Die) : (s.setDie d x).act = s.act := with_fio_act s _
@[simp] theorem State.setDie_shd (s : State) (d : Nat) (x : Die) : (s.setDie d x).shd = s.shd := with_fio_shd s _
@[simp] theorem State.setDie_evt (s : State) (d : Nat) (x : Die) : (s.setDie d x).evt = s.evt := with_fio_evt s _
@[simp] theorem State.setDie_trc (s : State) (d : Nat) (x : Die) : (s.setDie d x).trc = s.trc := with_fio_trc s _
@[simp] theorem State.setDie_tu (s : State) (d : Nat) (x : Die) : (s.setDie d x).tu = s.tu := with_fio_tu s _
@[simp] theorem State.setDie_tke (s : State) (d : Nat) (x : Die) : (s.setDie d x).tke = s.tke := with_fio_tke s _
@[simp] theorem State.setDie_gng (s : State) (d : Nat) (x : Die) : (s.setDie d x).gng = s.gng := with_fio_gng s _
@[simp] theorem State.setDie_ldr (s : State) (d : Nat) (x : Die) : (s.setDie d x).ldr = s.ldr := with_fio_ldr s _
@[simp] theorem State.setDie_fp (s : State) (d : Nat) (x : Die) : (s.setDie d x).fp = s.fp := with_fio_fp s _
@[simp] theorem State.setDie_cst (s : State) (d : Nat) (x : Die) : (s.setDie d x).cst = s.cst := with_fio_cst s _
@[simp] theorem State.setDie_prt (s : State) (d : Nat) (x : Die) : (s.setDie d x).prt = s.prt := with_fio_prt s _
@[simp] theorem State.setDie_asd (s : State) (d : Nat) (x : Die) : (s.setDie d x).asd = s.asd := with_fio_asd s _
@[simp] theorem State.setDie_sen (s : State) (d : Nat) (x : Die) : (s.setDie d x).sen = s.sen := with_fio_sen s _
@[simp] theorem State.setDie_brg (s : State) (d : Nat) (x : Die) : (s.setDie d x).brg = s.brg := with_fio_brg s _
@[simp] theorem State.setDie_fbs (s : State) (d : Nat) (x : Die) : (s.setDie d x).fbs = s.fbs := with_fio_fbs s _
@[simp] theorem State.setDie_cel (s : State) (d : Nat) (x : Die) : (s.setDie d x).cel = s.cel := with_fio_cel s _
@[simp] theorem State.setDie_cfg (s : State) (d : Nat) (x : Die) : (s.setDie d x).cfg = s.cfg := with_fio_cfg s _
@[simp] theorem State.setDie_hst (s : State) (d : Nat) (x : Die) : (s.setDie d x).hst = s.hst := with_fio_hst s _
@[simp] theorem State.setDie_por (s : State) (d : Nat) (x : Die) : (s.setDie d x).por = s.por := with_fio_por s _

@[simp] theorem State.setLc_pending (s : State) (n : Nat) (x : LoadCh) : (s.setLc n x).pending = s.pending := with_fio_pending s _
@[simp] theorem State.setLc_raw (s : State) (n : Nat) (x : LoadCh) : (s.setLc n x).raw = s.raw := with_fio_raw s _
@[simp] theorem State.setLc_wall (s : State) (n : Nat) (x : LoadCh) : (s.setLc n x).wall = s.wall := with_fio_wall s _
@[simp] theorem State.setLc_regs (s : State) (n : Nat) (x : LoadCh) : (s.setLc n x).regs = s.regs := with_fio_regs s _
@[simp] theorem State.setLc_pairCap (s : State) (n : Nat) (x : LoadCh) : (s.setLc n x).pairCap = s.pairCap := with_fio_pairCap s _
@[simp] theorem State.setLc_pairLow (s : State) (n : Nat) (x : LoadCh) : (s.setLc n x).pairLow = s.pairLow := with_fio_pairLow s _
@[simp] theorem State.setLc_out (s : State) (n : Nat) (x : LoadCh) : (s.setLc n x).out = s.out := with_fio_out s _
@[simp] theorem State.setLc_errN (s : State) (n : Nat) (x : LoadCh) : (s.setLc n x).errN = s.errN := with_fio_errN s _
@[simp] theorem State.setLc_ready (s : State) (n : Nat) (x : LoadCh) : (s.setLc n x).ready = s.ready := with_fio_ready s _
@[simp] theorem State.setLc_boots (s : State) (n : Nat) (x : LoadCh) : (s.setLc n x).boots = s.boots := with_fio_boots s _
@[simp] theorem State.setLc_gasp (s : State) (n : Nat) (x : LoadCh) : (s.setLc n x).gasp = s.gasp := with_fio_gasp s _
@[simp] theorem State.setLc_free (s : State) (n : Nat) (x : LoadCh) : (s.setLc n x).free = s.free := with_fio_free s _
@[simp] theorem State.setLc_act (s : State) (n : Nat) (x : LoadCh) : (s.setLc n x).act = s.act := with_fio_act s _
@[simp] theorem State.setLc_shd (s : State) (n : Nat) (x : LoadCh) : (s.setLc n x).shd = s.shd := with_fio_shd s _
@[simp] theorem State.setLc_evt (s : State) (n : Nat) (x : LoadCh) : (s.setLc n x).evt = s.evt := with_fio_evt s _
@[simp] theorem State.setLc_trc (s : State) (n : Nat) (x : LoadCh) : (s.setLc n x).trc = s.trc := with_fio_trc s _
@[simp] theorem State.setLc_tu (s : State) (n : Nat) (x : LoadCh) : (s.setLc n x).tu = s.tu := with_fio_tu s _
@[simp] theorem State.setLc_tke (s : State) (n : Nat) (x : LoadCh) : (s.setLc n x).tke = s.tke := with_fio_tke s _
@[simp] theorem State.setLc_gng (s : State) (n : Nat) (x : LoadCh) : (s.setLc n x).gng = s.gng := with_fio_gng s _
@[simp] theorem State.setLc_ldr (s : State) (n : Nat) (x : LoadCh) : (s.setLc n x).ldr = s.ldr := with_fio_ldr s _
@[simp] theorem State.setLc_fp (s : State) (n : Nat) (x : LoadCh) : (s.setLc n x).fp = s.fp := with_fio_fp s _
@[simp] theorem State.setLc_cst (s : State) (n : Nat) (x : LoadCh) : (s.setLc n x).cst = s.cst := with_fio_cst s _
@[simp] theorem State.setLc_prt (s : State) (n : Nat) (x : LoadCh) : (s.setLc n x).prt = s.prt := with_fio_prt s _
@[simp] theorem State.setLc_asd (s : State) (n : Nat) (x : LoadCh) : (s.setLc n x).asd = s.asd := with_fio_asd s _
@[simp] theorem State.setLc_sen (s : State) (n : Nat) (x : LoadCh) : (s.setLc n x).sen = s.sen := with_fio_sen s _
@[simp] theorem State.setLc_brg (s : State) (n : Nat) (x : LoadCh) : (s.setLc n x).brg = s.brg := with_fio_brg s _
@[simp] theorem State.setLc_fbs (s : State) (n : Nat) (x : LoadCh) : (s.setLc n x).fbs = s.fbs := with_fio_fbs s _
@[simp] theorem State.setLc_cel (s : State) (n : Nat) (x : LoadCh) : (s.setLc n x).cel = s.cel := with_fio_cel s _
@[simp] theorem State.setLc_cfg (s : State) (n : Nat) (x : LoadCh) : (s.setLc n x).cfg = s.cfg := with_fio_cfg s _
@[simp] theorem State.setLc_hst (s : State) (n : Nat) (x : LoadCh) : (s.setLc n x).hst = s.hst := with_fio_hst s _
@[simp] theorem State.setLc_por (s : State) (n : Nat) (x : LoadCh) : (s.setLc n x).por = s.por := with_fio_por s _

@[simp] theorem State.setEin_pending (s : State) (n : Nat) (x : EinCh) : (s.setEin n x).pending = s.pending := with_fio_pending s _
@[simp] theorem State.setEin_raw (s : State) (n : Nat) (x : EinCh) : (s.setEin n x).raw = s.raw := with_fio_raw s _
@[simp] theorem State.setEin_wall (s : State) (n : Nat) (x : EinCh) : (s.setEin n x).wall = s.wall := with_fio_wall s _
@[simp] theorem State.setEin_regs (s : State) (n : Nat) (x : EinCh) : (s.setEin n x).regs = s.regs := with_fio_regs s _
@[simp] theorem State.setEin_pairCap (s : State) (n : Nat) (x : EinCh) : (s.setEin n x).pairCap = s.pairCap := with_fio_pairCap s _
@[simp] theorem State.setEin_pairLow (s : State) (n : Nat) (x : EinCh) : (s.setEin n x).pairLow = s.pairLow := with_fio_pairLow s _
@[simp] theorem State.setEin_out (s : State) (n : Nat) (x : EinCh) : (s.setEin n x).out = s.out := with_fio_out s _
@[simp] theorem State.setEin_errN (s : State) (n : Nat) (x : EinCh) : (s.setEin n x).errN = s.errN := with_fio_errN s _
@[simp] theorem State.setEin_ready (s : State) (n : Nat) (x : EinCh) : (s.setEin n x).ready = s.ready := with_fio_ready s _
@[simp] theorem State.setEin_boots (s : State) (n : Nat) (x : EinCh) : (s.setEin n x).boots = s.boots := with_fio_boots s _
@[simp] theorem State.setEin_gasp (s : State) (n : Nat) (x : EinCh) : (s.setEin n x).gasp = s.gasp := with_fio_gasp s _
@[simp] theorem State.setEin_free (s : State) (n : Nat) (x : EinCh) : (s.setEin n x).free = s.free := with_fio_free s _
@[simp] theorem State.setEin_act (s : State) (n : Nat) (x : EinCh) : (s.setEin n x).act = s.act := with_fio_act s _
@[simp] theorem State.setEin_shd (s : State) (n : Nat) (x : EinCh) : (s.setEin n x).shd = s.shd := with_fio_shd s _
@[simp] theorem State.setEin_evt (s : State) (n : Nat) (x : EinCh) : (s.setEin n x).evt = s.evt := with_fio_evt s _
@[simp] theorem State.setEin_trc (s : State) (n : Nat) (x : EinCh) : (s.setEin n x).trc = s.trc := with_fio_trc s _
@[simp] theorem State.setEin_tu (s : State) (n : Nat) (x : EinCh) : (s.setEin n x).tu = s.tu := with_fio_tu s _
@[simp] theorem State.setEin_tke (s : State) (n : Nat) (x : EinCh) : (s.setEin n x).tke = s.tke := with_fio_tke s _
@[simp] theorem State.setEin_gng (s : State) (n : Nat) (x : EinCh) : (s.setEin n x).gng = s.gng := with_fio_gng s _
@[simp] theorem State.setEin_ldr (s : State) (n : Nat) (x : EinCh) : (s.setEin n x).ldr = s.ldr := with_fio_ldr s _
@[simp] theorem State.setEin_fp (s : State) (n : Nat) (x : EinCh) : (s.setEin n x).fp = s.fp := with_fio_fp s _
@[simp] theorem State.setEin_cst (s : State) (n : Nat) (x : EinCh) : (s.setEin n x).cst = s.cst := with_fio_cst s _
@[simp] theorem State.setEin_prt (s : State) (n : Nat) (x : EinCh) : (s.setEin n x).prt = s.prt := with_fio_prt s _
@[simp] theorem State.setEin_asd (s : State) (n : Nat) (x : EinCh) : (s.setEin n x).asd = s.asd := with_fio_asd s _
@[simp] theorem State.setEin_sen (s : State) (n : Nat) (x : EinCh) : (s.setEin n x).sen = s.sen := with_fio_sen s _
@[simp] theorem State.setEin_brg (s : State) (n : Nat) (x : EinCh) : (s.setEin n x).brg = s.brg := with_fio_brg s _
@[simp] theorem State.setEin_fbs (s : State) (n : Nat) (x : EinCh) : (s.setEin n x).fbs = s.fbs := with_fio_fbs s _
@[simp] theorem State.setEin_cel (s : State) (n : Nat) (x : EinCh) : (s.setEin n x).cel = s.cel := with_fio_cel s _
@[simp] theorem State.setEin_cfg (s : State) (n : Nat) (x : EinCh) : (s.setEin n x).cfg = s.cfg := with_fio_cfg s _
@[simp] theorem State.setEin_hst (s : State) (n : Nat) (x : EinCh) : (s.setEin n x).hst = s.hst := with_fio_hst s _
@[simp] theorem State.setEin_por (s : State) (n : Nat) (x : EinCh) : (s.setEin n x).por = s.por := with_fio_por s _

@[simp] theorem State.assertErr_pending (s : State) : (s.assertErr).pending = s.pending := with_errN_pending s _
@[simp] theorem State.assertErr_raw (s : State) : (s.assertErr).raw = s.raw := with_errN_raw s _
@[simp] theorem State.assertErr_wall (s : State) : (s.assertErr).wall = s.wall := with_errN_wall s _
@[simp] theorem State.assertErr_regs (s : State) : (s.assertErr).regs = s.regs := with_errN_regs s _
@[simp] theorem State.assertErr_pairCap (s : State) : (s.assertErr).pairCap = s.pairCap := with_errN_pairCap s _
@[simp] theorem State.assertErr_pairLow (s : State) : (s.assertErr).pairLow = s.pairLow := with_errN_pairLow s _
@[simp] theorem State.assertErr_out (s : State) : (s.assertErr).out = s.out := with_errN_out s _
@[simp] theorem State.assertErr_ready (s : State) : (s.assertErr).ready = s.ready := with_errN_ready s _
@[simp] theorem State.assertErr_boots (s : State) : (s.assertErr).boots = s.boots := with_errN_boots s _
@[simp] theorem State.assertErr_gasp (s : State) : (s.assertErr).gasp = s.gasp := with_errN_gasp s _
@[simp] theorem State.assertErr_free (s : State) : (s.assertErr).free = s.free := with_errN_free s _
@[simp] theorem State.assertErr_act (s : State) : (s.assertErr).act = s.act := with_errN_act s _
@[simp] theorem State.assertErr_shd (s : State) : (s.assertErr).shd = s.shd := with_errN_shd s _
@[simp] theorem State.assertErr_evt (s : State) : (s.assertErr).evt = s.evt := with_errN_evt s _
@[simp] theorem State.assertErr_trc (s : State) : (s.assertErr).trc = s.trc := with_errN_trc s _
@[simp] theorem State.assertErr_tu (s : State) : (s.assertErr).tu = s.tu := with_errN_tu s _
@[simp] theorem State.assertErr_tke (s : State) : (s.assertErr).tke = s.tke := with_errN_tke s _
@[simp] theorem State.assertErr_gng (s : State) : (s.assertErr).gng = s.gng := with_errN_gng s _
@[simp] theorem State.assertErr_ldr (s : State) : (s.assertErr).ldr = s.ldr := with_errN_ldr s _
@[simp] theorem State.assertErr_fp (s : State) : (s.assertErr).fp = s.fp := with_errN_fp s _
@[simp] theorem State.assertErr_cst (s : State) : (s.assertErr).cst = s.cst := with_errN_cst s _
@[simp] theorem State.assertErr_prt (s : State) : (s.assertErr).prt = s.prt := with_errN_prt s _
@[simp] theorem State.assertErr_asd (s : State) : (s.assertErr).asd = s.asd := with_errN_asd s _
@[simp] theorem State.assertErr_sen (s : State) : (s.assertErr).sen = s.sen := with_errN_sen s _
@[simp] theorem State.assertErr_brg (s : State) : (s.assertErr).brg = s.brg := with_errN_brg s _
@[simp] theorem State.assertErr_fbs (s : State) : (s.assertErr).fbs = s.fbs := with_errN_fbs s _
@[simp] theorem State.assertErr_fio (s : State) : (s.assertErr).fio = s.fio := with_errN_fio s _
@[simp] theorem State.assertErr_cel (s : State) : (s.assertErr).cel = s.cel := with_errN_cel s _
@[simp] theorem State.assertErr_cfg (s : State) : (s.assertErr).cfg = s.cfg := with_errN_cfg s _
@[simp] theorem State.assertErr_hst (s : State) : (s.assertErr).hst = s.hst := with_errN_hst s _
@[simp] theorem State.assertErr_por (s : State) : (s.assertErr).por = s.por := with_errN_por s _

@[simp] theorem State.setItem_pending (s : State) (d : Nat) (i : Item) : (s.setItem d i).pending = s.pending := with_ldr_pending s _
@[simp] theorem State.setItem_raw (s : State) (d : Nat) (i : Item) : (s.setItem d i).raw = s.raw := with_ldr_raw s _
@[simp] theorem State.setItem_wall (s : State) (d : Nat) (i : Item) : (s.setItem d i).wall = s.wall := with_ldr_wall s _
@[simp] theorem State.setItem_regs (s : State) (d : Nat) (i : Item) : (s.setItem d i).regs = s.regs := with_ldr_regs s _
@[simp] theorem State.setItem_pairCap (s : State) (d : Nat) (i : Item) : (s.setItem d i).pairCap = s.pairCap := with_ldr_pairCap s _
@[simp] theorem State.setItem_pairLow (s : State) (d : Nat) (i : Item) : (s.setItem d i).pairLow = s.pairLow := with_ldr_pairLow s _
@[simp] theorem State.setItem_out (s : State) (d : Nat) (i : Item) : (s.setItem d i).out = s.out := with_ldr_out s _
@[simp] theorem State.setItem_errN (s : State) (d : Nat) (i : Item) : (s.setItem d i).errN = s.errN := with_ldr_errN s _
@[simp] theorem State.setItem_ready (s : State) (d : Nat) (i : Item) : (s.setItem d i).ready = s.ready := with_ldr_ready s _
@[simp] theorem State.setItem_boots (s : State) (d : Nat) (i : Item) : (s.setItem d i).boots = s.boots := with_ldr_boots s _
@[simp] theorem State.setItem_gasp (s : State) (d : Nat) (i : Item) : (s.setItem d i).gasp = s.gasp := with_ldr_gasp s _
@[simp] theorem State.setItem_free (s : State) (d : Nat) (i : Item) : (s.setItem d i).free = s.free := with_ldr_free s _
@[simp] theorem State.setItem_act (s : State) (d : Nat) (i : Item) : (s.setItem d i).act = s.act := with_ldr_act s _
@[simp] theorem State.setItem_shd (s : State) (d : Nat) (i : Item) : (s.setItem d i).shd = s.shd := with_ldr_shd s _
@[simp] theorem State.setItem_evt (s : State) (d : Nat) (i : Item) : (s.setItem d i).evt = s.evt := with_ldr_evt s _
@[simp] theorem State.setItem_trc (s : State) (d : Nat) (i : Item) : (s.setItem d i).trc = s.trc := with_ldr_trc s _
@[simp] theorem State.setItem_tu (s : State) (d : Nat) (i : Item) : (s.setItem d i).tu = s.tu := with_ldr_tu s _
@[simp] theorem State.setItem_tke (s : State) (d : Nat) (i : Item) : (s.setItem d i).tke = s.tke := with_ldr_tke s _
@[simp] theorem State.setItem_gng (s : State) (d : Nat) (i : Item) : (s.setItem d i).gng = s.gng := with_ldr_gng s _
@[simp] theorem State.setItem_fp (s : State) (d : Nat) (i : Item) : (s.setItem d i).fp = s.fp := with_ldr_fp s _
@[simp] theorem State.setItem_cst (s : State) (d : Nat) (i : Item) : (s.setItem d i).cst = s.cst := with_ldr_cst s _
@[simp] theorem State.setItem_prt (s : State) (d : Nat) (i : Item) : (s.setItem d i).prt = s.prt := with_ldr_prt s _
@[simp] theorem State.setItem_asd (s : State) (d : Nat) (i : Item) : (s.setItem d i).asd = s.asd := with_ldr_asd s _
@[simp] theorem State.setItem_sen (s : State) (d : Nat) (i : Item) : (s.setItem d i).sen = s.sen := with_ldr_sen s _
@[simp] theorem State.setItem_brg (s : State) (d : Nat) (i : Item) : (s.setItem d i).brg = s.brg := with_ldr_brg s _
@[simp] theorem State.setItem_fbs (s : State) (d : Nat) (i : Item) : (s.setItem d i).fbs = s.fbs := with_ldr_fbs s _
@[simp] theorem State.setItem_fio (s : State) (d : Nat) (i : Item) : (s.setItem d i).fio = s.fio := with_ldr_fio s _
@[simp] theorem State.setItem_cel (s : State) (d : Nat) (i : Item) : (s.setItem d i).cel = s.cel := with_ldr_cel s _
@[simp] theorem State.setItem_cfg (s : State) (d : Nat) (i : Item) : (s.setItem d i).cfg = s.cfg := with_ldr_cfg s _
@[simp] theorem State.setItem_hst (s : State) (d : Nat) (i : Item) : (s.setItem d i).hst = s.hst := with_ldr_hst s _
@[simp] theorem State.setItem_por (s : State) (d : Nat) (i : Item) : (s.setItem d i).por = s.por := with_ldr_por s _

@[simp] theorem State.setQueue_pending (s : State) (q : Nat) (x : Queue) : (s.setQueue q x).pending = s.pending := with_ldr_pending s _
@[simp] theorem State.setQueue_raw (s : State) (q : Nat) (x : Queue) : (s.setQueue q x).raw = s.raw := with_ldr_raw s _
@[simp] theorem State.setQueue_wall (s : State) (q : Nat) (x : Queue) : (s.setQueue q x).wall = s.wall := with_ldr_wall s _
@[simp] theorem State.setQueue_regs (s : State) (q : Nat) (x : Queue) : (s.setQueue q x).regs = s.regs := with_ldr_regs s _
@[simp] theorem State.setQueue_pairCap (s : State) (q : Nat) (x : Queue) : (s.setQueue q x).pairCap = s.pairCap := with_ldr_pairCap s _
@[simp] theorem State.setQueue_pairLow (s : State) (q : Nat) (x : Queue) : (s.setQueue q x).pairLow = s.pairLow := with_ldr_pairLow s _
@[simp] theorem State.setQueue_out (s : State) (q : Nat) (x : Queue) : (s.setQueue q x).out = s.out := with_ldr_out s _
@[simp] theorem State.setQueue_errN (s : State) (q : Nat) (x : Queue) : (s.setQueue q x).errN = s.errN := with_ldr_errN s _
@[simp] theorem State.setQueue_ready (s : State) (q : Nat) (x : Queue) : (s.setQueue q x).ready = s.ready := with_ldr_ready s _
@[simp] theorem State.setQueue_boots (s : State) (q : Nat) (x : Queue) : (s.setQueue q x).boots = s.boots := with_ldr_boots s _
@[simp] theorem State.setQueue_gasp (s : State) (q : Nat) (x : Queue) : (s.setQueue q x).gasp = s.gasp := with_ldr_gasp s _
@[simp] theorem State.setQueue_free (s : State) (q : Nat) (x : Queue) : (s.setQueue q x).free = s.free := with_ldr_free s _
@[simp] theorem State.setQueue_act (s : State) (q : Nat) (x : Queue) : (s.setQueue q x).act = s.act := with_ldr_act s _
@[simp] theorem State.setQueue_shd (s : State) (q : Nat) (x : Queue) : (s.setQueue q x).shd = s.shd := with_ldr_shd s _
@[simp] theorem State.setQueue_evt (s : State) (q : Nat) (x : Queue) : (s.setQueue q x).evt = s.evt := with_ldr_evt s _
@[simp] theorem State.setQueue_trc (s : State) (q : Nat) (x : Queue) : (s.setQueue q x).trc = s.trc := with_ldr_trc s _
@[simp] theorem State.setQueue_tu (s : State) (q : Nat) (x : Queue) : (s.setQueue q x).tu = s.tu := with_ldr_tu s _
@[simp] theorem State.setQueue_tke (s : State) (q : Nat) (x : Queue) : (s.setQueue q x).tke = s.tke := with_ldr_tke s _
@[simp] theorem State.setQueue_gng (s : State) (q : Nat) (x : Queue) : (s.setQueue q x).gng = s.gng := with_ldr_gng s _
@[simp] theorem State.setQueue_fp (s : State) (q : Nat) (x : Queue) : (s.setQueue q x).fp = s.fp := with_ldr_fp s _
@[simp] theorem State.setQueue_cst (s : State) (q : Nat) (x : Queue) : (s.setQueue q x).cst = s.cst := with_ldr_cst s _
@[simp] theorem State.setQueue_prt (s : State) (q : Nat) (x : Queue) : (s.setQueue q x).prt = s.prt := with_ldr_prt s _
@[simp] theorem State.setQueue_asd (s : State) (q : Nat) (x : Queue) : (s.setQueue q x).asd = s.asd := with_ldr_asd s _
@[simp] theorem State.setQueue_sen (s : State) (q : Nat) (x : Queue) : (s.setQueue q x).sen = s.sen := with_ldr_sen s _
@[simp] theorem State.setQueue_brg (s : State) (q : Nat) (x : Queue) : (s.setQueue q x).brg = s.brg := with_ldr_brg s _
@[simp] theorem State.setQueue_fbs (s : State) (q : Nat) (x : Queue) : (s.setQueue q x).fbs = s.fbs := with_ldr_fbs s _
@[simp] theorem State.setQueue_fio (s : State) (q : Nat) (x : Queue) : (s.setQueue q x).fio = s.fio := with_ldr_fio s _
@[simp] theorem State.setQueue_cel (s : State) (q : Nat) (x : Queue) : (s.setQueue q x).cel = s.cel := with_ldr_cel s _
@[simp] theorem State.setQueue_cfg (s : State) (q : Nat) (x : Queue) : (s.setQueue q x).cfg = s.cfg := with_ldr_cfg s _
@[simp] theorem State.setQueue_hst (s : State) (q : Nat) (x : Queue) : (s.setQueue q x).hst = s.hst := with_ldr_hst s _
@[simp] theorem State.setQueue_por (s : State) (q : Nat) (x : Queue) : (s.setQueue q x).por = s.por := with_ldr_por s _

@[simp] theorem State.setHop_pending (s : State) (n vc : Nat) (h : Hop) : (s.setHop n vc h).pending = s.pending := with_ldr_pending s _
@[simp] theorem State.setHop_raw (s : State) (n vc : Nat) (h : Hop) : (s.setHop n vc h).raw = s.raw := with_ldr_raw s _
@[simp] theorem State.setHop_wall (s : State) (n vc : Nat) (h : Hop) : (s.setHop n vc h).wall = s.wall := with_ldr_wall s _
@[simp] theorem State.setHop_regs (s : State) (n vc : Nat) (h : Hop) : (s.setHop n vc h).regs = s.regs := with_ldr_regs s _
@[simp] theorem State.setHop_pairCap (s : State) (n vc : Nat) (h : Hop) : (s.setHop n vc h).pairCap = s.pairCap := with_ldr_pairCap s _
@[simp] theorem State.setHop_pairLow (s : State) (n vc : Nat) (h : Hop) : (s.setHop n vc h).pairLow = s.pairLow := with_ldr_pairLow s _
@[simp] theorem State.setHop_out (s : State) (n vc : Nat) (h : Hop) : (s.setHop n vc h).out = s.out := with_ldr_out s _
@[simp] theorem State.setHop_errN (s : State) (n vc : Nat) (h : Hop) : (s.setHop n vc h).errN = s.errN := with_ldr_errN s _
@[simp] theorem State.setHop_ready (s : State) (n vc : Nat) (h : Hop) : (s.setHop n vc h).ready = s.ready := with_ldr_ready s _
@[simp] theorem State.setHop_boots (s : State) (n vc : Nat) (h : Hop) : (s.setHop n vc h).boots = s.boots := with_ldr_boots s _
@[simp] theorem State.setHop_gasp (s : State) (n vc : Nat) (h : Hop) : (s.setHop n vc h).gasp = s.gasp := with_ldr_gasp s _
@[simp] theorem State.setHop_free (s : State) (n vc : Nat) (h : Hop) : (s.setHop n vc h).free = s.free := with_ldr_free s _
@[simp] theorem State.setHop_act (s : State) (n vc : Nat) (h : Hop) : (s.setHop n vc h).act = s.act := with_ldr_act s _
@[simp] theorem State.setHop_shd (s : State) (n vc : Nat) (h : Hop) : (s.setHop n vc h).shd = s.shd := with_ldr_shd s _
@[simp] theorem State.setHop_evt (s : State) (n vc : Nat) (h : Hop) : (s.setHop n vc h).evt = s.evt := with_ldr_evt s _
@[simp] theorem State.setHop_trc (s : State) (n vc : Nat) (h : Hop) : (s.setHop n vc h).trc = s.trc := with_ldr_trc s _
@[simp] theorem State.setHop_tu (s : State) (n vc : Nat) (h : Hop) : (s.setHop n vc h).tu = s.tu := with_ldr_tu s _
@[simp] theorem State.setHop_tke (s : State) (n vc : Nat) (h : Hop) : (s.setHop n vc h).tke = s.tke := with_ldr_tke s _
@[simp] theorem State.setHop_gng (s : State) (n vc : Nat) (h : Hop) : (s.setHop n vc h).gng = s.gng := with_ldr_gng s _
@[simp] theorem State.setHop_fp (s : State) (n vc : Nat) (h : Hop) : (s.setHop n vc h).fp = s.fp := with_ldr_fp s _
@[simp] theorem State.setHop_cst (s : State) (n vc : Nat) (h : Hop) : (s.setHop n vc h).cst = s.cst := with_ldr_cst s _
@[simp] theorem State.setHop_prt (s : State) (n vc : Nat) (h : Hop) : (s.setHop n vc h).prt = s.prt := with_ldr_prt s _
@[simp] theorem State.setHop_asd (s : State) (n vc : Nat) (h : Hop) : (s.setHop n vc h).asd = s.asd := with_ldr_asd s _
@[simp] theorem State.setHop_sen (s : State) (n vc : Nat) (h : Hop) : (s.setHop n vc h).sen = s.sen := with_ldr_sen s _
@[simp] theorem State.setHop_brg (s : State) (n vc : Nat) (h : Hop) : (s.setHop n vc h).brg = s.brg := with_ldr_brg s _
@[simp] theorem State.setHop_fbs (s : State) (n vc : Nat) (h : Hop) : (s.setHop n vc h).fbs = s.fbs := with_ldr_fbs s _
@[simp] theorem State.setHop_fio (s : State) (n vc : Nat) (h : Hop) : (s.setHop n vc h).fio = s.fio := with_ldr_fio s _
@[simp] theorem State.setHop_cel (s : State) (n vc : Nat) (h : Hop) : (s.setHop n vc h).cel = s.cel := with_ldr_cel s _
@[simp] theorem State.setHop_cfg (s : State) (n vc : Nat) (h : Hop) : (s.setHop n vc h).cfg = s.cfg := with_ldr_cfg s _
@[simp] theorem State.setHop_hst (s : State) (n vc : Nat) (h : Hop) : (s.setHop n vc h).hst = s.hst := with_ldr_hst s _
@[simp] theorem State.setHop_por (s : State) (n vc : Nat) (h : Hop) : (s.setHop n vc h).por = s.por := with_ldr_por s _

@[simp] theorem State.setRing_pending (s : State) (k : Nat) (r : Ring) : (s.setRing k r).pending = s.pending := with_hst_pending s _
@[simp] theorem State.setRing_raw (s : State) (k : Nat) (r : Ring) : (s.setRing k r).raw = s.raw := with_hst_raw s _
@[simp] theorem State.setRing_wall (s : State) (k : Nat) (r : Ring) : (s.setRing k r).wall = s.wall := with_hst_wall s _
@[simp] theorem State.setRing_regs (s : State) (k : Nat) (r : Ring) : (s.setRing k r).regs = s.regs := with_hst_regs s _
@[simp] theorem State.setRing_pairCap (s : State) (k : Nat) (r : Ring) : (s.setRing k r).pairCap = s.pairCap := with_hst_pairCap s _
@[simp] theorem State.setRing_pairLow (s : State) (k : Nat) (r : Ring) : (s.setRing k r).pairLow = s.pairLow := with_hst_pairLow s _
@[simp] theorem State.setRing_out (s : State) (k : Nat) (r : Ring) : (s.setRing k r).out = s.out := with_hst_out s _
@[simp] theorem State.setRing_errN (s : State) (k : Nat) (r : Ring) : (s.setRing k r).errN = s.errN := with_hst_errN s _
@[simp] theorem State.setRing_ready (s : State) (k : Nat) (r : Ring) : (s.setRing k r).ready = s.ready := with_hst_ready s _
@[simp] theorem State.setRing_boots (s : State) (k : Nat) (r : Ring) : (s.setRing k r).boots = s.boots := with_hst_boots s _
@[simp] theorem State.setRing_gasp (s : State) (k : Nat) (r : Ring) : (s.setRing k r).gasp = s.gasp := with_hst_gasp s _
@[simp] theorem State.setRing_free (s : State) (k : Nat) (r : Ring) : (s.setRing k r).free = s.free := with_hst_free s _
@[simp] theorem State.setRing_act (s : State) (k : Nat) (r : Ring) : (s.setRing k r).act = s.act := with_hst_act s _
@[simp] theorem State.setRing_shd (s : State) (k : Nat) (r : Ring) : (s.setRing k r).shd = s.shd := with_hst_shd s _
@[simp] theorem State.setRing_evt (s : State) (k : Nat) (r : Ring) : (s.setRing k r).evt = s.evt := with_hst_evt s _
@[simp] theorem State.setRing_trc (s : State) (k : Nat) (r : Ring) : (s.setRing k r).trc = s.trc := with_hst_trc s _
@[simp] theorem State.setRing_tu (s : State) (k : Nat) (r : Ring) : (s.setRing k r).tu = s.tu := with_hst_tu s _
@[simp] theorem State.setRing_tke (s : State) (k : Nat) (r : Ring) : (s.setRing k r).tke = s.tke := with_hst_tke s _
@[simp] theorem State.setRing_gng (s : State) (k : Nat) (r : Ring) : (s.setRing k r).gng = s.gng := with_hst_gng s _
@[simp] theorem State.setRing_ldr (s : State) (k : Nat) (r : Ring) : (s.setRing k r).ldr = s.ldr := with_hst_ldr s _
@[simp] theorem State.setRing_fp (s : State) (k : Nat) (r : Ring) : (s.setRing k r).fp = s.fp := with_hst_fp s _
@[simp] theorem State.setRing_cst (s : State) (k : Nat) (r : Ring) : (s.setRing k r).cst = s.cst := with_hst_cst s _
@[simp] theorem State.setRing_prt (s : State) (k : Nat) (r : Ring) : (s.setRing k r).prt = s.prt := with_hst_prt s _
@[simp] theorem State.setRing_asd (s : State) (k : Nat) (r : Ring) : (s.setRing k r).asd = s.asd := with_hst_asd s _
@[simp] theorem State.setRing_sen (s : State) (k : Nat) (r : Ring) : (s.setRing k r).sen = s.sen := with_hst_sen s _
@[simp] theorem State.setRing_brg (s : State) (k : Nat) (r : Ring) : (s.setRing k r).brg = s.brg := with_hst_brg s _
@[simp] theorem State.setRing_fbs (s : State) (k : Nat) (r : Ring) : (s.setRing k r).fbs = s.fbs := with_hst_fbs s _
@[simp] theorem State.setRing_fio (s : State) (k : Nat) (r : Ring) : (s.setRing k r).fio = s.fio := with_hst_fio s _
@[simp] theorem State.setRing_cel (s : State) (k : Nat) (r : Ring) : (s.setRing k r).cel = s.cel := with_hst_cel s _
@[simp] theorem State.setRing_cfg (s : State) (k : Nat) (r : Ring) : (s.setRing k r).cfg = s.cfg := with_hst_cfg s _
@[simp] theorem State.setRing_por (s : State) (k : Nat) (r : Ring) : (s.setRing k r).por = s.por := with_hst_por s _

@[simp] theorem State.setEgress_pending (s : State) (n : Nat) (e : Egress) : (s.setEgress n e).pending = s.pending := with_fp_pending s _
@[simp] theorem State.setEgress_raw (s : State) (n : Nat) (e : Egress) : (s.setEgress n e).raw = s.raw := with_fp_raw s _
@[simp] theorem State.setEgress_wall (s : State) (n : Nat) (e : Egress) : (s.setEgress n e).wall = s.wall := with_fp_wall s _
@[simp] theorem State.setEgress_regs (s : State) (n : Nat) (e : Egress) : (s.setEgress n e).regs = s.regs := with_fp_regs s _
@[simp] theorem State.setEgress_pairCap (s : State) (n : Nat) (e : Egress) : (s.setEgress n e).pairCap = s.pairCap := with_fp_pairCap s _
@[simp] theorem State.setEgress_pairLow (s : State) (n : Nat) (e : Egress) : (s.setEgress n e).pairLow = s.pairLow := with_fp_pairLow s _
@[simp] theorem State.setEgress_out (s : State) (n : Nat) (e : Egress) : (s.setEgress n e).out = s.out := with_fp_out s _
@[simp] theorem State.setEgress_errN (s : State) (n : Nat) (e : Egress) : (s.setEgress n e).errN = s.errN := with_fp_errN s _
@[simp] theorem State.setEgress_ready (s : State) (n : Nat) (e : Egress) : (s.setEgress n e).ready = s.ready := with_fp_ready s _
@[simp] theorem State.setEgress_boots (s : State) (n : Nat) (e : Egress) : (s.setEgress n e).boots = s.boots := with_fp_boots s _
@[simp] theorem State.setEgress_gasp (s : State) (n : Nat) (e : Egress) : (s.setEgress n e).gasp = s.gasp := with_fp_gasp s _
@[simp] theorem State.setEgress_free (s : State) (n : Nat) (e : Egress) : (s.setEgress n e).free = s.free := with_fp_free s _
@[simp] theorem State.setEgress_act (s : State) (n : Nat) (e : Egress) : (s.setEgress n e).act = s.act := with_fp_act s _
@[simp] theorem State.setEgress_shd (s : State) (n : Nat) (e : Egress) : (s.setEgress n e).shd = s.shd := with_fp_shd s _
@[simp] theorem State.setEgress_evt (s : State) (n : Nat) (e : Egress) : (s.setEgress n e).evt = s.evt := with_fp_evt s _
@[simp] theorem State.setEgress_trc (s : State) (n : Nat) (e : Egress) : (s.setEgress n e).trc = s.trc := with_fp_trc s _
@[simp] theorem State.setEgress_tu (s : State) (n : Nat) (e : Egress) : (s.setEgress n e).tu = s.tu := with_fp_tu s _
@[simp] theorem State.setEgress_tke (s : State) (n : Nat) (e : Egress) : (s.setEgress n e).tke = s.tke := with_fp_tke s _
@[simp] theorem State.setEgress_gng (s : State) (n : Nat) (e : Egress) : (s.setEgress n e).gng = s.gng := with_fp_gng s _
@[simp] theorem State.setEgress_ldr (s : State) (n : Nat) (e : Egress) : (s.setEgress n e).ldr = s.ldr := with_fp_ldr s _
@[simp] theorem State.setEgress_cst (s : State) (n : Nat) (e : Egress) : (s.setEgress n e).cst = s.cst := with_fp_cst s _
@[simp] theorem State.setEgress_prt (s : State) (n : Nat) (e : Egress) : (s.setEgress n e).prt = s.prt := with_fp_prt s _
@[simp] theorem State.setEgress_asd (s : State) (n : Nat) (e : Egress) : (s.setEgress n e).asd = s.asd := with_fp_asd s _
@[simp] theorem State.setEgress_sen (s : State) (n : Nat) (e : Egress) : (s.setEgress n e).sen = s.sen := with_fp_sen s _
@[simp] theorem State.setEgress_brg (s : State) (n : Nat) (e : Egress) : (s.setEgress n e).brg = s.brg := with_fp_brg s _
@[simp] theorem State.setEgress_fbs (s : State) (n : Nat) (e : Egress) : (s.setEgress n e).fbs = s.fbs := with_fp_fbs s _
@[simp] theorem State.setEgress_fio (s : State) (n : Nat) (e : Egress) : (s.setEgress n e).fio = s.fio := with_fp_fio s _
@[simp] theorem State.setEgress_cel (s : State) (n : Nat) (e : Egress) : (s.setEgress n e).cel = s.cel := with_fp_cel s _
@[simp] theorem State.setEgress_cfg (s : State) (n : Nat) (e : Egress) : (s.setEgress n e).cfg = s.cfg := with_fp_cfg s _
@[simp] theorem State.setEgress_hst (s : State) (n : Nat) (e : Egress) : (s.setEgress n e).hst = s.hst := with_fp_hst s _
@[simp] theorem State.setEgress_por (s : State) (n : Nat) (e : Egress) : (s.setEgress n e).por = s.por := with_fp_por s _

@[simp] theorem State.setRx_pending (s : State) (n : Nat) (r : Option RxFrame) : (s.setRx n r).pending = s.pending := with_fp_pending s _
@[simp] theorem State.setRx_raw (s : State) (n : Nat) (r : Option RxFrame) : (s.setRx n r).raw = s.raw := with_fp_raw s _
@[simp] theorem State.setRx_wall (s : State) (n : Nat) (r : Option RxFrame) : (s.setRx n r).wall = s.wall := with_fp_wall s _
@[simp] theorem State.setRx_regs (s : State) (n : Nat) (r : Option RxFrame) : (s.setRx n r).regs = s.regs := with_fp_regs s _
@[simp] theorem State.setRx_pairCap (s : State) (n : Nat) (r : Option RxFrame) : (s.setRx n r).pairCap = s.pairCap := with_fp_pairCap s _
@[simp] theorem State.setRx_pairLow (s : State) (n : Nat) (r : Option RxFrame) : (s.setRx n r).pairLow = s.pairLow := with_fp_pairLow s _
@[simp] theorem State.setRx_out (s : State) (n : Nat) (r : Option RxFrame) : (s.setRx n r).out = s.out := with_fp_out s _
@[simp] theorem State.setRx_errN (s : State) (n : Nat) (r : Option RxFrame) : (s.setRx n r).errN = s.errN := with_fp_errN s _
@[simp] theorem State.setRx_ready (s : State) (n : Nat) (r : Option RxFrame) : (s.setRx n r).ready = s.ready := with_fp_ready s _
@[simp] theorem State.setRx_boots (s : State) (n : Nat) (r : Option RxFrame) : (s.setRx n r).boots = s.boots := with_fp_boots s _
@[simp] theorem State.setRx_gasp (s : State) (n : Nat) (r : Option RxFrame) : (s.setRx n r).gasp = s.gasp := with_fp_gasp s _
@[simp] theorem State.setRx_free (s : State) (n : Nat) (r : Option RxFrame) : (s.setRx n r).free = s.free := with_fp_free s _
@[simp] theorem State.setRx_act (s : State) (n : Nat) (r : Option RxFrame) : (s.setRx n r).act = s.act := with_fp_act s _
@[simp] theorem State.setRx_shd (s : State) (n : Nat) (r : Option RxFrame) : (s.setRx n r).shd = s.shd := with_fp_shd s _
@[simp] theorem State.setRx_evt (s : State) (n : Nat) (r : Option RxFrame) : (s.setRx n r).evt = s.evt := with_fp_evt s _
@[simp] theorem State.setRx_trc (s : State) (n : Nat) (r : Option RxFrame) : (s.setRx n r).trc = s.trc := with_fp_trc s _
@[simp] theorem State.setRx_tu (s : State) (n : Nat) (r : Option RxFrame) : (s.setRx n r).tu = s.tu := with_fp_tu s _
@[simp] theorem State.setRx_tke (s : State) (n : Nat) (r : Option RxFrame) : (s.setRx n r).tke = s.tke := with_fp_tke s _
@[simp] theorem State.setRx_gng (s : State) (n : Nat) (r : Option RxFrame) : (s.setRx n r).gng = s.gng := with_fp_gng s _
@[simp] theorem State.setRx_ldr (s : State) (n : Nat) (r : Option RxFrame) : (s.setRx n r).ldr = s.ldr := with_fp_ldr s _
@[simp] theorem State.setRx_cst (s : State) (n : Nat) (r : Option RxFrame) : (s.setRx n r).cst = s.cst := with_fp_cst s _
@[simp] theorem State.setRx_prt (s : State) (n : Nat) (r : Option RxFrame) : (s.setRx n r).prt = s.prt := with_fp_prt s _
@[simp] theorem State.setRx_asd (s : State) (n : Nat) (r : Option RxFrame) : (s.setRx n r).asd = s.asd := with_fp_asd s _
@[simp] theorem State.setRx_sen (s : State) (n : Nat) (r : Option RxFrame) : (s.setRx n r).sen = s.sen := with_fp_sen s _
@[simp] theorem State.setRx_brg (s : State) (n : Nat) (r : Option RxFrame) : (s.setRx n r).brg = s.brg := with_fp_brg s _
@[simp] theorem State.setRx_fbs (s : State) (n : Nat) (r : Option RxFrame) : (s.setRx n r).fbs = s.fbs := with_fp_fbs s _
@[simp] theorem State.setRx_fio (s : State) (n : Nat) (r : Option RxFrame) : (s.setRx n r).fio = s.fio := with_fp_fio s _
@[simp] theorem State.setRx_cel (s : State) (n : Nat) (r : Option RxFrame) : (s.setRx n r).cel = s.cel := with_fp_cel s _
@[simp] theorem State.setRx_cfg (s : State) (n : Nat) (r : Option RxFrame) : (s.setRx n r).cfg = s.cfg := with_fp_cfg s _
@[simp] theorem State.setRx_hst (s : State) (n : Nat) (r : Option RxFrame) : (s.setRx n r).hst = s.hst := with_fp_hst s _
@[simp] theorem State.setRx_por (s : State) (n : Nat) (r : Option RxFrame) : (s.setRx n r).por = s.por := with_fp_por s _

@[simp] theorem State.setFramer_pending (s : State) (n : Nat) (f : Framer) : (s.setFramer n f).pending = s.pending := with_sen_pending s _
@[simp] theorem State.setFramer_raw (s : State) (n : Nat) (f : Framer) : (s.setFramer n f).raw = s.raw := with_sen_raw s _
@[simp] theorem State.setFramer_wall (s : State) (n : Nat) (f : Framer) : (s.setFramer n f).wall = s.wall := with_sen_wall s _
@[simp] theorem State.setFramer_regs (s : State) (n : Nat) (f : Framer) : (s.setFramer n f).regs = s.regs := with_sen_regs s _
@[simp] theorem State.setFramer_pairCap (s : State) (n : Nat) (f : Framer) : (s.setFramer n f).pairCap = s.pairCap := with_sen_pairCap s _
@[simp] theorem State.setFramer_pairLow (s : State) (n : Nat) (f : Framer) : (s.setFramer n f).pairLow = s.pairLow := with_sen_pairLow s _
@[simp] theorem State.setFramer_out (s : State) (n : Nat) (f : Framer) : (s.setFramer n f).out = s.out := with_sen_out s _
@[simp] theorem State.setFramer_errN (s : State) (n : Nat) (f : Framer) : (s.setFramer n f).errN = s.errN := with_sen_errN s _
@[simp] theorem State.setFramer_ready (s : State) (n : Nat) (f : Framer) : (s.setFramer n f).ready = s.ready := with_sen_ready s _
@[simp] theorem State.setFramer_boots (s : State) (n : Nat) (f : Framer) : (s.setFramer n f).boots = s.boots := with_sen_boots s _
@[simp] theorem State.setFramer_gasp (s : State) (n : Nat) (f : Framer) : (s.setFramer n f).gasp = s.gasp := with_sen_gasp s _
@[simp] theorem State.setFramer_free (s : State) (n : Nat) (f : Framer) : (s.setFramer n f).free = s.free := with_sen_free s _
@[simp] theorem State.setFramer_act (s : State) (n : Nat) (f : Framer) : (s.setFramer n f).act = s.act := with_sen_act s _
@[simp] theorem State.setFramer_shd (s : State) (n : Nat) (f : Framer) : (s.setFramer n f).shd = s.shd := with_sen_shd s _
@[simp] theorem State.setFramer_evt (s : State) (n : Nat) (f : Framer) : (s.setFramer n f).evt = s.evt := with_sen_evt s _
@[simp] theorem State.setFramer_trc (s : State) (n : Nat) (f : Framer) : (s.setFramer n f).trc = s.trc := with_sen_trc s _
@[simp] theorem State.setFramer_tu (s : State) (n : Nat) (f : Framer) : (s.setFramer n f).tu = s.tu := with_sen_tu s _
@[simp] theorem State.setFramer_tke (s : State) (n : Nat) (f : Framer) : (s.setFramer n f).tke = s.tke := with_sen_tke s _
@[simp] theorem State.setFramer_gng (s : State) (n : Nat) (f : Framer) : (s.setFramer n f).gng = s.gng := with_sen_gng s _
@[simp] theorem State.setFramer_ldr (s : State) (n : Nat) (f : Framer) : (s.setFramer n f).ldr = s.ldr := with_sen_ldr s _
@[simp] theorem State.setFramer_fp (s : State) (n : Nat) (f : Framer) : (s.setFramer n f).fp = s.fp := with_sen_fp s _
@[simp] theorem State.setFramer_cst (s : State) (n : Nat) (f : Framer) : (s.setFramer n f).cst = s.cst := with_sen_cst s _
@[simp] theorem State.setFramer_prt (s : State) (n : Nat) (f : Framer) : (s.setFramer n f).prt = s.prt := with_sen_prt s _
@[simp] theorem State.setFramer_asd (s : State) (n : Nat) (f : Framer) : (s.setFramer n f).asd = s.asd := with_sen_asd s _
@[simp] theorem State.setFramer_brg (s : State) (n : Nat) (f : Framer) : (s.setFramer n f).brg = s.brg := with_sen_brg s _
@[simp] theorem State.setFramer_fbs (s : State) (n : Nat) (f : Framer) : (s.setFramer n f).fbs = s.fbs := with_sen_fbs s _
@[simp] theorem State.setFramer_fio (s : State) (n : Nat) (f : Framer) : (s.setFramer n f).fio = s.fio := with_sen_fio s _
@[simp] theorem State.setFramer_cel (s : State) (n : Nat) (f : Framer) : (s.setFramer n f).cel = s.cel := with_sen_cel s _
@[simp] theorem State.setFramer_cfg (s : State) (n : Nat) (f : Framer) : (s.setFramer n f).cfg = s.cfg := with_sen_cfg s _
@[simp] theorem State.setFramer_hst (s : State) (n : Nat) (f : Framer) : (s.setFramer n f).hst = s.hst := with_sen_hst s _
@[simp] theorem State.setFramer_por (s : State) (n : Nat) (f : Framer) : (s.setFramer n f).por = s.por := with_sen_por s _

@[simp] theorem State.setUa_pending (s : State) (ch : Nat) (u : Ua) : (s.setUa ch u).pending = s.pending := with_sen_pending s _
@[simp] theorem State.setUa_raw (s : State) (ch : Nat) (u : Ua) : (s.setUa ch u).raw = s.raw := with_sen_raw s _
@[simp] theorem State.setUa_wall (s : State) (ch : Nat) (u : Ua) : (s.setUa ch u).wall = s.wall := with_sen_wall s _
@[simp] theorem State.setUa_regs (s : State) (ch : Nat) (u : Ua) : (s.setUa ch u).regs = s.regs := with_sen_regs s _
@[simp] theorem State.setUa_pairCap (s : State) (ch : Nat) (u : Ua) : (s.setUa ch u).pairCap = s.pairCap := with_sen_pairCap s _
@[simp] theorem State.setUa_pairLow (s : State) (ch : Nat) (u : Ua) : (s.setUa ch u).pairLow = s.pairLow := with_sen_pairLow s _
@[simp] theorem State.setUa_out (s : State) (ch : Nat) (u : Ua) : (s.setUa ch u).out = s.out := with_sen_out s _
@[simp] theorem State.setUa_errN (s : State) (ch : Nat) (u : Ua) : (s.setUa ch u).errN = s.errN := with_sen_errN s _
@[simp] theorem State.setUa_ready (s : State) (ch : Nat) (u : Ua) : (s.setUa ch u).ready = s.ready := with_sen_ready s _
@[simp] theorem State.setUa_boots (s : State) (ch : Nat) (u : Ua) : (s.setUa ch u).boots = s.boots := with_sen_boots s _
@[simp] theorem State.setUa_gasp (s : State) (ch : Nat) (u : Ua) : (s.setUa ch u).gasp = s.gasp := with_sen_gasp s _
@[simp] theorem State.setUa_free (s : State) (ch : Nat) (u : Ua) : (s.setUa ch u).free = s.free := with_sen_free s _
@[simp] theorem State.setUa_act (s : State) (ch : Nat) (u : Ua) : (s.setUa ch u).act = s.act := with_sen_act s _
@[simp] theorem State.setUa_shd (s : State) (ch : Nat) (u : Ua) : (s.setUa ch u).shd = s.shd := with_sen_shd s _
@[simp] theorem State.setUa_evt (s : State) (ch : Nat) (u : Ua) : (s.setUa ch u).evt = s.evt := with_sen_evt s _
@[simp] theorem State.setUa_trc (s : State) (ch : Nat) (u : Ua) : (s.setUa ch u).trc = s.trc := with_sen_trc s _
@[simp] theorem State.setUa_tu (s : State) (ch : Nat) (u : Ua) : (s.setUa ch u).tu = s.tu := with_sen_tu s _
@[simp] theorem State.setUa_tke (s : State) (ch : Nat) (u : Ua) : (s.setUa ch u).tke = s.tke := with_sen_tke s _
@[simp] theorem State.setUa_gng (s : State) (ch : Nat) (u : Ua) : (s.setUa ch u).gng = s.gng := with_sen_gng s _
@[simp] theorem State.setUa_ldr (s : State) (ch : Nat) (u : Ua) : (s.setUa ch u).ldr = s.ldr := with_sen_ldr s _
@[simp] theorem State.setUa_fp (s : State) (ch : Nat) (u : Ua) : (s.setUa ch u).fp = s.fp := with_sen_fp s _
@[simp] theorem State.setUa_cst (s : State) (ch : Nat) (u : Ua) : (s.setUa ch u).cst = s.cst := with_sen_cst s _
@[simp] theorem State.setUa_prt (s : State) (ch : Nat) (u : Ua) : (s.setUa ch u).prt = s.prt := with_sen_prt s _
@[simp] theorem State.setUa_asd (s : State) (ch : Nat) (u : Ua) : (s.setUa ch u).asd = s.asd := with_sen_asd s _
@[simp] theorem State.setUa_brg (s : State) (ch : Nat) (u : Ua) : (s.setUa ch u).brg = s.brg := with_sen_brg s _
@[simp] theorem State.setUa_fbs (s : State) (ch : Nat) (u : Ua) : (s.setUa ch u).fbs = s.fbs := with_sen_fbs s _
@[simp] theorem State.setUa_fio (s : State) (ch : Nat) (u : Ua) : (s.setUa ch u).fio = s.fio := with_sen_fio s _
@[simp] theorem State.setUa_cel (s : State) (ch : Nat) (u : Ua) : (s.setUa ch u).cel = s.cel := with_sen_cel s _
@[simp] theorem State.setUa_cfg (s : State) (ch : Nat) (u : Ua) : (s.setUa ch u).cfg = s.cfg := with_sen_cfg s _
@[simp] theorem State.setUa_hst (s : State) (ch : Nat) (u : Ua) : (s.setUa ch u).hst = s.hst := with_sen_hst s _
@[simp] theorem State.setUa_por (s : State) (ch : Nat) (u : Ua) : (s.setUa ch u).por = s.por := with_sen_por s _

@[simp] theorem State.putPair_pending (s : State) (p : TimePair) : (s.putPair p).pending = s.pending := with_tu_pending s _
@[simp] theorem State.putPair_raw (s : State) (p : TimePair) : (s.putPair p).raw = s.raw := with_tu_raw s _
@[simp] theorem State.putPair_wall (s : State) (p : TimePair) : (s.putPair p).wall = s.wall := with_tu_wall s _
@[simp] theorem State.putPair_regs (s : State) (p : TimePair) : (s.putPair p).regs = s.regs := with_tu_regs s _
@[simp] theorem State.putPair_pairCap (s : State) (p : TimePair) : (s.putPair p).pairCap = s.pairCap := with_tu_pairCap s _
@[simp] theorem State.putPair_pairLow (s : State) (p : TimePair) : (s.putPair p).pairLow = s.pairLow := with_tu_pairLow s _
@[simp] theorem State.putPair_out (s : State) (p : TimePair) : (s.putPair p).out = s.out := with_tu_out s _
@[simp] theorem State.putPair_errN (s : State) (p : TimePair) : (s.putPair p).errN = s.errN := with_tu_errN s _
@[simp] theorem State.putPair_ready (s : State) (p : TimePair) : (s.putPair p).ready = s.ready := with_tu_ready s _
@[simp] theorem State.putPair_boots (s : State) (p : TimePair) : (s.putPair p).boots = s.boots := with_tu_boots s _
@[simp] theorem State.putPair_gasp (s : State) (p : TimePair) : (s.putPair p).gasp = s.gasp := with_tu_gasp s _
@[simp] theorem State.putPair_free (s : State) (p : TimePair) : (s.putPair p).free = s.free := with_tu_free s _
@[simp] theorem State.putPair_act (s : State) (p : TimePair) : (s.putPair p).act = s.act := with_tu_act s _
@[simp] theorem State.putPair_shd (s : State) (p : TimePair) : (s.putPair p).shd = s.shd := with_tu_shd s _
@[simp] theorem State.putPair_evt (s : State) (p : TimePair) : (s.putPair p).evt = s.evt := with_tu_evt s _
@[simp] theorem State.putPair_trc (s : State) (p : TimePair) : (s.putPair p).trc = s.trc := with_tu_trc s _
@[simp] theorem State.putPair_tke (s : State) (p : TimePair) : (s.putPair p).tke = s.tke := with_tu_tke s _
@[simp] theorem State.putPair_gng (s : State) (p : TimePair) : (s.putPair p).gng = s.gng := with_tu_gng s _
@[simp] theorem State.putPair_ldr (s : State) (p : TimePair) : (s.putPair p).ldr = s.ldr := with_tu_ldr s _
@[simp] theorem State.putPair_fp (s : State) (p : TimePair) : (s.putPair p).fp = s.fp := with_tu_fp s _
@[simp] theorem State.putPair_cst (s : State) (p : TimePair) : (s.putPair p).cst = s.cst := with_tu_cst s _
@[simp] theorem State.putPair_prt (s : State) (p : TimePair) : (s.putPair p).prt = s.prt := with_tu_prt s _
@[simp] theorem State.putPair_asd (s : State) (p : TimePair) : (s.putPair p).asd = s.asd := with_tu_asd s _
@[simp] theorem State.putPair_sen (s : State) (p : TimePair) : (s.putPair p).sen = s.sen := with_tu_sen s _
@[simp] theorem State.putPair_brg (s : State) (p : TimePair) : (s.putPair p).brg = s.brg := with_tu_brg s _
@[simp] theorem State.putPair_fbs (s : State) (p : TimePair) : (s.putPair p).fbs = s.fbs := with_tu_fbs s _
@[simp] theorem State.putPair_fio (s : State) (p : TimePair) : (s.putPair p).fio = s.fio := with_tu_fio s _
@[simp] theorem State.putPair_cel (s : State) (p : TimePair) : (s.putPair p).cel = s.cel := with_tu_cel s _
@[simp] theorem State.putPair_cfg (s : State) (p : TimePair) : (s.putPair p).cfg = s.cfg := with_tu_cfg s _
@[simp] theorem State.putPair_hst (s : State) (p : TimePair) : (s.putPair p).hst = s.hst := with_tu_hst s _
@[simp] theorem State.putPair_por (s : State) (p : TimePair) : (s.putPair p).por = s.por := with_tu_por s _

end Sys2Proof.Machine
end

