-- ==== Sys2Proof/Laws/TickEngine.lean ====
section
/-! SUPPORT. What the voter channels' shared operations do (R62, R66). -/

namespace Sys2Proof.Machine

open Sys2Proof

theorem runs_fetch {s : State} {c : Nat} {w : BitVec 64} {op : Nat} (h : s.runs c w op) :
    (s.chan c).fetch = some w := by
  obtain ⟨_, h2, h3, _, _⟩ := h
  unfold VChan.fetch
  rw [if_pos h2, h3]

/-- A channel that stands at an instruction with this OP runs it. -/
theorem vexec_runs {s : State} {c : Nat} {w : BitVec 64} {op : Nat} (h : s.runs c w op)
    (f : VChan → BitVec 64 → VChan) :
    s.vexec c op f = s.setChan c ((f (s.chan c) w).spend ((cyclesOf op).getD 1)) := by
  simp only [State.vexec, runs_fetch h]
  exact if_pos ⟨h.1, h.2.2.2.1, h.2.2.2.2⟩

theorem vreg_runs {s : State} {c : Nat} {w : BitVec 64} {op : Nat} (h : s.runs c w op)
    (f : VChan → BitVec 64 → BitVec 32) :
    s.vreg c op f = s.vwrote c (rdOf w) (f (s.chan c) w) ((cyclesOf op).getD 1) := vexec_runs h _

/-- Whatever word stands at the pc, an instruction of channel c changes no other part of the state than that channel. -/
theorem vexec_frame (s : State) (c op : Nat) (f : VChan → BitVec 64 → VChan) :
    s.vexec c op f = s ∨ ∃ v, s.vexec c op f = s.setChan c v := by
  simp only [State.vexec]
  split
  · split
    · exact Or.inr ⟨_, rfl⟩
    · exact Or.inl rfl
  · exact Or.inl rfl

theorem clipInt_eq (lo hi i : Int) (h : lo ≤ hi) : clipInt lo hi i = max lo (min hi i) := by
  unfold clipInt
  split
  · omega
  · split <;> omega

end Sys2Proof.Machine
end

