-- ==== Sys2Proof/Tests/Slice0.lean ====
section
/-! SUPPORT. Tests of slice 0: commands that are not well formed, the worked examples of the spec, and for every statement with
hypotheses a concrete state and operands that meet them. -/

namespace Sys2Proof.Tests

open Sys2Proof Sys2Proof.Machine

set_option Elab.async false

/-- A small state: the reset state with some fields set. -/
def st (l : List (Fld × List Nat × Nat)) : State := l.foldl (fun s e => s.sf e.1 e.2.1 e.2.2) State.reset

/-- No time passes to raw count 0, so a witness state u is itself the state at t = 0. -/
theorem clock_zero (s : State) : s.clock 0 = s := by
  simp only [State.clock, Nat.max_zero, Nat.zero_sub, Nat.add_zero]

/-- Voter channel 0 in the state v. -/
def vm (v : VChan) : State := { State.reset with tke := { vc := [(0, v)] } }

/-- A running channel at a word. -/
def at0 (w : BitVec 64) : VChan := { phase := .running, code := [(0, w)] }

/-- An instruction word by its fields OP, RD, RA, RB, IMM, RC and IMM32 (Table TCK-10). -/
def ins (op rd ra rb imm rc x : Nat) : BitVec 64 :=
  BitVec.ofNat 64 (op * 2 ^ 56 + rd * 2 ^ 51 + ra * 2 ^ 46 + rb * 2 ^ 41 + imm * 2 ^ 40 + rc * 2 ^ 32 + x)

/-- W[2] of channel 0 is x, and the channel stands at a word. -/
def w2 (x : BitVec 32) (w : BitVec 64) : State := vm { at0 w with w := [(2, x)] }

/-! A command that is not well formed, for each check of WellFormed.lean, and one that passes it. -/

/-- A classical CAN frame of base identifier 1 with two data bytes. -/
def frameOk : CanFrame :=
  { id := 0x40000, ide := false, rtr := false, fdf := false, brs := false, esi := false, dlc := 2, data := [1, 2] }

theorem test_wf_time_order :
    [Instr.servoPairChange 2 0 1, .grantReceived 1 0 2 [], .uartCharacterReceived 1 0 2 0 [],
      .stretchTimeout 1 0 2, .busStuck 1 0 true 2, .sideBandLine 1 0 true 2, .canMessageReceived 1 0 2 frameOk, .canTxDone 1 0 2 0, .arbLost 1 0 2,
      .canBusError 1 0 .transmitter 2 none, .txdTmo 1 0 true 2, .short 1 0 2, .loadReading 1 0 2 0 0 0,
      .syncReceived 1 0 9 ⟨0, 0, 0, 0, false, []⟩].all
        (fun i => !i.wellFormed) = true := by decide

theorem test_wf_pdelay :
    [Instr.pdelayMessageReceived 1 0 (.request 9 0 0), .pdelayMessageReceived 1 0 (.response 5 0 0 4 0),
      .pdelayMessageReceived 1 0 (.response 0 5 4 4 0), .pdelayMessageReceived 1 0 (.response 0 0 0 9 0)].all
        (fun i => !i.wellFormed) = true := by decide

theorem test_wf_sizes :
    [Instr.codewordReceived 1 0 16 false, .frameHeaderReceived 1 0 0 8 [], .frameHeaderReceived 1 0 0 9 [0],
      .bridgeTransactionDone 1 0 (.ok (List.replicate 257 0)), .tailWrite 1 0 0 [⟨0, 1, true, [1, 2]⟩],
      .tailWrite 1 0 0 [⟨0, 65536, true, []⟩], .samplePreload 1 [true] [], .extest 1 [true] [], .extestPulse 1 [] [true],
      .extestTrain 1 [] [true]].all (fun i => !i.wellFormed) = true := by decide +kernel

theorem test_wf_lengths :
    (Instr.usbRegWrite 1 0 (List.replicate 65536 0)).wellFormed = false ∧
    (Instr.mgtRegisterRequest 1 0 0 (List.replicate 1473 0)).wellFormed = false := by
  simp only [Instr.wellFormed, List.length_replicate]
  exact ⟨rfl, rfl⟩

theorem test_wf_alignment :
    [Instr.registerWrite 1 .pcie 2 0 15, .rcRead 1 .usb 1, .lowWordCapture 1 .mgmt 3].all (fun i => !i.wellFormed) = true := by
  decide

theorem test_wf_can_frame :
    [{ frameOk with data := [1] }, { frameOk with rtr := true }, { frameOk with rtr := true, fdf := true, data := [] },
      { frameOk with brs := true }, { frameOk with esi := true }, { frameOk with id := 1 }].all
        (fun f => !(Instr.canMessageReceived 1 0 1 f).wellFormed && !(Instr.selectiveWakeFrame 1 0 true f).wellFormed) = true := by
  decide

theorem test_wf_samples :
    [Instr.weighWindowEnd 1 0 0 1 0 0 0 0 false, .weighWindowEnd 1 0 0 0 0 1 0 0 false, .zeroTracking 1 0 0 1 2 false,
      .celZero 1 true 3 1 2 false, .calZero 1 true 3 1 2 false, .calSpan 1 true 3 1 2 false].all (fun i => !i.wellFormed) = true := by decide

theorem test_wf_passes :
    [Instr.servoPairChange 1 0 2, .canMessageReceived 1 0 1 frameOk, .registerWrite 1 .pcie 4 0 15,
      .pdelayMessageReceived 1 0 (.response 1 2 3 8 0), .weighWindowEnd 1 0 0 0 1 0 1 0 false, .calZero 1 true 19200 1 1 false,
      .bridgeTransactionDone 1 0 (.ok (List.replicate 256 0)), .frameHeaderReceived 1 0 0 8 [0], .tickInstant 1].all
        (fun i => i.wellFormed) = true := by decide +kernel

/-! Tests against the spec's worked examples and tables. -/

/-- W[1] of channel 0 in the state that an outcome answers. -/
def reg1 : Out → Option (BitVec 32)
  | .next s => some ((s.chan 0).reg 1)
  | _ => none

/-- W[2] = x, W[3] = y, and the channel stands at OP with RD 1, RA 2, RB 3 in registers. -/
def w23 (x y : BitVec 32) (op : Nat) : State := vm { at0 (ins op 1 2 3 0 0 0) with w := [(2, x), (3, y)] }

/-- Table TCK-11: ADD and SUB modulo 2^32. -/
theorem test_add_sub_wrap : reg1 (exec (.add 0) (w23 0xFFFFFFFF 2 0x02)) = some 1 ∧
    reg1 (exec (.sub 0) (w23 1 2 0x03)) = some 0xFFFFFFFF := by and_intros <;> decide

/-- Table TCK-11: the amount of a shift is its low five bits. -/
theorem test_shift_amount : reg1 (exec (.shl 0) (w23 1 33 0x07)) = some 2 ∧
    reg1 (exec (.shr 0) (w23 0x80000000 63 0x08)) = some 1 := by and_intros <;> decide

/-- Table TCK-11: SATADD clips at the ends of the signed range. -/
theorem test_satadd_clips : reg1 (exec (.satadd 0) (w23 0x7FFFFFFF 1 0x0B)) = some 0x7FFFFFFF ∧
    reg1 (exec (.satadd 0) (w23 0x80000000 0xFFFFFFFF 0x0B)) = some 0x80000000 := by and_intros <;> decide

/-- Table TCK-11: DIV truncates toward 0 and answers 0 for a divisor of 0; REM then answers the dividend. -/
theorem test_div_rem : reg1 (exec (.div 0) (w23 0xFFFFFFF9 2 0x0D)) = some 0xFFFFFFFD ∧
    reg1 (exec (.rem 0) (w23 0xFFFFFFF9 2 0x0E)) = some 0xFFFFFFFF ∧
    reg1 (exec (.div 0) (w23 7 0 0x0D)) = some 0 ∧ reg1 (exec (.rem 0) (w23 7 0 0x0E)) = some 7 := by
  and_intros <;> decide

/-- Table TCK-11: TSUB saturates at plus and minus 2,147,483,647. -/
theorem test_tsub_saturates :
    reg1 (exec (.tsub 0) (vm { at0 (ins 0x19 1 2 3 0 0 0) with t := [(2, 0), (3, 0x80000000)] })) = some 0x80000001 := by
  decide

/-- The check value of the CRC-32 of IEEE 802.3. -/
theorem test_crc32_check : crc32 [0x31, 0x32, 0x33, 0x34, 0x35, 0x36, 0x37, 0x38, 0x39] = 0xCBF43926 := by decide +kernel

/-- The check value of the CRC-16 with polynomial 1021h and initial value FFFFh. -/
theorem test_crc16_check : crc16 [0x31, 0x32, 0x33, 0x34, 0x35, 0x36, 0x37, 0x38, 0x39] = 0x29B1 := by decide +kernel

/-- Worked example of spec/09: the XOR-8 of "BCS,4711,A" is 10h. -/
theorem test_barcode_checksum :
    xor8 [0x42, 0x43, 0x53, 0x2C, 0x34, 0x37, 0x31, 0x31, 0x2C, 0x41] = 0x10 := by decide

/-- Worked example of spec/09: the tag block of the sentence stamped 1,734,099,999,998,713,651 ns. -/
theorem test_tag_block :
    ((st [(Fd.SEN_CFG_UTC_OFS, [], 37)]).writeTag { queue := 4100, lsn := 3, row := 0 } { stamp := 1734099999998713651 * 2 ^ 32 }).1 =
      [0x5C, 0x63, 0x3A, 0x31, 0x37, 0x33, 0x34, 0x30, 0x39, 0x39, 0x39, 0x36, 0x32, 0x2A, 0x35, 0x35, 0x5C] := by
  decide +kernel

/-- A base-identifier FD message with BRS and a DLC, as a buffer holds it. -/
def fdMsg (dlc : Nat) : Tab (BitVec 32) := [(0, 0), (1, BitVec.ofNat 32 (dlc + 16 + 32))]

/-- Worked example of spec/10: durations at 1 Mbit/s and 8 Mbit/s, in quarters of a ns. -/
theorem test_can_durations :
    let s := st [(Fd.FBn_NBT_NBRP, [3], 1), (Fd.FBn_NBT_NTSEG1, [3], 61), (Fd.FBn_NBT_NTSEG2, [3], 16),
      (Fd.FBn_DBT_DBRP, [3], 0), (Fd.FBn_DBT_DTSEG1, [3], 12), (Fd.FBn_DBT_DTSEG2, [3], 5)]
    [8, 10, 12, 13].map (fun k => s.duration4 3 (fdMsg k)) = [192500, 232500, 275000, 315000] := by
  decide +kernel

/-- Worked example of spec/06: the pools of an unpaired module with two ring ports and sixteen edge ports; the ring groups
stand in mode 6h here, so that each holds one port. -/
theorem test_pool_sizes :
    let ports : List Nat := [0, 8] ++ (List.range 16).map (· + 16)
    let s : State := st ([(Fd.CST_RING_EAST, [], 0), (Fd.CST_RING_WEST, [], 8), (Fd.LDR_POOL_CFG_ASR_CELLS, [], 32768)] ++
      ([0, 8] : List Nat).flatMap (fun n => [(Fd.LDR_PORTn_HOP_HOP_WIN, [n], 2048), (Fd.LDR_PORTn_HOP_RING, [n], 1),
        (Fd.PGn_MODE_MODE, [n / 8], 6)]) ++
      [(Fd.PGn_MODE_MODE, [2], 3), (Fd.PGn_MODE_MODE, [3], 3)] ++
      ports.map (fun n => (Fd.LDR_PORTn_CFG_EXP_CELLS, [n], if n < 16 then 2048 else 128)))
    (List.range 6).map s.poolSize = [6144, 128, 288, 8160, 24608, 484960] := by
  decide +kernel

/-- Worked example of spec/14: a set that takes the hyper-cycle from 8 to 16, requested with SWAP_TICK 1,000,012 and checked
115 µs after instant 1,000,012, becomes active at instant 1,000,016. -/
theorem test_swap_instant :
    let s : State := { st [(Fd.TKE_CFG_HC_LOG, [], 3)] with
      raw := 125001615000, tu := { tick := 1000012, base := some 0 }, shd := { regs := [(0x70000, some 0x402)] } }
    s.sinceInstant = some 115000 ∧ s.swapInstant { kind := .live, at_ := true, tick := 1000012, since := 0 } = 1000016 := by
  decide +kernel

/-- Worked example of spec/13: a window of 60 ms has 1,152 samples, and 617.3 d rounds to 617 d. -/
theorem test_weighing :
    ({ par := [(5, 60)] } : CelCh).samples = 1152 ∧ roundD ⟨12346000000, 1⟩ 20000000 = 617 ∧ roundD ⟨-5, 1⟩ 2 = -3 ∧ roundD ⟨-4993, 10⟩ 1000 = 0 := by
  and_intros <;> decide

/-- Table MAP-4: severities. -/
theorem test_severities : [0x0182, 0x0480, 0x0080, 0x0401].map sevOf = [3, 2, 1, 0] := by decide

/-! Witnesses of the statements. -/

theorem witness_VmLogic : ∀ op ∈ [1, 2, 3, 4, 5, 6, 7, 8, 9, 10],
    (w2 9 (ins op 1 2 2 0 2 0)).runs 0 (ins op 1 2 2 0 2 0) op ∧ ((w2 9 (ins op 1 2 2 0 2 0)).chan 0).reg 2 = 9 := by
  decide

theorem witness_VmArith :
    (∀ op ∈ [0x0B, 0x0C, 0x19, 0x1A], (w2 9 (ins op 1 2 2 0 0 0)).runs 0 (ins op 1 2 2 0 0 0) op) ∧
    (∀ op ∈ [0x0D, 0x0E],
      (let w := ins op 1 2 2 0 0 0
       (w2 9 w).runs 0 w op ∧ ((w2 9 w).chan 0).b w ≠ 0) ∧
      (let w := ins op 1 2 3 0 0 0
       (w2 9 w).runs 0 w op ∧ ((w2 9 w).chan 0).b w = 0) ∧
      (let w := ins op 1 2 0 1 0 0xFFFFFFFF
       (w2 0x80000000 w).runs 0 w op ∧ ((w2 0x80000000 w).chan 0).a w = 0x80000000 ∧
        ((w2 0x80000000 w).chan 0).b w = 0xFFFFFFFF)) := by
  and_intros <;> decide

theorem witness_VmMemory :
    (∀ e ∈ [(0x10, 0x1FFFC), (0x10, 0x30000), (0x11, 0x20000), (0x11, 0x2FFFC), (0x11, 0x30000), (0x11, 0x1FFFC),
        (0x18, 0x1FFF8), (0x18, 0x30000)],
      let w := ins e.1 1 2 2 0 0 e.2
      (w2 0 w).runs 0 w e.1 ∧ ((((w2 0 w).chan 0).a w).toNat + imm32 w) % 2 ^ 32 = e.2) ∧
    (∀ e ∈ [0, 119], let w := ins 0x28 0 2 0 0 0 e
      (w2 5 w).runs 0 w 0x28 ∧ (0x400 + 128 * bits w.toNat 6 0) / 4 = 0x100 + 32 * e) := by
  and_intros <;> decide

theorem witness_VmFlow :
    (let w := ins 0x20 0 3 0 1 0 2
     (w2 0 w).runs 0 w 0x20 ∧ immOf w = true) ∧
    (let w := ins 0x20 0 3 0 0 0 2
     (w2 0 w).runs 0 w 0x20 ∧ immOf w = false ∧ ((w2 0 w).chan 0).a w = 0) ∧
    (let w := ins 0x21 1 0 0 0 0 0
     (w2 0 w).runs 0 w 0x21 ∧ bits w.toNat 15 0 = 0) ∧
    (let w := ins 0x21 1 0 0 0 0 3
     (w2 0 w).runs 0 w 0x21 ∧ bits w.toNat 15 0 ≠ 0) ∧
    (let f : LoopFrame := { first := 1, last := 1, count := 2, index := 0, reg := 1 }
     let v : VChan := { loops := [f] }
     v.loops = f :: [] ∧ f.index + 1 < f.count) ∧
    (w2 0 (ins 0x3F 0 0 0 0 0 0)).runs 0 (ins 0x3F 0 0 0 0 0 0) 0x3F ∧
    (let v := at0 (ins 0x3E 0 0 0 0 0 0)
     v.phase = .running ∧ v.pc < 65536 ∧ Tab.get 0 v.code v.pc = ins 0x3E 0 0 0 0 0 0 ∧
      v.valid (ins 0x3E 0 0 0 0 0 0) = false) ∧
    (let v := ({ at0 0 with pc := 65536 } : VChan)
     v.phase = .running ∧ 65536 ≤ v.pc) := by
  and_intros <;> decide

def tickState : State := { st [] with raw := 200000, tu := { base := some 0 } }
theorem witness_TickClock :
    (tickState.tu.atInstant = false ∧ tickState.sinceInstant = some 200000 ∧ (tickState.period : Int) ≤ 200000) ∧
    ({ tickState with tu := { tickState.tu with atInstant := true } } : State).tu.atInstant = true ∧
    (State.reset.tu.atInstant = false ∧ State.reset.tu.base = none ∧ State.reset.tu.strobe = none) ∧
    (({ tickState with tke := { asmOpen := true } } : State).tke.asmOpen = true ∧ tickState.tickPast 1000 = true) ∧
    (tickState.tickPast tickState.stagingNs = true ∧ tickState.tke.staging = false ∧ tickState.role ≠ 2) ∧
    (let u := tickState.set0 Fd.ASD_STAT_ROLE 2
     u.tickPast u.stagingNs = true ∧ u.tke.staging = false ∧ u.role = 2 ∧ u.asd.lastEnd ≠ some u.tu.tick) := by
  and_intros <;> decide

/-- 250 us into a tick with the time base set. -/
def late : State := { st [(Fd.POR_STAT_STATE, [], 4), (Fd.CFG_STAT_BOOT, [], 2)] with
  raw := 249000, tu := { base := some 0, committed := true } }

theorem witness_TaskEvents :
    (late.tickPast 2000 = true ∧ late.tke.started = false ∧ late.tkeMayRun = true ∧ late.tke.resetTick = false) ∧
    (let u := vm { tasks := [0], phase := .running, taskCycles := 70000 }
     (u.chan 0).tasks = 0 :: [] ∧ (u.chan 0).phase = .running ∧ taskWcet (u.taskRow 0) < (u.chan 0).taskCycles ∧
      (u.chan 0).wcetRaised = false) ∧
    (let u := ({ late with tke := { started := true, vc := [(0, { phase := .ended }), (1, { phase := .ended })] } } : State)
     u.tickPast u.deadlineNs = true ∧ u.tke.started = true ∧ u.tke.deadline = false ∧ u.tke.voteDone = false ∧
      2 ≤ u.voters.length) ∧
    (let u := ({ late with tke := { started := true, vc := [(0, { out := .failed }), (1, { out := .failed })] } } : State)
     u.tickPast u.deadlineNs = true ∧ u.tke.started = true ∧ u.tke.deadline = false ∧ u.tke.voteDone = false ∧
      u.voters.length < 2) ∧
    (let u := ({ late with tke := { consec := 9 } } : State)
     max 1 (u.f Fd.TKE_CFG_OVR_LIMIT) ≤ u.tke.consec ∧ u.fb Fd.TKE_STAT_HALT = false) ∧
    (let u := ({ vm { out := .resync 2 } with tu := { tick := 4000 } } : State)
     (u.chan 0).out = .resync 2 ∧ 2 + u.resyncTicks (u.chan 0) ≤ u.tu.tick ∧ u.tke.started = false) ∧
    (let u := ({ vm { out := .test 2 } with tu := { tick := 4 } } : State)
     (u.chan 0).out = .test 2 ∧ 2 < u.tu.tick) ∧
    (let u := ({ late.set0 Fd.ASD_VC_CFG_TEST_TICKS 5 with tu := { tick := 10, committed := true } } : State)
     u.f Fd.ASD_VC_CFG_TEST_TICKS ≠ 0 ∧ u.tu.tick % u.f Fd.ASD_VC_CFG_TEST_TICKS = 0 ∧ u.tkeMayRun = true ∧
      u.tke.started = false ∧ (∀ c ∈ [0, 1, 2], (u.chan c).out = .none)) ∧
    (let u := ({ State.reset with raw := 900000, tu := { strobe := some 7, base := some 0 } } : State)
     u.tu.strobe = some 7 ∧ u.tu.base.isSome = true ∧ 7 + 2 * u.period ≤ u.raw ∧ u.tke.lost = false) := by
  and_intros <;> decide

/-- An image frame payload of tick 0 with one entry. -/
def imgPay : Bytes := [0x10, 1, 0, 1] ++ List.replicate 16 0 ++ [0, 0, 0, 4, 0, 0, 0, 0]

/-- An image frame that arrived at a time in ns waits for the Tick Engine in tick n, with the instant of tick 0 at 1,000 ns. -/
def imgQueue (p : Bytes) (n ns : Nat) : State :=
  { State.reset with
    tu := { tick := n, base := some 1000 }
    ldr := { items := [(2, { stamp := ns * 2 ^ 32, lenValid := true, refs := 1
                             bytes := List.replicate 12 0 ++ [0x88, 0xB5] ++ p ++ [0, 0, 0, 0] })]
             queues := [(5632, { entries := [{ desc := 2 }] })] } }

theorem witness_TickData :
    (some (1 : BitVec 32) ≠ none ∧ some (1 : BitVec 32) ≠ some 2 ∧ (none : Option (BitVec 32)) ≠ some 2) ∧
    (let u := ({ State.reset with tke := { started := true, deadline := true, vc := [(0, { phase := .ended }), (1, { phase := .ended })] } } : State)
     u.tke.started = true ∧ u.tke.voteDone = false ∧ 2 ≤ u.voters.length ∧ u.tke.deadline = true) ∧
    (let v : VChan := { phase := .ended }
     let u := ({ State.reset with tke := { started := true, vc := [(0, v), (1, v), (2, { out := .failed })] } } : State)
     u.tke.started = true ∧ u.tke.voteDone = false ∧ 2 ≤ u.voters.length ∧
      (∀ c ∈ [0, 1, 2], (u.chan c).out ≠ .none ∨ (u.chan c).phase = .ended)) ∧
    (late.tke.started = false ∧ late.tickPast late.voteNs = true ∧ late.tke.framesOut = false) ∧
    (let u := ({ late with
        act := { maps := { exports := [{ frame := 3, offset := 0, imp := 0, len := 4 }] } }
        tke := { voteDone := true } } : State)
     u.tke.voteDone = true ∧ u.tke.overrun = false ∧ u.tkeMayRun = true ∧ u.fio.linkDown.contains 0 = false ∧ 3 ∉ u.tke.sent ∧
      (∃ e ∈ u.act.maps.exports, e.frame = 3)) ∧
    (∀ e ∈ [(([] : Bytes), 0, 1000, true), (imgPay, 0, 999, true), (imgPay, 0, 1000, false), (imgPay, 0, 124000, false),
        (imgPay, 0, 124001, true), (imgPay, 1, 127000, true)],
      let u := imgQueue e.1 e.2.1 e.2.2.1
      let r := u.takeHead 5632 .good
      let i := r.1.item 2
      let p := (i.bytes.take (i.bytes.length - 4)).drop (parseFrame i.bytes).body
      let w := r.1.releaseCopy 2
      r.2 = some 2 ∧ i.poison = [] ∧ (e.1 = [] ∧ imagePayload p = none ∨
        imagePayload p = some [(0, [0, 0, 0, 0])] ∧ w.tu.base.isSome = true ∧
        decide (beAt p 4 8 ≠ w.tu.tick ∨ (w.tu.base.isSome = true ∧
            (readNs i.stamp < w.instantNs ∨ w.instantNs + w.stagingNs < readNs i.stamp))) = e.2.2.2)) ∧
    (State.reset.takeHead 5632 .good).2 = none := by
  and_intros <;> decide +kernel

theorem witness_TimeSteps :
    (∀ p ∈ [Party.pcie, .mgmt], (State.reset.hostWrite p).f Fd.TU_STAT_STATE = 0 ∧
      ((st [(Fd.TU_STAT_STATE, [], 1)]).hostWrite p).f Fd.TU_STAT_STATE ≠ 0) ∧
    (∀ l ∈ [none, some 0], let u := ({ st [(Fd.TU_STAT_STATE, [], 1)] with
        raw := 975000, tu := { syncFresh := true, diff := some 5, lastChange := l } } : State)
     u.f Fd.TU_STAT_STATE = 1 ∧ u.tu.syncFresh = true ∧ u.raw + 1000 ≤ 976000 ∧ u.tu.diff = some 5 ∧
      (u.tu.lastChange = none ∨ u.tu.lastChange = some 0 ∧ 0 + 976000 ≤ 976000)) ∧
    (∀ e ∈ [(4, false, 0), (0, false, 0), (4, true, 974999), (4, true, 975000), (2, true, 0)],
      let u := ({ st [(Fd.TU_STAT_STATE, [], e.1), (Fd.TU_CFG_PPS_IN_EN, [], 1), (Fd.TU_CFG_GM_CAP, [], 1)] with
        raw := e.2.2, tu := { committed := e.2.1, lastChange := some 0 } } : State)
      u.fb Fd.TU_CFG_PPS_IN_EN = true ∧ u.fb Fd.TU_CFG_PPS_IN_FALL = false ∧ u.f Fd.TU_STAT_STATE = e.1 ∧
       u.fb Fd.TU_CFG_GM_CAP = true ∧ u.tu.committed = e.2.1 ∧ u.tu.lastChange = some 0 ∧ u.raw = e.2.2) ∧
    (let u := ({ st [(Fd.TU_STAT_STATE, [], 2), (Fd.TU_CFG_SYNC_IV, [], 10)] with raw := 1953125 } : State)
     u.f Fd.TU_STAT_STATE = 2 ∧ 2 * 1000000000 ≤ (u.raw - u.tu.syncRef) * 2 ^ u.f Fd.TU_CFG_SYNC_IV) ∧
    (let u := ({ st [(Fd.TU_STAT_RANK, [], 1), (Fd.TU_CFG_SYNC_IV, [], 3)] with raw := 10 ^ 9 } : State)
     1 = u.f Fd.TU_STAT_RANK ∧ u.f Fd.TU_STAT_STATE ≠ 4 ∧
      (2 + 1) * 1000000000 ≤ (u.raw - u.tu.syncRef) * 2 ^ u.f Fd.TU_CFG_SYNC_IV) ∧
    (({ yPort := some 3 } : Tu).yPort = some 3) ∧
    (let u := ({ st [(Fd.TU_CFG_PPS_IN_EN, [], 1)] with raw := 1100000000, tu := { ppsInAt := some 0 } } : State)
     u.tu.ppsInAt = some 0 ∧ u.fb Fd.TU_CFG_PPS_IN_EN = true ∧ 0 + 1100000000 ≤ u.raw) := by
  and_intros <;> decide +kernel

theorem witness_TimeReads :
    (∀ e ∈ [(10 ^ 9, true), (10 ^ 9 + 10 ^ 6, false)],
      let u := ({ st [(Fd.TU_PPS_OUT_EN, [], 1), (Fd.TU_STAT_STATE, [], 2)] with
        raw := e.1, tu := { ppsFall := if e.2 then none else some (10 ^ 9) } } : State)
      let x := (u.nowNs : Int) + sext 16 (u.f Fd.TU_PPS_OUT_ADJ)
      x / 1000000000 = 1 ∧ u.fb Fd.TU_PPS_OUT_EN = true ∧ u.f Fd.TU_STAT_STATE ≠ 0 ∧ u.tu.ppsOut ≠ some 1 ∧
        decide (x % 1000000000 ≤ 1) = e.2 ∧ u.tu.ppsFall.isNone = e.2) ∧
    (∀ e ∈ [(10 ^ 9, true), (10 ^ 9 + 10 ^ 4, false)],
      let u := ({ st [(Fd.TU_TICK_OUT_EN, [], 1)] with
        raw := e.1, tu := { base := some 0, tickFall := if e.2 then none else some (10 ^ 9) } } : State)
      let x := (u.nowNs : Int) + sext 16 (u.f Fd.TU_TICK_OUT_ADJ) - 0
      let n := x / (u.period : Int)
      u.tu.base = some 0 ∧ u.fb Fd.TU_TICK_OUT_EN = true ∧ n % 2 ^ u.f Fd.TU_TICK_OUT_DIV = 0 ∧
        u.tu.tickOut ≠ some n ∧ decide (x % (u.period : Int) ≤ 1) = e.2 ∧ u.tu.tickFall.isNone = e.2) := by
  and_intros <;> decide +kernel

/-- A slave of the master m. -/
def slave (m : BitVec 64) : State :=
  { st [(Fd.TU_PORTn_CFG_ROLE, [3], 1), (Fd.TU_CFG_DOMAIN, [], 7), (Fd.TU_STAT_STATE, [], 1)] with
    tu := { master := m }, cst := { masters := [m] } }

theorem witness_TimePorts_sync : ∃ m : SyncMsg,
    (slave m.master).f Fd.TU_PORTn_CFG_ROLE [3] = 1 ∧ m.domain.toNat = (slave m.master).f Fd.TU_CFG_DOMAIN ∧
      (slave m.master).takesSync m = true := by
  refine ⟨{ domain := 7, master := Config.eui64 + 1, origin := 0, corr := 0 }, rfl, rfl, ?_⟩
  have h : (Config.eui64 + 1 == ownEui) = false := by
    rw [beq_eq_false_iff_ne]
    intro h
    exact absurd (congrArg BitVec.toNat h) (by simp only [ownEui]; bv_omega)
  have hr : (slave (Config.eui64 + 1)).rankOf (Config.eui64 + 1) = some 0 := by
    simp [State.rankOf, slave, findNat, List.range, List.range.loop]
  have hs : (slave (Config.eui64 + 1)).f Fd.TU_STAT_STATE = 1 := rfl
  have hm : (slave (Config.eui64 + 1)).tu.master = Config.eui64 + 1 := rfl
  simp only [State.takesSync, hr, h, hs, hm]
  simp

/-- No frame waits in CTL, so the read of its queue changes nothing. -/
theorem witness_TimePorts_read (m : BitVec 64) (k : Bytes → Bool) :
    (slave m).ctlRead 1 3 k = slave m := rfl

/-- A Sync of 44 bytes over Ethernet, or over IPv6 without the trailer, in transmission from a transparent clock's port.
-/
def syncTx (ip : Bool) : TxFrame :=
  { tc := 7, from_ := 2
    bytes := List.replicate 12 0 ++ (if ip then beBytes 2 0x86DD ++ [0x60, 0, 0, 0, 0, 52, 17, 64] ++ List.replicate 32 0
      ++ [1, 63, 1, 63, 0, 52, 0, 0] else beBytes 2 0x88F7) ++ ptpHeader 0 44 0 0 0 0 0 0 ++ List.replicate 14 0 }

theorem witness_TimePorts :
    ((slave 0).ctlCut 3 = false ∧ (slave 0).f Fd.TU_PORTn_CFG_ROLE [3] ≠ 0) ∧
    (let u := st [(Fd.TU_STAT_STATE, [], 4)]
     u.f Fd.TU_STAT_STATE = 4 ∧ u.tu.syncSent = none) ∧
    (let u := st [(Fd.TU_PORTn_CFG_ROLE, [256], 1)]
     u.f Fd.TU_PORTn_CFG_ROLE [256] ≠ 0 ∧ (Tab.get {} u.tu.pdelay 256).lastSent = none) ∧
    (let u := (st [(Fd.TU_PORTn_CFG_ROLE, [2], 2)]).setEgress 4 { tx := some (syncTx false) }
     let x := syncTx false
     (u.egress 4).tx = some x ∧ u.f Fd.TU_PORTn_CFG_ROLE [2] = 2 ∧ x.isMessage 2 0 .ethernet 0 = true ∧
       (correctPtp (parseFrame x.bytes) x.bytes 5).isSome) ∧
    (let u := (st [(Fd.TU_PORTn_CFG_ROLE, [2], 2)]).setEgress 4 { tx := some (syncTx true) }
     let x := syncTx true
     (u.egress 4).tx = some x ∧ u.f Fd.TU_PORTn_CFG_ROLE [2] = 2 ∧ x.isMessage 2 0 (.udp6 false) 0 = true ∧
       correctPtp (parseFrame x.bytes) x.bytes 5 = none) := by
  and_intros <;> decide +kernel

/-- Ports 9 and 257 in a state, long ago. -/
def inPst (k : Nat) : State :=
  { st [(Fd.PGn_Pp_STAT_STATE, [1, 1], k), (Fd.ASD_Gg_PSTAT_STATE, [1], k)] with raw := 10 ^ 9 }

theorem witness_PortBringUp :
    (∀ k ∈ [1, 2, 3, 4, 5, 6, 7], (inPst k).pst 9 = k ∧ (inPst k).pst 257 = k) ∧
    (∀ n ∈ [9, 257], (inPst 2).moduleOk n = true) ∧
    Tab.get 0 (inPst 3).prt.since 9 + 500000000 ≤ (inPst 3).raw ∧
    Tab.get 0 (inPst 4).prt.since 9 + 10000000 ≤ (inPst 4).raw ∧
    (∀ n ∈ [9, 257], Tab.get 0 (inPst 5).prt.since n + (inPst 5).upHoldNs n ≤ (inPst 5).raw) ∧
    ((inPst 5).sf Fd.ASD_Gg_PSTAT_RF [1] 1).fb Fd.ASD_Gg_PSTAT_RF [257 - 256] = true ∧
    ((inPst 5).fb Fd.ASD_Gg_PSTAT_RF [257 - 256] = false ∧ Tab.get 0 (inPst 5).prt.rfEnd 257 ≤ (inPst 5).raw) ∧
    ((inPst 1).groupPorts 32).filter (fun m => (inPst 1).pst m == 1) ≠ [] ∧
    (let u := st [(Fd.PGn_MODE_MODE, [1], 6), (Fd.PGn_Pp_STAT_STATE, [1, 0], 1)]
     (u.groupPorts 1).filter (fun m => u.pst m == 1) ≠ []) := by
  and_intros <;> decide

/-- The counters of Gable lane 1 stand apart from its state, whatever they count. -/
theorem pst_counted (s : State) (c k : Nat) (hl : Reg.ASD_Gg_PSTAT.addr [1] ≠ Reg.ASD_Gg_CNTc_LO.addr [1, c])
    (hh : Reg.ASD_Gg_PSTAT.addr [1] ≠ Reg.ASD_Gg_CNTc_HI.addr [1, c]) (h : Tab.rising none s.regs = true)
    (h' : ∀ v, Tab.rising none (s.wr Reg.ASD_Gg_CNTc_LO [1, c] v).regs = true) : (s.portCount 257 c k).pst 257 = s.pst 257 := by
  unfold State.portCount State.bump64 State.wr64
  rw [if_neg (by decide)]
  generalize s.rd64 Reg.ASD_Gg_CNTc_LO Reg.ASD_Gg_CNTc_HI [257 - 256, c] + BitVec.ofNat 64 k = x
  have e : ((s.wr Reg.ASD_Gg_CNTc_LO [1, c] (BitVec.ofNat 32 x.toNat)).wr Reg.ASD_Gg_CNTc_HI [1, c]
      (BitVec.ofNat 32 (x.toNat / 2 ^ 32))).rd Reg.ASD_Gg_PSTAT [1] = s.rd Reg.ASD_Gg_PSTAT [1] :=
    (Tab.get_set_ne _ _ _ hh (h' _)).trans (Tab.get_set_ne _ _ _ hl h)
  unfold State.pst
  rw [if_neg (by decide), if_neg (by decide)]
  exact congrArg (fun w : BitVec 32 => bits w.toNat Fd.ASD_Gg_PSTAT_STATE.hi Fd.ASD_Gg_PSTAT_STATE.lo) e

theorem witness_PortEvents :
    (∀ k ∈ [5, 6, 7], (inPst k).pst 9 = k ∧ (inPst k).pst 257 = k) ∧
    (st [(Fd.PGn_Pp_STAT_RF, [1, 1], 1)]).fb Fd.PGn_Pp_STAT_RF [9 / 8, 9 % 8] = true ∧
    (st [(Fd.ASD_Gg_PSTAT_RF, [1], 1)]).fb Fd.ASD_Gg_PSTAT_RF [257 - 256] = true ∧
    (let u := inPst 6
     Tab.get 0 u.prt.winEnd 9 < u.nowNs / 1000000 ∧ u.f Fd.PGn_Pp_SD_SD_THR [9 / 8, 9 % 8] = 0) ∧
    (let u := ({ (inPst 6).sf Fd.PGn_Pp_SD_SD_THR [1, 1] 4 with prt := { winSym := [(9, 5)] } } : State)
     Tab.get 0 u.prt.winEnd 9 < u.nowNs / 1000000 ∧ u.f Fd.PGn_Pp_SD_SD_THR [9 / 8, 9 % 8] = 4 ∧ u.pst 9 = 6 ∧
      4 < Tab.get 0 u.prt.winSym 9) ∧
    (let u := ({ (inPst 7).sf Fd.PGn_Pp_SD_SD_THR [1, 1] 4 with prt := { good := [(9, 7)] } } : State)
     Tab.get 0 u.prt.winEnd 9 < u.nowNs / 1000000 ∧ u.f Fd.PGn_Pp_SD_SD_THR [9 / 8, 9 % 8] = 4 ∧ u.pst 9 = 7 ∧
      8 ≤ (if 2 * Tab.get 0 u.prt.winSym 9 < 4 then Tab.get 0 u.prt.good 9 + 1 else 0)) ∧
    (∀ e ∈ [(257, 0), (257, 7)],
      let u := ({ ((inPst 6).sf Fd.PGn_MODE_MODE [1] 0).sf Fd.PGn_Pp_CFG_FEC [1, 1] 2 with prt := { unc := [(e.1, e.2)] } } : State)
      let n := e.1
      let v := u.countCodeword e.1 n 0 true
      u.portOfLane e.1 = some n ∧ u.noFec n = false ∧ v.rx (rxKey n) = none ∧
       (e.2 = 0 ∧ Tab.get 0 v.prt.unc e.1 < 8 ∨ e.2 = 7 ∧ 8 ≤ Tab.get 0 v.prt.unc e.1)) ∧
    (let u := ((inPst 6).sf Fd.PGn_MODE_MODE [1] 0).sf Fd.PGn_Pp_CFG_FEC [1, 1] 0
     u.portOfLane 9 = some 9 ∧ u.noFec 9 = true) ∧
    (let u := ((inPst 6).sf Fd.PGn_MODE_MODE [1] 0).sf Fd.PGn_Pp_CFG_FEC [1, 1] 2
     u.portOfLane 9 = some 9 ∧ u.noFec 9 = false) ∧
    (let u := ({ st [(Fd.PGn_STAT_BURST, [4], 1)] with raw := 10 ^ 9 } : State)
     u.fb Fd.PGn_STAT_BURST [4] = true ∧
      (Tab.get {} u.prt.burst 4).lastRaw + 1000 * u.f Fd.PGn_BURST_CFG_QUIET [4] ≤ u.raw) ∧
    (let u := (inPst 6).sf Fd.PGn_MODE_MODE [1] 0
     ∀ p ∈ [Party.pcie, .mgmt], let w := u.hostWrite p
     w.fb Fd.PGn_Ll_TEST_CHK_EN [1, 1] = false ∧
     w.portOfLane (8 * 1 + 1) = some 9 ∧ (3 : BitVec 32).toNat % 32 ≠ 0 ∧ w.pst 9 ≠ 0) ∧
    (∀ fec ∈ [2, 0], let u := (inPst 2).sf Fd.PGn_OPTm_CFG_EN [1, 2] 1
     let apps : List ModuleApp := [{ code := 1, mode := u.f Fd.PGn_MODE_MODE [1], fec := fec }]
     let v := ({ u with prt := { u.prt with apps := Tab.set [] u.prt.apps (u.moduleKey 1 2) apps } } : State).cmis 1 2 appReads
     u.moduleSlots 1 2 = [(1, 2)] ∧ (v.appFor 1 2 apps).isSome = decide (fec = u.f Fd.PGn_Pp_CFG_FEC [1, 2])) ∧
    State.reset.moduleSlots 1 2 = [] ∧
    (let u := ({ st [(Fd.PGn_OPTm_STAT_PRESENT, [1, 2], 1), (Fd.PGn_OPTm_CFG_EN, [1, 2], 1)] with raw := 50000000 } : State)
     u.fb Fd.PGn_OPTm_STAT_PRESENT [1, 2] = true ∧ Tab.get 0 u.prt.polled (u.moduleKey 1 2) + 50000000 ≤ u.raw) ∧
    (let u := ({ State.reset with raw := 10 ^ 9, cst := { up := [2] } } : State)
     u.sideUp 2 = true ∧ Tab.get 0 u.cst.hello 2 + u.f Fd.CST_CFG_HELLO_MISS ≤ u.tickCount) := by
  and_intros <;> decide +kernel

/-- The eighth uncorrectable codeword in a row takes Gable lane 1, which is up, down. -/
theorem witness_PortEvents_lane : ((inPst 6).countCodeword 257 257 0 true).pst 257 = 6 := by
  have e : ((inPst 6).countCodeword 257 257 0 true).pst 257 =
      ((((inPst 6).portCount 257 8).drawFree.2.portCount 257 10).portCount 257 12
        (((inPst 6).portCount 257 8).drawFree.1.toNat % 81)).pst 257 := rfl
  rw [e, pst_counted _ _ _ (by decide) (by decide) (by decide +kernel) (fun v => Tab.rising_set _ _ _ (by decide +kernel))]
  decide +kernel

theorem witness_Storage :
    (State.reset.qAssured 2 = false ∧ (2 : Nat) ≤ 6143 ∧ (6143 : Nat) < 6144 ∧ State.reset.f Fd.LDR_Qq_CFG_CLASS [2] = 0) ∧
    (let c := 2
     (st [(Fd.LDR_Qq_CFG_CLASS, [2], c)]).qAssured 2 = false ∧ (st [(Fd.LDR_Qq_CFG_CLASS, [2], c)]).f Fd.LDR_Qq_CFG_CLASS [2] ≠ 0) ∧
    ((st [(Fd.LDR_Qq_CFG_CLASS, [2], 1)]).qAssured 2 = true) ∧
    (let u := ({ st [(Fd.LDR_Qq_CFG_STALE_TICKS, [2], 5)] with
        raw := 10 ^ 9, ldr := { queues := [(2, { entries := [{ desc := 0 }] })] } } : State)
     u.f Fd.LDR_Qq_CFG_STALE_TICKS [2] ≠ 0 ∧ (u.queue 2).entries ≠ [] ∧ u.fb Fd.LDR_Qq_STAT_STALE [2] = false ∧
      (u.queue 2).headTick + u.f Fd.LDR_Qq_CFG_STALE_TICKS [2] ≤ u.strobes ∧ u.qAssured 2 = false ∧
      (u.sf Fd.LDR_Qq_CFG_CLASS [2] 1).qAssured 2 = true) ∧
    (let u := st [(Fd.LDR_CFG_SCRUB_S, [], 1)]
     u.f Fd.LDR_CFG_SCRUB_S ≠ 0 ∧ u.fb Fd.POR_STAT_HOLDUP = false ∧ u.ldr.scrub + 1 < 1048576 ∧
      u.ldr.scrubAt + u.f Fd.LDR_CFG_SCRUB_S * 1000000000 * u.ldr.scrub / 1048576 ≤ u.raw ∧
      (let w := ({ u with raw := 10 ^ 10, ldr := { scrub := 1048575 } } : State)
       w.ldr.scrub + 1 = 1048576 ∧ w.ldr.scrubAt + w.f Fd.LDR_CFG_SCRUB_S * 1000000000 * w.ldr.scrub / 1048576 ≤ w.raw)) ∧
    (let u := ({ st [(Fd.LDR_CFG_ROT_MS, [], 3)] with raw := 10 ^ 9 } : State)
     3 = u.f Fd.LDR_CFG_ROT_MS ∧ u.ldr.rot = .idle ∧ u.fb Fd.LDR_STAT_SPARE_LOST = false ∧
      u.ldr.lastRot + 3 * 1000000 ≤ u.raw ∧ u.fb Fd.POR_STAT_HOLDUP = false) ∧
    (∀ b ∈ [true, false], ({ rot := .copying 3 5 b } : Ldr).rot = .copying 3 5 b) ∧
    ({ rot := .testing 7 } : Ldr).rot = .testing 7 ∧
    (let u := ({ st [(Fd.LDR_CFG_DED_RETIRE, [], 1), (Fd.LDR_STAT_SPARE_LOST, [], 1)] with
        ldr := { ded := [(0, 1)] } } : State)
     u.f Fd.LDR_CFG_DED_RETIRE = 1 ∧ 1 ≤ u.dedBank (u.physBank 0) ∧ u.fb Fd.LDR_STAT_SPARE_LOST = true) ∧
    (let u := ({ st [(Fd.LDR_CFG_DED_RETIRE, [], 1)] with ldr := { ded := [(0, 1)] } } : State)
     u.f Fd.LDR_CFG_DED_RETIRE = 1 ∧ 1 ≤ u.dedBank (u.physBank 0) ∧ u.fb Fd.LDR_STAT_SPARE_LOST = false ∧
      u.ldr.rot = .idle) := by
  and_intros <;> decide +kernel

/-- Gingham entry 5 of a port segment or of a reference segment, valid in every tick, at phase x. -/
def ging (seg : Nat) (r : GngRow) (x opened : Nat) : State :=
  { st [(Fd.POR_STAT_STATE, [], 4), (Fd.CFG_STAT_BOOT, [], 2)] with
    raw := x, tu := { base := some 0, committed := true }
    gng := { opened := [(5, opened)] }
    act := { gng := { rows := [(5, r)], segs := [(seg, 5 + 2 ^ 16)] } } }

/-- A valid row: control window 1 to 2 us of every tick; a reference slot. -/
def ctlRow : GngRow := (BitVec.ofNat 32 (2 ^ 31 + 2 * 2 ^ 28 + 1000), 2000, 0)
def refRow : GngRow := (BitVec.ofNat 32 (2 ^ 31 + 4 * 2 ^ 28 + 1000), 2000, 0)

theorem witness_GatesWindows :
    (let v := (ging 3 ctlRow 1000 0).windowTick
     let w : Win := ⟨2, 1000, 2000, 0⟩
     v.windowOf 3 5 = some w ∧ w.start ≤ v.phase.2 ∧ v.phase.2 < w.stop ∧ Tab.get 0 v.gng.opened 5 = 0 ∧
      v.fbPowered = true) ∧
    (let v := (ging 3 ctlRow 2000 1).windowTick
     let w : Win := ⟨2, 1000, 2000, 0⟩
     v.windowOf 3 5 = some w ∧ w.stop ≤ v.phase.2 ∧ Tab.get 0 v.gng.opened 5 = 1 ∧ (3 : Nat) < 256) ∧
    (let v := (ging 256 refRow 2000 1).windowTick
     let w : Win := ⟨4, 1000, 2000, 0⟩
     v.windowOf 256 5 = some w ∧ w.stop ≤ v.phase.2 ∧ Tab.get 0 v.gng.opened 5 = 1 ∧ w.kind = 4) ∧
    ((st [(Fd.GNG_TBL_ADDR_OPEN, [], 1)]).hostWrite .pcie).fb Fd.GNG_TBL_ADDR_OPEN = true ∧
    (State.reset.hostWrite .pcie).fb Fd.GNG_TBL_ADDR_OPEN = false := by
  and_intros <;> decide +kernel

/-- Port 9 is up. -/
def up9 : State := { (inPst 6).sf Fd.PGn_MODE_MODE [1] 0 with tu := { base := some 0, committed := true, tick := 8000 } }

/-- A frame of k bytes that port 9 is receiving. -/
def rxOf (k : Nat) : State :=
  { State.reset with fp := { rx := [(9, some { bytes := List.replicate k 1, stamp := 0, cls := .standard })] } }

/-- A consist frame. -/
def cstFrame : Bytes := List.replicate 12 0 ++ [0x88, 0xB5, 0x20] ++ List.replicate 49 0

/-- Port 9 may send the head of the queue of traffic class 7, as all its classes are open outside windows. -/
def sends9 : State :=
  { up9 with
    act := { gng := { aopen := [(9, 0xFF)] } }
    ldr := { items := [(2, { bytes := List.replicate 64 1, lenValid := true })]
             queues := [(79, { entries := [{ desc := 2 }] })] } }

/-- Recovery function 4 with a timeout of 3 ticks, 10^9 ns after the start. -/
def recov4 (r : Recov) : State :=
  { State.reset with
    raw := 10 ^ 9, fp := { recov := [(4, r)] }, act := { fp := [((0x880000 + 128) / 4, 2 ^ 31 + 3)] } }

/-- A consist frame of 64 bytes with its FCS. -/
def cstFcs : Bytes := withFcs (List.replicate 12 0 ++ [0x88, 0xB5, 0x20] ++ List.replicate 45 0)

theorem witness_Frames_in :
    (up9.pst 9 = 6 ∧ up9.fp.ahead = 0 ∧ ({ up9 with fp := { ahead := 2 } } : State).fp.ahead = 1 + 1) ∧
    (up9.pst 9 = 6 ∧ (up9.dropRx 9).ctlProto 9 (parseFrame cstFrame) cstFrame = some 0) ∧
    (let f := List.replicate 12 0 ++ [0x88, 0xB6]
     (inPst 6).pst 9 = 6 ∧ (st [(Fd.ASD_Gg_PSTAT_STATE, [0], 6)]).pst 256 = 6 ∧ (parseFrame f).etype = 0x88B6) ∧
    (rxOf 60).rx 9 = some { bytes := List.replicate 60 1, stamp := 0, cls := .standard } ∧
    (((rxOf 64).sf Fd.PGn_Pp_CFG_MAXLEN [1, 1] 63).f Fd.PGn_Pp_CFG_MAXLEN [9 / 8, 9 % 8] < 64 ∧
      64 ≤ ((rxOf 64).sf Fd.PGn_Pp_CFG_MAXLEN [1, 1] 64).f Fd.PGn_Pp_CFG_MAXLEN [9 / 8, 9 % 8]) ∧
    (let b : Bytes := List.replicate 64 1
     leAt b (b.length - 4) 4 ≠ crc32 (b.take (b.length - 4))) ∧
    (64 ≤ cstFcs.length ∧ cstFcs.length ≤ 10240 ∧
      leAt cstFcs (cstFcs.length - 4) 4 = crc32 (cstFcs.take (cstFcs.length - 4))) ∧
    (∀ c ∈ [0, 3], let r : RxFrame := { bytes := cstFcs, stamp := 0, cls := .control, control := some c }
     ({ State.reset with fp := { rx := [(9, some r)] } } : State).rx 9 = some r ∧ r.bad = false ∧ r.control = some c) := by
  and_intros <;> decide +kernel

theorem witness_Frames_out :
    (let u := sends9
     let w := u.drainControl.shape 9
     let c := w.candidates 9
     u.linkUp 9 = true ∧ (u.egress 9).tx = none ∧ c.1 = 7 :: c.1.tail ∧
      (let v := c.1.foldl (fun (x : State) k => x.recoverHead 9 (8 * 9 + k) ((x.queue (8 * 9 + k)).entries.length + 1)) w
       v.candidates 9 = c ∧ (v.egress 9).tx = none ∧ (v.egress 9).preempted = none ∧ v.relayChoice 9 = none ∧
        v.tcChoice 9 7 = some (.head 2) ∧ v.choiceMay 9 c.2 7 (.head 2) = true ∧ (v.item 2).poison = [])) ∧
    (∀ n ∈ [9, 256], let x : TxFrame := { bytes := [1] }
     let u := ({ State.reset with fp := { egress := [(n, { tx := some x })] } } : State)
     (u.egress n).tx = some x ∧ x.ended = true ∧ x.bad = false ∧ x.split = false ∧ x.hop = none ∧ x.start ≤ u.raw ∧
       x.item = none ∧ ({ x with item := some (72, 2) } : TxFrame).item = some (72, 2) ∧ x.resent = false) ∧
    (st [(Fd.FP_PORTn_PREEMPT_VERIFY_EN, [9], 1)]).fb Fd.FP_PORTn_PREEMPT_VERIFY_EN [9] = true := by
  and_intros <;> decide +kernel

theorem witness_Frames_tables :
    (let u := recov4 { held := [(8, 2, [], 1)] }
     (u.recov 4).held = [(8, 2, [], 1)] ∧ (u.recovCfg 4).valid = true ∧ (u.recovCfg 4).resetTicks ≠ 0 ∧
      1 + (u.recovCfg 4).resetTicks ≤ u.strobes) ∧
    (let u := recov4 { takeAny := false }
     (u.recov 4).takeAny = false ∧ (u.recovCfg 4).valid = true ∧ (u.recovCfg 4).resetTicks ≠ 0 ∧
      (u.recov 4).passTick + (u.recovCfg 4).resetTicks ≤ u.strobes) ∧
    (let u := ({ State.reset with
        raw := 10 ^ 15, fp := { seen := [(0, some 0)] }, act := { fp := [((0x400000 + 4) / 4, 2 ^ 31)] } } : State)
     Tab.get none u.fp.seen 0 = some 0 ∧ u.fdbValid 0 = true ∧ u.fdbStatic 0 = false ∧
      0 + u.f Fd.FP_CFG_AGE_TIME * 1000000000 ≤ u.raw) := by
  and_intros <;> decide +kernel

/-- Serial channel 3 of an operating module with its role, its bit rate set. -/
def ua3 (x : Ua) : State :=
  { st [(Fd.POR_STAT_STATE, [], 4), (Fd.CFG_STAT_BOOT, [], 2), (Fd.UAn_CFG_DIV, [3], 100)] with sen := { ua := [(3, x)] } }

theorem witness_Serial :
    (partyTakes .mgmt = false ∨ partyTakes .mgmt = true) ∧
    (∃ p ∈ [Party.pcie, Party.mgmt, Party.usb, Party.bridge], partyTakes p = false) ∧
    (∃ p ∈ [Party.pcie, Party.mgmt, Party.usb, Party.bridge], partyTakes p = true) ∧
    ((ua3 {}).fb Fd.UAn_CFG_OWNER [3] = false ∧ ((ua3 {}).sf Fd.UAn_CFG_OWNER [3] 1).fb Fd.UAn_CFG_OWNER [3] = true) ∧
    ((ua3 {}).acting = true ∧ (ua3 {}).operating = true ∧ ((ua3 {}).ua 3).tx.length < 64 ∧
      64 ≤ ((ua3 { tx := List.replicate 64 0 }).ua 3).tx.length) ∧
    ((BitVec.ofNat 32 (2 ^ 24)).getLsbD 24 = true ∧ (0 : BitVec 32).getLsbD 24 = false ∧
      ((ua3 {}).wr Reg.UAn_TXCTL [3] 0).uaLive 3 = true) ∧
    ((ua3 { sending := some (.char 5 0) }).ua 3).sending = some (.char 5 0) ∧
    (ua3 {}).uaHears 3 = true ∧
    (startConfirmed [0, 7] = true ∧ startConfirmed [3] = false ∧ startConfirmed [] = false) ∧
    (((ua3 {}).ua 3).inBreak = false ∧ ((ua3 { inBreak := true }).ua 3).inBreak = true ∧
      (ua3 { inBreak := true }).bitNs 3 = 10000) ∧
    (((ua3 { fullAt := 1 }).ua 3).fullAt = pclk (ua3 { fullAt := 1 }).raw + 1 ∧
      ((ua3 {}).ua 3).fullAt ≠ pclk (ua3 {}).raw + 1) := by
  and_intros <;> decide +kernel

/-- A sentence frame of a UDP talker on stream 0 waits in queue 4096. -/
def udpq (valid : Nat) (bytes : Bytes) : State :=
  { st [(Fd.SEN_TALKt_CFG_VALID, [0], valid), (Fd.SEN_TALKt_CFG_SRC, [0], 0x20)] with
    ldr := { items := [(2, { bytes := bytes, lenValid := true, hasStream := true, refs := 1 })]
             queues := [(4096, { entries := [{ desc := 2 }] })] } }

/-- An IPv4 UDP frame with a payload of one byte. -/
def udpFrame : Bytes :=
  List.replicate 12 0 ++ [0x08, 0x00, 0x45, 0, 0, 29] ++ List.replicate 5 0 ++ [17] ++ List.replicate 10 0 ++
    [0, 1, 0, 2, 0, 9, 0, 0, 5] ++ List.replicate 17 0

/-- A row of the listener table: VALID, a serial or UDP listener on channel or address 3. -/
def lsnState (kind : Nat) : State :=
  { (ua3 {}).sf Fd.UAn_CFG_OWNER [3] 1 with
    act := { sen := [(4096 * 4 + 1, 2 ^ 31 + 4 * 3 + kind)] }
    ldr := { items := [(2, { bytes := [36, 13, 10], lenValid := true, refs := 1 })]
             queues := [(4098, { entries := [{ desc := 2 }] })] } }

/-- The partner is asked for the sentence. -/
def fetched (s : State) : State :=
  { s.set0 Fd.ASD_STAT_ROLE 1 with
    ldr := { s.ldr with items := [(2, { s.item 2 with poison := [0], cls := .assured })] }
    asd := { fetching := [1], mrefOf := [(2, 1)] } }

theorem witness_SentenceRows :
    (let u := ({ State.reset with
        raw := 10 ^ 9, act := { sen := [(0, 2 ^ 255 - 1)] }, sen := { framers := [(7, { mode := .body, last := some 0 })] } } : State)
     (u.talkerGrammar u.act.sen 7).tmo ≠ 0 ∧ (u.framer 7).mode ≠ .hunt ∧
      (u.framer 7).last.getD 0 + (u.talkerGrammar u.act.sen 7).tmo * 1000000 ≤ u.raw) ∧
    (∀ e ∈ [(0, none), (1, some 0)], let u := udpq e.1 udpFrame
     (u.takeHead 4096 .good).2 = some 2 ∧ ((u.takeHead 4096 .good).1.item 2).poison = [] ∧
      findNat 512 (fun n => u.fb Fd.SEN_TALKt_CFG_VALID [n] && u.f Fd.SEN_TALKt_CFG_SRC [n] == 0x20 &&
        ((u.takeHead 4096 .good).1.item 2).hasStream && u.f Fd.SEN_TALKt_LINK_STREAM [n] == ((u.takeHead 4096 .good).1.item 2).stream) = e.2) ∧
    (udpPayload udpFrame).isSome = true ∧ udpPayload (List.replicate 60 0) = none ∧
    (let x : Sentence := { talker := 1, tag := [], body := [36, 13, 10], stamp := 0, assign := 0, rows := [] }
     let v := ({ State.reset with sen := { backlog := [x] } } : State)
     v.sen.backlog = [x] ∧ (v.talkerGrammar x.rows x.talker).ckOk x.body = true ∧
      (v.set0 Fd.ASD_STAT_ROLE 2).acting = false) ∧
    (let v := State.reset
     (v.talkerGrammar [(0, 2 ^ 255 - 1)] 1).ckOk [36, 13, 10] = false) ∧
    (let u := lsnState 0
     let k := lsnCopy u.act.sen 1 4098
     u.headLsn 1 0 = some k ∧ rowF k.row 0 7 2 = 3 ∧ (u.listenerHead 1 .good).2 = some 2 ∧
      u.fb Fd.UAn_CFG_OWNER [3] = true ∧ u.uaLive 3 = true ∧ (u.ua 3).free = true) ∧
    (let u := lsnState 1
     let k := lsnCopy u.act.sen 1 4098
     u.headLsn 1 1 = some k ∧ (u.listenerHead 1 .good).2 = some 2 ∧ u.acting = true ∧ u.operating = true) ∧
    (∀ kind ∈ [0, 1], let u := fetched (lsnState kind)
     u.headLsn 1 kind = some (lsnCopy u.act.sen 1 4098) ∧ (u.listenerHead 1 .good).2 = none ∧ u.acting = true ∧
      u.operating = true ∧ u.fb Fd.UAn_CFG_OWNER [3] = true ∧ u.uaLive 3 = true ∧ (u.ua 3).free = true) ∧
    (∀ p ∈ [Party.pcie, .mgmt], (State.reset.hostWrite p).fb Fd.SEN_TBL_ADDR_OPEN = false) ∧
    (let u := st [(Fd.SEN_TBL_ADDR_OPEN, [], 1)]
     u.fb Fd.SEN_TBL_ADDR_OPEN = true ∧ u.f Fd.SEN_TBL_ADDR_INDEX < senSize (u.f Fd.SEN_TBL_ADDR_TABLE)) := by
  and_intros <;> decide +kernel

/-- A request as its bytes: OP, BUS and RLEN 1. -/
def reqBytes (op bus : Nat) : Bytes := [0, 1, BitVec.ofNat 8 op, BitVec.ofNat 8 bus, 0, 0, 0, 5, 0, 0, 0, 1, 0, 0, 0, 0]

/-- The transaction of a request with a tag, from bridge queue 4. -/
def txnOf (op bus : Nat) : Txn := { tag := 0, req := requestOf (reqBytes op bus), queue := some 4, tick := 0 }

/-- An operating module whose bridge engine is in the state b. -/
def bridge (b : Brg) : State := { st [(Fd.POR_STAT_STATE, [], 4)] with raw := 10 ^ 9, brg := b }

/-- A request waits in bridge queue 4. -/
def bridgeQ (op : Nat) (b : Brg) : State :=
  { bridge b with
    ldr := { items := [(2, { bytes := reqBytes op 0, lenValid := true, refs := 1 })]
             queues := [(5124, { entries := [{ desc := 2 }] })] } }

theorem witness_BridgeRequests :
    (∀ op ∈ [1, 31], let u := bridgeQ op {}
     u.nextBridgeQueue = some 4 ∧ u.operating = true ∧ u.freeTag = some 0 ∧ (u.takeHead 5124 .good).2 = some 2 ∧
      (requestOf (((u.takeHead 5124 .good).1.item 2).bytes.drop (u.f Fd.BRG_Qq_CFG_OFS [4]))).ok = decide (op = 1) ∧
      ((u.takeHead 5124 .good).1.item 2).poison = []) ∧
    (let u := bridgeQ 1 {}
     let w : State := { u with ldr := { u.ldr with items := [(2, { bytes := reqBytes 1 0, lenValid := true, refs := 1, poison := [0] })] } }
     w.nextBridgeQueue = some 4 ∧ w.operating = true ∧ w.freeTag = some 0 ∧ (w.takeHead 5124 .good).2 = some 2 ∧
      ((w.takeHead 5124 .good).1.item 2).poison ≠ []) ∧
    (let u := bridgeQ 1 { txns := List.replicate 4096 (txnOf 1 0) }
     u.nextBridgeQueue = some 4 ∧ u.operating = true ∧ u.freeTag = none) ∧
    ((bridge { txns := [txnOf 4 0] }).nextOn 0 = some (txnOf 4 0) ∧ (txnOf 4 0).req.op = 4) ∧
    (let u := bridge { txns := [txnOf 5 0], buses := [(0, { lock := some 4, lease := 8000 })] }
     u.nextOn 0 = some (txnOf 5 0) ∧ (txnOf 5 0).req.op = 5 ∧ (u.bus 0).lock.isSome = true ∧
      (txnOf 5 0).queue = (u.bus 0).lock) ∧
    (let u := bridge { txns := [txnOf 5 0], buses := [(0, { lock := some 5, lease := 8000 })] }
     u.nextOn 0 = some (txnOf 5 0) ∧ (txnOf 5 0).queue ≠ (u.bus 0).lock) ∧
    (∀ op ∈ [6, 7, 8], (bridge { txns := [txnOf op 255] }).nextUnit op = some (txnOf op 255) ∧
      (txnOf op 255).req.addr % 256 = 5) ∧
    (let f (m : Sema) : State := bridge { sems := [(5, m)] }
     (f {}).sema 5 = {} ∧ ((f { owner := some 4 }).sema 5).owner = (txnOf 7 255).queue ∧
      ((f { owner := some 9 }).sema 5).owner ≠ (txnOf 7 255).queue ∧ ((f { owner := some 9 }).sema 5).waiters.length < 16 ∧
      16 ≤ ((f { owner := some 9, waiters := List.range 16 }).sema 5).waiters.length) := by
  and_intros <;> decide +kernel

theorem witness_BridgeBuses :
    (∀ e ∈ [(1, 0), (2, 7), (3, 0), (3, 8)], let u := bridge { txns := [txnOf e.1 e.2] }
     u.nextOn e.2 = some (txnOf e.1 e.2) ∧ (txnOf e.1 e.2).req.op = e.1 ∧
      (u.bus e.2).held = none) ∧
    (let u := bridge { txns := [txnOf 1 0], buses := [(0, { active := some 0 })] }
     (u.bus 0).active.bind u.txn = some (txnOf 1 0) ∧ (u.bus 0).losses < 3 ∧
      3 ≤ ((bridge { txns := [txnOf 1 0], buses := [(0, { active := some 0, losses := 3 })] }).bus 0).losses ∧
      (u.bus 0).active.isSome = true ∧ (u.bus 0).since + u.f Fd.BRG_CFG_TMO * 1000000 ≤ u.raw ∧
      u.f Fd.SBb_CFG_STRETCH_MAX [0] * 10000 < 1000000000) ∧
    ((bridge { buses := [(0, { lock := some 4 })] }).bus 0).lock.isSome = true ∧
    (let u := bridge {}
     (u.bus 0).stuck = false ∧ (u.bus 0).held = none ∧ 0 + 20 ≤ u.raw ∧ u.raw < 999999990 + 20 ∧ 0 + u.f Fd.SBb_CFG_STUCK_MS [0] * 1000000 ≤ u.raw) ∧
    ((bridge { buses := [(0, { stuck := true })] }).bus 0).stuck = true ∧
    (let u := ((bridge {}).wr Reg.BRG_POLLp_Wi [6, 0] (BitVec.ofNat 32 (2 ^ 31))).wr Reg.BRG_POLLp_Wi [6, 1] 0x100
     u.pollValid 6 = true ∧ bits (u.pollWord 6 1) 23 8 ≠ 0 ∧ (Tab.get {} u.brg.polls 6).ran = none) ∧
    State.reset.fb Fd.SBb_STAT_LINE [0] = false := by
  and_intros <;> decide +kernel

/-- CAN channel 1 in a state, with its buffer 5 in a mode, owned by the Tick Engine or not. -/
def can1 (state mode tke : Nat) (x : Fb) : State :=
  { (st [(Fd.FBn_STAT_STATE, [1], state), (Fd.POR_STAT_STATE, [], 4), (Fd.CFG_STAT_BOOT, [], 2)]) with
    raw := 10 ^ 9, fbs := [(1, x)] }.sf Fd.FBn_MBm_CFG_MODE [1, 5] mode |>.sf Fd.FBn_MBm_CFG_OWNER [1, 5] tke

theorem witness_CanBuffers :
    (can1 2 2 1 {}).mbTke 1 5 = true ∧
    ((can1 2 1 0 {}).mbTke 1 5 = false ∧ (can1 2 1 0 {}).mbMode 1 5 ≠ 2) ∧
    (∀ k ∈ [4, 5], (can1 k 2 0 {}).mbTke 1 5 = false ∧ (can1 k 2 0 {}).mbMode 1 5 = 2 ∧ (can1 k 2 0 {}).fbState 1 = k) ∧
    (let u := can1 2 2 0 {}
     u.mbTke 1 5 = false ∧ u.mbMode 1 5 = 2 ∧ u.fbState 1 ≠ 4 ∧ u.fbState 1 ≠ 5 ∧
      u.fb Fd.FBn_MBm_STAT_PEND [1, 5] = false ∧ u.fb Fd.FBn_HP_CFG_OWNER [1] = false) ∧
    (let u := ((can1 2 2 0 {}).sf Fd.FBn_MBm_STAT_PEND [1, 5] 1).sf Fd.FBn_HP_STAT_PEND [1] 1
     u.fb Fd.FBn_MBm_STAT_PEND [1, 5] = true ∧ u.onBus 1 5 = false ∧ u.fb Fd.FBn_HP_STAT_PEND [1] = true ∧
      u.onBus 1 128 = false) ∧
    (let x : CanTx := { buf := 5, words := [] }
     let u := (can1 2 2 0 { tx := some x }).sf Fd.FBn_MBm_STAT_PEND [1, 5] 1
     u.fb Fd.FBn_MBm_STAT_PEND [1, 5] = true ∧ u.onBus 1 5 = true ∧ (u.fbc 1).tx = some x) ∧
    (let v := BitVec.ofNat 32 (2 ^ 31 + 5)
     v.getLsbD 31 = true ∧ bits v.toNat 7 0 < 128 ∧ (can1 2 1 0 {}).mbMode 1 5 ≠ 2 ∧ (5 : BitVec 32).getLsbD 31 = false) ∧
    (let u := can1 2 1 0 { lock := some (5, 0) }
     (u.fbc 1).lock = some (5, 0) ∧ 0 + 10000 ≤ u.raw) ∧
    (let u := (can1 2 1 0 {}).sf Fd.FBn_MBSEL_BUF [1] 128
     u.f Fd.FBn_MBSEL_BUF [1] = 128 ∧ u.fb Fd.FBn_HP_STAT_PEND [1] = false) ∧
    (can1 4 1 0 {}).fbState 1 = 4 := by
  and_intros <;> decide +kernel

/-- A classic data frame with identifier 5 and one byte. -/
def canFrame : CanFrame :=
  { id := BitVec.ofNat 29 (5 * 2 ^ 18), ide := false, rtr := false, fdf := false, brs := false, esi := false, dlc := 1
    data := [7] }

/-- CAN channel 1 at raw count 0, with its buffer 5 a receive buffer, or a transmit buffer. -/
def can1At0 (mode : Nat) : State := { (can1 2 mode 0 {}).sf Fd.FBn_MBm_ID_ID [1, 5] (5 * 2 ^ 18) with raw := 0 }

/-- A message matches buffer 5, and no buffer where that transmits. -/
theorem witness_CanBus_match (mode : Nat) (h : mode = 1 ∨ mode = 2) :
    let u := can1At0 mode
    let w := messageWords canFrame (u.wireNs 1 u.raw) (u.sofNs 1 7)
    u.fbPowered = true ∧ u.fbState 1 = 2 ∧ u.isTt 1 = false ∧
      findNat 128 (fun m => u.mbMatches 1 m w) = (if mode = 1 then some 5 else none) := by
  have e : ∀ u : State, u.raw = 0 → u.wireNs 1 u.raw = u.readingAt 0 / 2 ^ 32 := by
    intro u h
    unfold State.wireNs
    rw [h, Nat.zero_sub]
  intro u w
  have hw : w = messageWords canFrame (u.readingAt 0 / 2 ^ 32) (u.sofNs 1 7) := congrArg (fun x => messageWords canFrame x _) (e u rfl)
  rw [hw]
  rcases h with rfl | rfl <;> decide +kernel

theorem witness_CanBus :
    (let u := (can1 2 2 0 {}).sf Fd.FBn_MBm_STAT_PEND [1, 5] 1
     u.fbState 1 = 2 ∧ (u.fbc 1).tx = none ∧ u.fbPowered = true ∧ (u.fbc 1).released = false ∧
      u.isTt 1 = false ∧ u.operating = true ∧ u.choose 1 (u.offers 1) = some 5) ∧
    (let x : CanTx := { buf := 5, words := [] }
     let u := can1 2 2 0 { tx := some x }
     ((u.stampSof 1 7).fbc 1).tx = some x ∧ x.buf ≠ 129 ∧ x.buf < 128 ∧ bitAt (msgWord x.words 1) 4 = false ∧
      u.fbPowered = true ∧ u.fbState 1 = 2 ∧ (u.fbc 1).tx = some x) ∧
    (let u := (can1 2 1 0 {}).sf Fd.FBn_MBm_ID_ID [1, 5] (5 * 2 ^ 18)
     u.fbPowered = true ∧ u.fbState 1 = 2 ∧ u.isTt 1 = false ∧ (u.fbc 1).tx = none) ∧
    (∀ k ∈ [1, 5, 6, 7], (can1 k 2 0 {}).fbState 1 = k) ∧
    (let u := (can1 7 2 0 {}).sf Fd.FBn_ARD_CFG_LAST [1] 3
     (u.fbc 1).ardSince + u.f Fd.FBn_ARD_CFG_DWELL [1] * 1000000 ≤ u.raw ∧
      (u.fbc 1).ardK < u.f Fd.FBn_ARD_CFG_LAST [1] ∧ 0 + 2500000 ≤ u.raw ∧
      (u.fbc 1).released = false ∧ 0 + u.nomBitNs 1 ≤ u.raw ∧
      u.raw < 999999999 + u.nomBitNs 1) ∧
    (let u := st [(Fd.FBn_XCVR_WUP_EN, [1], 1), (Fd.FBn_XCVR_SWK_EN, [1], 1), (Fd.FBn_XCVR_STAT_XSTATE, [1], 3)]
     u.fb Fd.FBn_XCVR_WUP_EN [1] = true ∧ u.fbWatches 1 = true ∧ u.fb Fd.FBn_XCVR_SWK_EN [1] = true) ∧
    (let u := st [(Fd.FBn_XCVR_WUP_EN, [1], 1), (Fd.FBn_XCVR_STAT_XSTATE, [1], 3)]
     u.fb Fd.FBn_XCVR_WUP_EN [1] = true ∧ u.fbWatches 1 = true ∧ u.fb Fd.FBn_XCVR_SWK_EN [1] = false) ∧
    (let u := ({ st [(Fd.FBn_XCVR_STAT_XSTATE, [1], 3), (Fd.FBn_SWK_IDM_ID, [1], 2 ^ 29 - 1),
        (Fd.FBn_XCVR_SWK_DLC, [1], 1)] with por := { armed := [1] } } : State)
     u.por.armed.contains 1 = true ∧ canFrame.fdf = false ∧ u.fbWatches 1 = true ∧ u.swkMatch 1 canFrame = true) := by
  and_intros <;> decide +kernel

/-- An operating module with Field IO in the state x, 10^9 ns after the start. -/
def fld (x : Fio) : State :=
  { (st [(Fd.POR_STAT_STATE, [], 4), (Fd.CFG_STAT_BOOT, [], 2), (Fd.TKE_CFG_PERIOD_K, [], 5)]) with
    raw := 10 ^ 9, wall := 10 ^ 9, ready := true, fio := x }

theorem witness_DieLinks :
    (({} : Fio).linkDown.contains 0 = false ∧ Tab.get 0 ({} : Fio).linkSeq 0 = 0 ∧ Tab.get 0 ({} : Fio).linkRetries 0 < 16) ∧
    (∀ l ∈ [0, 1], let u := fld { linkRetries := [(0, 16), (1, 16)], linkSeq := [(1, 3)] }
     u.fio.linkDown.contains l = false ∧ 16 ≤ Tab.get 0 u.fio.linkRetries l ∧ 3 = Tab.get 0 u.fio.linkSeq 1 ∧
      0 ≠ Tab.get 0 u.fio.linkSeq 1) ∧
    (let u := ({ fld { words := [1] } with
        tu := { base := some 0, tick := 999 } } : State)
     1 = u.fio.refreshed + 1 ∧ 500000 < u.period ∧ 500000 * 1 < u.period ∧ u.tickPast (500000 * 1) = true ∧
      u.framesFlow = true ∧ u.fio.words ≠ []) ∧
    (let f : LoadFrame := { seq := 3, tick := true, words := [] }
     let u := fld { dies := [(1, { powered := true, next := some 3 })], flight := [(1, some f)] }
     Tab.get none u.fio.flight 1 = some f ∧ (u.die 1).powered = true ∧ (u.die 1).next = some f.seq) ∧
    (let u := fld { dies := [(1, { powered := true })], latchDue := [1] }
     u.fio.latchDue.contains 1 = true ∧ (u.die 1).powered = true) ∧
    (let u := fld { dies := [(1, { powered := true, wdt := some 0 })] }
     (u.die 1).wdt = some 0 ∧ (u.die 1).powered = true ∧ (u.die 1).failsafe = false ∧
      0 + (u.die 1).nvmWdt * 1000000 ≤ u.wall) := by
  and_intros <;> decide +kernel

/-- Load channel 2 in the state x, on a powered die. -/
def load2 (x : LoadCh) : State := fld { dies := [(0, { powered := true })], ls := [(2, x)] }

theorem witness_LoadEvents :
    (let u := load2 { word := BitVec.ofNat 32 (3 + 10 * 2 ^ 15), base := 10 ^ 9 }
     lsOp (u.lc 2).word = 3 ∧ u.pulseOf (u.lc 2).word = some (0, 10000) ∧ (u.lc 2).base + 0 ≤ u.wall ∧
      u.wall < (u.lc 2).base + 10000 ∧ (u.lc 2).want = false) ∧
    (let u := load2 { word := 2, pwmNext := some 5 }
     let w := u.settle 2
     (u.lc 2).pwmNext = some 5 ∧ lsOp (u.lc 2).word = 2 ∧ 5 ≤ u.wall ∧
      dutyOf (w.lc 2).word * w.perNs 2 / 4096 = 0) ∧
    (let w := (load2 { word := BitVec.ofNat 32 (2 + 2048 * 8) }).settle 2
     let on := dutyOf (w.lc 2).word * w.perNs 2 / 4096
     lsOp (w.lc 2).word = 2 ∧ 2000 ≤ on ∧ on + 2000 ≤ w.perNs 2) ∧
    (let w := (load2 { on := true, blank := some 7 }).settle 2
     (w.lc 2).blank = some 7 ∧ (w.lc 2).on = true ∧ 7 ≤ w.wall) ∧
    (let w := (load2 { on := true }).settle 2
     (w.lc 2).on = true ∧ (w.lc 2).blank = none ∧ 0 + 20000 ≤ w.raw ∧ (w.lc 2).outAt + (w.raw - 0) ≤ w.wall) ∧
    (let u := load2 { retry := some 7 }
     (u.lc 2).retry = some 7 ∧ 7 ≤ u.wall ∧ (150 : Int) ≤ 150) ∧
    (((load2 { thermal := true }).settle 2).lc 2).thermal = true ∧ (((load2 {}).settle 2).lc 2).thermal = false ∧
    (let w := (load2 {}).settle 2
     (w.die (2 / 12)).powered = true ∧ w.fieldUp = true ∧ 0 + 8000 ≤ w.raw ∧ (w.die (2 / 12)).slotAt (2 % 12) (w.wall - (w.raw - 0)) = true) := by
  and_intros <;> decide +kernel

theorem witness_SupplyInputs :
    (let v := (dieChans 0).foldl State.settle (load2 { on := true, hist := List.replicate 64 (10 ^ 6) })
     v.above 0 0 = true ∧ Tab.get 0 (v.die 0).ocAt 0 = 0 ∧
      ((ocOf 0 0).1.filter (fun k => (v.lc k).on && (v.lc k).blank.isNone)).reverse.head? = some 2) ∧
    (let v := (groupChans 1).foldl State.settle (load2 {})
     v.fio.uv.contains 1 = false) ∧
    (let v := (groupChans 1).foldl State.settle (fld { uv := [1] })
     v.fio.uv.contains 1 = true) ∧
    (let u := load2 {}
     (u.einCh 3).ball ≠ true ∧ (u.einCh 3).edgeAt + u.filtNs 3 + b2n (u.filtNs 3 != 0) ≤ u.raw ∧ (u.einCh 3).seen = false) ∧
    (let v (k : Nat) := ((load2 {}).sf Fd.FIO_EINn_CFG_FILT [3] k).setEin 3 { ball := true, edgeAt := 10 ^ 9 }
     (v 4).filtNs 3 ≠ 0 ∧ (v 0).filtNs 3 = 0) := by
  and_intros <;> decide +kernel

theorem witness_LeaseExpiry :
    (let u := ({ State.reset with raw := 10 ^ 9, ldr := { owners := [(2049, 1)] } } : State)
     Tab.get 0 u.ldr.owners 2049 = 1 ∧ 1 - 1 + u.leaseTicks ≤ u.strobes) ∧
    (let u := (st [(Fd.ASD_CFG_LEASE, [], 4)])
     u.strobes < Tab.get 0 u.ldr.owners 2049 - 1 + u.leaseTicks) ∧
    (State.reset.expiredCopies 7 = [] ∧
      ({ State.reset with
          raw := 10 ^ 9, ldr := { queues := [(7, { entries := [{ desc := 2, started := true }] })] } } : State).expiredCopies 7
        = [2]) ∧
    (let u := ({ State.reset with raw := 10 ^ 9, hst := { rings := [(0, { en := true })] } } : State)
     (u.ring 0).en = true ∧ (u.ring 0).lease + u.leaseTicks ≤ u.strobes) ∧
    (let u := (st [(Fd.ASD_CFG_LEASE, [], 4)])
     u.strobes < (u.ring 0).lease + u.leaseTicks) := by
  and_intros <;> decide +kernel

/-- A channel in use: d 1 g, MIN_LOAD 20 d, settling and window 10 ms, zero tracking on, a span of 1 mg a count. -/
def cell (p : CelPhase) : CelCh :=
  { par := [(0, 1), (1, 3000), (2, 1000), (3, 20), (4, 10), (5, 10), (7, 1)], phase := p }

/-- Channel 0 of the Cellar, 10^12 ns after the start. -/
def cel0 (x : CelCh) : State := { State.reset with raw := 10 ^ 12, wall := 10 ^ 12, cel := { ch := [(0, x)] } }

theorem witness_CellarWeighing :
    (let v := (cel0 (cell .idle)).calApply true
     let y := (v.celCh 0).due v.wall
     y.inUse = true ∧ y.phase = .idle ∧ (Frac.ofInt (y.p 3 * y.d)).le (y.gross (20000#24).toInt) = true) ∧
    (let u := cel0 (cell (.settle 0))
     (u.celCh 0).phase = .settle 0 ∧ 0 + (u.celCh 0).p 4 * 1000000 ≤ u.wall) ∧
    (let u := cel0 (cell (.window 0))
     (u.celCh 0).phase = .window 0 ∧ 0 + (u.celCh 0).p 5 * 1000000 ≤ u.wall) ∧
    (let x := (cel0 (cell .clearWait)).celCh 0
     x.phase = .clearWait ∧ (x.gross (9999#24).toInt).lt (.ofInt (x.p 3 * x.d / 2)) = true) ∧
    (let u := cel0 (cell .idle)
     let x := u.celCh 0
     x.inUse = true ∧ x.p 7 = 1 ∧ x.phase = .idle ∧ x.idleAt + 1000000000 ≤ u.wall ∧ x.tracked + 1000000000 ≤ u.wall ∧
      x.steady 1920000 19200 100 100 = true ∧ x.zeroOk (x.zeroGoal (x.gross 1920000 19200)) = true) ∧
    (let x := (cel0 { cell .idle with zofs := { num := 60000000 } }).celCh 0
     x.steady 1161600000 19200 60500 60500 = true ∧ x.zeroOk (x.zeroGoal (x.gross 1161600000 19200)) = false ∧
      x.atLimit = false) ∧
    (∀ e ∈ [((0 : Int), false, false), (500000, false, false), (500001, true, false), (-500000, false, false), (-500001, false, true)],
      let x := cell .idle
      let mean : Frac := { num := e.1 }
      (x.zofs.addInt (x.d / 2)).lt mean = e.2.1 ∧ mean.lt (x.zofs.addInt (-(x.d / 2))) = e.2.2) ∧
    (let u := cel0 { cell .idle with seg := some 2 }
     let y := (u.celCh 0).due u.wall
     y.held = false ∧ y.phase = .idle ∧ y.seg = some 2 ∧ y.segAt + 2000000 ≤ u.wall) ∧
    (let u := cel0 (cell .idle)
     let x := u.celCh 0
     x.seg = none ∧ x.phase = .idle ∧ x.checked + 600000000000 ≤ u.wall ∧ x.idleAt ≤ u.wall) ∧
    (let u := cel0 { cell .idle with held := true }
     (u.celCh 0).held = true ∧ (u.celCh 0).phase = .idle ∧ (u.celCh 0).idleAt + 1000000000 ≤ u.wall) ∧
    (let u := cel0 { cell .idle with live := 20 }
     (u.celCh 0).live ≠ 0 ∧ (u.celCh 0).inUse = true ∧ (u.celCh 0).liveAt + (u.celCh 0).live * 1000000 ≤ u.wall) ∧
    (let u := cel0 {}
     u.cel.frameAt + 1000000 ≤ u.wall ∧ u.cel.flight = none ∧ u.operating = true ∧
      (u.set0 Fd.POR_STAT_STATE 3).operating = false) ∧
    (let u := ({ (st [(Fd.CEL_STAT_PRESENT, [], 1)]) with raw := 2000000, cel := { heard := some 0 } } : State)
     u.fb Fd.CEL_STAT_PRESENT = true ∧ u.cel.heard = some 0 ∧ 0 + 2000000 ≤ u.raw) ∧
    (let r : CelRec := { kind := 1 }
     let u := ({ cel0 {} with cel := { queue := [r], signedAt := some 0 } } : State)
     u.celNext = some r ∧ r.arose + 19660 ≤ u.cclk ∧ u.cel.signedAt = some 0 ∧ 0 + 800000 ≤ u.wall ∧ u.cel.flight = none) ∧
    (let u := ({ cel0 {} with cel := { replay := [[1]] } } : State)
     u.cel.flight = none ∧ u.celNext = none ∧ u.cel.replay = [[1]]) := by
  and_intros <;> decide +kernel

/-- A command waits at the Cellar, whose channel 0 is in the state x. -/
def celQ (code a1 a2 : Nat) (x : CelCh) : State :=
  { cel0 x with cel := { ch := [(0, x)], inbox := [{ code := code, ch := 0, tag := 1, a1 := a1, a2 := a2 }]
                         alibi := [(3, 9, []), (3, 8, [])] } }

theorem witness_CellarCommands :
    (∀ e ∈ [(0x01, 0, 0), (0x02, 0, 0), (0x02, 20, 0), (0x02, 1000, 0), (0x03, 3, 8), (0x04, 0, 0), (0x05, 0, 0),
        (0x10, 0, 0), (0x11, 5, 0), (0x12, 7, 1), (0x13, 0, 0), (0x14, 0, 0)],
      let k : CelCmd := { code := e.1, ch := 0, tag := 1, a1 := e.2.1, a2 := e.2.2 }
      let u := celQ e.1 e.2.1 e.2.2 (cell .idle)
      u.cel.inbox = [k] ∧ k.code = e.1 ∧ (k.plain = true ∨ e.2 ≠ (0, 0))) ∧
    (celCodes.contains 0x20 = false ∧ (celQ 0x20 0 0 {}).cel.inbox = [{ code := 0x20, ch := 0, tag := 1, a1 := 0, a2 := 0 }]) ∧
    (let v := ({ celQ 1 0 0 (cell .idle) with cel := { (celQ 1 0 0 (cell .idle)).cel with inbox := [] } } : State)
     let x := v.celCh 0
     x.phase = .idle ∧ x.steady 9600 1920 5 5 = true ∧ x.zeroOk (x.gross 9600 1920) = true ∧
      x.steady 96000 19200 5 5 = true ∧ 0 < (({ num := 96000, den := 19200 } : Frac).sub (v.stagedZero 0)).num ∧
      v.cel.alibi.reverse.dropWhile (fun r => r.1 != 3 || r.2.1 != 8) ≠ []) ∧
    ((celQ 5 0 0 (cell .clearWait)).celCh 0).phase = .clearWait ∧
    ((7 : Nat) ≤ 7 ∧ (paramRange 7).1 ≤ 1 ∧ 1 ≤ (paramRange 7).2) ∧
    (let u := ({ cel0 (cell .idle) with cel := { commit := true, staged := [.zero 0 { num := 5 }] } } : State)
     u.cel.commit = true ∧ u.cel.staged.all (fun y => u.celIdle (changeCh y)) = true) ∧
    (let u := ({ cel0 {} with cel := { waiting := some (1, 0), flight := some (7, []) } } : State)
     u.cel.waiting = some (1, 0) ∧ 0 + 10000000 ≤ u.raw ∧ u.cel.flight = some (7, []) ∧ u.operating = true ∧
      (u.set0 Fd.POR_STAT_STATE 3).operating = false) := by
  and_intros <;> decide +kernel

/-- A consist node with a ring port 3 to the East, HEAD_PRIO 10, in a state of its round. -/
def ring3 (state : Nat) (c : Cst) : State :=
  { st [(Fd.PGn_MODE_MODE, [0], 0), (Fd.CST_RING_EAST, [], 3), (Fd.CST_CFG_HEAD_PRIO, [], 10), (Fd.CST_STAT_STATE, [], state)] with
    cst := c }

/-- A round of a candidate of priority 5. -/
def round5 (phase : RoundPhase) (answered : Bool) : CstRound :=
  { cand := 77, prio := 5, tick := 0, round := 2, nonce := 0, base := 0, parent := some 0, hop := 1, side := 0, level := 0
    span := 0, subroot := 77, phase := phase, since := 0, answered := answered }

/-- A frame of a subtype, round, candidate and priority. -/
def cfrm (subtype req round : Nat) (cand : BitVec 64) (prio : Nat) : Bytes :=
  cstPayload 104 subtype req round cand prio 0 []

theorem own_nonce (s : State) (p : Bytes) (h : cfNonce p = s.cst.nonce) : s.foreignSelf p = false := by
  simp [State.foreignSelf, h]

theorem witness_ConsistFrames :
    State.reset.ctlCut 3 = false ∧ ({ State.reset with fio := { linkDown := [0] } } : State).ctlCut 3 = true ∧
    State.reset.sideOf 256 = none ∧ cfVersion [] ≠ 1 ∧
    (∀ k ∈ [1, 2, 3, 4, 5, 6], (ring3 1 {}).sideOf 3 = some 0 ∧ cfVersion (cfrm k 0 2 77 5) = 1 ∧
      cfSubtype (cfrm k 0 2 77 5) = k) ∧
    (let u := ring3 4 { up := [0] }
     u.fb Fd.ASD_CFG_PAIRED = false ∧ u.sideUp 0 = true ∧ u.cstState = 4 ∧ cfCand (cfrm 4 0 2 77 5) ≠ u.committedHead ∧
      (ring3 3 { up := [0] }).cstState = 3 ∧ (ring3 1 { up := [0] }).cstState ≠ 3 ∧ (ring3 1 { up := [0] }).cstState ≠ 4) ∧
    (let u := ring3 1 { round := some (round5 .roll false) }
     cfReq (cfrm 1 0 2 77 5) = false ∧ u.cstState = 1 ∧ sameRound (round5 .roll false) (cfrm 1 0 2 77 5) = true ∧
      (sameRound (round5 .roll false) (cfrm 1 0 2 78 1) = false ∧ u.adopts (cfrm 1 0 2 78 1) = true) ∧
      (sameRound (round5 .roll false) (cfrm 1 0 2 78 20) = false ∧ u.adopts (cfrm 1 0 2 78 20) = false ∧
        better u.headPrio ownEui (cfPrio (cfrm 1 0 2 78 20)) (cfCand (cfrm 1 0 2 78 20)) = true) ∧
      (sameRound (round5 .roll false) (cfrm 1 0 2 78 6) = false ∧ u.adopts (cfrm 1 0 2 78 6) = false ∧
        better u.headPrio ownEui (cfPrio (cfrm 1 0 2 78 6)) (cfCand (cfrm 1 0 2 78 6)) = false)) ∧
    (∀ b ∈ [true, false], (round5 .roll b).answered = b) ∧
    (let u := ring3 4 {}
     cfReq (cfrm 1 1 2 77 5) = true ∧ u.cstState ≠ 0 ∧ u.cst.reqs.contains (cfNonce (cfrm 1 1 2 77 5)) = false ∧
      (ring3 4 { reqs := [0] }).cst.reqs.contains (cfNonce (cfrm 1 1 2 77 5)) = true) ∧
    (∀ k ∈ [1, 4],
      let p := cfrm 1 1 2 77 5
      let u := (ring3 k {}).set0 Fd.CST_STAT_HEAD 1
      let v := (({ u with cst := { u.cst with reqs := (cfNonce p :: u.cst.reqs).take 16 } } : State).flood (some 0)
        p).startHeadWait
      v.cstState = k ∧ v.fb Fd.CST_STAT_HEAD = true ∧ beAt p 24 4 = v.inaugNo) ∧
    (let r := round5 .echoed false
     r.parent ≠ some 5 ∧ r.parent = some 0 ∧ r.phase = .echoed ∧ sameRound r (cfrm 3 0 2 77 5) = true ∧
      sameRound r (cfrm 2 0 3 77 5) = false) ∧
    (({} : Cst).idents.contains (7, 0) = false ∧ ({ idents := [(7, 0)] } : Cst).idents.contains (7, 0) = true ∧
      ({} : Cst).resets.contains (7, 0) = false ∧ ({ resets := [(7, 0)] } : Cst).resets.contains (7, 0) = true) := by
  and_intros <;> decide +kernel

theorem witness_ConsistFrames_own (k : Nat) (h : k ∈ [1, 2, 3]) : (ring3 1 {}).foreignSelf (cfrm k 0 2 77 5) = false :=
  own_nonce _ _ ((by decide +kernel : ∀ k ∈ [1, 2, 3], cfNonce (cfrm k 0 2 77 5) = (ring3 1 {}).cst.nonce) k h)

/-- No consist frame waits in CTL, so the read of its queue changes nothing. -/
theorem witness_ConsistFrames_read (k : Nat) (c : Cst) (n : Nat) (p : Bytes → Bool) :
    (ring3 k c).ctlRead 0 n p = ring3 k c := rfl

/-- A commit that is due at the instant of a tick, at a node in the numbering or outside. -/
def plan (tick : Nat) (out : Bool) : CommitPlan :=
  { pos := 1, dir := false, level := 0, dateline := false, head := 0, subroot := 0, inaug := 1, renum := 0, tick := tick
    base := 0, masters := [], total := 1, ring := 1, sizes := [], tooMany := false, out := out, diff := 0 }

theorem witness_ConsistTimers :
    (let u := ({ State.reset with cst := { plan := some (plan 5 false) } } : State)
     u.cst.plan = some (plan 5 false) ∧ u.nowNs + (plan 5 false).diff < ((plan 5 false).base.toNat : Int) + 5 * u.period) ∧
    (∀ b ∈ [true, false], let u := ({ State.reset with cst := { plan := some (plan 0 b) } } : State)
     u.cst.plan = some (plan 0 b) ∧ ((plan 0 b).base.toNat : Int) + 0 * u.period ≤ u.nowNs + (plan 0 b).diff ∧
      (plan 0 b).out = b) ∧
    (∀ k ∈ [1, 4], let u := ({ ring3 k { headWait := some 0 } with raw := 10 ^ 9 } : State)
     u.cst.headWait = some 0 ∧ 0 + (2 * u.period + 2000) ≤ u.raw ∧ u.cstState = k) ∧
    (∀ b ∈ [true, false], let u := ({ ring3 1 { round := some (round5 .roll false), numbered := b } with raw := 10 ^ 9 } : State)
     u.cst.round = some (round5 .roll false) ∧ (round5 .roll false).parent = some 0 ∧ u.cstState = 1 ∧
      0 + (3 * u.period + 2000) ≤ u.raw ∧ u.cst.numbered = b) ∧
    (∀ n ∈ [0, 2, 3], let r : CstRound := { round5 .roll false with parent := none }
     let u := ({ ring3 1 { round := some r, fails := n } with raw := 10 ^ 9, tu := { base := some 0 } } : State)
     u.cst.round = some r ∧ r.parent = none ∧ r.phase = .roll ∧ u.cstState = 1 ∧ u.cst.restart = false ∧
      r.since + (2 * u.period + 2000) ≤ u.raw ∧ ((u.bumpF Fd.CST_FAIL_CNT_FAILS).raise Fd.CST_EVT_ROUND_FAIL).tu.base = some 0 ∧
      u.cst.fails = n) ∧
    (((ring3 4 {}).hostWrite .mgmt).cstState = 4 ∧ ((ring3 4 {}).hostWrite .mgmt).fb Fd.CST_STAT_HEAD = false ∧
      (((ring3 4 {}).set0 Fd.CST_STAT_HEAD 1).hostWrite .mgmt).fb Fd.CST_STAT_HEAD = true ∧
      ((ring3 1 {}).hostWrite .mgmt).cstState ≠ 4 ∧ ((ring3 1 {}).hostWrite .mgmt).cstState ≠ 3) := by
  and_intros <;> decide +kernel

/-- A paired module in a role with both Gable lanes up. -/
def paired (role : Nat) (a : Asd) : State :=
  { st [(Fd.POR_STAT_STATE, [], 4), (Fd.ASD_STAT_GABLE, [], 3), (Fd.ASD_STAT_ROLE, [], role)] with asd := a }

/-- The state v of the statements: a pairing frame has been heard. -/
def heard (u : State) : State :=
  ({ u with asd := { u.asd with heard := some u.tickCount, heardRaw := u.raw } } : State).set0 Fd.ASD_STAT_PARTNER 1

/-- A pairing frame of a kind with one record. -/
def pfrm (kind : Nat) (r : Bytes) : Bytes :=
  slice (beBytes 1 kind ++ [1, 0, 1]) 0 16 ++ beBytes 2 r.length ++ [0, 0] ++ r

/-- A MIRROR record: MREF 0, key 1, queue 10, length n, the last cell or not, with k bytes. -/
def mrec (n last k : Nat) : Bytes :=
  beBytes 4 0 ++ beBytes 2 1 ++ beBytes 2 10 ++ beBytes 2 n ++ [0] ++ beBytes 1 last ++ List.replicate 12 0 ++ List.replicate k 1

/-- An item that waits for its ACK. -/
def mout (tick : Nat) : MirrorOut := { mref := 0, key := 1, desc := 2, queues := [10], wtick := tick, src := .engine }

theorem witness_PairItems :
    (∀ k ∈ [1, 2], ∀ e ∈ [(1, mrec 8 1 8), (2, beBytes 4 0 ++ [0, 0, 0, 0]), (2, beBytes 4 0 ++ [1, 0, 0, 0]), (9, beBytes 4 0),
        (3, [0, 1, 0, 0, 0, 0, 0, 0]), (10, mrec 8 5 0), (11, List.replicate 32 0)],
      let u := paired k {}
      let p := pfrm e.1 e.2
      u.operating = true ∧ u.gableLanes ≠ 0 ∧ u.role ≠ 0 ∧ byteAt p 1 % 16 = 1 ∧ serialAfter 32 u.epoch (beAt p 4 4) = false ∧
       u.role = k ∧ serialAfter 32 (beAt p 4 4) (heard u).epoch = false ∧ recordsOf p = [e.2] ∧ byteAt p 0 = e.1) ∧
    (let v := heard (paired 2 {})
     v.role = 2 ∧ beAt (mrec 8 1 8) 22 2 = 0 ∧
      (v.mirrorBegin (mrec 8 1 8)).2 = 0 ∧ ((v.mirrorBegin (mrec 8 1 8)).1.mirrorData (mrec 8 1 8)).2 = true ∧
      (v.mirrorBegin (mrec 300 0 256)).2 = 0 ∧ ((v.mirrorBegin (mrec 300 0 256)).1.mirrorData (mrec 300 0 256)).2 = false) ∧
    (∀ e ∈ [(0, true), (256, false)],
      let r := (mrec 8 1 8).take 12 ++ beBytes 2 e.1 ++ (mrec 8 1 8).drop 14
      let b := (((heard (paired 2 {})).mirrorBegin r).1.mirrorData r).1
      (b.asd.held.find? (fun h => h.mref == 0)).map b.mirrorBad = some e.2) ∧
    (let v := heard ((paired 2 {}).set0 Fd.LDR_POOL_CFG_ASR_CELLS 0)
     v.freeIn 4 256 0 < cellsOf (beAt (mrec 8 1 8) 8 2 % 16384)) ∧
    (let v := heard (paired 1 { out := [mout 0] })
     v.role = 1 ∧ v.asd.out.find? (fun o => o.mref == 0) = some (mout 0) ∧ v.tu.tick ≤ (mout 0).wtick ∧
      (mout 0).wtick < ({ v with tu := { tick := 1 } } : State).tu.tick) ∧
    (let h : Held := { mref := 0, key := 1, queue := 10, len := 8, prio := 0, inPort := 0 }
     let v := heard (paired 2 { held := [h] })
     v.role = 2 ∧ v.asd.held.find? (fun h => h.mref == 0) = some h ∧ h.seq = none) ∧
    (heard (paired 1 {})).byMref 0 = none ∧
    (let v := heard (paired 1 { fetching := [1], mrefOf := [(2, 1)] })
     v.asd.fetching.contains (0 + 1) = true ∧ v.byMref 0 = some 2 ∧ bitAt (byteAt (mrec 8 5 0) 11) 2 = true) ∧
    serialAfter 32 ((paired 1 {}).wr Reg.ASD_EPOCH [] 5).epoch (beAt (pfrm 1 []) 4 4) = true ∧
    (∀ k ∈ [15, 16], let u := paired 1 { lanes := [(1, { unacked := [(0, 2056, 2)], tries := k })] }
     let l := u.gableLane 1
     bitAt (u.f Fd.ASD_STAT_GABLE) 1 = true ∧ l.unacked = (0, 2056, 2) :: [] ∧ l.tries = k ∧ (u.gableLane 0).unacked = [] ∧
      bitAt ((u.set0 Fd.ASD_STAT_GABLE 0).f Fd.ASD_STAT_GABLE) 1 = false) := by
  and_intros <;> decide +kernel

theorem witness_PairRoles :
    (∀ e ∈ [(4, [0, 0]), (5, List.replicate 32 0), (6, List.replicate 32 0), (7, [1]), (8, List.replicate 8 0),
        (12, [0, 0])],
      let u := paired 2 {}
      let p := pfrm e.1 e.2
      u.operating = true ∧ u.gableLanes ≠ 0 ∧ u.role ≠ 0 ∧ byteAt p 1 % 16 = 1 ∧ serialAfter 32 u.epoch (beAt p 4 4) = false ∧
       serialAfter 32 (beAt p 4 4) (heard u).epoch = false ∧ recordsOf p = [e.2] ∧ byteAt p 0 = e.1 ∧ (heard u).role = 2 ∧
       (heard u).asd.takeover = none) ∧
    (let u := ({ paired 0 { waiting := some 0 } with raw := 10 ^ 9, cst := { up := [0] } } : State)
     u.asd.waiting = some 0 ∧ 0 + 16 ≤ u.tickCount ∧ u.otherUp = true) ∧
    (∀ l ∈ [[0], []], let u := ({ (paired 2 {}).set0 Fd.ASD_STAT_MISS 2 with
        tke := { staging := true }, cst := { up := l } } : State)
     u.role = 2 ∧ u.tke.staging = true ∧ 2 ≤ u.f Fd.ASD_STAT_MISS ∧ u.noDirectHello 1 = true ∧ u.asd.takeover = none ∧
      u.otherUp = !l.isEmpty ∧ u.fb Fd.ASD_STAT_ISOLATED = false) ∧
    (let u := paired 2 { takeover := some 0 }
     u.asd.takeover = some 0 ∧ 0 ≤ u.tu.tick ∧ u.role = 2) ∧
    (∀ e ∈ [(0, 0, true), (7997, 7997, true), (7998, 0, false), (0, 7998, false)],
      let u := ({ paired 1 { health := some e.1, otherTick := e.2.1 } with raw := 10 ^ 9 } : State)
     u.role = 1 ∧ u.asd.roleTick + 3 ≤ u.tickCount ∧ u.asd.health = some e.1 ∧ u.noDirectHello 2 = true ∧ u.otherUp = false ∧
      (decide (e.1 + 3 ≤ u.tickCount) && decide (u.asd.otherTick + 3 ≤ u.tickCount)) = e.2.2) ∧
    (let u := ({ paired 1 { linkDown := some 0 } with raw := 10 ^ 9 } : State)
     u.asd.linkDown = some 0 ∧ u.role = 1 ∧ 0 + u.period ≤ u.raw) ∧
    (let u := (((paired 1 { redTicks := 10 ^ 6 }).set0 Fd.ASD_STAT_SIDE 1).set0 Fd.ASD_CFG_REVERT_EN 1).set0
       Fd.ASD_STAT_REDUNDANT 1
     u.role = 1 ∧ u.preferred = false ∧ u.fb Fd.ASD_CFG_REVERT_EN = true ∧ u.fb Fd.ASD_STAT_REDUNDANT = true ∧
      u.asd.handover = none ∧ max 64 (u.f Fd.ASD_CFG_REVERT_HOLD) ≤ u.asd.redTicks) ∧
    (∀ k ∈ [1, 2], ((paired k {}).hostWrite .usb).asd.handover = none ∧
      ((paired k {}).hostWrite .usb).fb Fd.ASD_STAT_REDUNDANT = false ∧
      (((paired k {}).set0 Fd.ASD_STAT_REDUNDANT 1).hostWrite .usb).fb Fd.ASD_STAT_REDUNDANT = true ∧
      (((paired k {}).set0 Fd.ASD_STAT_REDUNDANT 1).hostWrite .usb).role = k) ∧
    (∀ k ∈ [1, 2], ∀ x ∈ [some 4, some 3, none],
      let u := ({ paired k { handover := some (5, false), applied := x, partnerEnd := x } with tu := { tick := 5 } } : State)
      u.asd.handover = some (5, false) ∧ 5 ≤ u.tu.tick ∧ u.role = k ∧ u.asd.applied = x ∧ u.asd.partnerEnd = x ∧
       (x = some ((5 - 1) % 2 ^ 32) ∨ x ≠ some (5 - 1))) := by
  and_intros <;> decide +kernel

theorem crcBit_lt {c : Nat} (h : c < 2 ^ 32) : crcBit 0xEDB88320 c < 2 ^ 32 := by
  unfold crcBit
  split
  · exact Nat.xor_lt_two_pow (by omega) (by decide)
  · omega

theorem crcByte_lt (k : Nat) : ∀ c : Nat, c < 2 ^ 32 → crcByte 0xEDB88320 k c < 2 ^ 32 := by
  induction k with
  | zero => exact fun c h => h
  | succ k ih => exact fun c h => ih _ (crcBit_lt h)

theorem crc32_lt (bs : Bytes) : crc32 bs < 2 ^ 32 := by
  have h : ∀ (l : Bytes) (c : Nat), c < 2 ^ 32 →
      l.foldl (fun c b => crcByte 0xEDB88320 8 (c ^^^ b.toNat)) c < 2 ^ 32 := by
    intro l
    induction l with
    | nil => exact fun c h => h
    | cons b l ih =>
      exact fun c h => ih _ (crcByte_lt 8 _ (Nat.xor_lt_two_pow h (Nat.lt_of_lt_of_le b.isLt (by decide))))
  exact Nat.xor_lt_two_pow (h bs _ (by decide)) (by decide)

/-- What the CRC of a header without a body is compared with. -/
theorem crc_check (a : Bytes) (n : Nat) (h : a.length = 252) :
    imageCrcOk (a ++ leBytes 4 n) [] = (crc32 a == n % 2 ^ 32) := by
  have hc : leNat (leBytes 4 n) = n % 2 ^ 32 := by
    simp [leNat, leBytes]
    omega
  have hl : (leBytes 4 n).length = 4 := rfl
  simp [imageCrcOk, leAt, slice, ← h, hl, hc, List.take_of_length_le]

theorem crc_passes (a : Bytes) (h : a.length = 252) : imageCrcOk (a ++ leBytes 4 (crc32 a)) [] = true := by
  rw [crc_check a _ h, Nat.mod_eq_of_lt (crc32_lt a), beq_self_eq_true]

theorem crc_fails (a : Bytes) (h : a.length = 252) : imageCrcOk (a ++ leBytes 4 (crc32 a + 1)) [] = false := by
  rw [crc_check a _ h, beq_eq_false_iff_ne]
  have := crc32_lt a
  omega

/-- Bytes 0 to 251 of a header without a body for node x, and the header with its CRC. -/
def hdrFor (x : Nat) : Bytes :=
  [0x31, 0x58, 0x52, 0x4C, 0, 0, 0, 0, 0, 0, 0, 0] ++ ([1, 0, 0, 0] ++ (leBytes 8 x ++ List.replicate 228 0))
def hdrWith (x : Nat) : Bytes := hdrFor x ++ leBytes 4 (crc32 (hdrFor x))

theorem hdrFor_length (x : Nat) : (hdrFor x).length = 252 := by
  simp only [hdrFor, List.length_append, List.length_replicate, List.length_cons, List.length_nil,
    show (leBytes 8 x).length = 8 from rfl]

theorem hdrBody_none (rest : Bytes) : hdrBody ([0x31, 0x58, 0x52, 0x4C, 0, 0, 0, 0, 0, 0, 0, 0] ++ rest) = 0 := by
  simp [hdrBody, leAt, slice, leNat]

theorem hdrNode_of (x : Nat) (rest : Bytes) : hdrNode ([0x31, 0x58, 0x52, 0x4C, 0, 0, 0, 0, 0, 0, 0, 0] ++
    ([1, 0, 0, 0] ++ (leBytes 8 x ++ rest))) = BitVec.ofNat 64 (leNat (leBytes 8 x)) := rfl

theorem hdrNode_with (x : Nat) : hdrNode (hdrWith x) = BitVec.ofNat 64 (leNat (leBytes 8 x)) := by
  rw [hdrWith, hdrFor]
  simp only [List.append_assoc]
  exact hdrNode_of x _

/-- An upload with these bytes so far. -/
def upl (package : Bool) (b : Bytes) : State := { State.reset with cfg := { upd := some { package := package, bytes := b } } }

theorem node_differs : ∃ x ∈ [0, 1], nodeOk (hdrWith x) = false := by
  have h (x : Nat) (hx : hdrNode (hdrWith x) ≠ BitVec.allOnes 64) (he : hdrNode (hdrWith x) ≠ Config.eui64) :
      nodeOk (hdrWith x) = false := by
    rw [nodeOk, ownEui, beq_eq_false_iff_ne.2 hx, beq_eq_false_iff_ne.2 he]
    rfl
  have h0 : hdrNode (hdrWith 0) = 0 := (hdrNode_with 0).trans rfl
  have h1 : hdrNode (hdrWith 1) = 1 := (hdrNode_with 1).trans rfl
  by_cases e : Config.eui64 = 0
  · exact ⟨1, by decide, h 1 (by rw [h1]; decide) (by rw [h1, e]; decide)⟩
  · exact ⟨0, by decide, h 0 (by rw [h0]; decide) (by rw [h0]; exact Ne.symm e)⟩

theorem witness_Uploads_commit (k : Bool) (x : Nat) :
    let v := (upl k (hdrWith x)).hostWrite .usb
    let h := slice (hdrWith x) 0 256
    let body := ((hdrWith x).drop 256).take (hdrBody h)
    v.cfg.upd = some { package := k, bytes := hdrWith x } ∧ 256 ≤ (hdrWith x).length ∧ hdrBody h ≤ body.length ∧
      imageCrcOk h body = true ∧ (hdrWith x).length + 4 ≤ 0x3000000 := by
  have hl : (hdrWith x).length = 256 := by
    rw [hdrWith, List.length_append, hdrFor_length]
    rfl
  have hs : slice (hdrWith x) 0 256 = hdrWith x := by
    simp only [slice, List.drop_zero, ← hl, List.take_length, Nat.sub_self, List.replicate_zero, List.append_nil]
  have hd : (hdrWith x).drop 256 = [] := List.drop_eq_nil_of_le (Nat.le_of_eq hl)
  have hb : hdrBody (hdrWith x) = 0 := by
    rw [hdrWith, hdrFor, List.append_assoc]
    exact hdrBody_none _
  simp only [hl, hs, hd, hb]
  exact ⟨rfl, by decide, by decide, crc_passes _ (hdrFor_length _), by decide⟩

theorem witness_Uploads :
    (State.reset.hostWrite .usb).cfg.upd = none ∧
    nodeOk (hdrWith (2 ^ 64 - 1)) = true ∧
    imageCrcOk (hdrFor 0 ++ leBytes 4 (crc32 (hdrFor 0) + 1)) [] = false ∧
    ((State.reset.hostWrite .usb).fb Fd.CFG_SHR_ADDR_OPEN = false ∧
      (((st [(Fd.CFG_SHR_ADDR_OPEN, [], 1)]).hostWrite .usb).fb Fd.CFG_SHR_ADDR_OPEN = true)) ∧
    (Tab.get none ({ regs := [(0x100, some 3)] } : CfgSet).regs 0x100 = some 3 ∧
      Tab.get none ({ quiesce := [(0x100, some 3)] } : CfgSet).regs 0x100 = none ∧
      Tab.get none ({ quiesce := [(0x100, some 3)] } : CfgSet).quiesce 0x100 = some 3) := by
  and_intros
  · rfl
  · rw [nodeOk, hdrNode_with]
    rfl
  · exact crc_fails _ (hdrFor_length _)
  all_goals decide +kernel

/-- A request and its state of check. -/
def swapReq (k : SwapKind) : SwapReq := { kind := k, at_ := true, tick := 2 ^ 40, since := 0 }

theorem witness_Swaps :
    (let w := ((st [(Fd.POR_STAT_HOLDUP, [], 1)]).hostWrite .usb).closeAll
     w.fb Fd.POR_STAT_HOLDUP = true ∧ w.cfg.check = none ∧ w.cfg.pending = none ∧ w.cfg.stage = none) ∧
    (let w := (({ State.reset with cfg := { pending := some 5 } } : State).hostWrite .usb).closeAll
     w.fb Fd.POR_STAT_HOLDUP = false ∧ w.cfg.pending.isSome = true) ∧
    (let w := (({ st [(Fd.POR_STAT_HOLDUP, [], 1)] with cfg := { pending := some 5 } } : State).hostWrite .usb).closeAll
     w.fb Fd.POR_STAT_HOLDUP = true ∧ w.cfg.pending.isSome = true) ∧
    (∀ k ∈ [0, 2], let w := ((st [(Fd.ASD_STAT_ROLE, [], k)]).hostWrite .usb).closeAll
     w.fb Fd.POR_STAT_HOLDUP = false ∧ w.cfg.check = none ∧ w.cfg.pending = none ∧ w.cfg.stage = none ∧ w.role = k ∧
      w.cfg.intact = false) ∧
    (({ State.reset with cfg := { intact := true } } : State).hostWrite .usb).closeAll.cfg.intact = true ∧
    (∀ e ∈ [(7, true), (5, false)],
      let v := (({ State.reset with cfg := { pending := some e.1 }, tu := { tick := 5 } } : State).hostWrite .usb)
      v.cfg.pending = some e.1 ∧ decide (v.tu.tick + 1 < e.1) = e.2 ∧ (e.2 = true ∨ e.1 ≤ v.tu.tick)) ∧
    (let f (r : SwapReq) : State := { State.reset with cfg := { check := some r }, tu := { base := some 0 } }
     (∀ k ∈ [SwapKind.live, .revert, .staged], (f (swapReq k)).cfg.check = some (swapReq k) ∧
       (f (swapReq k)).swapCheck (swapReq k) = none ∧ (f (swapReq k)).shadowSent = true) ∧
      (let u := { f (swapReq .live) with ldr := { ctlWait := [{ port := 256, tc := 7, relay := false, bytes := [] }] } }
       let v := u.sf Fd.ASD_STAT_ROLE [] 1
       v.cfg.check = some (swapReq .live) ∧ v.swapCheck (swapReq .live) = none ∧ v.shadowSent = false) ∧
      ((f (swapReq .live)).swapCheck { swapReq .live with tick := 0 }).isSome = true) ∧
    (∀ e ∈ [(5, 5), (5, 4)], let u := ({ State.reset with
        cfg := { pending := some e.1 }, tu := { base := some 0, tick := e.2 } } : State)
     u.cfg.pending = some e.1 ∧ u.tu.base = some 0 ∧ (e.1 ≤ u.tu.tick ∨ u.tu.tick < e.1) ∧ u.role ≠ 2) ∧
    (∀ g ∈ [none, some (2, 0), some (2, 9)], ∀ n ∈ [0, 10 ^ 12],
      ∀ ds ∈ [[], [3, 2]],
      let x : Stage := { req := swapReq .staged, since := 0, todo := [], done := ds, group := g }
      let u := ({ State.reset with raw := n, cfg := { stage := some x } } : State)
      u.cfg.stage = some x ∧ x.group = g ∧ x.undo = none ∧ mergeKeys x.done [] = ds.reverse ∧ u.rd Reg.CST_INAUG = 0 ∧
       (u.raw < x.since + 10 * 1000000000 ∨ x.since + 10 * 1000000000 ≤ u.raw)) ∧
    (let u := ([16, 17, 18, 19, 20, 21, 22, 23] : List Nat).foldl (fun (x : State) n => x.setPst n 6) State.reset
     (u.groupPorts 2).all (fun p => u.pst p == 6 || u.pst p == 7) = true) := by
  and_intros <;> decide +kernel

/-- The fold by which wear levelling chooses a block answers a count that some block of the list, or the start, has. -/
theorem fresh_ge (f : Nat → Nat) (n : Nat) (l : List Nat) (h : ∀ b ∈ l, n ≤ f b) :
    ∀ m : Nat × Nat, n ≤ m.2 → n ≤ (l.foldl (fun m b => if f b < m.2 then (b, f b) else m) m).2 := by
  induction l with
  | nil => exact fun m h => h
  | cons b l ih =>
    intro m hm
    refine ih (fun b hb => h b (List.mem_cons_of_mem _ hb)) _ ?_
    show n ≤ (if f b < m.2 then (b, f b) else m).2
    split
    · exact h b List.mem_cons_self
    · exact hm

theorem fresh_none (s : State) (h : s.cfg.cycles = []) : s.freshBlock = (0, 0) := by
  have f : ∀ l : List Nat, l.foldl (fun (m : Nat × Nat) b => if 0 < m.2 then (b, 0) else m) (0, 0) = (0, 0) := by
    intro l
    induction l with
    | nil => rfl
    | cons b l ih => exact ih
  simpa [State.freshBlock, h, Tab.get] using f (List.range 1024)

theorem get_const (c b : Nat) : ∀ l : List Nat, l.Pairwise (· < ·) → b ∈ l → Tab.get 0 (l.map (fun k => (k, c))) b = c
  | k :: l, hp, h => by
    simp only [List.map_cons, Tab.get]
    rcases List.mem_cons.1 h with e | e
    · rw [if_pos e.symm]
    · have hk := (List.pairwise_cons.1 hp).1 b e
      rw [if_neg (by omega), if_neg (by omega)]
      exact get_const c b l (List.pairwise_cons.1 hp).2 e

/-- All blocks of the Attic are worn. -/
def worn : State :=
  { State.reset with cfg := { store := some (1, [], 0), cycles := (List.range 1024).map (fun b => (b, 100000)) } }

theorem fresh_worn (s : State) (n : Nat) (h : s.cfg.cycles = (List.range 1024).map (fun b => (b, n))) :
    n ≤ s.freshBlock.2 := by
  have h : ∀ b ∈ List.range 1024, n ≤ Tab.get 0 s.cfg.cycles b := fun b hb => by
    rw [h]
    exact Nat.le_of_eq (get_const n b _ List.pairwise_lt_range hb).symm
  exact fresh_ge _ n _ h (0, Tab.get 0 s.cfg.cycles 0) (h 0 (List.mem_range.2 (by decide)))

theorem worn_fresh : 100000 ≤ worn.freshBlock.2 := fresh_worn worn 100000 (by simp only [worn])

theorem witness_AtticLog_fresh :
    ({ State.reset with cfg := { store := some (1, [], 0) } } : State).freshBlock.2 < 100000 ∧
    ({ State.reset with evt := { storing := some ([], 0) } } : State).freshBlock.2 < 100000 := by
  rw [fresh_none _ rfl, fresh_none _ rfl]
  decide

theorem witness_AtticLog :
    ((State.reset.hostWrite .usb).cfg.store = none ∧ (State.reset.hostWrite .usb).fb Fd.POR_STAT_HOLDUP = false ∧
      ((st [(Fd.POR_STAT_HOLDUP, [], 1)]).hostWrite .usb).fb Fd.POR_STAT_HOLDUP = true ∧
      (({ State.reset with cfg := { store := some (1, [], 0) } } : State).hostWrite .usb).cfg.store = some (1, [], 0)) ∧
    (let u := ({ State.reset with cfg := { store := some (1, [], 0) } } : State)
     u.storeBusy = true ∧ u.evt.storing = none ∧ u.fio.linkDown.contains 1 = false) ∧
    (let u := ({ State.reset with cfg := { store := some (1, [], 0) }, fio := { linkDown := [1] } } : State)
     u.cfg.store = some (1, [], 0) ∧ u.evt.storing = none ∧ u.fio.linkDown.contains 1 = true) ∧
    ((State.reset.hostWrite .usb).fio.linkDown.contains 1 = false ∧
      (({ State.reset with fio := { linkDown := [1] } } : State).hostWrite .usb).fio.linkDown.contains 1 = true) ∧
    (let u := ({ State.reset with evt := { storing := some ([], 0) } } : State)
     u.cfg.store = none ∧ u.evt.storing = some ([], 0) ∧ u.fio.linkDown.contains 1 = false ∧
       ({ u with fio := { linkDown := [1] } } : State).fio.linkDown.contains 1 = true) ∧
    (State.reset.storeBusy = false ∧ State.reset.fb Fd.POR_STAT_HOLDUP = false ∧ State.reset.pageDue = false) ∧
    (let u := ({ State.reset with evt := { unst := List.replicate 8 (0, {}) } } : State)
     u.pageDue = true ∧ u.storeBusy = false ∧ u.fb Fd.POR_STAT_HOLDUP = false ∧ u.fb Fd.EVT_STAT_LOG_FAIL = false ∧
      500 ≤ u.bucketNow ∧ u.evt.lostFlag = false) ∧
    (let u := ({ State.reset with cfg := { log := [{}] }, trc := { buf := [{}] } } : State)
     u.selectedEntry = some {} ∧ u.trc.buf[u.f Fd.TRC_RD_IDX_INDEX]? = some {}) := by
  and_intros <;> decide +kernel

/-- A READ leaves the store in progress as it is, so that none is one before and after. -/
theorem witness_AtticLog_read :
    let v := State.reset.hostWrite .usb
    ((List.range 64).foldl (fun s i => s.wr Reg.ATC_BUFi [i] ((wordsOf (v.slotBytes 3)).getD i 0)) v).cfg.store = none := by
  intro v
  have h : ∀ (l : List Nat) (x : State), x.cfg.store = none →
      (l.foldl (fun s i => s.wr Reg.ATC_BUFi [i] ((wordsOf (v.slotBytes 3)).getD i 0)) x).cfg.store = none := by
    intro l
    induction l with
    | nil => exact fun x h => h
    | cons i l ih => exact fun x h => ih _ h
  exact h _ _ rfl

/-- A started module in a power state. -/
def inState (k boot : Nat) (p : Por) : State :=
  { st [(Fd.POR_STAT_STATE, [], k), (Fd.CFG_STAT_BOOT, [], boot)] with wall := 10 ^ 12, raw := 10 ^ 12, por := p }

theorem witness_PowerStates :
    (((inState 4 2 {}).set0 Fd.POR_STAT_HOLDUP 1).hostWrite .usb).fb Fd.POR_STAT_HOLDUP = true ∧
    (let v := (inState 4 1 {}).hostWrite .usb
     v.fb Fd.POR_STAT_HOLDUP = false ∧ v.inTransition = true) ∧
    (let v := (inState 2 2 {}).hostWrite .usb
     v.fb Fd.POR_STAT_HOLDUP = false ∧ v.inTransition = false ∧ v.operating = false) ∧
    (∀ b ∈ [0, 1], let v := ((inState 4 2 {}).set0 Fd.POR_STAT_PROVISIONAL b).hostWrite .usb
     v.fb Fd.POR_STAT_HOLDUP = false ∧ v.inTransition = false ∧ v.operating = true ∧ v.f Fd.CFG_STAT_BOOT = 2 ∧
      v.fb Fd.POR_STAT_PROVISIONAL = decide (b = 1) ∧ v.awakeOver = false ∧ v.por.backAt ≠ some v.wall ∧
      ({ v with por := { backAt := some v.wall } } : State).por.backAt = some v.wall) ∧
    (let u := ({ inState 4 2 { target := some (2, 0) } with tu := { tick := 1 } } : State)
     u.por.target = some (2, 0) ∧ u.f Fd.POR_STAT_STATE ≠ 2 ∧ 0 < u.tu.tick) ∧
    (∀ k ∈ [2, 3], let u := inState k 2 { target := some (k, 0) }
     u.f Fd.POR_STAT_STATE = k ∧ u.por.held = 0 ∧ (u.set0 Fd.POR_STAT_TRANS 0).f Fd.POR_CMD_STAT_STATE ≠ 1) ∧
    (∃ l : Bool, l ≠ State.reset.fb Fd.POR_SRCs_CFG_POL [0]) ∧
    (State.reset.sourceWakes 1 = false ∧
      (let u := (inState 2 2 {}).sf Fd.POR_SRCs_CFG_EN [1] 1
       u.sourceWakes 1 = true ∧ u.por.target = none ∧ u.por.waking = false) ∧
      (∀ w ∈ [0, 10 ^ 12], let u := (inState 2 2 { waking := true, wokeAt := w }).sf Fd.POR_SRCs_CFG_EN [1] 1
       u.sourceWakes 1 = true ∧ u.por.target = none ∧ u.por.waking = true ∧ decide (u.por.wokeAt = u.wall) = decide (w ≠ 0))) ∧
    (let u := (inState 2 2 {}).set0 Fd.POR_TIMER_SECONDS 10
     u.f Fd.POR_TIMER_SECONDS ≠ 0 ∧ u.operating = false ∧
      u.por.entered + u.f Fd.POR_TIMER_SECONDS * 1000000000 ≤ u.wall ∧ State.reset.f Fd.POR_TIMER_SECONDS = 0) ∧
    (∀ q ∈ [true, false],
      let v := (inState 4 2 { qual := q, srcs := 1 }).set0 Fd.POR_STAT_PROVISIONAL 1
      let u := v.sf Fd.POR_SRCs_CFG_MAX_AWAKE [0] 3
      u.fb Fd.POR_STAT_PROVISIONAL = true ∧ u.por.target = none ∧ u.por.qual = q ∧
      u.por.readyAt + u.f Fd.POR_CFG_FALSE_T * 100000000 ≤ u.wall ∧ u.awakeLimit = some 3 ∧
      u.por.wokeAt + 3 * 1000000000 ≤ u.wall) ∧
    (let u := ({ inState 2 2 { stay := some 0 } with wall := 10 ^ 15 } : State)
     u.por.stay = some 0 ∧ 0 + u.f Fd.POR_CFG_CYCLE_S * 1000000000 ≤ u.wall) := by
  and_intros <;> decide +kernel

theorem witness_Supplies_poll : inState 1 2 {} = (inState 1 2 {}).regulatorPoll := (if_neg (by decide +kernel)).symm

theorem witness_Supplies :
    (let u := inState 4 2 { inReset := false }
     u.fb Fd.POR_STAT_HOLDUP = false ∧ u.operating = true ∧ u.por.inReset = false) ∧
    (∀ k ∈ [1, 2], let u := inState k 2 {}
     u.fb Fd.POR_STAT_HOLDUP = false ∧ u.f Fd.POR_STAT_STATE = k ∧ u.operating = false) ∧
    ((inState 4 2 {}).set0 Fd.POR_STAT_HOLDUP 1).fb Fd.POR_STAT_HOLDUP = true ∧
    (let u := (inState 4 2 { vmonLow := some 0 }).set0 Fd.POR_VMON_ACT 1
     u.por.vmonLow = some 0 ∧ u.fb Fd.POR_VMON_ACT = true ∧ 0 + u.f Fd.POR_VMON_DLY * 1000000 ≤ u.wall ∧
      u.inTransition = false ∧ u.f Fd.CFG_STAT_BOOT = 2 ∧ u.operating = true ∧ (inState 4 2 {}).por.vmonLow = none) ∧
    (let u := inState 1 2 {}
     let target : BitVec 10 := BitVec.ofNat 10 (u.f Fd.POR_AVS_CFG_VMIN)
     u.f Fd.POR_AVS_CFG_VMIN ≤ target.toNat ∧ target.toNat ≤ u.f Fd.POR_AVS_CFG_VMAX ∧
      (u.avsCommand target.toNat).fb Fd.POR_AVS_STAT_FREQ_WAIT = false ∧ (0 : BitVec 10).toNat < u.f Fd.POR_AVS_CFG_VMIN ∧
      ((u.avsCommand (u.f Fd.POR_AVS_CFG_VMIN)).raise Fd.POR_EVT_AVS_CLIP).fb Fd.POR_AVS_STAT_FREQ_WAIT = false) ∧
    (let u := inState 4 2 { avsAt := some 0 }
     u.por.avsAt = some 0 ∧ 0 + 5000000 ≤ u.wall) ∧
    (∀ e ∈ [(1, 3, some (1, true)), (3, 1, some (1, false)), (3, 3, none)],
      let u := inState 4 2 { stepAt := some 0, inh := e.1, want := e.2.1 }
      u.por.stepAt = some 0 ∧ u.por.released = none ∧ 0 + 2000000 ≤ u.wall ∧ u.inhNext = e.2.2 ∧
       ({ u with wall := 0 } : State).wall < 0 + 2000000) ∧
    (let u := inState 4 2 { railsAt := some 0, inh := 3 }
     u.por.railsAt = some 0 ∧ u.por.released = none ∧ 0 + 200000000 ≤ u.wall ∧ (5 : BitVec 7) ≠ 0 ∧
      ({ u with wall := 0 } : State).wall < 0 + 200000000 ∧ u.drawFree.2.por.inh = u.por.inh) ∧
    (let u := inState 4 2 { released := some 0 }
     u.por.released = some 0 ∧ 0 + 1000000000 ≤ u.wall) := by
  and_intros <;> decide +kernel

/-- The flash holds a valid copy 0 without a body, compiled for any node; other bytes are erased. -/
def flash0 (crc : Nat) : Tab (BitVec 8) :=
  [(0, 0x31), (1, 0x58), (2, 0x52), (3, 0x4C), (8, 0), (9, 0), (10, 0), (11, 0), (12, 1), (13, 0)] ++
    ([252, 253, 254, 255].zip (leBytes 4 crc))

def flashHdr : Bytes :=
  [0x31, 0x58, 0x52, 0x4C, 0xFF, 0xFF, 0xFF, 0xFF, 0, 0, 0, 0, 1, 0, 0xFF, 0xFF, 0xFF, 0xFF, 0xFF, 0xFF, 0xFF, 0xFF, 0xFF, 0xFF] ++
    List.replicate 228 0xFF

theorem flashHdr_ok (rest : Bytes) : hdrOk (flashHdr ++ rest) = true ∧ hdrBody (flashHdr ++ rest) = 0 := by
  rw [flashHdr, List.append_assoc]
  generalize List.replicate 228 0xFF#8 ++ rest = x
  constructor
  · simp [hdrOk, leAt, slice, leNat, hdrBody, nodeOk, hdrNode]
  · simp [leAt, slice, leNat, hdrBody]

/-- The state in which the reset is held, with a valid copy 0 in the flash or without. -/
def held0 (x : Tab (BitVec 8)) : State := { State.reset with cfg := { xspi := x } }

set_option maxRecDepth 4000 in
theorem flash0_read (c : Nat) : (List.range 256).map (fun i => Tab.get 0xFF#8 (flash0 c) (0 + i)) = flashHdr ++ leBytes 4 c :=
  rfl

theorem witness_Resets_copy : ∃ v : State, v = (held0 (flash0 (crc32 flashHdr))).resetEnds 2 false ∧
    v.copyOrder 2 none = [0] ∧ v.copyOk 0 = true := by
  refine ⟨_, rfl, ?_⟩
  generalize hv : (held0 (flash0 (crc32 flashHdr))).resetEnds 2 false = v
  have hx : v.cfg.xspi = flash0 (crc32 flashHdr) := by
    rw [← hv]
    rfl
  have h : v.copyHeader 0 = flashHdr ++ leBytes 4 (crc32 flashHdr) := by
    rw [State.copyHeader, State.flash, hx]
    exact flash0_read _
  constructor
  · simp only [State.copyOrder, h, flashHdr_ok, List.filter_cons, List.filter_nil, if_true]
  · simp only [State.copyOk, State.copyBody, h, flashHdr_ok]
    exact crc_passes _ (by simp only [flashHdr, List.length_append, List.length_cons, List.length_nil, List.length_replicate])

theorem witness_Resets :
    (let u := ({ State.reset with cst := { resetAt := some 3 }, tu := { base := some 0, tick := 3 } } : State)
     u.cst.resetAt = some 3 ∧ u.tu.base = some 0 ∧ 3 ≤ u.tu.tick ∧ ({ u with tu := {} } : State).tu.tick < 3) ∧
    (({ State.reset with por := { inReset := false } } : State).por.inReset = false ∧ State.reset.por.inReset = true ∧
      State.reset.f Fd.POR_STAT_STATE ≠ 1) ∧
    (State.reset.resetEnds 1 false).copyOrder 1 none = [] ∧
    (acceptsReset 3 = false ∧ acceptsReset 4 = true ∧ (State.reset.hostWrite .usb).cfg.pending = none ∧
      (State.reset.hostWrite .usb).cfg.check = none) ∧
    (∀ b ∈ [true, false], let u := inState 4 1 { inReset := false, waking := b }
     u.por.inReset = false ∧ u.calibrated = true ∧ u.f Fd.CFG_STAT_BOOT = 1 ∧ u.por.waking = b) ∧
    (let u := inState 4 2 { inReset := false }
     (5 : BitVec 7) ≠ 0 ∧ u.f Fd.POR_STAT_STATE ≠ 1 ∧ u.por.inReset = false) := by
  and_intros <;> decide +kernel

theorem witness_RegisterAccess :
    (∀ a ∈ [0x128000, 0xEFFFC, 0x150000, 0x1800000], regAt a = none ∧
      (a < 0xF0000 ∨ 0xF8000 ≤ a ∧ a < 0x420000 ∨ 0xD80000 ≤ a) ∧ wordAddr (BitVec.ofNat 26 a) = a ∧ State.reset.reaches a = true) ∧
    (let s : State := { State.reset with fio := { linkDown := [0] } }
     s.reaches 0x400000 = false ∧ (s.hostWrite .usb).reaches 0x400000 = false) ∧
    (let v := State.reset.hostWrite .usb
     let a := Reg.GNG_TBL_DATA0.addr []
     let w := v.enabledWord Reg.GNG_TBL_DATA0 [] (byteMask 15) 7
     v.reaches a = true ∧ regAt a = some (Reg.GNG_TBL_DATA0, []) ∧ ((v.serve .usb a).commandWrite .usb Reg.GNG_TBL_DATA0 [] a w).isSome = true) ∧
    (let v := State.reset.hostWrite .usb
     let a := Reg.PGn_BURST_CFG.addr [3]
     let w := v.enabledWord Reg.PGn_BURST_CFG [3] (byteMask 15) 7
     v.reaches a = true ∧ v.superseded .usb a = false ∧ regAt a = some (Reg.PGn_BURST_CFG, [3]) ∧ (v.serve .usb a).commandWrite .usb Reg.PGn_BURST_CFG [3] a w = none ∧ v.lockedAt a = false ∧
      writtenPairs.any Reg.PGn_BURST_CFG.is = false ∧
      writtenPairs.all (fun q => q.base + 4 != Reg.PGn_BURST_CFG.base) = true) ∧
    (let v := (st [(Fd.CFG_STAT_SEALED, [], 1)]).hostWrite .usb
     let a := Reg.PGn_BURST_CFG.addr [3]
     v.lockedAt a = true ∧ (v.serve .usb a).commandWrite .usb Reg.PGn_BURST_CFG [3] a (v.enabledWord Reg.PGn_BURST_CFG [3] (byteMask 15) 7)
       = none) ∧
    (let v := ({ State.reset with pairLow := [(partyKey .usb (Reg.TU_TOD_LO.addr []), some 5)] } : State).hostWrite .usb
     let a := Reg.TU_TOD_HI.addr []
     v.reaches a = true ∧ v.superseded .usb a = false ∧ regAt a = some (Reg.TU_TOD_HI, []) ∧ v.lockedAt a = false ∧ Reg.TU_TOD_LO ∈ writtenPairs ∧
      Reg.TU_TOD_LO.base + 4 = Reg.TU_TOD_HI.base ∧ Tab.get none v.pairLow (partyKey .usb (a - 4)) = some 5 ∧
      (v.serve .usb a).commandWrite .usb Reg.TU_TOD_HI [] a (v.enabledWord Reg.TU_TOD_HI [] (byteMask 15) 7) = none) ∧
    (let s := { State.reset with hst := { served := [(Reg.PGn_BURST_CFG.addr [3], State.reset.regCycle (Reg.PGn_BURST_CFG.addr [3]), 3)] } }
     let v := s.hostWrite .usb
     let a := Reg.PGn_BURST_CFG.addr [3]
     v.superseded .usb a = true ∧ v.lockedAt a = false ∧ (v.serve .usb a).commandWrite .usb Reg.PGn_BURST_CFG [3] a
       (v.enabledWord Reg.PGn_BURST_CFG [3] (byteMask 15) 7) = none) ∧
    (∃ r ∈ writtenPairs, State.reset.reaches (r.addr []) = true ∧ State.reset.superseded .usb (r.addr []) = false ∧ regAt (r.addr []) = some (r, []) ∧ State.reset.lockedAt (r.addr []) = false) ∧
    (∃ r ∈ lowWords, State.reset.reaches (r.addr []) = true ∧ regAt (r.addr []) = some (r, []) ∧ State.reset.captured .usb (r.addr []) = none ∧
      (State.reset.capture .usb (r.addr []) 5).captured .usb (r.addr []) = some 5 ∧
      (State.reset.capture .usb (r.addr [] + 4) 0).captured .usb (r.addr []) = none) ∧
    (∀ r ∈ [Reg.CST_FAIL_CNT, Reg.CST_BAD_FRAME, Reg.CST_ROUNDS, Reg.ASD_LEASE_CNT, Reg.POR_HOLD_CNT, Reg.GEN_LOCKED_CNT],
      State.reset.reaches (r.addr []) = true ∧ regAt (r.addr []) = some (r, []) ∧ State.reset.captured .usb (r.addr []) = none) ∧
    (∀ op ∈ [9, 10], (bridge { txns := [txnOf op 255] }).nextUnit op = some (txnOf op 255)) := by
  and_intros <;> decide +kernel

/-- Host queue 0 in the state r, from the host or to it, with an item of 300 bytes at the head of its queue. -/
def hostQ (dir : Nat) (r : Ring) : State :=
  { st [(Fd.HST_Qs_CFG_DIR, [0], dir)] with
    hst := { rings := [(0, r)] }
    ldr := { items := [(2, { bytes := List.replicate 300 1, lenValid := true, refs := 1 })]
             queues := [(2048, { entries := [{ desc := 2 }] })] } }

def desc1 (n : Nat) : HostDesc := { addr := 0, len := n, last := false, data := [1, 2] }

theorem witness_HostQueues :
    (let r := (hostQ 0 { size := 4 }).ring 0
     r.sized = true ∧ (3 : Nat) < 2 ^ r.size ∧ [desc1 1, desc1 1, desc1 1].length = (3 + 2 ^ r.size - r.tail) % 2 ^ r.size ∧
      bits (BitVec.ofNat 32 (2 ^ 31 + 4)).toNat 3 0 = r.size ∧ bitAt (BitVec.ofNat 32 (2 ^ 31 + 4)).toNat 31 = true ∧
      bits (4 : BitVec 32).toNat 3 0 = r.size ∧ bitAt (4 : BitVec 32).toNat 31 = false) ∧
    ((hostQ 0 { size := 3 }).ring 0).sized = false ∧
    ((hostQ 0 { size := 4 }).ring 0).posted = [] ∧
    (∀ n ∈ [100, 300], let u := hostQ 0 { size := 4, en := true, posted := [desc1 n] }
     let r := u.ring 0
     r.posted = [desc1 n] ∧ r.en = true ∧ r.sized = true ∧ u.fb Fd.HST_Qs_CFG_DIR [0] = false ∧
      r.cur.or (u.serviceHead 2048) = some 2 ∧ (desc1 n).len ≠ 0 ∧
      (let v := (u.own 2048).readItem 2 .good
       r.cur.isSome = false ∧ decide (n < (v.hostBytes 2048 (v.item 2)).1.length) = decide (n = 100))) ∧
    (∀ n ∈ [199, 200], let u := hostQ 0 { size := 4, en := true, posted := [desc1 n], off := 100, cur := some 2, acc := List.replicate 200 1 }
     let r := u.ring 0
     r.posted = [desc1 n] ∧ r.en = true ∧ r.sized = true ∧ r.cur.or (u.serviceHead 2048) = some 2 ∧ r.cur.isSome = true ∧
      decide (n < r.acc.length) = decide (n = 199)) ∧
    ((hostQ 0 { cur := some 2 }).ring 0).cur = some 2 ∧ (desc1 0).len = 0 ∧
    (({ hostQ 0 {} with ldr := {} } : State).serviceHead 2048 = none ∧ ((hostQ 0 {}).ring 0).cur = none) ∧
    (let u := hostQ 1 { size := 4, en := true, posted := [desc1 2] }
     let r := u.ring 0
     u.fb Fd.HST_Qs_CFG_DIR [0] = true ∧ r.waiting = false ∧ r.off = 0 ∧ (desc1 2).len ≠ 0 ∧
      r.acc.length + (desc1 2).len ≤ 10240 ∧ (desc1 2).last = false ∧ r.acc.length + (desc1 10240).len ≤ 10240 ∧
      10240 < r.acc.length + (desc1 10241).len) := by
  and_intros <;> decide +kernel

theorem witness_Services :
    (usbLimits 0x100 8 = true ∧ usbLimits 0x101 8 = false ∧ usbLimits 0x100 (List.replicate 8 (0 : BitVec 8)).length = true ∧
      usbLimits 0x100 ([] : Bytes).length = false) ∧
    ((5 : BitVec 16) ≠ 0 ∧ (5 : BitVec 16) ≠ 8) ∧
    (State.reset.cfg.upd = none ∧ (upl true []).cfg.upd = some { package := true }) ∧
    (let u := ({ State.reset with cfg := { upd := some { package := true, usb := true } } } : State)
     u.cfg.upd = some { package := true, usb := true }) ∧
    (let u := ({ State.reset with act := { mgtIp := 9, mgtFrom := [(0x0A000000, 8)] } } : State)
     (9 : BitVec 32) = u.mgtIp ∧ u.mgtPermits 0x0A000001 = true ∧ u.mgtPermits 0x0B000001 = false ∧
      16 ≤ (List.replicate 16 (0 : BitVec 8)).length ∧ u.mgtTake.1 = true ∧ (5 : BitVec 32) ≠ u.mgtIp ∧
      ([] : Bytes).length < 16) := by
  and_intros <;> decide +kernel

theorem witness_TestAccess :
    State.reset.mayDrive = false ∧ ({ State.reset with por := { boot := 1 } } : State).mayDrive = true := by
  and_intros <;> decide +kernel

/-- Two copies in the flash with valid headers and these SEQ, the second one spoiled where it is none. -/
def twoCopies (q0 : Nat) (q1 : Option Nat) : State :=
  let hdr (b : Nat) (q : Nat) : Tab (BitVec 8) :=
    ([0x31, 0x58, 0x52, 0x4C] ++ leBytes 4 q ++ [0, 0, 0, 0, 1, 0]).mapIdx (fun i x => (b + i, x))
  held0 (hdr 0 q0 ++ (match q1 with | some q => hdr 0x4000000 q | none => []))

theorem witness_BootChoice :
    (∀ q ∈ [4, 5, 6, 5 + 2 ^ 31], let s := twoCopies 5 (some q)
     hdrOk (s.copyHeader 0) = true ∧ hdrOk (s.copyHeader 1) = true ∧ hdrSeq (s.copyHeader 0) = 5 ∧
      hdrSeq (s.copyHeader 1) = q) ∧
    (let s := twoCopies 5 none
     hdrOk (s.copyHeader 0) = true ∧ hdrOk (s.copyHeader (1 - 0)) = false) := by
  and_intros <;> decide +kernel

theorem witness_UnmappedAccess :
    (∀ a ∈ [0x128000, 0x12FFFC, 0x150000, 0x1FFFFC, 0x1800000], 0x128000 ≤ a ∧ a < 0x130000 ∨
      0x150000 ≤ a ∧ a < 0x200000 ∨ 0x1800000 ≤ a) ∧
    (∀ a ∈ [0x128000, 0xEFFFC, 0x150000, 0x1800000], State.reset.reaches a = true ∧ regAt a = none ∧
      (a < 0xF0000 ∨ 0xF8000 ≤ a ∧ a < 0x420000 ∨ 0xD80000 ≤ a)) ∧
    (let r : Request := { rid := 0, op := 9, bus := 255, addr := 0x150000, wlen := 0, rlen := 4, wdata := [] }
     r.addr = 0x150000 ∧ r.op = 9 ∧ r.rlen = 4) ∧
    (let r : Request := { rid := 0, op := 10, bus := 255, addr := 0x150000, wlen := 4, rlen := 0, wdata := [1, 2, 3, 4] }
     r.addr = 0x150000 ∧ r.op = 10 ∧ r.wdata.length = 4) := by
  and_intros <;> decide +kernel

theorem stored_of (s : State) (h : decide (Tab.rising none s.regs = true ∧ Tab.rising none s.pairCap = true ∧
    Tab.rising none s.pairLow = true ∧ Tab.rising none s.tke.vc = true ∧ Tab.wf 0xFF s.cfg.xspi = true ∧
    s.evt.vol.length ≤ 1024 ∧ s.evt.unstored ≤ 256 ∧ s.gasp.length ≤ 64 ∧ s.trc.buf.length ≤ 16384) = true) : s.Stored := by
  unfold State.Stored
  exact of_decide_eq_true h

theorem witness_PairReads :
    State.reset.Stored ∧ (State.reset.capture .usb (Reg.TU_TOD_HI.addr []) 9).Stored ∧
    (State.reset.reaches (Reg.TU_TOD_LO.addr []) = true ∧ (State.reset.capture .usb (Reg.TU_TOD_HI.addr []) 9).reaches
      (Reg.TU_TOD_HI.addr []) = true ∧ regAt (Reg.TU_TOD_LO.addr []) = some (Reg.TU_TOD_LO, []) ∧ Reg.TU_TOD_LO ∈ lowWords ∧ Reg.TU_TOD_LO ∈ writtenPairs) ∧
    (regAt (Reg.TU_TOD_HI.addr []) = some (Reg.TU_TOD_HI, []) ∧
      (State.reset.capture .usb (Reg.TU_TOD_HI.addr []) 9).captured .usb (Reg.TU_TOD_HI.addr []) = some 9 ∧
      Reg.TU_TOD_HI ∉ lowWords ∧
      Reg.TU_TOD_HI ∉ [Reg.TU_NOW_FRAC, Reg.TU_OFS_FRAC, Reg.TU_RATE_LO, Reg.CFG_BIST, Reg.PGn_Ll_PRBS_ERR,
        Reg.PGn_Ll_STAT, Reg.ASD_Gg_LSTAT, Reg.HST_STAT, Reg.EVT_RD_DATAi, Reg.TRC_RD_DATAi]) ∧
    (Party.mgmt ≠ Party.usb ∧ State.reset.lockedAt (Reg.TU_TOD_LO.addr []) = false ∧
      State.reset.lockedAt (Reg.TU_TOD_LO.addr [] + 4) = false ∧
      regAt (Reg.TU_TOD_LO.addr [] + 4) = some (Reg.TU_TOD_HI, []) ∧ Reg.TU_TOD_HI.base = Reg.TU_TOD_LO.base + 4) := by
  refine ⟨stored_of _ (by decide +kernel), stored_of _ (by decide +kernel), ?_, ?_, ?_⟩ <;> decide +kernel

theorem witness_NowCaptures : State.reset.Stored ∧ (State.reset.capture .usb Reg.TU_NOW_LO.base 9).Stored ∧
    (State.reset.capture .usb Reg.TU_NOW_LO.base 9).captured .usb Reg.TU_NOW_LO.base = some 9 ∧ Party.mgmt ≠ .usb := by
  refine ⟨stored_of _ (by decide +kernel), stored_of _ (by decide +kernel), ?_, ?_⟩ <;> decide +kernel

theorem witness_TimeReading : State.reset.Stored ∧
    (∀ r ∈ [(0 : Int), 2 ^ 48 / 4000, -(2 ^ 48 / 4000)], -(2 ^ 48) ≤ r * 4000 ∧ r * 4000 ≤ 2 ^ 48) ∧
    (∀ r ∈ [2 ^ 48 / 4000 + (1 : Int), -(2 ^ 48 / 4000) - 1], r * 4000 < -(2 ^ 48) ∨ 2 ^ 48 < r * 4000) := by
  refine ⟨stored_of _ (by decide +kernel), ?_, ?_⟩ <;> decide

/-- Every access type stands in the map, and so does a reserved bit. -/
theorem witness_MapAccess :
    (∀ a ∈ [Acc.ro, .live, .rc, .wo, .rw, .rws, .rwl, .w1c], ∃ r ∈ regTable, ∃ f ∈ r.fields, f.lo ≤ f.lo ∧ f.lo ≤ f.hi ∧
      f.lo < 32 ∧ f.acc = a) ∧
    (∃ r ∈ regTable, ∃ k ∈ List.range 32, ∀ f ∈ r.fields, k < f.lo ∨ f.hi < k) := by
  and_intros <;> decide +kernel

theorem witness_RegisterFrame :
    let v := (State.reset.clock 0).hostWrite .usb
    let a := Reg.PGn_BURST_CFG.addr [3]
    let w := v.enabledWord Reg.PGn_BURST_CFG [3] (byteMask 3) 7
    State.reset.Stored ∧ a = wordAddr (BitVec.ofNat 26 a) ∧ regAt a = some (Reg.PGn_BURST_CFG, [3]) ∧
      v.reaches a = true ∧ (v.serve .usb a).commandWrite .usb Reg.PGn_BURST_CFG [3] a w = none ∧ v.lockedAt a = false ∧
      writtenPairs.all (fun q => !q.is Reg.PGn_BURST_CFG && q.base + 4 != Reg.PGn_BURST_CFG.base) = true ∧
      (byteMask 3).getLsbD 31 = false := by
  refine ⟨stored_of _ (by decide +kernel), ?_, ?_, ?_, ?_, ?_, ?_⟩ <;> decide +kernel

theorem witness_StepReadsTime : State.reset.Stored ∧ 7 * 2 ^ 32 < 2 ^ 96 ∧ State.reset.tu.base = none ∧
    (let s := ({ State.reset with tu := { base := some 7 } } : State)
     s.tu.base = some 7 ∧ (7 : BitVec 64).toNat * 2 ^ 32 ≤ 7 * 2 ^ 32) ∧
    ({ State.reset with tu := { base := some 7 } } : State).Stored := by
  refine ⟨stored_of _ (by decide +kernel), ?_, ?_, ?_, stored_of _ (by decide +kernel)⟩ <;> decide +kernel

theorem witness_VoterIsolation : (w2 9 (ins 0x10 1 2 0 0 0 0)).Stored ∧ (1 : Fin 3) ≠ 0 :=
  ⟨stored_of _ (by decide +kernel), by decide⟩

theorem witness_StoreExtensional :
    Tab.wf (0 : BitVec 32) [(4, 1), (8, 2)] = true ∧ Tab.get (0 : BitVec 32) [(4, 1), (8, 2)] 4 = 1 := by
  decide

theorem witness_FlashBurn : State.reset.Sound ∧ (0 : Nat) < [(1 : BitVec 8)].length ∧ (7 : Nat) < 8 :=
  ⟨⟨Nat.le_refl 0, stored_of _ (by decide +kernel)⟩, by decide, by decide⟩

theorem witness_IrqFollows :
    State.reset.Stored ∧ (State.reset.set0 Fd.HST_CFG_IRQ_EN 1).Stored ∧ Fd.CST_EVT_ROUND_FAIL.reg ∈ w1cRegs ∧
    (⟨Fd.CST_EVT_ROUND_FAIL.hi, Fd.CST_EVT_ROUND_FAIL.lo, .w1c⟩ : FieldRow) ∈ Fd.CST_EVT_ROUND_FAIL.reg.fields ∧
    Fd.CST_EVT_ROUND_FAIL.lo + 0 ≤ Fd.CST_EVT_ROUND_FAIL.hi ∧
    regAt (Fd.CST_EVT_ROUND_FAIL.reg.addr []) = some (Fd.CST_EVT_ROUND_FAIL.reg, []) ∧
    State.reset.fb Fd.HST_CFG_IRQ_EN = false ∧ (State.reset.set0 Fd.HST_CFG_IRQ_EN 1).fb Fd.HST_CFG_IRQ_EN = true := by
  refine ⟨stored_of _ (by decide +kernel), stored_of _ (by decide +kernel), ?_, ?_, ?_, ?_, ?_, ?_⟩ <;> decide +kernel

theorem witness_StepKeepsSound : State.reset.Sound ∧ ∃ t : State, step State.reset = .next t :=
  ⟨⟨Nat.le_refl 0, stored_of _ (by decide +kernel)⟩, ⟨_, rfl⟩⟩
theorem witness_RawCounter : ∃ t : State, step State.reset = .next t := ⟨_, rfl⟩
theorem witness_QueueOrder : ({ State.reset with pending := [.powerOnReset 5] } : State).pending = [.powerOnReset 5] := rfl
theorem witness_StepRunsFront : ({ State.reset with pending := [.thermalWarning 5] } : State).pending = .thermalWarning 5 :: [] := rfl
theorem witness_IdleTick : State.reset.pending = [] := rfl

end Sys2Proof.Tests
end

section
/-! SUPPORT. The time unit's words under a read: what a read leaves captured and what it returns (R12, R78). -/

namespace Sys2Proof.Machine

open Sys2Proof

/-- Capturing a word keeps the captures in order. -/
theorem capture_rising {s : State} (h : Tab.rising none s.pairCap = true) (p : Party) (a : Nat) (v : BitVec 32) :
    Tab.rising none (s.capture p a v).pairCap = true := Tab.rising_set none (partyKey p a) (some v) h

/-- A read by a party is, for every other word and party, no more than the captures that it starts. -/
theorem captured_readReg_ne {s : State} {p q : Party} {a b : Nat} {r : RegDesc} {ix : List Nat} (snap : Bool)
    (hs : s.Stored) (hreach : s.reaches a = true) (hr : regAt a = some (r, ix)) (hn : p ≠ q ∨ a ≠ b) :
    (s.readReg p snap a).2.captured q b = ((s.measure r ix).readCaptures p r ix a).captured q b := by
  have hm : (s.measure r ix).Stored := (State.measure_kept s r ix (Kept.refl s)).2.2.2 hs
  have hdrop := captured_drop_ne _ p q a b (readCaptures_rising (s.measure r ix) p r ix a hm) hn
  cases snap with
  | true => simpa [State.readReg, hreach, hr] using hdrop
  | false => simpa [State.readReg, hreach, hr, captured_cap (readClears_cap _ p r ix)] using hdrop

/-- A word that stands captured once its read has started is what the read returns. -/
theorem readReg_of_captured {s : State} {p : Party} {a : Nat} {r : RegDesc} {ix : List Nat} {v : BitVec 32} (snap : Bool)
    (hreach : s.reaches a = true) (hr : regAt a = some (r, ix))
    (hv : ((s.measure r ix).readCaptures p r ix a).captured p a = some v) : (s.readReg p snap a).1 = v := by
  simp [State.readReg, hreach, hr, hv]

/-- No read by another party touches a party's captures (R12, R78). -/
theorem captured_readReg_other {s : State} (hs : s.Stored) {p q : Party} (hq : q ≠ p) (snap : Bool) (a b : Nat) :
    (s.readReg p snap a).2.captured q b = s.captured q b := by
  by_cases hreach : s.reaches a = true
  · cases hr : regAt a with
    | none => simp [State.readReg, hreach, hr]
    | some e =>
      obtain ⟨r, ix⟩ := e
      have hm : Tab.rising none (s.measure r ix).pairCap = true := by rw [measure_cap]; exact hs.2.1
      calc (s.readReg p snap a).2.captured q b
          = ((s.measure r ix).readCaptures p r ix a).captured q b :=
            captured_readReg_ne snap hs hreach hr (Or.inl hq.symm)
        _ = (s.measure r ix).captured q b := readCaptures_other _ p q r ix a b hm hq
        _ = s.captured q b := captured_cap (measure_cap s r ix) q b
  · simp [State.readReg, hreach, State.drawFree, State.captured]

/-- The words of the time unit whose read captures the rest of a value (R78). -/
def capturingWords : List RegDesc := [Reg.TU_NOW_FRAC, Reg.TU_OFS_FRAC, Reg.TU_RATE_LO]

/-- The words of the time unit that such a read captures (R78). -/
def capturedWords : List RegDesc :=
  [Reg.TU_NOW_LO, Reg.TU_NOW_HI, Reg.TU_RAW_LO, Reg.TU_RAW_HI, Reg.TU_OFS_LO, Reg.TU_OFS_HI, Reg.TU_RATE_HI]

theorem regAt_timeWord : ∀ r ∈ capturingWords ++ capturedWords, regAt r.base = some (r, []) := by decide

theorem timeWord_base : ∀ r ∈ capturingWords ++ capturedWords, 0x50008 ≤ r.base ∧ r.base ≤ 0x50030 := by decide

/-- The time unit lies behind no link between dies, so its words are always reached (R23). -/
theorem reaches_timeWord (s : State) {r : RegDesc} (hr : r ∈ capturingWords ++ capturedWords) : s.reaches r.base = true := by
  obtain ⟨hlo, hhi⟩ := timeWord_base r hr
  unfold State.reaches
  rw [if_neg (by omega), if_neg (by omega)]

/-- No word of the time unit is a value that the spec leaves open. -/
theorem measure_timeWord (s : State) {r : RegDesc} (hr : r ∈ capturingWords ++ capturedWords) (ix : List Nat) :
    s.measure r ix = s := by
  obtain ⟨hlo, hhi⟩ := timeWord_base r hr
  have hne : ∀ q : RegDesc, q.base < 0x50008 ∨ 0x50030 < q.base → r.is q = false := fun q hq => is_eq_false (by omega)
  simp [State.measure, hne Reg.CFG_BIST (by decide), hne Reg.PGn_Ll_PRBS_ERR (by decide), hne Reg.PGn_Ll_STAT (by decide),
    hne Reg.ASD_Gg_LSTAT (by decide), hne Reg.HST_STAT (by decide)]

/-- A captured word starts no capture of its own while it stands captured (log entry 22). -/
theorem readCaptures_of_captured {s : State} {p : Party} {r : RegDesc} {v : BitVec 32} (hr : r ∈ capturedWords)
    (hv : s.captured p r.base = some v) : s.readCaptures p r [] r.base = s := by
  have hopen : ∀ r ∈ capturedWords, ∀ q ∈ capturingWords ++ [Reg.EVT_RD_DATAi, Reg.TRC_RD_DATAi], r.is q = false := by decide
  have hne := hopen r hr
  simp [State.readCaptures, hv, hne Reg.TU_NOW_FRAC (by decide), hne Reg.TU_OFS_FRAC (by decide),
    hne Reg.TU_RATE_LO (by decide), hne Reg.EVT_RD_DATAi (by decide), hne Reg.TRC_RD_DATAi (by decide)]

/-- A read of a capturing word leaves captured what it captures of the other words. -/
theorem captured_readReg_capturing {s : State} (hs : s.Stored) (p : Party) (snap : Bool) {r : RegDesc} {b : Nat}
    (hr : r ∈ capturingWords) (hb : r.base ≠ b) :
    (s.readReg p snap r.base).2.captured p b = (s.readCaptures p r [] r.base).captured p b := by
  have hw : r ∈ capturingWords ++ capturedWords := List.mem_append_left _ hr
  rw [captured_readReg_ne snap hs (reaches_timeWord s hw) (regAt_timeWord r hw) (Or.inr hb), measure_timeWord s hw]

/-- The next read of a captured word returns what was captured (R78). -/
theorem readReg_capturedWord {s : State} {p : Party} (snap : Bool) {r : RegDesc} {v : BitVec 32} (hr : r ∈ capturedWords)
    (hv : s.captured p r.base = some v) : (s.readReg p snap r.base).1 = v := by
  have hw : r ∈ capturingWords ++ capturedWords := List.mem_append_right _ hr
  refine readReg_of_captured snap (reaches_timeWord s hw) (regAt_timeWord r hw) ?_
  rw [measure_timeWord s hw, readCaptures_of_captured hr hv]
  exact hv

/-- A capture leaves what the same party holds of another word. -/
theorem captured_capture_other_word {s : State} (h : Tab.rising none s.pairCap = true) (p : Party) {a b : Nat} (v : BitVec 32)
    (hab : a ≠ b) : (s.capture p a v).captured p b = s.captured p b :=
  captured_capture_ne s p p a b v h (Or.inr hab)

/-- raw and the words of the reading above its fraction stand captured together. -/
theorem captured_captureNow {s : State} (h : Tab.rising none s.pairCap = true) (p : Party) :
    (s.captureNow p).captured p Reg.TU_NOW_LO.base = some (wordAt (s.readingAt s.raw) 1) ∧
    (s.captureNow p).captured p Reg.TU_NOW_HI.base = some (wordAt (s.readingAt s.raw) 2) ∧
    (s.captureNow p).captured p Reg.TU_RAW_LO.base = some (wordAt s.raw 0) ∧
    (s.captureNow p).captured p Reg.TU_RAW_HI.base = some (wordAt s.raw 1) := by
  have h1 := capture_rising h p Reg.TU_NOW_LO.base (wordAt (s.readingAt s.raw) 1)
  have h2 := capture_rising h1 p Reg.TU_NOW_HI.base (wordAt (s.readingAt s.raw) 2)
  have h3 := capture_rising h2 p Reg.TU_RAW_LO.base (wordAt s.raw 0)
  unfold State.captureNow
  refine ⟨?_, ?_, ?_, captured_capture ..⟩
  · rw [captured_capture_other_word h3 p _ (by decide), captured_capture_other_word h2 p _ (by decide),
      captured_capture_other_word h1 p _ (by decide), captured_capture]
  · rw [captured_capture_other_word h3 p _ (by decide), captured_capture_other_word h2 p _ (by decide), captured_capture]
  · rw [captured_capture_other_word h3 p _ (by decide), captured_capture]

/-- Both words of OFFSET above its fraction stand captured together. -/
theorem captured_captureOfs {s : State} (h : Tab.rising none s.pairCap = true) (p : Party) :
    (s.captureOfs p).captured p Reg.TU_OFS_LO.base = some (wordAt (pairAt s.tu.pairs s.raw).ofs.toNat 1) ∧
    (s.captureOfs p).captured p Reg.TU_OFS_HI.base = some (wordAt (pairAt s.tu.pairs s.raw).ofs.toNat 2) := by
  have h1 := capture_rising h p Reg.TU_OFS_LO.base (wordAt (pairAt s.tu.pairs s.raw).ofs.toNat 1)
  unfold State.captureOfs
  refine ⟨?_, captured_capture ..⟩
  rw [captured_capture_other_word h1 p _ (by decide), captured_capture]

/-- Settles O48: the read's own captures stand after it, and the captured words answer from them. -/
theorem nowCaptures : Obligations.NowCaptures := by
  unfold Obligations.NowCaptures
  intro p snap s hs
  have hcap : Tab.rising none s.pairCap = true := hs.2.1
  refine ⟨?now, ?ofs, ?rate, fun r v hr hv => readReg_capturedWord snap hr hv,
    fun a q b hq => captured_readReg_other hs hq snap a b⟩
  case now =>
    rintro t rfl
    have hread {b : Nat} := captured_readReg_capturing (b := b) hs p snap (r := Reg.TU_NOW_FRAC) (by decide)
    obtain ⟨hlo, hhi, hrawLo, hrawHi⟩ := captured_captureNow hcap p
    exact ⟨(hread (by decide)).trans hlo, (hread (by decide)).trans hhi, (hread (by decide)).trans hrawLo,
      (hread (by decide)).trans hrawHi⟩
  case ofs =>
    rintro t rfl
    have hread {b : Nat} := captured_readReg_capturing (b := b) hs p snap (r := Reg.TU_OFS_FRAC) (by decide)
    obtain ⟨hlo, hhi⟩ := captured_captureOfs hcap p
    exact ⟨(hread (by decide)).trans hlo, (hread (by decide)).trans hhi⟩
  case rate =>
    exact (captured_readReg_capturing hs p snap (r := Reg.TU_RATE_LO) (by decide) (by decide)).trans
      (captured_capture s p Reg.TU_RATE_HI.base s.rateHi)

end Sys2Proof.Machine
end

section
/-! SUPPORT. The consist time reading as one exact quotient, and what a change of RATE leaves (R75, R76). -/

namespace Sys2Proof.Machine

open Sys2Proof

/-- The terms of a reading, each in its own unit, are one sum in units of 2^-48 ns that is rounded down once (R75). -/
theorem readingOf_eq (p : TimePair) (raw : Nat) : (readingOf p raw : Int) =
    ((raw : Int) * 2 ^ 48 + raw * p.rate.toInt + p.ofs.toNat * 2 ^ 16) / 2 ^ 16 % 2 ^ 96 := by
  have hterms : ((raw : Int) * 2 ^ 48 + raw * p.rate.toInt + p.ofs.toNat * 2 ^ 16) / 2 ^ 16 =
      (raw : Int) * 2 ^ 32 + raw * p.rate.toInt / 2 ^ 16 + p.ofs.toNat := by omega
  rw [hterms, readingOf, wrapInt, Int.toNat_of_nonneg (Int.emod_nonneg _ (by decide))]

/-- rateMax is the greatest RATE within 250 ppm, and clipping changes only a RATE beyond it. -/
theorem clip_rateMax_eq_iff (rate : Int) :
    clipInt (-rateMax) rateMax rate = rate ↔ -(2 ^ 48) ≤ rate * 4000 ∧ rate * 4000 ≤ 2 ^ 48 := by
  rw [clipInt_eq _ _ _ (by decide), rateMax]
  omega

/-- A clipped RATE is within 250 ppm of 0. -/
theorem clip_rateMax_bounds (rate : Int) : -(2 ^ 48) ≤ clipInt (-rateMax) rateMax rate * 4000 ∧
    clipInt (-rateMax) rateMax rate * 4000 ≤ 2 ^ 48 := by
  rw [clipInt_eq _ _ _ (by decide), rateMax]
  omega

/-- RATE's 48 bits hold every clipped value. -/
theorem toInt_clip_rateMax (rate : Int) :
    (BitVec.ofInt 48 (clipInt (-rateMax) rateMax rate)).toInt = clipInt (-rateMax) rateMax rate := by
  have hbounds := clip_rateMax_bounds rate
  exact BitVec.toInt_ofInt_eq_self (by decide) (by omega) (by omega)

/-- After a change of RATE the newest pair is the one of E, and holds the clipped RATE (R75, R76). -/
theorem setRate_pairs (s : State) (rate : Int) (e : Nat) : ∃ (p : TimePair) (ps : List TimePair),
    (s.setRate rate e).tu.pairs = p :: ps ∧ p.eff = e ∧ p.rate.toInt = clipInt (-rateMax) rateMax rate :=
  ⟨_, _, List.take_succ_cons, rfl, toInt_clip_rateMax rate⟩

/-- A change of RATE touches the registers only where it is clipped, and then by raising SERVO_LIMIT (R75). -/
theorem setRate_regs (s : State) (rate : Int) (e : Nat) : (s.setRate rate e).regs =
    if clipInt (-rateMax) rateMax rate = rate then s.regs else (s.raise Fd.TU_EVT_SERVO_LIMIT).regs := by
  by_cases h : clipInt (-rateMax) rateMax rate = rate <;> simp [State.setRate, State.putPair, h]

/-- A flag reads alike in two states with the same registers. -/
theorem fb_congr {s t : State} (h : t.regs = s.regs) (x : Fld) : t.fb x = s.fb x := by
  unfold State.fb State.f State.rd; rw [h]

/-- Settles O49: the reading is one exact quotient, and the head of the pairs holds the clipped RATE. -/
theorem timeReading : Obligations.TimeReading := by
  unfold Obligations.TimeReading
  refine ⟨readingOf_eq, fun s rate e hs => ?_⟩
  obtain ⟨p, ps, hpairs, heff, hrate⟩ := setRate_pairs s rate e
  obtain ⟨hlo, hhi⟩ := clip_rateMax_bounds rate
  have hregs := setRate_regs s rate e
  refine ⟨p, ps, hpairs, heff, hrate ▸ hlo, hrate ▸ hhi, fun hin => ?inside, fun hout => ?beyond⟩
  case inside =>
    have hkept := (clip_rateMax_eq_iff rate).2 hin
    exact ⟨hrate.trans hkept, by rw [hregs, if_pos hkept]⟩
  case beyond =>
    have hclip : ¬ clipInt (-rateMax) rateMax rate = rate := by rw [clip_rateMax_eq_iff]; omega
    rw [if_neg hclip] at hregs
    rw [fb_congr hregs]
    exact raise_fb s Fd.TU_EVT_SERVO_LIMIT hs.1 (by decide) rfl (by decide)

end Sys2Proof.Machine
end

section
/-! SUPPORT. Addresses at which no register of the map stands: what they read, and that a write there is lost (R420). -/

namespace Sys2Proof.Machine

open Sys2Proof

/-! The ranges of the blocks -/

/-- A register family lies, from its first register to its last, clear of the unmapped ranges and below the end of the
Larder (R419, R420). -/
def RegDesc.withinBlocks (r : RegDesc) : Bool :=
  let last := r.base + reach r.dims
  decide (last < 0x128000) || decide (0x130000 ≤ r.base ∧ last < 0x150000) || decide (0x200000 ≤ r.base ∧ last < 0x1800000)

theorem regTable_withinBlocks : ∀ r ∈ regTable, r.withinBlocks = true := by decide +kernel

section
variable {a : Nat} (ha : 0x128000 ≤ a ∧ a < 0x130000 ∨ 0x150000 ≤ a ∧ a < 0x200000 ∨ 0x1800000 ≤ a)
include ha

/-- A register family that keeps within the blocks has no register outside their ranges. -/
theorem RegDesc.indices_outside {r : RegDesc} (hr : r.withinBlocks = true) : r.indices a = none := by
  cases hi : r.indices a with
  | none => rfl
  | some ix =>
    obtain ⟨hlo, hhi⟩ := RegDesc.in_reach hi
    simp only [RegDesc.withinBlocks, Bool.or_eq_true, decide_eq_true_eq] at hr
    omega

/-- No register stands outside the ranges of the blocks (R420). -/
theorem regAt_outside : regAt a = none :=
  findReg_none fun r hr => RegDesc.indices_outside ha (regTable_withinBlocks r hr)

/-- No link between dies lies before an address outside the ranges of the blocks (R23). -/
theorem reaches_outside (s : State) : s.reaches a = true := by
  unfold State.reaches
  rw [if_neg (by omega), if_neg (by omega)]

end

/-! Accesses where neither a register nor a table stands: the tables are those of the frame pipelines and of MSI-X -/

section
variable {a : Nat} (hreg : regAt a = none) (htab : a < 0xF0000 ∨ 0xF8000 ≤ a ∧ a < 0x420000 ∨ 0xD80000 ≤ a)
include hreg

/-- Where no register stands, no sealed one does. -/
theorem lockedAt_of_regAt_none (s : State) : s.lockedAt a = false := by
  simp [State.lockedAt, hreg]

/-- A read where no register stands changes nothing: there is nothing to capture or to clear. -/
theorem readReg_of_regAt_none (s : State) (p : Party) (snap : Bool) (hreach : s.reaches a = true) :
    s.readReg p snap a = (s.busWord p a, s) := by
  simp [State.readReg, hreach, hreg]

include htab

theorem busWord_unmapped (s : State) (p : Party) : s.busWord p a = 0 := by
  have hfp : ¬ (0x420000 ≤ a ∧ a < 0xD80000) := by omega
  have hmsix : ¬ (0xF0000 ≤ a ∧ a < 0xF8000) := by omega
  simp [State.busWord, hreg, hfp, hmsix]

theorem readReg_unmapped (s : State) (p : Party) (snap : Bool) (hreach : s.reaches a = true) :
    s.readReg p snap a = (0, s) := by
  rw [readReg_of_regAt_none hreg s p snap hreach, busWord_unmapped hreg htab]

/-- A write is lost there, whether or not the links to the die are up. -/
theorem writeReg_unmapped (s : State) (p : Party) (en v : BitVec 32) : s.writeReg p a en v = s := by
  have hfp : ¬ (0x420000 ≤ a ∧ a < 0xD80000) := by omega
  have hmsix : ¬ (0xF0000 ≤ a ∧ a < 0xF8000) := by omega
  simp [State.writeReg, hreg, hfp, hmsix]

end

/-! Requests for one word -/

theorem beBytes_zero : beBytes 4 0 = [0, 0, 0, 0] := by decide

/-- A request for one word is answered with STATUS OK and the word that a snapshot read returns (R316). -/
theorem regOp_read_word (s : State) (p : Party) {r : Request} (hop : r.op = 9) (hlen : r.rlen = 4) :
    s.regOp p r = (0, beBytes 4 (s.readReg p true r.addr).1.toNat, (s.readReg p true r.addr).2) := by
  simp [State.regOp, State.snapshot, hop, hlen]

/-- A request that writes one word writes it at its address, with STATUS LOCKED where a sealed register stands there. -/
theorem regOp_write_word (s : State) (p : Party) {r : Request} (hop : r.op = 10) (hlen : r.wdata.length = 4) :
    s.regOp p r = (if s.lockedAt r.addr then 11 else 0, [],
      s.writeReg p r.addr (BitVec.allOnes 32) (BitVec.ofNat 32 (beAt r.wdata 0 4))) := by
  simp [State.regOp, State.writeWords, netWords, hop, hlen]

/-- Settles O46: the map has no register outside the blocks, and an access where neither a register nor a table stands
falls through every case of a read and of a write. -/
theorem unmappedAccess : Obligations.UnmappedAccess := by
  unfold Obligations.UnmappedAccess
  refine ⟨fun a ha => ⟨regAt_outside ha, fun s => reaches_outside ha s⟩, fun p a s hreg htab =>
    ⟨fun hreach snap => readReg_unmapped hreg htab s p snap hreach, fun en v => writeReg_unmapped hreg htab s p en v,
      ?read, ?write⟩⟩
  case read =>
    rintro r rfl hop hlen hreach
    rw [regOp_read_word s p hop hlen, readReg_unmapped hreg htab s p true hreach]
    simp [beBytes_zero]
  case write =>
    rintro r rfl hop hlen
    rw [regOp_write_word s p hop hlen, writeReg_unmapped hreg htab, lockedAt_of_regAt_none hreg]
    rfl

end Sys2Proof.Machine
end

section
/-! SUPPORT. Every command answers a next state that keeps the queue, the time and the order of the stores (R74, R376 to
R378, R414). -/

namespace Sys2Proof.Machine

open Sys2Proof

/-- No time passes to raw count 0. -/
theorem State.clock_zero (s : State) : s.clock 0 = s := by
  simp only [State.clock, Nat.max_zero, Nat.zero_sub, Nat.add_zero]

/-- A command that takes no instant runs at the present one. -/
theorem answers_of_now {s : State} {o : Out} (h : Answers s o) : ∃ n, Answers (s.clock n) o := ⟨0, by rwa [s.clock_zero]⟩

/-- A command moves the clock to its instant, and all that follows keeps the queue, the clock and the stores. -/
theorem exec_answers (c : Instr) (s : State) : ∃ n, Answers (s.clock n) (exec c s) :=
  match c with
  | .powerOnReset t => ⟨_, execPowerOnReset_answers t s⟩
  | .rstNLow t => ⟨_, execRstNLow_answers t s⟩
  | .hostWarmReset t party bootMode pairSide => ⟨_, execHostWarmReset_answers t party bootMode pairSide s⟩
  | .perBlockReset t party block => ⟨_, execPerBlockReset_answers t party block s⟩
  | .consistCommandedReset t bootMode pairSide => ⟨_, execConsistCommandedReset_answers t bootMode pairSide s⟩
  | .cellarReset t cal => ⟨_, execCellarReset_answers t cal s⟩
  | .portGroupCalibrationDone t group lat => ⟨_, execPortGroupCalibrationDone_answers t group lat s⟩
  | .readyRise t partner => ⟨_, execReadyRise_answers t partner s⟩
  | .registerWrite t party addr value enables => ⟨_, execRegisterWrite_answers t party addr value enables s⟩
  | .rcRead t party addr => ⟨_, execRcRead_answers t party addr s⟩
  | .lowWordCapture t party addr => ⟨_, execLowWordCapture_answers t party addr s⟩
  | .linkTransferReceived t field seq data => ⟨_, execLinkTransferReceived_answers t field seq data s⟩
  | .refreshFrameSend t => ⟨_, execRefreshFrameSend_answers t s⟩
  | .commandFrameReceived t die crcOk => ⟨_, execCommandFrameReceived_answers t die crcOk s⟩
  | .latchSymbol t die => ⟨_, execLatchSymbol_answers t die s⟩
  | .watchdogExpiry t die => ⟨_, execWatchdogExpiry_answers t die s⟩
  | .powerDiePowerUp t die => ⟨_, execPowerDiePowerUp_answers t die s⟩
  | .tickInstant t => ⟨_, execTickInstant_answers t s⟩
  | .imageAssemblyClose t => ⟨_, execImageAssemblyClose_answers t s⟩
  | .taskStart t => ⟨_, execTaskStart_answers t s⟩
  | .mov vc => answers_of_now (execMov_answers vc s)
  | .add vc => answers_of_now (execAdd_answers vc s)
  | .sub vc => answers_of_now (execSub_answers vc s)
  | .andOp vc => answers_of_now (execAndOp_answers vc s)
  | .orOp vc => answers_of_now (execOrOp_answers vc s)
  | .xorOp vc => answers_of_now (execXorOp_answers vc s)
  | .shl vc => answers_of_now (execShl_answers vc s)
  | .shr vc => answers_of_now (execShr_answers vc s)
  | .cmp vc => answers_of_now (execCmp_answers vc s)
  | .sel vc => answers_of_now (execSel_answers vc s)
  | .satadd vc => answers_of_now (execSatadd_answers vc s)
  | .mul vc => answers_of_now (execMul_answers vc s)
  | .div vc => answers_of_now (execDiv_answers vc s)
  | .rem vc => answers_of_now (execRem_answers vc s)
  | .ld vc => answers_of_now (execLd_answers vc s)
  | .st vc => answers_of_now (execSt_answers vc s)
  | .tld vc => answers_of_now (execTld_answers vc s)
  | .tsub vc => answers_of_now (execTsub_answers vc s)
  | .tcmp vc => answers_of_now (execTcmp_answers vc s)
  | .brf vc => answers_of_now (execBrf_answers vc s)
  | .loopOp vc => answers_of_now (execLoopOp_answers vc s)
  | .emitOp vc => answers_of_now (execEmitOp_answers vc s)
  | .endOp vc => answers_of_now (execEndOp_answers vc s)
  | .invalidInstruction vc => answers_of_now (execInvalidInstruction_answers vc s)
  | .taskWcet t vc => ⟨_, execTaskWcet_answers t vc s⟩
  | .taskDeadline t => ⟨_, execTaskDeadline_answers t s⟩
  | .tickEngineHalt t => ⟨_, execTickEngineHalt_answers t s⟩
  | .vote t => ⟨_, execVote_answers t s⟩
  | .vcRejoin t vc => ⟨_, execVcRejoin_answers t vc s⟩
  | .vcSelfTest test => ⟨_, execVcSelfTest_answers test s⟩
  | .tickLost t => ⟨_, execTickLost_answers t s⟩
  | .stagingClose t => ⟨_, execStagingClose_answers t s⟩
  | .exportSend t frame => ⟨_, execExportSend_answers t frame s⟩
  | .imageFrameReceived t queue ecc => ⟨_, execImageFrameReceived_answers t queue ecc s⟩
  | .windowStart t seg entry => ⟨_, execWindowStart_answers t seg entry s⟩
  | .windowStop t seg entry => ⟨_, execWindowStop_answers t seg entry s⟩
  | .gngTblData2Write t party value => ⟨_, execGngTblData2Write_answers t party value s⟩
  | .gngOpenWrite t party entry open_ => ⟨_, execGngOpenWrite_answers t party entry open_ s⟩
  | .ginghamSelfTestDone t ok => ⟨_, execGinghamSelfTestDone_answers t ok s⟩
  | .syncReceived t port ingress msg => ⟨_, execSyncReceived_answers t port ingress msg s⟩
  | .syncSend t => ⟨_, execSyncSend_answers t s⟩
  | .ptpEventForward t inPort outPort ingress egress p2p transport corr => ⟨_, execPtpEventForward_answers t inPort outPort ingress egress p2p transport corr s⟩
  | .pdelayRequest t port => ⟨_, execPdelayRequest_answers t port s⟩
  | .pdelayMessageReceived t port msg => ⟨_, execPdelayMessageReceived_answers t port msg s⟩
  | .servoPairChange t est eff => ⟨_, execServoPairChange_answers t est eff s⟩
  | .todSet t party => ⟨_, execTodSet_answers t party s⟩
  | .tuNowCapture t party => ⟨_, execTuNowCapture_answers t party s⟩
  | .tuOfsCapture t party => ⟨_, execTuOfsCapture_answers t party s⟩
  | .tuRateCapture t party => ⟨_, execTuRateCapture_answers t party s⟩
  | .holdover t => ⟨_, execHoldover_answers t s⟩
  | .masterChg t => ⟨_, execMasterChg_answers t s⟩
  | .syntonLoss t => ⟨_, execSyntonLoss_answers t s⟩
  | .ppsInEdge t falling est => ⟨_, execPpsInEdge_answers t falling est s⟩
  | .ppsMiss t => ⟨_, execPpsMiss_answers t s⟩
  | .ppsOutEdge t => ⟨_, execPpsOutEdge_answers t s⟩
  | .tickOutEdge t => ⟨_, execTickOutEdge_answers t s⟩
  | .signalDetected t port => ⟨_, execSignalDetected_answers t port s⟩
  | .trainingDone t port => ⟨_, execTrainingDone_answers t port s⟩
  | .trainTimeout t port => ⟨_, execTrainTimeout_answers t port s⟩
  | .lockAchieved t port => ⟨_, execLockAchieved_answers t port s⟩
  | .lockTimeout t port => ⟨_, execLockTimeout_answers t port s⟩
  | .holdExpiry t port => ⟨_, execHoldExpiry_answers t port s⟩
  | .portDown t port localFault => ⟨_, execPortDown_answers t port localFault s⟩
  | .remoteFaultStart t port => ⟨_, execRemoteFaultStart_answers t port s⟩
  | .remoteFaultEnd t port => ⟨_, execRemoteFaultEnd_answers t port s⟩
  | .sdWindowEnd t port => ⟨_, execSdWindowEnd_answers t port s⟩
  | .codewordReceived t lane corrected uncorrectable => ⟨_, execCodewordReceived_answers t lane corrected uncorrectable s⟩
  | .burstEnd t group => ⟨_, execBurstEnd_answers t group s⟩
  | .laneTestWrite t party group lane value => ⟨_, execLaneTestWrite_answers t party group lane value s⟩
  | .moduleFound t group slot apps => ⟨_, execModuleFound_answers t group slot apps s⟩
  | .modulePoll t group slot alarm states temp => ⟨_, execModulePoll_answers t group slot alarm states temp s⟩
  | .moduleRemoved t group slot => ⟨_, execModuleRemoved_answers t group slot s⟩
  | .frameHeaderReceived t port vc stamp frame => ⟨_, execFrameHeaderReceived_answers t port vc stamp frame s⟩
  | .frameEndReceived t port codewordsOk reassembled => ⟨_, execFrameEndReceived_answers t port codewordsOk reassembled s⟩
  | .ageExpiry t entry => ⟨_, execAgeExpiry_answers t entry s⟩
  | .egressDecision t port ecc => ⟨_, execEgressDecision_answers t port ecc s⟩
  | .frameTxComplete t port => ⟨_, execFrameTxComplete_answers t port s⟩
  | .preemptVerify t port ok => ⟨_, execPreemptVerify_answers t port ok s⟩
  | .recoveryHeldTimeout t fn => ⟨_, execRecoveryHeldTimeout_answers t fn s⟩
  | .recoveryIdleTimeout t fn => ⟨_, execRecoveryIdleTimeout_answers t fn s⟩
  | .dropRemainder t queue => ⟨_, execDropRemainder_answers t queue s⟩
  | .queueStale t queue => ⟨_, execQueueStale_answers t queue s⟩
  | .leaseExpiry t res => ⟨_, execLeaseExpiry_answers t res s⟩
  | .scrubWord t ecc => ⟨_, execScrubWord_answers t ecc s⟩
  | .spareRotation t => ⟨_, execSpareRotation_answers t s⟩
  | .spareCopyDone t => ⟨_, execSpareCopyDone_answers t s⟩
  | .spareTestDone t ok => ⟨_, execSpareTestDone_answers t ok s⟩
  | .bankRetired t bank => ⟨_, execBankRetired_answers t bank s⟩
  | .grantReceived t port windowAt payload => ⟨_, execGrantReceived_answers t port windowAt payload s⟩
  | .helloReceived t port payload => ⟨_, execHelloReceived_answers t port payload s⟩
  | .helloLost t side => ⟨_, execHelloLost_answers t side s⟩
  | .callReceived t port payload => ⟨_, execCallReceived_answers t port payload s⟩
  | .reqReceived t port payload => ⟨_, execReqReceived_answers t port payload s⟩
  | .echoReceived t port payload => ⟨_, execEchoReceived_answers t port payload s⟩
  | .commitReceived t port payload => ⟨_, execCommitReceived_answers t port payload s⟩
  | .commitInstant t => ⟨_, execCommitInstant_answers t s⟩
  | .identReceived t port payload => ⟨_, execIdentReceived_answers t port payload s⟩
  | .resetFrameReceived t port payload => ⟨_, execResetFrameReceived_answers t port payload s⟩
  | .headWaitExpiry t => ⟨_, execHeadWaitExpiry_answers t s⟩
  | .roundFail t => ⟨_, execRoundFail_answers t s⟩
  | .censusTimeout t => ⟨_, execCensusTimeout_answers t s⟩
  | .cstInaug t party => ⟨_, execCstInaug_answers t party s⟩
  | .cstReset t party => ⟨_, execCstReset_answers t party s⟩
  | .dutyTimeout t => ⟨_, execDutyTimeout_answers t s⟩
  | .mirrorReceived t payload => ⟨_, execMirrorReceived_answers t payload s⟩
  | .ackReceived t payload => ⟨_, execAckReceived_answers t payload s⟩
  | .nackReceived t payload => ⟨_, execNackReceived_answers t payload s⟩
  | .withdrawReceived t payload => ⟨_, execWithdrawReceived_answers t payload s⟩
  | .acceptanceDeadline t => ⟨_, execAcceptanceDeadline_answers t s⟩
  | .stateReceived t payload => ⟨_, execStateReceived_answers t payload s⟩
  | .tickEndReceived t payload => ⟨_, execTickEndReceived_answers t payload s⟩
  | .healthReceived t side payload => ⟨_, execHealthReceived_answers t side payload s⟩
  | .relinquishReceived t payload => ⟨_, execRelinquishReceived_answers t payload s⟩
  | .partnerLost t => ⟨_, execPartnerLost_answers t s⟩
  | .takeover t => ⟨_, execTakeover_answers t s⟩
  | .fenceTimeout t => ⟨_, execFenceTimeout_answers t s⟩
  | .fabricLinkDownFence t => ⟨_, execFabricLinkDownFence_answers t s⟩
  | .resyncReceived t payload => ⟨_, execResyncReceived_answers t payload s⟩
  | .revertHoldExpiry t => ⟨_, execRevertHoldExpiry_answers t s⟩
  | .asdHandover t party => ⟨_, execAsdHandover_answers t party s⟩
  | .handoverReceived t payload => ⟨_, execHandoverReceived_answers t payload s⟩
  | .handoverInstant t => ⟨_, execHandoverInstant_answers t s⟩
  | .fetchReceived t payload => ⟨_, execFetchReceived_answers t payload s⟩
  | .fetchDataReceived t payload => ⟨_, execFetchDataReceived_answers t payload s⟩
  | .logReceived t payload => ⟨_, execLogReceived_answers t payload s⟩
  | .uartCharacterReceived t channel start idle samples => ⟨_, execUartCharacterReceived_answers t channel start idle samples s⟩
  | .sentenceTimeout t talker => ⟨_, execSentenceTimeout_answers t talker s⟩
  | .udpSentenceFrame rd => ⟨_, execUdpSentenceFrame_answers rd s⟩
  | .sentenceProcess t => ⟨_, execSentenceProcess_answers t s⟩
  | .uartListenerSend rd listener => ⟨_, execUartListenerSend_answers rd listener s⟩
  | .udpListenerSend rd listener => ⟨_, execUdpListenerSend_answers rd listener s⟩
  | .senTblData7Write t party value => ⟨_, execSenTblData7Write_answers t party value s⟩
  | .canMessageReceived t channel sof frame => ⟨_, execCanMessageReceived_answers t channel sof frame s⟩
  | .canTxOffer t channel => ⟨_, execCanTxOffer_answers t channel s⟩
  | .canTxDone t channel sof tdcv => ⟨_, execCanTxDone_answers t channel sof tdcv s⟩
  | .arbLost t channel sof => ⟨_, execArbLost_answers t channel sof s⟩
  | .canBusError t channel error sof delay => ⟨_, execCanBusError_answers t channel error sof delay s⟩
  | .integrationDone t channel => ⟨_, execIntegrationDone_answers t channel s⟩
  | .busOn t channel => ⟨_, execBusOn_answers t channel s⟩
  | .fbRecover t party channel => ⟨_, execFbRecover_answers t party channel s⟩
  | .fbHpReq t party channel => ⟨_, execFbHpReq_answers t party channel s⟩
  | .fbHpCancel t party channel => ⟨_, execFbHpCancel_answers t party channel s⟩
  | .fbTxRequest t party channel buf => ⟨_, execFbTxRequest_answers t party channel buf s⟩
  | .fbTxCancel t party channel buf => ⟨_, execFbTxCancel_answers t party channel buf s⟩
  | .fbMbselWrite t party channel value => ⟨_, execFbMbselWrite_answers t party channel value s⟩
  | .lockTmo t channel => ⟨_, execLockTmo_answers t channel s⟩
  | .fbMbwinWrite t party channel word value => ⟨_, execFbMbwinWrite_answers t party channel word value s⟩
  | .ardDwellExpiry t channel => ⟨_, execArdDwellExpiry_answers t channel s⟩
  | .txdTmo t channel recessive since => ⟨_, execTxdTmo_answers t channel recessive since s⟩
  | .wakePattern t channel => ⟨_, execWakePattern_answers t channel s⟩
  | .selectiveWakeFrame t channel good frame => ⟨_, execSelectiveWakeFrame_answers t channel good frame s⟩
  | .uaDataRead t party channel => ⟨_, execUaDataRead_answers t party channel s⟩
  | .uaDataWrite t party channel value => ⟨_, execUaDataWrite_answers t party channel value s⟩
  | .uaStatRead t party channel => ⟨_, execUaStatRead_answers t party channel s⟩
  | .uaFlagclrWrite t party channel value => ⟨_, execUaFlagclrWrite_answers t party channel value s⟩
  | .uaBreak t party channel value => ⟨_, execUaBreak_answers t party channel value s⟩
  | .uartCharacterSent t channel => ⟨_, execUartCharacterSent_answers t channel s⟩
  | .bridgeRequestTake rd => ⟨_, execBridgeRequestTake_answers rd s⟩
  | .bridgeRead t bus => ⟨_, execBridgeRead_answers t bus s⟩
  | .bridgeWrite t bus => ⟨_, execBridgeWrite_answers t bus s⟩
  | .writeRead t bus => ⟨_, execWriteRead_answers t bus s⟩
  | .bridgeLock t bus => ⟨_, execBridgeLock_answers t bus s⟩
  | .bridgeUnlock t bus => ⟨_, execBridgeUnlock_answers t bus s⟩
  | .semAcq t => ⟨_, execSemAcq_answers t s⟩
  | .semRel t => ⟨_, execSemRel_answers t s⟩
  | .semRenew t => ⟨_, execSemRenew_answers t s⟩
  | .regRead t => ⟨_, execRegRead_answers t s⟩
  | .regWrite t => ⟨_, execRegWrite_answers t s⟩
  | .bridgeTransactionDone t bus result => ⟨_, execBridgeTransactionDone_answers t bus result s⟩
  | .bridgeTimeout t bus => ⟨_, execBridgeTimeout_answers t bus s⟩
  | .stretchTimeout t bus held => ⟨_, execStretchTimeout_answers t bus held s⟩
  | .lockWaitExpiry t bus => ⟨_, execLockWaitExpiry_answers t bus s⟩
  | .busStuck t bus sda since => ⟨_, execBusStuck_answers t bus sda since s⟩
  | .busRecovered t bus => ⟨_, execBusRecovered_answers t bus s⟩
  | .pollInterval t poll => ⟨_, execPollInterval_answers t poll s⟩
  | .sideBandLine t bus low since => ⟨_, execSideBandLine_answers t bus low since s⟩
  | .pulseEdge t ls on => ⟨_, execPulseEdge_answers t ls on s⟩
  | .pwmPeriodStart t ls => ⟨_, execPwmPeriodStart_answers t ls s⟩
  | .blankingEnd t ls low => ⟨_, execBlankingEnd_answers t ls low s⟩
  | .short t ls since => ⟨_, execShort_answers t ls since s⟩
  | .retryIntervalExpiry t ls temp => ⟨_, execRetryIntervalExpiry_answers t ls temp s⟩
  | .thermal t ls low => ⟨_, execThermal_answers t ls low s⟩
  | .thermalRestart t ls => ⟨_, execThermalRestart_answers t ls s⟩
  | .groupOc t die which => ⟨_, execGroupOc_answers t die which s⟩
  | .vlsUv t group lost => ⟨_, execVlsUv_answers t group lost s⟩
  | .vlsRestore t group => ⟨_, execVlsRestore_answers t group s⟩
  | .loadReading t ls acq current vout temp => ⟨_, execLoadReading_answers t ls acq current vout temp s⟩
  | .lsClear t party ls => ⟨_, execLsClear_answers t party ls s⟩
  | .einTransition t ein level => ⟨_, execEinTransition_answers t ein level s⟩
  | .einConfirm t ein => ⟨_, execEinConfirm_answers t ein s⟩
  | .weighingStart t lc sample => ⟨_, execWeighingStart_answers t lc sample s⟩
  | .settleEnd t lc => ⟨_, execSettleEnd_answers t lc s⟩
  | .weighWindowEnd t lc sum lo hi least most causes cal => ⟨_, execWeighWindowEnd_answers t lc sum lo hi least most causes cal s⟩
  | .loadClear t lc sample => ⟨_, execLoadClear_answers t lc sample s⟩
  | .zeroTracking t lc sum lo hi cal => ⟨_, execZeroTracking_answers t lc sum lo hi cal s⟩
  | .referenceCheck t lc result cal => ⟨_, execReferenceCheck_answers t lc result cal s⟩
  | .recordSend t => ⟨_, execRecordSend_answers t s⟩
  | .beacon t => ⟨_, execBeacon_answers t s⟩
  | .livePeriod t lc sample centre cal => ⟨_, execLivePeriod_answers t lc sample centre cal s⟩
  | .cellarRecordReceived t start crcOk => ⟨_, execCellarRecordReceived_answers t start crcOk s⟩
  | .celZero t crcOk sum lo hi cal => ⟨_, execCelZero_answers t crcOk sum lo hi cal s⟩
  | .celLive t crcOk cal => ⟨_, execCelLive_answers t crcOk cal s⟩
  | .celReplay t crcOk cal => ⟨_, execCelReplay_answers t crcOk cal s⟩
  | .celKeyReq t crcOk cal => ⟨_, execCelKeyReq_answers t crcOk cal s⟩
  | .celRefCheck t crcOk cal => ⟨_, execCelRefCheck_answers t crcOk cal s⟩
  | .calZero t crcOk sum lo hi cal => ⟨_, execCalZero_answers t crcOk sum lo hi cal s⟩
  | .calSpan t crcOk sum lo hi cal => ⟨_, execCalSpan_answers t crcOk sum lo hi cal s⟩
  | .setParam t crcOk cal => ⟨_, execSetParam_answers t crcOk cal s⟩
  | .celCommit t crcOk cal => ⟨_, execCelCommit_answers t crcOk cal s⟩
  | .celDiscard t crcOk cal => ⟨_, execCelDiscard_answers t crcOk cal s⟩
  | .calChange t cal => ⟨_, execCalChange_answers t cal s⟩
  | .calEnFall t => ⟨_, execCalEnFall_answers t s⟩
  | .celCmdTimeout t => ⟨_, execCelCmdTimeout_answers t s⟩
  | .cfgUpdStart t party package stageS => ⟨_, execCfgUpdStart_answers t party package stageS s⟩
  | .cfgUpdData t party value => ⟨_, execCfgUpdData_answers t party value s⟩
  | .cfgUpdCommit t party package stageS => ⟨_, execCfgUpdCommit_answers t party package stageS s⟩
  | .cfgUpdAbort t party package stageS => ⟨_, execCfgUpdAbort_answers t party package stageS s⟩
  | .swap t party at_ => ⟨_, execSwap_answers t party at_ s⟩
  | .stagedSwap t party at_ => ⟨_, execStagedSwap_answers t party at_ s⟩
  | .swapRevert t party at_ => ⟨_, execSwapRevert_answers t party at_ s⟩
  | .swapCancel t party => ⟨_, execSwapCancel_answers t party s⟩
  | .swapCheckDone t => ⟨_, execSwapCheckDone_answers t s⟩
  | .swapDone t => ⟨_, execSwapDone_answers t s⟩
  | .stageGroupDone t => ⟨_, execStageGroupDone_answers t s⟩
  | .stageTmo t => ⟨_, execStageTmo_answers t s⟩
  | .cfgShrDataWrite t party value => ⟨_, execCfgShrDataWrite_answers t party value s⟩
  | .atcStore t party slot => ⟨_, execAtcStore_answers t party slot s⟩
  | .atcRead t party slot => ⟨_, execAtcRead_answers t party slot s⟩
  | .storeDone t verified => ⟨_, execStoreDone_answers t verified s⟩
  | .wearMove t => ⟨_, execWearMove_answers t s⟩
  | .logPageStore t => ⟨_, execLogPageStore_answers t s⟩
  | .logFailClear t party => ⟨_, execLogFailClear_answers t party s⟩
  | .evtReadCapture t party => ⟨_, execEvtReadCapture_answers t party s⟩
  | .trcReadCapture t party => ⟨_, execTrcReadCapture_answers t party s⟩
  | .porListen t party => ⟨_, execPorListen_answers t party s⟩
  | .porStandby t party => ⟨_, execPorStandby_answers t party s⟩
  | .porSleep t party => ⟨_, execPorSleep_answers t party s⟩
  | .porStay t party => ⟨_, execPorStay_answers t party s⟩
  | .stateEntry t => ⟨_, execStateEntry_answers t s⟩
  | .wakeInLevel t level => ⟨_, execWakeInLevel_answers t level s⟩
  | .lwakeHigh t => ⟨_, execLwakeHigh_answers t s⟩
  | .wakeTimer t => ⟨_, execWakeTimer_answers t s⟩
  | .falseWake t => ⟨_, execFalseWake_answers t s⟩
  | .awakeLimit t => ⟨_, execAwakeLimit_answers t s⟩
  | .maskCycleEnd t => ⟨_, execMaskCycleEnd_answers t s⟩
  | .holdupStart t => ⟨_, execHoldupStart_answers t s⟩
  | .holdupEnd t => ⟨_, execHoldupEnd_answers t s⟩
  | .vkaResetLevel t => ⟨_, execVkaResetLevel_answers t s⟩
  | .vmonLow t => ⟨_, execVmonLow_answers t s⟩
  | .vmonAction t => ⟨_, execVmonAction_answers t s⟩
  | .vmonUp t => ⟨_, execVmonUp_answers t s⟩
  | .avsUpdate t target waits => ⟨_, execAvsUpdate_answers t target waits s⟩
  | .avsGood t vout => ⟨_, execAvsGood_answers t vout s⟩
  | .avsFault t pmbus => ⟨_, execAvsFault_answers t pmbus s⟩
  | .inhStep t => ⟨_, execInhStep_answers t s⟩
  | .railTimeout t mask => ⟨_, execRailTimeout_answers t mask s⟩
  | .railRetry t => ⟨_, execRailRetry_answers t s⟩
  | .railFault t mask => ⟨_, execRailFault_answers t mask s⟩
  | .thermalWarning t => ⟨_, execThermalWarning_answers t s⟩
  | .thermalReset t => ⟨_, execThermalReset_answers t s⟩
  | .tailWrite t queue tail descs => ⟨_, execTailWrite_answers t queue tail descs s⟩
  | .headRead t queue => ⟨_, execHeadRead_answers t queue s⟩
  | .ringEnable t queue lo hi cfg => ⟨_, execRingEnable_answers t queue lo hi cfg s⟩
  | .descriptorComplete rd queue => ⟨_, execDescriptorComplete_answers rd queue s⟩
  | .usbRegRead t addr len => ⟨_, execUsbRegRead_answers t addr len s⟩
  | .usbRegWrite t addr data => ⟨_, execUsbRegWrite_answers t addr data s⟩
  | .imgStart t target len => ⟨_, execImgStart_answers t target len s⟩
  | .imgCommit t len => ⟨_, execImgCommit_answers t len s⟩
  | .imgAbort t len => ⟨_, execImgAbort_answers t len s⟩
  | .usbStatus t len => ⟨_, execUsbStatus_answers t len s⟩
  | .ep1Data t data => ⟨_, execEp1Data_answers t data s⟩
  | .usbBusReset t => ⟨_, execUsbBusReset_answers t s⟩
  | .arpRequest t mac sender target => ⟨_, execArpRequest_answers t mac sender target s⟩
  | .icmpEcho t src dst ident seq data => ⟨_, execIcmpEcho_answers t src dst ident seq data s⟩
  | .mgtRegisterRequest t src dst payload => ⟨_, execMgtRegisterRequest_answers t src dst payload s⟩
  | .bypass t tdi => ⟨_, execBypass_answers t tdi s⟩
  | .idcode t => ⟨_, execIdcode_answers t s⟩
  | .samplePreload t levels tdi => ⟨_, execSamplePreload_answers t levels tdi s⟩
  | .extest t levels tdi => ⟨_, execExtest_answers t levels tdi s⟩
  | .extestPulse t levels tdi => ⟨_, execExtestPulse_answers t levels tdi s⟩
  | .extestTrain t levels tdi => ⟨_, execExtestTrain_answers t levels tdi s⟩
  | .clamp t tdi => ⟨_, execClamp_answers t tdi s⟩
  | .highz t tdi => ⟨_, execHighz_answers t tdi s⟩
  | .resetRelease t bootMode pairSide => ⟨_, execResetRelease_answers t bootMode pairSide s⟩
  | .holdBreak t port => ⟨_, execHoldBreak_answers t port s⟩
  | .stateReached t => ⟨_, execStateReached_answers t s⟩
  | .absent t => ⟨_, execAbsent_answers t s⟩
  | .referenceCheckResume t lc => ⟨_, execReferenceCheckResume_answers t lc s⟩
  | .gableMacRetry t lane ok => ⟨_, execGableMacRetry_answers t lane ok s⟩
  | .belowRetentionLimit t => ⟨_, execBelowRetentionLimit_answers t s⟩

/-- Time that passes keeps the stores as they are. -/
theorem State.sound_clock {s : State} (h : s.Sound) (n : Nat) : (s.clock n).Sound := by
  obtain ⟨hraw, hstored⟩ := h
  refine ⟨?_, hstored⟩
  simp only [State.clock]
  omega

/-- What Kept says of the time and the stores is enough for a state to stay sound. -/
theorem Kept.sound {s t : State} (h : Kept s t) (hs : s.Sound) : t.Sound := by
  obtain ⟨-, hwall, hraw, hstored⟩ := h
  obtain ⟨hle, hs⟩ := hs
  refine ⟨?_, hstored hs⟩
  rcases hraw with hraw | hraw <;> omega

/-- Settles O42: the step's own case of a queue with a front. -/
theorem stepRunsFront : Obligations.StepRunsFront := by
  unfold Obligations.StepRunsFront
  intro c cs s hs
  simp only [step, hs]

/-- Settles O43: the clock moves on to the next raw count. -/
theorem idleTick : Obligations.IdleTick := by
  unfold Obligations.IdleTick
  intro s hs
  simp [step, hs, State.idle, State.clock]

/-- Settles O59: every command answers a next state, and keeps the queue that it finds. -/
theorem queueOrder : Obligations.QueueOrder := by
  unfold Obligations.QueueOrder
  intro s c cs hs
  obtain ⟨n, t, ht, hqueue, -⟩ := exec_answers c { s with pending := cs }
  exact ⟨t, (stepRunsFront c cs s hs).trans ht, hqueue⟩

/-- Settles O60: a step is the passing of time and then what a command keeps. -/
theorem stepKeepsSound : Obligations.StepKeepsSound := by
  unfold Obligations.StepKeepsSound
  intro s t hs hstep
  cases hp : s.pending with
  | nil =>
    obtain rfl : s.idle = t := by simpa [step, hp] using hstep
    exact State.sound_clock hs _
  | cons c cs =>
    rw [stepRunsFront c cs s hp] at hstep
    obtain ⟨n, u, hu, hkept⟩ := exec_answers c { s with pending := cs }
    obtain rfl : u = t := by simpa [hu] using hstep
    have hs' : ({ s with pending := cs } : State).Sound := hs
    exact hkept.sound (State.sound_clock hs' n)

end Sys2Proof.Machine
end

section
/-! SUPPORT. The access types of the map's fields, bit by bit (R11, R13). -/

namespace Sys2Proof.Machine

open Sys2Proof

/-- The access types of which a write stores the bits (R13). -/
abbrev Acc.stores (isSealed : Bool) (a : Acc) : Prop := a = .rw ∨ a = .rws ∨ (a = .rwl ∧ (!isSealed) = true)

/-- Bit k of the mask of what a read shows. -/
theorem readMask_bit {r : RegDesc} (h : ∀ f ∈ r.fields, f.lo ≤ f.hi) (k : Nat) :
    (readMask r).testBit k = r.fields.any (fun f => decide (f.acc ≠ .wo) && decide (f.lo ≤ k ∧ k ≤ f.hi)) := by
  rw [readMask_eq, foldl_setBits_testBit _ _ h]
  simp

section
variable {r : RegDesc} (ok : fieldsOk r.fields = true)
include ok

theorem RegDesc.field_bounds : ∀ f ∈ r.fields, f.lo ≤ f.hi := fun f hf => (fieldsOk_bounds ok f hf).1

section
variable {f : FieldRow} (hf : f ∈ r.fields) {k : Nat} (hk : f.lo ≤ k ∧ k ≤ f.hi)
include hf hk

/-- A write treats a bit as the access type of its field says. -/
theorem writtenWord_field_bit (sl : Bool) (old v : BitVec 32) :
    (writtenWord r sl old v).getLsbD k =
      ((if f.acc.stores sl then v.getLsbD k else old.getLsbD k) && !(v.getLsbD k && decide (f.acc = .w1c))) := by
  have hk32 : k < 32 := by have := (fieldsOk_bounds ok f hf).2; omega
  rw [writtenWord_bit r sl old v k hk32 (RegDesc.field_bounds ok), any_field ok hf hk (fun f => f.acc.stores sl),
    any_field ok hf hk (fun f => f.acc = .w1c)]
  by_cases hst : f.acc.stores sl <;> simp [hst]

/-- A read shows every field but a WO one (R13). -/
theorem readMask_field_bit : (readMask r).testBit k = true ↔ f.acc ≠ .wo := by
  rw [readMask_bit (RegDesc.field_bounds ok), any_field ok hf hk (fun f => f.acc ≠ .wo)]
  simp

/-- A clearing read clears the RC fields (R13). -/
theorem clearRc_field_bit (old : BitVec 32) :
    (clearRc r old).getLsbD k = (old.getLsbD k && decide (f.acc ≠ .rc)) := by
  have hk32 : k < 32 := by have := (fieldsOk_bounds ok f hf).2; omega
  rw [clearRc_bit r old k hk32 (RegDesc.field_bounds ok), any_field ok hf hk (fun f => f.acc = .rc)]
  simp

end

/-- A reserved bit reads 0, and neither a write nor a clearing read changes it (R11). -/
theorem reserved_bit {k : Nat} (hk : k < 32) (hfree : ∀ f ∈ r.fields, k < f.lo ∨ f.hi < k) (sl : Bool) (old v : BitVec 32) :
    (writtenWord r sl old v).getLsbD k = old.getLsbD k ∧ (readMask r).testBit k = false ∧
      (clearRc r old).getLsbD k = old.getLsbD k := by
  have hb := RegDesc.field_bounds ok
  refine ⟨?_, ?_, ?_⟩
  · rw [writtenWord_bit r sl old v k hk hb, any_none hfree (fun f => f.acc.stores sl), any_none hfree (fun f => f.acc = .w1c)]
    simp
  · rw [readMask_bit hb, any_none hfree (fun f => f.acc ≠ .wo)]
  · rw [clearRc_bit r old k hk hb, any_none hfree (fun f => f.acc = .rc)]
    simp

end

/-- Settles O50: the fields of every register of the map lie apart, so each bit goes by its one field, or by none. -/
theorem mapAccess : Obligations.MapAccess := by
  unfold Obligations.MapAccess
  intro r sl old v k hr hk
  have ok := regTable_fields hr
  refine ⟨fun f hf hlo hhi => ?field, fun hfree => reserved_bit ok hk hfree sl old v⟩
  case field =>
    rw [writtenWord_field_bit ok hf ⟨hlo, hhi⟩ sl old v]
    refine ⟨fun h => ?kept, fun h => ?stored, fun h => ?locked, fun h => ?cleared, readMask_field_bit ok hf ⟨hlo, hhi⟩,
      clearRc_field_bit ok hf ⟨hlo, hhi⟩ old⟩
    case kept =>
      have hst : ¬ f.acc.stores sl := by rintro (h' | h' | ⟨h', -⟩) <;> simp [h'] at h
      have hw1c : f.acc ≠ .w1c := by rintro h'; simp [h'] at h
      simp [hst, hw1c]
    case stored =>
      rcases List.mem_pair.1 h with h | h <;> simp [h]
    case locked => cases sl <;> simp [h]
    case cleared =>
      simp only [h, Acc.stores]
      cases old.getLsbD k <;> cases v.getLsbD k <;> simp

end Sys2Proof.Machine
end

section
/-! SUPPORT. Words that are read and written in pairs, and the frame of a write that acts by its fields alone (R10 to R13,
R421). -/

namespace Sys2Proof.Machine

open Sys2Proof

/-! Reads of a word of a pair -/

/-- Registers whose read draws a value that the spec leaves open, or starts a capture of its own kind. -/
def specialReads : List RegDesc := [Reg.TU_NOW_FRAC, Reg.TU_OFS_FRAC, Reg.TU_RATE_LO, Reg.CFG_BIST, Reg.PGn_Ll_PRBS_ERR,
  Reg.PGn_Ll_STAT, Reg.ASD_Gg_LSTAT, Reg.HST_STAT, Reg.EVT_RD_DATAi, Reg.TRC_RD_DATAi]

/-- In the map, a base names one register. -/
theorem specialReads_is : ∀ q ∈ regTable, ∀ x ∈ specialReads, q.is x = true → q = x := by decide +kernel

theorem lowWords_special : ∀ r ∈ lowWords, ∀ x ∈ specialReads, r.is x = false := by decide +kernel

theorem is_special_false {r : RegDesc} (hr : r ∈ regTable) (hn : r ∉ specialReads) : ∀ x ∈ specialReads, r.is x = false := by
  intro x hx
  by_contra h
  exact hn (specialReads_is r hr x hx (by simpa using h) ▸ hx)

section
variable {r : RegDesc} (hr : ∀ x ∈ specialReads, r.is x = false)
include hr

theorem measure_plain (s : State) (ix : List Nat) : s.measure r ix = s := by
  simp [State.measure, hr Reg.CFG_BIST (by decide), hr Reg.PGn_Ll_PRBS_ERR (by decide), hr Reg.PGn_Ll_STAT (by decide),
    hr Reg.ASD_Gg_LSTAT (by decide), hr Reg.HST_STAT (by decide)]

/-- Such a word captures its upper word where it is a lower one, and was not itself captured. -/
theorem readCaptures_plain (s : State) (p : Party) (ix : List Nat) (a : Nat) : s.readCaptures p r ix a =
    if r.isLow ∧ (s.captured p a).isNone then s.capture p (a + 4) (s.busWord p (a + 4)) else s := by
  simp [State.readCaptures, hr Reg.TU_NOW_FRAC (by decide), hr Reg.TU_OFS_FRAC (by decide), hr Reg.TU_RATE_LO (by decide),
    hr Reg.EVT_RD_DATAi (by decide), hr Reg.TRC_RD_DATAi (by decide)]

/-- A captured word starts no capture. -/
theorem readCaptures_standing {s : State} {p : Party} {a : Nat} {v : BitVec 32} (hv : s.captured p a = some v)
    (ix : List Nat) : s.readCaptures p r ix a = s := by
  simp [readCaptures_plain hr, hv]

end

theorem isLow_of_mem {r : RegDesc} (hr : r ∈ lowWords) : r.isLow = true :=
  List.any_eq_true.2 ⟨r, hr, by simp [RegDesc.is]⟩

/-- A read of a lower word captures the upper word (R12). -/
theorem captured_readReg_upper {s : State} {p : Party} {a : Nat} {r : RegDesc} {ix : List Nat} (hs : s.Stored) (snap : Bool)
    (hreg : regAt a = some (r, ix)) (hreach : s.reaches a = true) (hr : r ∈ lowWords) (hc : s.captured p a = none) :
    (s.readReg p snap a).2.captured p (a + 4) = some (s.busWord p (a + 4)) := by
  have hplain := lowWords_special r hr
  rw [captured_readReg_ne snap hs hreach hreg (Or.inr (by omega)), measure_plain hplain, readCaptures_plain hplain,
    if_pos ⟨isLow_of_mem hr, by simp [hc]⟩, captured_capture]

/-- The next read of a captured word spends the capture (R12). -/
theorem captured_readReg_spent {s : State} {p : Party} {a : Nat} {r : RegDesc} {ix : List Nat} {v : BitVec 32} (hs : s.Stored)
    (snap : Bool) (hreg : regAt a = some (r, ix)) (hreach : s.reaches a = true) (hplain : ∀ x ∈ specialReads, r.is x = false)
    (hv : s.captured p a = some v) : (s.readReg p snap a).2.captured p a = none := by
  have hdrop := captured_drop s p a hs.2.1
  cases snap <;>
    simp [State.readReg, hreach, hreg, measure_plain hplain, readCaptures_standing hplain hv, hdrop,
      captured_cap (readClears_cap _ p r ix)]

/-! Writes of a pair -/

/-- The registers of a written pair are distinct, and no upper word is a lower one. -/
theorem writtenPairs_upper : ∀ r ∈ writtenPairs,
    writtenPairs.find? (fun q => (q.base + 4) == (r.base + 4)) = some r ∧
      writtenPairs.any (fun q => r.base + 4 == q.base) = false := by decide

theorem rd_wr_same {s : State} (hs : Tab.rising none s.regs = true) (r : RegDesc) (ix : List Nat) (v : BitVec 32) :
    (s.wr r ix v).rd r ix = v := Tab.get_set_same r.reset (r.addr ix) v hs

theorem rd_wr_ne {s : State} (hs : Tab.rising none s.regs = true) {q r : RegDesc} {ix jx : List Nat} (v : BitVec 32)
    (h : q.addr jx ≠ r.addr ix) : (s.wr r ix v).rd q jx = s.rd q jx := Tab.get_set_ne q.reset r.reset v h hs

section
variable {s : State} {p : Party} {r q : RegDesc} {ix : List Nat} {a : Nat}

/-- The lower word of a written pair waits (R12). -/
theorem plainWrite_lower (hr : r ∈ writtenPairs) (hl : s.lockedAt a = false) (lo : BitVec 32) :
    s.plainWrite p r ix a lo = { s with pairLow := Tab.set none s.pairLow (partyKey p a) (some lo) } := by
  have hany : writtenPairs.any r.is = true := List.any_eq_true.2 ⟨r, hr, by simp [RegDesc.is]⟩
  simp [State.plainWrite, hl, hany]

/-- The upper word of a written pair stores both words (R12). -/
theorem plainWrite_upper (hr : r ∈ writtenPairs) (hq : q.base = r.base + 4) (hl : s.lockedAt (a + 4) = false) {lo : BitVec 32}
    (hlo : Tab.get none s.pairLow (partyKey p a) = some lo) (hi : BitVec 32) : s.plainWrite p q ix (a + 4) hi =
      (({ s with pairLow := Tab.set none s.pairLow (partyKey p a) none } : State).wr q ix
        (writtenWord q false (s.rd q ix) hi)).wr r ix lo := by
  obtain ⟨hfind, hany⟩ := writtenPairs_upper r hr
  rw [← hq] at hfind hany
  have hany' : writtenPairs.any q.is = false := hany
  simp [State.plainWrite, hl, hany', hfind, hlo, State.wr]

end

/-- Settles O47: the captures of a read are those of its register, and the two writes of a pair leave both words stored. -/
theorem pairReads : Obligations.PairReads := by
  unfold Obligations.PairReads
  intro p snap s a r ix hs hreg
  refine ⟨fun hreach hr hc => captured_readReg_upper hs snap hreg hreach hr hc, fun v hreach hv hn => ?spent,
    fun q b hq => captured_readReg_other hs hq snap a b, ?written⟩
  case spent =>
    have hplain := is_special_false (regAt_mem hreg) hn
    refine ⟨readReg_of_captured snap hreach hreg ?_, captured_readReg_spent hs snap hreg hreach hplain hv⟩
    rw [measure_plain hplain, readCaptures_standing hplain hv, hv]
  case written =>
    rintro lo hi q t u hr hla hlb hq hbase ht hu
    rw [plainWrite_lower hr hla] at ht
    have hlow : Tab.get none t.pairLow (partyKey p a) = some lo := by rw [ht]; exact Tab.get_set_listed _ (Option.some_ne_none lo)
    have hregs : t.regs = s.regs := by rw [ht]
    have hlock : t.lockedAt (a + 4) = false := by rw [ht]; exact hlb
    rw [plainWrite_upper hr hbase hlock hlow] at hu
    have hne : q.addr ix ≠ r.addr ix := by rw [regAt_addr hreg, regAt_addr hq]; omega
    have hrd : t.rd q ix = s.rd q ix := by unfold State.rd; rw [hregs]
    have hrise : Tab.rising none t.regs = true := hregs ▸ hs.1
    have hrise' := Tab.rising_set q.reset (q.addr ix) (writtenWord q false (t.rd q ix) hi) hrise
    have hulo : u.rd r ix = lo := by
      rw [hu]
      exact rd_wr_same hrise' r ix lo
    have huhi : u.rd q ix = writtenWord q false (s.rd q ix) hi := by
      rw [hu, rd_wr_ne hrise' lo hne, ← hrd]
      exact rd_wr_same hrise q ix _
    exact ⟨hregs, hulo, huhi, by rw [State.rd64, hulo, huhi]⟩

/-! The frame of a plain write -/

theorem storedBits_bit {r : RegDesc} (h : ∀ f ∈ r.fields, f.lo ≤ f.hi) (sl : Bool) (k : Nat) :
    (storedBits r sl).testBit k = r.fields.any (fun f => decide (f.acc.stores sl) && decide (f.lo ≤ k ∧ k ≤ f.hi)) := by
  rw [storedBits, foldl_setBits_testBit _ _ h]
  simp

theorem w1cMask_bit {r : RegDesc} (h : ∀ f ∈ r.fields, f.lo ≤ f.hi) (k : Nat) :
    (w1cMask r).testBit k = r.fields.any (fun f => decide (f.acc = .w1c) && decide (f.lo ≤ k ∧ k ≤ f.hi)) := by
  rw [w1cMask, foldl_setBits_testBit _ _ h]
  simp

/-- No bit is both stored by a write and cleared by one. -/
theorem stored_not_w1c {r : RegDesc} (hr : r ∈ regTable) {k : Nat} (hk : (storedBits r false).testBit k = true) :
    (w1cMask r).testBit k = false := by
  have ok := regTable_fields hr
  rw [storedBits_bit (RegDesc.field_bounds ok), List.any_eq_true] at hk
  obtain ⟨f, hf, hin⟩ := hk
  simp only [Bool.and_eq_true, decide_eq_true_eq] at hin
  obtain ⟨hst, hk⟩ := hin
  rw [w1cMask_bit (RegDesc.field_bounds ok), any_field ok hf hk (fun f => f.acc = .w1c), decide_eq_false_iff_not]
  rintro h
  simp [h, Acc.stores] at hst

section
variable {s : State} {r : RegDesc} {ix : List Nat} {en v : BitVec 32} {k : Nat} (hr : r ∈ regTable) (hk : k < 32)
  (hen : en.getLsbD k = false)
include hk hen

/-- A disabled bit of the word that a write acts with is the stored one, where a write stores it, and 0 otherwise (R421). -/
theorem enabledWord_disabled_bit : (s.enabledWord r ix en v).getLsbD k =
    ((s.rd r ix).getLsbD k && (storedBits r false).testBit k) := by
  simp only [State.enabledWord, BitVec.getLsbD_or, BitVec.getLsbD_and, BitVec.getLsbD_not, BitVec.getLsbD_ofNat, hen, hk]
  simp

include hr

theorem earlierWrite_disabled_bit :
    (s.rd r ix &&& ~~~(s.enabledWord r ix en v &&& BitVec.ofNat 32 (w1cMask r))).getLsbD k = (s.rd r ix).getLsbD k := by
  have hw := enabledWord_disabled_bit (s := s) (r := r) (ix := ix) (v := v) hk hen
  simp only [BitVec.getLsbD_and, BitVec.getLsbD_not, BitVec.getLsbD_ofNat, hw, hk, decide_true, Bool.true_and]
  cases hst : (storedBits r false).testBit k with
  | false => simp
  | true => simp [stored_not_w1c hr hst]

theorem writtenWord_disabled_bit :
    (writtenWord r false (s.rd r ix) (s.enabledWord r ix en v)).getLsbD k = (s.rd r ix).getLsbD k := by
  have hw := enabledWord_disabled_bit (s := s) (r := r) (ix := ix) (v := v) hk hen
  simp only [writtenWord, BitVec.getLsbD_and, BitVec.getLsbD_or, BitVec.getLsbD_not, BitVec.getLsbD_ofNat, hw, hk,
    decide_true, Bool.true_and]
  cases hst : (storedBits r false).testBit k with
  | false => simp
  | true => simp [stored_not_w1c hr hst]

end

/-- A register of no written pair is written by its fields and no more. -/
theorem plainWrite_single {s : State} {r : RegDesc} {a : Nat} (hl : s.lockedAt a = false)
    (hp : writtenPairs.all (fun q => !q.is r && q.base + 4 != r.base) = true) (p : Party) (ix : List Nat) (v : BitVec 32) :
    s.plainWrite p r ix a v = s.wr r ix (writtenWord r false (s.rd r ix) v) := by
  simp only [List.all_eq_true, Bool.and_eq_true, Bool.not_eq_true', bne_iff_ne, RegDesc.is, beq_eq_false_iff_ne] at hp
  have hany : writtenPairs.any r.is = false := by
    rw [List.any_eq_false]
    intro q hq
    simpa [RegDesc.is] using Ne.symm (hp q hq).1
  have hfind : writtenPairs.find? (fun q => (q.base + 4) == r.base) = none := by
    rw [List.find?_eq_none]
    intro q hq
    simpa using (hp q hq).2
  simp [State.plainWrite, hl, hany, hfind]

/-- The word that a plain write leaves in its register: a write that a later party's write of the same cycle precedes only
clears W1C bits (R405). -/
def State.plainWord (s : State) (p : Party) (a : Nat) (r : RegDesc) (ix : List Nat) (en v : BitVec 32) : BitVec 32 :=
  if s.superseded p a then s.rd r ix &&& ~~~(s.enabledWord r ix en v &&& BitVec.ofNat 32 (w1cMask r))
  else writtenWord r false (s.rd r ix) (s.enabledWord r ix en v)

/-- A plain write is a write of one word. -/
theorem writeReg_plain {s : State} {p : Party} {a : Nat} {r : RegDesc} {ix : List Nat} {en v : BitVec 32}
    (hreg : regAt a = some (r, ix)) (hc : (s.serve p a).commandWrite p r ix a (s.enabledWord r ix en v) = none)
    (hreach : s.reaches a = true) (hl : s.lockedAt a = false)
    (hp : writtenPairs.all (fun q => !q.is r && q.base + 4 != r.base) = true) :
    s.writeReg p a en v = (s.serve p a).wr r ix (s.plainWord p a r ix en v) := by
  have hl' : (s.serve p a).lockedAt a = false := hl
  cases hsup : s.superseded p a <;>
    simp [State.writeReg, hreach, hreg, hc, hsup, hl, plainWrite_single hl' hp, State.earlierWrite, State.plainWord] <;> rfl

/-- Settles O51: the write is one word, whose disabled bits stay. -/
theorem registerFrame : Obligations.RegisterFrame := by
  unfold Obligations.RegisterFrame
  rintro t party addr value en s u a r ix hu rfl hs hreg hc hreach hl hp
  have hstored : u.Stored := by
    rw [hu]; exact (State.hostWrite_kept (z := s.clock t) _ party (Kept.refl _)).2.2.2 hs
  refine ⟨_, rfl, ?others, ?rest, ?bytes⟩ <;> rw [← hu, writeReg_plain hreg hc hreach hl hp]
  case others =>
    intro q jx hq
    exact rd_wr_ne hstored.1 _ (by rwa [regAt_addr hreg])
  case rest => rfl
  case bytes =>
    intro k hk hen
    rw [rd_wr_same (s := u.serve party (wordAddr addr)) hstored.1]
    unfold State.plainWord
    split
    · exact earlierWrite_disabled_bit (regAt_mem hreg) hk hen
    · exact writtenWord_disabled_bit (regAt_mem hreg) hk hen

end Sys2Proof.Machine
end

section
/-! SUPPORT. The reset state, the order of the image copies, time steps, writes of the xSPI memory, and IRQ_N (R15, R77,
R362, R365, R410). -/

namespace Sys2Proof.Machine

open Sys2Proof

/-! The reset state -/

/-- Settles O44: the tables of the reset state are empty. -/
theorem resetState : Obligations.ResetState := by
  unfold Obligations.ResetState
  have hsound : State.reset.Sound :=
    ⟨Nat.le_refl 0, rfl, rfl, rfl, rfl, rfl, Nat.zero_le _, Nat.zero_le _, Nat.zero_le _, Nat.zero_le _⟩
  exact ⟨rfl, rfl, fun _ _ => rfl, rfl, rfl, fun _ => rfl, fun _ => rfl, hsound⟩

/-! Image copies -/

theorem slice_length (bs : Bytes) (o k : Nat) : (slice bs o k).length = k := by
  simp only [slice, List.length_append, List.length_replicate, List.length_take]
  omega

theorem leNat_lt (bs : Bytes) : leNat bs < 256 ^ bs.length := by
  induction bs with
  | nil => simp [leNat]
  | cons b bs ih =>
    have hb := b.isLt
    simp only [leNat, List.length_cons, Nat.pow_succ]
    omega

theorem leAt_lt (bs : Bytes) (o k : Nat) : leAt bs o k < 256 ^ k := by
  simpa [leAt, slice_length] using leNat_lt (slice bs o k)

/-- The later of two sequence numbers is the one less than half a turn ahead (R365). -/
theorem serialAfter_eq {a : Nat} (ha : a < 2 ^ 32) (b : Nat) :
    serialAfter 32 b a = decide (0 < (b + 2 ^ 32 - a) % 2 ^ 32 ∧ (b + 2 ^ 32 - a) % 2 ^ 32 < 2 ^ 31) := by
  simp only [serialAfter, Nat.mod_eq_of_lt ha, Nat.pos_iff_ne_zero]

/-- Settles O45: a copy is tried where its header is valid, and the order of two goes by SEQ or by the seed. -/
theorem bootChoice : Obligations.BootChoice := by
  unfold Obligations.BootChoice
  intro s seed
  refine ⟨rfl, fun c hc => ?forced, fun h0 h1 d hd => ?both, fun c hc hok hbad => ?one⟩
  case forced =>
    obtain rfl | rfl : c = 0 ∨ c = 1 := by omega
    all_goals simp [State.copyOrder, List.filter_cons]
  case both =>
    have hserial : serialAfter 32 (hdrSeq (s.copyHeader 1)) (hdrSeq (s.copyHeader 0)) = decide (0 < d ∧ d < 2 ^ 31) :=
      hd ▸ serialAfter_eq (leAt_lt (s.copyHeader 0) 4 4) (hdrSeq (s.copyHeader 1))
    have hlater : serialAfter 32 (hdrSeq (s.copyHeader 1)) (hdrSeq (s.copyHeader 0)) = true ↔ 0 < d ∧ d < 2 ^ 31 := by
      rw [hserial, decide_eq_true_iff]
    refine ⟨fun hpos hlt => ?_, fun hor => ?_, ?_, ?_⟩
    · simp [State.copyOrder, h0, h1, hlater.2 ⟨hpos, hlt⟩]
    · have hnot : serialAfter 32 (hdrSeq (s.copyHeader 1)) (hdrSeq (s.copyHeader 0)) = false := by
        rw [← Bool.not_eq_true, hlater]
        omega
      simp [State.copyOrder, h0, h1, hnot]
    all_goals
      cases hser : serialAfter 32 (hdrSeq (s.copyHeader 1)) (hdrSeq (s.copyHeader 0)) <;>
        simp [State.copyOrder, h0, h1, hser]
  case one =>
    obtain rfl | rfl : c = 0 ∨ c = 1 := by omega
    all_goals
      simp only [Nat.sub_zero, Nat.sub_self] at hbad
      simp [State.copyOrder, hok, hbad]

/-! Time steps -/

/-- OFFSET is chosen so that the reading at E is q (R77). -/
theorem readingOf_offsetFor (rate : BitVec 48) (e eff : Nat) {q : Nat} (hq : q < 2 ^ 96) :
    readingOf { rate := rate, ofs := offsetFor rate e q, eff := eff } e = q := by
  simp only [readingOf, offsetFor, wrapInt, BitVec.toNat_ofInt]
  omega

/-- The newest pair is the one in force at its own E. -/
theorem pairAt_head_at {p : TimePair} {ps : List TimePair} {e : Nat} (he : p.eff = e) : pairAt (p :: ps) e = p := by
  simp [pairAt, he]

/-- A bit of a field of a number. -/
theorem bits_testBit (n hi lo k : Nat) : (bits n hi lo).testBit k = (decide (k < hi + 1 - lo) && n.testBit (lo + k)) := by
  rw [bits, Nat.testBit_mod_two_pow, Nat.testBit_div_two_pow, Nat.add_comm k]

/-- A field reads as the value it was set to. -/
theorem f_sf_same {s : State} (hs : Tab.rising none s.regs = true) (x : Fld) (ix : List Nat) (v : Nat) (hlo : x.lo ≤ x.hi)
    (hhi : x.hi < 32) : (s.sf x ix v).f x ix = v % 2 ^ (x.hi + 1 - x.lo) := by
  rw [State.f, State.sf, rd_wr_same hs]
  apply Nat.eq_of_testBit_eq
  intro k
  rw [bits_testBit, Nat.testBit_mod_two_pow, BitVec.toNat_ofNat, Nat.testBit_mod_two_pow, setBits_testBit hlo]
  by_cases hk : k < x.hi + 1 - x.lo
  · simp [hk, show x.lo + k < 32 by omega, show x.lo + k ≤ x.hi by omega]
  · simp [hk]

/-- The tick number of a reading, where TICK_BASE is in force (R77). -/
theorem tick_of_reading {q b p : Nat} (hq : q < 2 ^ 96) (hle : b * 2 ^ 32 ≤ q) :
    wrapInt 64 (((q / 2 ^ 32 : Nat) - (b : Int)) / (p : Int)) = (q / 2 ^ 32 - b) / p := by
  have hb : b ≤ q / 2 ^ 32 := (Nat.le_div_iff_mul_le (by decide)).2 hle
  have hlt : (q / 2 ^ 32 - b) / p < 2 ^ 64 := by
    have := Nat.div_le_self (q / 2 ^ 32 - b) p
    omega
  rw [wrapInt, ← Int.ofNat_sub hb, ← Int.natCast_div, Int.emod_eq_of_lt (Int.natCast_nonneg _) (by exact_mod_cast hlt),
    Int.toNat_natCast]

/-- A time step puts the new pair and the tick number in force, counts, and raises STEP (R77). -/
theorem timeStep_raise (s : State) (q e : Nat) : ∃ (u : State) (ps : List TimePair), s.timeStep q e = u.raise Fd.TU_EVT_STEP ∧
    u.regs = (s.wrapF Fd.TU_STEP_CNT_STEPS).regs ∧
    u.tu.pairs = { rate := (pairAt s.tu.pairs s.raw).rate, ofs := offsetFor (pairAt s.tu.pairs s.raw).rate e q, eff := e } :: ps ∧
    u.tu.tick = (match s.tu.base with
      | some b => wrapInt 64 (((q / 2 ^ 32 : Nat) - (b.toNat : Int)) / (s.period : Int))
      | none => s.tu.tick) :=
  ⟨_, _, rfl, rfl, List.take_succ_cons, rfl⟩

/-- Settles O53: the new pair makes the reading q, and the flag, the count and the tick number are set beside it. -/
theorem stepReadsTime : Obligations.StepReadsTime := by
  unfold Obligations.StepReadsTime
  intro s q e hs hq
  obtain ⟨u, ps, hu, hregs, hpairs, htick⟩ := timeStep_raise s q e
  have hrise : Tab.rising none u.regs = true := by rw [hregs]; exact Tab.rising_set _ _ _ hs.1
  rw [hu, raise_tu]
  refine ⟨?reading, ?steps, raise_fb u Fd.TU_EVT_STEP hrise (by decide) rfl (by decide), fun b hb hle => ?tick, fun hb => ?noBase⟩
  case reading =>
    rw [State.readingAt, raise_tu, hpairs, pairAt_head_at rfl]
    exact readingOf_offsetFor _ e e hq
  case steps =>
    rw [State.f, show Fd.TU_STEP_CNT_STEPS.reg = Reg.TU_STEP_CNT from rfl, raise_rd_ne u _ _ _ _ _ Reg.TU_STEP_CNT [] hrise (by decide) (by decide), State.rd, hregs]
    exact f_sf_same (s := s) hs.1 Fd.TU_STEP_CNT_STEPS [] _ (by decide) (by decide)
  case tick => rw [htick, hb]; exact tick_of_reading hq hle
  case noBase => rw [htick, hb]

/-! The xSPI memory -/

theorem Tab.rising_setList {α : Type} [DecidableEq α] (d : α) (vs : List α) {m : Tab α} (k : Nat)
    (h : Tab.rising none m = true) : Tab.rising none (Tab.setList d m k vs) = true := by
  induction vs generalizing m k with
  | nil => exact h
  | cons v vs ih => exact ih (k + 1) (Tab.rising_set d k v h)

/-- A list written at consecutive keys leaves the keys beside it alone. -/
theorem Tab.get_setList_outside {α : Type} [DecidableEq α] (d : α) (vs : List α) {m : Tab α} {k x : Nat}
    (h : Tab.rising none m = true) (hx : x < k ∨ k + vs.length ≤ x) :
    Tab.get d (Tab.setList d m k vs) x = Tab.get d m x := by
  induction vs generalizing m k with
  | nil => rfl
  | cons v vs ih =>
    rw [List.length_cons] at hx
    rw [Tab.setList, ih (Tab.rising_set d k v h) (by omega), Tab.get_set_ne d d v (by omega) h]

/-- Each value of the list is read back at its key. -/
theorem Tab.get_setList_inside {α : Type} [DecidableEq α] (d e : α) (vs : List α) {m : Tab α} {k i : Nat}
    (h : Tab.rising none m = true) (hi : i < vs.length) : Tab.get d (Tab.setList d m k vs) (k + i) = vs.getD i e := by
  induction vs generalizing m k i with
  | nil => simp at hi
  | cons v vs ih =>
    cases i with
    | zero =>
      rw [Tab.setList, Tab.get_setList_outside d vs (Tab.rising_set d k v h) (by omega)]
      exact Tab.get_set_same d k v h
    | succ i =>
      rw [Tab.setList, show k + (i + 1) = k + 1 + i by omega, ih (Tab.rising_set d k v h) (by simpa using hi)]
      rfl

/-- Settles O56: a burn is a list of bytes written at consecutive addresses. -/
theorem flashBurn : Obligations.FlashBurn := by
  unfold Obligations.FlashBurn
  intro s off bs hs
  obtain ⟨-, -, -, -, -, hxspi, -⟩ := hs
  have hrise : Tab.rising none s.cfg.xspi = true := by
    simp only [Tab.wf, Bool.and_eq_true] at hxspi
    exact hxspi.1
  exact ⟨fun i hi => Tab.get_setList_inside _ 0 bs hrise hi, fun a ha => Tab.get_setList_outside _ bs hrise ha, rfl⟩

/-! IRQ_N -/

/-- A key that does not read as an unlisted one is listed. -/
theorem Tab.mem_of_get_ne {α : Type} {d : α} {m : Tab α} {k : Nat} (h : Tab.get d m k ≠ d) : (k, Tab.get d m k) ∈ m := by
  induction m with
  | nil => exact absurd rfl h
  | cons e m ih =>
    obtain ⟨j, v⟩ := e
    unfold Tab.get at h ⊢
    split_ifs at h ⊢ with hj hlt
    · simp [hj]
    · exact absurd rfl h
    · exact List.mem_cons_of_mem _ (ih h)

theorem w1cRegs_reset : ∀ r ∈ w1cRegs, r.reset.toNat &&& w1cMask r = 0 ∧ r.block < 32 := by decide

theorem w1cRegs_others : Reg.EVT_LOST ∉ w1cRegs ∧ Reg.HST_CFG ∉ w1cRegs ∧
    regAt (Reg.EVT_LOST.addr []) = some (Reg.EVT_LOST, []) ∧ regAt (Reg.HST_CFG.addr []) = some (Reg.HST_CFG, []) := by
  decide +kernel

/-- A register with W1C fields shares its address with no other register. -/
theorem w1c_addr_ne {r q : RegDesc} {ix jx : List Nat} (hr : r ∈ w1cRegs) (hreg : regAt (r.addr ix) = some (r, ix))
    (hq : q ∉ w1cRegs) (hqreg : regAt (q.addr jx) = some (q, jx)) : q.addr jx ≠ r.addr ix := by
  intro h
  rw [h, hreg] at hqreg
  obtain ⟨rfl, -⟩ : r = q ∧ ix = jx := by simpa using hqreg
  exact hq hr

/-- A W1C bit that is set shows its block in HST_EVT_SUM (R418). -/
theorem blockPending_of_flag {s : State} {r : RegDesc} {ix : List Nat} {j : Nat} (hr : r ∈ w1cRegs)
    (hreg : regAt (r.addr ix) = some (r, ix)) (hmask : (w1cMask r).testBit j = true)
    (hset : (s.rd r ix).toNat.testBit j = true) : s.blockPending r.block = true := by
  have hbit : (s.rd r ix).toNat &&& w1cMask r ≠ 0 := by
    intro h
    have := congrArg (fun n => n.testBit j) h
    simp [Nat.testBit_and, hmask, hset] at this
  have hlisted : s.rd r ix ≠ r.reset := fun h => hbit (by rw [h]; exact (w1cRegs_reset r hr).1)
  have hmem := Tab.mem_of_get_ne (m := s.regs) (d := r.reset) (k := r.addr ix) hlisted
  simp only [State.blockPending, Bool.or_eq_true, List.any_eq_true, Bool.and_eq_true, beq_iff_eq, bne_iff_ne]
  exact Or.inl ⟨r, hr, rfl, _, hmem, by simp [(findReg_some hreg).2], hbit⟩

/-- Raising an event sets its bit. -/
theorem raise_bit {s : State} (hs : Tab.rising none s.regs = true) (x : Fld) (ix : List Nat) (a0 a1 k : Nat)
    (hne : x.reg.addr ix ≠ Reg.EVT_LOST.addr []) (hk : x.lo + k ≤ x.hi) (hhi : x.hi < 32) :
    ((s.raise x ix a0 a1 k).rd x.reg ix).toNat.testBit (x.lo + k) = true := by
  rw [raise_rd_eq s x ix a0 a1 k hs hne, BitVec.toNat_ofNat, Nat.testBit_mod_two_pow, setBits_testBit (by omega),
    if_pos ⟨by omega, hk⟩, Nat.add_sub_cancel_left, setBits_testBit (Nat.le_refl k), if_pos ⟨Nat.le_refl k, Nat.le_refl k⟩]
  simp [show x.lo + k < 32 by omega]

/-- Settles O57: the event's bit makes HST_EVT_SUM not 0, and raising it leaves IRQ_EN alone. -/
theorem irqFollows : Obligations.IrqFollows := by
  unfold Obligations.IrqFollows
  intro s x ix a0 a1 k hs hw hf hk hreg
  obtain ⟨hlost, hcfg, hlostAt, hcfgAt⟩ := w1cRegs_others
  have ok := regTable_fields (regAt_mem hreg)
  have hne := w1c_addr_ne hw hreg hlost hlostAt
  have hen : (s.raise x ix a0 a1 k).fb Fd.HST_CFG_IRQ_EN = s.fb Fd.HST_CFG_IRQ_EN := by
    rw [State.fb, State.f, show Fd.HST_CFG_IRQ_EN.reg = Reg.HST_CFG from rfl, raise_rd_ne s x ix a0 a1 k Reg.HST_CFG [] hs.1 (w1c_addr_ne hw hreg hcfg hcfgAt) (by decide)]
    rfl
  refine ⟨fun hon => ?low, fun hoff => by simp [State.irqN, hen, hoff]⟩
  case low =>
    have hin : x.lo ≤ x.lo + k ∧ x.lo + k ≤ x.hi := ⟨by omega, hk⟩
    have hmask : (w1cMask x.reg).testBit (x.lo + k) = true := by
      rw [w1cMask_bit (RegDesc.field_bounds ok), any_field ok hf hin (fun f => f.acc = .w1c)]
      rfl
    have hset := raise_bit hs.1 x ix a0 a1 k hne.symm hk (fieldsOk_bounds ok _ hf).2
    have hpend := blockPending_of_flag hw hreg hmask hset
    have hany : (List.range 32).any (s.raise x ix a0 a1 k).blockPending = true :=
      List.any_eq_true.2 ⟨x.reg.block, by simp [(w1cRegs_reset _ hw).2], hpend⟩
    simp [State.irqN, hen, hon, hany]

end Sys2Proof.Machine
end

section
/-! SUPPORT. The instructions of the voter channels (R62 to R66, Table TCK-11). -/

namespace Sys2Proof.Machine

open Sys2Proof

section
variable {s : State} {c : Fin 3} {w : BitVec 64} {op : Nat} (h : s.runs c w op)
include h

/-- A register instruction at the pc writes its result and spends the cycles of its OP (Table TCK-11). -/
theorem next_vreg {k : Nat} {x : BitVec 32} (f : VChan → BitVec 64 → BitVec 32) (hk : (cyclesOf op).getD 1 = k)
    (hx : f (s.chan c) w = x) : Host.Outcome.next (s.vreg c.val op f) = (.next (s.vwrote c (rdOf w) x k) : Out) := by
  rw [vreg_runs h f, hk, hx]

/-- An instruction at the pc changes its channel and spends the cycles of its OP (Table TCK-11). -/
theorem next_vexec {k : Nat} {v : VChan} (f : VChan → BitVec 64 → VChan) (hk : (cyclesOf op).getD 1 = k)
    (hv : f (s.chan c) w = v) : Host.Outcome.next (s.vexec c.val op f) = (.next (s.setChan c (v.spend k)) : Out) := by
  rw [vexec_runs h f, hk, hv]

end

/-- Settles O1: each is a register instruction of one cycle. -/
theorem vmLogic : Obligations.VmLogic := by
  unfold Obligations.VmLogic
  intro vc w s
  refine ⟨?_, ?_, ?_, ?_, ?_, ?_, ?_, ?_, ?_, ?sel⟩
  case sel =>
    intro h
    refine next_vreg h _ rfl ?_
    by_cases hc : (s.chan vc).reg (rcOf w) = 0 <;> simp [hc]
  all_goals exact fun h => next_vreg h _ rfl rfl

/-- Saturation as the table gives it is the model's. -/
theorem satWord_eq {lo hi : Int} (h : lo ≤ hi) (i : Int) : satWord lo hi i = BitVec.ofInt 32 (max lo (min hi i)) := by
  rw [satWord, clipInt_eq lo hi i h]

theorem quot_of_ne {x y : BitVec 32} (h : y ≠ 0) : quot x y = BitVec.ofInt 32 (Int.tdiv x.toInt y.toInt) := if_neg h

theorem remd_of_ne {x y : BitVec 32} (h : y ≠ 0) : remd x y = BitVec.ofInt 32 (Int.tmod x.toInt y.toInt) := if_neg h

/-- -2^31 over -1 is 2^31, which wraps to -2^31, and leaves no remainder (Table TCK-11). -/
theorem quot_remd_overflow : quot 0x80000000 0xFFFFFFFF = 0x80000000 ∧ remd 0x80000000 0xFFFFFFFF = 0 := by decide

/-- Settles O2: each is a register instruction, with the corners of saturation and division apart. -/
theorem vmArith : Obligations.VmArith := by
  unfold Obligations.VmArith
  intro vc w s
  obtain ⟨hquot, hremd⟩ := quot_remd_overflow
  refine ⟨fun h => ?satAdd, fun h => ?mul, fun h hb => ?div, fun h hb => ?divZero, fun h ha hb => ?divOverflow,
    fun h hb => ?rem, fun h hb => ?remZero, fun h ha hb => ?remOverflow, fun h => ?timeSub, fun h => ?timeCmp⟩
  case satAdd => exact next_vreg h _ rfl (satWord_eq (by decide) _)
  case mul => exact next_vreg h _ rfl rfl
  case div => exact next_vreg h _ rfl (quot_of_ne hb)
  case divZero => exact next_vreg h _ rfl (if_pos hb)
  case divOverflow => exact next_vreg h _ rfl (by rw [ha, hb, hquot])
  case rem => exact next_vreg h _ rfl (remd_of_ne hb)
  case remZero => exact next_vreg h _ rfl (if_pos hb)
  case remOverflow => exact next_vreg h _ rfl (by rw [ha, hb, hremd])
  case timeSub => exact next_vreg h _ rfl (satWord_eq (by decide) _)
  case timeCmp => exact next_vreg h _ rfl rfl

/-! Loads and stores: one equation per section of the image (Table TCK-9) -/

section
variable (v : VChan) {a : Nat} (x : BitVec 32)

theorem VChan.load_input (h : a < 0x20000) : v.load a = Tab.get 0 v.image (a / 4) := if_pos h

theorem VChan.load_state (h : 0x30000 ≤ a) : v.load a = Tab.get 0 v.state ((a - 0x30000) / 4) := if_neg (by omega)

theorem VChan.store_input (h : a < 0x20000) : v.store a x = v := if_pos h

theorem VChan.store_output (hlo : 0x20000 ≤ a) (hhi : a < 0x30000) :
    v.store a x = { v with outw := Tab.set none v.outw ((a - 0x20000) / 4) (some x) } := by
  rw [VChan.store, if_neg (by omega), if_pos hhi]

theorem VChan.store_state (h : 0x30000 ≤ a) :
    v.store a x = { v with pend := Tab.set none v.pend ((a - 0x30000) / 4) (some x) } := by
  rw [VChan.store, if_neg (by omega), if_neg (by omega)]

end

/-- Of the channels that stand at a valid ST, those that store to the input section raise BAD_STORE (R63). -/
theorem badStore_runs {s : State} {c : Nat} {w : BitVec 64} (h : s.runs c w 0x11) :
    (s.chan c).badStore = decide ((s.chan c).addr w < 0x20000) := by
  obtain ⟨hphase, -, -, hop, hvalid⟩ := id h
  simp [VChan.badStore, runs_fetch h, hphase, hop, hvalid]

/-- An ST that raises nothing is an instruction of its channel. -/
theorem exec_st_good {s : State} {c : Fin 3} {w : BitVec 64} (h : s.runs c w 0x11) (hle : 0x20000 ≤ (s.chan c).addr w)
    {v : VChan} (hv : (s.chan c).store ((s.chan c).addr w) ((s.chan c).reg (rbOf w)) = v) (hpc : v.pc = (s.chan c).pc) :
    exec (.st c) s = .next (s.setChan c ((v.goTo (v.pc + 1)).spend 2)) := by
  have hbad : (s.chan c.val).badStore = false := by rw [badStore_runs h, decide_eq_false_iff_not]; omega
  change execSt c s = _
  rw [execSt, hbad]
  exact next_vexec h (fun v w => (v.store (v.addr w) (v.reg (rbOf w))).goTo (v.pc + 1)) rfl (by rw [hv, hpc])

/-- Settles O3: loads are register instructions, stores and EMIT change one word, and only a store to the input section raises
an event. -/
theorem vmMemory : Obligations.VmMemory := by
  unfold Obligations.VmMemory
  rintro vc w s v a rfl ha
  replace ha : (s.chan vc).addr w = a := ha.symm
  refine ⟨fun h hlt => ?input, fun h hle => ?committed, fun h hlo hhi => ?output, fun h hle => ?pending, fun h hlt => ?bad,
    fun h => ?tld, fun k x h hk hx => ?emit⟩
  case input => exact next_vreg h _ rfl (by rw [ha, VChan.load_input _ hlt])
  case committed => exact next_vreg h _ rfl (by rw [ha, VChan.load_state _ hle])
  case output => exact exec_st_good h (ha ▸ hlo) (by rw [ha, VChan.store_output _ _ hlo hhi]) rfl
  case pending =>
    exact exec_st_good h (by omega) (by rw [ha, VChan.store_state _ _ hle]) rfl
  case bad =>
    have hbad : (s.chan vc.val).badStore = true := by rw [badStore_runs h, ha]; simpa using hlt
    change execSt vc s = _
    rw [execSt, hbad, vexec_runs h, ha, VChan.store_input _ _ hlt]
    rfl
  case tld => exact next_vexec h _ rfl (by rw [ha])
  case emit =>
    have hlt : bits w.toNat 6 0 < 128 := Nat.mod_lt _ (by decide)
    have hslot : 0x20400 + 128 * bits w.toNat 6 0 - 0x20000 = 0x400 + 128 * bits w.toNat 6 0 := by omega
    refine next_vexec h (fun v w => (v.emit_ w).goTo (v.pc + 1)) rfl ?_
    rw [VChan.emit_, VChan.store_output _ _ (by omega) (by omega), hslot, ← hk, ← hx]

/-! Flow -/

/-- At the end of its body, the innermost LOOP with a run left goes back to its first word (R66). -/
theorem VChan.goTo_again (v : VChan) {f : LoopFrame} {fs : List LoopFrame} (hl : v.loops = f :: fs)
    (hc : f.index + 1 < f.count) : v.goTo (f.last + 1) = { v.setReg f.reg (BitVec.ofNat 32 (f.index + 1)) with
      pc := f.first, loops := { f with index := f.index + 1 } :: fs } := by
  simp [VChan.goTo, VChan.setReg, hl, loopStep, hc]

/-- Settles O4: branch and loop are instructions of their channel; END and an invalid instruction end the task. -/
theorem vmFlow : Obligations.VmFlow := by
  unfold Obligations.VmFlow
  rintro vc w s v rfl
  refine ⟨fun h ht => ?taken, fun h himm ha => ?fallThrough, fun h hn => ?skip, fun h hn => ?enter,
    fun f fs hl hc => VChan.goTo_again _ hl hc, fun h => ?endTask, fun hphase hpc hw hv => ?invalid,
    fun hphase hpc => ?beyond⟩
  case taken => exact next_vexec h _ rfl (if_pos ht)
  case fallThrough => exact next_vexec h _ rfl (if_neg (by simp [himm, ha]))
  case skip => exact next_vexec h _ rfl (if_pos hn)
  case enter => exact next_vexec h _ rfl (if_neg hn)
  case endTask =>
    obtain ⟨hphase, -, -, hop, -⟩ := id h
    change execEndOp vc s = _
    simp [execEndOp, runs_fetch h, hphase, hop]
  case invalid =>
    have hfetch : (s.chan vc).fetch = some w := by rw [VChan.fetch, if_pos hpc, hw]
    change execInvalidInstruction vc s = _
    simp [execInvalidInstruction, VChan.invalid, hfetch, hphase, hv]
  case beyond =>
    have hfetch : (s.chan vc).fetch = none := if_neg (by omega)
    change execInvalidInstruction vc s = _
    simp [execInvalidInstruction, VChan.invalid, hfetch, hphase]

end Sys2Proof.Machine
end

section
/-! SUPPORT. The tick: its instant, its tasks and its vote (R38, R43 to R51, R63 to R68, R243 to R245). -/

namespace Sys2Proof.Machine

open Sys2Proof

/-! The instant and the closes (R43 to R48, R227) -/

section
variable {t : Nat} {s u : State} (hu : u = s.clock t)
include hu

theorem execTickInstant_due (h : u.instantDue = true) : execTickInstant t s = .next u.instant := by
  simp only [execTickInstant, ← hu, h, if_true]

/-- Before the first commit a local period paces the module. -/
theorem execTickInstant_local (h : u.instantDue = false) (hl : u.localDue = true) :
    execTickInstant t s = .next u.strobeNow.newTick.restartRound.pairTick.healthTick := by
  simp [execTickInstant, ← hu, h, hl]

theorem execStagingClose_due (h : u.tickPast u.stagingNs = true) (hst : u.tke.staging = false) :
    execStagingClose t s = .next ({ u.countMiss with tke := { u.tke with staging := true } } : State).healthTick := by
  simp [execStagingClose, ← hu, h, hst]

theorem execImageAssemblyClose_due (h : u.tke.asmOpen = true) (hp : u.tickPast 1000 = true) : ∃ v : State,
    execImageAssemblyClose t s = .next v ∧ v.tke.asmOpen = false ∧
      v.tke.vc = ([0, 1, 2].foldl (fun (x : State) c => x.setChan c { x.chan c with image := u.tke.asm.complete }) u).tke.vc ∧
      { v with tke := u.tke } = u := by
  subst hu
  exact ⟨_, if_pos (by rw [h, hp]; rfl), rfl, rfl, rfl⟩

end

/-- The instant is due where a commit has set one, or a period has passed since the last (R44, R200). -/
theorem instantDue_iff (s : State) : s.instantDue = true ↔
    s.tu.atInstant = true ∨ ∃ x : Int, s.sinceInstant = some x ∧ (s.period : Int) ≤ x := by
  simp only [State.instantDue, Bool.or_eq_true]
  cases s.sinceInstant <;> simp

/-- Where no instant can be due, none is until the first commit. -/
theorem instantDue_none {s : State} (ha : s.tu.atInstant = false) (hb : s.tu.base = none) : s.instantDue = false := by
  simp [State.instantDue, ha, State.sinceInstant, hb]

/-- Settles O5: the instant, the local period, and the closes of assembly and staging each take effect where they are due. -/
theorem tickClock : Obligations.TickClock := by
  unfold Obligations.TickClock
  intro t s u hu
  refine ⟨fun x ha hx hle => ?instant, fun ha => ?commit, fun ha hb hs => ?paced, fun ho hp => execImageAssemblyClose_due hu ho hp,
    fun hp hst hrole => ?close, fun hp hst hrole hlast => ?miss⟩
  case instant =>
    refine (execTickInstant_due hu ((instantDue_iff u).2 (Or.inr ⟨x, hx, hle⟩))).trans ?_
    simp [State.instant, ha]
  case commit =>
    refine (execTickInstant_due hu ((instantDue_iff u).2 (Or.inl ha))).trans ?_
    simp [State.instant, ha]
  case paced => exact execTickInstant_local hu (instantDue_none ha hb) (by simp [State.localDue, hb, hs])
  case close =>
    refine (execStagingClose_due hu hp hst).trans ?_
    simp [State.countMiss, hrole]
  case miss =>
    refine (execStagingClose_due hu hp hst).trans ?_
    simp [State.countMiss, hrole, hlast]

/-! Tasks, self-tests and the supervisor (R45, R51, R64, R67, R68, R243 to R245) -/

/-- A channel whose self-test is over resynchronises (R245). -/
theorem afterTest_done {s : State} {c d : Nat} (ho : (s.chan c).out = .test d) (hd : d < s.tu.tick) :
    s.afterTest c = s.setChan c { s.chan c with
      out := .resync d
      codeCopy := (match s.majority with | some k => (s.chan c).code != (s.chan k).code | none => false) } := by
  simp only [State.afterTest, ho, hd, if_true] <;> rfl

section
variable {t : Nat} {s u : State} (hu : u = s.clock t)
include hu

theorem execTaskWcet_over {vc : Fin 3} {n : Nat} {ns : List Nat} (ht : (u.chan vc).tasks = n :: ns)
    (hp : (u.chan vc).phase = .running) (hover : taskWcet (u.taskRow n) < (u.chan vc).taskCycles)
    (hr : (u.chan vc).wcetRaised = false) : execTaskWcet t vc s =
      .next ((u.setChan vc { u.chan vc with wcetRaised := true }).raise Fd.TKE_FAULT_TASK_WCET [] n) := by
  simp [execTaskWcet, ← hu, ht, hp, hover, hr]

theorem execVcRejoin_complete {vc : Fin 3} {d : Nat} (ho : (u.chan vc).out = .resync d)
    (hd : d + u.resyncTicks (u.chan vc) ≤ u.tu.tick) (hst : u.tke.started = false) :
    execVcRejoin t vc s = .next (u.rejoin vc) := by
  simp [execVcRejoin, ← hu, ho, hd, hst]

/-- A channel that sits out for its self-test does not rejoin (R245). -/
theorem execVcRejoin_test {vc : Fin 3} {d : Nat} (ho : (u.chan vc).out = .test d) : execVcRejoin t vc s = .next u := by
  simp [execVcRejoin, ← hu, ho]

theorem execVcSelfTest_standby (ok : Bool) (hr : u.role = 2) :
    execVcSelfTest ⟨t, ok⟩ s = .next { u with asd := { u.asd with testFail := !ok } } := by
  simp [execVcSelfTest, ← hu, hr]

theorem execTickLost_late {r : Nat} (hs : u.tu.strobe = some r) (hb : u.tu.base.isSome = true)
    (hr : r + 2 * u.period ≤ u.raw) (hl : u.tke.lost = false) :
    execTickLost t s = .next (((([0, 1, 2].foldl (fun (x : State) c => if (x.chan c).phase = .running then
        x.setChan c { x.chan c with phase := .stopped, tasks := [] } else x) { u with tke := { u.tke with lost := true } } :
      State).gaspEntry 0x070A 0 0).raise Fd.TKE_FAULT_TICK_LOST).assertErr) := by
  simp only [execTickLost, ← hu, hs]
  exact if_pos ⟨hb, by simpa [State.elapsed] using hr, by simp [hl]⟩

end

/-- Settles O6: each event takes effect where its guard holds. -/
theorem taskEvents : Obligations.TaskEvents := by
  unfold Obligations.TaskEvents
  rintro t vc s u hu
  refine ⟨?start, fun n ns ht hp hover hr => execTaskWcet_over hu ht hp hover hr, ?deadline, fun hle hh => ?halt,
    fun d ho hd hst => execVcRejoin_complete hu ho hd hst, fun d ho => execVcRejoin_test hu ho,
    fun d c ho hd => afterTest_done ho hd, ?selfTest, fun ok hr => execVcSelfTest_standby hu ok hr, ?lost⟩
  case start =>
    rintro a v rfl hp hst hrun hreset rfl
    change execTaskStart t s = _
    rw [execTaskStart, ← hu]
    exact if_pos (by simp [hp, hst, hrun, hreset])
  case deadline =>
    rintro v hp hst hdl hv rfl
    refine ⟨fun h2 => ?_, fun h2 => ⟨_, rfl, ?_⟩⟩
    all_goals
      change execTaskDeadline t s = _
      rw [execTaskDeadline, ← hu]
      refine (if_pos (by simp [hp, hst, hdl, hv])).trans ?_
    · exact if_neg (Nat.not_lt.2 h2)
    · exact if_pos h2
  case halt =>
    change execTickEngineHalt t s = _
    rw [execTickEngineHalt, ← hu]
    exact if_pos ⟨hle, by simp [hh]⟩
  case selfTest =>
    rintro htt hmod hrun hst hnone hrole ok v rfl
    change execVcSelfTest ⟨t, ok⟩ s = _
    rw [execVcSelfTest, ← hu]
    exact (if_neg hrole).trans (if_pos ⟨htt, hmod, hrun, by simp [hst], by simpa using hnone⟩)
  case lost =>
    rintro r v hs hb hr hl rfl
    exact execTickLost_late hu hs hb hr hl

/-! The vote, image frames and frames that go out (R38, R46, R67, R73, R443) -/

section
variable {x y z : Option (BitVec 32)}

/-- Two channels that agree carry the vote against the third (R38). -/
theorem voteWord_two (hxy : x ≠ y) : voteWord [(0, y), (1, x), (2, x)] = { agreed := some x, dissent := [0] } ∧
    voteWord [(0, x), (1, y), (2, x)] = { agreed := some x, dissent := [1] } ∧
    voteWord [(0, x), (1, x), (2, y)] = { agreed := some x, dissent := [2] } := by
  refine ⟨?_, ?_, ?_⟩ <;> simp [voteWord, hxy, hxy.symm]

theorem voteWord_three (x : Option (BitVec 32)) : voteWord [(0, x), (1, x), (2, x)] = { agreed := some x, dissent := [] } := by
  simp [voteWord]

theorem voteWord_none (hxy : x ≠ y) (hxz : x ≠ z) (hyz : y ≠ z) :
    voteWord [(0, x), (1, y), (2, z)] = { agreed := none, dissent := [] } := by
  simp [voteWord, hxy, hxy.symm, hxz, hxz.symm, hyz, hyz.symm]

end

section
variable {t : Nat} {s u : State} (hu : u = s.clock t)
include hu

theorem execVote_votable (h : u.votable = true) : execVote t s = .next u.vote := by
  rw [execVote, ← hu]
  exact if_pos h

/-- The frame that the Tick Engine takes from its queue, with an empty payload where it is poisoned (R182). -/
theorem execImageFrameReceived_takes {q : Fin 504} {ecc : Ecc} {d : Nat} {v : State}
    (hd : u.takeHead (5632 + q.val) ecc = (v, some d)) : execImageFrameReceived t q ecc s =
      .next ((v.releaseCopy d).imageFrame (v.item d).stamp (if (v.item d).poison = [] then
        ((v.item d).bytes.take ((v.item d).bytes.length - 4)).drop (parseFrame (v.item d).bytes).body else [])) := by
  simp [execImageFrameReceived, ← hu, hd]

theorem execImageFrameReceived_none {q : Fin 504} {ecc : Ecc} {v : State} (hd : u.takeHead (5632 + q.val) ecc = (v, none)) :
    execImageFrameReceived t q ecc s = .next u := by
  simp [execImageFrameReceived, ← hu, hd]

end

section
variable {s : State} {n a : Nat}

/-- A frame of another tick, or from outside its tick's window, is late (R46, R73). -/
theorem onTime_late (h : n ≠ s.tu.tick ∨ (s.tu.base.isSome = true ∧ (a < s.instantNs ∨ s.instantNs + s.stagingNs < a))) :
    s.onTime n a = false := by
  rcases h with h | ⟨hb, h⟩
  · simp [State.onTime, h]
  · obtain ⟨b, hb⟩ := Option.isSome_iff_exists.1 hb
    simp only [State.onTime, hb, Bool.and_eq_false_iff, decide_eq_false_iff_not]
    exact Or.inr (by omega)

theorem onTime_within (h : n = s.tu.tick) (hb : s.tu.base.isSome = true) (hlo : s.instantNs ≤ a)
    (hhi : a ≤ s.instantNs + s.stagingNs) : s.onTime n a = true := by
  obtain ⟨b, hb⟩ := Option.isSome_iff_exists.1 hb
  simp [State.onTime, h, hb, hlo, hhi]

end

/-- Settles O7: the vote by words and by ticks, and what an image frame does by its payload and its stamp. -/
theorem tickData : Obligations.TickData := by
  unfold Obligations.TickData
  refine ⟨fun x y z hxy hxz hyz => ?words, fun t s u hu => ⟨fun hst hv h2 hd => ?stopped, fun hst hv h2 hall => ?ended,
    fun hst hp hf => ?without, ?send, ?frame, fun q ecc v hd => execImageFrameReceived_none hu hd⟩⟩
  case words =>
    obtain ⟨h0, h1, h2⟩ := voteWord_two hxy
    exact ⟨voteWord_three x, h0, h1, h2, voteWord_none hxy hxz hyz⟩
  case stopped => exact execVote_votable hu (by simp [State.votable, hst, hv, h2, hd])
  case ended =>
    have hall' : [0, 1, 2].all (fun c => (u.chan c).out != .none || (u.chan c).phase == .ended) = true := by
      rw [List.all_eq_true]
      intro c hc
      simpa using hall c hc
    exact execVote_votable hu (by simp only [State.votable, hst, hv, h2, hall']; simp)
  case without =>
    change execVote t s = _
    rw [execVote, ← hu]
    exact (if_neg (by simp [State.votable, hst])).trans (if_pos (by simp [hp, hf, hst]))
  case send =>
    rintro frame fr hv ho hrun hlink hsent ⟨e, he, hef⟩ rfl
    have hany : u.act.maps.exports.any (fun e => e.frame == frame) = true := List.any_eq_true.2 ⟨e, he, by simp [hef]⟩
    change execExportSend t frame s = _
    rw [execExportSend, ← hu]
    exact if_pos (by simp only [hv, ho, hrun, hlink, hany]; simpa using hsent)
  case frame =>
    rintro q ecc d i p v w hd rfl rfl rfl
    refine ⟨fun hp => ?_, fun es hp => ⟨?_, fun htick hb hlo hhi => ?_⟩⟩
    · exact (execImageFrameReceived_takes hu hd).trans (by rw [State.imageFrame, hp])
    · rintro hlate y rfl
      exact (execImageFrameReceived_takes hu hd).trans (by rw [State.imageFrame, hp]; simp only [onTime_late hlate]; rfl)
    · exact (execImageFrameReceived_takes hu hd).trans
        (by rw [State.imageFrame, hp]; simp only [onTime_within htick hb hlo hhi, if_true])

end Sys2Proof.Machine
end

section
/-! SUPPORT. The time unit's events: steps and rate changes, captures and edges, and PTP messages (R75 to R97). -/

namespace Sys2Proof.Machine

open Sys2Proof

/-! Steps, masters and PPS_IN (R76, R77, R88, R92 to R95) -/

/-- A pair may take effect where the last change is none, or lies 976 µs back (R76). -/
theorem pairMay_of {s : State} {eff : Nat} (he : s.raw + 1000 ≤ eff)
    (hl : s.tu.lastChange = none ∨ ∃ l : Nat, s.tu.lastChange = some l ∧ l + 976000 ≤ eff) : s.pairMay eff = true := by
  rcases hl with hl | ⟨l, hl, hle⟩
  · simp [State.pairMay, he, hl]
  · simp [State.pairMay, he, hl, hle]

section
variable {t : Nat} {s u : State} (hu : u = s.clock t)
include hu

theorem execServoPairChange_may {est : Int} {eff : Nat} (h : u.servoMay eff = true) : execServoPairChange t est eff s =
    .next ((u.setRate (est + addedRate (u.tu.diff.getD 0) (u.f Fd.TU_CFG_SYNC_IV)) eff).set0 Fd.TU_STAT_STATE 2) := by
  rw [execServoPairChange, ← hu]
  exact if_pos h

theorem execHoldover_due (hst : u.f Fd.TU_STAT_STATE = 1 ∨ u.f Fd.TU_STAT_STATE = 2) (hp : u.syncPast u.tu.syncRef 2 = true) :
    execHoldover t s = .next ((u.set0 Fd.TU_STAT_STATE 3).raise Fd.TU_EVT_HOLDOVER) := by
  rw [execHoldover, ← hu]
  exact if_pos ⟨hst, hp⟩

theorem execMasterChg_due (hr : u.f Fd.TU_STAT_RANK ≠ 0) (hst : u.f Fd.TU_STAT_STATE ≠ 4)
    (hp : u.syncPast u.tu.syncRef (2 + u.f Fd.TU_STAT_RANK) = true) : execMasterChg t s = .next u.becomeMaster := by
  rw [execMasterChg, ← hu]
  exact if_pos ⟨hr, hst, hp⟩

theorem execPpsMiss_due {a : Nat} (ha : u.tu.ppsInAt = some a) (hen : u.fb Fd.TU_CFG_PPS_IN_EN = true)
    (hle : a + 1100000000 ≤ u.raw) : execPpsMiss t s =
      .next ((({ u with tu := { u.tu with ppsInAt := none } } : State).set0 Fd.TU_STAT_PPS_LOCK 0).raise Fd.TU_EVT_PPS_MISS) := by
  simp [execPpsMiss, ← hu, ha, hen, State.elapsed, hle]

/-- An edge of PPS_IN with the polarity that the node takes is stamped, and steers or steps a master (R95). -/
theorem execPpsInEdge_taken {falling : Bool} {est : Int} {edge : Nat} {v : State} (hen : u.fb Fd.TU_CFG_PPS_IN_EN = true)
    (hfall : u.fb Fd.TU_CFG_PPS_IN_FALL = falling) (hedge : edge = u.raw - Config.ppsDelay)
    (hv : v = { u.wr64 Reg.TU_PPS_IN_LO Reg.TU_PPS_IN_HI [] (BitVec.ofNat 64 (u.readingAt edge / 2 ^ 32)) with
      tu := { u.tu with ppsInAt := some u.raw } }) :
    execPpsInEdge t falling est s = .next (if u.ppsMaster then
      if !u.tu.committed then
        (v.regate (fun x => x.timeStep (nearestSecond (u.readingAt edge)) edge)).set0 Fd.TU_STAT_PPS_LOCK 1
      else if u.pairMay (u.raw + 1000) then
        (v.setRate (est + addedRate ((nearestSecond (u.readingAt edge) : Int) - u.readingAt edge) 0) (u.raw + 1000)).set0
          Fd.TU_STAT_PPS_LOCK 1
      else v
    else v) := by
  subst hedge hv
  rw [execPpsInEdge, ← hu]
  refine (if_neg (by simp [hen, hfall])).trans ?_
  cases u.ppsMaster <;> cases u.tu.committed <;> cases u.pairMay (u.raw + 1000) <;> rfl

end

/-- Settles O8: each event of the time unit takes effect where its guard holds. -/
theorem timeSteps : Obligations.TimeSteps := by
  unfold Obligations.TimeSteps
  intro t s u hu
  refine ⟨?tod, ?servo, ?ppsIn, fun hst hp => execHoldover_due hu hst (by simpa [State.syncPast] using hp), ?master, ?synton,
    fun a ha hen hle => execPpsMiss_due hu ha hen hle⟩
  case tod =>
    rintro p v rfl
    subst hu
    exact ⟨fun h => congrArg Host.Outcome.next (if_pos h), fun h => congrArg Host.Outcome.next (if_neg h)⟩
  case servo =>
    rintro est d eff iv hst hf hl he hd rfl
    have hmay : u.servoMay eff = true := by
      simp only [State.servoMay, pairMay_of he hl, hf, Bool.and_true]
      simpa using hst
    exact (execServoPairChange_may hu hmay).trans (by rw [hd]; rfl)
  case ppsIn =>
    rintro est falling v q target edge hen hfall hedge rfl rfl hv
    refine ⟨fun hc hm => ?step, fun hc hm => ⟨fun hl => ?rate, fun l hl hlt => ?early⟩, fun hc hm => ?slave⟩ <;>
      refine (execPpsInEdge_taken hu hen hfall hedge hv).trans ?_
    case step =>
      have hmaster : u.ppsMaster = true := by simpa [State.ppsMaster, hc] using hm
      simp [hmaster, hc]
    case rate =>
      have hmaster : u.ppsMaster = true := by simp [State.ppsMaster, hm]
      simp [hmaster, hc, pairMay_of (Nat.le_refl _) hl, addedRate]
    case early =>
      have hmaster : u.ppsMaster = true := by simp [State.ppsMaster, hm]
      have hmay : u.pairMay (u.raw + 1000) = false := by
        simp only [State.pairMay, hl, Bool.and_eq_false_iff, decide_eq_false_iff_not]
        omega
      simp [hmaster, hc, hmay]
    case slave =>
      have hmaster : u.ppsMaster = false := by simp [State.ppsMaster, hm, hc]
      simp [hmaster]
  case master =>
    rintro r rfl hr hst hp
    exact execMasterChg_due hu hr hst (by simpa [State.syncPast] using hp)
  case synton =>
    rintro n v hn rfl
    change execSyntonLoss t s = _
    rw [execSyntonLoss, ← hu]
    simp only [hn]

/-! Captures and output edges (R78, R96, R97) -/

/-- The tick of the latest TICK_OUT edge that is due, where TICK_BASE is in force (R97). -/
theorem tickOutNow_base {u : State} {b : BitVec 64} {x : Int} (hb : u.tu.base = some b)
    (hx : x = (u.nowNs : Int) + sext 16 (u.f Fd.TU_TICK_OUT_ADJ) - b.toNat) :
    u.tickOutNow = some (x / (u.period : Int), x % (u.period : Int)) := by
  simp [State.tickOutNow, hb, hx]

/-- Settles O9: the captures of a read, and an edge where it is due. -/
theorem timeReads : Obligations.TimeReads := by
  unfold Obligations.TimeReads
  intro t s u hu
  refine ⟨?now, ?ofs, ?rate, ?pps, ?tickOut⟩
  case now => rintro p q rfl; subst hu; rfl
  case ofs => rintro p o rfl; subst hu; rfl
  case rate => rintro p r rfl; subst hu; rfl
  case pps =>
    rintro x sec rfl rfl
    refine ⟨fun hf hdue hen hst hnew => ?rise, fun f hf hend hpast => ?fall⟩ <;> change execPpsOutEdge t s = _
    case rise => simp [execPpsOutEdge, ← hu, hf, hdue, hen, hst, hnew, State.emit]
    case fall =>
      have hoff : (decide (f ≤ u.raw) || (!u.fb Fd.TU_PPS_OUT_EN || u.f Fd.TU_STAT_STATE == 0)) = true := by simpa using hend
      simp [execPpsOutEdge, ← hu, hf, hoff, hpast, State.emit, State.fall]
  case tickOut =>
    rintro b x n hb hx rfl
    have hnow := tickOutNow_base hb hx
    refine ⟨fun hf hdue hen hdiv hnew => ?rise, fun f hf hend hpast => ?fall⟩ <;> change execTickOutEdge t s = _
    case rise => simp [execTickOutEdge, ← hu, hf, hnow, hdue, hen, hdiv, hnew, State.emit]
    case fall =>
      have hoff : (decide (f ≤ u.raw) || !u.fb Fd.TU_TICK_OUT_EN) = true := by simpa using hend
      simp [execTickOutEdge, ← hu, hf, hoff, hnow, hpast, State.emit, State.fall]

/-! PTP messages (R83 to R86, R90 to R94) -/

theorem timePorts_all (s : State) :
    s.timePorts none = (List.range 257).filter (fun n => s.f Fd.TU_PORTn_CFG_ROLE [n] == 1) := by
  have hnone (n : Nat) : ((none : Option Nat) != some n) = true := rfl
  simp [State.timePorts, hnone]

/-- A field that is not 0 reads as a set flag. -/
theorem fb_of_ne {s : State} {x : Fld} {ix : List Nat} (h : s.f x ix ≠ 0) : s.fb x ix = true := by simpa [State.fb] using h

/-- Settles O10: each message takes effect at the ports that its rule names. -/
theorem timePorts : Obligations.TimePorts := by
  unfold Obligations.TimePorts
  intro t s u hu
  refine ⟨?sync, ?send, ?request, ?answer, ?response, ?forward⟩
  case sync =>
    rintro port ingress m v hv hcut hrole hdom
    refine ⟨fun htake => ?_, fun htake => ?_⟩ <;> change execSyncReceived t port ingress m s = _
    all_goals rw [execSyncReceived, ← hu]; simp only [← hv]
    · exact if_pos ⟨by simp [hcut], hrole, hdom, htake⟩
    · exact if_neg (by simp [htake])
  case send =>
    rintro m hst hsent rfl
    change execSyncSend t s = _
    rw [execSyncSend, ← hu]
    refine (if_pos ⟨hst, by rw [hsent]⟩).trans ?_
    rw [timePorts_all]
    rfl
  case request =>
    rintro port v w hrole hlast rfl rfl
    change execPdelayRequest t port s = _
    rw [execPdelayRequest, ← hu]
    exact if_pos ⟨fb_of_ne hrole, by rw [hlast]⟩
  case answer =>
    rintro port rx source seq v like hrole hcut rfl rfl
    change execPdelayMessageReceived t port (.request rx source seq) s = _
    rw [execPdelayMessageReceived, ← hu]
    exact if_neg (by simp [fb_of_ne hrole, hcut])
  case response =>
    rintro port tx prx ptx rx ratio turn v w pd hrole hcut rfl rfl rfl rfl
    change execPdelayMessageReceived t port (.response tx prx ptx rx ratio) s = _
    rw [execPdelayMessageReceived, ← hu]
    exact if_neg (by simp [fb_of_ne hrole, hcut])
  case forward =>
    rintro p o ingress egress p2p transport corr x delta htx hrole hmsg rfl
    refine ⟨fun f hf => ?_, fun hf => ?_⟩ <;> change execPtpEventForward t p o ingress egress p2p transport corr s = _
    all_goals rw [execPtpEventForward, ← hu]; simp only [htx]
    · exact (if_neg (by simp [hrole, hmsg])).trans (by simp only [hf])
    · exact (if_neg (by simp [hrole, hmsg])).trans (by simp only [hf])

end Sys2Proof.Machine
end


section
/-! SUPPORT. Ports, lanes and modules: O11, O12. -/
namespace Sys2Proof.Machine
open Sys2Proof

theorem State.elapsed_iff {s : State} {r d : Nat} : s.elapsed r d = true ↔ r + d ≤ s.raw := by simp [State.elapsed]

theorem State.inState_iff {s : State} {n d : Nat} :
    s.inState n d = true ↔ Tab.get 0 s.prt.since n + d ≤ s.raw := State.elapsed_iff

/-- Settles O11: each event finds its port in the state that its rule names. -/
theorem portBringUp : Obligations.PortBringUp := by
  unfold Obligations.PortBringUp
  rintro t port s u n hu rfl
  refine ⟨?signal, ?trained, ?trainLate, ?lock, ?lockLate, ?hold, ?broken, ?calibrated⟩
  case signal =>
    intro hst hmod
    change execSignalDetected t port s = _
    rw [execSignalDetected, ← hu]
    exact if_pos ⟨hst, hmod⟩
  case trained =>
    intro hst
    change execTrainingDone t port s = _
    rw [execTrainingDone, ← hu]
    exact if_pos hst
  case trainLate =>
    intro hst hlate
    change execTrainTimeout t port s = _
    rw [execTrainTimeout, ← hu]
    exact if_pos ⟨hst, State.inState_iff.2 hlate⟩
  case lock =>
    intro hst
    change execLockAchieved t port s = _
    rw [execLockAchieved, ← hu]
    exact if_pos hst
  case lockLate =>
    intro hst hlate
    change execLockTimeout t port s = _
    rw [execLockTimeout, ← hu]
    exact if_pos ⟨hst, State.inState_iff.2 hlate⟩
  case hold =>
    rintro v hst hheld rfl
    have hup := And.intro hst (State.inState_iff.2 hheld)
    refine ⟨fun hn => ?_, fun hn hrf => ?_, fun hn hrf hend => ?_⟩ <;> change execHoldExpiry t port s = _ <;>
      rw [execHoldExpiry, ← hu]
    · exact (if_pos hup).trans (if_pos hn)
    · exact ((if_pos hup).trans (if_neg (Nat.not_lt.2 hn))).trans (congrArg Host.Outcome.next (if_pos hrf))
    · have hfree : ¬ (u.fb Fd.ASD_Gg_PSTAT_RF [port.val - 256] = true ∨ u.raw < Tab.get 0 u.prt.rfEnd port.val) :=
        not_or.2 ⟨by simp [hrf], Nat.not_lt.2 hend⟩
      exact ((if_pos hup).trans (if_neg (Nat.not_lt.2 hn))).trans (congrArg Host.Outcome.next (if_neg hfree))
  case broken =>
    intro hst
    change execHoldBreak t port s = _
    rw [execHoldBreak, ← hu]
    exact if_pos hst
  case calibrated =>
    rintro g lat ps v w hps hne rfl rfl
    have hsome : ¬ ps.isEmpty = true := by simpa using hne
    constructor
    · change execPortGroupCalibrationDone t g (some lat) s = _
      rw [execPortGroupCalibrationDone, ← hu]
      simp only [← hps]
      exact if_neg hsome
    · change execPortGroupCalibrationDone t g none s = _
      rw [execPortGroupCalibrationDone, ← hu]
      simp only [← hps]
      exact if_neg hsome

theorem laneTest_starts {s : State} {g l n : Nat} {v : BitVec 32} (hchk : s.fb Fd.PGn_Ll_TEST_CHK_EN [g, l] = false)
    (hport : s.portOfLane (8 * g + l) = some n) (hv : v.toNat % 32 ≠ 0) (hst : s.pst n ≠ 0) :
    s.laneTest g l v = ((s.wr Reg.PGn_Ll_TEST [g, l] (v &&& 0x3F#32)).portLost n 0).raise Fd.PGn_EVT_LANE_TEST [g] l := by
  have hsame : s.prbsCount g l = s := by simp [State.prbsCount, hchk]
  rw [State.laneTest]
  simp only [hsame, hport]
  exact (if_pos hv).trans (if_neg hst)

theorem selectApp_some {s : State} {g m : Nat} {apps : List ModuleApp} {a : ModuleApp} (h : s.appFor g m apps = some a) :
    s.selectApp g m apps = ((s.moduleSlots g m).foldl (fun x y => ((x.sf Fd.PGn_OPTm_STAT_PRESENT [y.1, y.2] 1).sf
      Fd.PGn_OPTm_STAT_APPSEL [y.1, y.2] a.code.toNat).sf Fd.PGn_OPTm_STAT_MODSTATE [y.1, y.2] 2) s).cmis g m
        (appWrites a.code) := by
  rw [State.selectApp]
  simp only [h]

theorem selectApp_none {s : State} {g m : Nat} {apps : List ModuleApp} (h : s.appFor g m apps = none) :
    s.selectApp g m apps = ((s.moduleSlots g m).foldl (fun x y => ((x.sf Fd.PGn_OPTm_STAT_PRESENT [y.1, y.2] 1).sf
      Fd.PGn_OPTm_STAT_APPSEL [y.1, y.2] 0).sf Fd.PGn_OPTm_STAT_MODSTATE [y.1, y.2] 1) s).raise
        Fd.PGn_EVT_OPT_NO_APP [g] m := by
  rw [State.selectApp]
  simp only [h]

/-- Settles O12: losses, faults, codewords, bursts, modules and lost HELLOs act as their rules name. -/
theorem portEvents : Obligations.PortEvents := by
  unfold Obligations.PortEvents
  intro t s u hu
  refine ⟨?loss, ?faultEnd, ?degrade, ?codeword, ?burst, ?laneTest, ?found, ?poll, ?removed, ?hello⟩
  case loss =>
    rintro port n lf rfl
    refine ⟨fun hst hn => ?_, fun hst hn => ?_, ?_, ?_⟩
    · change execPortDown t port lf s = _
      rw [execPortDown, ← hu]
      exact (if_pos hst).trans (by simp only [if_pos hn])
    · change execPortDown t port lf s = _
      rw [execPortDown, ← hu]
      exact (if_pos hst).trans (by simp only [if_neg (Nat.not_lt.2 hn)])
    · rintro v hst hn rfl
      change execRemoteFaultStart t port s = _
      rw [execRemoteFaultStart, ← hu]
      exact (if_pos hst).trans (if_neg (Nat.not_lt.2 hn))
    · rintro v hst hn rfl
      change execRemoteFaultStart t port s = _
      rw [execRemoteFaultStart, ← hu]
      exact (if_pos hst).trans (if_pos hn)
  case faultEnd =>
    rintro port n x ix v rfl rfl rfl hfb rfl
    change execRemoteFaultEnd t port s = _
    rw [execRemoteFaultEnd, ← hu]
    by_cases hn : port.val < 256
    · simp only [if_pos hn] at hfb ⊢
      exact if_pos hfb
    · simp only [if_neg hn] at hfb ⊢
      exact if_pos hfb
  case degrade =>
    rintro port n sym thr good v rfl rfl rfl rfl hlate rfl
    have hopen : ¬ u.nowNs / 1000000 ≤ Tab.get 0 u.prt.winEnd port.val := Nat.not_le.2 hlate
    refine ⟨fun hthr => ?_, fun hthr hst hsym => ?_, fun hthr hst hgood => ?_⟩ <;>
      change execSdWindowEnd t port s = _ <;> rw [execSdWindowEnd, ← hu] <;> refine (if_neg hopen).trans ?_
    · exact if_pos hthr
    · exact (if_neg hthr).trans (if_pos ⟨hst, hsym⟩)
    · exact ((if_neg hthr).trans (if_neg (by simp [hst]))).trans (if_pos ⟨hst, hgood⟩)
  case codeword =>
    rintro lane l n c k unc rfl hport rfl
    refine ⟨fun hfec => ?_, ?_⟩
    · change execCodewordReceived t lane c unc s = _
      rw [execCodewordReceived, ← hu]
      simp only [hport]
      exact if_pos hfec
    · rintro v w x hfec rfl rfl hx
      have hfec' : ¬ u.noFec n = true := by simp [hfec]
      refine ⟨fun hunc => ?_, fun hunc hst => ?_⟩ <;> change execCodewordReceived t lane c unc s = _ <;>
        rw [execCodewordReceived, ← hu] <;> simp only [hport] <;> refine (if_neg hfec').trans ?_
      · subst hx
        exact if_neg fun h => Nat.not_lt.2 h.1 hunc
      · subst hx
        exact if_pos ⟨hunc, hst⟩
  case burst =>
    rintro group b start rfl hb hquiet rfl
    change execBurstEnd t group s = _
    rw [execBurstEnd, ← hu]
    exact if_pos ⟨hb, State.elapsed_iff.2 hquiet⟩
  case laneTest =>
    rintro p group lane v n w rfl hchk hport hv hst
    subst hu
    exact congrArg Host.Outcome.next (laneTest_starts hchk hport hv hst)
  case found =>
    rintro group slot g m apps rfl rfl
    refine ⟨fun hnone => ?_, ?_⟩
    · change execModuleFound t group slot apps s = _
      rw [execModuleFound, ← hu]
      exact if_pos (by simp [hnone])
    · rintro v put hsome rfl rfl
      refine ⟨fun a happ => ?_, fun happ => ?_⟩ <;> change execModuleFound t group slot apps s = _ <;>
        rw [execModuleFound, ← hu] <;> refine (if_neg (by simpa using hsome)).trans (congrArg Host.Outcome.next ?_)
      · exact selectApp_some happ
      · exact selectApp_none happ
  case poll =>
    rintro group slot g m k ms dps temp slots v rfl rfl rfl rfl hpres hdue rfl
    constructor
    · change execModulePoll t group slot false ⟨ms, dps⟩ temp s = _
      rw [execModulePoll, ← hu]
      exact if_pos ⟨hpres, State.elapsed_iff.2 hdue⟩
    · change execModulePoll t group slot true ⟨ms, dps⟩ temp s = _
      rw [execModulePoll, ← hu]
      exact if_pos ⟨hpres, State.elapsed_iff.2 hdue⟩
  case removed =>
    rintro group slot slots rfl
    subst hu
    rfl
  case hello =>
    intro side hup hmiss
    change execHelloLost t side s = _
    rw [execHelloLost, ← hu]
    exact if_pos ⟨hup, hmiss⟩

end Sys2Proof.Machine
end


section
/-! SUPPORT. The Larder's queues and banks, and the gate windows: O13, O14. -/
namespace Sys2Proof.Machine
open Sys2Proof

/-! Queues and banks (R160 to R170) -/

theorem qcmd_queue (q : Fin 8192) : bits (q.val + 0x10000) 12 0 = q.val ∧ bits (q.val + 0x10000) 18 16 = 1 := by
  simp only [bits]
  omega

theorem qcmd_beyond {s : State} {q : Fin 8192} (hq : 6143 < q.val) :
    s.qcmd (q.val + 0x10000) = (s.set0 Fd.LDR_QCMD_STAT_STATE 3).set0 Fd.LDR_QCMD_STAT_CODE 2 := by
  obtain ⟨hnum, hop⟩ := qcmd_queue q
  rw [State.qcmd, hnum, hop]
  exact (if_neg (by simp)).trans (if_pos hq)

theorem qcmd_assured {s : State} {q : Fin 8192} (hq : q.val ≤ 6143) (ha : s.qAssured q.val = true) :
    s.qcmd (q.val + 0x10000) = (s.set0 Fd.LDR_QCMD_STAT_STATE 3).set0 Fd.LDR_QCMD_STAT_CODE 1 := by
  obtain ⟨hnum, hop⟩ := qcmd_queue q
  rw [State.qcmd, hnum, hop]
  exact ((if_neg (by simp)).trans (if_neg (Nat.not_lt.2 hq))).trans (if_pos ha)

theorem qcmd_drops {s : State} {q : Fin 8192} (hq : q.val ≤ 6143) (ha : s.qAssured q.val = false) :
    s.qcmd (q.val + 0x10000) =
      ((s.dropCounted q.val).set0 Fd.LDR_QCMD_STAT_STATE 2).set0 Fd.LDR_QCMD_STAT_CODE 0 := by
  obtain ⟨hnum, hop⟩ := qcmd_queue q
  rw [State.qcmd, hnum, hop]
  exact ((if_neg (by simp)).trans (if_neg (Nat.not_lt.2 hq))).trans (if_neg (by simp [ha]))

theorem staleDue_of {s : State} {q : Nat} (hticks : s.f Fd.LDR_Qq_CFG_STALE_TICKS [q] ≠ 0)
    (hfull : (s.queue q).entries ≠ []) (hnew : s.fb Fd.LDR_Qq_STAT_STALE [q] = false)
    (hold : (s.queue q).headTick + s.f Fd.LDR_Qq_CFG_STALE_TICKS [q] ≤ s.strobes) : s.staleDue q = true := by
  simp [State.staleDue, hticks, hfull, hnew, hold]

/-- Settles O13: drops, stale queues, scrubbing and the spare bank. -/
theorem storage : Obligations.Storage := by
  unfold Obligations.Storage
  intro t s u hu
  refine ⟨?drop, ?beyond, ?assured, ?stale, ?scrub, ?rotate, ?copied, ?retired, ?tested, ?retire⟩
  case drop =>
    intro q n v hq ha hdrop
    have hexec : exec (.dropRemainder t q) s = .next (u.qcmd (q.val + 0x10000)) := by subst hu; rfl
    rw [hexec, qcmd_drops hq ha, State.dropCounted, hdrop]
    refine ⟨fun hclass => ?_, fun hclass => ?_⟩
    · simp [hclass]
    · simp [hclass]
  case beyond =>
    intro q hq
    subst hu
    exact congrArg Host.Outcome.next (qcmd_beyond hq)
  case assured =>
    intro q hq ha
    subst hu
    exact congrArg Host.Outcome.next (qcmd_assured hq ha)
  case stale =>
    rintro queue q v rfl hticks hfull hnew hold rfl
    have hdue := staleDue_of hticks hfull hnew hold
    refine ⟨fun ha => ?_, fun ha => ?_⟩ <;> change execQueueStale t queue s = _ <;> rw [execQueueStale, ← hu] <;>
      refine (if_pos hdue).trans (congrArg Host.Outcome.next ?_)
    · exact if_pos ha
    · exact if_neg (by simp [ha])
  case scrub =>
    rintro e pass v rfl hpass hup hdue hv
    have hruns : ¬ (u.f Fd.LDR_CFG_SCRUB_S * 1000000000 = 0 ∨ u.fb Fd.POR_STAT_HOLDUP = true ∨
        (!u.elapsed u.ldr.scrubAt (u.f Fd.LDR_CFG_SCRUB_S * 1000000000 * u.ldr.scrub / scrubWords)) = true) := by
      simp [hpass, hup, State.elapsed, scrubWords, hdue]
    refine ⟨fun hword => ?_, fun hword => ?_⟩ <;> change execScrubWord t e s = _ <;> rw [execScrubWord.eq_def, ← hu] <;>
      refine (if_neg hruns).trans ?_
    · have hlast : decide (u.ldr.scrub + 1 = scrubWords) = false := by simp [scrubWords, Nat.ne_of_lt hword]
      have hnext : (u.ldr.scrub + 1) % scrubWords = u.ldr.scrub + 1 := by
        rw [scrubWords, Nat.mod_eq_of_lt hword]
      simp only [hlast, hnext]
      subst hv
      rfl
    · have hlast : decide (u.ldr.scrub + 1 = scrubWords) = true := by simp [scrubWords, hword]
      have hnext : (u.ldr.scrub + 1) % scrubWords = 0 := by rw [hword, scrubWords, Nat.mod_self]
      simp only [hlast, hnext, if_true]
      subst hv
      rfl
  case rotate =>
    rintro ms rfl hms hidle hspare hdue hup
    change execSpareRotation t s = _
    rw [execSpareRotation, ← hu]
    exact if_pos ⟨hms, hidle, by simp [hspare], State.elapsed_iff.2 hdue, by simp [hup]⟩
  case copied =>
    rintro b since spare old m hrot rfl rfl rfl
    change execSpareCopyDone t s = _
    rw [execSpareCopyDone, ← hu]
    simp only [hrot]
    rfl
  case retired =>
    rintro b since spare old m hrot rfl rfl rfl
    change execSpareCopyDone t s = _
    rw [execSpareCopyDone, ← hu]
    simp only [hrot]
    rfl
  case tested =>
    intro p hrot
    constructor
    · change execSpareTestDone t true s = _
      rw [execSpareTestDone, ← hu]
      simp only [hrot]
      rfl
    · change execSpareTestDone t false s = _
      rw [execSpareTestDone, ← hu]
      simp only [hrot]
      rfl
  case retire =>
    rintro bank n rfl hn hded
    refine ⟨fun hspare => ?_, fun hspare hidle => ?_⟩ <;> change execBankRetired t bank s = _ <;>
      rw [execBankRetired, ← hu] <;> refine (if_pos ⟨hn, hded⟩).trans ?_
    · exact if_pos hspare
    · exact (if_neg (by simp [hspare])).trans (if_pos hidle)

/-! Gate windows (R52, R55, R59, R61) -/

/-- Settles O14: windows open and close, and staged rows are committed. -/
theorem gatesWindows : Obligations.GatesWindows := by
  unfold Obligations.GatesWindows
  intro t s u hu
  refine ⟨?windows, ?commit, ?closed, ?openWrite, ?selfTest⟩
  case windows =>
    rintro seg entry v w rfl hw
    refine ⟨fun hstart hstop hnew hfb => ?_, fun hstop hopen hseg => ?_, fun hstop hopen hseg hkind => ?_⟩
    · change execWindowStart t seg entry s = _
      rw [execWindowStart, ← hu]
      simp only [hw]
      exact if_pos ⟨by simp [Win.holds, hstart, hstop], hnew, hfb⟩
    · change execWindowStop t seg entry s = _
      rw [execWindowStop, ← hu]
      simp only [hw]
      exact (if_pos ⟨hstop, hopen⟩).trans (congrArg Host.Outcome.next (if_pos hseg))
    · change execWindowStop t seg entry s = _
      rw [execWindowStop, ← hu]
      simp only [hw]
      exact (if_pos ⟨hstop, hopen⟩).trans
        (congrArg Host.Outcome.next ((if_neg (Nat.not_lt.2 hseg)).trans (if_pos hkind)))
  case commit =>
    rintro p w rows v rfl hopen rfl
    subst hu
    exact congrArg Host.Outcome.next (if_pos hopen)
  case closed =>
    intro p w hclosed
    subst hu
    exact congrArg Host.Outcome.next (if_neg (by simp [hclosed]))
  case openWrite =>
    intro p entry open_
    subst hu
    rfl
  case selfTest =>
    intro hclosed
    constructor
    · change execGinghamSelfTestDone t true s = _
      rw [execGinghamSelfTestDone, ← hu]
      exact (if_neg (by simp [hclosed])).trans (if_pos rfl)
    · change execGinghamSelfTestDone t false s = _
      rw [execGinghamSelfTestDone, ← hu]
      exact (if_neg (by simp [hclosed])).trans (if_neg (by simp))

end Sys2Proof.Machine
end


section
/-! SUPPORT. The frame path: headers, frame ends, the scheduler and its timers: O15. -/
namespace Sys2Proof.Machine
open Sys2Proof

/-! Headers (R105, R127, R229) -/

theorem flatMap_guarded {α : Type} (h : α) (c : Nat → Bool) (l : List Nat) :
    l.flatMap (fun i => [h].filter (fun _ => c i)) = (l.filter c).map (fun _ => h) := by
  induction l with
  | nil => rfl
  | cons i l ih => cases hc : c i <;> simp [List.flatMap_cons, hc, ih]

/-- Each of the eight pipelines is visited once, whichever comes first. -/
theorem pipelines_once : ∀ a b : Fin 8, ((List.range 8).filter (fun i => a.val == (b.val + i) % 8)).length = 1 := by decide

theorem byPipeline_single (k : Nat) (h : Header) : byPipeline k [h] = [h] := by
  have hfirst (i : Nat) : (k + i) % 8 = (k % 8 + i) % 8 := by omega
  have honce := pipelines_once ⟨pipelineOf h.1 % 8, Nat.mod_lt _ (by decide)⟩ ⟨k % 8, Nat.mod_lt _ (by decide)⟩
  have hguard := flatMap_guarded h (fun i => pipelineOf h.1 % 8 == (k % 8 + i) % 8) (List.range 8)
  rw [List.map_const', honce] at hguard
  rw [byPipeline]
  refine Eq.trans (List.flatMap_congr fun i _ => ?_) hguard
  simp only [hfirst, List.filter_cons, List.filter_nil]

theorem takeHeaders_single {s : State} {n : Nat} (t vc stamp : Nat) (f : Bytes) (hup : s.pst n = 6 ∨ s.pst n = 7) :
    s.takeHeaders t [(n, vc, stamp, f)] = s.ingress n vc (s.rxStamp n stamp) f := by
  have hlive : [(n, vc, stamp, f)].filter (fun h => s.pst h.1 == 6 || s.pst h.1 == 7) = [(n, vc, stamp, f)] := by simp [hup]
  rw [State.takeHeaders]
  simp only [hlive, byPipeline_single, List.foldl_cons, List.foldl_nil, State.ingress]

theorem rx_setRx_some (s : State) (n : Nat) (r : RxFrame) : (s.setRx n (some r)).rx n = some r :=
  Tab.get_set_listed (m := s.fp.rx) (d := none) n (Option.some_ne_none r)

theorem stage5_idle {s : State} {n : Nat} {r : RxFrame} (hrx : s.rx n = some r) (hnext : r.next = none) : s.stage5 n = s := by
  rw [State.stage5, hrx]
  simp only [hnext]

theorem gableHeader_gable {s : State} {n stamp : Nat} {f : Bytes} (hn : 256 ≤ n) (htype : (parseFrame f).etype = 0x88B6) :
    s.gableHeader n stamp f = (s.dropRx (n + 256)).setRx (n + 256)
      (some { bytes := f, stamp := stamp, cls := .control, control := some 2 }) := by
  have hkey : rxKey n = n + 256 := if_neg (Nat.not_lt.2 hn)
  rw [State.gableHeader]
  simp only [htype, hkey, if_true, Option.isNone_some]

/-! Ends (R106, R107, R126) -/

/-- Why a frame that ends is not taken: by its codewords, its length, or its FCS. -/
theorem rxEnd_codewords {s : State} {n : Nat} {r : RxFrame} (reasm : Bool) (hrx : s.rx (rxKey n) = some r) :
    s.rxEnd n false reasm = ((if reasm then s.fpCount n 13 else s).portCount n 7).dropRx (rxKey n) := by
  rw [State.rxEnd, hrx]
  exact if_pos (Or.inl rfl)

section
variable {s v : State} {n : Nat} {r : RxFrame} {reasm : Bool} (hrx : s.rx (rxKey n) = some r) (hbad : r.bad = false)
  (hv : v = if reasm then s.fpCount n 13 else s)
include hrx hbad hv

theorem rxEnd_short (hlen : r.bytes.length < 64) : s.rxEnd n true reasm = (v.portCount n 5).dropRx (rxKey n) := by
  rw [State.rxEnd, hrx]
  subst hv
  exact (if_neg (by simp [hbad])).trans (if_pos hlen)

theorem rxEnd_long (hlen : 64 ≤ r.bytes.length) (htop : v.rxMax n < r.bytes.length) :
    s.rxEnd n true reasm = (v.portCount n 6).dropRx (rxKey n) := by
  rw [State.rxEnd, hrx]
  subst hv
  exact ((if_neg (by simp [hbad])).trans (if_neg (Nat.not_lt.2 hlen))).trans (if_pos htop)

theorem rxEnd_fcs (hlen : 64 ≤ r.bytes.length) (htop : r.bytes.length ≤ v.rxMax n)
    (hfcs : leAt r.bytes (r.bytes.length - 4) 4 ≠ crc32 (r.bytes.take (r.bytes.length - 4))) :
    s.rxEnd n true reasm = (v.portCount n 4).dropRx (rxKey n) := by
  rw [State.rxEnd, hrx]
  subst hv
  exact (((if_neg (by simp [hbad])).trans (if_neg (Nat.not_lt.2 hlen))).trans (if_neg (Nat.not_lt.2 htop))).trans
    (if_pos (by simp [hfcs]))

theorem rxEnd_control {c : Nat} (hlen : 64 ≤ r.bytes.length) (htop : r.bytes.length ≤ v.rxMax n)
    (hfcs : leAt r.bytes (r.bytes.length - 4) 4 = crc32 (r.bytes.take (r.bytes.length - 4))) (hc : r.control = some c)
    {w : State} (hw : w = (if v.isEdge n then ((v.portCount n 0).portCount n 1 r.bytes.length).qualify
      else (v.portCount n 0).portCount n 1 r.bytes.length).setRx (rxKey n) none) :
    s.rxEnd n true reasm = if c = 3 then w.relayOn n r.bytes else w.ctlDeliver c n r.bytes := by
  rw [State.rxEnd, hrx]
  subst hv hw
  refine (((if_neg (by simp [hbad])).trans (if_neg (Nat.not_lt.2 hlen))).trans (if_neg (Nat.not_lt.2 htop))).trans
    ((if_neg (by simp [hlen, hfcs])).trans ?_)
  simp only [hc]

end

/-! The scheduler (R134 to R140) -/

theorem pick_head {s : State} {n tc gate d : Nat} {tcs : List Nat} (hcand : s.candidates n = (tc :: tcs, gate))
    (htx : (s.egress n).tx = none) (hpre : (s.egress n).preempted = none) (hrelay : s.relayChoice n = none)
    (htc : s.tcChoice n tc = some (.head d)) (hmay : s.choiceMay n gate tc (.head d) = true) :
    s.pick n = some (tc, .head d) := by
  simp [State.pick, hcand, htx, hpre, hrelay, htc, hmay]

theorem preempt_idle {s : State} {n : Nat} (htx : (s.egress n).tx = none) : s.preempt n = s := by
  simp [State.preempt, htx]

theorem readStart_good {s : State} {n tc d : Nat} (hpoison : (s.item d).poison = []) :
    s.readStart n tc (.head d) .good = s.startTx n tc (.head d) false := by
  simp [State.readStart, State.readItem, Choice.desc, hpoison]

theorem decide_starts {s v : State} {n tc gate d : Nat} {tcs : List Nat} (hlink : s.linkUp n = true)
    (hidle : (s.egress n).tx = none) (hcand : (s.drainControl.shape n).candidates n = (tc :: tcs, gate))
    (hv : v = (tc :: tcs).foldl (fun (x : State) k => x.recoverHead n (8 * n + k) ((x.queue (8 * n + k)).entries.length + 1))
      (s.drainControl.shape n)) (hpick : v.pick n = some (tc, .head d)) (htx : (v.egress n).tx = none)
    (hpoison : (v.item d).poison = []) : s.decide_ n .good = v.startTx n tc (.head d) false := by
  rw [State.decide_]
  refine (if_neg (by simp [hlink, hidle])).trans ?_
  simp only [hcand, ← hv, hpick, preempt_idle htx, readStart_good hpoison]

theorem txDone_ended {s v w : State} {n : Nat} {x : TxFrame} (htx : (s.egress n).tx = some x) (hend : x.ended = true)
    (hbad : x.bad = false) (hsplit : x.split = false) (hstart : x.start ≤ s.raw)
    (hv : v = (s.shape n).setEgress n { (s.shape n).egress n with tx := none })
    (hw : w = ((v.portCount n 2).portCount n 3 x.bytes.length).emit (.frame n x.bytes)) :
    s.txDone n = match x.item with
      | none => w
      | some (q, d) => match x.hop with
        | some (vc, k) => (if x.resent then w else w.removeEntry q d).toReplay n vc k d x.resent
        | none => if 256 ≤ n then (if x.resent then w.gableResent n else (w.removeEntry q d).gableSent n q d)
          else (w.removeEntry q d).releaseCopy d := by
  rw [State.txDone, htx]
  refine (if_neg (by simp [hend, hstart])).trans ?_
  subst hv hw
  simp [hbad, hsplit] <;> rfl

/-! The obligation -/

theorem rxKey_eq (n : Nat) : (if n < 256 then n else n + 256) = rxKey n := rfl

/-- Settles O15: headers, ends, the scheduler's choice, sent frames and the timers of the frame path. -/
theorem frames : Obligations.Frames := by
  unfold Obligations.Frames
  rintro t port s u n hu rfl
  refine ⟨?header, ?ended, ?decision, ?sent, ?verify, ?held, ?idle, ?age, ?grant⟩
  case header =>
    intro vc stamp f hup
    refine ⟨fun k hn hahead => ?_, ?_, fun hn => takeHeaders_single t vc.val stamp f hup, fun k hn hproto => ?_,
      fun hn htype => ?_⟩
    · change execFrameHeaderReceived t port vc stamp f s = _
      rw [execFrameHeaderReceived, ← hu]
      have hrest : u.fp.ahead - 1 = k := by rw [hahead]; rfl
      refine ((if_neg (Nat.not_le.2 hn)).trans (if_pos (by simp [hahead]))).trans ?_
      rw [hrest]
    · rintro more v hn hahead rfl rfl
      change execFrameHeaderReceived t port vc stamp f s = _
      rw [execFrameHeaderReceived, ← hu]
      exact (if_neg (Nat.not_le.2 hn)).trans (if_neg (by simp [hahead]))
    · rw [State.ingress]
      refine Eq.trans (congrArg (fun x => State.stage5 x port.val) ?_) (stage5_idle (rx_setRx_some _ _ _) rfl)
      rw [State.stages]
      simp only [hproto] <;> rfl
    · change execFrameHeaderReceived t port vc stamp f s = _
      rw [execFrameHeaderReceived, ← hu]
      exact (if_pos hn).trans (congrArg Host.Outcome.next ((if_pos hup).trans (gableHeader_gable hn htype)))
  case ended =>
    rintro r reasm k top v rfl hrx hv rfl
    have hexec (ok : Bool) : exec (.frameEndReceived t port ok reasm) s = .next (u.rxEnd port.val ok reasm) := by
      subst hu
      rfl
    refine ⟨?_, fun hbad hlen => ?_, fun hbad hlen htop => ?_, fun hbad hlen htop hfcs => ?_,
      fun c w hbad hlen htop hfcs hc hw => ?_⟩ <;> rw [hexec]
    · rw [rxEnd_codewords reasm hrx, hv, rxKey_eq]
    · exact congrArg Host.Outcome.next (rxEnd_short hrx hbad hv hlen)
    · exact congrArg Host.Outcome.next (rxEnd_long hrx hbad hv hlen htop)
    · exact congrArg Host.Outcome.next (rxEnd_fcs hrx hbad hv hlen htop hfcs)
    · exact congrArg Host.Outcome.next (rxEnd_control hrx hbad hv hlen htop hfcs hc hw)
  case decision =>
    intro tc gate d tcs v hn hlink hidle hcand hv hvcand htx hpre hrelay htc hmay hpoison
    change execEgressDecision t port .good s = _
    rw [execEgressDecision, ← hu]
    exact congrArg Host.Outcome.next ((if_pos hn).trans
      (decide_starts hlink hidle hcand hv (pick_head hvcand htx hpre hrelay htc hmay) htx hpoison))
  case sent =>
    intro x v w htx hend hbad hsplit hhop hstart hv hw
    have hexec : exec (.frameTxComplete t port) s = .next (u.txDone port.val) := by
      subst hu
      rfl
    rw [hexec, txDone_ended htx hend hbad hsplit hstart hv hw, hhop]
    refine ⟨fun hitem => by rw [hitem], fun q d hn hitem => ?_, fun q d hn hfresh hitem => ?_⟩
    · simp only [hitem, if_neg (Nat.not_le.2 hn)]
    · simp only [hitem, if_pos hn, hfresh]
      rfl
  case verify =>
    rintro p k rfl hen
    constructor
    · change execPreemptVerify t p true s = _
      rw [execPreemptVerify, ← hu]
      exact (if_neg (by simp [hen])).trans (if_pos rfl)
    · change execPreemptVerify t p false s = _
      rw [execPreemptVerify, ← hu]
      exact (if_neg (by simp [hen])).trans (if_neg (by simp))
  case held =>
    rintro fn i r h e hs rfl rfl hheld hmem hvalid hticks hold
    have hany : (u.recov fn.val).held.any
        (fun e => decide (e.2.2.2 + (u.recovCfg fn.val).resetTicks ≤ u.strobes)) = true :=
      List.any_eq_true.2 ⟨e, hmem, decide_eq_true hold⟩
    change execRecoveryHeldTimeout t fn s = _
    rw [execRecoveryHeldTimeout, ← hu]
    rw [hheld] at hany ⊢
    exact if_pos ⟨hvalid, hticks, hany⟩
  case idle =>
    rintro fn i r rfl rfl hvalid hticks hany hold
    change execRecoveryIdleTimeout t fn s = _
    rw [execRecoveryIdleTimeout, ← hu]
    exact if_pos ⟨hvalid, hticks, by simp [hany], hold⟩
  case age =>
    rintro entry i a v rfl hseen hvalid hstatic hold rfl
    change execAgeExpiry t entry s = _
    rw [execAgeExpiry, ← hu]
    simp only [hseen]
    exact if_pos ⟨hvalid, by simp [hstatic], State.elapsed_iff.2 hold⟩
  case grant =>
    intro p w b
    subst hu
    rfl

end Sys2Proof.Machine
end


section
/-! SUPPORT. UART channels and the sentence engine: O16, O17. -/
namespace Sys2Proof.Machine
open Sys2Proof

/-! UART channels (R302 to R309) -/

theorem uaTake_host {s : State} {p : Party} {c : Nat} (hown : s.fb Fd.UAn_CFG_OWNER [c] = false) :
    s.uaTake p c = (s.uaClear c (Tab.get 0 (s.ua c).seen p.ix - 1)).setUa c { s.ua c with
      rx := (s.ua c).rx.tail, seen := Tab.erase (s.ua c).seen p.ix } := by
  have hno : ¬ s.fb Fd.UAn_CFG_OWNER [c] = true := by simp [hown]
  rw [State.uaTake]
  simp only [if_neg hno]

theorem uaTake_engine {s : State} {p : Party} {c : Nat} (hown : s.fb Fd.UAn_CFG_OWNER [c] = true) :
    s.uaTake p c = (s.uaClear c (Tab.get 0 (s.ua c).seen p.ix - 1)).setUa c { s.ua c with
      seen := Tab.erase (s.ua c).seen p.ix } := by
  rw [State.uaTake]
  simp only [if_pos hown]

theorem uaWrite_queued {s : State} {c : Nat} {b : BitVec 8} (hact : s.acting = true) (hop : s.operating = true)
    (hown : s.fb Fd.UAn_CFG_OWNER [c] = false) (hroom : (s.ua c).tx.length < 64) (hfull : (s.ua c).fullAt ≠ pclk s.raw + 1) :
    s.uaWrite c b = (s.setUa c { s.ua c with tx := (s.ua c).tx ++ [b] }).uaPump c :=
  if_neg (by simp [hact, hop, hown, hroom, hfull])

theorem uaWrite_refused {s : State} {c : Nat} {b : BitVec 8}
    (h : s.fb Fd.UAn_CFG_OWNER [c] = true ∨ 64 ≤ (s.ua c).tx.length ∨ (s.ua c).fullAt = pclk s.raw + 1) :
    s.uaWrite c b = s.uaFlag c Fd.UAn_STAT_TXOVR := by
  refine if_pos ?_
  obtain h | h | h := h <;> simp [h]

/-- Settles O16: reads, writes and line events of a UART channel. -/
theorem serial : Obligations.Serial := by
  unfold Obligations.Serial
  rintro t ch s u c hu rfl
  refine ⟨?stat, ?data, ?write, ?flags, ?brk, ?sent, ?char, ?unheard⟩
  case stat =>
    rintro p v rfl
    refine ⟨fun hp => ?_, fun hp => ?_⟩ <;> change execUaStatRead t p ch s = _ <;> rw [execUaStatRead, ← hu] <;>
      refine congrArg Host.Outcome.next ?_
    · exact if_neg (by simp [hp])
    · exact if_pos hp
  case data =>
    rintro p v rfl
    refine ⟨fun hp => ?_, fun hp hown => ?_, fun hp hown => ?_⟩ <;> change execUaDataRead t p ch s = _ <;>
      rw [execUaDataRead, ← hu] <;> refine congrArg Host.Outcome.next ?_
    · exact if_neg (by simp [hp])
    · exact (if_pos hp).trans (uaTake_host hown)
    · exact (if_pos hp).trans (uaTake_engine hown)
  case write =>
    rintro p b v rfl hact hop
    have hexec : exec (.uaDataWrite t p ch b) s = .next ((u.hostWrite p).uaWrite ch.val b) := by
      subst hu
      rfl
    rw [hexec]
    exact ⟨fun hown hroom hfull => congrArg Host.Outcome.next (uaWrite_queued hact hop hown hroom hfull),
      fun h => congrArg Host.Outcome.next (uaWrite_refused h)⟩
  case flags =>
    intro p v
    subst hu
    rfl
  case brk =>
    rintro p v w rfl
    have hexec : exec (.uaBreak t p ch v) s = .next ((u.hostWrite p).uaTxctl ch.val v) := by
      subst hu
      rfl
    rw [hexec, State.uaTxctl]
    exact ⟨fun hreq => congrArg Host.Outcome.next
        (if_neg fun h => Bool.false_ne_true (hreq.symm.trans ((Bool.and_eq_true _ _).mp h).1)),
      fun hreq hlive => congrArg Host.Outcome.next (if_pos ((Bool.and_eq_true _ _).mpr ⟨hreq, hlive⟩))⟩
  case sent =>
    rintro b due v hsend hdue rfl
    change execUartCharacterSent t ch s = _
    rw [execUartCharacterSent, ← hu]
    simp only [hsend]
    exact if_pos hdue
  case char =>
    rintro start idle samples e v hhears hstart hhunt rfl rfl
    have htakes : u.uaHears ch.val = true ∧ startConfirmed samples = true ∧ u.uaHunts ch.val idle = true :=
      ⟨hhears, hstart, by simpa [State.uaHunts] using hhunt⟩
    refine ⟨fun hown => ?_, fun hown => ?_⟩ <;> change execUartCharacterReceived t ch start idle samples s = _ <;>
      rw [execUartCharacterReceived, ← hu] <;> refine (if_pos htakes).trans (congrArg Host.Outcome.next ?_)
    · exact if_neg (by simp [hown])
    · exact if_pos hown
  case unheard =>
    intro start idle samples h
    have hignored : ¬ (u.uaHears ch.val = true ∧ startConfirmed samples = true ∧ u.uaHunts ch.val idle = true) := by
      rintro ⟨_, hstart, hhunt⟩
      obtain h | ⟨hbrk, hidle⟩ := h
      · simp [h] at hstart
      · simp [State.uaHunts, hbrk, Nat.not_le.2 hidle] at hhunt
    change execUartCharacterReceived t ch start idle samples s = _
    rw [execUartCharacterReceived, ← hu]
    exact if_neg hignored

/-! Sentences (R255 to R268) -/

theorem process_ckErr {s : State} {x : Sentence} (h : (s.talkerGrammar x.rows x.talker).ckOk x.body = false) :
    s.process x = s.ckErr x.talker :=
  if_pos (by simp [h])

theorem process_standby {s : State} {x : Sentence} (h : (s.talkerGrammar x.rows x.talker).ckOk x.body = true)
    (hact : s.acting = false) : s.process x = (s.senCount x.talker 0).wr64 Reg.SEN_TALKt_STAMP_LO Reg.SEN_TALKt_STAMP_HI
      [x.talker] (BitVec.ofNat 64 (x.stamp / 2 ^ 32)) :=
  (if_neg (by simp [h])).trans (if_pos (by simp [hact]))

theorem senCommit_closed {s : State} {w : BitVec 32} (h : s.fb Fd.SEN_TBL_ADDR_OPEN = false) :
    s.senCommit w = s.wr Reg.SEN_TBL_DATAi [7] w := by
  simp [State.senCommit, h]

theorem senCommit_row {s v : State} {w : BitVec 32} (hopen : s.fb Fd.SEN_TBL_ADDR_OPEN = true)
    (hrow : s.f Fd.SEN_TBL_ADDR_INDEX < senSize (s.f Fd.SEN_TBL_ADDR_TABLE)) (hv : v = s.wr Reg.SEN_TBL_DATAi [7] w) :
    s.senCommit w = { v with shd := { v.shd with
      sen := Tab.set 0 v.shd.sen (4096 * s.f Fd.SEN_TBL_ADDR_TABLE + s.f Fd.SEN_TBL_ADDR_INDEX)
        (leNat (bytesOfWords ((List.range 8).map (fun k => v.rd Reg.SEN_TBL_DATAi [k] &&&
          BitVec.ofNat 32 (senMask (s.f Fd.SEN_TBL_ADDR_TABLE) (s.f Fd.SEN_TBL_ADDR_INDEX) k))))) } } := by
  have h : (s.fb Fd.SEN_TBL_ADDR_OPEN && decide (s.f Fd.SEN_TBL_ADDR_INDEX < senSize (s.f Fd.SEN_TBL_ADDR_TABLE))) = true := by
    simp [hopen, hrow]
  rw [State.senCommit, if_pos h, ← hv]

/-- Settles O17: framing timeouts, UDP sentence frames, the backlog, listeners and staged rows. -/
theorem sentenceRows : Obligations.SentenceRows := by
  unfold Obligations.SentenceRows
  intro t s u hu
  refine ⟨?timeout, ?udp, ?backlog, ?listener, ?commit⟩
  case timeout =>
    rintro talker n f rfl rfl htmo hmode hlate
    change execSentenceTimeout t talker s = _
    rw [execSentenceTimeout, ← hu]
    exact if_pos ⟨htmo, hmode, State.elapsed_iff.2 hlate⟩
  case udp =>
    rintro ecc v w d i k htake rfl rfl hk
    refine ⟨fun hnone => ?_, fun n hn hbad => ?_, fun n p hn hpoison hpay => ?_⟩ <;>
      change execUdpSentenceFrame ⟨t, ecc⟩ s = _ <;> rw [execUdpSentenceFrame, ← hu] <;> simp only [htake]
    · rw [← hk, hnone]
    · have hpay : (if (v.item d).poison.isEmpty = true then udpPayload (v.item d).bytes else none) = none := by
        obtain h | h := hbad <;> simp [h]
      rw [← hk, hn]
      simp only [hpay]
    · rw [← hk, hn]
      simp only [hpoison, hpay]
      rfl
  case backlog =>
    rintro x xs v hlog rfl
    have hexec : exec (.sentenceProcess t) s =
        .next (({ u with sen := { u.sen with backlog := xs } } : State).process x) := by
      change execSentenceProcess t s = _
      rw [execSentenceProcess, ← hu]
      simp only [hlog]
    refine ⟨hexec, fun hck => hexec.trans ?_, fun hck hact => hexec.trans ?_⟩
    · exact congrArg Host.Outcome.next (process_ckErr hck)
    · exact congrArg Host.Outcome.next (process_standby hck hact)
  case listener =>
    rintro listener ecc l c d k v w b rfl rfl
    refine ⟨fun hhead hc hown hlive hfree => ⟨?_, fun hread => ?_⟩, fun hhead hact hop => ⟨fun hread hbytes => ?_, fun hread => ?_⟩⟩
    · rintro x hread hbytes rfl
      change execUartListenerSend ⟨t, ecc⟩ listener s = _
      rw [execUartListenerSend, ← hu]
      simp only [hhead, hread, hbytes]
      exact if_pos ⟨hc, hown, hlive, hfree⟩
    · change execUartListenerSend ⟨t, ecc⟩ listener s = _
      rw [execUartListenerSend, ← hu]
      simp only [hhead, hread]
      exact if_pos ⟨hc, hown, hlive, hfree⟩
    · change execUdpListenerSend ⟨t, ecc⟩ listener s = _
      rw [execUdpListenerSend, ← hu]
      simp only [hhead, hread, hbytes]
      exact if_pos ⟨hact, hop⟩
    · change execUdpListenerSend ⟨t, ecc⟩ listener s = _
      rw [execUdpListenerSend, ← hu]
      simp only [hhead, hread]
      exact if_pos ⟨hact, hop⟩
  case commit =>
    rintro p w y v row rfl hv hrowEq
    have hexec : exec (.senTblData7Write t p w) s = .next ((u.hostWrite p).senCommit w) := by
      subst hu
      rfl
    rw [hexec]
    exact ⟨fun hclosed => by rw [senCommit_closed hclosed, hv], fun hopen hrow => by rw [senCommit_row hopen hrow hv, hrowEq]⟩

end Sys2Proof.Machine
end


section
/-! SUPPORT. The bridge: its requests and its side buses: O18, O19. -/
namespace Sys2Proof.Machine
open Sys2Proof

/-- Settles O18: requests, tags, locks and semaphores. -/
theorem bridgeRequests : Obligations.BridgeRequests := by
  unfold Obligations.BridgeRequests
  intro t ecc s u hu
  refine ⟨?take, ?noTag, ?bus, ?acquire, ?release, ?renew⟩
  case take =>
    rintro q tag d v w x hq hop htag htake rfl rfl
    refine ⟨fun hok hpoison => ?_, fun hbad => ?_⟩ <;> change execBridgeRequestTake ⟨t, ecc⟩ s = _ <;>
      unfold execBridgeRequestTake <;> simp only [← hu, hq, htag, htake] <;> refine (if_neg (by simp [hop])).trans ?_ <;>
      refine congrArg Host.Outcome.next ?_
    · exact if_pos ⟨hok, by simp [hpoison]⟩
    · refine if_neg fun h => ?_
      obtain ⟨hok, hempty⟩ := h
      obtain hno | hpoison := hbad
      · exact Bool.false_ne_true (hno.symm.trans hok)
      · exact hpoison (List.isEmpty_iff.1 hempty)
  case noTag =>
    intro q hq hop htag
    change execBridgeRequestTake ⟨t, ecc⟩ s = _
    unfold execBridgeRequestTake
    simp only [← hu]
    rw [hq]
    have hno : ¬ (!u.operating) = true := by simp [hop]
    refine (if_neg hno).trans ?_
    rw [htag]
  case bus =>
    rintro bus x b rfl hnext
    refine ⟨fun hop => ?_, fun hop hlock hown => ?_, fun hop hown => ?_⟩
    · change execBridgeLock t bus s = _
      rw [execBridgeLock, ← hu]
      simp only [hnext]
      exact if_pos hop
    · change execBridgeUnlock t bus s = _
      rw [execBridgeUnlock, ← hu]
      simp only [hnext]
      exact (if_pos hop).trans (if_pos ⟨hlock, hown⟩)
    · change execBridgeUnlock t bus s = _
      rw [execBridgeUnlock, ← hu]
      simp only [hnext]
      exact (if_pos hop).trans (if_neg fun h => hown h.2)
  case acquire =>
    rintro x k m hnext rfl rfl
    refine ⟨fun hfree => ?_, fun hheld hfull => ?_, fun hheld hroom => ?_⟩ <;> change execSemAcq t s = _ <;>
      rw [execSemAcq, ← hu] <;> simp only [hnext]
    · exact if_pos (by simp [hfree])
    · exact (if_neg (by simpa [Option.isSome_iff_ne_none] using hheld)).trans (if_pos hfull)
    · exact (if_neg (by simpa [Option.isSome_iff_ne_none] using hheld)).trans (if_neg (Nat.not_le.2 hroom))
  case release =>
    rintro x k hnext rfl
    refine ⟨fun hheld hown => ?_, fun hown => ?_⟩ <;> change execSemRel t s = _ <;> rw [execSemRel, ← hu] <;>
      simp only [hnext]
    · exact if_pos ⟨hheld, hown⟩
    · exact if_neg fun h => hown h.2
  case renew =>
    rintro x k hnext rfl
    refine ⟨fun hheld hown => ?_, fun hown => ?_⟩ <;> change execSemRenew t s = _ <;> rw [execSemRenew, ← hu] <;>
      simp only [hnext]
    · exact if_pos ⟨hheld, hown⟩
    · exact if_neg fun h => hown h.2

/-! Side buses (R315 to R320) -/

section
variable {s v : State} {b : Nat} {x : Txn}

/-- A bus on which no side-bus select is held starts its next transaction. -/
theorem busStart_next (hnext : s.nextOn b = some x) (hheld : (s.bus b).held = none)
    (hv : v = s.setBus b { s.bus b with active := some x.tag, since := s.raw, losses := 0, held := none }) :
    s.busStart b x.req.op = v.transferOut b x := by
  rw [State.busStart, hnext]
  simp [hheld, hv]

theorem transferOut_read (hb : b < 8) (hop : x.req.op = 1) : s.transferOut b x =
    s.emit (.sideBus b (.transfer 1 (x.req.addr % 128) (s.f Fd.SBb_CFG_SPEED [b]) [] x.req.rlen)) := by
  simp [State.transferOut, hop, hb]

theorem transferOut_write (hb : b < 8) (hop : x.req.op = 2) : s.transferOut b x =
    s.emit (.sideBus b (.transfer 2 (x.req.addr % 128) (s.f Fd.SBb_CFG_SPEED [b]) x.req.wdata 0)) := by
  simp [State.transferOut, hop, hb]

theorem transferOut_writeRead (hb : b < 8) (hop : x.req.op = 3) : s.transferOut b x =
    s.emit (.sideBus b (.transfer 3 (x.req.addr % 128) (s.f Fd.SBb_CFG_SPEED [b]) x.req.wdata x.req.rlen)) := by
  simp [State.transferOut, hop, hb, Nat.not_le.2 hb]

theorem transferOut_spi (hb : 8 ≤ b) (hop : x.req.op = 3) : s.transferOut b x = s.emit (.sideBus b (.transfer 3
    (x.req.addr % 4) (bits (s.rd Reg.SPs_CFG [b - 8]).toNat 10 8) x.req.wdata (max x.req.wlen x.req.rlen))) := by
  simp [State.transferOut, hop, hb, Nat.not_lt.2 hb]

end

/-- Settles O19: transactions, timeouts, recovery and polls of the side buses. -/
theorem bridgeBuses : Obligations.BridgeBuses := by
  unfold Obligations.BridgeBuses
  intro t s u hu
  refine ⟨?start, ?done, ?timeout, ?stretch, ?lockWait, ?stuck, ?recovered, ?poll, ?line⟩
  case start =>
    rintro bus x b v rfl hnext hheld hv
    have hstart (op : Nat) (hop : x.req.op = op) : (s.clock t).busStart bus.val op = v.transferOut bus.val x := by
      rw [← hu, ← hop]
      exact busStart_next hnext hheld hv
    refine ⟨fun hop hb => ?_, fun hop hb => ?_, fun hop hb => ?_, fun hop hb => ?_⟩
    · exact congrArg Host.Outcome.next ((hstart 1 hop).trans (transferOut_read hb hop))
    · exact congrArg Host.Outcome.next ((hstart 2 hop).trans (transferOut_write hb hop))
    · exact congrArg Host.Outcome.next ((hstart 3 hop).trans (transferOut_writeRead hb hop))
    · exact congrArg Host.Outcome.next ((hstart 3 hop).trans (transferOut_spi hb hop))
  case done =>
    rintro bus b x rd rfl hb hact
    refine ⟨fun hop => ?_, ?_, ?_, fun hloss => ?_, fun hloss => ?_⟩
    · change execBridgeTransactionDone t bus (.ok rd) s = _
      rw [execBridgeTransactionDone, ← hu]
      simp only [hact, hop]
      rfl
    · change execBridgeTransactionDone t bus .nackAddr s = _
      rw [execBridgeTransactionDone, ← hu]
      simp only [hact]
      exact if_neg (Nat.not_le.2 hb)
    · change execBridgeTransactionDone t bus .nackData s = _
      rw [execBridgeTransactionDone, ← hu]
      simp only [hact]
      exact if_neg (Nat.not_le.2 hb)
    · change execBridgeTransactionDone t bus .arbLost s = _
      rw [execBridgeTransactionDone, ← hu]
      simp only [hact]
      exact (if_neg (Nat.not_le.2 hb)).trans (congrArg Host.Outcome.next (if_pos hloss))
    · change execBridgeTransactionDone t bus .arbLost s = _
      rw [execBridgeTransactionDone, ← hu]
      simp only [hact]
      exact (if_neg (Nat.not_le.2 hb)).trans (congrArg Host.Outcome.next (if_neg (Nat.not_lt.2 hloss)))
  case timeout =>
    rintro bus b rfl hact hlate
    change execBridgeTimeout t bus s = _
    rw [execBridgeTimeout, ← hu]
    exact if_pos ⟨hact, State.elapsed_iff.2 hlate⟩
  case stretch =>
    intro bus held hact hlong
    change execStretchTimeout t bus held s = _
    rw [execStretchTimeout, ← hu]
    exact if_pos ⟨hact, hlong⟩
  case lockWait =>
    rintro bus b rfl hlock
    change execLockWaitExpiry t bus s = _
    rw [execLockWaitExpiry, ← hu]
    exact if_pos hlock
  case stuck =>
    rintro bus sda since b lease rfl hnew hlow hlong rfl
    change execBusStuck t bus sda since s = _
    rw [execBusStuck, ← hu]
    have hheld : sda = true ∨ (u.bus bus.val).held.isNone = true := by simpa using hlow
    exact if_pos ⟨by simp [hnew], hheld, State.elapsed_iff.2 hlong⟩
  case recovered =>
    rintro bus b rfl hstuck
    change execBusRecovered t bus s = _
    rw [execBusRecovered, ← hu]
    exact if_pos hstuck
  case poll =>
    rintro poll p rfl hvalid hticks hnever
    change execPollInterval t poll s = _
    rw [execPollInterval, ← hu]
    simp only [hnever]
    exact if_pos (by simp [hvalid, hticks])
  case line =>
    rintro bus since b rfl hb hline
    have hlevel (low : Bool) : execSideBandLine t bus low since s = if (low && u.elapsed since 20) = true then
        .next ((List.range 64).foldl (fun x p =>
          if x.pollValid p ∧ bitAt (x.pollWord p 0) 4 ∧ bits (x.pollWord p 0) 3 0 = bus.val then x.runPoll p 1 else x)
            (u.sf Fd.SBb_STAT_LINE [bus.val] 1))
        else .next (u.sf Fd.SBb_STAT_LINE [bus.val] 0) := by
      rw [execSideBandLine, ← hu]
      simp only [if_pos hb, hline]
      cases low && u.elapsed since 20 <;> simp [b2n]
    refine ⟨fun hlong => ?_, fun hshort => ?_, ?_⟩
    · exact (hlevel true).trans (if_pos (State.elapsed_iff.2 hlong))
    · exact (hlevel true).trans (if_neg fun h => Nat.not_le.2 hshort (State.elapsed_iff.1 h))
    · exact (hlevel false).trans (if_neg Bool.false_ne_true)

end Sys2Proof.Machine
end


section
/-! SUPPORT. CAN channels: buffers and bus events: O20, O21. -/
namespace Sys2Proof.Machine
open Sys2Proof

/-! Buffers (R278 to R286) -/

section
variable {s : State} {n m : Nat}

theorem mbPend_buffer (hm : m < 128) : s.mbPend n m = s.fb Fd.FBn_MBm_STAT_PEND [n, m] := if_neg (Nat.ne_of_lt hm)

theorem setPend_buffer (hm : m < 128) (b : Bool) :
    s.setPend n m b = s.sf Fd.FBn_MBm_STAT_PEND [n, m] (b2n b) := if_neg (Nat.ne_of_lt hm)

theorem txRequest_engine (htke : s.mbTke n m = true) : s.txRequest n m = s.txRefuse n m 1 := if_pos htke

theorem txRequest_receiver (htke : s.mbTke n m = false) (hm : m < 128) (hmode : s.mbMode n m ≠ 2) :
    s.txRequest n m = s.txRefuse n m 2 :=
  (if_neg (by simp [htke])).trans (if_pos ⟨hm, hmode⟩)

theorem txRequest_off (htke : s.mbTke n m = false) (hmode : m < 128 → s.mbMode n m = 2)
    (hst : s.fbState n = 4 ∨ s.fbState n = 5) : s.txRequest n m = s.txRefuse n m 3 :=
  (if_neg (by simp [htke])).trans ((if_neg fun h => h.2 (hmode h.1)).trans (if_pos hst))

theorem txRequest_taken (htke : s.mbTke n m = false) (hmode : m < 128 → s.mbMode n m = 2)
    (h4 : s.fbState n ≠ 4) (h5 : s.fbState n ≠ 5) : s.txRequest n m = (s.txStat n 1 0 0).setPend n m true :=
  (if_neg (by simp [htke])).trans ((if_neg fun h => h.2 (hmode h.1)).trans (if_neg (not_or.2 ⟨h4, h5⟩)))

theorem txCancel_none (hp : s.mbPend n m = false) : s.txCancel n m = s.txStat n 1 0 0 := if_pos (by simp [hp])

theorem txCancel_waiting (hp : s.mbPend n m = true) (hbus : s.onBus n m = false) :
    s.txCancel n m = if m = 128 then (((s.setPend n m false).bump Reg.FBn_CNTc [n, 7]).txStat n 1 0 1).setFlag
        Fd.FBn_HP_STAT_CANCELLED [n]
      else (((s.setPend n m false).bump Reg.FBn_CNTc [n, 7]).txStat n 1 0 1).setFlag Fd.FBn_MBm_STAT_CANCELLED [n, m] :=
  (if_neg (by simp [hp])).trans (if_neg (by simp [hbus]))

theorem txCancel_onBus {x : CanTx} (hp : s.mbPend n m = true) (hbus : s.onBus n m = true) (hx : (s.fbc n).tx = some x) :
    s.txCancel n m = (s.setFb n { s.fbc n with tx := some { x with cancelled := true } }).txStat n 1 0 2 := by
  refine ((if_neg (by simp [hp])).trans (if_pos hbus)).trans ?_
  simp only [hx, Option.map_some]

theorem mbsel_plain {v : BitVec 32} (hlock : v.getLsbD 31 = false) :
    s.mbsel n v = (s.unlock n).wr Reg.FBn_MBSEL [n] (BitVec.ofNat 32 (bits v.toNat 7 0)) := by
  rw [State.mbsel, hlock]
  exact if_neg (by simp)

theorem mbsel_locks {v : BitVec 32} {w : State} (hlock : v.getLsbD 31 = true) (hb : bits v.toNat 7 0 < 128)
    (hmode : s.mbMode n (bits v.toNat 7 0) ≠ 2)
    (hw : w = (s.unlock n).wr Reg.FBn_MBSEL [n] (BitVec.ofNat 32 (bits v.toNat 7 0))) :
    s.mbsel n v = ((w.setFb n { w.fbc n with lock := some (bits v.toNat 7 0, s.raw)
                                             shadow := (w.fbc n).words (bits v.toNat 7 0), stored := false }).sf
      Fd.FBn_MBSEL_LOCK [n] 1).sf Fd.FBn_STAT_LOCKED [n] 1 := by
  rw [State.mbsel, hlock, ← hw]
  exact if_pos (by simp [hb, hmode])

theorem mbwin_hp (k : Nat) (v : BitVec 32) (hbuf : s.f Fd.FBn_MBSEL_BUF [n] = 128)
    (hp : s.fb Fd.FBn_HP_STAT_PEND [n] = false) :
    s.mbwin n k v = s.setWords n 128 (Tab.set 0 ((s.fbc n).words 128) k v) := by
  have hfree : ¬ s.mbPend n 128 = true := by simp [State.mbPend, hp]
  rw [State.mbwin, hbuf]
  exact (if_pos (Or.inl rfl)).trans (if_neg hfree)

end

/-- Settles O20: requests, cancels and window accesses of a CAN channel's buffers. -/
theorem canBuffers : Obligations.CanBuffers := by
  unfold Obligations.CanBuffers
  rintro t p ch s u n hu rfl
  refine ⟨?buffer, ?hpReq, ?hpCancel, ?select, ?lockEnd, ?window, ?recover⟩
  case buffer =>
    rintro buf m rfl
    have hreq : exec (.fbTxRequest t p ch buf) s = .next (u.txRequest ch.val buf.val) := by rw [hu]; rfl
    have hcan : exec (.fbTxCancel t p ch buf) s = .next (u.txCancel ch.val buf.val) := by rw [hu]; rfl
    rw [hreq, hcan, ← mbPend_buffer buf.isLt]
    refine ⟨fun htke => ?_, fun htke hmode => ?_, fun htke hmode hst => ?_, fun htke hmode h4 h5 => ?_, fun hp => ?_,
      fun hp hbus => ?_, fun x hp hbus hx => ?_⟩ <;> refine congrArg Host.Outcome.next ?_
    · exact txRequest_engine htke
    · exact txRequest_receiver htke buf.isLt hmode
    · exact txRequest_off htke (fun _ => hmode) hst
    · exact (txRequest_taken htke (fun _ => hmode) h4 h5).trans (setPend_buffer buf.isLt true)
    · exact txCancel_none hp
    · rw [txCancel_waiting hp hbus, if_neg (Nat.ne_of_lt buf.isLt), setPend_buffer buf.isLt]
      rfl
    · exact txCancel_onBus hp hbus hx
  case hpReq =>
    intro hown h4 h5
    have hreq : exec (.fbHpReq t p ch) s = .next (u.txRequest ch.val 128) := by rw [hu]; rfl
    have htke : u.mbTke ch.val 128 = false := hown
    rw [hreq, txRequest_taken htke (fun h => absurd h (Nat.lt_irrefl 128)) h4 h5]
    rfl
  case hpCancel =>
    intro hpend hbus
    have hcan : exec (.fbHpCancel t p ch) s = .next (u.txCancel ch.val 128) := by rw [hu]; rfl
    have hp : u.mbPend ch.val 128 = true := hpend
    rw [hcan, txCancel_waiting hp hbus]
    rfl
  case select =>
    rintro v b w rfl hw
    have hsel : exec (.fbMbselWrite t p ch v) s = .next (u.mbsel ch.val v) := by rw [hu]; rfl
    rw [hsel]
    exact ⟨fun hlock => by rw [mbsel_plain hlock, hw], fun hlock hb hmode => by rw [mbsel_locks hlock hb hmode hw]⟩
  case lockEnd =>
    intro l v hv hlock hlate
    change execLockTmo t ch s = _
    rw [execLockTmo, ← hv]
    simp only [hlock]
    exact if_pos (State.elapsed_iff.2 hlate)
  case window =>
    intro word v hbuf hp
    have hwin : exec (.fbMbwinWrite t p ch word v) s = .next (u.mbwin ch.val word.val v) := by rw [hu]; rfl
    rw [hwin, mbwin_hp word.val v hbuf hp]
  case recover =>
    intro hst
    have hrec : exec (.fbRecover t p ch) s = .next (u.fbRecover ch.val) := by rw [hu]; rfl
    rw [hrec, State.fbRecover, if_pos hst]

/-! Bus events (R287 to R299) -/

section
variable {s : State} {n : Nat}

theorem counts_active (hst : s.fbState n = 2) : s.counts n = true := by simp [State.counts, hst]

/-- A controller with nothing on the wire offers the buffer that wins among its own. -/
theorem canOffer_sends {m : Nat} (hst : s.fbState n = 2) (htx : (s.fbc n).tx = none) (hpow : s.fbPowered = true)
    (hrel : (s.fbc n).released = false) (htt : s.isTt n = false) (hop : s.operating = true)
    (hm : s.choose n (s.offers n) = some m) : s.canOffer n = s.sendSof n m ((s.fbc n).words m) (s.oneShot n m) := by
  simp [State.canOffer, hst, htx, hpow, hrel, htt, hop, hm]

/-- A frame without FDF measures no transmitter delay. -/
theorem tdcOf_classic {x : CanTx} (delay : Option Nat) (htx : (s.fbc n).tx = some x)
    (hfdf : bitAt (msgWord x.words 1) 4 = false) : s.tdcOf n delay = none := by
  simp [State.tdcOf, htx, hfdf]

end

/-- Settles O21: what a CAN channel does at each event of its bus. -/
theorem canBus : Obligations.CanBus := by
  unfold Obligations.CanBus
  rintro t ch s u n hu rfl
  refine ⟨?offer, ?lost, ?error, ?received, ?done, ?integrated, ?detected, ?busOn, ?dwell, ?txd, ?pattern, ?selective⟩
  case offer =>
    intro m hst htx hpow hrel htt hop hm
    have hexec : exec (.canTxOffer t ch) s = .next (u.canOffer ch.val) := by rw [hu]; rfl
    rw [hexec, canOffer_sends hst htx hpow hrel htt hop hm]
  case lost =>
    rintro sof x v hv htx hbuf
    change execArbLost t ch sof s = _
    rw [execArbLost, ← hu, ← hv]
    simp only [htx, if_neg hbuf]
  case error =>
    rintro sof e f delay d v w hpow hst rfl rfl rfl rfl
    have hpassive : (u.fbState ch.val == 3) = false := by rw [hst]; rfl
    change execCanBusError t ch e sof delay s = _
    rw [execCanBusError, ← hu]
    refine (if_neg (by simp [hpow])).trans ((if_pos (counts_active hst)).trans ?_)
    simp only [hpassive, Bool.not_eq_true'] <;> rfl
  case received =>
    rintro sof f w v hpow hst htt rfl rfl
    have hheard : ¬ ((!u.fbPowered) = true ∨ u.fbState ch.val ≠ 2 ∧ u.fbState ch.val ≠ 3 ∧ u.fbState ch.val ≠ 6 ∧
        u.fbState ch.val ≠ 7) := by simp [hpow, hst]
    have hst7 : ¬ u.fbState ch.val = 7 := by simp [hst]
    have hack (x y : State) : (if u.counts ch.val = true ∧ (!(u.fbc ch.val).released) = true then x else y) =
        if (u.fbc ch.val).released = true then y else x := by
      cases (u.fbc ch.val).released <;> simp [counts_active hst]
    refine ⟨fun m hm => ?_, fun hm => ?_⟩ <;> change execCanMessageReceived t ch sof f s = _ <;>
      rw [execCanMessageReceived, ← hu] <;> refine (if_neg hheard).trans ((if_neg hst7).trans ?_) <;>
      simp only [hm, htt, hack] <;> rfl
  case done =>
    rintro sof tdcv x w v htx hbuf rfl hfdf hst rfl
    have h129 : x.buf ≠ 129 := by omega
    have h128 : x.buf ≠ 128 := by omega
    change execCanTxDone t ch sof tdcv s = _
    rw [execCanTxDone, ← hu]
    simp only [htx, tdcOf_classic _ htx hfdf, counts_active hst, if_neg h129, if_neg h128]
    rfl
  case integrated =>
    intro hst
    change execIntegrationDone t ch s = _
    rw [execIntegrationDone, ← hu]
    exact if_pos hst
  case detected =>
    intro hst
    change execIntegrationDone t ch s = _
    rw [execIntegrationDone, ← hu]
    exact (if_neg (by simp [hst])).trans (if_pos hst)
  case busOn =>
    intro hst
    change execBusOn t ch s = _
    rw [execBusOn, ← hu]
    exact if_pos hst
  case dwell =>
    intro hst hdwell hmore
    have hlast : decide (u.f Fd.FBn_ARD_CFG_LAST [ch.val] ≤ (u.fbc ch.val).ardK) = false :=
      decide_eq_false (Nat.not_le.2 hmore)
    change execArdDwellExpiry t ch s = _
    rw [execArdDwellExpiry, ← hu]
    refine (if_pos ⟨hst, State.elapsed_iff.2 hdwell⟩).trans ?_
    simp only [hlast]
    rfl
  case txd =>
    intro since
    refine ⟨fun hbit => ?_, fun hshort => ?_, fun hlong hrel => ?_⟩
    · change execTxdTmo t ch true since s = _
      rw [execTxdTmo, ← hu]
      exact (if_pos rfl).trans (congrArg Host.Outcome.next (if_pos (State.elapsed_iff.2 hbit)))
    · change execTxdTmo t ch true since s = _
      rw [execTxdTmo, ← hu]
      exact (if_pos rfl).trans
        (congrArg Host.Outcome.next (if_neg fun h => Nat.not_le.2 hshort (State.elapsed_iff.1 h)))
    · change execTxdTmo t ch false since s = _
      rw [execTxdTmo, ← hu]
      exact (if_neg Bool.false_ne_true).trans (if_pos ⟨State.elapsed_iff.2 hlong, by simp [hrel]⟩)
  case pattern =>
    rintro wk k rfl hwup hwatch
    refine ⟨fun hswk => ?_, fun hswk => ?_⟩ <;> change execWakePattern t wk s = _ <;>
      rw [execWakePattern, ← hu] <;> refine (if_pos ⟨hwup, hwatch⟩).trans ?_
    · exact if_pos hswk
    · exact if_neg (by simp [hswk])
  case selective =>
    rintro wk k f v rfl harmed hfdf hwatch rfl hmatch
    have hlistens : ¬ ((!u.por.armed.contains wk.val) = true ∨ f.fdf = true ∨ (!u.fbWatches wk.val) = true) := by
      simp only [harmed, hfdf, hwatch]
      decide
    change execSelectiveWakeFrame t wk true f s = _
    rw [execSelectiveWakeFrame, ← hu]
    exact (if_neg hlistens).trans (if_pos ⟨rfl, hmatch⟩)

end Sys2Proof.Machine
end


section
/-! SUPPORT. Power dies, load channels, supplies and event inputs: O22, O23, O24. -/
namespace Sys2Proof.Machine
open Sys2Proof

/-! Links between dies and the dies (R21, R338 to R345) -/

section
variable {s : State} {l seq : Nat}

theorem transfer_good (hup : s.fio.linkDown.contains l = false) (hseq : seq = Tab.get 0 s.fio.linkSeq l) :
    s.transfer l seq true = { s with fio := { s.fio with linkRetries := Tab.set 0 s.fio.linkRetries l 0
                                                         linkSeq := Tab.set 0 s.fio.linkSeq l (seq + 1) } } := by
  refine ((if_neg (by simp only [hup]; decide)).trans (if_pos rfl)).trans ?_
  rw [if_pos hseq]

theorem transfer_repeated (hup : s.fio.linkDown.contains l = false) (hseq : seq ≠ Tab.get 0 s.fio.linkSeq l) :
    s.transfer l seq true = { s with fio := { s.fio with linkRetries := Tab.set 0 s.fio.linkRetries l 0 } } := by
  refine ((if_neg (by simp only [hup]; decide)).trans (if_pos rfl)).trans ?_
  rw [if_neg hseq]

theorem transfer_bad (hup : s.fio.linkDown.contains l = false) (hn : Tab.get 0 s.fio.linkRetries l < 16) :
    s.transfer l seq false = { s with
      fio := { s.fio with linkRetries := Tab.set 0 s.fio.linkRetries l (Tab.get 0 s.fio.linkRetries l + 1) } } :=
  ((if_neg (by simp only [hup]; decide)).trans (if_neg Bool.false_ne_true)).trans (if_pos hn)

theorem transfer_down {v w : State} (hup : s.fio.linkDown.contains l = false) (hn : 16 ≤ Tab.get 0 s.fio.linkRetries l)
    (hv : v = s.drawFree.2)
    (hw : w = ({ v with fio := { v.fio with linkDown := insKey l v.fio.linkDown } } : State).assertErr.logEvent
      (freeCode s.drawFree.1) (BitVec.ofNat 32 l)) :
    s.transfer l seq false = if l = 0 then { w with asd := { w.asd with linkDown := some w.raw } } else w := by
  subst hv hw
  exact ((if_neg (by simp only [hup]; decide)).trans (if_neg Bool.false_ne_true)).trans (if_neg (Nat.not_lt.2 hn))

/-- A transfer that is no new word of the field link says nothing of a disturbance. -/
theorem good_transfer {t : Nat} {u : State} {field : Bool} {burst : Option Bool} (hu : u = s.clock t)
    (hno : burst = none ∨ (field && u.delivers 1 seq true) = false) :
    execLinkTransferReceived t field seq (.good burst) s = .next (u.transfer (b2n field) seq true) := by
  cases burst with
  | none => rw [execLinkTransferReceived, ← hu]
  | some b =>
    have hnot : (field && u.delivers 1 seq true) = false := hno.resolve_left (Option.some_ne_none b)
    rw [execLinkTransferReceived, ← hu]
    simp [hnot]

end

section
variable {s v : State} {d : Nat} {f : LoadFrame} (hf : Tab.get none s.fio.flight d = some f)
  (hpow : (s.die d).powered = true)
  (hv : v = { s with fio := { s.fio with flight := Tab.set none s.fio.flight d none } })
include hf hpow hv

theorem dieFrame_good (hnext : (s.die d).next = some f.seq) : s.dieFrame d true = (v.setDie d { s.die d with
    next := some (f.seq + 1), streak := (s.die d).streak + 1, wdt := some s.wall
    got := if f.tick then some (f, (s.die d).streak + 1) else (s.die d).got }).told (fun x => x.set0 (State.linkFld d) 1) := by
  rw [State.dieFrame, hf]
  refine (if_neg (by simp [hpow])).trans ?_
  subst hv
  simp [hnext]

theorem dieFrame_bad : s.dieFrame d false = v.setDie d { s.die d with streak := 0 } := by
  rw [State.dieFrame, hf]
  refine (if_neg (by simp [hpow])).trans ?_
  subst hv
  exact if_neg (by simp)

end

/-- Settles O22: transfers and frames on the links to the dies, the latch symbol, the watchdog and power-up. -/
theorem dieLinks : Obligations.DieLinks := by
  unfold Obligations.DieLinks
  intro t s u hu
  refine ⟨?transfer, ?burst, ?refresh, ?frame, ?latch, ?watchdog, ?powerUp⟩
  case transfer =>
    rintro field seq l burst rfl hup
    have hbad : exec (.linkTransferReceived t field seq .bad) s = .next (u.transfer (b2n field) seq false) := by
      rw [hu]
      rfl
    refine ⟨fun hseq hno => ?_, fun hseq => ?_, fun hn => ?_, fun hn v w hv hw => ?_⟩
    · refine (good_transfer hu ?_).trans (congrArg Host.Outcome.next (transfer_good hup hseq))
      exact hno.symm.imp_right fun hfld => by simp [hfld]
    · refine (good_transfer hu (Or.inr ?_)).trans (congrArg Host.Outcome.next (transfer_repeated hup hseq))
      cases field with
      | false => rfl
      | true =>
        have hne : (seq == Tab.get 0 u.fio.linkSeq 1) = false := beq_false_of_ne hseq
        simp [State.delivers, hne]
    · exact hbad.trans (congrArg Host.Outcome.next (transfer_bad hup hn))
    · exact hbad.trans (congrArg Host.Outcome.next (transfer_down hup hn hv hw))
  case burst =>
    intro seq start hup hseq
    have hnew : (true && u.delivers 1 seq true) = true := by simp only [State.delivers, hup, hseq]; simp
    change execLinkTransferReceived t true seq (.good (some start)) s = _
    rw [execLinkTransferReceived, ← hu]
    exact congrArg Host.Outcome.next (if_pos hnew)
  case refresh =>
    rintro k rfl hlong hbefore hpast hflow hwords
    change execRefreshFrameSend t s = _
    rw [execRefreshFrameSend, ← hu]
    exact if_pos ⟨hlong, hbefore, hpast, hflow, hwords⟩
  case frame =>
    rintro die d f v rfl hf hpow hnext hv
    have hexec (ok : Bool) : exec (.commandFrameReceived t die ok) s = .next (u.dieFrame die.val ok) := by
      rw [hu]
      rfl
    rw [hexec, hexec, dieFrame_good hf hpow hv hnext, dieFrame_bad hf hpow hv]
    exact ⟨rfl, rfl⟩
  case latch =>
    intro die hdue hpow
    change execLatchSymbol t die s = _
    rw [execLatchSymbol, ← hu]
    exact if_pos ⟨hdue, hpow⟩
  case watchdog =>
    rintro die d w rfl hw hpow hsafe hlate
    change execWatchdogExpiry t die s = _
    rw [execWatchdogExpiry, ← hu]
    simp only [hw]
    exact if_pos ⟨hpow, by simp [hsafe], hlate⟩
  case powerUp =>
    rintro die d v rfl hv
    change execPowerDiePowerUp t die s = _
    rw [execPowerDiePowerUp, ← hu]
    simp only [← hv]

/-! Load channels (R325 to R337) -/

section
variable {s : State} {n x on : Nat} (hon : on = dutyOf (s.lc n).word * s.perNs n / 4096)
include hon

theorem pwmStart_off (h : on = 0) : s.pwmStart n x = (s.setLc n { s.lc n with
    pwmNext := some (x + s.perNs n), want := false, phaseEnd := none }).follow n x := by
  subst hon
  exact if_pos h

theorem pwmStart_plain (hlow : 2000 ≤ on) (hhigh : on + 2000 ≤ s.perNs n) : s.pwmStart n x = (s.setLc n { s.lc n with
    pwmNext := some (x + s.perNs n), want := true, phaseEnd := some (x + on) }).follow n x := by
  subst hon
  have h0 : dutyOf (s.lc n).word * s.perNs n / 4096 ≠ 0 := by omega
  exact (if_neg h0).trans ((if_neg (Nat.not_lt.2 hlow)).trans (if_neg (Nat.not_lt.2 hhigh)))

end

/-- Settles O23: pulses, periods, blanking, shorts, retries, thermal limits and readings of a load channel. -/
theorem loadEvents : Obligations.LoadEvents := by
  unfold Obligations.LoadEvents
  rintro t ls s u w n rfl hu hw
  have hw' : (s.clock t).settle ls.val = w := by rw [← hu, hw]
  refine ⟨?rise, ?fall, ?period, ?duty, ?blank, ?short, ?retry, ?thermal, ?restart, ?cold, ?clear, ?reading⟩
  case rise =>
    intro p hop hpulse hbase hend hoff
    change execPulseEdge t ls true s = _
    rw [execPulseEdge, ← hu]
    simp only [hop, hpulse, if_true]
    exact if_pos ⟨hbase, hend, by simp [hoff]⟩
  case fall =>
    intro hop
    change execPulseEdge t ls false s = _
    rw [execPulseEdge, ← hu, hw]
    exact (if_neg Bool.false_ne_true).trans (if_pos hop)
  case period =>
    intro x hnext hop hdue
    change execPwmPeriodStart t ls s = _
    rw [execPwmPeriodStart, ← hu, hw]
    simp only [hnext]
    exact if_pos ⟨hop, hdue⟩
  case duty => exact fun x on hon => ⟨pwmStart_off hon, pwmStart_plain hon⟩
  case blank =>
    intro e hblank hon hdue
    refine ⟨?_, ?_⟩
    · change execBlankingEnd t ls true s = _
      rw [execBlankingEnd, hw', hblank]
      exact (if_pos ⟨hon, hdue⟩).trans (if_pos rfl)
    · rintro v rfl
      change execBlankingEnd t ls false s = _
      rw [execBlankingEnd, hw', hblank]
      exact (if_pos ⟨hon, hdue⟩).trans (if_neg Bool.false_ne_true)
  case short =>
    intro since hon hblank hlong hout
    change execShort t ls since s = _
    rw [execShort, hw']
    exact if_pos ⟨hon, by simp [hblank], State.elapsed_iff.2 hlong, hout⟩
  case retry =>
    intro due temp hretry hdue htemp
    change execRetryIntervalExpiry t ls temp s = _
    rw [execRetryIntervalExpiry, ← hu]
    simp only [hretry]
    exact if_pos ⟨hdue, htemp⟩
  case thermal =>
    rintro tl v rfl rfl
    change execThermal t ls false s = _
    rw [execThermal, hw']
    exact if_neg Bool.false_ne_true
  case restart =>
    intro hhot
    change execThermalRestart t ls s = _
    rw [execThermalRestart, hw']
    exact if_pos hhot
  case cold =>
    intro hcold
    change execThermalRestart t ls s = _
    rw [execThermalRestart, hw']
    exact if_neg (by simp [hcold])
  case clear =>
    rintro p v rfl
    rw [hu]
    rfl
  case reading =>
    intro acq i v temp hpow hfield hacq hslot
    change execLoadReading t ls acq i v temp s = _
    rw [execLoadReading, hw']
    exact if_pos ⟨hpow, hfield, hacq, hslot⟩

/-! Supplies and event inputs (R329, R333, R346 to R349) -/

theorem vlsLow_new {s : State} {g : Nat} (hnew : s.fio.uv.contains g = false) :
    s.vlsLow g = (groupChans g).foldl (fun x n => (x.diag n 7).follow n x.wall)
      (({ s with fio := { s.fio with uv := insKey g s.fio.uv } } : State).told (fun x =>
        (x.set0 Fd.FIO_STAT_VLS (setBits (x.f Fd.FIO_STAT_VLS) g g 0)).raise Fd.FIO_EVT_VLS_UV [] g)) :=
  if_neg (by simp only [hnew]; decide)

/-- Settles O24: supply limits, losses and returns, and the event inputs. -/
theorem supplyInputs : Obligations.SupplyInputs := by
  unfold Obligations.SupplyInputs
  intro t s u hu
  refine ⟨?overCurrent, ?lost, ?restored, ?transition, ?confirm⟩
  case overCurrent =>
    rintro die which d n v w rfl hv habove hfirst hn rfl
    have hv' : (dieChans die.val).foldl State.settle (s.clock t) = v := by rw [← hu, hv]
    change execGroupOc t die which s = _
    rw [execGroupOc, hv']
    simp only [hn]
    exact if_pos ⟨habove, Or.inl hfirst⟩
  case lost =>
    rintro group g v w rfl hv hnew hw
    have hv' : (groupChans group.val).foldl State.settle (s.clock t) = v := by rw [← hu, hv]
    have hlow : v.vlsLow group.val = w := (vlsLow_new hnew).trans hw.symm
    constructor
    · change execVlsUv t group false s = _
      rw [execVlsUv, hv', hlow, if_neg Bool.false_ne_true]
    · change execVlsUv t group true s = _
      rw [execVlsUv, hv', hlow, if_pos rfl]
  case restored =>
    rintro group g v w rfl hv hw
    have hv' : (groupChans group.val).foldl State.settle (s.clock t) = v := by rw [← hu, hv]
    refine ⟨fun hno => ?_, fun hwas => ?_⟩ <;> change execVlsRestore t group s = _ <;> rw [execVlsRestore, hv', hw]
    · exact if_neg fun h => Bool.false_ne_true (hno.symm.trans h)
    · exact if_pos hwas
  case transition =>
    rintro ein n level v rfl hball rfl
    refine ⟨fun hfilt => ?_, fun hfilt => ?_⟩ <;> change execEinTransition t ein level s = _ <;>
      rw [execEinTransition, ← hu] <;> refine (if_neg hball).trans ?_
    · exact if_neg hfilt
    · exact if_pos hfilt
  case confirm =>
    rintro ein n rfl hlong
    have hexec : exec (.einConfirm t ein) s = .next (u.einConfirm ein.val) := by
      change execEinConfirm t ein s = _
      rw [execEinConfirm, ← hu]
      exact if_pos (State.elapsed_iff.2 (by rw [← Nat.add_assoc]; exact hlong))
    refine ⟨fun hseen => hexec.trans (congrArg Host.Outcome.next ?_), hexec⟩
    exact if_pos (by simp [hseen])

end Sys2Proof.Machine
end


section
/-! SUPPORT. Leases, and the Cellar's weighings and commands: O25, O26, O27. -/
namespace Sys2Proof.Machine
open Sys2Proof

/-! Leases (R172, R246, R409) -/

theorem revokeService_expired {s : State} {q v : Nat} (hv : v = Tab.get 0 s.ldr.owners q) (hown : v ≠ 0)
    (hold : v - 1 + s.leaseTicks ≤ s.strobes) :
    s.revokeService q = ({ s with ldr := { s.ldr with owners := Tab.set 0 s.ldr.owners q 0 } } : State).leaseRevoked := by
  subst hv
  exact if_pos ⟨hown, hold⟩

theorem revokeService_held {s : State} {q v : Nat} (hv : v = Tab.get 0 s.ldr.owners q)
    (hnew : s.strobes < v - 1 + s.leaseTicks) : s.revokeService q = s := by
  subst hv
  exact if_neg fun h => Nat.not_le.2 hnew h.2

theorem revokeCopies_one {s : State} {q d : Nat} (h : s.expiredCopies q = [d]) :
    s.revokeCopies q = (s.flushCopy q d).leaseRevoked := by
  rw [State.revokeCopies, h, List.foldl_cons, List.foldl_nil]

theorem revokeCopies_none {s : State} {q : Nat} (h : s.expiredCopies q = []) : s.revokeCopies q = s := by
  rw [State.revokeCopies, h, List.foldl_nil]

/-- Settles O25: an expired lease frees its resource, and a lease in force changes nothing. -/
theorem leaseExpiry : Obligations.LeaseExpiry := by
  unfold Obligations.LeaseExpiry
  intro t s u hu
  refine ⟨?service, ?copy, ?ring, ?lock, ?sema⟩
  case service =>
    rintro q n v rfl hv
    have hexec : exec (.leaseExpiry t (.service q)) s = .next (u.revokeService (2048 + q.val)) := by rw [hu]; rfl
    exact ⟨fun hown hold => hexec.trans (congrArg Host.Outcome.next (revokeService_expired hv hown hold)),
      fun hnew => hexec.trans (congrArg Host.Outcome.next (revokeService_held hv hnew))⟩
  case copy =>
    intro q
    have hexec : exec (.leaseExpiry t (.copy q)) s = .next (u.revokeCopies q.val) := by rw [hu]; rfl
    exact ⟨fun h => hexec.trans (congrArg Host.Outcome.next (revokeCopies_none h)),
      fun d h => hexec.trans (congrArg Host.Outcome.next (revokeCopies_one h))⟩
  case ring =>
    rintro k r v rfl
    have hexec : exec (.leaseExpiry t (.ring k)) s = .next (u.revokeRing k.val) := by rw [hu]; rfl
    refine ⟨fun hen hold hv => ⟨?_, hexec.trans (congrArg Host.Outcome.next (if_pos ⟨hen, hold⟩))⟩,
      fun hnew => hexec.trans (congrArg Host.Outcome.next (if_neg fun h => Nat.not_le.2 hnew h.2))⟩
    rw [State.stopRing, ← hv]
  case lock =>
    intro b
    rw [hu]
    rfl
  case sema =>
    intro k
    rw [hu]
    rfl

/-! Weighings (R346 to R360) -/

theorem State.elapsedW_iff {s : State} {w d : Nat} : s.elapsedW w d = true ↔ w + d ≤ s.wall := by simp [State.elapsedW]

theorem due_idle {x : CelCh} {w : Nat} (hseg : x.seg = none) (hidle : x.phase = .idle)
    (hchecked : x.checked + 600000000000 ≤ w) (hat : x.idleAt ≤ w) :
    (x.due w).seg = some 0 ∧ (x.due w).segAt = max (x.checked + 600000000000) x.idleAt := by
  have hdue : x.seg.isNone = true ∧ x.phase = .idle ∧ max (x.checked + 600000000000) x.idleAt ≤ w :=
    ⟨by simp [hseg], hidle, Nat.max_le.2 ⟨hchecked, hat⟩⟩
  rw [CelCh.due]
  simp only [if_pos hdue, and_self]

section
variable {x : CelCh} {mean : Frac}

theorem zeroGoal_near (hhigh : (x.zofs.addInt (x.d / 2)).lt mean = false)
    (hlow : mean.lt (x.zofs.addInt (-(x.d / 2))) = false) : x.zeroGoal mean = mean :=
  (if_neg (by simp [hhigh])).trans (if_neg (by simp [hlow]))

theorem zeroGoal_up (hhigh : (x.zofs.addInt (x.d / 2)).lt mean = true) : x.zeroGoal mean = x.zofs.addInt (x.d / 2) :=
  if_pos hhigh

theorem zeroGoal_down (hhigh : (x.zofs.addInt (x.d / 2)).lt mean = false)
    (hlow : mean.lt (x.zofs.addInt (-(x.d / 2))) = true) : x.zeroGoal mean = x.zofs.addInt (-(x.d / 2)) :=
  (if_neg (by simp [hhigh])).trans (if_pos hlow)

end

/-- Settles O26: the course of a weighing, zero tracking, reference checks, records and beacons. -/
theorem cellarWeighing : Obligations.CellarWeighing := by
  unfold Obligations.CellarWeighing
  rintro t lc cal s u c x hu rfl hx
  have hch : u.celCh lc.val = x := hx.symm
  refine ⟨?start, ?settled, ?window, ?cleared, ?zero, ?goal, ?check, ?due, ?resume, ?live, ?beacon, ?absent, ?send⟩
  case start =>
    rintro sample v y hv rfl huse hidle hload
    have hv' : (s.clock t).calApply true = v := by rw [← hu, hv]
    change execWeighingStart t lc sample s = _
    rw [execWeighingStart, hv']
    exact if_pos ⟨huse, hidle, hload⟩
  case settled =>
    intro w hphase hold
    change execSettleEnd t lc s = _
    rw [execSettleEnd, ← hu, hch]
    simp only [hphase]
    exact if_pos hold
  case window =>
    rintro w why sum lo hi least most k hphase hold rfl
    change execWeighWindowEnd t lc sum lo hi least most k cal s = _
    rw [execWeighWindowEnd, ← hu, hch]
    simp only [hphase]
    exact if_pos hold
  case cleared =>
    intro sample hphase hlow
    change execLoadClear t lc sample s = _
    rw [execLoadClear, ← hu, hch]
    exact if_pos ⟨hphase, hlow⟩
  case zero =>
    rintro sum lo hi mean goal z v huse hon hidle hat htracked hsteady rfl rfl
    have hruns : x.inUse = true ∧ x.p 7 = 1 ∧ x.phase = .idle ∧ u.elapsedW x.idleAt 1000000000 = true ∧
        u.elapsedW x.tracked 1000000000 = true ∧ x.steady sum 19200 lo hi = true :=
      ⟨huse, hon, hidle, State.elapsedW_iff.2 hat, State.elapsedW_iff.2 htracked, hsteady⟩
    refine ⟨fun hok => ?_, fun hbad hnew hz hv => ?_⟩ <;> change execZeroTracking t lc sum lo hi cal s = _ <;>
      rw [execZeroTracking, ← hu, hch] <;> refine (if_pos hruns).trans ?_
    · simp only [hok]
      rfl
    · simp only [hbad, hnew]
      rw [hv, hz]
      rfl
  case goal => exact fun mean => ⟨zeroGoal_near, zeroGoal_up, zeroGoal_down⟩
  case check =>
    rintro y k rfl hfree hidle hseg hold
    have hruns : (x.due u.wall).seg.isSome = true ∧ (!(x.due u.wall).held) = true ∧ (x.due u.wall).phase = .idle ∧
        (x.due u.wall).segAt + 2000000 ≤ u.wall := ⟨by simp [hseg], by simp [hfree], hidle, hold⟩
    have hnext : (x.due u.wall).seg.getD 0 = k := by simp [hseg]
    refine ⟨?_, ?_, ?_⟩
    · change execReferenceCheck t lc none cal s = _
      rw [execReferenceCheck, ← hu, hch]
      refine (if_pos hruns).trans ?_
      rw [hnext]
    · change execReferenceCheck t lc (some true) cal s = _
      rw [execReferenceCheck, ← hu, hch]
      exact if_pos hruns
    · change execReferenceCheck t lc (some false) cal s = _
      rw [execReferenceCheck, ← hu, hch]
      exact if_pos hruns
  case due => exact due_idle
  case resume =>
    intro hheld hidle hat
    change execReferenceCheckResume t lc s = _
    rw [execReferenceCheckResume, ← hu, hch]
    exact if_pos ⟨hheld, hidle, State.elapsedW_iff.2 hat⟩
  case live =>
    intro sample centre hlive huse hat
    change execLivePeriod t lc sample centre cal s = _
    rw [execLivePeriod, ← hu, hch]
    exact if_pos ⟨hlive, huse, State.elapsedW_iff.2 hat⟩
  case beacon =>
    rintro v hat hflight rfl
    have hdue : u.elapsedW u.cel.frameAt 1000000 = true ∧ u.cel.flight.isNone = true :=
      ⟨State.elapsedW_iff.2 hat, by simp [hflight]⟩
    refine ⟨fun hop => ?_, fun hop => ?_⟩ <;> change execBeacon t s = _ <;> rw [execBeacon, ← hu] <;>
      refine (if_pos hdue).trans (congrArg Host.Outcome.next ?_)
    · exact if_pos hop
    · exact if_neg fun h => Bool.false_ne_true (hop.symm.trans h)
  case absent =>
    intro h hpres hheard hlate
    change execAbsent t s = _
    rw [execAbsent, ← hu]
    simp only [hheard]
    exact if_pos ⟨hpres, State.elapsed_iff.2 hlate⟩
  case send =>
    intro hflight
    have hidle : ¬ u.cel.flight.isSome = true := by simp [hflight]
    refine ⟨fun r w hr harose hw hsigned => ?_, fun b bs hr hreplay => ?_⟩ <;> change execRecordSend t s = _ <;>
      rw [execRecordSend, ← hu] <;> refine (if_neg hidle).trans ?_
    · have hsign : u.celSigned r = true := by simp [State.celSigned, hw, harose, State.elapsedW, hsigned]
      simp only [hr, if_pos hsign]
    · simp only [hr, hreplay]

/-! Commands (R361 to R366) -/

theorem celUnlisted_listed {s : State} {k : CelCmd} {ks : List CelCmd} (hin : s.cel.inbox = k :: ks)
    (hk : celCodes.contains k.code = true) (cal : Bool) : s.celUnlisted cal = s := by
  have hgood : (!celCodes.contains k.code) = false := by rw [hk]; rfl
  have htake : s.cel.inbox.takeWhile (fun k => !celCodes.contains k.code) = [] := by
    rw [hin, List.takeWhile_cons_of_neg (by simp only [hgood]; decide)]
  have hdrop : s.cel.inbox.dropWhile (fun k => !celCodes.contains k.code) = s.cel.inbox := by
    rw [hin, List.dropWhile_cons_of_neg (by simp only [hgood]; decide)]
  rw [State.celUnlisted]
  simp only [htake, hdrop, List.foldl_nil]

section
variable {s v : State} {k : CelCmd} {ks : List CelCmd} {code : Nat} {f : State → CelCmd → State × Nat} {cal : Bool}
  (hin : s.cel.inbox = k :: ks) (hcode : k.code = code) (hlisted : celCodes.contains code = true)
  (hv : v = { s with cel := { s.cel with inbox := ks } })
include hin hcode hlisted hv

theorem celCommand_lost : s.celCommand code false f cal = v := by
  rw [State.celCommand, celUnlisted_listed hin (hcode ▸ hlisted), hin]
  subst hv
  exact (if_neg (by simp [hcode])).trans (if_pos rfl)

theorem celCommand_runs {w : State} {n : Nat} (hf : f v k = (w, n)) :
    s.celCommand code true f cal = w.celReply k n cal := by
  rw [State.celCommand, celUnlisted_listed hin (hcode ▸ hlisted), hin]
  refine ((if_neg (by simp [hcode])).trans (if_neg (by simp))).trans ?_
  simp only [← hv, hf]

end

theorem celReply_inbox (s : State) (k : CelCmd) (n : Nat) (cal : Bool) : (s.celReply k n cal).cel.inbox = s.cel.inbox := by
  rw [State.celReply, State.celRecord, State.celQueue]
  split <;> rfl

/-- A code that the table does not list is answered, whichever command is asked for. -/
theorem celCommand_unlisted {s v : State} {k : CelCmd} (code : Nat) (f : State → CelCmd → State × Nat) {cal : Bool}
    (hin : s.cel.inbox = [k]) (hk : celCodes.contains k.code = false)
    (hv : v = { s with cel := { s.cel with inbox := [] } }) : s.celCommand code true f cal = v.celReply k 5 cal := by
  have hskip : s.celUnlisted cal = v.celReply k 5 cal := by
    have htake : [k].takeWhile (fun k => !celCodes.contains k.code) = [k] :=
      List.takeWhile_cons_of_pos (by simp only [hk]; decide)
    have hdrop : [k].dropWhile (fun k => !celCodes.contains k.code) = [] :=
      List.dropWhile_cons_of_pos (by simp only [hk]; decide)
    rw [State.celUnlisted, hin]
    simp only [htake, hdrop, List.foldl_cons, List.foldl_nil, ← hv]
  have hempty : (v.celReply k 5 cal).cel.inbox = [] := by rw [celReply_inbox, hv]
  rw [State.celCommand, hskip, hempty]

section
variable {s : State} {k : CelCmd} {x : CelCh} {sum : Int} {lo hi : BitVec 24}

theorem celIdle_of (hx : x = s.celCh k.ch) (hphase : x.phase = .idle) : s.celIdle k.ch = true := by
  simp [State.celIdle, ← hx, hphase]

theorem celZero_done {w : State} (hplain : k.plain = true) (hx : x = s.celCh k.ch) (hphase : x.phase = .idle)
    (hsteady : x.steady sum 1920 lo hi = true) (hok : x.zeroOk (x.gross sum 1920) = true) (cal : Bool)
    (hw : w = s.setCelCh k.ch { x with zofs := x.gross sum 1920, atLimit := false }) :
    s.celZero sum lo hi cal k = (w.celRecord 4 k.ch cal w.cclk (w.celData k.ch 0 0 0 0), 0) := by
  rw [State.celZero, ← hx, ← hw, celIdle_of hx hphase]
  simp [hplain, hsteady, hok]

theorem celLive_done (ha2 : k.a2 = 0) (ha1 : k.a1 = 0 ∨ 20 ≤ k.a1 ∧ k.a1 ≤ 1000) (hx : x = s.celCh k.ch) :
    s.celLive k = (s.setCelCh k.ch { x with live := k.a1, liveAt := s.wall }, 0) := by
  subst hx
  exact if_neg (by omega)

theorem celReplay_done {old : List (Nat × Nat × Bytes)} (ha1 : k.a1 ≤ 65535) (hne : old ≠ [])
    (hold : old = s.cel.alibi.reverse.dropWhile (fun r => r.1 != k.a1 || r.2.1 != k.a2)) :
    s.celReplay k = ({ s with cel := { s.cel with replay := s.cel.replay ++ old.map (fun r => r.2.2) } }, 0) := by
  rw [State.celReplay, ← hold]
  exact (if_neg (Nat.not_lt.2 ha1)).trans (if_neg (by simpa using hne))

theorem calZero_done (hplain : k.plain = true) (hx : x = s.celCh k.ch) (hphase : x.phase = .idle)
    (hsteady : x.steady sum 19200 lo hi = true) :
    s.calZero sum lo hi true k = (s.stage (.zero k.ch { num := sum, den := 19200 }), 0) := by
  rw [State.calZero, ← hx, celIdle_of hx hphase]
  simp [hplain, hsteady]

theorem calSpan_done {f : Frac} (ha1 : k.a1 ≠ 0) (ha2 : k.a2 = 0) (hx : x = s.celCh k.ch) (hphase : x.phase = .idle)
    (hsteady : x.steady sum 19200 lo hi = true)
    (hf : f = ({ num := sum, den := 19200 } : Frac).sub (s.stagedZero k.ch)) (hpos : 0 < f.num) :
    s.calSpan sum lo hi true k = (s.stage (.span k.ch (k.a1 * f.den) f.num.toNat), 0) := by
  rw [State.calSpan, ← hx, ← hf, celIdle_of hx hphase]
  simp [ha1, ha2, hsteady, Int.not_le.2 hpos]

theorem setParam_done (ha1 : k.a1 ≤ 7) (hlow : (paramRange k.a1).1 ≤ k.a2) (hhigh : k.a2 ≤ (paramRange k.a1).2) :
    s.setParam true k = (s.stage (.param k.ch k.a1 k.a2), 0) :=
  (if_neg (by simp)).trans ((if_neg (Nat.not_lt.2 ha1)).trans
    (if_neg (not_or.2 ⟨Nat.not_lt.2 hlow, Nat.not_lt.2 hhigh⟩)))

end

/-- Settles O27: the commands of the Cellar, staged changes, and what CTL does with records. -/
theorem cellarCommands : Obligations.CellarCommands := by
  unfold Obligations.CellarCommands
  rintro t cal s u v k ks ack sum lo hi x hu hv hx hack
  have hack' (w : State) (n : Nat) : w.celReply k n cal = ack w n := (hack w n).symm
  refine ⟨?commands, ?change, ?fall, ?reset, ?timeout, ?record⟩
  case commands =>
    intro hin
    have hruns {code : Nat} (f : State → CelCmd → State × Nat) {w : State} {n : Nat} (hc : k.code = code)
        (hl : celCodes.contains code = true) (hf : f v k = (w, n)) :
        (.next ((s.clock t).celCommand code true f cal) : Out) = .next (ack w n) := by
      rw [← hu, celCommand_runs hin hc hl hv hf, hack']
    refine ⟨fun hc => ?lost, fun hc hks => ?unlisted, fun hc hp hidle hst hz w hw => ?zero, fun hc h2 h1 => ?live,
      fun old hc h1 hne hold => ?replay, fun hc hp => ?keys, fun hc hp => ⟨fun hidle => ?check, fun hclear => ?busy⟩,
      fun hc hcal hp hidle hst => ?calZero, fun hc hcal h1 h2 hidle hst f hf hpos => ?calSpan, fun hc hcal h1 hlow hhigh => ?param,
      fun hc hcal => ?notCal, fun hc hcal hp => ?commit, fun hc hp => ?discard⟩
    case lost =>
      change (.next ((s.clock t).celCommand 0x01 false _ cal) : Out) = _
      rw [← hu, celCommand_lost hin hc (by decide) hv]
    case unlisted =>
      rw [hks] at hin hv
      change (.next ((s.clock t).celCommand 0x04 true _ cal) : Out) = _
      rw [← hu, celCommand_unlisted 0x04 _ hin hc hv, hack']
    case zero => exact hruns (fun s k => s.celZero sum lo hi cal k) hc (by decide) (celZero_done hp hx hidle hst hz cal hw)
    case live => exact hruns State.celLive hc (by decide) (celLive_done h2 h1 hx)
    case replay => exact hruns State.celReplay hc (by decide) (celReplay_done h1 hne hold)
    case keys =>
      exact hruns (fun s k => if k.plain then (s.celKeys cal, 0) else (s, 5)) hc (by decide) (if_pos hp)
    case check =>
      refine hruns (fun s k => if !k.plain then (s, 5) else if s.celIdle k.ch then (s.startCheck k.ch, 0) else (s, 2)) hc
        (by decide) ((if_neg (by simp [hp])).trans ((if_pos (celIdle_of hx hidle)).trans ?_))
      rw [State.startCheck, ← hx]
    case busy =>
      have hbusy : v.celIdle k.ch = false := by simp [State.celIdle, ← hx, hclear]
      exact hruns (fun s k => if !k.plain then (s, 5) else if s.celIdle k.ch then (s.startCheck k.ch, 0) else (s, 2)) hc
        (by decide) ((if_neg (by simp [hp])).trans (if_neg (by simp [hbusy])))
    case calZero =>
      subst hcal
      exact hruns (fun s k => s.calZero sum lo hi true k) hc (by decide) (calZero_done hp hx hidle hst)
    case calSpan =>
      subst hcal
      exact hruns (fun s k => s.calSpan sum lo hi true k) hc (by decide) (calSpan_done h1 h2 hx hidle hst hf hpos)
    case param =>
      subst hcal
      exact hruns (fun s k => s.setParam true k) hc (by decide) (setParam_done h1 hlow hhigh)
    case notCal =>
      subst hcal
      exact hruns (fun s k => s.setParam false k) hc (by decide) (if_pos rfl)
    case commit =>
      subst hcal
      exact hruns (fun s k => if !true then (s, 1) else if k.plain then
        ({ s with cel := { s.cel with commit := true } }, 0) else (s, 5)) hc (by decide)
        ((if_neg (by simp)).trans (if_pos hp))
    case discard =>
      exact hruns (fun s k => if k.plain then (s.unstage, 0) else (s, 5)) hc (by decide) (if_pos hp)
  case change =>
    intro a b hcommit hidle ha hb
    have happly : u.calApply cal = b.celRecord 5 0 cal b.cclk (b.celOther 0 (beBytes 4 b.paramCrc ++ beBytes 4 u.paramCrc) 0) := by
      subst ha hb
      exact if_pos ⟨hcommit, hidle⟩
    rw [← happly, hu]
    rfl
  case fall =>
    rw [hu]
    rfl
  case reset =>
    rw [hu]
    rfl
  case timeout =>
    intro w hw hlate
    change execCelCmdTimeout t s = _
    rw [execCelCmdTimeout, ← hu]
    simp only [hw]
    exact if_pos (State.elapsed_iff.2 hlate)
  case record =>
    rintro start f w hf rfl
    refine ⟨fun hop => ?_, fun hop => ?_, fun hop => ?_⟩
    · change execCellarRecordReceived t start true s = _
      rw [execCellarRecordReceived, ← hu]
      simp only [hf]
      exact if_pos (by simp [hop])
    · change execCellarRecordReceived t start true s = _
      rw [execCellarRecordReceived, ← hu]
      simp only [hf]
      exact (if_neg (by simp [hop])).trans (if_neg (by simp))
    · change execCellarRecordReceived t start false s = _
      rw [execCellarRecordReceived, ← hu]
      simp only [hf]
      exact (if_neg (by simp [hop])).trans (if_pos (by simp))

end Sys2Proof.Machine
end


section
/-! SUPPORT. Consist frames and timers: O28, O29. -/
namespace Sys2Proof.Machine
open Sys2Proof

/-! The way of a consist frame to its rule (R192 to R196) -/

section
variable {s u : State} {port : Nat} {p : Bytes} {f : State → Nat → State}

theorem consistFrame_cut (hcut : s.ctlCut port = true) : s.consistFrame port p f = s := if_pos hcut

theorem consistFrame_bad (hcut : s.ctlCut port = false) (hu : u = s.ctlRead 0 port (payloadIs p))
    (hbad : u.sideOf port = none ∨ cfVersion p ≠ 1) : s.consistFrame port p f = u.bump Reg.CST_BAD_FRAME := by
  rw [State.consistFrame, ← hu]
  refine (if_neg (by simp [hcut])).trans ?_
  dsimp only
  cases hside : u.sideOf port with
  | none => rfl
  | some k => exact if_pos (Or.inl (hbad.resolve_left (by simp [hside])))

theorem consistFrame_side {k : Nat} (hcut : s.ctlCut port = false) (hu : u = s.ctlRead 0 port (payloadIs p))
    (hside : u.sideOf port = some k) (hver : cfVersion p = 1) (hsub : 1 ≤ cfSubtype p ∧ cfSubtype p ≤ 7) :
    s.consistFrame port p f = f u k := by
  rw [State.consistFrame, ← hu]
  refine (if_neg (by simp [hcut])).trans ?_
  dsimp only
  rw [hside]
  exact if_neg (by omega)

end

/-- Every consist frame comes to its rule through the same checks. -/
theorem consist_exec (t : Nat) (port : Fin 257) (p : Bytes) (s : State) : ∀ c ∈ [Instr.helloReceived t port p,
    .callReceived t port p, .reqReceived t port p, .echoReceived t port p, .commitReceived t port p,
    .identReceived t port p, .resetFrameReceived t port p],
    ∃ f : State → Nat → State, exec c s = .next ((s.clock t).consistFrame port.val p f) := by
  simp only [List.mem_cons, List.not_mem_nil, or_false]
  rintro c (rfl | rfl | rfl | rfl | rfl | rfl | rfl) <;> exact ⟨_, rfl⟩

/-! The rules of the subtypes (R197 to R207) -/

section
variable {s : State} {k : Nat} {p : Bytes}

theorem hello_eq {a b v : State} (hsub : cfSubtype p = 4)
    (ha : a = { s with cst := { s.cst with hello := Tab.set 0 s.cst.hello k (s.tickCount + 1) } })
    (hb : b = if s.fb Fd.ASD_CFG_PAIRED = true ∧ BitVec.ofNat 64 (beAt p 16 8) = s.rd64 Reg.ASD_PARTNER_LO Reg.ASD_PARTNER_HI then
      { a with asd := { a.asd with direct := some k } } else a)
    (hv : v = if (s.sidePort k).elim false s.linkUp = true then b.sideGoesUp k else b) :
    s.hello k p = if (v.cstState = 3 ∨ v.cstState = 4) ∧ (cfCand p ≠ v.committedHead ∨ beAt p 28 4 ≠ v.inaugNo) then v.trigger
      else v := by
  rw [State.hello, if_neg (by simp [hsub])]
  cases hside : s.sidePort k <;> simp only [hside, Option.elim_none, Option.elim_some] at hv <;> subst ha hb hv <;> rfl

theorem not_outside (hst : s.cstState = 1 ∨ s.cstState = 2 ∨ s.cstState = 4) : s.outside = false := by
  obtain h | h | h := hst <;> simp [State.outside, h]

section
variable {r : CstRound} (hsub : cfSubtype p = 1) (hreq : cfReq p = false)
  (hst : s.cstState = 1 ∨ s.cstState = 2 ∨ s.cstState = 4) (hself : s.foreignSelf p = false) (hr : s.cst.round = some r)
include hsub hreq hst hself hr

/-- What a CALL does outside a pending commit, where this node takes part in a round. -/
theorem call_eq : s.call k p =
    if sameRound r p then s.resolvePort k .covered
    else if s.adopts p then s.adopt k p
    else if better s.headPrio ownEui (cfPrio p) (cfCand p) then s.originate
    else if r.answered then s
    else (s.setRound { r with answered := true }).sendSide k (s.reqFor r) := by
  have hst0 : s.cstState ≠ 0 := by omega
  have hst3 : s.cstState ≠ 3 := by omega
  rw [State.call, if_neg (by simp [hsub, hreq, hst0]), if_neg (by simp [hself]), if_neg hst3]
  simp only [hr, not_outside hst, Bool.not_false, Bool.true_and]

end

section
variable {fresh : Bool} {v : State} (hsub : cfSubtype p = 1) (hreq : cfReq p = true) (hst : s.cstState ≠ 0)
  (hfresh : fresh = !s.cst.reqs.contains (cfNonce p))
  (hv : v = if fresh then ({ s with cst := { s.cst with reqs := (cfNonce p :: s.cst.reqs).take 16 } } : State).flood (some k) p
    else s)
include hsub hreq hst hfresh hv

theorem req_pending (hpend : v.cstState = 3) :
    s.req k p = { v with cst := { v.cst with calls := v.cst.calls ++ [(k, p, fresh)] } } := by
  rw [State.req, if_neg (by simp [hsub, hreq, hst])]
  simp only [← hfresh, ← hv, if_pos hpend]

theorem req_acts (hpend : v.cstState ≠ 3) : s.req k p = v.reqAct p fresh := by
  rw [State.req, if_neg (by simp [hsub, hreq, hst])]
  simp only [← hfresh, ← hv, if_neg hpend]

end

theorem echo_eq {r : CstRound} (hsub : cfSubtype p = 2) (hst : s.cstState ≠ 0) (hself : s.foreignSelf p = false)
    (hr : s.cst.round = some r) : s.echo k p = if sameRound r p then s.resolvePort k (.child (echoOf p)) else s := by
  rw [State.echo, if_neg (by simp [hsub, hst]), if_neg (by simp [hself]), hr]

theorem setCstState_cst (x : State) (n : Nat) : (x.setCstState n).cst = x.cst := by
  rw [State.setCstState]
  split
  · rfl
  · exact State.set0_cst _ _ _

section
variable {r : CstRound} (hsub : cfSubtype p = 3) (hst : s.cstState ≠ 0) (hself : s.foreignSelf p = false)
  (hr : s.cst.round = some r)
include hsub hst hself hr

theorem commit_foreign (hparent : r.parent ≠ some k) : s.commit k p = s := by
  rw [State.commit, if_neg (by simp [hsub, hst]), if_neg (by simp [hself]), hr]
  exact if_pos (Or.inr (Or.inl hparent))

/-- The plan that a COMMIT of the round sets up. -/
theorem commit_plans (hsame : sameRound r p = true) (hparent : r.parent = some k) (hphase : r.phase = .echoed) :
    ∃ c : CommitPlan, (s.commit k p).cst.plan = some c ∧
      c.pos = (if r.side = 0 then beAt p 24 4 + r.hop - 1 else beAt p 24 4 + beAt p 20 2 - r.hop) ∧
      c.inaug = beAt p 32 4 ∧ c.renum = beAt p 36 4 ∧ c.tick = beAt p 40 8 ∧ c.total = beAt p 100 4 := by
  have hkeep (x : State) (lo hi : RegDesc) (w : BitVec 64) : ((x.wr64 lo hi [] w).setCstState 3).cst = x.cst :=
    (setCstState_cst _ _).trans (State.wr64_cst _ _ _ _ _)
  rw [State.commit, if_neg (by simp [hsub, hst]), if_neg (by simp [hself]), hr]
  dsimp only
  rw [if_neg (by simp [hsame, hparent, hphase]), hkeep]
  exact ⟨_, rfl, rfl, rfl, rfl, rfl, rfl⟩

end

section
variable {x : BitVec 64 × BitVec 32} {v : State} (hsub : cfSubtype p = 5) (hst : s.cstState ≠ 0)
  (hx : x = (BitVec.ofNat 64 (beAt p 16 8), BitVec.ofNat 32 (beAt p 24 4)))
  (hv : v = if x.1 = ownEui ∧ x.2 ≠ s.cst.nonce then s.identityConflict else s)
include hsub hst hx hv

theorem ident_known (hknown : v.cst.idents.contains x = true) : s.ident k p = v := by
  rw [State.ident, if_neg (by simp [hsub, hst])]
  subst hx hv
  exact if_pos hknown

theorem ident_new (hnew : v.cst.idents.contains x = false) : s.ident k p =
    { v with cst := { v.cst with idents := (x :: v.cst.idents).take 256, identQ := v.cst.identQ ++
      ((List.range 8).filter (fun j => j != k && (v.sidePort j).isSome)).map (fun j => (j, p)) } } := by
  rw [State.ident, if_neg (by simp [hsub, hst])]
  subst hx hv
  exact if_neg fun h => Bool.false_ne_true (hnew.symm.trans h)

end

section
variable {x : BitVec 64 × Nat} (hsub : cfSubtype p = 6) (hst : s.cstState ≠ 0)
  (hx : x = (BitVec.ofNat 64 (beAt p 16 8), beAt p 24 8))
include hsub hst hx

theorem resetFrame_known (hknown : s.cst.resets.contains x = true) : s.resetFrame k p = s := by
  rw [State.resetFrame, if_neg (by simp [hsub, hst])]
  subst hx
  exact if_pos hknown

theorem resetFrame_new (hnew : s.cst.resets.contains x = false) : s.resetFrame k p =
    (({ s with cst := { s.cst with resets := x :: s.cst.resets } } : State).flood (some k) p).takeReset x.1 x.2 := by
  rw [State.resetFrame, if_neg (by simp [hsub, hst])]
  subst hx
  exact if_neg fun h => Bool.false_ne_true (hnew.symm.trans h)

end
end

/-- Settles O28: which rule a consist frame meets, and what each rule does. -/
theorem consistFrames : Obligations.ConsistFrames := by
  unfold Obligations.ConsistFrames
  intro t port p s u hu
  refine ⟨fun hcut c hc => ?_, fun hcut hbad c hc => ?_, fun k hcut hside hver => ?_⟩
  · obtain ⟨f, hf⟩ := consist_exec t port p s c hc
    rw [hf, consistFrame_cut hcut]
  · obtain ⟨f, hf⟩ := consist_exec t port p s c hc
    rw [hf, consistFrame_bad hcut hu hbad]
  · have hgood {f : State → Nat → State} {w : State} (hsub : 1 ≤ cfSubtype p ∧ cfSubtype p ≤ 7) (hf : f u k = w) :
        (.next ((s.clock t).consistFrame port.val p f) : Out) = .next w := by
      rw [consistFrame_side hcut hu hside hver hsub, hf]
    refine ⟨?hello, ?call, ?req, ?echo, ?commit, ?ident, ?reset⟩
    case hello =>
      intro a b v hsub ha hb hv
      have hrange : 1 ≤ cfSubtype p ∧ cfSubtype p ≤ 7 := by omega
      have heq := hello_eq hsub ha hb hv
      refine ⟨fun h3 h4 => hgood hrange (heq.trans (if_neg fun h => not_or.2 ⟨h3, h4⟩ h.1)),
        fun hst => ⟨fun hdiff => hgood hrange (heq.trans (if_pos ⟨hst, hdiff⟩)),
          fun hc hi => hgood hrange (heq.trans (if_neg fun h => h.2.elim (· hc) (· hi)))⟩⟩
    case call =>
      intro r hsub hreq hst hself hr
      have hrange : 1 ≤ cfSubtype p ∧ cfSubtype p ≤ 7 := by omega
      have heq := call_eq (k := k) hsub hreq hst hself hr
      refine ⟨fun hsame => hgood hrange (heq.trans (if_pos hsame)), fun hsame hadopt => hgood hrange ?_,
        fun hsame hadopt => ⟨fun hbetter => hgood hrange ?_,
          fun hbetter => ⟨fun hans => hgood hrange ?_, fun hans => hgood hrange ?_⟩⟩⟩ <;>
        rw [heq, if_neg (by simp [hsame])]
      · rw [if_pos hadopt]
      · rw [if_neg (by simp [hadopt]), if_pos hbetter]
      · rw [if_neg (by simp [hadopt]), if_neg (by simp [hbetter]), if_pos hans]
      · rw [if_neg (by simp [hadopt]), if_neg (by simp [hbetter]), if_neg (by simp [hans])]
    case req =>
      intro hsub hreq hst fresh v w hfresh hv hw
      have hrange : 1 ≤ cfSubtype p ∧ cfSubtype p ≤ 7 := by omega
      refine ⟨fun hpend => hgood hrange (req_pending hsub hreq hst hfresh hv hpend),
        fun hpend => ⟨fun h4 hhead hno => hgood hrange ?_, fun hno => hgood hrange ?_⟩⟩ <;>
        refine (req_acts hsub hreq hst hfresh hv hpend).trans ?_ <;> subst hw
      · exact if_pos ⟨h4, hhead, hno⟩
      · exact if_neg hno
    case echo =>
      intro r hsub hst hself hr
      have hrange : 1 ≤ cfSubtype p ∧ cfSubtype p ≤ 7 := by omega
      have heq := echo_eq (k := k) hsub hst hself hr
      exact ⟨fun hsame => hgood hrange (heq.trans (if_pos hsame)),
        fun hdiff => hgood hrange (heq.trans (if_neg (by simp [hdiff])))⟩
    case commit =>
      intro r hsub hst hself hr
      have hrange : 1 ≤ cfSubtype p ∧ cfSubtype p ≤ 7 := by omega
      refine ⟨fun hparent => hgood hrange (commit_foreign hsub hst hself hr hparent), fun hsame hparent hphase => ?_⟩
      obtain ⟨c, hc⟩ := commit_plans hsub hst hself hr hsame hparent hphase
      exact ⟨u.commit k p, c, hgood hrange rfl, hc⟩
    case ident =>
      intro hsub hst x v hx hv
      have hrange : 1 ≤ cfSubtype p ∧ cfSubtype p ≤ 7 := by omega
      exact ⟨fun hknown => hgood hrange (ident_known hsub hst hx hv hknown),
        fun hnew => hgood hrange (ident_new hsub hst hx hv hnew)⟩
    case reset =>
      intro hsub hst x hx
      have hrange : 1 ≤ cfSubtype p ∧ cfSubtype p ≤ 7 := by omega
      exact ⟨fun hknown => hgood hrange (resetFrame_known hsub hst hx hknown),
        fun hnew => hgood hrange (resetFrame_new hsub hst hx hnew)⟩

/-! Commits, head waits, rounds and the commands of CST_CMD (R198 to R208) -/

theorem trigger_committed {s w : State} (hst : s.cstState = 4) (hw : w = s.floodReq.startHeadWait) :
    s.trigger = if s.fb Fd.CST_STAT_HEAD then w.originate else w := by
  subst hw
  exact (if_neg (by simp [hst])).trans (if_pos hst)

theorem trigger_none {s : State} (h4 : s.cstState ≠ 4) (h3 : s.cstState ≠ 3) : s.trigger = s :=
  (if_neg h3).trans (if_neg h4)

/-- Settles O29: the instants and timeouts of a round, and what CST_CMD asks for. -/
theorem consistTimers : Obligations.ConsistTimers := by
  unfold Obligations.ConsistTimers
  intro t party s u hu
  refine ⟨?commit, ?headWait, ?round, ?census, ?commands⟩
  case commit =>
    intro c hplan
    have hexec : exec (.commitInstant t) s = if u.commitDue c then .next (u.applyCommit c) else .next u := by
      change execCommitInstant t s = _
      rw [execCommitInstant, ← hu]
      simp only [hplan]
    refine ⟨fun hearly => hexec.trans (if_neg ?_), fun hdue => ?_⟩
    · simp [State.commitDue, Int.not_le.2 hearly]
    · have hnow : exec (.commitInstant t) s = .next (u.applyCommit c) := hexec.trans (if_pos (decide_eq_true hdue))
      exact ⟨hnow, fun hout => hnow.trans (congrArg Host.Outcome.next (if_pos hout))⟩
  case headWait =>
    intro w hw hlate
    refine ⟨fun hst => ?_, fun hst => ?_⟩ <;> change execHeadWaitExpiry t s = _ <;> rw [execHeadWaitExpiry, ← hu] <;>
      simp only [hw] <;> refine (if_pos (State.elapsed_iff.2 hlate)).trans (congrArg Host.Outcome.next ?_)
    · exact if_pos hst
    · exact if_neg hst
  case round =>
    rintro r a v hr hparent hst hlate rfl
    have hfails : r.parent.isSome = true ∧ (u.cstState = 1 ∨ u.cstState = 2) ∧
        u.elapsed r.since (3 * u.period + 2000) = true := ⟨by simp [hparent], hst, State.elapsed_iff.2 hlate⟩
    refine ⟨fun hnum => ?_, fun hnum => ?_⟩ <;> change execRoundFail t s = _ <;> rw [execRoundFail, ← hu] <;>
      simp only [hr] <;> refine (if_pos hfails).trans ?_
    · exact if_pos hnum
    · exact if_neg (by simp [hnum])
  case census =>
    rintro r b v w hr hparent hphase hst hnew hlate rfl hbase rfl
    have hfails : r.parent = none ∧ r.phase = .roll ∧ u.cstState = 1 ∧ (!u.cst.restart) = true ∧
        u.elapsed r.since (2 * u.period + 2000) = true := ⟨hparent, hphase, hst, by simp [hnew], State.elapsed_iff.2 hlate⟩
    refine ⟨fun hfew => ?_, fun hmany => ?_⟩ <;> change execCensusTimeout t s = _ <;> rw [execCensusTimeout, ← hu] <;>
      simp only [hr] <;> refine (if_pos hfails).trans (congrArg Host.Outcome.next ?_)
    · have h4 : ¬ 4 ≤ u.cst.fails + 1 := by omega
      simp only [if_neg h4, hbase]
      rfl
    · have h4 : 4 ≤ u.cst.fails + 1 := by omega
      simp only [if_pos h4, State.assertErr_tu, hbase]
      rfl
  case commands =>
    intro v hv
    have hinaug : exec (.cstInaug t party) s = .next v.trigger := by rw [hv, hu]; rfl
    have hreset : exec (.cstReset t party) s = .next v.cmdReset := by rw [hv, hu]; rfl
    rw [hinaug, hreset]
    refine ⟨fun hst w hw => ⟨fun hhead => ?_, fun hhead => ?_⟩, fun h4 h3 => congrArg Host.Outcome.next (trigger_none h4 h3),
      fun h4 => congrArg Host.Outcome.next (if_neg h4), ?_⟩
    · rw [trigger_committed hst hw, if_neg (by simp [hhead])]
    · rw [trigger_committed hst hw, if_pos hhead]
    · rintro hst a n rfl rfl
      exact congrArg Host.Outcome.next (if_pos hst)

end Sys2Proof.Machine
end


section
/-! SUPPORT. Pairing frames and the roles of a pair: O30, O31. -/
namespace Sys2Proof.Machine
open Sys2Proof

/-! The way of a pairing frame to its rule (R211 to R215) -/

section
variable {z u v : State} {kind : Nat} {p : Bytes} {f : State → State}

/-- A frame of an older epoch is not heard. -/
theorem pairFrame_old (hu : u = z.ctlRead 2 256 (payloadIs p)) (hold : serialAfter 32 u.epoch (beAt p 4 4) = true) :
    z.pairFrame kind p f = u := by
  rw [State.pairFrame, ← hu]
  exact if_pos (by simp [hold])

theorem hearEpoch_old {s : State} {e : Nat} (h : serialAfter 32 e s.epoch = false) : s.hearEpoch e = s := by
  simp [State.hearEpoch, h]

theorem pairFrame_heard (hu : u = z.ctlRead 2 256 (payloadIs p))
    (hv : v = ({ u with asd := { u.asd with heard := some u.tickCount, heardRaw := u.raw } } : State).set0 Fd.ASD_STAT_PARTNER 1)
    (hop : u.operating = true) (hlanes : u.gableLanes ≠ 0) (hrole : u.role ≠ 0) (hver : byteAt p 1 % 16 = 1)
    (hold : serialAfter 32 u.epoch (beAt p 4 4) = false) (hnew : serialAfter 32 (beAt p 4 4) v.epoch = false)
    (hkind : byteAt p 0 = kind) : z.pairFrame kind p f = f v := by
  rw [State.pairFrame, ← hu]
  refine (if_neg (by simp [hop, hlanes, hrole, hver, hold, hkind])).trans ?_
  subst hv
  exact congrArg f (hearEpoch_old hnew)

end

/-! The rules of the records (R216 to R232) -/

section
variable {s a b : State} {r : Bytes}

theorem mirror_noRoom (hfirst : beAt r 22 2 = 0) (hroom : s.freeIn 4 256 0 < cellsOf (beAt r 8 2 % 16384)) :
    s.mirror r = s.answer (beAt r 0 4) 1 0 := by
  have hbegin : s.mirrorBegin r = (s, 1) := if_pos hroom
  rw [State.mirror, if_pos hfirst, hbegin]
  exact if_pos Nat.one_ne_zero

section
variable (hfirst : beAt r 22 2 = 0) (hbegin : s.mirrorBegin r = (a, 0))
include hfirst hbegin

theorem mirror_part (hdata : a.mirrorData r = (b, false)) : s.mirror r = b := by
  rw [State.mirror, if_pos hfirst, hbegin]
  exact (if_neg (by simp)).trans (by rw [hdata]; rfl)

theorem mirror_whole (hdata : a.mirrorData r = (b, true)) : s.mirror r = b.mirrorWhole (beAt r 0 4) := by
  rw [State.mirror, if_pos hfirst, hbegin]
  exact (if_neg (by simp)).trans (by rw [hdata]; rfl)

end

theorem mirrorWhole_good {m : Nat} {h : Held} (hheld : s.asd.held.find? (fun h => h.mref == m) = some h)
    (hgood : s.mirrorBad h = false) : s.mirrorWhole m = (s.numberHeld m true).1.answer m 0 (s.numberHeld m true).2 := by
  rw [State.mirrorWhole, hheld]
  exact if_neg (by simp [hgood])

theorem mirrorWhole_bad {m : Nat} {h : Held} {d : State} (hheld : s.asd.held.find? (fun h => h.mref == m) = some h)
    (hbad : s.mirrorBad h = true) (hd : d = s.drawFree.2) : s.mirrorWhole m =
      (({ d with asd := { d.asd with held := d.asd.held.filter (fun y => y.mref != m) } } : State).dropHeld h).answer m
        (1 + s.drawFree.1.toNat % 2) 0 := by
  rw [State.mirrorWhole, hheld]
  subst hd
  exact if_pos hbad

section
variable {o : MirrorOut} (ho : s.asd.out.find? (fun o => o.mref == beAt r 0 4) = some o)
include ho

theorem ackRecord_taken (hok : byteAt r 4 = 0) (htime : s.tu.tick ≤ o.wtick) : s.ackRecord r = s.ackItem o (beAt r 6 2) := by
  rw [State.ackRecord, ho]
  exact if_pos ⟨hok, htime⟩

theorem ackRecord_late (htime : o.wtick < s.tu.tick) : s.ackRecord r = s := by
  rw [State.ackRecord, ho]
  exact if_neg fun h => Nat.not_le.2 htime h.2

theorem nackRecord_refuses {late : List MirrorOut} (hbad : byteAt r 4 ≠ 0)
    (hlate : late = (s.asd.out.dropWhile (fun x => x.mref != beAt r 0 4)).filter (fun x => x.key == o.key && x.sent)) :
    s.nackRecord r = (s.asdCount 3).refuseOut (fun x => late.any (fun y => y.mref == x.mref)) := by
  have hmref : o.mref = beAt r 0 4 := by simpa using List.find?_some ho
  rw [State.nackRecord]
  refine (if_neg hbad).trans ?_
  rw [ho]
  dsimp only
  have hout : (s.asdCount 3).asd.out = s.asd.out := congrArg Asd.out (State.bump64_asd _ _ _ _ _)
  rw [State.refuseFrom, hmref, hlate, hout]

end

theorem withdrawRecord_one (hone : beAt r 0 2 = 1) : s.withdrawRecord r = s.withdrawOne (beAt r 4 4) := by
  rw [State.withdrawRecord, hone]
  rfl

theorem withdrawOne_plain {m : Nat} {h : Held} (hheld : s.asd.held.find? (fun h => h.mref == m) = some h)
    (hseq : h.seq = none) : s.withdrawOne m = (({ s with asd := { s.asd with
      held := s.asd.held.filter (fun x => x.mref != m) } } : State).dropHeld h).asdCount 4 := by
  rw [State.withdrawOne, hheld]
  simp [hseq]

theorem fetch_unheld (hno : s.byMref (beAt r 0 4) = none) :
    s.fetch r = (s.pairSend 10 [s.mirrorCell {} (beAt r 0 4) 0 0 0 0 false true]).asdCount 10 := by
  rw [State.fetch]
  simp only [hno]

theorem fetchData_lost {d : Nat} (hwait : s.asd.fetching.contains (beAt r 0 4 + 1) = true)
    (hd : s.byMref (beAt r 0 4) = some d) (hlost : bitAt (byteAt r 11) 2 = true) : s.fetchData r =
      ({ s with asd := { s.asd with fetching := s.asd.fetching.filter (fun x => x != beAt r 0 4 + 1) } } :
        State).losePoisoned d := by
  rw [State.fetchData]
  refine (if_pos hwait).trans ?_
  rw [hd]
  exact if_pos (Or.inl hlost)

end

/-- Settles O30: which rule a pairing frame meets, and what each rule does. -/
theorem pairItems : Obligations.PairItems := by
  unfold Obligations.PairItems
  intro t p r s z u v hz hu hv
  refine ⟨?heard, ?old, ?deadline, ?retry⟩
  case heard =>
    intro hop hlanes hrole hver hold hnew hrec
    have hgood {kind : Nat} {f : State → State} {w : State} (hkind : byteAt p 0 = kind) (hf : f v = w) :
        (.next ((s.clock t).pairFrame kind p f) : Out) = .next w := by
      rw [← hz, pairFrame_heard hu hv hop hlanes hrole hver hold hnew hkind, hf]
    have hone (g : State → Bytes → State) : (recordsOf p).foldl g v = g v r := by rw [hrec]; rfl
    have hone_if {n : Nat} (g : State → Bytes → State) (hn : v.role = n) :
        (if v.role = n then (recordsOf p).foldl g v else v) = g v r := (if_pos hn).trans (hone g)
    refine ⟨fun hkind h2 hfirst => ⟨fun hroom => ?noRoom, fun a b ha hb => ?part, fun a b h ha hb hh => ⟨fun hfcs => ?whole,
      fun hbad d hd => ?bad⟩⟩, fun o hkind h1 ho => ⟨fun hok htime => ?ack, fun htime => ?late, fun late hbad hlate => ?nack⟩,
      fun hkind h2 hcount => ⟨?withdraw, fun h hh hseq => ?withdrawn⟩, fun hkind hno => ?fetch,
      fun d hkind hwait hd hlost => ?data, fun hkind => ?log⟩
    case noRoom => exact hgood hkind ((hone_if _ h2).trans (mirror_noRoom hfirst hroom))
    case part => exact hgood hkind ((hone_if _ h2).trans (mirror_part hfirst ha hb))
    case whole => exact hgood hkind ((hone_if _ h2).trans ((mirror_whole hfirst ha hb).trans (mirrorWhole_good hh hfcs)))
    case bad => exact hgood hkind ((hone_if _ h2).trans ((mirror_whole hfirst ha hb).trans (mirrorWhole_bad hh hbad hd)))
    case ack => exact hgood hkind ((hone_if _ h1).trans (ackRecord_taken ho hok htime))
    case late => exact hgood hkind ((hone_if _ h1).trans (ackRecord_late ho htime))
    case nack => exact hgood hkind ((hone_if _ h1).trans (nackRecord_refuses ho hbad hlate))
    case withdraw => exact hgood hkind ((hone_if _ h2).trans (withdrawRecord_one hcount))
    case withdrawn =>
      exact hgood hkind ((hone_if _ h2).trans ((withdrawRecord_one hcount).trans (withdrawOne_plain hh hseq)))
    case fetch => exact hgood hkind ((hone _).trans (fetch_unheld hno))
    case data => exact hgood hkind ((hone _).trans (fetchData_lost hwait hd hlost))
    case log => exact hgood hkind (hone _)
  case old =>
    intro hold side c hc
    have hframe (kind : Nat) (f : State → State) : (.next ((s.clock t).pairFrame kind p f) : Out) = .next u := by
      rw [← hz, pairFrame_old hu hold]
    simp only [List.mem_cons, List.not_mem_nil, or_false] at hc
    obtain rfl | rfl | rfl | rfl | rfl | rfl | rfl | rfl | rfl | rfl | rfl | rfl | rfl := hc <;> exact hframe _ _
  case deadline =>
    rw [hz]
    rfl
  case retry =>
    rintro lane ok l rfl
    have hexec (ok : Bool) : exec (.gableMacRetry t lane ok) s = execGableMacRetry t lane ok s := rfl
    refine ⟨fun hidle => ?_, fun x xs hon hx => ⟨?_, fun hfew => ?_, fun hmany => ?_⟩⟩ <;>
      rw [hexec, execGableMacRetry, ← hz]
    · by_cases hon : bitAt (z.f Fd.ASD_STAT_GABLE) lane.val = true
      · refine (if_neg (by simp [hon])).trans ?_
        rw [hidle.resolve_left (by simp [hon])]
      · exact if_pos (by simp [hon])
    · refine (if_neg (by simp [hon])).trans ?_
      rw [hx]
      exact if_pos rfl
    · refine (if_neg (by simp [hon])).trans ?_
      rw [hx]
      exact (if_neg Bool.false_ne_true).trans (if_pos hfew)
    · refine (if_neg (by simp [hon])).trans ?_
      rw [hx]
      exact (if_neg Bool.false_ne_true).trans (if_neg (Nat.not_lt.2 hmany))

/-! Roles (R210 to R228) -/

theorem fenceNow_duty {s : State} (hrole : s.role = 1) : s.fenceNow = (s.fence.setRole 3).fbSilenceAll.uaHoldAll :=
  if_pos hrole

theorem relinquished_standby {s : State} {n : Nat} (hrole : s.role = 2) (hnone : s.asd.takeover = none)
    (hn : n = if s.tickPast (s.period - 1999) then s.tu.tick + 2 else s.tu.tick + 1) :
    s.relinquished = { s with asd := { s.asd with takeover := some n } } := by
  rw [State.relinquished, if_pos hrole]
  simp only [← hn, hnone]

theorem resync_eq {s : State} {p r : Bytes} (hrec : recordsOf p = [r]) (hrole : s.role = 2) :
    (if s.role = 2 then
      let rs := recordsOf p
      let s1 := if rs.all shadowRec ∨ s.f Fd.ASD_STAT_RESYNC = 3 then s else s.set0 Fd.ASD_STAT_RESYNC 1
      rs.foldl State.resyncRecord (s1.asdCount 15 (recordBytes rs))
    else s) = ((if shadowRec r = true ∨ s.f Fd.ASD_STAT_RESYNC = 3 then s else s.set0 Fd.ASD_STAT_RESYNC 1).asdCount 15
      (recordBytes [r])).resyncRecord r := by
  refine (if_pos hrole).trans ?_
  simp only [hrec, List.all_cons, List.all_nil, Bool.and_true, List.foldl_cons, List.foldl_nil]

section
variable {s : State} (hnone : s.asd.handover = none)
include hnone

theorem cmdHandover_single (hred : s.fb Fd.ASD_STAT_REDUNDANT = false) :
    s.cmdHandover = (s.set0 Fd.ASD_CMD_STAT_STATE 3).set0 Fd.ASD_CMD_STAT_CODE 1 :=
  (if_neg (by simp [hnone])).trans (if_pos (by simp [hred]))

theorem cmdHandover_standby (hred : s.fb Fd.ASD_STAT_REDUNDANT = true) (hrole : s.role ≠ 1) :
    s.cmdHandover = (s.set0 Fd.ASD_CMD_STAT_STATE 3).set0 Fd.ASD_CMD_STAT_CODE 2 :=
  (if_neg (by simp [hnone])).trans ((if_neg (by simp [hred])).trans (if_pos hrole))

theorem cmdHandover_starts (hred : s.fb Fd.ASD_STAT_REDUNDANT = true) (hrole : s.role = 1) :
    s.cmdHandover = ((s.set0 Fd.ASD_CMD_STAT_STATE 1).set0 Fd.ASD_CMD_STAT_CODE 0).startHandover false :=
  (if_neg (by simp [hnone])).trans ((if_neg (by simp [hred])).trans (if_neg (not_not.2 hrole)))

end

/-- Settles O31: records of a pair, the losses of a partner, takeover, fences and handovers. -/
theorem pairRoles : Obligations.PairRoles := by
  unfold Obligations.PairRoles
  intro t side p r party s u x v hu hx hv
  refine ⟨?heard, ?duty, ?lost, ?takeover, ?fence, ?linkDown, ?revert, ?command, ?instant⟩
  case heard =>
    intro hop hlanes hrole hver hold hnew hrec
    have hgood {kind : Nat} {f : State → State} {w : State} (hkind : byteAt p 0 = kind) (hf : f v = w) :
        (.next ((s.clock t).pairFrame kind p f) : Out) = .next w := by
      rw [← hu, pairFrame_heard hx hv hop hlanes hrole hver hold hnew hkind, hf]
    have hone (g : State → Bytes → State) : (recordsOf p).foldl g v = g v r := by rw [hrec]; rfl
    refine ⟨fun hkind h2 => hgood hkind ?state, fun hkind h2 => hgood hkind ?tickEnd, fun hkind => hgood hkind (hone _),
      fun n hkind h2 hnone hn => hgood hkind (relinquished_standby h2 hnone hn), fun hkind h2 => hgood hkind ?handover,
      fun hkind h2 => hgood hkind (resync_eq hrec h2)⟩
    case state =>
      refine (if_pos h2).trans ?_
      simp only [hrec, List.map_cons, List.map_nil]
    case tickEnd => exact (if_pos h2).trans (hone _)
    case handover => exact (if_pos h2).trans (hone _)
  case duty =>
    intro n hn hold hup
    change execDutyTimeout t s = _
    rw [execDutyTimeout, ← hu]
    simp only [hn]
    exact if_pos ⟨hold, hup⟩
  case lost =>
    rintro w hrole hstage hmiss hquiet hnone rfl
    have hlost : u.role = 2 ∧ u.tke.staging = true ∧ 2 ≤ u.f Fd.ASD_STAT_MISS ∧ u.noDirectHello 1 = true ∧
        u.asd.takeover.isNone = true := ⟨hrole, hstage, hmiss, hquiet, by simp [hnone]⟩
    refine ⟨fun hup => ?_, fun hup hiso => ?_⟩ <;> change execPartnerLost t s = _ <;> rw [execPartnerLost, ← hu] <;>
      refine (if_pos hlost).trans ?_
    · exact if_pos hup
    · exact (if_neg (by simp [hup])).trans (if_neg (by simp [hiso]))
  case takeover =>
    intro n hn hdue hrole
    change execTakeover t s = _
    rw [execTakeover, ← hu]
    simp only [hn]
    exact if_pos ⟨hdue, hrole⟩
  case fence =>
    intro n hrole hold hn hquiet hup
    refine ⟨fun hhealth hother => ?_, fun hrecent => ?_⟩ <;> change execFenceTimeout t s = _ <;>
      rw [execFenceTimeout, ← hu] <;> simp only [hn]
    · exact (if_pos ⟨hrole, hold, by simpa using hhealth, hquiet, by simp [hup], hother⟩).trans
        (congrArg Host.Outcome.next (fenceNow_duty hrole))
    · refine if_neg fun h => ?_
      obtain ⟨-, -, hhealth, -, -, hother⟩ := h
      exact hrecent.elim (Nat.not_lt.2 (of_decide_eq_true hhealth)) (Nat.not_lt.2 hother)
  case linkDown =>
    intro a ha hrole hlate
    change execFabricLinkDownFence t s = _
    rw [execFabricLinkDownFence, ← hu]
    simp only [ha]
    exact (if_pos (State.elapsed_iff.2 hlate)).trans (congrArg Host.Outcome.next (fenceNow_duty hrole))
  case revert =>
    intro hrole hpref hen hred hnone hhold
    change execRevertHoldExpiry t s = _
    rw [execRevertHoldExpiry, ← hu]
    exact if_pos ⟨hrole, by simp [hpref], hen, hred, by simp [hnone], hhold⟩
  case command =>
    intro w hw hnone
    have hexec : exec (.asdHandover t party) s = .next w.cmdHandover := by rw [hw, hu]; rfl
    rw [hexec]
    exact ⟨fun hred => congrArg Host.Outcome.next (cmdHandover_single hnone hred),
      fun hred hrole => congrArg Host.Outcome.next (cmdHandover_standby hnone hred hrole),
      fun hred hrole => congrArg Host.Outcome.next (cmdHandover_starts hnone hred hrole)⟩
  case instant =>
    rintro n auto w hn hdue rfl
    have hexec : exec (.handoverInstant t) s = execHandoverInstant t s := rfl
    rw [hexec, execHandoverInstant, ← hu]
    simp only [hn]
    refine ⟨fun h2 => ⟨fun happ => ?_, fun happ => ?_⟩, fun h1 => ⟨fun hend => ?_, fun hend => ?_⟩⟩ <;>
      refine (if_pos hdue).trans ?_
    · exact (if_pos h2).trans (if_pos happ)
    · exact (if_pos h2).trans (if_neg happ)
    · exact (if_neg (by simp [h1])).trans ((if_pos h1).trans (if_pos hend))
    · exact (if_neg (by simp [h1])).trans ((if_pos h1).trans (if_neg hend))

end Sys2Proof.Machine
end


section
/-! SUPPORT. Uploads, shadow edits and swaps: O32, O33. -/
namespace Sys2Proof.Machine
open Sys2Proof

/-! Uploads and shadow edits (R367, R379, R381) -/

section
variable {s w : State} {x : Upload} {h body : Bytes}

theorem updStart_package (usb : Bool) (hw : w = { s with cfg := { s.cfg with upd := some { package := true, usb := usb } } }) :
    s.updStart true usb = w.updState 1 0 := by
  subst hw
  rfl

theorem updStart_image (usb : Bool) (hw : w = { s with cfg := { s.cfg with upd := some { package := false, usb := usb } } }) :
    s.updStart false usb = (w.burn (copyBase s.spareCopy) (List.replicate 256 0xFF#8)).updState 1 0 := by
  subst hw
  rfl

theorem updCommit_none (hnone : s.cfg.upd = none) : s.updCommit = s := by
  rw [State.updCommit, hnone]

theorem updAbort_none (hnone : s.cfg.upd = none) : s.updAbort = s := by
  rw [State.updAbort, hnone]

section
variable (hx : s.cfg.upd = some x) (hh : h = slice x.bytes 0 256) (hbody : body = (x.bytes.drop 256).take (hdrBody h))
  (hw : w = ({ s with cfg := { s.cfg with upd := none } } : State).set0 Fd.HST_STAT_USB_UPLOAD 0)
include hx hw

theorem updAbort_upload : s.updAbort = w.updState 3 3 := by
  rw [State.updAbort, hx]
  subst hw
  rfl

include hh hbody

theorem updCommit_badCrc (hcrc : imageCrcOk h body = false) : s.updCommit = w.updState 3 1 := by
  rw [State.updCommit, hx]
  subst hh hbody hw
  exact if_pos (Or.inr (Or.inr (by simp [hcrc])))

section
variable (hlen : 256 ≤ x.bytes.length) (hbodyLen : hdrBody h ≤ body.length) (hcrc : imageCrcOk h body = true)
include hlen hbodyLen hcrc

theorem updCommit_good : s.updCommit = if x.package then
    if nodeOk h then (w.loadPackage h body).updState 2 0 else w.updState 3 2
    else (w.burn (copyBase s.spareCopy) h).updState 2 0 := by
  have hgood : ¬ (x.bytes.length < 256 ∨ body.length < hdrBody h ∨ (!imageCrcOk h body) = true) := by
    simp [hlen, hbodyLen, hcrc]
  rw [State.updCommit, hx]
  subst hh hbody hw
  exact if_neg hgood

end
end

theorem updData_package (bs : Bytes) (hx : s.cfg.upd = some x) (hp : x.package = true) :
    s.updData bs = { s with cfg := { s.cfg with upd := some { x with bytes := x.bytes ++ bs } } } := by
  rw [State.updData, hx]
  exact if_pos hp

/-- Bytes behind the first 256 of an image go to the copy as they come. -/
theorem updData_image {bs : Bytes} (hx : s.cfg.upd = some x) (hp : x.package = false) (hlen : 256 ≤ x.bytes.length)
    (hroom : x.bytes.length + bs.length ≤ 0x3000000) : s.updData bs =
      (({ s with cfg := { s.cfg with upd := some { x with bytes := x.bytes ++ bs } } } : State).burn
        (copyBase s.spareCopy + x.bytes.length) bs) := by
  have hmax : max x.bytes.length 256 = x.bytes.length := Nat.max_eq_left hlen
  have hdrop : 256 - x.bytes.length = 0 := Nat.sub_eq_zero_of_le hlen
  have htake : bs.take (0x3000000 - x.bytes.length) = bs := List.take_of_length_le (by omega)
  rw [State.updData, hx]
  refine (if_neg (by simp [hp])).trans ?_
  rw [hmax, hdrop, List.drop_zero, htake]

end

section
variable {s : State} {v : BitVec 32} {a : Nat} (ha : a = 4 * s.f Fd.CFG_SHR_ADDR_ADDR)

theorem shrWrite_closed (hopen : s.fb Fd.CFG_SHR_ADDR_OPEN = false) : s.shrWrite v = s := if_pos (by simp [hopen])

section
variable (hopen : s.fb Fd.CFG_SHR_ADDR_OPEN = true)
include ha hopen

theorem shrWrite_register {x : BitVec 32} (hx : Tab.get none s.shd.regs a = some x) :
    s.shrWrite v = { s with shd := { s.shd with regs := Tab.set none s.shd.regs a (some v) } } := by
  subst ha
  exact (if_neg (by simp [hopen])).trans (if_pos (by simp [hx]))

theorem shrWrite_quiesce {x : BitVec 32} (hreg : Tab.get none s.shd.regs a = none)
    (hx : Tab.get none s.shd.quiesce a = some x) :
    s.shrWrite v = { s with shd := { s.shd with quiesce := Tab.set none s.shd.quiesce a (some v) } } := by
  subst ha
  exact (if_neg (by simp [hopen])).trans ((if_neg (by simp [hreg])).trans (if_pos (by simp [hx])))

theorem shrWrite_locked (hreg : Tab.get none s.shd.regs a = none) (hq : Tab.get none s.shd.quiesce a = none) :
    s.shrWrite v = s.lockedWrite a := by
  subst ha
  exact (if_neg (by simp [hopen])).trans ((if_neg (by simp [hreg])).trans (if_neg (by simp [hq])))

end
end

theorem leBytes_four_length (n : Nat) : (leBytes 4 n).length = 4 := by simp [leBytes]

/-- Settles O32: the course of an upload, and edits of the shadow copy. -/
theorem uploads : Obligations.Uploads := by
  unfold Obligations.Uploads
  intro t party stage s u v hu
  have hdata (value : BitVec 32) : exec (.cfgUpdData t party value) s = .next (u.updData (leBytes 4 value.toNat)) := by
    rw [hu]
    rfl
  have hedit (value : BitVec 32) : exec (.cfgShrDataWrite t party value) s = .next (u.shrWrite value) := by
    rw [hu]
    rfl
  refine ⟨?upload, fun x value hx hp => ?package, fun x value hx hp hlen hroom => ?image, fun value a ha => ?shadow⟩
  case upload =>
    intro package hv
    have hstart : exec (.cfgUpdStart t party package stage) s = .next (v.updStart package false) := by
      rw [hv, hu]
      rfl
    have hcommit : exec (.cfgUpdCommit t party package stage) s = .next v.updCommit := by
      rw [hv, hu]
      rfl
    have habort : exec (.cfgUpdAbort t party package stage) s = .next v.updAbort := by
      rw [hv, hu]
      rfl
    refine ⟨fun w hw => ⟨?_, ?_⟩, fun x h body w hx hh hbody hw => ⟨fun hcrc => ?_, fun hlen hbodyLen hcrc => ?_, ?_⟩,
      fun hnone => ?_⟩
    · rintro rfl
      rw [hstart, updStart_package false hw]
    · rintro rfl
      rw [hstart, updStart_image false hw]
    · rw [hcommit, updCommit_badCrc hx hh hbody hw hcrc]
    · have hgood := hcommit.trans (congrArg Host.Outcome.next (updCommit_good hx hh hbody hw hlen hbodyLen hcrc))
      refine ⟨fun hp => hgood.trans (congrArg Host.Outcome.next (if_neg (by simp [hp]))),
        fun hp hnode => hgood.trans (congrArg Host.Outcome.next ((if_pos hp).trans (if_pos hnode))),
        fun hp hnode => hgood.trans (congrArg Host.Outcome.next ((if_pos hp).trans (if_neg (by simp [hnode]))))⟩
    · rw [habort, updAbort_upload hx hw]
    · rw [hcommit, habort, updCommit_none hnone, updAbort_none hnone]
      exact ⟨rfl, rfl⟩
  case package => rw [hdata, updData_package _ hx hp]
  case image =>
    have hlen4 : x.bytes.length + (leBytes 4 value.toNat).length ≤ 0x3000000 := by rw [leBytes_four_length]; exact hroom
    rw [hdata, updData_image hx hp hlen hlen4]
  case shadow =>
    rw [hedit]
    refine ⟨fun hclosed => congrArg Host.Outcome.next (shrWrite_closed hclosed), fun hopen => ⟨fun x hx => ?_, fun x hreg hx => ?_,
      fun hreg hq => ?_⟩⟩
    · rw [shrWrite_register ha hopen hx]
    · rw [shrWrite_quiesce ha hopen hreg hx]
    · rw [shrWrite_locked ha hopen hreg hq]
      rfl

/-! Swaps (R375 to R381) -/

section
variable {s w : State} {k : SwapKind} {at_ : Bool} (hw : w = s.closeAll)
include hw

/-- A request while another one runs is only logged. -/
theorem swapRequest_busy (hbusy : w.cfg.check.isSome = true ∨ w.cfg.pending.isSome = true ∨ w.cfg.stage.isSome = true) :
    s.swapRequest k at_ = (w.logEvent 0x0181 (if w.fb Fd.POR_STAT_HOLDUP then 6 else 7)).emit (.msix 1) := by
  have hlog (code : Nat) : w.requestRefused code = (w.logEvent 0x0181 (BitVec.ofNat 32 code)).emit (.msix 1) := if_pos hbusy
  rw [State.swapRequest, ← hw]
  by_cases hup : w.fb Fd.POR_STAT_HOLDUP = true
  · simp only [if_pos hup]
    exact hlog 6
  · simp only [if_neg hup]
    exact (if_pos hbusy).trans (hlog 7)

section
variable (hcheck : w.cfg.check = none) (hpend : w.cfg.pending = none) (hstage : w.cfg.stage = none)
include hcheck hpend hstage

theorem swapRequest_holdup (hup : w.fb Fd.POR_STAT_HOLDUP = true) : s.swapRequest k at_ = w.swapRefused 6 := by
  have hfree : ¬ (w.cfg.check.isSome = true ∨ w.cfg.pending.isSome = true ∨ w.cfg.stage.isSome = true) := by
    simp [hcheck, hpend, hstage]
  rw [State.swapRequest, ← hw]
  exact (if_pos hup).trans (if_neg hfree)

section
variable (hup : w.fb Fd.POR_STAT_HOLDUP = false)
include hup

/-- What a request meets while none runs and no hold-up does. -/
theorem swapRequest_free : s.swapRequest k at_ =
    if 2 ≤ w.role then w.swapRefused 8
    else if k = .revert ∧ !w.cfg.intact then w.swapRefused 9
    else ((({ w with cfg := { w.cfg with check := some {
      kind := k, at_ := at_, tick := (w.rd64 Reg.CFG_SWAP_TICK_LO Reg.CFG_SWAP_TICK_HI).toNat, since := w.raw } } } :
        State).set0 Fd.CFG_SWAP_STAT_STATE 1).set0 Fd.CFG_SWAP_STAT_CODE 0).sendShadow := by
  rw [State.swapRequest, ← hw]
  exact (if_neg (by simp [hup])).trans (if_neg (by simp [hcheck, hpend, hstage]))

end
end
end

theorem swap_exec (t : Nat) (party : Party) (at_ : Bool) (s : State) {c : Instr} {k : SwapKind}
    (hc : (c, k) ∈ [(Instr.swap t party at_, SwapKind.live), (.stagedSwap t party at_, .staged),
      (.swapRevert t party at_, .revert)]) :
    exec c s = .next (((s.clock t).hostWrite party).swapRequest k at_) := by
  simp only [List.mem_cons, List.not_mem_nil, or_false, Prod.mk.injEq] at hc
  obtain ⟨rfl, rfl⟩ | ⟨rfl, rfl⟩ | ⟨rfl, rfl⟩ := hc <;> rfl

/-- Settles O33: swap requests with their refusals, the checks, the swap and the stages. -/
theorem swaps : Obligations.Swaps := by
  unfold Obligations.Swaps
  intro t party at_ s u v w hu hv hw
  refine ⟨?request, ?cancel, ?checked, ?done, ?stages⟩
  case request =>
    intro k c hc
    have hexec : exec c s = .next (v.swapRequest k at_) := by rw [swap_exec t party at_ s hc, ← hu, ← hv]
    rw [hexec]
    refine ⟨fun hbusy => ⟨fun hup => ?_, fun hup => ?_⟩, fun hcheck hpend hstage hup => ?_,
      fun hup hcheck hpend hstage => ⟨fun hrole => ?_, fun hrole hk hint => ?_, ?_⟩⟩
    · rw [swapRequest_busy hw hbusy, if_pos hup]
    · rw [swapRequest_busy hw hbusy, if_neg (by simp [hup])]
    · rw [swapRequest_holdup hw hcheck hpend hstage hup]
    · rw [swapRequest_free hw hcheck hpend hstage hup, if_pos hrole]
    · rw [swapRequest_free hw hcheck hpend hstage hup, if_neg (Nat.not_le.2 hrole), if_pos ⟨hk, by simp [hint]⟩]
    · rintro r rfl rfl htick hsince hrole hint
      have hnot : ¬ (r.kind = .revert ∧ (!w.cfg.intact) = true) := by
        rintro ⟨hk, hno⟩
        obtain h | h := hint
        · exact h hk
        · simp [h] at hno
      rw [swapRequest_free hw hcheck hpend hstage hup, if_neg (Nat.not_le.2 hrole), if_neg hnot, ← htick, ← hsince]
  case cancel =>
    intro n hpend
    have hexec : exec (.swapCancel t party) s = .next v.swapCancel := by
      rw [hv, hu]
      rfl
    rw [hexec, State.swapCancel, hpend]
    refine ⟨fun hearly => congrArg Host.Outcome.next (if_pos (Or.inl hearly)),
      fun hlate => congrArg Host.Outcome.next (if_neg ?_)⟩
    rintro (h | ⟨h, -⟩) <;> omega
  case checked =>
    intro r hr
    have hexec : exec (.swapCheckDone t) s = execSwapCheckDone t s := rfl
    rw [hexec, execSwapCheckDone, ← hu]
    simp only [hr]
    refine ⟨fun c hc => ?_, fun hc hsent => ?_, fun hc hsent hkind => ?_, fun hc hsent hkind gs hgs => ?_⟩ <;> rw [hc]
    · exact if_pos (by simp [hsent])
    · exact (if_neg (by simp [hsent])).trans (if_neg hkind)
    · subst hgs
      exact (if_neg (by simp [hsent])).trans (if_pos hkind)
  case done =>
    intro n b hpend hbase
    have hexec : exec (.swapDone t) s = execSwapDone t s := rfl
    rw [hexec, execSwapDone, ← hu]
    simp only [hpend, hbase]
    refine ⟨fun hdue => if_pos (by simp [hdue]), fun hearly hrole => ?_⟩
    exact (if_neg (by simp [hearly])).trans (if_neg (by simp [hrole]))
  case stages =>
    intro st hst
    have hexec : exec (.stageGroupDone t) s = execStageGroupDone t s := rfl
    have hexec' : exec (.stageTmo t) s = execStageTmo t s := rfl
    rw [hexec, hexec', execStageGroupDone, execStageTmo, ← hu]
    simp only [hst]
    refine ⟨fun hnone => ?_, ?_, ?_⟩
    · rw [hnone]
    · rintro ⟨g, no⟩ hg
      rw [hg]
      exact ⟨fun hall hno => if_pos ⟨hall, hno⟩, fun hno => if_neg fun h => h.2 hno⟩
    · rintro hundo n rfl
      refine ⟨fun hlate => ⟨fun g gs hgs => ?_, fun hnone => ?_⟩, fun hearly => ?_⟩
      · refine (if_pos ⟨by simp [hundo], State.elapsed_iff.2 hlate⟩).trans ?_
        rw [State.stageUndo, hgs]
      · refine (if_pos ⟨by simp [hundo], State.elapsed_iff.2 hlate⟩).trans ?_
        rw [State.stageUndo, hnone]
        rfl
      · exact if_neg fun h => Nat.not_le.2 hearly (State.elapsed_iff.1 h.2)

end Sys2Proof.Machine
end


section
/-! SUPPORT. The Attic, the event log and the Porch's power states and supplies: O34, O35, O36. -/
namespace Sys2Proof.Machine
open Sys2Proof

/-! The Attic and the log (R382 to R394) -/

section
variable {s : State} {slot : Nat}

theorem atcStore_busy {x : Nat × Bytes × Nat} (hx : s.cfg.store = some x) :
    s.atcStore slot = s.set0 Fd.ATC_STAT_CODE 1 := if_pos (by simp [hx])

theorem atcStore_holdup (hfree : s.cfg.store = none) (hup : s.fb Fd.POR_STAT_HOLDUP = true) :
    s.atcStore slot = (s.set0 Fd.ATC_STAT_STATE 3).set0 Fd.ATC_STAT_CODE 1 :=
  (if_neg (by simp [hfree])).trans (if_pos hup)

theorem atcStore_taken (hfree : s.cfg.store = none) (hup : s.fb Fd.POR_STAT_HOLDUP = false) :
    s.atcStore slot = (({ s with cfg := { s.cfg with store := some (slot, s.atcBuf, s.raw) } } : State).set0
      Fd.ATC_STAT_STATE 1).set0 Fd.ATC_STAT_CODE 0 :=
  (if_neg (by simp [hfree])).trans (if_neg (by simp [hup]))

theorem atcRead_up {w : State} (hfree : s.cfg.store = none) (hup : s.fio.linkDown.contains 1 = false)
    (hw : w = (List.range 64).foldl (fun s' i => s'.wr Reg.ATC_BUFi [i] ((wordsOf (s.slotBytes slot)).getD i 0)) s) :
    s.atcRead slot = (w.set0 Fd.ATC_STAT_STATE 2).set0 Fd.ATC_STAT_CODE 0 := by
  rw [State.atcRead, State.atticDown, hup]
  simp only [← hw, hfree, Option.isSome_none, Bool.false_eq_true, if_false]

theorem atcRead_down (hfree : s.cfg.store = none) (hdown : s.fio.linkDown.contains 1 = true) :
    s.atcRead slot = (s.set0 Fd.ATC_STAT_STATE 3).set0 Fd.ATC_STAT_CODE 3 := by
  rw [State.atcRead, State.atticDown, hdown]
  exact (if_pos rfl).trans (if_neg (by simp [hfree]))

theorem storeResult_worn (ok : Bool) (hworn : 100000 ≤ s.freshBlock.2) : s.storeResult ok = (2, s) := if_pos hworn

theorem storeResult_ok (hfresh : s.freshBlock.2 < 100000) : s.storeResult true = (0, s.wear) :=
  (if_neg (Nat.not_le.2 hfresh)).trans (if_pos rfl)

theorem storeResult_fail (hfresh : s.freshBlock.2 < 100000) : s.storeResult false = (3, s.wear.wear.wear) :=
  (if_neg (Nat.not_le.2 hfresh)).trans (if_neg Bool.false_ne_true)

section
variable {x : Nat × Bytes × Nat} (hx : s.cfg.store = some x) (hpage : s.evt.storing = none)
include hx hpage

theorem storeDone_slot (ok : Bool) (hup : s.fio.linkDown.contains 1 = false) :
    s.storeDone ok = (s.storeResult ok).2.slotStored x.1 x.2.1 (s.storeResult ok).1 := by
  rw [State.storeDone, hpage, hx, State.atticDown, hup]
  exact if_neg Bool.false_ne_true

theorem storeDone_slotDown (ok : Bool) (hdown : s.fio.linkDown.contains 1 = true) :
    s.storeDone ok = s.slotStored x.1 x.2.1 3 := by
  rw [State.storeDone, hpage, hx, State.atticDown, hdown]
  exact if_pos rfl

end

section
variable {x : List (Nat × LogEntry) × Nat} (hx : s.evt.storing = some x)
include hx

theorem storeDone_page (ok : Bool) (hup : s.fio.linkDown.contains 1 = false) :
    s.storeDone ok = (s.storeResult ok).2.pageStored x.1 (s.storeResult ok).1 := by
  rw [State.storeDone, hx, State.atticDown, hup]
  exact if_neg Bool.false_ne_true

theorem storeDone_pageDown (ok : Bool) (hdown : s.fio.linkDown.contains 1 = true) : s.storeDone ok = s.logFail := by
  rw [State.storeDone, hx, State.atticDown, hdown]
  exact if_pos rfl

end
end

/-- Settles O34: stores and reads of the Attic, the log's pages, and the captured entries. -/
theorem atticLog : Obligations.AtticLog := by
  unfold Obligations.AtticLog
  intro t party slot s u v hu hv
  have hstore : exec (.atcStore t party slot) s = .next (v.atcStore slot.val) := by rw [hv, hu]; rfl
  have hread : exec (.atcRead t party slot) s = .next (v.atcRead slot.val) := by rw [hv, hu]; rfl
  have hdone (ok : Bool) : exec (.storeDone t ok) s = .next (u.storeDone ok) := by rw [hu]; rfl
  rw [hstore, hread]
  refine ⟨fun hfree hup => ?taken, fun hfree hup => ?holdup, fun x hx => ?busy, fun w hfree hw _ => ?read, fun x hx hpage => ?slot,
    fun x hx => ?page, fun hbusy => ?noMove, fun hidle hup => ?move, fun hdue hidle hup hfail hbucket hlost => ?writer,
    fun hdue => ?notDue, ?clear, fun e w he hw => ?entry, fun r w hr hw => ?trace⟩
  case taken => rw [atcStore_taken hfree hup]
  case holdup => rw [atcStore_holdup hfree hup]
  case busy => rw [atcStore_busy hx]
  case read => exact ⟨fun hup => by rw [atcRead_up hfree hup hw], fun hdown => by rw [atcRead_down hfree hdown]⟩
  case slot =>
    refine ⟨fun hdown ok => ?_, fun hup hfresh => ⟨?_, ?_⟩, fun hup hworn => ?_⟩ <;> rw [hdone]
    · rw [storeDone_slotDown hx hpage ok hdown]
    · rw [storeDone_slot hx hpage true hup, storeResult_ok hfresh]
    · rw [storeDone_slot hx hpage false hup, storeResult_fail hfresh]
    · rw [storeDone_slot hx hpage true hup, storeResult_worn true hworn]
  case page =>
    refine ⟨fun hup hfresh => ⟨?_, ?_⟩, fun hdown ok => ?_⟩ <;> rw [hdone]
    · rw [storeDone_page hx true hup, storeResult_ok hfresh]
    · rw [storeDone_page hx false hup, storeResult_fail hfresh]
      exact congrArg Host.Outcome.next (if_neg (by simp))
    · rw [storeDone_pageDown hx ok hdown]
  case noMove =>
    change execWearMove t s = _
    rw [execWearMove, ← hu]
    exact if_pos hbusy
  case move =>
    change execWearMove t s = _
    rw [execWearMove, ← hu]
    exact if_neg (by simp [hidle, hup])
  case writer =>
    have hruns : (u.pageDue && !u.storeBusy && !u.fb Fd.POR_STAT_HOLDUP && !u.fb Fd.EVT_STAT_LOG_FAIL &&
        decide (500 ≤ u.bucketNow)) = true := by simp [hdue, hidle, hup, hfail, hbucket]
    change ∃ w, execLogPageStore t s = _ ∧ _
    rw [execLogPageStore, ← hu]
    exact ⟨_, if_pos hruns, by simp [hlost], by simp, rfl⟩
  case notDue =>
    change execLogPageStore t s = _
    rw [execLogPageStore, ← hu]
    exact if_neg (by simp [hdue])
  case clear =>
    rw [hv, hu]
    rfl
  case entry =>
    change execEvtReadCapture t party s = _
    rw [execEvtReadCapture, ← hu, State.evtRead, he]
    subst hw
    rfl
  case trace =>
    change execTrcReadCapture t party s = _
    rw [execTrcReadCapture, ← hu, State.trcRead, hr]
    subst hw
    rfl

/-! Power states (R397 to R408) -/

section
variable {s : State} {c : Nat}

theorem porCmd_code {c : Nat} (hc : c < 8) : bits c 2 0 = c := by simp [bits, Nat.mod_eq_of_lt hc]

/-- The commands that leave Operate, and what refuses them. -/
theorem porCmd_leave (hc : c = 1 ∨ c = 2 ∨ c = 3) : s.porCmd c =
    if s.fb Fd.POR_STAT_HOLDUP then s.porRefused 1
    else if s.inTransition then s.porRefused 3
    else if !s.operating ∨ s.f Fd.CFG_STAT_BOOT ≠ 2 then s.porRefused 2
    else ((s.set0 Fd.POR_CMD_STAT_STATE 1).set0 Fd.POR_CMD_STAT_CODE 0).leaveTo
      (if c = 1 then 3 else if c = 2 then 2 else 1) := by
  have hrange : ¬ (c = 0 ∨ 4 < c) := by omega
  have hstay : c ≠ 4 := by omega
  rw [State.porCmd, porCmd_code (by omega)]
  simp only [if_neg hrange, hstay, false_and, if_false]

theorem porCmd_stay : s.porCmd 4 =
    if s.fb Fd.POR_STAT_HOLDUP then s.porRefused 1
    else if (s.awakeOver || s.por.backAt == some s.wall) then s.porRefused 2
    else if s.inTransition then s.porRefused 3
    else if !s.operating ∨ s.f Fd.CFG_STAT_BOOT ≠ 2 then s.porRefused 2
    else if s.fb Fd.POR_STAT_PROVISIONAL then
      ((s.set0 Fd.POR_STAT_PROVISIONAL 0).set0 Fd.POR_CMD_STAT_STATE 2).set0 Fd.POR_CMD_STAT_CODE 0
    else s.porRefused 2 := by
  rw [State.porCmd, porCmd_code (by omega)]
  simp

end

theorem por_exec (t : Nat) (party : Party) (s : State) {c : Instr} {k : Nat}
    (hc : (c, k) ∈ [(Instr.porListen t party, 3), (.porStandby t party, 2), (.porSleep t party, 1)]) :
    ∃ n, (n = 1 ∨ n = 2 ∨ n = 3) ∧ (if n = 1 then 3 else if n = 2 then 2 else 1) = k ∧
      exec c s = .next (((s.clock t).hostWrite party).porCmd n) := by
  simp only [List.mem_cons, List.not_mem_nil, or_false, Prod.mk.injEq] at hc
  obtain ⟨rfl, rfl⟩ | ⟨rfl, rfl⟩ | ⟨rfl, rfl⟩ := hc
  · exact ⟨1, by simp, rfl, rfl⟩
  · exact ⟨2, by simp, rfl, rfl⟩
  · exact ⟨3, by simp, rfl, rfl⟩

section
variable {s : State} {k : Nat}

theorem wake_unlisted (h : s.sourceWakes k = false) : s.wake k = s := if_pos (by simp [h])

theorem wake_first (h : s.sourceWakes k = true) (ht : s.por.target = none) (hw : s.por.waking = false) :
    s.wake k = s.acceptWake (2 ^ k) :=
  (if_neg (by simp [h])).trans ((if_neg (by simp [ht])).trans (if_neg (by simp [hw])))

theorem wake_later (h : s.sourceWakes k = true) (ht : s.por.target = none) (hw : s.por.waking = true)
    (hat : s.por.wokeAt ≠ s.wall) : s.wake k = s :=
  (if_neg (by simp [h])).trans ((if_neg (by simp [ht])).trans ((if_pos hw).trans (if_neg hat)))

theorem wake_same {m : Nat} (h : s.sourceWakes k = true) (ht : s.por.target = none) (hw : s.por.waking = true)
    (hat : s.por.wokeAt = s.wall) (hm : m = s.por.srcs ||| 2 ^ k) : s.wake k =
      ({ s with por := { s.por with srcs := m, want := s.por.want ||| s.sourceInh k } } : State).set0
        Fd.POR_STAT_WAKE_SRC m := by
  subst hm
  exact (if_neg (by simp [h])).trans ((if_neg (by simp [ht])).trans ((if_pos hw).trans (if_pos hat)))

end

/-- Settles O35: power commands, the entry to a state, wake sources and their limits. -/
theorem powerStates : Obligations.PowerStates := by
  unfold Obligations.PowerStates
  intro t party s u v hu hv
  have hstay : exec (.porStay t party) s = .next (v.porCmd 4) := by rw [hv, hu]; rfl
  have hlwake : exec (.lwakeHigh t) s = .next (u.wake 1) := by rw [hu]; rfl
  rw [hstay, hlwake, porCmd_stay]
  refine ⟨?leave, ?stay, ?stayLate, ?target, ?level, fun h => congrArg Host.Outcome.next (wake_unlisted h),
    fun h ht hw => congrArg Host.Outcome.next (wake_first h ht hw), fun h ht hw => ⟨fun hat => ?later, fun hat m hm => ?same⟩,
    fun hn hop hat => ?timer, fun hn => ?noTimer, fun hprov ht => ⟨fun hq hat => ?falseWake, fun hq => ?qualified, ?awake⟩, ?mask⟩
  case leave =>
    intro c k hck
    obtain ⟨n, hn, hk, hexec⟩ := por_exec t party s hck
    rw [hexec, ← hu, ← hv, porCmd_leave hn, hk]
    refine ⟨fun hup => ?_, fun hup htr => ?_, fun hup htr hop => ?_, fun hup htr hop hboot => ?_⟩
    · rw [if_pos hup]
    · rw [if_neg (by simp [hup]), if_pos htr]
    · rw [if_neg (by simp [hup]), if_neg (by simp [htr]), if_pos (by simp [hop])]
    · rw [if_neg (by simp [hup]), if_neg (by simp [htr]), if_neg (by simp [hop, hboot])]
  case stay =>
    intro hup htr hop hboot
    refine ⟨fun hprov hawake hback => ?_, fun hprov => ?_⟩
    · rw [if_neg (by simp [hup]), if_neg (by simp [hawake, hback]), if_neg (by simp [htr]), if_neg (by simp [hop, hboot]),
        if_pos hprov]
    · simp [hup, htr, hop, hboot, hprov]
  case stayLate =>
    intro hup hlate
    rw [if_neg (by simp [hup]), if_pos (by simpa using hlate)]
  case target =>
    intro x hx
    have hreach : exec (.stateReached t) s = execStateReached t s := rfl
    refine ⟨fun hst hat => ?_, fun hst => ?_, ?_⟩
    · change execStateEntry t s = _
      have hdue : u.entryDue = some x.1 := by
        rw [State.entryDue, hx]
        exact if_pos ⟨hst, Or.inr (Or.inr hat)⟩
      rw [execStateEntry, ← hu]
      simp only [hdue]
    · rw [hreach, execStateReached, ← hu]
      simp only [hx]
      exact if_neg hst
    · rintro w hst hx1 hheld rfl hcmd y rfl
      have hsleep : x.1 ≠ 1 := by omega
      rw [hreach, execStateReached, ← hu]
      simp only [hx]
      refine (if_pos hst).trans ?_
      simp only [if_neg hcmd, if_neg hsleep, if_pos hheld]
  case level =>
    intro level
    refine ⟨fun hne => ?_, fun heq => ?_⟩ <;> change execWakeInLevel t level s = _ <;> rw [execWakeInLevel, ← hu] <;>
      refine congrArg Host.Outcome.next ?_
    · exact if_pos (by simpa using hne)
    · exact if_neg (by simp [heq])
  case later => rw [wake_later h ht hw hat]
  case same => rw [wake_same h ht hw hat hm]
  case timer =>
    change execWakeTimer t s = _
    rw [execWakeTimer, ← hu]
    exact congrArg Host.Outcome.next (if_pos ⟨hn, by simp [hop], State.elapsedW_iff.2 hat⟩)
  case noTimer =>
    change execWakeTimer t s = _
    rw [execWakeTimer, ← hu]
    exact congrArg Host.Outcome.next (if_neg fun h => h.1 hn)
  case falseWake =>
    change execFalseWake t s = _
    rw [execFalseWake, ← hu]
    exact if_pos ⟨hprov, by simp [ht], by simp [hq], State.elapsedW_iff.2 hat⟩
  case qualified =>
    change execFalseWake t s = _
    rw [execFalseWake, ← hu]
    exact if_neg (by simp [hq])
  case awake =>
    rintro n w hn hat hw
    have hover : u.awakeOver = true := by simp [State.awakeOver, hn, hprov, ht, State.elapsedW, hat]
    change execAwakeLimit t s = _
    rw [execAwakeLimit, ← hu]
    refine (if_pos hover).trans ?_
    rw [← hw]
    rfl
  case mask =>
    intro w hw hat
    change execMaskCycleEnd t s = _
    rw [execMaskCycleEnd, ← hu]
    simp only [hw]
    exact if_pos (State.elapsedW_iff.2 hat)

/-! Supplies (R395, R396, R442 to R450) -/

/-- Settles O36: hold-up, the monitor, the core voltage, the rails and the retention limit. -/
theorem supplies : Obligations.Supplies := by
  unfold Obligations.Supplies
  intro t s u hu
  have hend : exec (.holdupEnd t) s = execHoldupEnd t s := rfl
  have hstart : exec (.holdupStart t) s = execHoldupStart t s := rfl
  refine ⟨fun v hup hv => ⟨fun hop hres => ?begins, fun hst hop => ?asleep⟩, fun hup => ⟨?begun, ?ends⟩, fun hup => ?notEnds,
    ?vmonLow, ?vmonUp, fun w hw hact hat htr hboot hop => ?vmonAct, fun hnone => ?vmonNone,
    fun target p v hp hv hlow hhigh => ?avs, fun target p v hp hclip hv hwait => ?avsClip, ?avsGood, ?avsPmbus,
    fun w v hw hat hv => ?avsFault, fun w k up hw hrel => ?step, fun mask w v hw hrel => ?rails, fun w hw hat => ?retry,
    ?thermal, ?retention⟩
  case begins =>
    subst hv
    rw [hstart, execHoldupStart, ← hu]
    exact (if_neg (by simp [hup])).trans (if_pos ⟨Or.inl hop, by simp [hres]⟩)
  case asleep =>
    have hoff : ¬ ((u.operating = true ∨ u.f Fd.POR_STAT_STATE = 3) ∧ (!u.por.inReset) = true) := by
      rintro ⟨h | h, -⟩
      · simp [hop] at h
      · omega
    subst hv
    rw [hstart, execHoldupStart, ← hu]
    exact (if_neg (by simp [hup])).trans (if_neg hoff)
  case begun =>
    rw [hstart, execHoldupStart, ← hu]
    exact if_pos hup
  case ends =>
    rw [hend, execHoldupEnd, ← hu]
    exact if_pos hup
  case notEnds =>
    rw [hend, execHoldupEnd, ← hu]
    exact if_neg (by simp [hup])
  case vmonLow =>
    rw [hu]
    rfl
  case vmonUp =>
    rw [hu]
    rfl
  case vmonAct =>
    change execVmonAction t s = _
    rw [execVmonAction, ← hu]
    simp only [hw]
    exact if_pos ⟨hact, State.elapsedW_iff.2 hat, by simp [htr], Or.inl hop, hboot⟩
  case vmonNone =>
    change execVmonAction t s = _
    rw [execVmonAction, ← hu]
    simp only [hnone]
  case avs =>
    have hin : ¬ (target.toNat < p.f Fd.POR_AVS_CFG_VMIN ∨ p.f Fd.POR_AVS_CFG_VMAX < target.toNat) := by omega
    have hexec (waits : Bool) : exec (.avsUpdate t target waits) s = if waits = true ∨ v.fb Fd.POR_AVS_STAT_FREQ_WAIT = true then
        .next (({ v with por := { v.por with avsAt := some v.wall } } : State).set0 Fd.POR_AVS_STAT_FREQ_WAIT 1)
        else .next v := by
      change execAvsUpdate t target waits s = _
      rw [execAvsUpdate, ← hu, ← hp]
      simp only [if_neg hin, if_neg (Nat.not_lt.2 hlow), if_neg (Nat.not_lt.2 hhigh), ← hv]
    exact ⟨fun hwait => (hexec false).trans (if_neg (by simp [hwait])), (hexec true).trans (if_pos (Or.inl rfl))⟩
  case avsClip =>
    change execAvsUpdate t target false s = _
    rw [execAvsUpdate, ← hu, ← hp]
    simp only [if_pos hclip, if_pos (Or.inl hclip : target.toNat < p.f Fd.POR_AVS_CFG_VMIN ∨
      p.f Fd.POR_AVS_CFG_VMAX < target.toNat), ← hv]
    exact if_neg (by simp [hwait])
  case avsGood =>
    intro vout
    rw [hu]
    rfl
  case avsPmbus =>
    rw [hu]
    rfl
  case avsFault =>
    subst hv
    change execAvsFault t false s = _
    rw [execAvsFault, ← hu]
    simp only [hw]
    exact (if_neg Bool.false_ne_true).trans (if_pos (State.elapsedW_iff.2 hat))
  case step =>
    have hexec : exec (.inhStep t) s = execInhStep t s := rfl
    have hdue (hat : w + 2000000 ≤ u.wall) : (u.elapsedW w 2000000 && u.por.released.isNone) = true := by
      simp [State.elapsedW, hat, hrel]
    refine ⟨fun hearly => ?_, ?_, fun hat hnext => ?_⟩
    · rw [hexec, execInhStep, ← hu]
      simp only [hw]
      exact if_neg (by simp [State.elapsedW, Nat.not_le.2 hearly])
    · rintro v hat hnext rfl
      refine ⟨fun hup => ?_, fun hup => ?_⟩ <;> rw [hexec, execInhStep, ← hu] <;> simp only [hw] <;>
        refine (if_pos (hdue hat)).trans ?_ <;> rw [hnext, hup] <;> rfl
    · rw [hexec, execInhStep, ← hu]
      simp only [hw]
      refine (if_pos (hdue hat)).trans ?_
      rw [hnext]
  case rails =>
    have hexec : exec (.railTimeout t mask) s = execRailTimeout t mask s := rfl
    refine ⟨fun hat hmask hv hinh => ?_, fun hearly => ?_⟩ <;> rw [hexec, execRailTimeout, ← hu] <;> simp only [hw]
    · rw [hinh] at hv
      refine (if_pos ⟨State.elapsedW_iff.2 hat, by simp [hrel], hmask⟩).trans ?_
      rw [← hv]
    · exact if_neg fun h => Nat.not_le.2 hearly (State.elapsedW_iff.1 h.1)
  case retry =>
    change execRailRetry t s = _
    rw [execRailRetry, ← hu]
    simp only [hw]
    exact if_pos (State.elapsedW_iff.2 hat)
  case thermal =>
    rw [hu]
    rfl
  case retention =>
    rw [hu]
    rfl

end Sys2Proof.Machine
end


section
/-! SUPPORT. Resets and start-up: O37. -/
namespace Sys2Proof.Machine
open Sys2Proof

/-! What a reset keeps and clears (R15, R16, R365, R374) -/

/-- State v stands after a reset of state u: what is kept, what is cleared. -/
def AfterReset (u v : State) : Prop :=
  v.pending = u.pending ∧ v.wall = u.wall ∧ v.gasp = u.gasp ∧ v.boots = u.boots + 1 ∧ v.cfg.xspi = u.cfg.xspi ∧
    v.cfg.slots = u.cfg.slots ∧ v.cfg.log = u.cfg.log ∧ v.ready = false ∧ v.tke = {} ∧ v.ldr = {} ∧ v.tu = {}

section
variable {u v : State}

theorem AfterReset.sf (h : AfterReset u v) (x : Fld) (ix : List Nat) (n : Nat) : AfterReset u (v.sf x ix n) := h

theorem AfterReset.set0 (h : AfterReset u v) (x : Fld) (n : Nat) : AfterReset u (v.set0 x n) := h

theorem AfterReset.einReset (h : AfterReset u v) : AfterReset u v.einReset := h

theorem AfterReset.showLs (h : AfterReset u v) (n : Nat) : AfterReset u (v.showLs n) := by
  rw [State.showLs, State.told]
  split
  · exact (h.sf _ _ _).sf _ _ _
  · exact h

theorem AfterReset.foldl_showLs (l : List Nat) (h : AfterReset u v) : AfterReset u (l.foldl State.showLs v) := by
  induction l generalizing v with
  | nil => exact h
  | cons n l ih => exact ih (h.showLs n)

end

theorem afterReset_keeps (u : State) (off sleep rws hold : Bool) : AfterReset u (u.afterReset off sleep rws hold) := by
  unfold State.afterReset
  extract_lets s0 s1 fresh s2 s3 s3' s4
  have hfresh : AfterReset u fresh := ⟨rfl, rfl, rfl, rfl, rfl, rfl, rfl, rfl, rfl, rfl, rfl⟩
  have h2 : AfterReset u s2 := ((hfresh.set0 _ _).set0 _ _).set0 _ _
  have h3 : AfterReset u s3 := (h2.set0 _ _).set0 _ _
  have h3' : AfterReset u s3' := h3.foldl_showLs _
  have h4 : AfterReset u s4 := ((h3'.set0 _ _).set0 _ _).set0 _ _
  split
  · exact h3'.einReset
  · split
    · exact (h4.set0 _ _).einReset
    · exact h4.einReset

/-! Start-up (R364, R365) -/

theorem bootSeed_awake {s : State} (hst : s.f Fd.POR_STAT_STATE ≠ 1) : s.bootSeed = none := if_neg fun h => hst h.2

theorem bootFrom_copy {s : State} {mode c : Nat} {cs : List Nat} (hc : cs.find? s.copyOk = some c) :
    s.bootFrom mode cs = (s.loadCopy c (cs.head? != some c)).writeDies.startPorts.celKeyReq.gaspCopy := by
  rw [State.bootFrom, hc]

theorem bootFrom_none (s : State) (mode : Nat) :
    s.bootFrom mode [] = (s.set0 Fd.CFG_STAT_FALLBACK 0).fencedSafe (if mode = 1 then 2 else 1) := rfl

theorem blockReset_refused {s : State} {b : Nat} (h : acceptsReset b = false) : s.blockReset b = s := if_pos (by simp [h])

theorem blockReset_plain {s : State} {b : Nat} (h : acceptsReset b = true) (hpend : s.cfg.pending = none)
    (hcheck : s.cfg.check = none) : s.blockReset b = ((s.blockClear b).closeBlock b).blockRuntime b := by
  have hno : ¬ (s.cfg.pending.isSome = true ∨ s.cfg.check.isSome = true) := by simp [hpend, hcheck]
  refine (if_neg (by simp [h])).trans ?_
  simp only [if_neg hno]

/-- Settles O37: every kind of reset, the release and READY, and what a reset keeps. -/
theorem resets : Obligations.Resets := by
  unfold Obligations.Resets
  intro t party mode side s u hu
  have hcommand : exec (.consistCommandedReset t mode side) s = execConsistCommandedReset t mode side s := rfl
  have hrelease : exec (.resetRelease t mode side) s = execResetRelease t mode side s := rfl
  have hthermal : exec (.thermalReset t) s = execThermalReset t s := rfl
  refine ⟨?power, ?pin, fun v hv => ?host, fun n hn => ⟨fun b hb hat => ?due, fun hearly => ?early⟩, fun hin => ?free,
    fun v cs hin hst hv hcs => ⟨fun c hc => ?copy, fun hnone => ?none⟩, fun b v hv => ⟨fun h => ?refused, fun h hp hc => ?block⟩,
    fun partner => ⟨fun hwait => ?wait, fun hin hcal hboot => ⟨fun hw => ?ready, fun hw => ?woken⟩⟩, ?vka,
    fun mask hmask hst hin => ?rail, fun hin => ?hot, fun hin => ?held, fun off sleep rws hold v hv => ?keeps⟩
  case power =>
    rw [hu]
    rfl
  case pin =>
    rw [hu]
    rfl
  case host =>
    rw [hv, hu]
    rfl
  case due =>
    rw [hcommand, execConsistCommandedReset, ← hu]
    simp only [hn]
    exact if_pos ⟨by simp [hb], hat⟩
  case early =>
    rw [hcommand, execConsistCommandedReset, ← hu]
    simp only [hn]
    exact if_neg fun h => Nat.not_le.2 hearly h.2
  case free =>
    rw [hrelease, execResetRelease, ← hu]
    exact if_neg (by simp [hin])
  case copy =>
    rw [hrelease, execResetRelease, ← hu]
    refine (if_pos ⟨hin, Or.inl hst⟩).trans ?_
    rw [State.startUp, bootSeed_awake hst, ← hv, ← hcs, bootFrom_copy hc]
  case none =>
    rw [hrelease, execResetRelease, ← hu]
    refine (if_pos ⟨hin, Or.inl hst⟩).trans ?_
    rw [State.startUp, bootSeed_awake hst, ← hv, ← hcs, hnone, bootFrom_none]
  case refused =>
    have hexec : exec (.perBlockReset t party b) s = .next (v.blockReset b.toNat) := by rw [hv, hu]; rfl
    rw [hexec, blockReset_refused h]
  case block =>
    have hexec : exec (.perBlockReset t party b) s = .next (v.blockReset b.toNat) := by rw [hv, hu]; rfl
    rw [hexec, blockReset_plain h hp hc]
  case wait =>
    change execReadyRise t partner s = _
    rw [execReadyRise, ← hu]
    exact if_pos (by simpa using hwait)
  case ready =>
    change execReadyRise t partner s = _
    rw [execReadyRise, ← hu]
    refine (if_neg (by simp [hin, hcal])).trans ((if_pos hboot).trans ?_)
    rw [if_neg (by simp [hw])]
  case woken =>
    change execReadyRise t partner s = _
    rw [execReadyRise, ← hu]
    refine (if_neg (by simp [hin, hcal])).trans ((if_pos hboot).trans ?_)
    rw [if_pos hw]
  case vka =>
    rw [hu]
    rfl
  case rail =>
    change execRailFault t mask s = _
    rw [execRailFault, ← hu]
    exact if_pos ⟨hmask, hst, by simp [hin]⟩
  case hot =>
    rw [hthermal, execThermalReset, ← hu]
    exact if_neg (by simp [hin])
  case held =>
    rw [hthermal, execThermalReset, ← hu]
    exact if_pos hin
  case keeps =>
    rw [hv]
    exact afterReset_keeps u off sleep rws hold

end Sys2Proof.Machine
end


section
/-! SUPPORT. Register accesses and their words: O38. -/
namespace Sys2Proof.Machine
open Sys2Proof

/-! Writes of a register (R11, R12, R405, R421) -/

section
variable {s : State} {p : Party} {a : Nat} {r : RegDesc} {ix : List Nat} {en v : BitVec 32}

theorem writeReg_unreached (h : s.reaches a = false) : s.writeReg p a en v = s := by
  simp [State.writeReg, h]

theorem writeReg_register (h : s.reaches a = true) (hreg : regAt a = some (r, ix)) : s.writeReg p a en v =
    ((s.serve p a).commandWrite p r ix a (s.enabledWord r ix en v)).getD
      (if s.superseded p a && !s.lockedAt a then (s.serve p a).earlierWrite r ix (s.enabledWord r ix en v)
        else (s.serve p a).plainWrite p r ix a (s.enabledWord r ix en v)) := by
  simp [State.writeReg, h, hreg]

/-- A sealed field is refused (R421). -/
theorem plainWrite_locked (hl : s.lockedAt a = true) (w : BitVec 32) :
    s.plainWrite p r ix a w = (s.wr r ix (writtenWord r true (s.rd r ix) w)).lockedWrite a := by
  simp [State.plainWrite, hl]

/-- A register that is no upper word of a written pair is written alone. -/
theorem plainWrite_alone (hl : s.lockedAt a = false) (hlow : writtenPairs.any r.is = false)
    (hup : writtenPairs.all (fun q => q.base + 4 != r.base) = true) (w : BitVec 32) :
    s.plainWrite p r ix a w = s.wr r ix (writtenWord r false (s.rd r ix) w) := by
  refine plainWrite_single hl ?_ p ix w
  rw [List.all_eq_true] at hup ⊢
  rw [List.any_eq_false] at hlow
  intro q hq
  have hne : q.is r = false := beq_eq_false_iff_ne.2 fun h => hlow q hq (beq_iff_eq.2 h.symm)
  rw [hup q hq, hne]
  rfl

/-- An upper word of a written pair stores the lower word that waits with it. -/
theorem plainWrite_waiting (hl : s.lockedAt a = false) (hlow : writtenPairs.any r.is = false) {q : RegDesc}
    (hq : q ∈ writtenPairs) (hbase : q.base + 4 = r.base) {lo : BitVec 32}
    (hlo : Tab.get none s.pairLow (partyKey p (a - 4)) = some lo) (w : BitVec 32) {y : State}
    (hy : y = s.wr r ix (writtenWord r false (s.rd r ix) w)) : s.plainWrite p r ix a w =
      ({ y with pairLow := Tab.set none s.pairLow (partyKey p (a - 4)) none } : State).wr q ix lo := by
  obtain ⟨hfind, -⟩ := writtenPairs_upper q hq
  rw [hbase] at hfind
  simp [State.plainWrite, hl, hlow, hfind, hlo, hy]

end

/-! Reads of a register (R11, R12, R421) -/

section
variable {s : State} {p : Party} {a : Nat} {r : RegDesc} {ix : List Nat}

theorem partyRead_unreached (h : s.reaches a = false) :
    s.partyRead p a = s.drawFree.2.emit (.read p a (BitVec.ofNat 32 s.drawFree.1.toNat)) := by
  simp [State.partyRead, State.readReg, h]

/-- Registers whose clearing read does more than clear their fields. -/
def uartReads : List RegDesc := [Reg.UAn_STAT, Reg.UAn_DATA]

theorem readClears_fields (h : ∀ x ∈ uartReads, r.is x = false) (s : State) :
    s.readClears p r ix = s.wr r ix (clearRc r (s.rd r ix)) := by
  simp [State.readClears, h Reg.UAn_STAT (by decide), h Reg.UAn_DATA (by decide)]

/-- What a read of register r leaves: a party that takes its fields clears the RC ones. -/
def State.afterRead (y : State) (p : Party) (r : RegDesc) (ix : List Nat) : State :=
  if partyTakes p then y.wr r ix (clearRc r (y.rd r ix)) else y

/-- A read of a register that draws no free value returns the captured word, or else the present one. -/
theorem partyRead_register (h : s.reaches a = true) (hreg : regAt a = some (r, ix))
    (hspecial : ∀ x ∈ specialReads, r.is x = false) (huart : ∀ x ∈ uartReads, r.is x = false) {x : State}
    (hx : s.readCaptures p r ix a = x) : s.partyRead p a =
      ((x.dropCapture p a).afterRead p r ix).emit (.read p a ((x.captured p a).getD (x.busWord p a))) := by
  cases hp : partyTakes p <;>
    simp [State.partyRead, State.readReg, State.afterRead, h, hreg, hp, measure_plain hspecial, hx,
      readClears_fields huart]

/-- Counters that a read clears and that are no word of a pair. -/
def clearedCounters : List RegDesc :=
  [Reg.CST_FAIL_CNT, Reg.CST_BAD_FRAME, Reg.CST_ROUNDS, Reg.ASD_LEASE_CNT, Reg.POR_HOLD_CNT, Reg.GEN_LOCKED_CNT]

theorem clearedCounters_plain : ∀ r ∈ clearedCounters,
    (∀ x ∈ specialReads, r.is x = false) ∧ (∀ x ∈ uartReads, r.is x = false) ∧ r.isLow = false := by decide +kernel

theorem lowWords_uart : ∀ r ∈ lowWords, ∀ x ∈ uartReads, r.is x = false := by decide +kernel

end

/-- Settles O38: each access is the write or the read of its register. -/
theorem registerAccess : Obligations.RegisterAccess := by
  unfold Obligations.RegisterAccess
  intro t party addr value en s u v z a hu hv ha hz
  have hwrite : exec (.registerWrite t party addr value en) s = .next (v.writeReg party a (byteMask en) value) := by
    rw [hv, hu, ha]; rfl
  have hread : ∀ c : Instr, c = .rcRead t party addr ∨ c = .lowWordCapture t party addr →
      exec c s = .next (u.partyRead party a) := by
    rintro c (rfl | rfl) <;> rw [hu, ha] <;> rfl
  refine ⟨fun h => ?lostWrite, fun h c hc => ?freeRead, fun hreg hout => ⟨?unmappedWrite, fun h => ?unmappedRead⟩,
    fun r ix w h hreg hw => ⟨fun x hx => ?command, fun hcmd => ?fields⟩,
    fun r ix h hreg hlow => ⟨fun x y hc hx hxc hy => ?lowWord, fun c y hc hy => ?captured⟩,
    fun r ix h hreg hr hc y hy => ?counter, fun x c bs y hx hop => ?bridgeRead, fun x c bs y hx hop => ?bridgeWrite⟩
  case lostWrite => rw [hwrite, writeReg_unreached h]
  case freeRead => rw [hread c hc, partyRead_unreached h]
  case unmappedWrite => rw [hwrite, writeReg_unmapped hreg hout]
  case unmappedRead => rw [hread _ (Or.inl rfl), State.partyRead, readReg_unmapped hreg hout u party _ h]
  case command => rw [hwrite, writeReg_register h hreg, ← hz, ← hw, hx]; rfl
  case fields =>
    have hlocks : z.lockedAt a = v.lockedAt a := by rw [hz]; rfl
    have hplain : v.superseded party a = false ∨ v.lockedAt a = true →
        exec (.registerWrite t party addr value en) s = .next (z.plainWrite party r ix a w) := by
      rintro hor
      have hno : (v.superseded party a && !v.lockedAt a) = false := by rcases hor with h | h <;> simp [h]
      rw [hwrite, writeReg_register h hreg, ← hz, ← hw, hcmd, hno]
      rfl
    refine ⟨fun hsup hl => ?_, fun hl => ?_, fun hsup hl hr => ?_, fun hsup hl hlow => ⟨fun hup => ?_, fun q lo hq hbase hlo y hy => ?_⟩⟩
    · have hyes : (v.superseded party a && !v.lockedAt a) = true := by simp [hsup, hl]
      rw [hwrite, writeReg_register h hreg, ← hz, ← hw, hcmd, hyes]
      rfl
    · rw [hplain (Or.inr hl), plainWrite_locked (hlocks.trans hl)]
      rfl
    · rw [hplain (Or.inl hsup), plainWrite_lower hr (hlocks.trans hl)]
    · rw [hplain (Or.inl hsup), plainWrite_alone (hlocks.trans hl) hlow hup]
    · rw [hplain (Or.inl hsup), plainWrite_waiting (hlocks.trans hl) hlow hq hbase hlo w hy]
  case lowWord =>
    have hcap : u.readCaptures party r ix a = x := by
      rw [hx, readCaptures_plain (lowWords_special r hlow), if_pos ⟨isLow_of_mem hlow, by simp [hc]⟩]
    rw [hread _ (Or.inr rfl), partyRead_register h hreg (lowWords_special r hlow) (lowWords_uart r hlow) hcap, hxc, ← hy]
    rfl
  case captured =>
    have hcap := readCaptures_standing (lowWords_special r hlow) hc ix
    rw [hread _ (Or.inr rfl), partyRead_register h hreg (lowWords_special r hlow) (lowWords_uart r hlow) hcap, hc, ← hy]
    rfl
  case counter =>
    obtain ⟨hspecial, huart, hnlow⟩ := clearedCounters_plain r hr
    have hcap : u.readCaptures party r ix a = u := by
      rw [readCaptures_plain hspecial, if_neg (by simp [hnlow])]
    have hrd := hread _ (Or.inl rfl)
    rw [partyRead_register h hreg hspecial huart hcap, hc, ← hy] at hrd
    refine ⟨fun hp => ?_, fun hp => ?_⟩ <;> rw [hrd, State.afterRead, hp] <;> rfl
  case bridgeRead =>
    change execRegRead t s = _
    rw [execRegRead, ← hu]
    simp only [hx, hop]
  case bridgeWrite =>
    change execRegWrite t s = _
    rw [execRegWrite, ← hu]
    simp only [hx, hop]

end Sys2Proof.Machine
end


section
/-! SUPPORT. USB, ARP, ICMP and MGT register requests, and the test access port: O40, O41. -/
namespace Sys2Proof.Machine
open Sys2Proof

/-! USB requests (Table HST-5) -/

section
variable {t : Nat} {s u : State} (hu : u = s.clock t)
include hu

theorem exec_usbRegRead_served {addr : BitVec 32} {len : BitVec 16} (h : usbLimits addr.toNat len.toNat = true) :
    exec (.usbRegRead t addr len) s =
      .next ((u.snapshot .usb addr.toNat (len.toNat / 4)).2.emit (.usb (u.snapshot .usb addr.toNat (len.toNat / 4)).1)) := by
  change execUsbRegRead t addr len s = _
  rw [execUsbRegRead, ← hu]
  exact if_pos h

theorem exec_usbRegRead_stall {addr : BitVec 32} {len : BitVec 16} (h : usbLimits addr.toNat len.toNat = false) :
    exec (.usbRegRead t addr len) s = .next (u.emit .usbStall) := by
  change execUsbRegRead t addr len s = _
  rw [execUsbRegRead, ← hu]
  exact if_neg (by simp [h])

theorem exec_usbRegWrite_served {addr : BitVec 32} {data : Bytes} (h : usbLimits addr.toNat data.length = true) :
    exec (.usbRegWrite t addr data) s = .next (u.writeWords .usb addr.toNat (wordsOf data)) := by
  change execUsbRegWrite t addr data s = _
  rw [execUsbRegWrite, ← hu]
  exact if_pos h

theorem exec_usbRegWrite_stall {addr : BitVec 32} {data : Bytes} (h : usbLimits addr.toNat data.length = false) :
    exec (.usbRegWrite t addr data) s = .next (u.emit .usbStall) := by
  change execUsbRegWrite t addr data s = _
  rw [execUsbRegWrite, ← hu]
  exact if_neg (by simp [h])

theorem exec_imgStart_taken (target : BitVec 16) : exec (.imgStart t target 0) s =
    .next ((u.set0 Fd.CFG_UPD_CTL_TARGET target.toNat).updStart (bitAt target.toNat 0) true).usbUpload := by
  change execImgStart t target 0 s = _
  rw [execImgStart, ← hu]
  exact if_neg (not_not.2 rfl)

theorem exec_imgCommit_taken : exec (.imgCommit t 0) s = .next u.updCommit := by
  change execImgCommit t 0 s = _
  rw [execImgCommit, ← hu]
  exact if_neg (not_not.2 rfl)

theorem exec_imgAbort_taken : exec (.imgAbort t 0) s = .next u.updAbort := by
  change execImgAbort t 0 s = _
  rw [execImgAbort, ← hu]
  exact if_neg (not_not.2 rfl)

/-- An image request with data stalls. -/
theorem exec_img_stall (target : BitVec 16) {len : BitVec 16} (h : len ≠ 0) :
    exec (.imgStart t target len) s = .next (u.emit .usbStall) ∧ exec (.imgCommit t len) s = .next (u.emit .usbStall) ∧
      exec (.imgAbort t len) s = .next (u.emit .usbStall) := by
  refine ⟨?start, ?commit, ?abort⟩
  case start =>
    change execImgStart t target len s = _
    rw [execImgStart, ← hu]
    exact if_pos h
  case commit =>
    change execImgCommit t len s = _
    rw [execImgCommit, ← hu]
    exact if_pos h
  case abort =>
    change execImgAbort t len s = _
    rw [execImgAbort, ← hu]
    exact if_pos h

theorem exec_usbStatus_served {a b : BitVec 32} {x y : State} (hx : u.readReg .usb true Reg.CFG_UPD_STAT.base = (a, x))
    (hy : x.readReg .usb true Reg.HST_STAT.base = (b, y)) : exec (.usbStatus t 8) s = .next (y.emit (.usb [a, b])) := by
  change execUsbStatus t 8 s = _
  rw [execUsbStatus, ← hu]
  simp only [hx, hy]
  exact if_neg (not_not.2 rfl)

theorem exec_usbStatus_stall {len : BitVec 16} (h : len ≠ 8) : exec (.usbStatus t len) s = .next (u.emit .usbStall) := by
  change execUsbStatus t len s = _
  rw [execUsbStatus, ← hu]
  exact if_pos h

theorem exec_usbBusReset_idle (h : u.cfg.upd = none) : exec (.usbBusReset t) s = .next u := by
  change execUsbBusReset t s = _
  rw [execUsbBusReset, ← hu]
  simp only [h]

/-- A bus reset aborts the upload that came over USB, and no other (R412). -/
theorem exec_usbBusReset_upload {x : Upload} (h : u.cfg.upd = some x) :
    exec (.usbBusReset t) s = .next (if x.usb then u.updAbort else u) := by
  change execUsbBusReset t s = _
  rw [execUsbBusReset, ← hu]
  simp only [h]
  cases x.usb <;> rfl

theorem exec_ep1Data (data : Bytes) : exec (.ep1Data t data) s = .next (u.usbUpload.updData data) := by
  rw [hu]; rfl

end

theorem usbUpload_none {u : State} (h : u.cfg.upd = none) : u.usbUpload = u := by
  simp only [State.usbUpload, h]

theorem usbUpload_some {u : State} {x : Upload} (h : u.cfg.upd = some x) : u.usbUpload =
    ({ u with cfg := { u.cfg with upd := some { x with usb := true } } } : State).set0 Fd.HST_STAT_USB_UPLOAD 1 := by
  simp only [State.usbUpload, h]

theorem updData_none {u : State} (h : u.cfg.upd = none) (data : Bytes) : u.updData data = u := by
  simp only [State.updData, h]

/-! Requests over Ethernet (R413, R414) -/

section
variable {t : Nat} {s u : State} (hu : u = s.clock t)
include hu

theorem exec_arpRequest (mac : BitVec 48) (sender target : BitVec 32) : exec (.arpRequest t mac sender target) s =
    if target = u.mgtIp then .next (u.emit (.arpReply mac sender)) else .next u := by
  change execArpRequest t mac sender target s = _
  rw [execArpRequest, ← hu]

theorem exec_icmpEcho (src dst : BitVec 32) (ident n : BitVec 16) (data : Bytes) : exec (.icmpEcho t src dst ident n data) s =
    if dst = u.mgtIp then .next (u.emit (.icmpReply src ident.toNat n.toNat data)) else .next u := by
  change execIcmpEcho t src dst ident n data s = _
  rw [execIcmpEcho, ← hu]

theorem exec_mgtRegisterRequest_ignored {src dst : BitVec 32} {p : Bytes}
    (h : dst ≠ u.mgtIp ∨ u.mgtPermits src = false ∨ p.length < 16) :
    exec (.mgtRegisterRequest t src dst p) s = .next u := by
  change execMgtRegisterRequest t src dst p s = _
  rw [execMgtRegisterRequest, ← hu]
  refine if_neg ?_
  rintro ⟨hdst, hsrc, hlen⟩
  rcases h with h | h | h
  · exact h hdst
  · exact Bool.false_ne_true (h.symm.trans hsrc)
  · exact Nat.not_lt.2 hlen h

theorem exec_mgtRegisterRequest_served {src dst : BitVec 32} {p : Bytes} {v : State} (hdst : dst = u.mgtIp)
    (hsrc : u.mgtPermits src = true) (hlen : 16 ≤ p.length) (hv : u.mgtTake = (true, v)) :
    exec (.mgtRegisterRequest t src dst p) s = .next (v.mgtServe src p) := by
  change execMgtRegisterRequest t src dst p s = _
  rw [execMgtRegisterRequest, ← hu]
  refine (if_pos ⟨hdst, hsrc, hlen⟩).trans ?_
  rw [hv]
  rfl

end

/-- Settles O40: each request is served within its limits and for its own address, and otherwise stalls or is ignored. -/
theorem services : Obligations.Services := by
  unfold Obligations.Services
  intro t s u hu
  refine ⟨fun addr len => ⟨exec_usbRegRead_served hu, exec_usbRegRead_stall hu⟩,
    fun addr data => ⟨exec_usbRegWrite_served hu, exec_usbRegWrite_stall hu⟩, exec_imgStart_taken hu,
    exec_imgCommit_taken hu, exec_imgAbort_taken hu, fun target len => exec_img_stall hu target,
    fun a b x y => exec_usbStatus_served hu, fun len => exec_usbStatus_stall hu, fun data h => ⟨?noUpload, exec_usbBusReset_idle hu h⟩,
    fun x v data h => ⟨fun hv => ?upload, fun husb => ?usb, fun husb => ?host⟩,
    fun mac sender target => ⟨fun h => ?arp, fun h => ?noArp⟩, fun src dst ident n data => ⟨fun h => ?icmp, fun h => ?noIcmp⟩,
    fun src dst p => ⟨exec_mgtRegisterRequest_ignored hu, fun v => exec_mgtRegisterRequest_served hu⟩⟩
  case noUpload => rw [exec_ep1Data hu, usbUpload_none h, updData_none h]
  case upload => rw [exec_ep1Data hu, usbUpload_some h, hv]
  case usb => rw [exec_usbBusReset_upload hu h, if_pos husb]
  case host => rw [exec_usbBusReset_upload hu h, if_neg (by simp [husb])]
  case arp => exact (exec_arpRequest hu mac sender target).trans (if_pos h)
  case noArp => exact (exec_arpRequest hu mac sender target).trans (if_neg h)
  case icmp => exact (exec_icmpEcho hu src dst ident n data).trans (if_pos h)
  case noIcmp => exact (exec_icmpEcho hu src dst ident n data).trans (if_neg h)

/-! The test access port (R416) -/

section
variable {u : State} {tdi : List Bool}

/-- An instruction that drives balls selects the bypass register where it may not drive them. -/
theorem extest_bypassed (h : u.mayDrive = false) (j : Jtag) (levels : List Bool) :
    u.extest j levels tdi = (u.balls none false).bypass .bypass tdi := if_neg (by simp [h])

theorem extest_driven (h : u.mayDrive = true) (j : Jtag) (levels : List Bool) {w : State} (hw : w = u.emit (.balls j u.hst.cells)) :
    u.extest j levels tdi = ((({ w with hst := { w.hst with jtag := j, cells := tdi } } : State).balls (some tdi) false).emit
      (.tdo levels)).emit (.balls j tdi) := by
  rw [hw]
  exact if_pos h

end

/-- Settles O41: what each instruction selects, and what it drives while BOOT_MODE is 1h. -/
theorem testAccess : Obligations.TestAccess := by
  unfold Obligations.TestAccess
  intro t levels tdi s u v hu hv
  have hv' : v = u.balls none false := hv
  refine ⟨?bypass, ?idcode, ?sample, fun c j hc => ?extest, fun h => ⟨?clamp, ?highz⟩, fun h => ⟨?noClamp, ?noHighz⟩⟩
  case bypass => rw [hv', hu]; rfl
  case idcode =>
    change execIdcode t s = _
    rw [execIdcode, ← hu, ← hv']
    rfl
  case sample =>
    change execSamplePreload t levels tdi s = _
    rw [execSamplePreload, ← hu, ← hv']
  case extest =>
    have hexec : exec c s = .next (u.extest j levels tdi) := by
      simp only [List.mem_cons, Prod.mk.injEq, List.not_mem_nil, or_false] at hc
      rw [hu]
      rcases hc with ⟨rfl, rfl⟩ | ⟨rfl, rfl⟩ | ⟨rfl, rfl⟩ <;> rfl
    exact ⟨fun h => by rw [hexec, extest_bypassed h, hv'], fun h w hw => by rw [hexec, extest_driven h j levels hw]⟩
  case clamp =>
    change execClamp t tdi s = _
    rw [execClamp, ← hu]
    exact if_pos h
  case highz =>
    change execHighz t tdi s = _
    rw [execHighz, ← hu]
    exact if_pos h
  case noClamp =>
    change execClamp t tdi s = _
    rw [execClamp, ← hu, hv']
    exact if_neg (by simp [h])
  case noHighz =>
    change execHighz t tdi s = _
    rw [execHighz, ← hu, hv']
    exact if_neg (by simp [h])

end Sys2Proof.Machine
end


section
/-! SUPPORT. Host rings and their descriptors: O39. -/
namespace Sys2Proof.Machine
open Sys2Proof

/-! Doorbells, HEAD and the enable of a ring (R406, R407) -/

section
variable {t : Nat} {queue : Fin 2048} {s u : State} {r : Ring} (hu : u = s.clock t) (hr : r = u.ring queue.val)
include hu hr

theorem exec_tailWrite_posted {tail : BitVec 15} {ds : List HostDesc} (hsized : r.sized = true) (htail : tail.toNat < 2 ^ r.size)
    (hlen : ds.length = (tail.toNat + 2 ^ r.size - r.tail) % 2 ^ r.size) : exec (.tailWrite t queue tail ds) s =
      .next (u.setRing queue.val { r with tail := tail.toNat, posted := r.posted ++ ds, lease := u.strobes }) := by
  change execTailWrite t queue tail ds s = _
  rw [execTailWrite, ← hu, ← hr]
  exact if_pos ⟨hsized, htail, hlen⟩

theorem exec_tailWrite_unsized {tail : BitVec 15} {ds : List HostDesc} (h : r.sized = false) :
    exec (.tailWrite t queue tail ds) s = .next u := by
  change execTailWrite t queue tail ds s = _
  rw [execTailWrite, ← hu, ← hr]
  exact if_neg fun ⟨hsized, _⟩ => Bool.false_ne_true (h.symm.trans hsized)

theorem exec_headRead : exec (.headRead t queue) s =
    .next ((u.setRing queue.val { r with lease := u.strobes }).emit (.window queue.val 16 (BitVec.ofNat 32 r.head))) := by
  rw [hr, hu]; rfl

theorem exec_ringEnable_on {lo hi cfg : BitVec 32} (hsize : bits cfg.toNat 3 0 = r.size) (hen : bitAt cfg.toNat 31 = true) :
    exec (.ringEnable t queue lo hi cfg) s = .next ((u.dropRead queue.val).setRing queue.val { r with
      lo := lo, hi := hi, en := true, stopped := false, off := 0, cur := none, acc := [], waiting := false, lease := u.strobes }) := by
  change execRingEnable t queue lo hi cfg s = _
  rw [execRingEnable, ← hu, ← hr]
  simp [hsize, hen]

theorem exec_ringEnable_off {lo hi cfg : BitVec 32} (hsize : bits cfg.toNat 3 0 = r.size) (hen : bitAt cfg.toNat 31 = false) :
    exec (.ringEnable t queue lo hi cfg) s = .next (u.setRing queue.val { r with lo := lo, hi := hi, en := false }) := by
  change execRingEnable t queue lo hi cfg s = _
  rw [execRingEnable, ← hu, ← hr]
  simp [hsize, hen]

end

/-! The first posted descriptor (R264, R407 to R409) -/

section
variable {t : Nat} {queue : Fin 2048} {s u : State} (hu : u = s.clock t) (ecc : Ecc)
include hu

theorem exec_descriptorComplete_idle (h : (u.ring queue.val).posted = [] ∨ (u.ring queue.val).en = false) :
    exec (.descriptorComplete ⟨t, ecc⟩ queue) s = .next u := by
  change execDescriptorComplete ⟨t, ecc⟩ queue s = _
  rw [execDescriptorComplete, ← hu]
  rcases hp : (u.ring queue.val).posted with _ | ⟨d, ds⟩
  · rfl
  · have hen : (u.ring queue.val).en = false := h.resolve_left (by simp [hp])
    exact if_neg (by simp [hen])

theorem exec_descriptorComplete_posted {d : HostDesc} {ds : List HostDesc} (hp : (u.ring queue.val).posted = d :: ds)
    (hen : (u.ring queue.val).en = true) (hsized : (u.ring queue.val).sized = true) :
    exec (.descriptorComplete ⟨t, ecc⟩ queue) s =
      .next (if u.fb Fd.HST_Qs_CFG_DIR [queue.val] then u.fromHost queue.val d else u.toHost queue.val d ecc) := by
  change execDescriptorComplete ⟨t, ecc⟩ queue s = _
  rw [execDescriptorComplete, ← hu]
  simp only [hp]
  exact if_pos ⟨hen, hsized⟩

end

/-- What the write-back of a part of item i tells (Table HST-3). -/
def partInfo (i : Item) (part : Bytes) (last : Bool) : DescInfo where
  flags := 1 + 2 * b2n last + 4 * b2n (!i.poison.isEmpty) + 8 * b2n i.seqValid
  len := part.length
  seq := i.seq
  stream := i.stream
  stamp := i.stamp / 2 ^ 32
  bytes := part

section
variable {u : State} {k : Nat} {d : HostDesc} {ecc : Ecc}

theorem toHost_empty (hcur : (u.ring k).cur = none) (hhead : u.serviceHead (2048 + k) = none) : u.toHost k d ecc = u := by
  have h : (u.ring k).cur.or (u.serviceHead (2048 + k)) = none := by rw [hcur, hhead]; rfl
  simp only [State.toHost, h]

theorem toHost_noRoom {c : Nat} (hc : (u.ring k).cur.or (u.serviceHead (2048 + k)) = some c) (hlen : d.len = 0) :
    u.toHost k d ecc = u.writeBack k { status := 3 } := by
  simp only [State.toHost, hc]
  exact if_pos hlen

section
variable {c : Nat} {i : Item} {bs : Bytes} {x : DescInfo} {v w : State}
  (hc : (u.ring k).cur.or (u.serviceHead (2048 + k)) = some c) (hlen : d.len ≠ 0)
  (hv : v = (u.own (2048 + k)).readItem c ecc) (hi : i = v.item c)
  (hbs : (bs, w) = (if (u.ring k).cur.isSome then ((u.ring k).acc, v) else v.hostBytes (2048 + k) i))
  (hx : x = partInfo i (bs.take d.len) (bs.drop d.len).isEmpty)
include hc hlen hv hi hbs hx

theorem toHost_last (hfit : bs.length ≤ d.len) {y : State}
    (hy : y = ((w.removeEntry (2048 + k) c).releaseCopy c).hostDelivered i (2048 + k)) : u.toHost k d ecc =
      (y.setRing k { y.ring k with off := 0, cur := none, acc := [] }).writeBack k x := by
  have hrest : (bs.drop d.len).isEmpty = true := by rw [List.drop_eq_nil_of_le hfit]; rfl
  rw [State.toHost]
  simp only [hc]
  refine (if_neg hlen).trans ?_
  rw [← hv, ← hi, ← hbs]
  refine (if_pos hrest).trans ?_
  rw [← hy, hx]
  rfl

theorem toHost_part (hmore : d.len < bs.length) {y : State} (hy : y = w.startEntry (2048 + k) c) : u.toHost k d ecc =
    (y.setRing k { y.ring k with off := (u.ring k).off + (bs.take d.len).length, cur := some c, acc := bs.drop d.len }).writeBack
      k x := by
  have hrest : ¬ (bs.drop d.len).isEmpty = true := by simpa using hmore
  rw [State.toHost]
  simp only [hc]
  refine (if_neg hlen).trans ?_
  rw [← hv, ← hi, ← hbs]
  refine (if_neg hrest).trans ?_
  rw [← hy, hx]
  rfl

end

/-- A descriptor from the host adds its bytes to the item that it is part of. -/
theorem fromHost_part (hw : (u.ring k).waiting = false) (hoff : (u.ring k).off = 0) (hlen : d.len ≠ 0)
    (hsize : (u.ring k).acc.length + d.len ≤ 10240) (hlast : d.last = false) : u.fromHost k d =
      (u.setRing k { u.ring k with acc := (u.ring k).acc ++ d.data.take d.len }).writeBack k { len := d.len } := by
  have hok : ¬ ((u.ring k).off ≠ 0 ∨ d.len = 0 ∨ 10240 < (u.ring k).acc.length + d.len) := by omega
  rw [State.fromHost]
  refine (if_neg (by simp [hw])).trans ((if_neg hok).trans (if_pos ?_))
  rw [hlast]
  rfl

/-- A buffer of length 0, an item too long and the rest of such an item are in error. -/
theorem fromHost_error (hw : (u.ring k).waiting = false)
    (herr : (u.ring k).off ≠ 0 ∨ d.len = 0 ∨ 10240 < (u.ring k).acc.length + d.len) : u.fromHost k d =
      (u.setRing k { u.ring k with acc := [], off := b2n (!d.last) }).writeBack k
        { status := 3, flags := 1 + 2 * b2n d.last } := by
  rw [State.fromHost]
  exact (if_neg (by simp [hw])).trans (if_pos herr)

end

/-- Settles O39: each access of a ring, and what its first posted descriptor takes or gives. -/
theorem hostQueues : Obligations.HostQueues := by
  unfold Obligations.HostQueues
  rintro t queue s u k r hu rfl hr
  refine ⟨fun tail ds => ⟨exec_tailWrite_posted hu hr, exec_tailWrite_unsized hu hr⟩, exec_headRead hu hr,
    fun lo hi cfg hsize => ⟨exec_ringEnable_on hu hr hsize, exec_ringEnable_off hu hr hsize⟩, fun ecc h => ?idle,
    fun d ds ecc hp hen hsized => ⟨fun hdir => ?toHost, fun hdir hw => ?fromHost⟩⟩
  case idle => exact exec_descriptorComplete_idle hu ecc (hr ▸ h)
  all_goals
    subst hr
    rw [exec_descriptorComplete_posted hu ecc hp hen hsized, hdir]
  case toHost =>
    refine ⟨?item, fun c hc hlen => ?noRoom, fun hcur hhead => ?empty⟩
    case item =>
      rintro c i bs part ⟨_, _, _, _, _, _, _⟩ v w hc hlen hv hi hbs rfl rfl rfl rfl rfl rfl rfl
      refine ⟨?part, ?last⟩
      case part =>
        rintro hmore rfl y hy
        refine congrArg Host.Outcome.next (toHost_part hc hlen hv hi hbs ?_ hmore hy)
        have hrest : (bs.drop d.len).isEmpty = false := by simpa using hmore
        rw [partInfo, hrest]
        rfl
      case last =>
        rintro hfit rfl y hy
        refine congrArg Host.Outcome.next (toHost_last hc hlen hv hi hbs ?_ hfit hy)
        have hrest : (bs.drop d.len).isEmpty = true := by rw [List.drop_eq_nil_of_le hfit]; rfl
        rw [partInfo, hrest]
        rfl
    case noRoom => exact congrArg Host.Outcome.next (toHost_noRoom hc hlen)
    case empty => exact congrArg Host.Outcome.next (toHost_empty hcur hhead)
  case fromHost =>
    exact ⟨fun hoff hlen hsize hlast => congrArg Host.Outcome.next (fromHost_part hw hoff hlen hsize hlast),
      fun herr => congrArg Host.Outcome.next (fromHost_error hw herr)⟩

end Sys2Proof.Machine
end
